-- ==== Sys2Proof/Word.lean ====
section
/-! DEFINITION. The word types of the JF-PV2 block: bytes, 32-bit and 64-bit words, little-endian (R9). -/

namespace Sys2Proof

/-- One byte of a register, record or memory. -/
abbrev Byte := BitVec 8

/-- A 32-bit register, field or FP32 bit pattern. -/
abbrev Word := BitVec 32

/-- A 64-bit register, tick or host word. -/
abbrev DWord := BitVec 64

end Sys2Proof
end

