-- ==== Sys2Proof/Syntax.lean ====
section
/-! DEFINITION. The commands of the JF-PV2 block: one constructor of Instr per row of the opcode table,
with what the outside gives the module as operands (a descriptor's name, a register's value, the fields of a
packet, what a host read returned). -/

namespace Sys2Proof

/-- The name of a fetched descriptor: its submission ring and its ring index (R32, R46). -/
structure Ref where
  ring : Nat
  index : Word
deriving DecidableEq, Repr

/-- A target of R498: the sequencer of logical core `k` of compute die `die`, or an I/O-die engine. -/
inductive Target where
  | core (die k : Nat)
  | collective
  | hearth
  | guard
  | ember
  | host
deriving DecidableEq, Repr

/-- What the error-correcting code says of a codeword read (R179 to R182): an uncorrectable one with the symbols in error as decoded, a
miscorrected one with the data that are delivered for it. -/
inductive Ecc where
  | clean
  | corrected
  | uncorrectable (symbols : Byte)
  | miscorrected (bytes : List Byte)
deriving DecidableEq, Repr

/-- The register of a submission ring that a write names (R29). -/
inductive SringReg where
  | addr
  | cfg
  | head
  | status
deriving DecidableEq, Repr

/-- The name of a raw stream (R401): source die, destination die, destination core, STREAM_ID. -/
structure StreamKey where
  srcDie : Nat
  dstDie : Nat
  dstCore : Nat
  streamId : Nat
deriving DecidableEq, Repr

/-- The HELLO word of R299. -/
structure Hello where
  position : BitVec 14
  side : Bool
  yokeEn : Bool
  port : Byte
  kindDev : BitVec 2
  role : BitVec 2
  variant : Bool
  iodGen : BitVec 2
  state : BitVec 3
  proto : Byte
deriving DecidableEq, Repr

/-- A packet by its header fields (R300) and its payload bytes. -/
structure Packet where
  type : BitVec 4
  vc : Nat
  last : Bool
  dstSide : BitVec 2
  srcSide : Bool
  srcPos : BitVec 14
  dstPos : BitVec 14
  stream : BitVec 16
  mseq : Word
  offset : Word
  arg0 : Word
  arg1 : DWord
  payload : List Byte
deriving DecidableEq, Repr

/-- What a flit of R292 shows at the receiver: its control bits, whether its codeword decoded clean, corrected
or not at all, the lane it arrived on, and how the CRC of a packet or control word that ends in it stood. -/
structure Flit where
  fseq : BitVec 12
  replay : Bool
  idle : Bool
  laneField : Nat
  lane : Nat
  codeword : Ecc
  crcFail : Bool
  /-- FSEQ of the first flit of the earliest packet or word not yet wholly received (R293). -/
  firstOpen : BitVec 12
deriving DecidableEq, Repr

/-- A whole stage-queue entry as it reaches its receive queue (R279, R281). -/
structure EntryIn where
  srcPos : BitVec 14
  queue : Nat
  seq : Word
  fmt : Nat
  prio : Nat
  etag : BitVec 16
  payload : List Byte
  collided : Bool
deriving DecidableEq, Repr

/-- The two transports that carry SPDM (R453). -/
inductive Transport where
  | doe
  | mctp
deriving DecidableEq, Repr

/-- GET_CAPABILITIES: its transport and the requester's own capabilities (R450, R453). -/
structure CapsRequest where
  transport : Transport
  flags : Word
  ctExponent : Byte
  dataSize : Word
  maxMessage : Word
deriving DecidableEq, Repr

/-- What NEGOTIATE_ALGORITHMS offers besides SHA-384: the DMTF measurement specification and the ExtAsym entry of R451. -/
structure AlgOffers where
  dmtf : Bool
  extAsym : Bool
deriving DecidableEq, Repr

/-- SETDASA: the static address of the target that is meant, and the dynamic address that it gets (R481). -/
structure Dasa where
  static : BitVec 7
  addr : BitVec 7
deriving DecidableEq, Repr

/-- One finding of a self-test run before its outcome is judged (R439, R440): WHAT, core or unit, INDEX, DATA,
and whether a spare remains (STACK) . -/
structure Finding where
  what : Nat
  place : Nat
  core : BitVec 16
  index : Word
  data : DWord
  spare : Bool
deriving DecidableEq, Repr

/-- The measurement summary a CHALLENGE asks for (R450). -/
inductive Summary where
  | none
  | tcb
  | all
deriving DecidableEq, Repr

/-- The commands of the block, in the order of the opcode table. -/
inductive Instr where
  -- power and reset (R21, R423 to R427)
  | inputInRange (millivolts : Nat)
  | standbyReady
  | inputLoss (millivolts : Nat)
  | perstNDeassert (straps : BitVec 18) (ftRef : Bool)
  | pcieLinkUp (rate width : Nat)
  | zeroFillComplete (stack : Nat)
  | perstNAssert
  | coolantStop
  | thermalTrip (sensor : Nat)
  | coolantOkNAssert
  -- state requests (R27, R409, R429 to R432)
  | enterFull
  | fullServiceTrainingDone
  | entryStepFail (step unit : Nat)
  | enterKindling (cd0Returns : Bool)
  | enterBanked
  | clearFence
  | dieReturnDone (returned : BitVec 4)
  -- rings, descriptors and completions
  | doorbellPoll (words : Option (List Word))
  | descFetch (ring : Nat) (bytes : Option (List Byte))
  | descDispatch
  | sownRelease
  | descStart (t : Target)
  | descResume (t : Target)
  | waitTimeout (d : Ref)
  | descComplete (d : Ref)
  | completionRecordWaitEnd (cring : Nat)
  | msixModerationEnd (cring : Nat)
  | msixUnmask (vector : Nat)
  | statusPageWrite
  | cringEnable (cring : Nat) (value : Word)
  | sringCfgWrite (ring : Nat) (reg : SringReg) (value : DWord)
  | ctxBegin (ctx : Nat)
  | ctxEnd (ctx : Nat)
  | ctxAbort (ctx : Nat)
  | ctxEndFinish (ctx : Nat)
  | nop (d : Ref)
  | waitHost (d : Ref)
  | waitHostPoll (d : Ref) (word : Option DWord)
  | signalHost (d : Ref)
  -- matrix engine
  | mma (d : Ref)
  | conv (d : Ref)
  | bMma (d : Ref)
  | wMmaAccumulate (d : Ref)
  | wMmaFlush (d : Ref)
  | streamCreditTimeout (d : Ref)
  -- vector engine and raw streams
  | chainTensor (d : Ref)
  | chainDrain (d : Ref)
  | chainStream (d : Ref)
  | streamRow (k : StreamKey)
  | streamEnd (k : StreamKey)
  | streamFenced (k : StreamKey)
  | streamCredit (k : StreamKey)
  | streamWaitTimeout (d : Ref)
  -- memory
  | memReadReturn (d : Ref) (core : Nat) (addr : BitVec 44) (ecc : Ecc)
  | scrub (addr : BitVec 44) (ecc : Ecc)
  | bar2Read (offset : BitVec 34) (len : Nat) (errors : List (Nat × Ecc)) (tag : Nat)
  | bar2Write (offset : BitVec 34) (bytes : List Byte)
  -- tensor moves
  | copy (d : Ref)
  | relayout (d : Ref)
  | gather (d : Ref)
  | scatterStore (d : Ref)
  | scatterAdd (d : Ref)
  -- Hearth engines
  | heOpFill (d : Ref)
  | heOpCopy (d : Ref)
  | heOpCast (d : Ref)
  | heOpReduceAdd (d : Ref)
  | heOpScale (d : Ref)
  | heOpNorm (d : Ref)
  | heOpNormAcc (d : Ref)
  | optStep (d : Ref)
  | gateTimeout (d : Ref)
  | emberPageCopy (page : Nat)
  | emberCopyDone (page : Nat)
  -- Field Time
  | ftEpochPulse
  | epochMissTimeout
  | ftRefLoss
  | ftRefReturn
  | ftCtrlArm (value : Word)
  | ftCtrlDisarm (value : Word)
  | ftLoadWrite (value : DWord)
  | ftNowRead (offset : Nat)
  | timeReqSend (port : Nat)
  | timeReqReceive (port : Nat) (t1 : DWord) (replay : Bool)
  | timeRspReceive (port : Nat) (t1 t2 : DWord) (turn : Word) (replay : Bool)
  | timeReplyTimeout (port : Nat)
  | ftPlanEnable (plan : Nat)
  | frameBoundary
  | ftOutPulse
  | ftOutCfgWrite (value : Word)
  -- tallies, barriers and stage queues
  | tallyAdd (d : Ref) (t : Target)
  | tallySet (d : Ref) (t : Target)
  | tallyWait (d : Ref) (t : Target)
  | tallyWaitAdd (d : Ref) (t : Target)
  | tallyRead (d : Ref) (t : Target)
  | barrierArrive (d : Ref) (t : Target)
  | barrierLatchRelease (line : Nat)
  | barrierWait (d : Ref) (t : Target)
  | barrierArriveWait (d : Ref) (t : Target)
  | send (d : Ref)
  | recv (d : Ref)
  | entryReceive (e : EntryIn)
  | sqrxEnable (queue : Nat) (value : Word)
  | grantRepeat (queue : Nat)
  | grantReceive (p : Packet)
  | grantAckReceive (p : Packet)
  | qstateReceive (p : Packet)
  | sqtxCfgWrite (chan : Nat) (value : Word)
  | sqrxFlush (queue : Nat) (value : Word)
  | entryStale (queue : Nat) (seq : Word)
  | refuseReceive (p : Packet)
  -- Zubry ports
  | portEnable (port : Nat)
  | noSignalTimeout (port : Nat)
  | signalCheck (port : Nat) (signal : Bool)
  | trainingAttemptFail (port : Nat) (cause : Nat)
  | helloSend (port : Nat)
  | helloReceive (port : Nat) (h : Hello)
  | zbRetrainWrite (port : Nat)
  | laneSilence (port : Nat) (lane : Nat)
  | retrainRelock (port : Nat)
  | retrainFail (port : Nat)
  | flitReceive (port : Nat) (f : Flit)
  | ackSend (port : Nat)
  | ackReceive (port : Nat) (fseq : BitVec 12) (replay : Bool)
  | nakReceive (port : Nat) (fseq : BitVec 12) (replay : Bool)
  | replayTimeout (port : Nat)
  | nakRepeatTimeout (port : Nat)
  | creditReceive (port : Nat) (vc : Nat) (total : Word)
  | packetSend (port : Nat)
  | packetReceive (port : Nat) (p : Packet)
  | blockFree (chan : Nat) (blocks : Nat)
  | portFailover (port : Nat)
  | portReturn (port : Nat)
  -- admission
  | admitReq
  | admitCheckDone
  | admitWithdraw
  -- collectives
  | allReduce (d : Ref)
  | reduceScatter (d : Ref)
  | allGather (d : Ref)
  | broadcast (d : Ref)
  | allToAll (d : Ref)
  | put (d : Ref)
  | get (d : Ref)
  | chunkReceive (port : Nat) (p : Packet)
  | mackReceive (port : Nat) (p : Packet)
  | rwrReceive (port : Nat) (p : Packet)
  | rrdReceive (port : Nat) (p : Packet)
  | rrspReceive (port : Nat) (p : Packet)
  -- guards
  | guardReport (d : Ref)
  | guardVerdict (d : Ref)
  | verdictForm (d : Ref)
  | guardCfgWrite (value : Word)
  | guardDoneRoundWrite (value : Word)
  -- ledgers
  | ledgerAudit
  | lgSnapArm (value : Word)
  | lgSnapDisarm (value : Word)
  | ledgerSnapshot
  -- embers, sowing log and yoke pairs
  | emberOpen (d : Ref)
  | emberAbandon (d : Ref)
  | emberLoad (d : Ref) (page : Nat) (bytes : Option (List Byte))
  | emberStream
  | pageAckReceive (epoch pages : Word)
  | sealAckReceive (epoch : Word)
  | emberPacketReceive (p : Packet)
  | logPacketReceive (p : Packet)
  | sealReceive (epoch : Word)
  | logAckReceive (bytes : DWord)
  | forfeitReceive
  | pairSend
  | pairReceive (logPages : BitVec 16) (entries : BitVec 9) (variant : Bool)
  | heartbeatSend
  | heartbeatReceive (state : BitVec 4)
  | partnerLossTimeout
  | faultReceive (cause : Nat)
  | takeoverRestoreDone
  | takeoverLive
  | deposeSend
  | deposeReceive
  | resyncReceive (p : Packet)
  -- Duest links and die faults
  | duestGroupReceive (link : Nat) (gseq : Byte) (replay crcOk : Bool)
  | duestNakReceive (link : Nat) (gseq : Byte)
  | duestReplayTimeout (link : Nat)
  | sidebandWord (die : Nat) (arrived : Word) (hb clkOk valid : Bool)
  | sidebandFault (link : Nat)
  | dieLost (dies : BitVec 4) (noClock : BitVec 4)
  | dieCtrlReset (value : Word) (returns : Bool)
  -- power
  | opSet (d : Ref)
  | railPreraise (d : Ref)
  | clockWalkStep (die : Nat)
  | powerSample (millivolts watts : Nat)
  | capCeilingRaise
  | steerTick
  | droop (die : Nat)
  | tempSample (readings : List (BitVec 16))
  | thermalCeilingRaise
  | inputLow
  | inputHigh
  | inputNormal
  -- self-test
  | bistLogic (d : Ref)
  | bistSram (d : Ref)
  | bistStack (d : Ref)
  | bistArray (d : Ref)
  | bistRunEnd (sigObs : DWord) (findings : List Finding)
  -- mailboxes
  | mbPost (mb : Nat) (value : Word)
  | mctpMailboxRequest (mb : Nat) (tag : BitVec 16) (bytes : List Byte)
  | mbAck (mb : Nat) (value : Word)
  | kolnuTake (mb : Nat)
  | info (mb : Nat)
  | echo (mb : Nat)
  | fwLoad (mb : Nat)
  | mbBist (mb : Nat)
  | measExtend (mb : Nat)
  | measLog (mb : Nat)
  -- SPDM, DOE and MCTP
  | getVersion (t : Transport)
  | getCapabilities (q : CapsRequest)
  | negotiateAlgorithms (t : Transport) (offers : AlgOffers) (offersSha384 : Bool)
  | getDigests (t : Transport)
  | getCertificate (t : Transport) (slot offset len : Nat)
  | challenge (t : Transport) (slot : Nat) (summary : Summary) (nonce : List Byte)
  | getMeasurements (t : Transport) (operation : Nat) (signed : Bool) (nonce : List Byte)
  | spdmUnsupportedRequest (t : Transport) (code : Byte)
  | doeAbort
  | setEndpointId (eid : Byte)
  | getEndpointId
  | getMctpVersionSupport
  | getMessageTypeSupport
  -- I3C and JTAG
  | i3cTargetReset
  | setdasa (a : Dasa)
  | entdaa (addr : BitVec 7)
  | secSetupLockWrite (value : Word)
  | watchdogExpiry
  | bypass
  | samplePreload (shiftIn later : List Bool)
  | extest
  | idcode
  | tapReset
  -- register writes with claims
  | yokeCfgWrite (value : Word)
  | iodGpioWrite (value : Word)
  | iodWdogWrite (value : Word)
  | pwrCfgWrite (value : Word)
  | poolResvWrite (value : Word)
  | bar0UnsupportedAccess (write : Bool) (offset : Nat) (size : Nat)
  | registerWrite (offset : Nat) (size : Nat) (value : DWord)
  -- the table's later rows
  | watchdogRestart
  | managementRestartDone
  | emberHostAckRead (page : Nat)
  | peerHelloLapse (port : Nat)
  | railRecover (die : Nat)
  | doeDiscovery (index : Nat)
deriving DecidableEq, Repr

end Sys2Proof
end

