-- ==== Sys2Proof/Config.lean ====
section
/-! DEFINITION. What the spec leaves open: free values. Each is an opaque constant without a body, so that no proof
can see what it is; the assumption log names the entry of each. -/

namespace Sys2Proof.Config

/-- Log 11. A fresh free number for each draw: an order of additions, an advance of a stall counter, a choice among
candidates that a rule names. It is applied to State.freeCtr, which each draw advances. -/
opaque freePick : Nat → Nat

/-- Log 13. A free number for each place of one draw: the same draw serves every element, stage and lane of a descriptor,
each at a place of its own. -/
opaque freeAt : Nat → Nat → Nat

/-- Log 84. By how many ticks more than −2 the Field Time copy of a compute die differs from the I/O die's count at a clock of the model,
modulo 5 (R240). -/
opaque copySkew : Nat → Nat → Nat

/-- Log 14. The element code that a NaN PAD_VALUE reads as in an MXFP4 tensor, which R192 does not state. -/
opaque padNan : Nat

/-- Log 4. What the boot ROM (0), the stage 1 image (1) and its configuration block (2) hold: R442 fixes them for each boot ROM
and stage 1 release and does not state them. -/
opaque bootBytes : Nat → List Byte

/-- Log 4. The SVN and VERSION of stage 1, and whether its signature verified (R465: from boot). -/
opaque stageSvn : Byte
opaque stageVersion : Word
opaque stageSigOk : Bool

/-- Log 42. The firmware-signing public key held in the boot ROM (R446). -/
opaque fwKey : Nat × Nat

/-- Log 42. The device secret, and the private key that the security root derives from it and from measurements (R448). -/
opaque deviceSecret : List Byte
opaque deriveKey : List Byte → List Byte → Nat

/-- Log 42. The device CA's signature over the digest of the DeviceID certificate's body, and the secret number with which the alias
certificate of a boot is signed (R448). -/
opaque caSignature : List Byte → Nat × Nat
opaque aliasNonce : List Byte → Nat

/-- Log 42. What the spec leaves open of the certificates (R449): the root certificate (0) and the device CA certificate (1), the
device CA's name (9), the other attributes of a subject (10, 11), the private extension's identifier (20) and the form of its value
(21), and the certificates' serial numbers (30, 31). -/
opaque certPart : Nat → List Byte → List Byte

/-- Log 42. Jorficon's PCI vendor ID, which the spec names and does not state (R451, R453, R462). -/
opaque pciVendor : BitVec 16

/-- Log 43. The bytes that R444 hashes into SEC_MEAS5 at the entry to Kindling, from the values that it names; their layout is not
stated. -/
opaque hwBytes : List Nat → List Byte

/-- Log 93. The place of a contact of MGMT among the cells of the boundary-scan register: R482 does not give their order. -/
opaque boundaryCell : Nat → Nat

/-- Log 93. The level that the board drives on a contact of MGMT at a clock of the model; `none`: only the resistor of R473 acts. -/
opaque boardPin : Nat → Nat → Option Bool

/-- R405: the check bits of a sideband word, of a single-error-correcting code that the spec does not give (log 41). -/
opaque sidebandCheck : BitVec 34 → BitVec 8

end Sys2Proof.Config
end

