-- ==== Sys2Proof/Machine/Bits.lean ====
section
/-! DEFINITION. Bytes, fields and wrapping counters: little-endian words (R9), fields of records (R15) and
serial-number arithmetic (R12). -/

namespace Sys2Proof.Machine

/-- The low `len` bytes of a number, least significant first (R9). -/
def leBytes (len n : Nat) : List Byte :=
  (List.range len).map fun i => BitVec.ofNat 8 (n >>> (8 * i))

/-- The number that bytes spell, least significant first (R9). -/
def leNat : List Byte → Nat
  | [] => 0
  | b :: t => b.toNat + 256 * leNat t

/-- Bits [lo + len − 1:lo] of a number. -/
def bitsOf (n lo len : Nat) : Nat := (n >>> lo) % 2 ^ len

/-- Bit `i` of a number. -/
def bitOf (n i : Nat) : Bool := (n >>> i) % 2 == 1

/-- R15: the field of `len` bits from bit `lo` of the little-endian word at byte `off` of a structure. -/
def fieldAt (b : List Byte) (off lo len : Nat) : Nat := bitsOf (leNat ((b.drop off).take 8)) lo len

/-- Whether any of `n` bytes from `off` on is not 0. -/
def anySet (b : List Byte) (off n : Nat) : Bool := ((b.drop off).take n).any (· != 0)

/-- Exactly `n` bytes: the list cut, or filled up with zeros. -/
def padTo (n : Nat) (b : List Byte) : List Byte := (b ++ List.replicate n 0).take n

/-- 1 for true and 0 for false. -/
def bit (b : Bool) : Nat := if b then 1 else 0

/-- A number placed at bit `lo` of a word. -/
def at' (n lo : Nat) : Nat := n <<< lo

/-- R12: how a target stands to a current value. -/
inductive Serial where
  | reached
  | ahead (d : Nat)
  | past (d : Nat)
deriving DecidableEq, Repr

/-- R12: serial-number comparison of a 32-bit current value `c` with a target `t`. -/
def serial (c t : Word) : Serial :=
  let d := (t - c).toNat
  if d = 0 then .reached else if d ≤ 2 ^ 31 then .ahead d else .past (2 ^ 32 - d)

/-- R12: the target is reached or past. -/
def serialDone (c t : Word) : Bool :=
  match serial c t with
  | .ahead _ => false
  | _ => true

/-- R12: the target is past. -/
def serialPast (c t : Word) : Bool :=
  match serial c t with
  | .past _ => true
  | _ => false

/-- The ceiling of a quotient. -/
def ceilDiv (a b : Nat) : Nat := (a + b - 1) / b

/-- The number of set bits below `n`. -/
def popCount (w n : Nat) : Nat := ((List.range n).filter (bitOf w)).length

/-- The least index below `n` that a test holds for. -/
def firstIdx (n : Nat) (p : Nat → Bool) : Option Nat := (List.range n).find? p

/-- A value held at a largest value. -/
def hold (m n : Nat) : Nat := min m n

end Sys2Proof.Machine
end

