-- ==== Sys2Proof/Machine/Tab.lean ====
section
/-! DEFINITION. Tables of sparse data by key: sorted lists of pairs in one canonical form, with a value that
every unlisted key reads as. Memory, tallies, rings, ports and queues are held in them. -/

namespace Sys2Proof

/-- A sparse table: pairs of key and value, keys strictly rising, no pair that holds the default. -/
abbrev Tab (α : Type) := List (Nat × α)

/-- The value at a key; the default where the key is not listed. -/
def Tab.get {α : Type} (d : α) : Tab α → Nat → α
  | [], _ => d
  | (k', v) :: t, k => if k' = k then v else Tab.get d t k

/-- The table without a key. -/
def Tab.erase {α : Type} : Tab α → Nat → Tab α
  | [], _ => []
  | (k', v) :: t, k => if k' = k then Tab.erase t k else (k', v) :: Tab.erase t k

/-- The table with a pair put where the order of the keys asks for it. -/
def Tab.insert {α : Type} : Tab α → Nat → α → Tab α
  | [], k, v => [(k, v)]
  | (k', v') :: t, k, v => if k < k' then (k, v) :: (k', v') :: t else (k', v') :: Tab.insert t k v

/-- Writes the value at a key and keeps the canonical form: writing the default removes the key. -/
def Tab.put {α : Type} [DecidableEq α] (d : α) (t : Tab α) (k : Nat) (v : α) : Tab α :=
  if v = d then t.erase k else (t.erase k).insert k v

/-- Changes the value at a key by a function. -/
def Tab.upd {α : Type} [DecidableEq α] (d : α) (t : Tab α) (k : Nat) (f : α → α) : Tab α :=
  t.put d k (f (t.get d k))

/-- The canonical form: keys strictly rising and no listed default. -/
def Tab.wf {α : Type} [DecidableEq α] (d : α) : Tab α → Bool
  | [] => true
  | (k, v) :: t => decide (v ≠ d) && t.all (fun p => decide (k < p.1)) && Tab.wf d t

end Sys2Proof
end

