-- ==== Sys2Proof/Machine/State.lean ====
section
/-! DEFINITION. The state of the JF-PV2 module as plain data: every register, queue, buffer, counter, mode and pin
that the spec gives it, by unit, and State.reset. Each structure's docstring names the rules it holds state for. -/

namespace Sys2Proof.Machine

/-- R14: a statistics counter of 64 bits with its wrap count of 16 bits. -/
structure Stat where
  count : DWord
  wraps : BitVec 16
deriving DecidableEq, Repr

def Stat.reset : Stat := { count := 0, wraps := 0 }

/-- R2, R3: the two variants. -/
inductive Variant where
  | m4
  | m2
deriving DecidableEq, Repr

/-- R2, R4, R18, R107, R491: what the module was built as: variant, I/O-die generation, serial number, steppings,
core map fuses and repaired matrix rows. Self-test repairs change the fuses (R439). -/
structure Hw where
  variant : Variant
  iodGen : BitVec 2
  serial : DWord
  stepIod : Byte
  stepCd : Byte
  board : BitVec 16
  /-- per compute die: the set of physical cores that are enabled; 96 of 100 bits set -/
  coreMap : Tab (BitVec 100)
  /-- per module core number: the repaired physical row of its matrix array, 64 where none -/
  badRow : Tab Nat
  /-- per compute die: field fuses already used (R439) -/
  fuseUsed : Tab Nat
  /-- R439: per module core number: one more than the row of a field fuse entry that is not yet in use, 0 where none -/
  pendingRow : Tab Nat
deriving DecidableEq, Repr

def Hw.coreMapReset : BitVec 100 := BitVec.ofNat 100 (2 ^ 96 - 1)

def Hw.reset : Hw :=
  { variant := .m4, iodGen := 2, serial := 1, stepIod := 0, stepCd := 0, board := 1, coreMap := [], badRow := [],
    fuseUsed := [], pendingRow := [] }

/-- R20: the module states. -/
inductive Mode where
  | off
  | standby
  | kindling
  | full
  | fenced
  | banked
  | stopped
deriving DecidableEq, Repr

/-- R20: the value IOD_STATE.STATE reports for a state. -/
def Mode.code : Mode → Nat
  | .off => 0
  | .standby => 1
  | .kindling => 2
  | .full => 3
  | .fenced => 4
  | .banked => 5
  | .stopped => 6

/-- R27, R388, R409, R429: a requested transition, or the power-on entry, in progress. -/
inductive Trans where
  | none
  /-- R427: leaving Standby for Kindling; PERST_N has been deasserted -/
  | bringUp
  /-- R429: full-service training, with the clock at which it began -/
  | training (start : Nat)
  /-- R22, R432: an accepted ENTER_KINDLING, which is carried out when every event of its tick has been seen; whether a fenced CD0
  comes back -/
  | toKindling (cd0Returns : Bool)
  /-- R409: the return of fenced dies, with the clock at which it began -/
  | dieReturn (dies : BitVec 4) (start : Nat)
  /-- R388: a takeover: restoring the ember or replaying the log -/
  | takeover
deriving DecidableEq, Repr

/-- R20, R25: the module state and IOD_STATE. -/
structure ModState where
  mode : Mode
  prev : Mode
  cause : Nat
  reqReject : Bool
  /-- R25: the module has been in Kindling since it was last Off -/
  kindled : Bool
  /-- R407: bit n = 1 while CDn is fenced -/
  dieFenced : BitVec 4
  /-- the model's own: the clock at which the module entered its state -/
  entered : Nat
  trans : Trans
deriving DecidableEq, Repr

def ModState.reset : ModState :=
  { mode := .off, prev := .off, cause := 0, reqReject := false, kindled := false, dieFenced := 0, entered := 0, trans := .none }

/-- R473, R477, R479, R480: the board's levels at the module's inputs, the sampled straps and IOD_GPIO. -/
structure Pins where
  inputMv : Nat
  perstAsserted : Bool
  coolantOk : Bool
  standbyReady : Bool
  /-- R317, R477: the straps as sampled when Standby was left, and the levels that the board holds them at -/
  straps : BitVec 18
  boardStraps : BitVec 18
  ftRef : Bool
  oe0 : Bool
  oe1 : Bool
  out0 : Bool
  out1 : Bool
  ftpOe : Bool
  ftpOut : Bool
deriving DecidableEq, Repr

def Pins.reset : Pins :=
  { inputMv := 0, perstAsserted := true, coolantOk := false, standbyReady := false, straps := 0, boardStraps := 0, ftRef := false,
    oe0 := false, oe1 := false, out0 := false, out1 := false, ftpOe := false, ftpOut := false }

/-- R246: the time exchanges of one port: the last sixteen (offset and delay of each, doubled), the request under way,
and FT_PORT_TIME. -/
structure PortTime where
  /-- newest first: twice the offset and twice the delay of each exchange -/
  exchanges : List (Int × Int)
  /-- stamp t1 of the request whose reply is awaited -/
  sent : Option DWord
  lastReply : Option Nat
  offset : Word
  delay : BitVec 16
  valid : Bool
  beyond : Bool
deriving DecidableEq, Repr

def PortTime.reset : PortTime :=
  { exchanges := [], sent := none, lastReply := none, offset := 0, delay := 0, valid := false, beyond := false }

/-- R255: one entry of a slot plan. -/
structure PlanEntry where
  port : Nat
  rx : Bool
  first : Nat
  count : Nat
  peer : Nat
deriving DecidableEq, Repr

/-- R256, R257: the registers of one slot plan and the module's copy of its record. -/
structure Plan where
  addr : BitVec 44
  start : DWord
  len : Word
  period : Word
  en : Bool
  err : Nat
  errEntry : Nat
  vcMask : Byte
  entries : List PlanEntry
deriving DecidableEq, Repr

def Plan.reset : Plan :=
  { addr := 0, start := 0, len := 0, period := 0, en := false, err := 0, errEntry := 0, vcMask := 0, entries := [] }

/-- R239 to R261: Field Time: the count, its registers, time exchanges and slot plans. -/
structure FieldTime where
  ft : DWord
  headland : Byte
  slotGuard : Byte
  skewLimit : Byte
  arm : Bool
  load : DWord
  refOk : Bool
  aligned : Bool
  holdover : Bool
  epochMiss : Bool
  loadDone : Bool
  epochErr : Word
  outEn : Bool
  outSrc : Bool
  /-- R260: the model's clock at which the last pulse on FT_OUT began -/
  pulseAt : Option Nat
  lateCount : Stat
  lateMax : Word
  headCount : Stat
  collide : Stat
  /-- R261: the high half of FT_NOW latched by a 4-byte read of its low half -/
  latch : Option Word
  /-- R243: the clock at the previous FT_EPOCH pulse -/
  lastPulse : Option Nat
  ports : Tab PortTime
  plans : Tab Plan
  /-- R256: the plan that governs the present frame, and that plan as it stood at the frame's start -/
  governs : Option Nat
  ruling : Plan
  /-- R240: the count that a fenced compute die's copy has stopped at -/
  still : Tab DWord
deriving DecidableEq, Repr

def FieldTime.reset : FieldTime :=
  { ft := 0, headland := 8, slotGuard := 16, skewLimit := 16, arm := false, load := 0, refOk := false, aligned := false,
    holdover := false, epochMiss := false, loadDone := false, epochErr := 0, outEn := false, outSrc := false, pulseAt := none,
    lateCount := .reset, lateMax := 0, headCount := .reset, collide := .reset, latch := none, lastPulse := none,
    ports := [], plans := [], governs := none, ruling := .reset, still := [] }

/-- R491, R492: IOD_WDOG and the clock at which Kolnu last restarted the watchdog. -/
structure Wdog where
  en : Bool
  timeoutMs : Byte
  restart : Nat
deriving DecidableEq, Repr

def Wdog.reset : Wdog := { en := false, timeoutMs := 100, restart := 0 }

/-- R497: the claim log. The holders follow from the claimants' enables (R493). -/
structure Claims where
  conflict : Bool
  resource : Nat
  kind : Nat
  claimant : Nat
  holder : Nat
  valid : Bool
  tick : DWord
  count : Stat
deriving DecidableEq, Repr

def Claims.reset : Claims :=
  { conflict := false, resource := 0, kind := 0, claimant := 0, holder := 0, valid := false, tick := 0, count := .reset }

/-- R61, R488: one entry of the MSI-X table. -/
structure MsixEntry where
  addr : DWord
  data : Word
  masked : Bool
  pending : Bool
deriving DecidableEq, Repr

def MsixEntry.reset : MsixEntry := { addr := 0, data := 0, masked := true, pending := false }

/-- R414 to R420: the operating point, steering share and clock of one compute die. -/
structure PwrDie where
  req : Nat
  eff : Nat
  /-- R420: the steering share, from −3 to +3 -/
  share : Int
  walking : Bool
  mhz : Nat
  /-- the clock, in MHz, that the walk under way ends at -/
  goal : Nat
  /-- R415: a step of the walk has been taken -/
  stepped : Bool
  /-- R415, R418: the voltage that the rail has or moves to, in quarters of a millivolt, whether it falls to it, and the model's
  clock once it has it -/
  rail : Nat
  railFalling : Bool
  railReady : Nat
  /-- R421: the clock is stretched, and PWR_DROOP counts each tick -/
  drooping : Bool
deriving DecidableEq, Repr

/-- R424: the values of PWR_OP seen on entry to Full service. -/
def PwrDie.reset : PwrDie :=
  { req := 4, eff := 4, share := 0, walking := false, mhz := 1200, goal := 1200, stepped := false, rail := 3200,
    railFalling := false, railReady := 0, drooping := false }

/-- R411 to R424: the power registers, the samples of the last millisecond, walks and steering. -/
structure Power where
  cap : BitVec 13
  steerEn : Bool
  seqEn : Bool
  steerMin : BitVec 16
  dies : Tab PwrDie
  capCeil : Nat
  thermCeil : Nat
  inputLow : Bool
  inputHigh : Bool
  throttleCap : Bool
  capUnmet : Bool
  warnTemp : Bool
  throttleTherm : Bool
  /-- R419: (millivolts, watts) of the samples of the last millisecond, newest first -/
  samples : List (Nat × Nat)
  mv : BitVec 16
  watts : BitVec 16
  lastCapFall : Option Nat
  lastThermFall : Option Nat
  /-- R419: since when the prediction for the next higher OP has fitted the cap, at the ticks of the model's clock -/
  capFits : Option Nat
  /-- R422: since when every sensor has stood 3 °C below its throttle limit -/
  coolSince : Option Nat
  capSteps : Stat
  thermSteps : Stat
  droop : Tab Stat
  stopCause : BitVec 2
  stopSensor : BitVec 5
  stopTick : DWord
  phases : Tab (BitVec 3)
  temps : Tab (BitVec 16)
  /-- R415: the model's clock at the last step of any walk, and its die -/
  lastStep : Option Nat
  lastDie : Nat
deriving DecidableEq, Repr

def Power.reset : Power :=
  { cap := 3600, steerEn := true, seqEn := true, steerMin := 10000, dies := [], capCeil := 5, thermCeil := 5,
    inputLow := false, inputHigh := false, throttleCap := false, capUnmet := false, warnTemp := false,
    throttleTherm := false, samples := [], mv := 0, watts := 0, lastCapFall := none, lastThermFall := none, capFits := none, coolSince := none,
    capSteps := .reset, thermSteps := .reset, droop := [], stopCause := 0, stopSensor := 0, stopTick := 0,
    phases := [], temps := [], lastStep := none, lastDie := 3 }

/-- R420: what steering keeps between its ticks: the lateness of each die at the last tick and milliseconds without a
raise. -/
structure Steer where
  late : Tab Nat
  quietMs : Nat
deriving DecidableEq, Repr

def Steer.reset : Steer := { late := [], quietMs := 0 }

/-- R295: the states of a Zubry port. -/
inductive PortState where
  | off
  | noPeer
  | training
  | parked
  | up
  | retrain
  | failed
deriving DecidableEq, Repr

/-- R295: the value ZB_PORT_STATUS.STATE reports. -/
def PortState.code : PortState → Nat
  | .off => 0
  | .noPeer => 1
  | .training => 2
  | .parked => 3
  | .up => 4
  | .retrain => 5
  | .failed => 6

/-- R299: a link control word by its KIND and fields. -/
inductive CtlWord where
  | ack (fseq : BitVec 12)
  | nak (fseq : BitVec 12)
  | credit (vc : Nat) (total : Word)
  | timeReq (t1 : DWord)
  | timeRsp (t1 t2 : DWord) (turn : Word)
  | hello (h : Hello)
deriving DecidableEq, Repr

/-- R293: what a flit of the retry buffer holds: a control word, or part of a packet; the packet stands with its
last flit. -/
inductive TxItem where
  | word (w : CtlWord)
  | part
  | packet (p : Packet)
deriving DecidableEq, Repr

/-- R292: the control bits of a flit that a port sends. -/
structure FlitBits where
  fseq : BitVec 12
  replay : Bool
  idle : Bool
  lane : Nat
deriving DecidableEq, Repr

/-- R315: the statistics counters of one port. -/
structure PortStats where
  cwCorr : Stat
  cwUncorr : Stat
  crcFail : Stat
  replay : Stat
  retrain : Stat
  txBytes : Stat
  rxBytes : Stat
  creditStall : Stat
deriving DecidableEq, Repr

def PortStats.reset : PortStats :=
  { cwCorr := .reset, cwUncorr := .reset, crcFail := .reset, replay := .reset, retrain := .reset, txBytes := .reset,
    rxBytes := .reset, creditStall := .reset }

/-- R293, R304, R305: the sending side of one port. -/
structure PortTx where
  /-- FSEQ of the next flit that is not idle -/
  next : BitVec 12
  /-- the retry buffer: unacknowledged flits, oldest first -/
  unacked : List (BitVec 12 × TxItem)
  /-- control words that wait for room in the retry buffer -/
  words : List CtlWord
  /-- packets that wait to be sent, oldest first, of every virtual channel -/
  queue : List Packet
  /-- R294: how many replays have started from each unacknowledged flit, by FSEQ -/
  replays : Tab Nat
  /-- credits held for sending on each virtual channel, and the TOTAL last received for it -/
  credits : Tab Nat
  totals : Tab Word
  /-- R304: the channel of VC0 to VC5 whose turn comes first -/
  turn : Nat
  /-- R305: the frame and the bytes that VC6 and VC7 have sent in it -/
  frame : Nat
  used : Nat
  /-- R291: the flits sent, idle or not -/
  sent : Nat
  /-- R293: the clock since which the oldest unacknowledged flit has been the oldest -/
  moved : Nat
deriving DecidableEq, Repr

def PortTx.reset : PortTx :=
  { next := 0, unacked := [], words := [], queue := [], replays := [], credits := [], totals := [], turn := 0,
    frame := 0, used := 0, sent := 0, moved := 0 }

/-- R293: the receiving side of one port. -/
structure PortRx where
  expect : BitVec 12
  /-- the FSEQ a NAK asked for, until it arrives with REPLAY = 1 -/
  nak : Option (BitVec 12)
  /-- the last flit that may be acknowledged, and accepted flits since the last ACK -/
  ackable : BitVec 12
  sinceAck : Nat
  /-- the flit that the last ACK named, and the clocks of the last ACK and of the last NAK -/
  acked : BitVec 12
  ackAt : Nat
  nakAt : Nat
  /-- R299: blocks returned on each channel since the port last entered TRAINING -/
  returned : Tab Word
deriving DecidableEq, Repr

def PortRx.reset : PortRx := 
  { expect := 0, nak := none, ackable := 4095, sinceAck := 0, acked := 4095, ackAt := 0, nakAt := 0, returned := [] }

/-- R290 to R299, R315: one Zubry port. -/
structure Port where
  en : Bool
  state : PortState
  cause : Nat
  laneLock : Byte
  /-- R313: given up since it left UP: its packets have moved -/
  failover : Bool
  /-- R296: failed attempts in a row, and the clock at the start of the present one -/
  attempts : Nat
  start : Nat
  /-- R294: the state before RETRAIN -/
  back : PortState
  /-- R313: the clock at which the port last left UP, and at which it last came UP -/
  downAt : Option Nat
  upAt : Option Nat
  /-- R298: the lanes have been deskewed in the present attempt to train -/
  deskewed : Bool
  /-- R298: the last HELLO, whether it is fresh, the clock at which it arrived, and the HELLO that brought the port to PARKED -/
  peer : Option Hello
  peerValid : Bool
  peerAt : Nat
  parkHello : Option Hello
  stats : PortStats
  tx : PortTx
  rx : PortRx
deriving DecidableEq, Repr

def Port.reset : Port :=
  { en := true, state := .off, cause := 0, laneLock := 0, failover := false, attempts := 0, start := 0, back := .off,
    downAt := none, upAt := none, deskewed := false, peer := none, peerValid := false, peerAt := 0, parkHello := none, stats := .reset, tx := .reset,
    rx := .reset }

/-- R307, R308: one receive channel of the pool: the values written, the values in effect since the last entry to Full
service, blocks held and credits its peer holds. -/
structure PoolCh where
  reserve : BitVec 20
  max : BitVec 20
  effReserve : Nat
  effMax : Nat
  held : Nat
  adv : Nat
deriving DecidableEq, Repr

def PoolCh.reset : PoolCh :=
  { reserve := 256, max := 2048, effReserve := 256, effMax := 2048, held := 0, adv := 0 }

/-- R306, R308: the shared buffer pool. -/
structure Pool where
  chans : Tab PoolCh
  blocks : BitVec 20
  linksEn : Bool
  emberEn : Bool
  effBlocks : Nat
  effLinks : Bool
  effEmber : Bool
  /-- POOL_FREE.SHARED -/
  shared : Nat
  /-- R364: per fenced die, the blocks that go back to the shared region when it returns -/
  lost : Tab Nat
deriving DecidableEq, Repr

def Pool.reset : Pool :=
  { chans := [], blocks := 65536, linksEn := true, emberEn := false, effBlocks := 65536, effLinks := true,
    effEmber := false, shared := 0, lost := [] }

/-- R310: an open stream at its receiver: the expected MSEQ, the next OFFSET, and the bytes of the message so far. -/
structure Stream where
  isOpen : Bool
  mseq : Word
  offset : Nat
  data : List Byte
  collided : Bool
  /-- ARG0 and ARG1 of the message's first packet (R301) -/
  arg0 : Word
  arg1 : DWord
  /-- the receive channel that its packets came on (R362) -/
  chan : Nat
deriving DecidableEq, Repr

def Stream.reset : Stream :=
  { isOpen := false, mseq := 0, offset := 0, data := [], collided := false, arg0 := 0, arg1 := 0, chan := 0 }

/-- R313, R320: the way of a stream that the module sends: the port that it is on (16 before its first packet), whether a message of it is
under way, and the clock of the last packet that it has sent on a port other than its primary. -/
structure Path where
  port : Nat
  mid : Bool
  alt : Option Nat
deriving DecidableEq, Repr

def Path.reset : Path := { port := 16, mid := false, alt := none }

/-- R309 to R313, R316: streams and the module-wide link registers. -/
structure Links where
  ports : Tab Port
  pool : Pool
  /-- streams received, by the key of R309 -/
  streams : Tab Stream
  /-- the next MSEQ to send on each stream, by its key -/
  sendSeq : Tab Word
  /-- the way of each stream sent, by its key -/
  paths : Tab Path
  /-- R309: one more than the virtual channel that a stream of remote accesses keeps, by its key; 0 before its first message -/
  vcs : Tab Nat
  dup : Stat
  undeliv : Stat
  logValid : Bool
  logSrcPos : BitVec 14
  logSrcSide : Bool
  logType : BitVec 4
  logReason : BitVec 3
  logStream : BitVec 16
  /-- R311: messages a REFUSE has been sent for: stream key and MSEQ -/
  refused : List (Nat × Word)
  /-- R312: packets that wait for a link-packet token, with their ports -/
  backlog : List (Nat × Packet)
  /-- R386: sent messages kept until the receiver accepts them -/
  retained : List Packet
deriving DecidableEq, Repr

def Links.reset : Links :=
  { ports := [], pool := .reset, streams := [], sendSeq := [], paths := [], vcs := [], dup := .reset, undeliv := .reset, logValid := false,
    logSrcPos := 0, logSrcSide := false, logType := 0, logReason := 0, logStream := 0, refused := [],
    backlog := [], retained := [] }

/-- R318: the module's copy of the topology manifest. -/
structure Manifest where
  position : BitVec 14
  yokeEn : Bool
  required : BitVec 16
  allowSkew : Bool
  /-- per port: expected POSITION, SIDE, VALID, PORT and KIND_DEV -/
  peers : List (Nat × Bool × Bool × Nat × Nat)
  /-- per group: PORTS -/
  groups : Tab (BitVec 16)
deriving DecidableEq, Repr

/-- R321 to R323: the admission registers and the manifest of the last successful check. -/
structure Admit where
  manifestAddr : BitVec 44
  state : Nat
  reason : Nat
  port : Nat
  degraded : Bool
  admitted : Bool
  /-- a REQ was written while a check ran (R321 REASON 7) -/
  again : Bool
  manifest : Option Manifest
deriving DecidableEq, Repr

def Admit.reset : Admit :=
  { manifestAddr := 0, state := 0, reason := 0, port := 0, degraded := false, admitted := false, again := false,
    manifest := none }

/-- R369: one entry of an ember table. -/
structure EmberEntry where
  base : BitVec 44
  pages : Nat
  bank0 : BitVec 44
  bank1 : BitVec 44
deriving DecidableEq, Repr

/-- R377: the states of a page of the ember table during a streaming epoch. -/
inductive PageState where
  | clean
  | copying (pool : Nat)
  | copied (pool : Nat) (order : Nat)
  | reading
  | done
deriving DecidableEq, Repr

/-- R377, R378: one page of the streaming epoch: its state, whether it has been streamed and acknowledged, and the pool
page that a streamed copy still occupies. -/
structure EmberPage where
  st : PageState
  sent : Bool
  acked : Bool
  lentPool : Option Nat
deriving DecidableEq, Repr

def EmberPage.reset : EmberPage := { st := .clean, sent := false, acked := false, lentPool := none }

/-- R377: a write that waits for the copy of an ember page: the page's index, the descriptor that makes it and the target of its copy
where one does, and the byte at its place. -/
structure HeldWrite where
  page : Nat
  owner : Option (Ref × Target)
  key : Nat
  byte : Byte
deriving DecidableEq, Repr

/-- R369 to R381, R393: the ember unit: its registers, the open epoch and the sowing log. -/
structure Ember where
  logPages : BitVec 16
  effLogPages : Nat
  current : Word
  sealedEpoch : Word
  streaming : Bool
  sinkHost : Bool
  hostAddr : DWord
  overrun : Bool
  forfeit : Bool
  ragged : Bool
  /-- an epoch has been opened since PERST_N (R379) -/
  opened : Bool
  table : List EmberEntry
  pages : Tab EmberPage
  copies : Nat
  recordSent : Bool
  recordAcked : Bool
  heldWrites : List HeldWrite
  /-- R374, R375: the pages that a LOAD under way has loaded: the die and page number, and the bytes that were there -/
  replaced : List ((Nat × Nat) × List Byte)
  /-- the position at which the log goes on, not yet reduced to the ring, the sequence number of the next entry, and LOG_ACK as last
  received -/
  logHead : Nat
  lseq : Word
  logMirror : DWord
  /-- the log position of the open epoch's SEGMENT entry, and of the newest sealed epoch's -/
  openStart : Nat
  sealedStart : Nat
  tableAddr : BitVec 44
  stall : Stat
  /-- R378: the pages streamed, in the order of streaming, which PAGE_ACK counts along -/
  sentOrder : List Nat
  /-- R386: log bytes sent to the partner on the present link -/
  logSent : Nat
  /-- log bytes appended since PERST_N -/
  logCount : Nat
deriving DecidableEq, Repr

def Ember.reset : Ember :=
  { logPages := 954, effLogPages := 954, current := 0, sealedEpoch := 0, streaming := false, sinkHost := false,
    hostAddr := 0, overrun := false, forfeit := false, ragged := false, opened := false, table := [], pages := [],
    copies := 0, recordSent := false, recordAcked := false, heldWrites := [], replaced := [], logHead := 0, lseq := 0, logMirror := 0,
    openStart := 0, sealedStart := 0, tableAddr := 0, stall := .reset, sentOrder := [], logSent := 0, logCount := 0 }

/-- R386: a message from a peer that a linked active member accepts once LOG_ACK covers its log entries; of a response, whose PUT or
GET and its status (R332). -/
inductive Accept where
  | entry (e : EntryIn)
  | chunk (p : Packet)
  | rwr (p : Packet)
  | rrsp (r : Ref) (status : Nat)
deriving DecidableEq, Repr

/-- R388, R389: how far a takeover has come. -/
inductive TakeStage where
  | none
  | restoring
  | replaying
deriving DecidableEq, Repr

/-- R382 to R391, R394: the yoke registers, linking, what the banked member has received, and a takeover. -/
structure Yoke where
  en : Bool
  emberPort : BitVec 4
  logPort : BitVec 4
  partner : Nat
  deposed : Bool
  err : Nat
  result : Nat
  takeStart : DWord
  takeEnd : DWord
  /-- R385: a matching PAIR and a HEARTBEAT have been received -/
  gotPair : Bool
  gotBeat : Bool
  /-- R387: the clock at which a packet of the partner's control stream last arrived -/
  heard : Option Nat
  /-- R385: the epoch being received, its pages received by index, and the bytes of its schedule record -/
  rxEpoch : Word
  rxPages : Tab Bool
  rxRecord : Bool
  rxBad : Bool
  /-- R385: log bytes mirrored since PERST_N -/
  mirrored : Nat
  /-- R388: the sealed epoch's LOG_START on the banked member, and the replay position -/
  stage : TakeStage
  takeCause : Nat
  replayPos : Nat
  /-- R388: peers' data packets that wait until replay has ended, with their arrival ports and whether they collided -/
  waiting : List (Nat × Bool × Packet)
  /-- R384: DEPOSE packets still to be sent -/
  deposeLeft : Nat
  /-- R386: messages that wait for LOG_ACK: the log position that must be covered -/
  pendingAccept : List (Nat × Accept)
  /-- R386: the bytes that LOG_ACK counted before those of the present link, once the link's first LOG_ACK has shown them, and the bytes of
  the link's first LOG packet (log 99) -/
  ackFrom : Option Nat
  ackFirst : Nat
  /-- R389: an entry of the log is being replayed: what it delivers stands in the log already -/
  muted : Bool
  /-- R389: COMPLETE entries met ahead: ring, index, STATUS -/
  replayDone : List (Nat × Word × Nat)
  /-- R389: the verdicts met ahead, by round -/
  replayVerdicts : List (Word × DWord)
  /-- R385: the schedule record of the epoch being received and of the newest sealed one, and the log position after the last mirrored
  byte, not reduced to the ring -/
  rxRec : List Byte
  sealedRec : List Byte
  logEnd : Nat
deriving DecidableEq, Repr

def Yoke.reset : Yoke :=
  { en := false, emberPort := 0, logPort := 1, partner := 0, deposed := false, err := 0, result := 0,
    takeStart := 0, takeEnd := 0, gotPair := false, gotBeat := false, heard := none, rxEpoch := 0, rxPages := [],
    rxRecord := false, rxBad := false, mirrored := 0, stage := .none, takeCause := 9, replayPos := 0, waiting := [],
    deposeLeft := 0, pendingAccept := [], ackFrom := none, ackFirst := 0, muted := false, replayDone := [],
    replayVerdicts := [], rxRec := [], sealedRec := [], logEnd := 0 }

/-- R356 to R364: one ledger: its total, its columns, the holders' shares of HELD and LENT, the tokens each fenced die
contributed to RECLAIMED, and the holders whose tokens lie there. -/
structure LgDom where
  total : Nat
  free : Nat
  held : Nat
  lent : Nat
  reclaimed : Nat
  heldBy : Tab Nat
  lentBy : Tab Nat
  /-- tokens in RECLAIMED by the die that contributed them -/
  byDie : Tab Nat
  /-- holders whose tokens lie in RECLAIMED: the die plus 1 -/
  movedTo : Tab Nat
  high : Word
  moved : Stat
  /-- R360: a column counter whose parity no longer matches -/
  parityBad : Bool
deriving DecidableEq, Repr

def LgDom.reset : LgDom :=
  { total := 0, free := 0, held := 0, lent := 0, reclaimed := 0, heldBy := [], lentBy := [], byDie := [], movedTo := [],
    high := 0, moved := .reset, parityBad := false }

/-- R356 to R368: the ledgers, the fault log and the snapshot registers. -/
structure Ledger where
  doms : Tab LgDom
  /-- R365: the clock of the latest transfer, and the ledgers as they stood before the transfers of that clock -/
  stamp : Nat
  before : Tab LgDom
  audits : Stat
  faultDomain : Nat
  faultKind : Nat
  faultHolder : Nat
  faultValid : Bool
  faultTick : DWord
  faultCount : Word
  snapAddr : BitVec 44
  snapTick : DWord
  snapArm : Bool
  snapDone : Bool
  snapLate : Bool
  snapMismatch : Bool
  snapSeq : Word
  /-- R365: the last capture: its tick, IOD_STATE.STATE there, and whether a balance failed -/
  capture : Option (DWord × Nat × Bool)
deriving DecidableEq, Repr

/-- R358: a ledger with all its tokens in FREE. -/
def LgDom.full (n : Nat) : LgDom := { LgDom.reset with total := n, free := n }

/-- R358, R368: PERST_N leaves 4,096 ring slots and the 49,152 memory operations of CD0's cores. -/
def Ledger.reset : Ledger :=
  { doms := [(0, LgDom.full 4096), (1, LgDom.full 49152)], stamp := 0, before := [(0, LgDom.full 4096), (1, LgDom.full 49152)],
    audits := .reset, faultDomain := 0, faultKind := 0,
    faultHolder := 0, faultValid := false, faultTick := 0, faultCount := 0, snapAddr := 0, snapTick := 0,
    snapArm := false, snapDone := false, snapLate := false, snapMismatch := false, snapSeq := 0, capture := none }

/-- R183: one entry of the memory error log, with the model's clock at which it was made (R182). -/
structure MemErr where
  addr : BitVec 44
  tick : DWord
  index : Word
  mem : Nat
  place : Nat
  source : Nat
  unit : Nat
  core : BitVec 16
  symbols : Byte
  made : Nat
deriving DecidableEq, Repr

def MemErr.reset : MemErr :=
  { addr := 0, tick := 0, index := 0, mem := 0, place := 0, source := 0, unit := 0, core := 0, symbols := 0, made := 0 }

/-- R174: a BAR2 read that waits for the zero-fill of a stack (R172). -/
structure HeldRead where
  stack : Nat
  addr : BitVec 44
  len : Nat
  /-- what the code says of the bytes at these offsets once they are read -/
  errors : List (Nat × Ecc)
  tag : Nat
deriving DecidableEq, Repr

/-- R135, R161, R232: a byte that a write replaced: the descriptor that wrote it, where one did, whether the write was a read-add-write
of the Hearth engines, the place, and the value before. -/
structure OldByte where
  writer : Option Ref
  adds : Bool
  key : Nat
  byte : Byte
deriving DecidableEq, Repr

/-- R224: a norm record as the module wrote it: its place, its bytes, and the exact sum of the squares added since it was last zeroed,
`m` × 2^`e`. -/
structure NormSum where
  key : Nat
  bytes : List Byte
  m : Nat
  e : Int
deriving DecidableEq, Repr

/-- R164 to R184: device memory by physical place, its uncorrectable codewords, zero-fill, and the memory registers.
A byte of stack s lies at s × 2^36 + its stack byte address; a byte of an SRAM lies at its window address. -/
structure Mem where
  /-- the bytes that are not 0 -/
  bytes : Tab Byte
  /-- uncorrectable codewords, by the place of their first byte, with the symbols in error -/
  bad : Tab Byte
  /-- R172: stacks whose zero-fill has completed -/
  filled : Tab Bool
  heldReads : List HeldRead
  /-- IOD_MEM_RESV.UNITS, and the value in effect since the last entry to Full service -/
  units : BitVec 5
  effUnits : Nat
  bar2Base : BitVec 10
  errCount : Word
  errLog : Tab MemErr
  ceStack : Tab Stat
  ceSram : Tab Stat
  /-- R135, R161, R232: bytes overwritten while descriptors that no order stands against run -/
  olds : List OldByte := []
  /-- R224: the norm records that stand in memory, by the sums that their bound is taken from -/
  norms : List NormSum := []
deriving DecidableEq, Repr

def Mem.reset : Mem :=
  { bytes := [], bad := [], filled := [], heldReads := [], units := 1, effUnits := 1, bar2Base := 0, errCount := 0,
    errLog := [], ceStack := [], ceSram := [] }

/-- R108, R142, R158, R178: the counters of one core. -/
structure CoreCtr where
  aeRd : Stat
  aeWr : Stat
  aeFull : Stat
  meBusy : Stat
  meFeed : Stat
  meLoad : Stat
  meSkip : Stat
  veBusy : Stat
  veMem : Stat
  veDrain : Stat
  veStream : Stat
  /-- R119: the vector-length register VL -/
  vl : Nat := 0
deriving DecidableEq, Repr

def CoreCtr.reset : CoreCtr :=
  { aeRd := .reset, aeWr := .reset, aeFull := .reset, meBusy := .reset, meFeed := .reset, meLoad := .reset,
    meSkip := .reset, veBusy := .reset, veMem := .reset, veDrain := .reset, veStream := .reset }

/-- R238: the registers of one Hearth engine. -/
structure HeEng where
  share : BitVec 5
  busy : Stat
  rd : Stat
  wr : Stat
  far : Stat
  ember : Stat
  waiting : Stat
deriving DecidableEq, Repr

def HeEng.reset : HeEng :=
  { share := 8, busy := .reset, rd := .reset, wr := .reset, far := .reset, ember := .reset, waiting := .reset }

/-- R30, R35: the registers of one submission ring, its fetch index and the SQ_PROD value last read. -/
structure SRing where
  addr : DWord
  en : Bool
  log2 : BitVec 5
  prio : BitVec 3
  ctx : BitVec 4
  errCring : BitVec 6
  /-- a written IOD_SRING_HEAD that the next BEGIN takes -/
  head : Option Word
  fetch : Word
  prod : Option Word
  err : Bool
  errCode : BitVec 3
deriving DecidableEq, Repr

def SRing.reset : SRing :=
  { addr := 0, en := false, log2 := 6, prio := 7, ctx := 0, errCring := 0, head := none, fetch := 0, prod := none,
    err := false, errCode := 0 }

/-- R30, R49, R50, R62, R502: the registers of one completion ring, its producer and consumer indices and its
vector's moderation. -/
structure CRing where
  addr : DWord
  en : Bool
  log2 : BitVec 5
  irqEn : Bool
  modUs : BitVec 16
  p : Word
  cons : Word
  consErr : Bool
  lastRaise : Option Nat
  due : Bool
deriving DecidableEq, Repr

def CRing.reset : CRing :=
  { addr := 0, en := false, log2 := 6, irqEn := false, modUs := 0, p := 0, cons := 0, consErr := false,
    lastRaise := none, due := false }

/-- R53: IOD_CTX_STATUS.STATE. -/
inductive CtxState where
  | idle
  | active
  | ending
  | beginning
deriving DecidableEq, Repr

def CtxState.code : CtxState → Nat
  | .idle => 0
  | .active => 1
  | .ending => 2
  | .beginning => 3

/-- R53, R54: the registers of one context and what a tidy BEGIN recorded. -/
structure Ctx where
  carried : Bool
  restore : Bool
  base : BitVec 12
  count : BitVec 13
  lines : Word
  save : BitVec 44
  state : CtxState
  result : Nat
  mismatchKind : Bool
  mismatchIndex : Nat
  recTallies : List Word
  recGen : Word
deriving DecidableEq, Repr

def Ctx.reset : Ctx :=
  { carried := false, restore := false, base := 0, count := 0, lines := 0, save := 0, state := .idle, result := 0,
    mismatchKind := false, mismatchIndex := 0, recTallies := [], recGen := 0 }

/-- R30, R34, R41, R51, R61: the host interface: doorbells, rings, contexts, polling, status page, MSI-X. -/
structure HostIf where
  dbAddr : DWord
  statusAddr : DWord
  maxNs : BitVec 20
  statusEn : Bool
  minUs : BitVec 10
  srings : Tab SRing
  crings : Tab CRing
  ctxs : Tab Ctx
  /-- R34: the interval to the next doorbell poll, in ns -/
  pollNs : Nat
  /-- R34: the doorbell fields as last read: SQ_PROD of ring n at n, CQ_CONS of ring n at 64 + n -/
  seen : Tab Word
  /-- R41: per priority, the ring at which the next turn begins -/
  turn : Tab Nat
  /-- R43, R44: numbers given to dispatched and parked descriptors in order -/
  order : Nat
  pageSeq : Word
  pageWrites : Word
  pageLast : Option Nat
  /-- R52: the bytes of the status page as last written -/
  page : Tab Byte
  msix : Tab MsixEntry
deriving DecidableEq, Repr

def HostIf.reset : HostIf :=
  { dbAddr := 0, statusAddr := 0, maxNs := 1000000, statusEn := false, minUs := 1, srings := [], crings := [],
    ctxs := [], pollNs := 200, seen := [], turn := [], order := 0, pageSeq := 0, pageWrites := 0, pageLast := none,
    page := [], msix := [] }

/-- R268 to R274: one barrier line. Participants are numbered 96 × die + core, and 384 + target for an I/O-die target. -/
structure Line where
  /-- per compute die: bit i = 1 where logical core i participates -/
  cores : Tab (BitVec 96)
  targets : BitVec 5
  gen : Bool
  arrived : Tab Bool
  latched : Tab Bool
  cleared : Word
deriving DecidableEq, Repr

def Line.reset : Line := { cores := [], targets := 0, gen := false, arrived := [], latched := [], cleared := 0 }

/-- R276, R278, R280: one send channel. -/
structure SqTx where
  en : Bool
  vc : Nat
  ctx : BitVec 4
  destQ : BitVec 6
  destPos : BitVec 14
  credits : Nat
  granted : Bool
  units : Nat
  next : Word
  stall : Stat
  /-- credits returned since the grant, cumulative, as last received -/
  returned : Word
  /-- R302: the packets of the entry being sent that are not yet in the transmit window, and those in it that are not yet sent, by MSEQ and
  OFFSET -/
  rest : List Packet
  window : List (Word × Word)
deriving DecidableEq, Repr

def SqTx.reset : SqTx :=
  { en := false, vc := 0, ctx := 0, destQ := 0, destPos := 0, credits := 0, granted := false, units := 0, next := 0,
    stall := .reset, returned := 0, rest := [], window := [] }

/-- R281, R283: one entry held by a receive queue: its slot and payload length, the clock since which it is visible, and
the descriptor that has taken it. -/
structure SqEntry where
  seq : Word
  fmt : Nat
  prio : Nat
  etag : BitVec 16
  slot : Nat
  len : Nat
  since : Nat
  stale : Bool
  collided : Bool
  taken : Option Ref
deriving DecidableEq, Repr

/-- R277, R278, R281: one receive queue. -/
structure SqRx where
  en : Bool
  ctx : BitVec 4
  srcPos : BitVec 14
  depth : BitVec 11
  units : BitVec 15
  base : BitVec 44
  staleUs : Word
  err : Nat
  flushed : BitVec 16
  expect : Word
  starve : Stat
  staleCnt : Stat
  dup : Stat
  entries : List SqEntry
  /-- the grant has not been acknowledged -/
  granting : Bool
  /-- credits returned since the grant, cumulative -/
  returned : Word
deriving DecidableEq, Repr

def SqRx.reset : SqRx :=
  { en := false, ctx := 0, srcPos := 0, depth := 1, units := 1, base := 0, staleUs := 0, err := 0, flushed := 0,
    expect := 0, starve := .reset, staleCnt := .reset, dup := .reset, entries := [], granting := false, returned := 0 }

/-- R262, R268, R275: tallies, barrier lines and stage queues. -/
structure Sync where
  tallies : Tab Word
  lines : Tab Line
  tx : Tab SqTx
  rx : Tab SqRx
  /-- R363, R364, R377: entries that wait to be written, in their order of arrival: for a queue whose slots lie on a fenced die, or on an
  ember page that is yet to be copied; whether the queue has judged them -/
  unwritten : List (Bool × EntryIn)
deriving DecidableEq, Repr

def Sync.reset : Sync := { tallies := [], lines := [], tx := [], rx := [], unwritten := [] }

/-- R340, R341, R353: the guard unit: its registers, the current window, the posted report and the held verdicts. -/
structure Guard where
  en : Bool
  lossEn : Bool
  alpha : Nat
  warmup : Nat
  ctxMask : BitVec 16
  cfgTag : BitVec 16
  nfLimit : Word
  spike : Word
  normLimit : Word
  avg : Word
  seen : Nat
  consec : Nat
  /-- R344: the posted report -/
  posted : Option (List Byte)
  /-- R340: held rounds and their verdict words, oldest first -/
  held : List (Word × DWord)
  doneRound : Word
  windowNf : Nat
  /-- R341, R253: the start of the current window, and the stamps of records within the last 255 ticks with whether each has
  been counted in the headland -/
  winStart : Option DWord
  recent : List (DWord × Bool)
  trips : Stat
  headland : Stat
  lastClear : Word
  /-- R354: the latest verdict record -/
  vrec : List Byte
deriving DecidableEq, Repr

def Guard.reset : Guard :=
  { en := false, lossEn := false, alpha := 5, warmup := 100, ctxMask := 0xFFFF, cfgTag := 0, nfLimit := 0,
    spike := 0x3F000000, normLimit := 0, avg := 0, seen := 0, consec := 0, posted := none, held := [],
    doneRound := 0xFFFFFFFF, windowNf := 0, winStart := none, recent := [], trips := .reset, headland := .reset,
    lastClear := 0xFFFFFFFF, vrec := [] }

/-- R337: the lag counters. -/
structure Lag where
  collWait : Stat
  lastPeer : BitVec 14
  lastSide : Bool
  lastValid : Bool
  lastMargin : Word
  dieLate : Tab Stat
  ringLate : Tab Stat
deriving DecidableEq, Repr

def Lag.reset : Lag :=
  { collWait := .reset, lastPeer := 0, lastSide := false, lastValid := false, lastMargin := 0, dieLate := [],
    ringLate := [] }

/-- R43, R44: where one copy of a descriptor stands on its target. -/
inductive CopyState where
  | queued
  | running
  /-- R44: parked, with whether its wait has ended and its place in the order of parking -/
  | parked (ended : Bool) (order : Nat)
  /-- R44: waiting in place because four are parked already -/
  | inPlace (ended : Bool)
  /-- stopped before its end: what it has written is open -/
  | stopped
  | done
deriving DecidableEq, Repr

/-- R46 to R48: what one copy reports. -/
structure Report where
  status : Nat
  detail : Word
  nf : Option Word
  idx : Option Word
deriving DecidableEq, Repr

/-- R40: one copy of a descriptor: its target, how far its operation has come, and its report once done. -/
structure Copy where
  target : Target
  st : CopyState
  stage : Nat
  /-- the clock from which its time limit counts: its start on the target (R267) -/
  since : Nat
  report : Option Report
  /-- R191, R121, R200, R227: the bytes of the records that it read when it started, by their places -/
  snap : List (Nat × Byte) := []
deriving DecidableEq, Repr

/-- R36 to R50: a fetched descriptor that is not complete. -/
structure Desc where
  ref : Ref
  bytes : List Byte
  ctx : BitVec 4
  prio : BitVec 3
  dispatched : Bool
  /-- R43: its place in the order of dispatch -/
  order : Nat
  copies : List Copy
  /-- the clock at which its first copy started -/
  start : Option Nat
  /-- R42: release tick minus LAUNCH_TICK -/
  lateness : Nat
  /-- R39, R23, R56, R182: an outcome given to the descriptor as a whole: STATUS, DETAIL and CORE where a copy is named -/
  outcome : Option (Nat × Word × Option Nat)
  /-- R47: a DETAIL formed over all copies -/
  detailAll : Option Word
  /-- R259: a planned packet of this descriptor collided -/
  collided : Bool
  /-- R407: dies other than its own that it has depended on -/
  deps : BitVec 4
  /-- R50: its record waits for space, with its place in the order of completion -/
  waiting : Option Nat
  /-- R389: dispatched by replay, which writes no record for it again -/
  replayed : Bool
  /-- R103: the descriptor it is paired with -/
  pair : Option Ref
  /-- R161: the place in Mem.olds from which it may read what was replaced, fixed when its first copy starts -/
  mark : Nat := 0
deriving DecidableEq, Repr

/-- R100, R401: one 64-value row that a matrix descriptor delivers. -/
structure StreamRow where
  m : Nat
  ni : Nat
  vals : List Word
deriving DecidableEq, Repr

/-- R401: a word on its way along a raw stream. -/
inductive StreamWord where
  /-- ROW and END, with the logical core that sends them -/
  | row (src : Nat) (r : StreamRow)
  | fin (src : Nat)
  | fenced
deriving DecidableEq, Repr

/-- R402: a sending copy: the rows it has still to send, in the order in which copies became ready, and the Field Time at which its
present wait began. -/
structure Sender where
  ref : Ref
  target : Target
  rows : List StreamRow
  since : DWord
  /-- what the copy reports once its END has been sent -/
  rep : Report
  /-- R90: the rows that it has sent, and those of its rows that come before its first non-finite value -/
  sent : Nat := 0
  clean : Nat := 0
deriving DecidableEq, Repr

/-- R401 to R403: one raw stream: the credit count and the holder at its sending end, the copies that send on it, the words under
way in both directions, and what the receiving copy has taken: END words, elements numbered, its first non-finite value, and the
Field Time of the last word. -/
structure RawStream where
  credits : Nat
  holder : Option Ref
  senders : List Sender
  fwd : List StreamWord
  /-- CREDIT words: credits added, and CLOSE -/
  back : List (Nat × Bool)
  ends : Nat
  count : Nat
  nf : Option (Nat × Nat)
  last : DWord
  /-- R129: the rows packed into the receiving copy's present strip, and whether one of them has an active lane -/
  packed : Nat := 0
  lit : Bool := false
deriving DecidableEq, Repr

def RawStream.reset : RawStream :=
  { credits := 0, holder := none, senders := [], fwd := [], back := [], ends := 0, count := 0, nf := none, last := 0 }

/-- R100, R103: the rows that a matrix copy has passed into its paired CHAIN. -/
structure Drain where
  chain : Ref
  target : Target
  rows : List StreamRow
  /-- what the matrix copy reports once its last row has entered the chain -/
  rep : Report
deriving DecidableEq, Repr

/-- R100, R401: raw streams, by the key of R401, and rows handed to paired chains. -/
structure Streams where
  raw : Tab RawStream
  drains : List Drain
deriving DecidableEq, Repr

def Streams.reset : Streams := { raw := [], drains := [] }

/-- R328, R333: one piece that a CHUNK carries: its collective slot, INSTANCE, OP, block entry, PHASE, source, piece of the
region, data and message, and whether its stream's expected numbers already count it (R389). -/
structure Chunk where
  slot : Nat
  inst : Word
  op : Nat
  block : Nat
  phase : Bool
  srcPos : BitVec 14
  srcSide : Bool
  piece : Nat
  data : List Byte
  mseq : Word
  vc : Nat
  port : Nat
  collided : Bool
  seen : Bool
deriving DecidableEq, Repr

/-- R328: a transfer that a member must receive: the sender's rank, the block entry, PHASE, and pieces still to come. -/
structure Xfer where
  src : Nat
  block : Nat
  phase : Bool
  left : Nat
deriving DecidableEq, Repr

/-- R328 to R333, R346: the COLLECTIVE, or the exchange of a GUARD_VERDICT, that the collective engine runs: what it must still
receive, the messages it sent that are not accepted, whether it waits for a remote response, and what it will report. -/
structure CollRun where
  ref : Ref
  exchange : Bool
  slot : Nat
  inst : Word
  op : Nat
  want : List Xfer
  /-- unaccepted messages: destination position, STREAM and MSEQ -/
  sent : List (Nat × Nat × Word)
  reply : Bool
  /-- ticks in which it had no piece to process -/
  waited : Nat
  /-- the offset of a DESC_INVALID that waits for its other work -/
  bad : Option Nat
  nf : Option (Nat × Nat)
  /-- whether data has arrived, the source and stamp of the last arrival, and the stamp of the last send -/
  heard : Bool
  lastPos : BitVec 14
  lastSide : Bool
  lastAt : DWord
  lastSend : DWord
  /-- R335: colliding packets, and the port of the first -/
  collisions : Nat
  collPort : Nat
  /-- R346: the reports of the members of an exchange, by rank -/
  reports : List (Nat × List Byte)
deriving DecidableEq, Repr

/-- R332: a remote access that another member owes an answer to: its position, the MSEQ of the request, the descriptor, the
machine-global address, and whether it reads. -/
structure Asked where
  pos : Nat
  seq : Word
  ref : Ref
  far : DWord
  get : Bool
deriving DecidableEq, Repr

/-- R324 to R333, R346: the collective engine: what it runs, the GUARD_VERDICTs whose exchanges wait for it, the INSTANCE of each slot,
early data in its order of arrival, with the pieces whose region waits for an ember page (R377), the remote accesses that other members owe
an answer to, oldest first, and remote writes that wait to be written, in their order of arrival (R363, R364, R377). -/
structure Coll where
  run : Option CollRun
  waiting : List Ref
  inst : Tab Word
  early : List Chunk
  asked : List Asked
  unwritten : List Packet
deriving DecidableEq, Repr

def Coll.reset : Coll := { run := none, waiting := [], inst := [], early := [], asked := [], unwritten := [] }

/-- R396 to R400, R410: one Duest link: its registers, and of its retry the group that the receiving end expects, the group it has asked for,
and when it last acknowledged; and the sender's retry buffer: its oldest group, how many groups it keeps, how often each has been replayed
without being accepted, and when its acknowledgements last advanced. -/
structure DuestLink where
  state : Nat
  version : Nat
  permanent : Bool
  crc : Stat
  replay : Stat
  expect : Byte
  nak : Option Byte
  ackSent : Nat
  oldest : Byte
  kept : Nat
  times : Tab Nat
  ackAt : Nat
deriving DecidableEq, Repr

def DuestLink.reset : DuestLink :=
  { state := 0, version := 0, permanent := false, crc := .reset, replay := .reset, expect := 0, nak := none, ackSent := 0, oldest := 0,
    kept := 0, times := [], ackAt := 0 }

/-- R405, R406, R410: the last loss of one compute die, and its sideband as last received. -/
structure DieLoss where
  cause : Nat
  link : Nat
  tick : DWord
  arrived : Word
  hb : Bool
  clkOk : Bool
  toggled : Nat
  /-- R399: since when every sideband word that has come failed its check -/
  badSince : Option Nat
deriving DecidableEq, Repr

def DieLoss.reset : DieLoss :=
  { cause := 0, link := 15, tick := 0, arrived := 0, hb := false, clkOk := true, toggled := 0, badSince := none }

/-- R396 to R410: the Duest links and the loss of dies. -/
structure Duest where
  links : Tab DuestLink
  timeoutUs : Nat
  dies : Tab DieLoss
deriving DecidableEq, Repr

def Duest.reset : Duest := { links := [], timeoutUs := 30, dies := [] }

/-- R433: IOD_BRINGUP. -/
structure Bringup where
  failStep : Nat
  failUnit : Nat
  entryMs : Nat
  rate : Nat
  width : Nat
deriving DecidableEq, Repr

def Bringup.reset : Bringup := { failStep := 0, failUnit := 0, entryMs := 0, rate := 0, width := 0 }

/-- R434 to R441: the self-test engine: the run in progress and who asked for it, its body (with 16 bytes before it, so that
offsets are those of R435), what BIST_STATUS keeps of the last run, and the counters. -/
structure Bist where
  running : Bool
  mailbox : Bool
  mb : Nat
  ref : Option Ref
  body : List Byte
  kind : Nat
  die : Nat
  stack : Nat
  result : Nat
  start : DWord
  runs : Stat
  fails : Stat
deriving DecidableEq, Repr

def Bist.reset : Bist :=
  { running := false, mailbox := false, mb := 0, ref := none, body := [], kind := 0, die := 0, stack := 0, result := 0,
    start := 0, runs := .reset, fails := .reset }

/-- R457: the states of a mailbox. -/
inductive MbState where
  | empty
  | posted
  | serving
  | replied
deriving DecidableEq, Repr

/-- R466: the value MB_STATUS.STATE reports. -/
def MbState.code : MbState → Nat
  | .empty => 0
  | .posted => 1
  | .serving => 2
  | .replied => 3

/-- R454 to R466: one mailbox: its registers and its request slot. -/
structure Mailbox where
  /-- MB_REQ and MB_REPLY -/
  req : Tab Byte
  reply : Tab Byte
  state : MbState
  /-- the request held came over MCTP -/
  mctp : Bool
  replyValid : Bool
  collision : Bool
  aborted : Bool
  busy : Bool
  collide : Stat
  /-- the request slot: LEN, TAG and the bytes copied from the sender's staging buffer -/
  len : Nat
  tag : BitVec 16
  slot : List Byte
  /-- R458: the reply of the request being served is discarded -/
  discard : Bool
deriving DecidableEq, Repr

def Mailbox.reset : Mailbox :=
  { req := [], reply := [], state := .empty, mctp := false, replyValid := false, collision := false, aborted := false,
    busy := false, collide := .reset, len := 0, tag := 0, slot := [], discard := false }

/-- R461: an entry of the measurement log with its number. -/
structure MeasEntry where
  number : Word
  reg : Nat
  count : Nat
  digest : List Byte
deriving DecidableEq, Repr

/-- R450: the codes of the ERROR responses. -/
inductive SpdmError where
  | invalidRequest
  | unexpectedRequest
  | unsupportedRequest
deriving DecidableEq, Repr

/-- R452: one measurement block: index, DMTFSpecMeasurementValueType and the digest. -/
structure MeasBlock where
  index : Nat
  type : Nat
  digest : List Byte
deriving DecidableEq, Repr

/-- R451: the values that ALGORITHMS selects: the measurement specification DMTF, the hashes by their width, the BaseAsym set, the one
ExtAsym entry (its registry PCI-SIG, its vendor and algorithm), and opaque data. -/
structure SpdmAlgs where
  measurementDmtf : Bool
  measurementSha : Nat
  baseSha : Nat
  baseAsym : Nat
  registryPciSig : Bool
  vendor : BitVec 16
  algorithm : BitVec 16
  opaqueData : List Byte
deriving DecidableEq, Repr

/-- R450: an SPDM request by its content, as a transcript keeps it. -/
inductive SpdmRequest where
  | getVersion
  /-- the requester's flags, CTExponent, DataTransferSize and MaxSPDMmsgSize -/
  | getCapabilities (flags : Word) (ctExponent : Byte) (dataSize maxMessage : Word)
  /-- whether DMTF, the ExtAsym entry of R451 and SHA-384 are offered -/
  | negotiateAlgorithms (dmtf extAsym sha384 : Bool)
  | getDigests
  | getCertificate (slot offset len : Nat)
  | challenge (slot : Nat) (summary : Summary) (nonce : List Byte)
  | getMeasurements (operation : Nat) (signed : Bool) (nonce : List Byte)
deriving DecidableEq, Repr

/-- R450 to R452: an SPDM response by its content. -/
inductive SpdmReply where
  /-- VERSION lists 1.3 only -/
  | version (major minor : Nat)
  /-- CAPABILITIES: CERT_CAP, CHAL_CAP, MEAS_CAP, CTExponent, DataTransferSize, MaxSPDMmsgSize -/
  | capabilities (cert chal : Bool) (meas ctExponent dataSize maxMessage : Nat)
  /-- ALGORITHMS: the selected values -/
  | algorithms (set : SpdmAlgs)
  /-- DIGESTS: the slot and the digest of its chain -/
  | digests (slot : Nat) (digest : List Byte)
  /-- CERTIFICATE: the slot, the portion of the chain, and the bytes that remain -/
  | certificate (slot : Nat) (portion : List Byte) (remainder : Nat)
  /-- CHALLENGE_AUTH: the slot, the chain's digest, the module's nonce, the measurement summary hash and the signature -/
  | challengeAuth (slot : Nat) (digest nonce summary signature : List Byte)
  /-- MEASUREMENTS: the number of registers for a count, the blocks, and nonce and signature where asked for -/
  | measurements (count : Nat) (blocks : List MeasBlock) (signed : Option (List Byte × List Byte))
  | error (code : SpdmError)
deriving DecidableEq, Repr

/-- R453: the connection state of one transport: the requests of the negotiation answered so far (VERSION, CAPABILITIES,
ALGORITHMS) and its transcript of requests with their responses. -/
structure Spdm where
  version : Bool
  caps : Bool
  algs : Bool
  transcript : List (SpdmRequest × SpdmReply)
deriving DecidableEq, Repr

def Spdm.reset : Spdm := { version := false, caps := false, algs := false, transcript := [] }

/-- R453, R481: the replies to MCTP control commands. -/
inductive MctpReply where
  | setEid (eid : Byte) (accepted : Bool)
  | getEid (eid : Byte)
  | versions
  | messageTypes (types : List Byte)
deriving DecidableEq, Repr

/-- The digests of a measurement register before any extend (R444). -/
def zeroDigest : List Byte := List.replicate 48 0

/-- R442 to R466, R481: the security registers, measurement registers and their log, mailboxes, the transports' states, and
the management controller's restart. -/
structure Trust where
  lock : Bool
  s2Loaded : Bool
  s2SigOk : Bool
  s2Svn : Byte
  s2Version : Word
  mask : BitVec 16
  meas : Tab (List Byte)
  counts : Tab Nat
  log : List MeasEntry
  extendCount : Word
  mbs : Tab Mailbox
  /-- R458: Kolnu restarts, and the replies that MCTP requesters are owed once MCTP answers again: mailbox, TAG, reply -/
  restarting : Bool
  owed : List (Nat × BitVec 16 × List Byte)
  doe : Spdm
  mctp : Spdm
  eid : Byte
  i3cAddr : Option (BitVec 7)
deriving DecidableEq, Repr

def Trust.reset : Trust :=
  { lock := false, s2Loaded := false, s2SigOk := false, s2Svn := 0, s2Version := 0, mask := 0x000F, meas := [],
    counts := [], log := [], extendCount := 0, mbs := [], restarting := false, owed := [], doe := .reset, mctp := .reset,
    eid := 0, i3cAddr := none }

/-- R482: the instructions of the TAP. -/
inductive JtagIr where
  | bypass
  | sample
  | extest
  | idcode
deriving DecidableEq, Repr

/-- R482: the TAP: its instruction, the levels preloaded into the boundary-scan register's outputs, and the bits on TDI that scans under
EXTEST have still to take. -/
structure Jtag where
  ir : JtagIr
  preload : List Bool
  later : List Bool
deriving DecidableEq, Repr

def Jtag.reset : Jtag := { ir := .idcode, preload := [], later := [] }

/-- What the module has sent to the outside, in order: the model's own record of its buses (log 10). -/
inductive Output where
  /-- a posted PCIe write to host memory -/
  | hostWrite (addr : DWord) (bytes : List Byte)
  /-- a PCIe read of host memory (R28); what it returns comes with the command that takes it -/
  | hostRead (addr : DWord) (len : Nat)
  /-- an MSI-X message of a vector: its table entry's data written to its address (R61) -/
  | msix (vector : Nat) (addr : DWord) (data : Word)
  /-- a completion of a BAR2 read: its data, or Completer Abort (R174) -/
  | pcieData (tag : Nat) (bytes : List Byte)
  | pcieAbort (tag : Nat)
  /-- Unsupported Request for a BAR0 access that R489 does not allow -/
  | pcieUnsupported
  /-- a link control word on a port: its 32 bytes (R299) and the flit that carries it -/
  | ctlWord (port : Nat) (bytes : List Byte) (flit : FlitBits)
  /-- a packet on a port: its bytes (R300) and the flits that carry them, or a replay of unacknowledged flits (R293) -/
  | packet (port : Nat) (bytes : List Byte) (flits : List FlitBits)
  | replay (port : Nat) (flits : List FlitBits)
  /-- an idle flit on a port (R292) -/
  | idle (port : Nat) (flit : FlitBits)
  /-- a word of a raw stream on its way over a Duest link: its header and payload (R401) -/
  | streamWord (bytes : List Byte)
  /-- a flit on a Duest link: its 262 bytes (R397) -/
  | duestFlit (link : Nat) (bytes : List Byte)
  /-- a group that is sent again on a Duest link: its eight flits (R397, R398) -/
  | duestGroup (link : Nat) (flits : List (List Byte))
  /-- the sideband word to a die (R405) -/
  | sideband (die : Nat) (word : BitVec 42)
  /-- R261: what a 4-byte read of FT_NOW returns -/
  | ftNow (value : Word)
  /-- R260: a pulse of 50 ns on FT_OUT -/
  | ftOutPulse
  /-- a mailbox reply sent over MCTP: the mailbox, TAG and the reply's bytes (R462) -/
  | mailboxReply (mb : Nat) (tag : BitVec 16) (reply : List Byte)
  /-- an SPDM response on a transport (R450) -/
  | spdm (t : Transport) (r : SpdmReply)
  /-- R453: a DOE Discovery response: vendor ID, object type and next index -/
  | doeDiscovery (vendor type next : Nat)
  /-- R481: an in-band interrupt of the I3C target: its address and its one mandatory data byte -/
  | inBandInterrupt (addr : BitVec 7) (mandatory : Byte)
  /-- a reply to an MCTP control command (R453) -/
  | mctpControl (r : MctpReply)
  /-- R482: bits shifted out on TDO, least significant first -/
  | tdo (bits : List Bool)
deriving DecidableEq, Repr

/-- The faults of a step. No meaning of this model faults: every command has the effect the spec gives it. -/
inductive Fault where
  /-- raised by no meaning; safe -/
  | none
deriving DecidableEq, Repr

/-- The refusals of a step. -/
inductive Refusal where
  /-- raised by an arm of Machine/Dispatch.lean whose command has no meaning yet; safe: the machine stops -/
  | notModelled (mnemonic : String)
deriving DecidableEq, Repr

/-- The state of the module. -/
structure State where
  hw : Hw
  ms : ModState
  pins : Pins
  /-- the model's own clock, in ns, for time limits (log 2) -/
  clk : Nat
  host : HostIf
  ft : FieldTime
  wdog : Wdog
  claims : Claims
  pwr : Power
  steer : Steer
  link : Links
  adm : Admit
  ember : Ember
  yoke : Yoke
  lg : Ledger
  mem : Mem
  cores : Tab CoreCtr
  he : Tab HeEng
  sync : Sync
  guard : Guard
  lag : Lag
  streams : Streams
  coll : Coll
  duest : Duest
  bringup : Bringup
  bist : Bist
  trust : Trust
  jtag : Jtag
  /-- R36: fetched descriptors not yet complete, oldest first -/
  descs : List Desc
  out : List Output
  /-- the model's own counter that free values are applied to (log 11) -/
  freeCtr : Nat
  /-- the commands that wait, first in, first out -/
  pending : List Instr
deriving DecidableEq, Repr

/-- The module right after power is fitted and absent: Off, every register at the value PERST_N gives it (log 3). -/
def State.reset : State :=
  { hw := Hw.reset, ms := ModState.reset, pins := Pins.reset, clk := 0, host := HostIf.reset,
    ft := FieldTime.reset, wdog := Wdog.reset, claims := Claims.reset, pwr := Power.reset, steer := Steer.reset, link := Links.reset, adm := Admit.reset, ember := Ember.reset, yoke := Yoke.reset,
    lg := Ledger.reset, mem := Mem.reset, cores := [], he := [], sync := Sync.reset, guard := Guard.reset, lag := Lag.reset, streams := Streams.reset, coll := Coll.reset, duest := Duest.reset, bringup := Bringup.reset, bist := Bist.reset, trust := Trust.reset,
    jtag := Jtag.reset, descs := [], out := [],
    freeCtr := 0, pending := [] }

end Sys2Proof.Machine
end

