-- ==== Sys2Proof/Machine/Ops.lean ====
section
/-! DEFINITION. Operations that every unit shares: statistics counters (R14), module states (R20, R21), MSI-X vectors
(R61), register accessors by unit, and the shared-resource claims (R493 to R497). -/

namespace Sys2Proof.Machine

/-- R14: a statistics counter advanced by `n`, with its wrap count held at 0xFFFF. -/
def Stat.add (c : Stat) (n : Nat) : Stat :=
  let t := c.count.toNat + n
  { count := BitVec.ofNat 64 t, wraps := BitVec.ofNat 16 (hold 0xFFFF (c.wraps.toNat + t / 2 ^ 64)) }

/-- Log 11: the present free number, and the state with the counter of free numbers advanced. -/
def drawFree (s : State) : Nat × State := (Config.freePick s.freeCtr, { s with freeCtr := s.freeCtr + 1 })

/-- One of `n` choices that the spec leaves open, by the present free number. -/
def choose (n : Nat) (s : State) : Nat × State := (Config.freePick s.freeCtr % max 1 n, { s with freeCtr := s.freeCtr + 1 })

/-- Picks from a list one element after the other by free choices, at most `n` of them, after those already picked. -/
def pickOrder {α : Type} : Nat → List α → List α → State → List α × State
  | 0, acc, rest, s => (acc ++ rest, s)
  | _ + 1, acc, [], s => (acc, s)
  | _ + 1, acc, [x], s => (acc ++ [x], s)
  | n + 1, acc, y :: ys, s =>
    let (i, s1) := choose (ys.length + 1) s
    pickOrder n (acc ++ [(y :: ys).getD i y]) ((y :: ys).eraseIdx i) s1

/-- A list in an order that the spec leaves open: each next element is a free choice of those left. -/
def shuffle {α : Type} (xs : List α) (s : State) : List α × State := pickOrder xs.length [] xs s

/-- Appends to what the module has sent (log 10). -/
def emit (o : Output) (s : State) : State := { s with out := s.out ++ [o] }

/-! ### What the module was built as -/

def isM4 (s : State) : Bool := s.hw.variant == .m4

/-- R3: the number of compute dies. -/
def dieCount (s : State) : Nat := if isM4 s then 4 else 2

/-- R3: the number of stacks and Hearth engines. -/
def stackCount (s : State) : Nat := if isM4 s then 12 else 6

/-- R4: the number of mailboxes. -/
def mailboxCount (s : State) : Nat := if s.hw.iodGen.toNat == 1 then 8 else 16

/-- R407: compute die `n` is fenced. -/
def isFenced (s : State) (n : Nat) : Bool := bitOf s.ms.dieFenced.toNat n

/-- Every present die that is not fenced. -/
def liveDies (s : State) : List Nat := (List.range (dieCount s)).filter fun n => !isFenced s n

/-! ### Module states -/

/-- R24, R34, R239: the states in which the module answers its host and drives its outputs. -/
def inService (s : State) : Bool :=
  match s.ms.mode with
  | .kindling | .full | .fenced | .banked => true
  | _ => false

/-- R239: Field Time counts in the states of service and from leaving Standby on. -/
def ftRuns (s : State) : Bool := inService s || s.ms.trans == .bringUp

/-- R25: IOD_STATE.BUSY. -/
def isBusy (s : State) : Bool :=
  match s.ms.trans with
  | .none | .bringUp => false
  | _ => true

/-- R26: the values of IOD_STATE.CAUSE. -/
def causePowerOn : Nat := 0
def causePerst : Nat := 1
def causeHostRequest : Nat := 2
def causeDieLoss : Nat := 3
def causeMemUncorrectable : Nat := 4
def causeLedgerFault : Nat := 5
def causeDuestPermanent : Nat := 6
def causeCoolant : Nat := 7
def causeThermal : Nat := 8
def causeTakeover : Nat := 9
def causeTakeoverFault : Nat := 10
def causeTrainingFail : Nat := 11
def causeWatchdog : Nat := 12

/-- R46 to R48: the values of STATUS. -/
def stOk : Nat := 0
def stLate : Nat := 1
def stGuardSkipped : Nat := 2
def stTimeout : Nat := 3
def stClaimConflict : Nat := 4
def stCollision : Nat := 5
def stIndexFault : Nat := 6
def stTidyViolation : Nat := 7
def stNotAvailable : Nat := 8
def stDescInvalid : Nat := 9
def stAborted : Nat := 10
def stFenced : Nat := 11
def stMemUncorrectable : Nat := 12
def stLedgerFault : Nat := 13

/-! ### MSI-X -/

def msixEntry (s : State) (v : Nat) : MsixEntry := s.host.msix.get .reset v

def setMsix (v : Nat) (e : MsixEntry) (s : State) : State :=
  { s with host := { s.host with msix := s.host.msix.put .reset v e } }

/-- R61: raises a vector: a masked vector sets its pending bit, an unmasked one sends its message; no message is sent in
Off, Standby or Stopped. -/
def raiseVector (v : Nat) (s : State) : State :=
  if inService s then
    let e := msixEntry s v
    if e.masked then setMsix v { e with pending := true } s else emit (.msix v e.addr e.data) s
  else s

/-! ### Registers by unit -/

def sring (s : State) (n : Nat) : SRing := s.host.srings.get .reset n
def setSring (n : Nat) (r : SRing) (s : State) : State :=
  { s with host := { s.host with srings := s.host.srings.put .reset n r } }

def cring (s : State) (n : Nat) : CRing := s.host.crings.get .reset n
def setCring (n : Nat) (r : CRing) (s : State) : State :=
  { s with host := { s.host with crings := s.host.crings.put .reset n r } }

def ctxOf (s : State) (n : Nat) : Ctx := s.host.ctxs.get .reset n
def setCtx (n : Nat) (c : Ctx) (s : State) : State :=
  { s with host := { s.host with ctxs := s.host.ctxs.put .reset n c } }

/-- R501: a context is active whenever it is not IDLE. -/
def ctxActive (s : State) (n : Nat) : Bool := (ctxOf s n).state != .idle

/-- R21: some context is active. -/
def anyCtxActive (s : State) : Bool := (List.range 16).any (ctxActive s)

def portOf (s : State) (p : Nat) : Port := s.link.ports.get .reset p
def setPort (p : Nat) (x : Port) (s : State) : State :=
  { s with link := { s.link with ports := s.link.ports.put .reset p x } }

def planOf (s : State) (b : Nat) : Plan := s.ft.plans.get .reset b
def setPlan (b : Nat) (x : Plan) (s : State) : State :=
  { s with ft := { s.ft with plans := s.ft.plans.put .reset b x } }

def pwrDie (s : State) (n : Nat) : PwrDie := s.pwr.dies.get .reset n
def setPwrDie (n : Nat) (x : PwrDie) (s : State) : State :=
  { s with pwr := { s.pwr with dies := s.pwr.dies.put .reset n x } }

/-- R477, R478: the sampled straps. -/
def strapPos (s : State) : Nat :=
  bitsOf s.pins.straps.toNat 0 9 * 32 + bitsOf s.pins.straps.toNat 9 5
def strapYokeEn (s : State) : Bool := bitOf s.pins.straps.toNat 14
/-- R478: YOKE_SIDE, which is ignored with YOKE_EN = 0. -/
def strapSide (s : State) : Bool := strapYokeEn s && bitOf s.pins.straps.toNat 15

/-! ### Shared-resource claims -/

/-- R493: a plan that holds the reserved virtual channels. -/
def planClaims (p : Plan) : Bool := p.en && (bitOf p.vcMask.toNat 6 || bitOf p.vcMask.toNat 7)

/-- R493: the claimant that holds a resource, 0 where it is free. -/
def claimHolder (s : State) (r : Nat) : Nat :=
  let h (hi lo : Bool) : Nat := if hi then 1 else if lo then 2 else 0
  match r with
  | 0 => h s.ft.outEn s.pins.ftpOe
  | 1 => h s.wdog.en s.pwr.seqEn
  | 2 => h s.yoke.en (planClaims (planOf s 0) || planClaims (planOf s 1))
  | 3 => h s.link.pool.emberEn s.link.pool.linksEn
  | _ => 0

/-- R497: a conflict event: the count advances, CONFLICT is set, vector 71 is raised, and the first event since VALID
was cleared is logged with its stamp. -/
def claimEvent (resource kind claimant holder : Nat) (s : State) : State :=
  let c := s.claims
  let c1 := { c with conflict := true, count := c.count.add 1 }
  let c2 := if c.valid then c1 else
    { c1 with resource := resource, kind := kind, claimant := claimant, holder := holder, valid := true, tick := s.ft.ft }
  raiseVector 71 { s with claims := c2 }

/-- R494: the enable of claimant 2 of a resource reads 0. -/
def claimDrop (r : Nat) (s : State) : State :=
  match r with
  | 0 => { s with pins := { s.pins with ftpOe := false } }
  | 1 => { s with pwr := { s.pwr with seqEn := false } }
  | 2 =>
    let off (b : Nat) (s : State) : State :=
      let p := planOf s b
      if planClaims p then setPlan b { p with en := false } s else s
    off 1 (off 0 s)
  | _ => { s with link := { s.link with pool := { s.link.pool with linksEn := false } } }

/-- R494: the enable of claimant 1 of a resource reads 1. -/
def claimTake (r : Nat) (s : State) : State :=
  match r with
  | 0 => { s with ft := { s.ft with outEn := true } }
  | 1 => { s with wdog := { s.wdog with en := true } }
  | 2 => { s with yoke := { s.yoke with en := true } }
  | _ => { s with link := { s.link with pool := { s.link.pool with emberEn := true } } }

/-- R494 rules 1 and 3: claimant 1 requests a resource: granted, displacing claimant 2 where that holds it. -/
def claimHigh (r : Nat) (s : State) : State :=
  if claimHolder s r = 2 then claimEvent r 1 2 1 (claimTake r (claimDrop r s)) else claimTake r s

/-- R494 rules 1 and 2: claimant 2 requests a resource with `grant` as what its enable does: refused while claimant 1
holds it. -/
def claimLow (r : Nat) (grant : State → State) (s : State) : State :=
  if claimHolder s r = 1 then claimEvent r 0 2 1 s else grant s

end Sys2Proof.Machine
end

