-- ==== Sys2Proof/Machine/Desc.lean ====
section
/-! DEFINITION. Descriptors: the common header (R37), opcodes (R38), targets (R498), header checks (R39), the table of
fetched descriptors, and where each copy stands on its target (R40, R43 to R45). -/

namespace Sys2Proof.Machine

/-- R38: the opcodes. -/
inductive Op where
  | nop | mma | conv | bMma | wMma | chain | gather | scatter | copy | relayout | send | recv | tally | barrier
  | collective | heOp | optStep | waitHost | signalHost | guardReport | guardVerdict | ember | opSet | bist
deriving DecidableEq, Repr

/-- R38: the opcode a value names. -/
def opOf (v : Nat) : Option Op :=
  match v with
  | 0x00 => some .nop
  | 0x10 => some .mma
  | 0x11 => some .conv
  | 0x12 => some .bMma
  | 0x13 => some .wMma
  | 0x18 => some .chain
  | 0x20 => some .gather
  | 0x21 => some .scatter
  | 0x22 => some .copy
  | 0x23 => some .relayout
  | 0x28 => some .send
  | 0x29 => some .recv
  | 0x30 => some .tally
  | 0x31 => some .barrier
  | 0x40 => some .collective
  | 0x48 => some .heOp
  | 0x49 => some .optStep
  | 0x50 => some .waitHost
  | 0x51 => some .signalHost
  | 0x58 => some .guardReport
  | 0x59 => some .guardVerdict
  | 0x60 => some .ember
  | 0x68 => some .opSet
  | 0x70 => some .bist
  | _ => none

/-- R38, the Units column: whether the opcode accepts a compute die as its unit. -/
def opOnDie : Op → Bool
  | .nop | .mma | .conv | .bMma | .wMma | .chain | .gather | .scatter | .copy | .relayout | .send | .recv | .tally
  | .barrier => true
  | _ => false

/-- R38, the Units column: whether the opcode accepts the I/O die as its unit. -/
def opOnIod : Op → Bool
  | .nop | .tally | .barrier | .collective | .heOp | .optStep | .waitHost | .signalHost | .guardReport | .guardVerdict
  | .ember | .opSet | .bist => true
  | _ => false

/-- R38: the opcodes marked K. -/
def opInKindling : Op → Bool
  | .nop | .waitHost | .signalHost | .bist => true
  | _ => false

/-! ### The common header, R37 -/

def hOpcode (b : List Byte) : Nat := fieldAt b 0 0 8
def hSown (b : List Byte) : Bool := fieldAt b 1 0 1 == 1
def hWaitPrev (b : List Byte) : Bool := fieldAt b 1 1 1 == 1
def hSilent (b : List Byte) : Bool := fieldAt b 1 2 1 == 1
def hIrq (b : List Byte) : Bool := fieldAt b 1 3 1 == 1
def hCring (b : List Byte) : Nat := fieldAt b 2 0 6
def hUnit (b : List Byte) : Nat := fieldAt b 3 0 3
def hFirst (b : List Byte) : Nat := fieldAt b 4 0 7
def hCount (b : List Byte) : Nat := fieldAt b 4 8 7
def hTag (b : List Byte) : Nat := fieldAt b 6 0 16
def hLaunch (b : List Byte) : DWord := BitVec.ofNat 64 (fieldAt b 8 0 64)

def Desc.op (d : Desc) : Option Op := opOf (hOpcode d.bytes)

/-- The descriptor's field of `len` bits from bit `lo` of the word at byte `off`. -/
def Desc.fld (d : Desc) (off lo len : Nat) : Nat := fieldAt d.bytes off lo len

/-- R39: UNIT is among the opcode's Units and names a die the variant has. -/
def unitOk (s : State) (b : List Byte) : Bool :=
  match opOf (hOpcode b) with
  | none => false
  | some o => if hUnit b < 4 then opOnDie o && decide (hUnit b < dieCount s) else hUnit b == 4 && opOnIod o

/-- R39, R48: the offset of the first header field that fails its check. -/
def headerError (s : State) (b : List Byte) : Option Nat :=
  if (opOf (hOpcode b)).isNone then some 0
  else if fieldAt b 1 4 4 != 0 then some 1
  else if fieldAt b 2 6 2 != 0 then some 2
  else if fieldAt b 3 3 5 != 0 || !unitOk s b then some 3
  else if fieldAt b 4 7 1 != 0 || fieldAt b 4 15 1 != 0 then some 4
  else if hUnit b < 4 && (hCount b == 0 || decide (96 < hFirst b + hCount b)) then some 4
  else if hUnit b == 4 && fieldAt b 4 0 16 != 0 then some 4
  else none

/-- R498: the TARGET field of a TALLY (R263) or a BARRIER (R271). -/
def hTarget (b : List Byte) : Nat := if opOf (hOpcode b) == some .barrier then fieldAt b 16 10 3 else fieldAt b 16 19 3

/-- R265: the I/O-die target that TARGET names. -/
def iodTarget (n : Nat) : Target :=
  match n with
  | 0 => .collective
  | 1 => .hearth
  | 2 => .guard
  | 3 => .ember
  | _ => .host

/-- R498: the targets of a descriptor. -/
def targetsOf (b : List Byte) : List Target :=
  if hUnit b < 4 then (List.range (hCount b)).map fun i => .core (hUnit b) (hFirst b + i)
  else match opOf (hOpcode b) with
    | some .collective => [.collective]
    | some .heOp | some .optStep => [.hearth]
    | some .guardReport | some .guardVerdict => [.guard]
    | some .ember => [.ember]
    | some .tally | some .barrier => [iodTarget (hTarget b)]
    | _ => [.host]

/-- R17, R46: the module core number of a target, 0xFFFF for an I/O-die engine. -/
def coreNumber : Target → Nat
  | .core die k => 96 * die + k
  | _ => 0xFFFF

/-- R46, R47: CORE where no copy reports the STATUS. An OPCODE that is not listed has no Units, so that its UNIT fails the check of
R39 (log 79). -/
def coreDefault (s : State) (b : List Byte) : Nat :=
  if hUnit b < 4 && unitOk s b then 96 * hUnit b + hFirst b else 0xFFFF

/-! ### The table of fetched descriptors -/

def findDesc (s : State) (r : Ref) : Option Desc := s.descs.find? fun d => d.ref == r

def updDesc (r : Ref) (f : Desc → Desc) (s : State) : State :=
  { s with descs := s.descs.map fun d => if d.ref == r then f d else d }

def dropDesc (r : Ref) (s : State) : State := { s with descs := s.descs.filter fun d => d.ref != r }

def copyAt (d : Desc) (t : Target) : Option Copy := d.copies.find? fun c => c.target == t

def updCopy (t : Target) (f : Copy → Copy) (d : Desc) : Desc :=
  { d with copies := d.copies.map fun c => if c.target == t then f c else c }

/-- A copy that occupies its target. -/
def CopyState.busy : CopyState → Bool
  | .running | .inPlace _ => true
  | _ => false

def CopyState.isParked : CopyState → Bool
  | .parked _ _ => true
  | _ => false

/-- R43: the target runs a copy, one waits in place on it, or a write of one still waits (R377). -/
def targetBusy (s : State) (t : Target) : Bool :=
  (s.descs.any fun d => d.copies.any fun c => c.target == t && c.st.busy)
    || s.ember.heldWrites.any fun h => h.owner.map (·.2) == some t

/-- R44: copies parked on a target. -/
def parkedOn (s : State) (t : Target) : Nat :=
  (s.descs.map fun d => (d.copies.filter fun c => c.target == t && c.st.isParked).length).sum

/-- R45: one of the ring's descriptors is parked. -/
def ringParked (s : State) (ring : Nat) : Bool :=
  s.descs.any fun d => d.ref.ring == ring && d.copies.any fun c => c.st.isParked

/-- R41: entries of a target's queue at a priority. -/
def queueLen (s : State) (t : Target) (prio : BitVec 3) : Nat :=
  (s.descs.filter fun d => d.prio == prio && d.copies.any fun c => c.target == t && c.st == .queued).length

/-- A descriptor whose outcome is known: it was given one as a whole, or its last copy is done (R40). -/
def Desc.finished (d : Desc) : Bool :=
  d.outcome.isSome || (d.dispatched && d.copies.all fun c => c.st == .done)

/-- A copy of the descriptor has started. -/
def Desc.started (d : Desc) : Bool := d.copies.any fun c => c.st != .queued

/-- A copy of the descriptor is running or waits in place. -/
def Desc.running (d : Desc) : Bool := d.copies.any fun c => c.st.busy

/-- R40, R43: a copy that runs on its target, at a stage of its operation. -/
def Copy.runs (stage : Nat) (c : Copy) : Bool := c.st == .running && c.stage == stage

/-- R40: the copy of the descriptor on a target runs at a stage. -/
def Desc.runsOn (d : Desc) (stage : Nat) (t : Target) : Bool := (copyAt d t).any (Copy.runs stage)

/-- R40, R43: some copy of the descriptor runs at a stage: each copy goes on by itself, whatever the others wait for (log 12). -/
def Desc.runsAt (d : Desc) (stage : Nat) : Bool := d.dispatched && d.outcome.isNone && d.copies.any (Copy.runs stage)

/-- Every copy of the descriptor is running. -/
def Desc.allRunning (d : Desc) : Bool := d.dispatched && d.outcome.isNone && !d.copies.isEmpty && d.copies.all fun c => c.st == .running

/-- R41: the next descriptor of a ring: its first that is neither dispatched nor completed at fetch. -/
def nextOf (s : State) (ring : Nat) : Option Desc :=
  s.descs.find? fun d => d.ref.ring == ring && !d.dispatched && d.outcome.isNone

/-- R41: an earlier descriptor of the ring has not completed. -/
def earlierOpen (s : State) (r : Ref) : Bool :=
  ((s.descs.takeWhile fun d => d.ref != r).any fun d => d.ref.ring == r.ring)

/-! ### What copies and descriptors come to -/

/-- What a copy reports that ends with OK. -/
def Report.ok : Report := { status := 0, detail := 0, nf := none, idx := none }

/-- What a copy reports that ends with a status and its DETAIL. -/
def Report.of (status : Nat) (detail : Nat) : Report :=
  { status := status, detail := BitVec.ofNat 32 detail, nf := none, idx := none }

/-- A copy is done and reports; its target is free again. -/
def finishCopy (r : Ref) (t : Target) (rep : Report) (s : State) : State :=
  updDesc r (updCopy t fun c => { c with st := .done, report := some rep }) s

/-- Every copy of a descriptor is done, each with its report. -/
def finishAll (r : Ref) (rep : Target → Report) (s : State) : State :=
  updDesc r (fun d => { d with copies := d.copies.map fun c =>
    if c.st == .done then c else { c with st := .done, report := some (rep c.target) } }) s

/-- A copy that is ended before its operation has: one that runs is stopped, one that waits has nothing under way. -/
def CopyState.stop : CopyState → CopyState
  | .running => .stopped
  | .stopped => .stopped
  | _ => .done

/-- The copy has reported: it is done, or its wait was all that was left of it. -/
def Copy.over (c : Copy) : Bool := c.st == .done || c.report.isSome

/-- R287: a descriptor whose copies have all reported has run: it completes by what they report. -/
def Desc.over (d : Desc) : Bool := d.dispatched && !d.copies.isEmpty && d.copies.all (·.over)

/-- An outcome given to one descriptor as a whole; its copies leave their targets. A descriptor that has finished keeps its
own (R56). -/
def setOne (r : Ref) (status detail : Nat) (core : Option Nat) (s : State) : State :=
  updDesc r (fun d => if d.finished then d
    else if d.over then { d with copies := d.copies.map fun c => { c with st := .done } }
    else
    { d with outcome := some (status, BitVec.ofNat 32 detail, core),
             copies := d.copies.map fun c => { c with st := c.st.stop } }) s

/-- R47, R141: an outcome given to a descriptor as a whole; the member it is paired with by R103 completes with the same. -/
def setOutcome (r : Ref) (status detail : Nat) (core : Option Nat) (s : State) : State :=
  let s1 := setOne r status detail core s
  match (findDesc s r).bind (·.pair) with
  | some p => setOne p status detail core s1
  | none => s1

/-- R500 and the check tables: DESC_INVALID with the offset as DETAIL, on every copy. -/
def invalid (r : Ref) (off : Nat) (s : State) : State := finishAll r (fun _ => Report.of stDescInvalid off) s

/-- R267: a time limit in µs, where there is one, has passed: an event on its last tick still wins. -/
def pastLimit (s : State) (us since : Nat) : Bool := decide (0 < us) && decide (since + 1000 * us < s.clk)

/-- R44: a running copy has to wait: it parks, or waits in place where four are parked already. -/
def parkCopy (r : Ref) (t : Target) (stage : Nat) (s : State) : State :=
  if parkedOn s t < 4 then
    let o := s.host.order
    updDesc r (updCopy t fun c => { c with st := .parked false o, stage := stage })
      { s with host := { s.host with order := o + 1 } }
  else updDesc r (updCopy t fun c => { c with st := .inPlace false, stage := stage }) s

/-- R44: the wait of a copy has ended; it resumes at the target's next descriptor boundary. -/
def CopyState.wake : CopyState → CopyState
  | .parked _ o => .parked true o
  | .inPlace _ => .inPlace true
  | x => x

/-- R44: a copy that waits, parked or in place, and whose wait has not ended. -/
def CopyState.waits : CopyState → Bool
  | .parked false _ => true
  | .inPlace false => true
  | _ => false

/-- Ends the wait of every copy that a test picks. -/
def wakeCopies (p : Desc → Copy → Bool) (s : State) : State :=
  { s with descs := s.descs.map fun d =>
      { d with copies := d.copies.map fun c => if c.st.waits && p d c then { c with st := c.st.wake } else c } }

end Sys2Proof.Machine
end

