-- ==== Sys2Proof/Machine/Memory.lean ====
section
/-! DEFINITION. Device memory: the 44-bit address map (R165, R166, R173), what each requester reaches (R167), reads and
writes by codeword (R179, R182), and the memory error log (R183). -/

namespace Sys2Proof.Machine

/-- R167: who makes an access. -/
inductive Requester where
  | core (die k : Nat)
  | iod
  | bar2
deriving DecidableEq, Repr

/-- R165, R166: where a byte lies. -/
inductive Place where
  | stack (stack byte : Nat)
  | shelf (die off : Nat)
  | scratch (die k off : Nat)
  | wga (die k off : Nat)
deriving DecidableEq, Repr

/-- R165: the span of one compute die's stack addresses. -/
def dieSpan : Nat := 0x4000000000
/-- R165: the populated part of it, 192 GB. -/
def dieStackBytes : Nat := 192000000000
/-- R164, R173: one stack, 64 GB. -/
def stackBytes : Nat := 64000000000
def sramBase : Nat := 0x80000000000
def sramSpan : Nat := 0x100000000
def shelfBytes : Nat := 0x4000000
def coreBase : Nat := 0x10000000
def coreSpan : Nat := 0x200000
def wgaBase : Nat := 0x100000
def aliasCore : Nat := 0xF0000000000
def aliasShelf : Nat := 0xF0040000000

/-- The mode maps the stacks as R173 does for Kindling. -/
def kindlingMap (s : State) : Bool :=
  match s.ms.mode with
  | .full | .fenced | .banked => false
  | _ => true

/-- R170: the bytes of each die's stack range that the reserved region takes. -/
def reservedBytes (s : State) : Nat := if kindlingMap s then 0 else s.mem.effUnits * 4000000000

/-- R166: the stack and the stack byte address of slot offset `o` of die `n`. -/
def stackOf (o n : Nat) : Nat × Nat :=
  let g := o / 2048
  (3 * n + g % 3, g / 3 * 2048 + o % 2048)

/-- R165, R166, R173, R428: the place of an address that is no alias; none where it is unpopulated. -/
def placeOf (s : State) (a : Nat) : Option Place :=
  if a < sramBase then
    let n := a / dieSpan
    let o := a % dieSpan
    if kindlingMap s then
      if a < stackBytes then some (.stack 0 a) else none
    else if n < dieCount s ∧ o < dieStackBytes then
      let (st, b) := stackOf o n
      some (.stack st b)
    else none
  else
    let n := (a - sramBase) / sramSpan
    let o := (a - sramBase) % sramSpan
    if (if kindlingMap s then n = 0 else n < dieCount s) then
      if o < shelfBytes then some (.shelf n o)
      else if coreBase ≤ o then
        let k := (o - coreBase) / coreSpan
        let x := (o - coreBase) % coreSpan
        if k < 96 then some (if x < wgaBase then .scratch n k x else .wga n k (x - wgaBase)) else none
      else none
    else none

/-- The key of a place in the table of bytes. -/
def Place.key : Place → Nat
  | .stack st b => st * 2 ^ 36 + b
  | .shelf n o => sramBase + n * sramSpan + o
  | .scratch n k o => sramBase + n * sramSpan + coreBase + k * coreSpan + o
  | .wga n k o => sramBase + n * sramSpan + coreBase + k * coreSpan + wgaBase + o

/-- The compute die that a place belongs to (R164, R165). -/
def Place.die : Place → Nat
  | .stack st _ => st / 3
  | .shelf n _ => n
  | .scratch n _ _ => n
  | .wga n _ _ => n

/-- R165: an own-core or own-die alias resolved to the window address it stands for, for a core. -/
def resolveAlias (rq : Requester) (a : Nat) : Option Nat :=
  if aliasCore ≤ a then
    match rq with
    | .core n k =>
      if a < aliasCore + coreSpan then some (sramBase + n * sramSpan + coreBase + k * coreSpan + (a - aliasCore))
      else if aliasShelf ≤ a ∧ a < aliasShelf + shelfBytes then some (sramBase + n * sramSpan + (a - aliasShelf))
      else none
    | _ => none
  else some a

/-- R167, R170: whether a requester reaches a place. -/
def reaches (s : State) (rq : Requester) (a : Nat) (p : Place) : Bool :=
  match rq, p with
  | .bar2, _ => true
  | .core _ _, .stack _ _ => decide (a % dieSpan + reservedBytes s < dieStackBytes) || kindlingMap s
  | .core n _, .shelf m _ => n == m
  | .core n k, .scratch m j _ => n == m && k == j
  | .core n k, .wga m j _ => n == m && k == j
  | .iod, .stack _ _ => decide (a % dieSpan + reservedBytes s < dieStackBytes) || kindlingMap s
  | .iod, .shelf _ _ => true
  | .iod, _ => false

/-- R167: the place that a requester reaches at an address; none outside populated memory or its reach. -/
def access (s : State) (rq : Requester) (a : Nat) : Option Place :=
  match resolveAlias rq a with
  | none => none
  | some w =>
    match placeOf s w with
    | none => none
    | some p => if reaches s rq w p then some p else none

/-- R166, R172: some codeword of a run lies in a stack that is not yet zero-filled. -/
def unfilled (s : State) (a n : Nat) : Bool :=
  (List.range (min 3 (ceilDiv (a % 2048 + n) 2048))).any fun g =>
    match access s .iod (a / 2048 * 2048 + 2048 * g) with
    | some (.stack st _) => !s.mem.filled.get false st
    | _ => false

/-- R167: the end of the run of addresses that a requester reaches from `a` on without a break; 0 where it reaches
nothing there. -/
def reachEnd (s : State) (rq : Requester) (a : Nat) : Nat :=
  match access s rq a with
  | none => 0
  | some (.stack _ _) =>
    if kindlingMap s then stackBytes else
      a / dieSpan * dieSpan + dieStackBytes - (if rq == .bar2 then 0 else reservedBytes s)
  | some (.shelf _ o) => a - o + shelfBytes
  | some (.scratch _ _ o) => a - o + coreSpan
  | some (.wga _ _ o) => a - o + wgaBase

/-- R167: `n` bytes from `a` on lie wholly within a requester's reach. -/
def inReach (s : State) (rq : Requester) (a n : Nat) : Bool := n == 0 || decide (a + n ≤ reachEnd s rq a)

/-- R167: within reach and aligned. -/
def recordOk (s : State) (rq : Requester) (a n align : Nat) : Bool := a % align == 0 && inReach s rq a n

/-! ### Bytes and codewords -/

/-- R179: the first byte of the codeword that holds a byte. -/
def codeword (key : Nat) : Nat := if key < sramBase then key / 64 * 64 else key / 8 * 8

/-- R179: the data bytes of a codeword. -/
def codewordLen (key : Nat) : Nat := if key < sramBase then 64 else 8

def byteAt (m : Mem) (key : Nat) : Byte := m.bytes.get 0 key

/-- The bytes that a requester reads; a byte it does not reach reads 0. -/
def readBytes (s : State) (rq : Requester) (a n : Nat) : List Byte :=
  (List.range n).map fun i =>
    match access s rq (a + i) with
    | none => 0
    | some p => byteAt s.mem p.key

/-- R182: the first address among those read whose codeword is uncorrectable. -/
def firstBad (s : State) (rq : Requester) (a n : Nat) : Option Nat :=
  if s.mem.bad.isEmpty then none else
    (List.range n).findSome? fun i =>
      match access s rq (a + i) with
      | none => none
      | some p => if s.mem.bad.get 0 (codeword p.key) != 0 then some (a + i) else none

/-- The requester that a target's copy is. -/
def rqOf : Target → Requester
  | .core die k => .core die k
  | _ => .iod

/-- R182: the first uncorrectable codeword among those of some addresses. -/
def badRead (s : State) (rq : Requester) (as : List Nat) : Option (Nat × Place) :=
  if s.mem.bad.isEmpty then none else
    as.findSome? fun a =>
      match access s rq a with
      | some p => if s.mem.bad.get 0 (codeword p.key) != 0 then some (a, p) else none
      | none => none

/-- The bytes at some addresses, by their places, as they stand. -/
def snapOf (s : State) (rq : Requester) (as : List Nat) : List (Nat × Byte) :=
  as.filterMap fun a => (access s rq a).map fun p => (p.key, byteAt s.mem p.key)

/-- The writes of bytes at addresses that a requester reaches, as writes at places. -/
def placeWrites (s : State) (rq : Requester) (a : Nat) (bs : List Byte) : List (Nat × Byte) :=
  (bs.zipIdx).filterMap fun (b, i) => (access s rq (a + i)).map fun p => (p.key, b)

/-- R182: codewords that are uncorrectable and that a set of writes covers in part only. -/
def partBad (m : Mem) (ws : List (Nat × Byte)) : List Nat :=
  (m.bad.map (·.1)).filter fun c =>
    ws.any (fun w => codeword w.1 == c) &&
      !((List.range (codewordLen c)).all fun i => ws.any fun w => w.1 == c + i)

/-- R182: uncorrectable codewords that a set of writes replaces whole. -/
def wholeBad (m : Mem) (ws : List (Nat × Byte)) : List Nat :=
  (m.bad.map (·.1)).filter fun c => (List.range (codewordLen c)).all fun i => ws.any fun w => w.1 == c + i

/-- Bytes put at their places, in order. -/
def putBytes (m : Mem) (ws : List (Nat × Byte)) : Mem :=
  { m with bytes := ws.foldl (fun t w => t.put 0 w.1 w.2) m.bytes }

/-- R182: commits writes: an uncorrectable codeword that they cover whole becomes clean; of one that they cover in part
no byte changes. -/
def commit (m : Mem) (ws : List (Nat × Byte)) : Mem :=
  let pb := partBad m ws
  let m1 := { m with bad := (wholeBad m ws).foldl (fun t c => t.put 0 c 0) m.bad }
  putBytes m1 (if pb.isEmpty then ws else ws.filter fun w => !pb.contains (codeword w.1))

/-- Drops every byte and every uncorrectable codeword at places that a test picks: they read 0 from then on. -/
def clearPlaces (p : Nat → Bool) (m : Mem) : Mem :=
  { m with bytes := m.bytes.filter (fun c => !p c.1), bad := m.bad.filter (fun c => !p c.1) }

/-- The place key belongs to stack `st`. -/
def inStack (st key : Nat) : Bool := decide (key < sramBase) && key / 2 ^ 36 == st

/-- The place key belongs to an SRAM of compute die `n`. -/
def inSram (n key : Nat) : Bool := decide (sramBase ≤ key) && (key - sramBase) / sramSpan == n

/-- The place key belongs to the shelf of compute die `n`. -/
def inShelf (n key : Nat) : Bool := inSram n key && decide ((key - sramBase) % sramSpan < shelfBytes)

/-- The place key belongs to the WGA of some core of compute die `n`. -/
def inWga (n key : Nat) : Bool :=
  inSram n key && decide (coreBase ≤ (key - sramBase) % sramSpan) &&
    decide (wgaBase ≤ ((key - sramBase) % sramSpan - coreBase) % coreSpan)

/-- R172: a reset of a compute die sets its SRAMs to 0. -/
def clearSram (n : Nat) (m : Mem) : Mem := clearPlaces (inSram n) m

/-- R172: the contents of stacks are lost; they are zero-filled again before they are read. -/
def loseStacks (p : Nat → Bool) (m : Mem) : Mem :=
  let m1 := clearPlaces (fun key => decide (key < sramBase) && p (key / 2 ^ 36)) m
  { m1 with filled := m1.filled.filter fun c => !p c.1 }

/-- R437: memory that a self-test run of these parameters tests: SRAM of cores and the shelf, or a range of one stack. `b` is
the body, at the offsets of R435. -/
def bistTests (b : List Byte) (p : Place) : Bool :=
  let die := fieldAt b 16 4 3
  let first := fieldAt b 20 0 7
  let count := fieldAt b 20 8 7
  let core (n k : Nat) : Bool := n == die && decide (first ≤ k ∧ k < first + count)
  match fieldAt b 16 0 4, p with
  | 1, .scratch n k _ => core n k
  | 1, .wga n k _ => core n k
  | 1, .shelf n _ => n == die && fieldAt b 16 15 1 == 1
  | 2, .stack st x => st == fieldAt b 16 8 4 && decide (fieldAt b 24 0 40 ≤ x ∧ x < fieldAt b 24 0 40 + fieldAt b 32 0 40)
  | _, _ => false

/-- R437: memory under test now. -/
def underTest (s : State) (p : Place) : Bool := s.bist.running && bistTests s.bist.body p

/-- The place that a key stands for. -/
def keyPlace (key : Nat) : Place :=
  if key < sramBase then .stack (key / 2 ^ 36) (key % 2 ^ 36)
  else
    let n := (key - sramBase) / sramSpan
    let o := (key - sramBase) % sramSpan
    if o < coreBase then .shelf n o
    else
      let k := (o - coreBase) / coreSpan
      let x := (o - coreBase) % coreSpan
      if x < wgaBase then .scratch n k x else .wga n k (x - wgaBase)

/-! ### The memory error log -/

/-- R183: MEM and WHERE of a place. -/
def placeMem : Place → Nat × Nat
  | .stack st _ => (0, st)
  | .scratch n _ _ => (1, n)
  | .wga n _ _ => (2, n)
  | .shelf n _ => (3, n)

/-- R183: ADDR of the codeword at an address: 64-byte aligned device-local for stacks, 8-byte aligned window address for
SRAM. -/
def codewordAddr (a : Nat) (p : Place) : Nat :=
  match p with
  | .stack _ _ => a / 64 * 64
  | q => q.key / 8 * 8

/-- R240: the Field Time copy of a compute die: within 2 ticks of the I/O die's count, and standing still on a fenced die. -/
def dieTime (s : State) (n : Nat) : DWord :=
  if isFenced s n then s.ft.still.get 0 n else s.ft.ft - 2 + BitVec.ofNat 64 (Config.copySkew n s.clk % 5)

/-- R183: an entry added to the memory error log; its index. -/
def addMemErr (e : MemErr) (s : State) : Nat × State :=
  let i := s.mem.errCount
  (i.toNat, { s with mem := { s.mem with errCount := i + 1,
                                         errLog := s.mem.errLog.put .reset (i.toNat % 64) { e with index := i, made := s.clk } } })

/-- R182, R183: an entry in the memory error log for the codeword at an address, stamped by the die that holds it; its index. An entry of
the same codeword made by a read within the last 1 µs serves again, whoever reads or scrubs (log 91). -/
def logMemErr (a : Nat) (p : Place) (source unit core : Nat) (symbols : Byte) (s : State) : Nat × State :=
  let ad := BitVec.ofNat 44 (codewordAddr a p)
  let (mm, wh) := placeMem p
  let recent := (s.mem.errLog.map (·.2)).find? fun e =>
    e.addr == ad && e.mem == mm && e.place == wh && e.source != 1 && source != 1 && decide (s.clk ≤ e.made + 1000)
      && decide (e.index.toNat < s.mem.errCount.toNat)
  match recent with
  | some e => (e.index.toNat, s)
  | none =>
    addMemErr { MemErr.reset with addr := ad, tick := dieTime s p.die, mem := mm, place := wh, source := source, unit := unit,
                                  core := BitVec.ofNat 16 core, symbols := symbols } s

/-- The symbols in error that an uncorrectable codeword is known with. -/
def symbolsAt (m : Mem) (p : Place) : Byte := m.bad.get 0 (codeword p.key)

/-- R165, R173: the device-local address of the byte at a place. -/
def placeAddr (s : State) (key : Nat) : Nat :=
  if key < sramBase ∧ kindlingMap s then key % 2 ^ 36
  else if key < sramBase then
    let st := key / 2 ^ 36
    let b := key % 2 ^ 36
    st / 3 * dieSpan + (b / 2048 * 3 + st % 3) * 2048 + b % 2048
  else key

/-- R182: writes that no descriptor of this module makes: each codeword of which they drop bytes gives a log entry with SOURCE = WRITE,
UNIT = 7 and CORE = 0xFFFF. -/
def logDropped (cs : List Nat) (m : Mem) (s : State) : State :=
  cs.foldl (fun s c => (logMemErr (placeAddr s c) (keyPlace c) 1 7 0xFFFF (m.bad.get 0 c) s).2) s

/-- R182: such writes made at their places. -/
def commitNoted (ws : List (Nat × Byte)) (s : State) : State :=
  logDropped (partBad s.mem ws) s.mem { s with mem := commit s.mem ws }

/-! ### Core counters -/

def coreCtr (s : State) (c : Nat) : CoreCtr := s.cores.get .reset c

def updCore (c : Nat) (f : CoreCtr → CoreCtr) (s : State) : State :=
  { s with cores := s.cores.put .reset c (f (s.cores.get .reset c)) }

end Sys2Proof.Machine
end

