-- ==== Sys2Proof/Machine/Packets.lean ====
section
/-! DEFINITION. Packets and messages (R300 to R302), streams (R309), and the kinds of YOKE packets (R384). -/

namespace Sys2Proof.Machine

/-- R300: the bytes of a packet on the link: header, padded payload and trailer. -/
def packetBytes (p : Packet) : Nat := 40 + ceilDiv p.payload.length 8 * 8

/-- R302: the pool blocks a packet occupies. -/
def packetBlocks (p : Packet) : Nat := ceilDiv (packetBytes p) 256

/-- R299: one step of the CRC-16 of a control word. -/
def crc16Bit (c : BitVec 16) : BitVec 16 := if c.msb then c <<< 1 ^^^ 0x1021 else c <<< 1

/-- R299: CRC-16: polynomial 0x1021, initial value 0xFFFF, not reflected. -/
def crc16 (bs : List Byte) : BitVec 16 :=
  bs.foldl (fun c b => (List.range 8).foldl (fun c _ => crc16Bit c) (c ^^^ BitVec.shiftLeft (b.setWidth 16) 8)) 0xFFFF

/-- R300: one step of the CRC-32C of a packet; 0x82F6_3B78 is 0x1EDC_6F41 reflected. -/
def crc32Bit (c : Word) : Word := if c.getLsbD 0 then c >>> 1 ^^^ 0x82F63B78 else c >>> 1

/-- R300: CRC-32C: reflected, initial value and final XOR 0xFFFF_FFFF. -/
def crc32c (bs : List Byte) : Word :=
  (bs.foldl (fun c b => (List.range 8).foldl (fun c _ => crc32Bit c) (c ^^^ b.setWidth 32)) 0xFFFFFFFF) ^^^ 0xFFFFFFFF

/-- R300: the header of a packet. -/
def packetHeader (p : Packet) : List Byte :=
  leBytes 1 (p.type.toNat + at' p.vc 4 + at' (bit p.last) 7) ++ leBytes 1 (p.dstSide.toNat + at' (bit p.srcSide) 2)
    ++ leBytes 2 p.srcPos.toNat ++ leBytes 2 p.dstPos.toNat ++ leBytes 2 p.payload.length ++ leBytes 2 p.stream.toNat
    ++ leBytes 2 0 ++ leBytes 4 p.mseq.toNat ++ leBytes 4 p.offset.toNat ++ leBytes 4 p.arg0.toNat ++ leBytes 8 p.arg1.toNat

/-- R300: a packet as it travels: header, payload padded to a multiple of 8 bytes, and trailer. -/
def packetWire (p : Packet) : List Byte :=
  let b := packetHeader p ++ padTo (ceilDiv p.payload.length 8 * 8) p.payload
  b ++ leBytes 4 (crc32c b).toNat ++ leBytes 4 0

/-- R299: KIND of a control word, and its bytes from offset 4 on. -/
def wordFields : CtlWord → Nat × List Byte
  | .ack f => (0, leBytes 2 f.toNat)
  | .nak f => (1, leBytes 2 f.toNat)
  | .credit vc total => (2, leBytes 4 vc ++ leBytes 4 total.toNat)
  | .timeReq t1 => (3, leBytes 4 0 ++ leBytes 8 t1.toNat)
  | .timeRsp t1 t2 turn => (4, leBytes 4 0 ++ leBytes 8 t1.toNat ++ leBytes 8 t2.toNat ++ leBytes 4 turn.toNat)
  | .hello h =>
    (5, leBytes 2 (h.position.toNat + at' (bit h.side) 14 + at' (bit h.yokeEn) 15) ++ leBytes 1 h.port.toNat
      ++ leBytes 1 (h.kindDev.toNat + at' h.role.toNat 2 + at' (bit h.variant) 4 + at' h.iodGen.toNat 5)
      ++ leBytes 1 h.state.toNat ++ leBytes 1 h.proto.toNat)

/-- R299: a link control word as it travels. -/
def wordWire (w : CtlWord) : List Byte :=
  let b := padTo 30 (leBytes 4 (0xF + at' (wordFields w).1 4) ++ (wordFields w).2)
  b ++ leBytes 2 (crc16 b).toNat

/-- R291: the flits of a packet, each packet starting a flit of its own (log 20). -/
def packetFlits (p : Packet) : Nat := ceilDiv (packetBytes p) 640

/-- R309: the key of a stream at its receiver. -/
def streamKey (srcPos : Nat) (srcSide : Bool) (stream : Nat) : Nat := srcPos * 2 ^ 17 + bit srcSide * 2 ^ 16 + stream

/-- R309: the key of a stream at its sender. -/
def sendKey (dstPos dstSide stream : Nat) : Nat := dstPos * 2 ^ 18 + dstSide * 2 ^ 16 + stream

def streamOf (s : State) (k : Nat) : Stream := s.link.streams.get .reset k

def setStream (k : Nat) (x : Stream) (s : State) : State :=
  { s with link := { s.link with streams := s.link.streams.put .reset k x } }

/-- The fields that every packet of this module carries. -/
def mkPacket (s : State) (type : Nat) (vc : Nat) (dstPos dstSide stream : Nat) (mseq : Word) (arg0 : Nat) (arg1 : Nat)
    (offset : Nat) (last : Bool) (payload : List Byte) : Packet :=
  { type := BitVec.ofNat 4 type, vc := vc, last := last, dstSide := BitVec.ofNat 2 dstSide, srcSide := strapSide s,
    srcPos := BitVec.ofNat 14 (strapPos s), dstPos := BitVec.ofNat 14 dstPos, stream := BitVec.ofNat 16 stream,
    mseq := mseq, offset := BitVec.ofNat 32 offset, arg0 := BitVec.ofNat 32 arg0, arg1 := BitVec.ofNat 64 arg1,
    payload := payload }

/-- Bytes cut into pieces of `n`; one empty piece of no bytes. -/
def pieces (n : Nat) (b : List Byte) : List (List Byte) :=
  (List.range (max 1 (ceilDiv b.length n))).map fun i => (b.drop (n * i)).take n

/-- R302: a message cut into packets of 4,096 payload bytes in ascending OFFSET order, the last with LAST = 1. -/
def mkMessage (s : State) (type vc dstPos dstSide stream : Nat) (mseq : Word) (arg0 arg1 : Nat) (payload : List Byte) :
    List Packet :=
  let ps := pieces 4096 payload
  ps.zipIdx.map fun (b, i) =>
    mkPacket s type vc dstPos dstSide stream mseq arg0 arg1 (4096 * i) (i + 1 == ps.length) b

/-- The next MSEQ of a stream that this module sends, and the state with it taken. -/
def takeSeq (k : Nat) (s : State) : Word × State :=
  let n := s.link.sendSeq.get 0 k
  (n, { s with link := { s.link with sendSeq := s.link.sendSeq.put 0 k (n + 1) } })

/-- R384: the kinds of YOKE packets. -/
def ykPair : Nat := 0
def ykHeartbeat : Nat := 1
def ykPageAck : Nat := 2
def ykSeal : Nat := 3
def ykSealAck : Nat := 4
def ykLogAck : Nat := 5
def ykFault : Nat := 6
def ykForfeit : Nat := 7
def ykDepose : Nat := 8
def ykResync : Nat := 9

/-- R383: DST_SIDE of the partner. -/
def partnerSide (s : State) : Nat := if strapSide s then 1 else 2

/-- The number under which packets without a port that is UP are held (R313 rule 2). -/
def noPort : Nat := 16

end Sys2Proof.Machine
end

