-- ==== Sys2Proof/Machine/Fence.lean ====
section
/-! DEFINITION. What a descriptor depends on (R407), module-state changes (R21, R61), and the entry to Fenced at a job
fault (R22, R23). -/

namespace Sys2Proof.Machine

/-! ### Dependence on compute dies -/

/-- The byte offsets of the tensor-descriptor addresses in a body. -/
def tdFields : Op → List Nat
  | .mma | .conv | .bMma | .wMma => [16, 24, 32]
  | .chain => [16, 24]
  | .copy | .relayout => [16, 24]
  | .gather | .scatter => [16, 24, 32]
  | .send | .recv => [16]
  | _ => []

/-- R185, R197: the addresses that reading a tensor descriptor reads. -/
def tdReads (s : State) (rq : Requester) (a : Nat) : List Nat :=
  (List.range (if fieldAt (readBytes s rq a 64) 0 54 1 == 1 then 128 else 64)).map (a + ·)

/-! ### The records of a COLLECTIVE and of a GUARD_VERDICT -/

/-- R324: the fields of a COLLECTIVE that name records. -/
def collOp (d : Desc) : Nat := d.fld 16 0 4
def collList (d : Desc) : Nat := d.fld 32 0 44
def collTable (d : Desc) : Nat := d.fld 40 0 44
def collFar (d : Desc) : Nat := d.fld 56 0 58

/-- R326: the positions of a member list, in the order of rank. -/
def memberList (s : State) (a : Nat) : List Nat :=
  let n := fieldAt (readBytes s .iod a 2) 0 0 14 + 1
  let b := readBytes s .iod a (2 + 2 * n)
  (List.range n).map fun i => fieldAt b (2 + 2 * i) 0 14

/-- R199: an entry of an owner table of rank 1. -/
structure OwnerEntry where
  origin : Nat
  len : Nat
  pos : Nat
  td : Nat
deriving DecidableEq, Repr

def ownerCount (s : State) (a : Nat) : Nat := fieldAt (readBytes s .iod a 64) 0 0 16 + 1

def ownerEntries (s : State) (a : Nat) : List OwnerEntry :=
  (List.range (ownerCount s a)).map fun e =>
    let b := readBytes s .iod (a + 64 + 64 * e) 64
    { origin := fieldAt b 0 0 24, len := fieldAt b 18 0 24, pos := fieldAt b 36 0 14, td := fieldAt b 40 0 44 }

/-- The addresses that reading a record reads whose head of some bytes says how long it is: none of a record that is unaligned or whose
head is out of reach, and the head alone of one that ends there. -/
def spanReads (s : State) (a head n : Nat) : List Nat :=
  if recordOk s .iod a head 64 then (List.range (if inReach s .iod a n then n else head)).map (a + ·) else []

/-- R326: the addresses of a member list. -/
def listReads (s : State) (a : Nat) : List Nat := spanReads s a 2 (2 + 2 * (memberList s a).length)

/-- R199: the addresses of an owner table. -/
def tableReads (s : State) (a : Nat) : List Nat := if a = 0 then [] else spanReads s a 64 (64 + 64 * ownerCount s a)

/-- R191, R200, R331: the addresses of the records that a COLLECTIVE reads when it starts: its member list, its owner table, and the receive
table with the tensor descriptors that it names. -/
def collReads (s : State) (d : Desc) : List Nat :=
  let far := d.fld 56 0 44
  if 4 < collOp d then [] else
    listReads s (collList d) ++ (if collOp d = 3 then [] else tableReads s (collTable d))
      ++ (if collOp d = 4 ∧ far ≠ 0 then
            let es := tableReads s far
            es ++ (if es.length ≤ 64 then [] else
              (ownerEntries s far).flatMap fun e => if recordOk s .iod e.td 64 64 then tdReads s .iod e.td else [])
          else [])

/-- R121: the addresses of a chain program that are read: its stage words up to NSTAGES_M1. -/
def programReads (d : Desc) : List Nat := (List.range (100 + 4 * d.fld 40 0 3)).map (d.fld 32 0 44 + ·)

/-- R191, R121, R154, R200, R221, R227, R345: the addresses of the records that a copy reads when it starts: the tensor descriptors that its
body names, a chain program with those that it names, the masks of a W_MMA, the segment list of an HE_OP, the optimizer record, and member
lists and owner tables. One that is misaligned or not within reach is not read (log 94). -/
def recordAddrs (s : State) (d : Desc) (t : Target) : List Nat :=
  let rq := rqOf t
  let named (as : List Nat) : List Nat :=
    as.flatMap fun a => if a != 0 && recordOk s rq a 64 64 then tdReads s rq a else []
  match d.op with
  | none => []
  | some .chain =>
    let prog := d.fld 32 0 44
    let tds := (List.range 8).map fun j => leNat (readBytes s rq (prog + 8 * j) 8) % 2 ^ 44
    named ((if d.fld 40 6 2 % 2 = 1 then [] else [d.fld 16 0 44]) ++ [d.fld 24 0 44])
      ++ (if recordOk s rq prog 128 64 then programReads d ++ named tds else [])
  | some .wMma =>
    let flush := d.fld 40 24 1 == 1
    let g := readBytes s rq (d.fld 32 0 44) 64
    let ext0 (off : Nat) : Nat := fieldAt (readBytes s rq (d.fld off 0 44) 64) 12 0 24
    let n := if flush then fieldAt g 15 0 24 else ext0 16
    let k := if flush then fieldAt g 12 0 24 else ext0 24
    let mask (a bits : Nat) : List Nat :=
      if a != 0 && recordOk s rq a (ceilDiv bits 8) 64 then (List.range (ceilDiv bits 8)).map (a + ·) else []
    named ((if flush then [32] else [16, 24, 32]).map fun off => d.fld off 0 44)
      ++ mask (d.fld 48 0 44) n ++ mask (d.fld 56 0 44) (ceilDiv n 64 * ceilDiv k 64)
  | some .heOp =>
    let n := 32 * (d.fld 16 44 4 + 1)
    spanReads s (d.fld 16 0 44) n n
  | some .optStep =>
    let a := d.fld 16 0 44
    spanReads s a 64 (64 + 64 * (fieldAt (readBytes s .iod a 64) 0 16 4 + 1))
  | some .collective => collReads s d
  | some .guardVerdict => listReads s (d.fld 16 0 44)
  | some o => named ((tdFields o).map fun off => d.fld off 0 44)

/-- R191: the state in which the records that a copy read when it started read as they did then. -/
def asStarted (d : Desc) (t : Target) (s : State) : State :=
  match (copyAt d t).map (·.snap) with
  | some (x :: xs) => { s with mem := putBytes s.mem (x :: xs) }
  | _ => s

/-- The byte offsets of the other device-local addresses in a body: programs, masks, records, lists and runs. -/
def addrFields : Op → List Nat
  | .chain => [32]
  | .wMma => [48, 56]
  | .heOp => [16]
  | .optStep => [16]
  | .collective => [24]
  | .guardReport => [16, 24, 32]
  | .guardVerdict => [16, 24]
  | .ember => [16]
  | .bist => [40]
  | _ => []

/-- The compute die that an address belongs to, for a requester; none where it reaches nothing there. -/
def dieOfAddr (s : State) (rq : Requester) (a : Nat) : Option Nat := (access s rq a).map Place.die

/-- A 40-bit stride in two's complement (R185). -/
def signed40 (n : Nat) : Int := if n < 2 ^ 39 then (n : Int) else (n : Int) - 2 ^ 40

/-- R185: the lowest and the highest address that a tensor descriptor's rows start at. -/
def tdSpan (td : List Byte) : Nat × Nat :=
  let base := fieldAt td 0 0 44
  let rank := fieldAt td 0 48 3
  let reach (d : Nat) : Int :=
    if d < rank then ((fieldAt td (12 + 3 * d) 0 24 : Int) - 1) * signed40 (fieldAt td (30 + 5 * (d - 1)) 0 40) else 0
  let ds := [1, 2, 3, 4, 5]
  let lo := (ds.map fun d => min 0 (reach d)).sum
  let hi := (ds.map fun d => max 0 (reach d)).sum
  (((base : Int) + lo).toNat, ((base : Int) + hi).toNat)

/-- The requester that stands for the first copy of a descriptor. -/
def firstRequester (b : List Byte) : Requester := if hUnit b < 4 then .core (hUnit b) (hFirst b) else .iod

/-- R191, R200, R227: the state in which the records that a descriptor's first copy read when it started read as they did then. -/
def withSnap (d : Desc) (s : State) : State :=
  match d.copies.head? with
  | some c => asStarted d c.target s
  | none => s

/-- R331, R332, R335: the further addresses by which a COLLECTIVE depends on a die: its member list and owner table, the receive table
with its tensor descriptors, and FAR's local run. -/
def collAddrs (s : State) (d : Desc) : List Nat × List Nat :=
  let op := d.fld 16 0 4
  let far := d.fld 56 0 44
  if op ≤ 4 then
    let tds := if op = 4 ∧ far ≠ 0 then (ownerEntries s far).map (·.td) else []
    (d.fld 32 0 44 :: (if op = 3 then [] else [d.fld 40 0 44]) ++ (if op = 4 then [far] else []), tds)
  else (if d.fld 56 44 14 = strapPos s then [far] else [], [])

/-- R407: every address by which a descriptor may depend on a die: its tensor descriptors, the ends of the tensors they
describe with their scales, and its records, lists and runs. -/
def operandAddrs (s : State) (d : Desc) : List Nat :=
  match d.op with
  | none => []
  | some o =>
    let s := withSnap d s
    let rq := firstRequester d.bytes
    let (also, further) := if o = .collective then collAddrs s d else ([], [])
    let prog := if o = .chain then (List.range 8).map fun j => leNat (readBytes s rq (d.fld 32 0 44 + 8 * j) 8) % 2 ^ 44 else []
    let tds := (((tdFields o).map fun off => d.fld off 0 44) ++ further ++ prog).filter (· != 0)
    let ofTd (a : Nat) : List Nat :=
      let td := readBytes s rq a 64
      let (lo, hi) := tdSpan td
      [a, lo, hi, fieldAt td 56 0 44]
    let heRuns (a n op : Nat) : List Nat :=
      (List.range n).flatMap fun i =>
        let e := readBytes s rq (a + 32 * i) 32
        (if op ≤ 4 then [fieldAt e 0 0 44] else []) ++ (if op = 0 ∨ op = 4 then [] else [fieldAt e 8 0 44])
    let optRuns (a : Nat) : List Nat :=
      let h := readBytes s rq a 64
      let algo := fieldAt h 0 0 4
      (List.range (fieldAt h 0 16 4 + 1)).flatMap fun i =>
        let e := readBytes s rq (a + 64 + 64 * i) 32
        [fieldAt e 0 0 44, fieldAt e 8 0 44] ++ (if algo = 5 then [] else [fieldAt e 16 0 44])
          ++ (if algo ≤ 1 then [fieldAt e 24 0 44] else [])
    tds.flatMap ofTd ++ (((addrFields o).map fun off => d.fld off 0 44) ++ also).filter (· != 0)
      ++ (if o = .heOp ∧ (d.fld 24 0 4 = 5 ∨ d.fld 24 0 4 = 6) then [d.fld 48 0 44] else [])
      ++ (if o = .heOp then heRuns (d.fld 16 0 44) (d.fld 16 44 4 + 1) (d.fld 24 0 4) else [])
      ++ (if o = .optStep then optRuns (d.fld 16 0 44) else [])

/-- R407: the dies that a raw stream of the descriptor runs to or from. -/
def streamDie (d : Desc) : Option Nat :=
  match d.op with
  | some .mma | some .conv | some .bMma => if d.fld 40 22 2 = 3 then some (d.fld 44 16 2) else none
  | some .chain => if d.fld 40 6 2 = 2 then some (d.fld 60 0 2) else none
  | _ => none

/-- R407: the descriptor runs a copy on CDn, or has an operand, record or run there. -/
def usesDie (s : State) (d : Desc) (n : Nat) : Bool :=
  hUnit d.bytes == n || bitOf d.deps.toNat n || (operandAddrs s d).any fun a => dieOfAddr s (firstRequester d.bytes) a == some n

/-- R407: the descriptor depends on CDn. -/
def dependsOn (s : State) (d : Desc) (n : Nat) : Bool := streamDie d == some n || usesDie s d n

/-- R48: the fenced dies that a descriptor depends on, as a mask. -/
def fencedDeps (s : State) (d : Desc) : Nat :=
  ((List.range 4).map fun n => if isFenced s n && dependsOn s d n then 2 ^ n else 0).sum

/-! ### Changes of the module state -/

/-- R384, R407: on entry to Fenced the active member of a yoke pair sends FAULT; the packet waits for its port. -/
def sendFault (cause : Nat) (s : State) : State :=
  let pos := strapPos s
  let (n, s1) := takeSeq (sendKey pos (partnerSide s) 0x202) s
  let q := mkPacket s1 9 7 pos (partnerSide s) 0x202 n ykFault cause 0 true []
  { s1 with link := { s1.link with backlog := s1.link.backlog ++ [(noPort, q)] } }

/-- R25, R61, R384: the module enters a state with a cause; a transition under way ends; vector 64 is raised on entry to
Fenced and vector 65 on any other; entry to Fenced from Full service with YOKE_CFG.EN = 1 sends FAULT. -/
def setMode (m : Mode) (cause : Nat) (s : State) : State :=
  let s1 := { s with ms := { s.ms with mode := m, prev := s.ms.mode, cause := cause, entered := s.clk, trans := .none } }
  let s2 := if m = .fenced ∧ s.ms.mode = .full ∧ s.yoke.en then sendFault cause s1 else s1
  raiseVector (if m = .fenced then 64 else 65) s2

/-- R129, R404: a CHAIN that depends on fenced dies only through the stream it takes; a FENCED word will end it. -/
def endsByWord (s : State) (d : Desc) : Bool :=
  d.op == some .chain && (streamDie d).isSome && !(List.range 4).any fun n => isFenced s n && usesDie s d n

/-- R23: on entry to Fenced a descriptor not yet started completes with ABORTED, and one that depends on a fenced die
completes with FENCED. -/
def fenceDescs (s : State) : State :=
  s.descs.foldl (fun s d =>
    if d.finished then s
    else if !d.started then setOutcome d.ref stAborted 0 none s
    else
      let m := fencedDeps s d
      if m = 0 || endsByWord s d then s else setOutcome d.ref stFenced m none s) s

/-- R361, R408: CAUSE where a job fault is found on the tick on which another took the module to Fenced: the lower value where either
is LEDGER_FAULT, and DUEST_PERMANENT where either is that and the other DIE_LOSS. -/
def joinCause (old new : Nat) : Nat :=
  if old = causeDieLoss ∧ new = causeDuestPermanent then new
  else if (old = causeLedgerFault ∨ new = causeLedgerFault ∧ (old < causeCoolant ∨ old = causeWatchdog)) ∧ new < old then new
  else old

/-- R361, R408: a job fault on the tick of the entry to Fenced. -/
def joinFault (cause : Nat) (s : State) : State :=
  if s.ms.entered = s.clk then { s with ms := { s.ms with cause := joinCause s.ms.cause cause } } else s

/-- R21 to R23: a job fault. In Full service and Banked the module enters Fenced; a takeover under way ends with CAUSE =
TAKEOVER_FAULT and RESULT = TAKEOVER_FAULT (R394). In every other state the module state does not change; on the tick of the entry to
Fenced, CAUSE takes the value that R361 gives. -/
def jobFault (cause : Nat) (s : State) : State :=
  match s.ms.mode with
  | .full => fenceDescs (setMode .fenced cause s)
  | .banked =>
    if s.ms.trans = .takeover then
      let s1 := { s with yoke := { s.yoke with result := 5, takeEnd := s.ft.ft, stage := .none } }
      raiseVector 69 (fenceDescs (setMode .fenced causeTakeoverFault s1))
    else fenceDescs (setMode .fenced cause s)
  | .fenced => joinFault cause s
  | _ => s

/-- R182: what follows an uncorrectable read or write by a descriptor: a log entry, MEM_UNCORRECTABLE with its index, and
the job fault. `t` is the copy that met it. -/
def memUncorrectable (r : Ref) (t : Target) (a : Nat) (p : Place) (source : Nat) (symbols : Byte) (s : State) : State :=
  match findDesc s r with
  | none => s
  | some d =>
    let (i, s1) := logMemErr a p source (hUnit d.bytes) (coreNumber t) symbols s
    jobFault causeMemUncorrectable (setOutcome r stMemUncorrectable i (some (coreNumber t)) s1)

end Sys2Proof.Machine
end

