-- ==== Sys2Proof/Machine/Ledgers.lean ====
section
/-! DEFINITION. Conservation ledgers: domains and columns (R356, R357), totals (R358), transfers and their checks (R359),
faults (R361), and the reclaimed column (R362 to R364). -/

namespace Sys2Proof.Machine

/-- R356: the domains. -/
def dRingSlot : Nat := 0
def dAeTxn : Nat := 1
def dHeTxn : Nat := 2
def dLinkPacket : Nat := 3
def dCredit : Nat := 4
def dBlock : Nat := 5
def dBarrier : Nat := 6
def dEmberPage : Nat := 7

/-- R357: the columns that tokens move between. -/
inductive Column where
  | free
  | held
  | lent
deriving DecidableEq, Repr

/-- R359: the KINDs of a ledger fault. -/
def kSum : Nat := 1
def kOverdraw : Nat := 2
def kUncovered : Nat := 3
def kOverfill : Nat := 4
def kParity : Nat := 5
def kGap : Nat := 6

def lgDom (s : State) (d : Nat) : LgDom := s.lg.doms.get .reset d

/-- A ledger changes at the present clock, before which its columns stay known (R365). -/
def setLgDom (d : Nat) (x : LgDom) (s : State) : State :=
  let l := s.lg
  { s with lg := { l with doms := l.doms.put .reset d x, stamp := s.clk,
                          before := if l.stamp = s.clk then l.before else l.doms } }

/-- R365: a ledger by the transfers stamped before the present tick. -/
def lgBefore (s : State) (d : Nat) : LgDom := if s.lg.stamp = s.clk then s.lg.before.get .reset d else lgDom s d

/-- R357: FREE + HELD + LENT + RECLAIMED. -/
def LgDom.sum (x : LgDom) : Nat := x.free + x.held + x.lent + x.reclaimed

/-- R368: LG_HIGH raised to HELD + LENT. -/
def LgDom.noteHigh (x : LgDom) : LgDom :=
  let h := hold 0xFFFFFFFF (x.held + x.lent)
  if x.high.toNat < h then { x with high := BitVec.ofNat 32 h } else x

/-- R358: a total set, all of it FREE. -/
def LgDom.setTotal (n : Nat) (x : LgDom) : LgDom :=
  { LgDom.full n with high := x.high, moved := x.moved, parityBad := x.parityBad }

/-- R358: a change of the total made in FREE; refused where FREE would fall below 0. -/
def LgDom.changeTotal (delta : Int) (x : LgDom) : Option LgDom :=
  if (x.free : Int) + delta < 0 then none
  else some { x with total := ((x.total : Int) + delta).toNat, free := ((x.free : Int) + delta).toNat }

/-- R359: a take of `n` tokens for a holder; none where FREE does not hold them, which is back-pressure and no fault, or
where the holder's tokens lie in RECLAIMED. -/
def LgDom.take (h n : Nat) (x : LgDom) : Option LgDom :=
  if x.free < n || x.movedTo.get 0 h != 0 then none
  else some ({ x with free := x.free - n, held := x.held + n, heldBy := x.heldBy.upd 0 h (· + n) }).noteHigh

/-- What the giving column and the holder's share hold. -/
def LgDom.has (c : Column) (h : Nat) (x : LgDom) : Nat :=
  match c with
  | .free => x.free
  | .held => x.heldBy.get 0 h
  | .lent => x.lentBy.get 0 h

def LgDom.giveTo (c : Column) (h n : Nat) (x : LgDom) : LgDom :=
  match c with
  | .free => { x with free := x.free + n }
  | .held => { x with held := x.held + n, heldBy := x.heldBy.upd 0 h (· + n) }
  | .lent => { x with lent := x.lent + n, lentBy := x.lentBy.upd 0 h (· + n) }

def LgDom.takeFrom (c : Column) (h n : Nat) (x : LgDom) : LgDom :=
  match c with
  | .free => { x with free := x.free - n }
  | .held => { x with held := x.held - n, heldBy := x.heldBy.upd 0 h (· - n) }
  | .lent => { x with lent := x.lent - n, lentBy := x.lentBy.upd 0 h (· - n) }

/-- R359, R363: a checked transfer. A return from a holder whose tokens lie in RECLAIMED is ignored; a transfer that the
giving share does not cover, or that the total does not, is refused with its KIND and moves nothing. -/
def LgDom.move (block : Bool) (h n : Nat) (src dst : Column) (x : LgDom) : Except Nat LgDom :=
  if x.movedTo.get 0 h != 0 then .ok x
  else if x.has src h < n then
    .error (if block && src == .lent && dst == .held then kUncovered else kOverdraw)
  else if x.total < x.sum then .error kOverfill
  else .ok (((x.takeFrom src h n).giveTo dst h n).noteHigh)

/-- R361: what a ledger fault does: the log, the count, the descriptor it names, and the job fault. -/
def ledgerFault (d kind holder : Nat) (r : Option Ref) (s : State) : State :=
  let l := s.lg
  let l1 := { l with faultCount := l.faultCount + 1 }
  let l2 := if l.faultValid then l1 else
    { l1 with faultDomain := d, faultKind := kind, faultHolder := holder, faultValid := true, faultTick := s.ft.ft }
  let s1 := { s with lg := l2 }
  let s2 := match r with
    | some r => setOutcome r stLedgerFault d none s1
    | none => s1
  jobFault causeLedgerFault s2

/-- R360: a counter whose parity does not match is found at its next update: KIND = PARITY, no descriptor named. -/
def parityCheck (d : Nat) (s : State) : State :=
  let x := lgDom s d
  if x.parityBad then ledgerFault d kParity 0xFFFF none (setLgDom d { x with parityBad := false } s) else s

/-- R360: an update of a ledger that no transfer makes, at which parity is checked too. -/
def updLgDom (d : Nat) (f : LgDom → LgDom) (s : State) : State :=
  let s := parityCheck d s
  setLgDom d (f (lgDom s d)) s

/-- R358, R360: a change of a total, made to a ledger first put in some order; none where FREE would fall below 0. -/
def changeTotalOf (d : Nat) (f : LgDom → LgDom) (delta : Int) (s : State) : Option State :=
  let s := parityCheck d s
  ((f (lgDom s d)).changeTotal delta).map fun y => setLgDom d y s

/-- R359: a take; whether it was made, and the state. -/
def ledgerTake (d h n : Nat) (s : State) : Bool × State :=
  let s := parityCheck d s
  match (lgDom s d).take h n with
  | some x => (true, setLgDom d x s)
  | none => (false, s)

/-- R359, R361: a checked transfer; a refused one is a ledger fault on behalf of the descriptor named. -/
def ledgerMove (d h n : Nat) (src dst : Column) (r : Option Ref) (s : State) : Bool × State :=
  if n = 0 then (true, s) else
  let s := parityCheck d s
  match (lgDom s d).move (d == dBlock) h n src dst with
  | .ok x => (true, setLgDom d x s)
  | .error k => (false, ledgerFault d k h r s)

/-- R356, R371: the pool pages of the reserved region, the total of EMBER_PAGE; set from the layout at entry to Full
service by the ember unit. -/
def setTotal (d n : Nat) (s : State) : State := updLgDom d (LgDom.setTotal n) s

/-- R358: the totals at entry to Full service. -/
def ledgersFull (pages : Nat) (s : State) : State :=
  let s1 := setTotal dAeTxn (49152 * dieCount s) s
  let s2 := setTotal dHeTxn (4096 * stackCount s) s1
  let s3 := setTotal dLinkPacket 65536 s2
  let s4 := setTotal dBlock 393216 s3
  setTotal dEmberPage pages s4

/-- R364: RECLAIMED becomes 0 in the ledgers that keep their totals. -/
def LgDom.dropReclaimed (x : LgDom) : LgDom :=
  { x with free := x.free + x.reclaimed, reclaimed := 0, byDie := [], movedTo := [] }

/-- R358, R364: the totals at entry to Kindling. -/
def ledgersKindling (s : State) : State :=
  let s1 := [dRingSlot, dCredit, dBarrier].foldl (fun s d => updLgDom d LgDom.dropReclaimed s) s
  let s2 := setTotal dAeTxn 49152 s1
  [dHeTxn, dLinkPacket, dBlock, dEmberPage].foldl (fun s d => setTotal d 0 s) s2

/-- R362: tokens of holders moved to RECLAIMED on account of a die: of each holder its HELD share, and its LENT share
where asked; the holders are marked as moved where asked. -/
def LgDom.reclaim (die : Nat) (hs : List Nat) (withLent mark : Bool) (x : LgDom) : LgDom :=
  let y := hs.foldl (fun (y : LgDom) h =>
    let k := y.heldBy.get 0 h
    let l := if withLent then y.lentBy.get 0 h else 0
    let n := k + l
    { y with held := y.held - k, lent := y.lent - l, heldBy := y.heldBy.put 0 h 0,
             lentBy := if withLent then y.lentBy.put 0 h 0 else y.lentBy,
             reclaimed := y.reclaimed + n, byDie := y.byDie.upd 0 die (· + n), moved := y.moved.add n,
             movedTo := if mark then y.movedTo.put 0 h (die + 1) else y.movedTo }) x
  y

/-- R362: a part of a holder's HELD share moved to RECLAIMED. -/
def LgDom.reclaimPart (die h n : Nat) (x : LgDom) : LgDom :=
  let n := min n (x.heldBy.get 0 h)
  { x with held := x.held - n, heldBy := x.heldBy.upd 0 h (· - n), reclaimed := x.reclaimed + n,
           byDie := x.byDie.upd 0 die (· + n), moved := x.moved.add n }

/-- R364: the tokens that a die contributed to RECLAIMED move back to FREE. -/
def LgDom.giveBack (die : Nat) (x : LgDom) : LgDom :=
  let n := x.byDie.get 0 die
  { x with free := x.free + n, reclaimed := x.reclaimed - n, byDie := x.byDie.put 0 die 0,
           movedTo := x.movedTo.filter fun p => p.2 != die + 1 }

/-- R368: LG_RECLAIMED.DIES. -/
def LgDom.dies (x : LgDom) : Nat := ((List.range 4).map fun n => if x.byDie.get 0 n != 0 then 2 ^ n else 0).sum

/-- R356, R368: tokens taken and given back within one operation, as many as are FREE: LG_HIGH keeps the peak. -/
def LgDom.passed (n : Nat) (x : LgDom) : LgDom :=
  { x with high := ({ x with held := x.held + min n x.free }).noteHigh.high }

/-- R356: what one holder's share of HELD comes to. -/
def heldOf (s : State) (d h : Nat) : Nat := (lgDom s d).heldBy.get 0 h

/-- R175, R176, R214: a holder takes tokens for the operations that it has outstanding, at most `most` in all: how many is open
(log 89). -/
def holdTokens (d most draw h : Nat) (s : State) : State :=
  let n := Config.freeAt draw (1024 * d + h) % (min (most - heldOf s d h) (lgDom s d).free + 1)
  if n = 0 then s else (ledgerTake d h n s).2

/-- R359: a holder's operations are over and its tokens return. -/
def returnTokens (d h : Nat) (s : State) : State := (ledgerMove d h (heldOf s d h) .held .free none s).2

/-- R175, R176, R356: within one operation some holders take more tokens and give them back, at most `most` held by each at once; how
many is open (log 89). -/
def useTokens (d most draw : Nat) (hs : List Nat) (s : State) : State :=
  if hs.isEmpty then s else
    let s := parityCheck d s
    let n (h : Nat) : Nat :=
      let k := heldOf s d h
      if k = 0 then 1 + Config.freeAt draw (1024 * d + h) % most else Config.freeAt draw (1024 * d + h) % (most - k + 1)
    setLgDom d ((lgDom s d).passed (hs.map n).sum) s

/-- R357: the columns of a ledger add up to its total. -/
def LgDom.balanced (x : LgDom) : Bool := x.sum == x.total

end Sys2Proof.Machine
end

