-- ==== Sys2Proof/Machine/Pool.lean ====
section
/-! DEFINITION. The shared buffer pool (R306 to R308) and the credits of the ports' receive channels (R307). -/

namespace Sys2Proof.Machine

/-- R306: receive channel c = 8p + v. -/
def chanOf (p v : Nat) : Nat := 8 * p + v

def poolCh (s : State) (c : Nat) : PoolCh := s.link.pool.chans.get .reset c

def setPoolCh (c : Nat) (x : PoolCh) (s : State) : State :=
  { s with link := { s.link with pool := { s.link.pool with chans := s.link.pool.chans.put .reset c x } } }

def setShared (n : Nat) (s : State) : State :=
  { s with link := { s.link with pool := { s.link.pool with shared := n } } }

/-- R306: the blocks of transmit windows. -/
def windowBlocks : Nat := 16384
/-- R306: the blocks of the pool. -/
def poolBlocks : Nat := 393216

/-- R306: the free blocks of the shared region when nothing is in use, with the values in effect. -/
def sharedAtFull (s : State) : Nat :=
  let p := s.link.pool
  let reserves := ((List.range 128).map fun c => (poolCh s c).effReserve).sum
  poolBlocks - windowBlocks - reserves - p.effBlocks + (if p.effLinks then p.effBlocks else 0)

/-- R308: the written values take effect at entry to Full service, and the shared region is free. -/
def poolTakeEffect (s : State) : State :=
  let p := s.link.pool
  let p1 := { p with effBlocks := p.blocks.toNat, effLinks := p.linksEn, effEmber := p.emberEn,
                     chans := (List.range 128).foldl (fun t c =>
                       let x := t.get .reset c
                       t.put .reset c { x with effReserve := x.reserve.toNat, effMax := x.max.toNat, held := 0, adv := 0 })
                       p.chans }
  let s1 := { s with link := { s.link with pool := p1 } }
  setShared (sharedAtFull s1) s1

/-- R246: a TIME word is stamped at its first bit on the wire. -/
def stampWord (now : DWord) : CtlWord → CtlWord
  | .timeReq _ => .timeReq now
  | .timeRsp t1 t2 _ => .timeRsp t1 t2 ((now - t2).setWidth 32)
  | w => w

/-- R246: t1 of the time request that a port has sent last. -/
def noteStamp (p : Nat) (w : CtlWord) (s : State) : State :=
  match w with
  | .timeReq t1 => { s with ft := { s.ft with ports := s.ft.ports.put .reset p { s.ft.ports.get .reset p with sent := some t1 } } }
  | _ => s

/-- R291, R292: the control bits of the `i`-th flit that a port sends next, not a replay. -/
def flitBits (x : Port) (i : Nat) (idle : Bool) : FlitBits :=
  { fseq := x.tx.next + BitVec.ofNat 12 i, replay := false, idle := idle, lane := (x.tx.sent + i) % 8 }

/-- R293: flits that a port sends enter its retry buffer. -/
def takeFlits (parts : List TxItem) (clk : Nat) (x : Port) : Port :=
  let t := x.tx
  { x with tx := { t with next := t.next + BitVec.ofNat 12 parts.length, sent := t.sent + parts.length,
                          unacked := t.unacked ++ parts.zipIdx.map fun (y, i) => (t.next + BitVec.ofNat 12 i, y),
                          moved := if t.unacked.isEmpty then clk else t.moved } }

/-- R293: a control word goes out on a port: it takes a flit of its own with the next FSEQ (log 20) and a place in the retry buffer. -/
def sendNow (p : Nat) (w : CtlWord) (s : State) : State :=
  let x := portOf s p
  let w := stampWord s.ft.ft w
  emit (.ctlWord p (wordWire w) (flitBits x 0 false)) (setPort p (takeFlits [.word w] s.clk x) (noteStamp p w s))

/-- R293, R304: a control word goes out on a port; with 512 unacknowledged flits, or behind other words, it waits. -/
def sendWord (p : Nat) (w : CtlWord) (s : State) : State :=
  let x := portOf s p
  if x.tx.words.isEmpty && decide (x.tx.unacked.length < 512) then sendNow p w s
  else setPort p { x with tx := { x.tx with words := x.tx.words ++ [w] } } s

/-- R299, R307: blocks returned on a channel: the cumulative TOTAL advances and a CREDIT word goes to the peer. -/
def giveCredits (p v n : Nat) (s : State) : State :=
  if n = 0 then s else
    let x := portOf s p
    let t := x.rx.returned.get 0 v + BitVec.ofNat 32 n
    sendWord p (.credit v t) (setPort p { x with rx := { x.rx with returned := x.rx.returned.put 0 v t } } s)

/-- R307 rule 1: a port's peer is given the credits of each channel's free reserve. -/
def poolOffer (p : Nat) (s : State) : State :=
  (List.range 8).foldl (fun s v =>
    let c := chanOf p v
    let x := poolCh s c
    let n := x.effReserve - x.held
    let s1 := (ledgerMove dBlock c n .free .lent none (setPoolCh c { x with adv := n } s)).2
    giveCredits p v n s1) s

/-- R307 rule 1, R429: when the port enters PARKED its peer is given credits; a port that parks while full-service training runs
gives them once step 4 has set the ledgers (log 48). -/
def poolTraining (p : Nat) (s : State) : State :=
  match s.ms.trans with
  | .training _ => s
  | _ => poolOffer p s

/-- R307 rule 4: when the port enters TRAINING or OFF, the credits advertised on its channels return to where they came
from: to the reserve, and over it to the shared region. -/
def poolLeave (p : Nat) (s : State) : State :=
  (List.range 8).foldl (fun s v =>
    let c := chanOf p v
    let x := poolCh s c
    let toShared := x.held + x.adv - max x.held x.effReserve
    let s1 := (ledgerMove dBlock c x.adv .lent .free none (setPoolCh c { x with adv := 0 } s)).2
    setShared (s1.link.pool.shared + min x.adv toShared) s1) s

/-- R307 rule 2: a packet of `b` blocks arrives on a channel: the credits it used become held blocks and the shared region
lends what it can. False where no credit covers it, which is the ledger fault UNCOVERED. -/
def poolArrive (p v b : Nat) (s : State) : Bool × State :=
  let c := chanOf p v
  let (ok, s1) := ledgerMove dBlock c b .lent .held none s
  if !ok then (false, s1) else
    let x := poolCh s1 c
    let x1 := { x with adv := x.adv - b, held := x.held + b }
    let n := min b (min (x1.effMax - x1.held - x1.adv) s1.link.pool.shared)
    let s2 := setShared (s1.link.pool.shared - n) (setPoolCh c { x1 with adv := x1.adv + n } s1)
    let s3 := (ledgerMove dBlock c n .free .lent none s2).2
    (true, giveCredits p v n s3)

/-- R307 rule 3: blocks of a channel are freed by writes to memory: each returns to the reserve as a credit while HELD + ADV
lies below RESERVE, and to the shared region otherwise. A port that has no trained peer gives no credit. -/
def poolFree (p v n : Nat) (s : State) : State :=
  let c := chanOf p v
  let x := poolCh s c
  let n := min n x.held
  let trained := match (portOf s p).state with
    | .parked | .up | .retrain => true
    | _ => false
  let held := x.held - n
  let credits := if trained then min n (x.effReserve - (held + x.adv)) else 0
  let toReserve := if trained then credits else min n (x.effReserve - held)
  let s1 := setPoolCh c { x with held := held, adv := x.adv + credits } s
  let s2 := (ledgerMove dBlock c credits .held .lent none s1).2
  let s3 := (ledgerMove dBlock c (n - credits) .held .free none s2).2
  let s4 := setShared (s3.link.pool.shared + (n - toReserve)) s3
  giveCredits p v credits s4

end Sys2Proof.Machine
end

