-- ==== Sys2Proof/Machine/Links.lean ====
section
/-! DEFINITION. Zubry links: routing (R320), transmit queues (R312), port states
(R295, R296), HELLO (R298), port matching (R319, R322). -/

namespace Sys2Proof.Machine

/-! ### Ports and routes -/

def portUp (s : State) (p : Nat) : Bool := (portOf s p).state == .up

/-- R320: the ports of PORTS[g] for the group of a destination, ascending. -/
def groupPorts (s : State) (d : Nat) : List Nat :=
  match s.adm.manifest with
  | none => []
  | some m => (List.range 16).filter (bitOf (m.groups.get 0 (d / 32)).toNat)

/-- R320: the ports of a stream in the order of preference: its primary port, then the others cyclically. -/
def routeOrder (s : State) (d stream : Nat) : List Nat :=
  let ps := groupPorts s d
  if ps.isEmpty then [] else
    let i := (d + stream) % ps.length
    ps.drop i ++ ps.take i

/-- R320, R383: the ports of a stream in the order of preference; those of a yoke stream from its named port on. -/
def portsFor (s : State) (pos st : Nat) : List Nat :=
  if st == 0x200 || st == 0x201 || (st == 0x202 && pos == strapPos s) then
    let n := if st == 0x200 then s.yoke.emberPort.toNat else s.yoke.logPort.toNat
    (List.range 16).map fun i => (n + i) % 16
  else routeOrder s pos st

/-- R309: the key of a packet's stream at this module, its sender. -/
def pathKey (p : Packet) : Nat := sendKey p.dstPos.toNat p.dstSide.toNat p.stream.toNat

/-- R320: the primary port of the stream of a key. -/
def primaryOf (s : State) (k : Nat) : Option Nat := (portsFor s (k / 2 ^ 18) (k % 2 ^ 16)).head?

/-- R313: ZB_PORT_STATUS.FAILOVER: streams of a port are carried elsewhere. -/
def carriedElsewhere (s : State) (p : Nat) : Bool :=
  s.link.paths.any fun x => x.2.port != p && decide (x.2.port < 16) && primaryOf s x.1 == some p

def pathOf (s : State) (p : Packet) : Path := s.link.paths.get .reset (pathKey p)

def setPath (k : Nat) (x : Path) (s : State) : State := { s with link := { s.link with paths := s.link.paths.put .reset k x } }

/-- R313: a port keeps its streams: it is UP, or it left UP and has not been given up since. -/
def keepsStreams (s : State) (p : Nat) : Bool := portUp s p || ((portOf s p).downAt.isSome && !(portOf s p).failover)

/-- R313, R320: the port that a packet goes to: at first its primary port, while that port keeps its streams; else the alternate, the first
after the primary that is UP, unless its stream is on one that may still come UP again. -/
def routeOf (s : State) (p : Packet) : Option Nat :=
  match portsFor s p.dstPos.toNat p.stream.toNat with
  | [] => none
  | i :: is =>
    let c := if (i :: is).contains (pathOf s p).port then (pathOf s p).port else i
    if keepsStreams s c && (c == i || !portUp s c) then some c else (is ++ [i]).find? (portUp s)

/-- R313: a stream has sent a packet to a port's queue. -/
def noteRoute (p : Nat) (q : Packet) (s : State) : State :=
  setPath (pathKey q) { pathOf s q with port := p, mid := !q.last } s

/-- R312: a packet enters a port's transmit queue with a link-packet token; false where there is none. -/
def enterPort (p : Nat) (q : Packet) (s : State) : Bool × State :=
  let (ok, s1) := ledgerTake dLinkPacket p 1 s
  if ok then
    let x := portOf s1 p
    (true, noteRoute p q (setPort p { x with tx := { x.tx with queue := x.tx.queue ++ [q] } } s1))
  else (false, s1)

/-- R312: a packet goes to its port; without a token, or without a port, it waits, and so does one of a stream that has a packet waiting. -/
def enqueue (q : Packet) (s : State) : State :=
  let behind := s.link.backlog.any fun x => pathKey x.2 == pathKey q
  match (if behind then none else routeOf s q) with
  | none => { s with link := { s.link with backlog := s.link.backlog ++ [(noPort, q)] } }
  | some p =>
    let (ok, s1) := enterPort p q s
    if ok then s1 else { s1 with link := { s1.link with backlog := s1.link.backlog ++ [(p, q)] } }

/-- R390: a DEPOSED module sends no packet except on its yoke streams. -/
def maySend (s : State) (p : Packet) : Bool := !s.yoke.deposed || decide (0x200 ≤ p.stream.toNat ∧ p.stream.toNat ≤ 0x202)

/-- Packets sent in order. -/
def sendAll (ps : List Packet) (s : State) : State := ps.foldl (fun s p => if maySend s p then enqueue p s else s) s

/-- R312, R313: packets that waited for a token or a port are given to their ports again. -/
def drainBacklog (s : State) : State :=
  let b := s.link.backlog
  b.foldl (fun s x => enqueue x.2 s) { s with link := { s.link with backlog := [] } }

/-- R386: the packets of a message are kept until the receiver accepts it. -/
def retain (ps : List Packet) (s : State) : State :=
  { s with link := { s.link with retained := s.link.retained ++ ps } }

/-- R386: retained packets that a test picks are accepted and no longer kept. -/
def release (p : Packet → Bool) (s : State) : State :=
  { s with link := { s.link with retained := s.link.retained.filter fun q => !p q } }

/-- R312, R316: ZB_OUTSTANDING: packets queued on ports or unacknowledged there. -/
def outstanding (s : State) : Nat :=
  (s.link.ports.map fun (_, x) =>
    x.tx.queue.length + (x.tx.unacked.filter fun u => match u.2 with | .packet _ => true | _ => false).length).sum

/-! ### Roles and HELLO -/

/-- R382: the role that the module advertises. -/
def ownRole (s : State) : Nat :=
  match s.ms.mode with
  | .banked => if s.ms.trans != .takeover then 2 else if s.yoke.deposed then 0 else 1
  | .full | .fenced => if strapYokeEn s && !s.yoke.deposed then 1 else 0
  | _ => 0

/-- R299: the HELLO word that the module sends on a port. -/
def ownHello (s : State) (p : Nat) : Hello :=
  { position := BitVec.ofNat 14 (strapPos s), side := strapSide s, yokeEn := strapYokeEn s, port := BitVec.ofNat 8 p,
    kindDev := 0, role := BitVec.ofNat 2 (ownRole s), variant := s.hw.variant == .m2, iodGen := s.hw.iodGen,
    state := BitVec.ofNat 3 (portOf s p).state.code, proto := 1 }

/-- R319: the peer that a port's HELLO names is the one of its manifest entry. -/
def peerMatches (s : State) (m : Manifest) (p : Nat) : Bool :=
  match m.peers[p]?, (portOf s p).peer with
  | some (pos, side, valid, port, kind), some h =>
    valid && h.position.toNat == pos && h.port.toNat == port && h.kindDev.toNat == kind && (kind != 0 || h.side == side)
  | _, _ => false

/-- R319: a port matches its manifest entry. -/
def portMatches (s : State) (m : Manifest) (p : Nat) : Bool :=
  let x := portOf s p
  (x.state == .parked || x.state == .up) && x.peerValid && peerMatches s m p

/-- R323: ZB_PORT_MATCH.MATCH of one port, by the manifest of the last successful check. -/
def matchesNow (s : State) (p : Nat) : Bool :=
  match s.adm.manifest with
  | none => false
  | some m => portMatches s m p

/-- R322: a REQUIRED port that does not match while the module is admitted sets DEGRADED. -/
def noteDegraded (s : State) : State :=
  match s.adm.manifest with
  | none => s
  | some m =>
    if s.adm.admitted && (List.range 16).any fun p => bitOf m.required.toNat p && !portMatches s m p then
      { s with adm := { s.adm with degraded := true } }
    else s

/-! ### Port states -/

/-- R313: a packet moves to another port: ahead of everything of its stream that waits. Without a token it waits at the head. -/
def movePacket (q : Packet) (s : State) : State :=
  match routeOf s q with
  | none => s
  | some p =>
    let (ok, s1) := enterPort p q s
    if ok then s1 else
      let (mine, others) := s1.link.backlog.partition fun x => pathKey x.2 == pathKey q && x.1 != noPort
      { s1 with link := { s1.link with backlog := mine ++ [(p, q)] ++ others } }

/-- R313: the packets of a port, unacknowledged ones first, that some other port can carry move to it; the others stay. -/
def movePackets (p : Nat) (s : State) : State :=
  let x := portOf s p
  let ps := (x.tx.unacked.filterMap fun u => match u.2 with | .packet q => some q | _ => none) ++ x.tx.queue
  let go := ps.filter fun q => (routeOf s q).isSome
  let stay := ps.filter fun q => (routeOf s q).isNone
  let s1 := setPort p { x with tx := { x.tx with unacked := [], words := [], queue := stay } } s
  go.foldl (fun s q => movePacket q s) (ledgerMove dLinkPacket p go.length .held .free none s1).2

/-- R296: a port is UP. -/
def raisePort (p : Nat) (s : State) : State :=
  setPort p { portOf s p with state := .up, upAt := some s.clk, downAt := none, failover := false } s

/-- R313: ports have come UP: packets that were held on a port given up move first, then those that wait. -/
def sendHeld (s : State) : State :=
  drainBacklog ((List.range 16).foldl (fun s q => if (portOf s q).failover && !portUp s q then movePackets q s else s) s)

/-- R296, R313: a port comes UP. -/
def portUpNow (p : Nat) (s : State) : State := sendHeld (raisePort p s)

/-- R313: the packets that are held because no port toward their destination is UP: those without a port, and those of a port given up. -/
def heldPackets (s : State) : List Packet :=
  (s.link.backlog.filter fun x => x.1 == noPort).map (·.2)
    ++ (List.range 16).flatMap fun q => if (portOf s q).failover && !portUp s q then (portOf s q).tx.queue else []

/-- R322: a port that is PARKED in an admitted module is matched against the manifest and goes UP if it matches. -/
def reevaluate (p : Nat) (s : State) : State :=
  if s.adm.admitted && (portOf s p).state == .parked && matchesNow s p then portUpNow p s else noteDegraded s

/-- R293, R296: the retry buffer empties: control words are dropped and unacknowledged packets go back to the front of the
queue in order. -/
def emptyRetry (x : Port) : Port :=
  let ps := x.tx.unacked.filterMap fun u => match u.2 with | .packet q => some q | _ => none
  { x with tx := { PortTx.reset with queue := ps ++ x.tx.queue }, rx := PortRx.reset }

/-- R295: the CAUSE values. -/
def pcNoSignal : Nat := 1
def pcProto : Nat := 5
def pcRetryLimit : Nat := 6
def pcSilence : Nat := 7
def pcSoftware : Nat := 8

/-- R296: the port leaves UP, if it was UP, at this clock. -/
def noteDown (s : State) (x : Port) : Port :=
  if x.state == .up || (x.state == .retrain && x.back == .up) then
    { x with downAt := (match x.downAt with | some c => some c | none => some s.clk), upAt := none }
  else x

/-- R315: the lanes locked while a port trains, in an order that the spec leaves open. -/
def lanesLocking (p : Nat) (s : State) : State :=
  let (c, s1) := drawFree s
  setPort p { portOf s1 p with laneLock := BitVec.ofNat 8 (Config.freeAt c p) } s1

/-- R296, R315: entry to TRAINING: a new attempt; the retry buffer and the credit state are emptied. -/
def enterTraining (p : Nat) (s : State) : State :=
  let x := noteDown s (portOf s p)
  let y := emptyRetry x
  let s1 := poolLeave p (setPort p { y with state := .training, start := s.clk, deskewed := false,
                                            stats := { y.stats with retrain := y.stats.retrain.add 1 } } s)
  noteDegraded (lanesLocking p s1)

/-- R296: entry to OFF. -/
def enterOff (p : Nat) (s : State) : State :=
  if (portOf s p).state == .off then s else
    let x := noteDown s (portOf s p)
    let y := emptyRetry x
    noteDegraded (poolLeave p (setPort p { y with state := .off, laneLock := 0, attempts := 0, deskewed := false } s))

/-- R296: entry to PARKED with the HELLO that brought the port there; its peer is given its credits. -/
def enterParked (p : Nat) (h : Hello) (s : State) : State :=
  let x := portOf s p
  reevaluate p (poolTraining p (setPort p { x with state := .parked, attempts := 0, laneLock := 0xFF, deskewed := true, parkHello := some h } s))

/-- R294: entry to RETRAIN with a cause, from PARKED or UP. -/
def enterRetrain (p cause : Nat) (s : State) : State :=
  let x := portOf s p
  if x.state == .parked || x.state == .up then
    let y := noteDown s x
    noteDegraded (lanesLocking p (setPort p { y with state := .retrain, back := x.state, cause := cause, start := s.clk,
                                                     stats := { y.stats with retrain := y.stats.retrain.add 1 } } s))
  else s

/-- R296, R297: the states in which a port with EN = 1 leaves OFF. -/
def portsRun (s : State) : Bool :=
  match s.ms.mode with
  | .full | .banked => true
  | _ => s.ms.trans matches .training _

/-- R296: every port with EN = 1 that is OFF enters TRAINING. -/
def portsStart (s : State) : State :=
  (List.range 16).foldl (fun s p =>
    let x := portOf s p
    if x.en && x.state == .off then enterTraining p (setPort p { x with attempts := 0 } s) else s) s

/-- R296: every port enters OFF. -/
def portsStop (s : State) : State := (List.range 16).foldl (fun s p => enterOff p s) s

/-- R296, R322: a port that is UP returns to PARKED; one in RETRAIN that was UP will return there (log 77). -/
def park (p : Nat) (s : State) : State :=
  let x := portOf s p
  match x.state with
  | .up => setPort p { noteDown s x with state := .parked } s
  | .retrain => setPort p { x with back := .parked } s
  | _ => s

/-- R322: withdrawal: STATE becomes NONE, every UP port returns to PARKED, and collective streams close. -/
def withdraw (s : State) : State :=
  let s1 := { s with adm := { s.adm with state := 0, admitted := false } }
  let s2 := (List.range 16).foldl (fun s p => park p s) s1
  let collective (k : Nat) : Bool := decide (0x100 ≤ k % 2 ^ 16 ∧ k % 2 ^ 16 < 0x180)
  { s2 with link := { s2.link with streams := s2.link.streams.filter (fun k => !collective k.1),
                                   sendSeq := s2.link.sendSeq.filter (fun k => !collective k.1) } }

end Sys2Proof.Machine
end

