-- ==== Sys2Proof/Machine/Store.lean ====
section
/-! DEFINITION. Stores into device memory with the copy on first touch of R377, ember pages (R231, R369, R371), the
reserved region's layout, and the sowing log (R379 to R381). -/

namespace Sys2Proof.Machine

/-! ### Ember pages -/

/-- R231: an ember page, 2 MiB. -/
def pageBytes : Nat := 2097152

/-- R231: the die and the slot offset of a stack place. -/
def slotOf (key : Nat) : Nat × Nat :=
  let st := key / 2 ^ 36
  let b := key % 2 ^ 36
  (st / 3, (b / 2048 * 3 + st % 3) * 2048 + b % 2048)

/-- R231: the place of slot offset `o` of die `n`. -/
def slotKey (n o : Nat) : Nat :=
  let (st, b) := stackOf o n
  (Place.stack st b).key

/-- R371: the first reserved page of each die. -/
def firstReserved (s : State) : Nat := ceilDiv (dieStackBytes - s.mem.effUnits * 4000000000) pageBytes

/-- R371: the page after the last pool page. -/
def poolEnd : Nat := 91544

/-- R371: the first pool page of each die. -/
def poolFirst (s : State) : Nat := firstReserved s + s.ember.effLogPages

/-- R371: the pool pages of each die. -/
def poolPages (s : State) : Nat := poolEnd - poolFirst s

/-- R369: the home page of an index within an ember: its die and page number. -/
def homePage (tab : List EmberEntry) (i : Nat) : Option (Nat × Nat) :=
  match tab with
  | [] => none
  | e :: t =>
    if i < e.pages then some (e.base.toNat / dieSpan, e.base.toNat % dieSpan / pageBytes + i) else homePage t (i - e.pages)

/-- R369: the pages of an ember. -/
def emberPages (tab : List EmberEntry) : Nat := (tab.map (·.pages)).sum

/-- R369: the index of the page of an ember that a device-local address lies in. -/
def pageIndex (tab : List EmberEntry) (a : Nat) : Option Nat :=
  match tab with
  | [] => none
  | e :: t =>
    if e.base.toNat ≤ a ∧ a < e.base.toNat + e.pages * pageBytes then some ((a - e.base.toNat) / pageBytes)
    else (pageIndex t a).map (· + e.pages)

def emberPage (s : State) (i : Nat) : EmberPage := s.ember.pages.get .reset i

def setEmberPage (i : Nat) (x : EmberPage) (s : State) : State :=
  { s with ember := { s.ember with pages := s.ember.pages.put .reset i x } }

/-- R377: the page whose state makes a write at an address wait. -/
def heldBy (s : State) (a : Nat) : Option Nat :=
  if s.ember.streaming then
    match pageIndex s.ember.table a with
    | none => none
    | some i =>
      match (emberPage s i).st with
      | .clean | .copying _ | .reading => some i
      | _ => none
  else none

/-- R369: the pages of an ember that some bytes lie on. -/
def spanPages (tab : List EmberEntry) (a n : Nat) : List Nat :=
  (List.range (if n = 0 then 0 else n / pageBytes + 2)).filterMap fun j => pageIndex tab (min (a + j * pageBytes) (a + n - 1))

/-- R377: a write of some bytes would wait for a page. -/
def writeWaits (s : State) (a n : Nat) : Bool :=
  s.ember.streaming && (spanPages s.ember.table a n).any fun i =>
    match (emberPage s i).st with
    | .clean | .copying _ | .reading => true
    | _ => false

/-- Bytes from an address on, each with its address. -/
def addressed (a : Nat) (bs : List Byte) : List (Nat × Byte) := bs.zipIdx.map fun (b, i) => (a + i, b)

/-- R135, R161, R232: a descriptor that may still read what stood before a write: one under way, or any that may start before a
descriptor that writes has completed. -/
def mayReadOld (owner : Option Ref) (d : Desc) : Bool := owner.isSome || (d.started && d.outcome.isNone)

/-- R161: the bytes that a write replaces, kept while some descriptor may read them. -/
def replacedBytes (owner : Option Ref) (adds : Bool) (ws : List (Nat × Byte)) (s : State) : List OldByte :=
  if s.descs.any (mayReadOld owner) then
    ws.map fun w => { writer := owner, adds := adds, key := w.1, byte := byteAt s.mem w.1 }
  else []

/-- R161, R232: a replaced byte that a descriptor may still read: by another ring's write or none, or by its own. A read-add-write
(`rmw`) does not read what another read-add-write replaced. -/
def readsOld (d : Desc) (rmw : Bool) (o : OldByte) : Bool :=
  !(rmw && o.adds) && (match o.writer with | none => true | some r => r.ring != d.ref.ring || r == d.ref)

/-- R196: another descriptor, to which a descriptor has no order, has written at a place. -/
def contested (d : Desc) (key : Nat) (s : State) : Bool :=
  (s.mem.olds.drop d.mark).any fun o => o.key == key && o.writer != some d.ref && readsOld d false o

/-- R196: a byte that a descriptor writes where another has written to which it has no order: it takes either value, by a free
choice. -/
def eitherByte (d : Desc) (draw : Nat) (s : State) (w : Nat × Byte) : Nat × Byte :=
  if contested d w.1 s && Config.freeAt draw w.1 % 2 == 0 then (w.1, byteAt s.mem w.1) else w

/-- R196: the bytes that a descriptor's write, no read-add-write, leaves. -/
def orderedWrites (owner : Option Ref) (adds : Bool) (ws : List (Nat × Byte)) (s : State) : List (Nat × Byte) × State :=
  match owner.bind (findDesc s) with
  | none => (ws, s)
  | some d =>
    if adds || !(ws.any fun w => contested d w.1 s) then (ws, s) else
      let (c, s1) := drawFree s
      (ws.map (eitherByte d c s), s1)

/-- R377: a store of bytes at addresses: those on pages of a streaming ember that are not yet copied wait; the others are
written. `adds` marks a read-add-write of the Hearth engines (R232). -/
def store (owner : Option (Ref × Target)) (adds : Bool) (rq : Requester) (xs : List (Nat × Byte)) (s : State) : State :=
  let ws := xs.filterMap fun (a, b) => (access s rq a).map fun p => (heldBy s a, p.key, b)
  let now := ws.filterMap fun (h, k, b) => if h.isNone then some (k, b) else none
  let later := ws.filterMap fun (h, k, b) => h.map fun i => ({ page := i, owner := owner, key := k, byte := b } : HeldWrite)
  let (now, s) := orderedWrites (owner.map (·.1)) adds now s
  { s with mem := { commit s.mem now with olds := s.mem.olds ++ replacedBytes (owner.map (·.1)) adds now s },
           ember := { s.ember with heldWrites := s.ember.heldWrites ++ later } }

/-- R232, R377: the state that a read-add-write reads from: each goes ahead of every later one, and so do those that wait. -/
def settled (s : State) : State :=
  if s.ember.heldWrites.isEmpty then s else
    { s with mem := putBytes s.mem (s.ember.heldWrites.map fun h => (h.key, h.byte)) }

/-- The writes of a store that are made at once, at their places. -/
def madeNow (s : State) (rq : Requester) (xs : List (Nat × Byte)) : List (Nat × Byte) :=
  xs.filterMap fun (a, b) => if (heldBy s a).isSome then none else (access s rq a).map fun p => (p.key, b)

/-- R182: the first uncorrectable codeword that a store covers in part: its address and place. -/
def partBadAt (s : State) (rq : Requester) (xs : List (Nat × Byte)) : Option (Nat × Place) :=
  if s.mem.bad.isEmpty then none else
    match partBad s.mem (madeNow s rq xs) with
    | [] => none
    | c :: _ => xs.findSome? fun (a, _) =>
        match access s rq a with
        | some p => if codeword p.key == c then some (a, p) else none
        | none => none

/-- R182, R377: a store that no descriptor of this module makes; it logs what it drops. -/
def storeReceived (rq : Requester) (xs : List (Nat × Byte)) (s : State) : State :=
  logDropped (partBad s.mem (madeNow s rq xs)) s.mem (store none false rq xs s)

/-- R182, R333: a piece, or the data of a remote read, that a descriptor stores: received data, of which what is dropped is logged. -/
def storePiece (adds : Bool) (r : Ref) (t : Target) (xs : List (Nat × Byte)) (s : State) : State :=
  logDropped (partBad s.mem (madeNow s .iod xs)) s.mem (store (some (r, t)) adds .iod xs s)

/-- The descriptor has an outcome as a whole already. -/
def hasOutcome (r : Ref) (s : State) : Bool := (findDesc s r).any (·.outcome.isSome)

/-- R182, R377: a store by a copy of a descriptor; one that meets an uncorrectable codeword in part completes the
descriptor with MEM_UNCORRECTABLE, once. -/
def storeAs (adds : Bool) (r : Ref) (t : Target) (rq : Requester) (xs : List (Nat × Byte)) (s : State) : State :=
  let bad := partBadAt s rq xs
  let s1 := store (some (r, t)) adds rq xs s
  match bad with
  | some (x, p) => if hasOutcome r s then s1 else memUncorrectable r t x p 1 (symbolsAt s.mem p) s1
  | none => s1

/-- R182: a store that is no read-add-write. -/
def storeBy (r : Ref) (t : Target) (rq : Requester) (xs : List (Nat × Byte)) (s : State) : State := storeAs false r t rq xs s

/-- R49, R377: a write that the descriptor made still waits. -/
def ownsHeld (s : State) (r : Ref) : Bool := s.ember.heldWrites.any fun h => h.owner.map (·.1) == some r

/-- R231: ember page `p` of die `n` copied to page `q`, codeword by codeword, uncorrectable ones as they stand. -/
def copyPage (n p q : Nat) (m : Mem) : Mem :=
  let inPage (x key : Nat) : Bool :=
    decide (key < sramBase) && (slotOf key).1 == n && (slotOf key).2 / pageBytes == x
  let moved (key : Nat) : Nat := slotKey n ((slotOf key).2 % pageBytes + q * pageBytes)
  let cp (t : Tab Byte) : Tab Byte :=
    (t.filter fun c => inPage p c.1).foldl (fun u c => u.put 0 (moved c.1) c.2) (t.filter fun c => !inPage q c.1)
  if p = q then m else { m with bytes := cp m.bytes, bad := cp m.bad }

/-- R231: an uncorrectable codeword that a page copy meets gives a log entry with SOURCE = HEARTH and UNIT = 7. -/
def notePageErrors (n p : Nat) (s : State) : State :=
  s.mem.bad.foldl (fun s c =>
    if decide (c.1 < sramBase) && (slotOf c.1).1 == n && (slotOf c.1).2 / pageBytes == p then
      (logMemErr (n * dieSpan + (slotOf c.1).2) (.stack (c.1 / 2 ^ 36) (c.1 % 2 ^ 36)) 4 7 0xFFFF c.2 s).2
    else s) s

/-! ### Yoke messages -/

/-- R384: a message on a yoke stream to the partner. -/
def yokeMessage (type vc stream arg0 arg1 : Nat) (payload : List Byte) (s : State) : State :=
  let pos := strapPos s
  let (n, s1) := takeSeq (sendKey pos (partnerSide s) stream) s
  sendAll (mkMessage s1 type vc pos (partnerSide s) stream n arg0 arg1 payload) s1

/-- R384: a YOKE packet of a kind on stream 0x202. -/
def yokeSend (kind arg1 : Nat) (s : State) : State := yokeMessage 9 7 0x202 kind arg1 [] s

def linked (s : State) : Bool := s.yoke.partner == 2

/-- R395: PARTNER takes a value; a change raises vector 69. -/
def setPartner (v : Nat) (s : State) : State :=
  if s.yoke.partner = v then s else raiseVector 69 { s with yoke := { s.yoke with partner := v } }

/-! ### The sowing log -/

/-- R379: the bytes of the log ring. -/
def logRing (s : State) : Nat := s.ember.effLogPages * dieCount s * pageBytes

/-- R379: the place of a log byte offset. -/
def logKey (s : State) (o : Nat) : Nat :=
  let o := o % logRing s
  let k := o / pageBytes
  slotKey (k % dieCount s) ((firstReserved s + k / dieCount s) * pageBytes + o % pageBytes)

/-- The bytes of the log from an offset on. -/
def logBytes (s : State) (o n : Nat) : List Byte := (List.range n).map fun i => byteAt s.mem (logKey s (o + i))

/-- Bytes written into the log from an offset on. -/
def putLog (o : Nat) (bs : List Byte) (s : State) : State :=
  commitNoted (bs.zipIdx.map fun (b, i) => (logKey s (o + i), b)) s

/-- R379, R170, R389: events are logged while YOKE_CFG.EN is 1 or once an epoch has been opened, in the states that have a reserved region;
what an entry delivers that is being replayed is no event (log 21). -/
def logging (s : State) : Bool :=
  !s.yoke.muted && (s.yoke.en || s.ember.opened) && (s.ms.mode == .full || s.ms.mode == .fenced || s.ms.mode == .banked)
    && decide (0 < logRing s)

/-- R380: the values of KIND. -/
def lkSegment : Nat := 1
def lkDesc : Nat := 2
def lkComplete : Nat := 3
def lkEntry : Nat := 4
def lkChunk : Nat := 5
def lkRwr : Nat := 6
def lkRrsp : Nat := 7
def lkHostWord : Nat := 8
def lkBar2w : Nat := 9
def lkRegw : Nat := 10
def lkVerdict : Nat := 11
def lkCtxCmd : Nat := 12
def lkPad : Nat := 13

/-- R381: EMB_LOG_PROTECT: the protected span starts at the newest sealed epoch's SEGMENT entry. -/
def spanOverrun (s : State) (upTo : Nat) : Bool :=
  s.ember.sealedEpoch != 0 && decide (s.ember.sealedStart + logRing s < upTo)

/-- R379: bytes appended at the log's end and, while LINKED, mirrored to the partner as LOG packets. -/
def appendRaw (bs : List Byte) (s : State) : State :=
  let o := s.ember.logHead
  let beyond := spanOverrun s (o + bs.length)
  let s1 := putLog o bs { s with ember := { s.ember with logHead := o + bs.length, logCount := s.ember.logCount + bs.length } }
  let s2 := if linked s1 && s1.ms.mode != .banked then
      (pieces 4096 bs).zipIdx.foldl (fun s (b, i) => yokeMessage 8 7 0x201 0 ((o + 4096 * i) % logRing s) b s)
        { s1 with ember := { s1.ember with logSent := s1.ember.logSent + bs.length },
                  yoke := { s1.yoke with ackFirst := if s1.yoke.ackFirst = 0 then min 4096 bs.length else s1.yoke.ackFirst } }
    else s1
  if beyond then
    let s3 := raiseVector 72 { s2 with ember := { s2.ember with overrun := true, forfeit := true } }
    if linked s3 then yokeSend ykForfeit 0 s3 else s3
  else s2

/-- R379: the 16-byte header of an entry. -/
def logHeader (kind len : Nat) (lseq : Word) (tick : DWord) : List Byte :=
  leBytes 1 kind ++ leBytes 3 len ++ leBytes 4 lseq.toNat ++ leBytes 8 tick.toNat

/-- R379: an entry of the log: header and payload padded to 16 bytes, after a PAD entry where it would not fit before the end
of the ring. -/
def appendEntry (kind : Nat) (payload : List Byte) (s : State) : State :=
  let body := padTo (ceilDiv payload.length 16 * 16) payload
  let put (kind len : Nat) (body : List Byte) (s : State) : State :=
    appendRaw (logHeader kind len s.ember.lseq s.ft.ft ++ body) { s with ember := { s.ember with lseq := s.ember.lseq + 1 } }
  let room := logRing s - s.ember.logHead % logRing s
  let s1 := if room < 16 + body.length then put lkPad (room - 16) (List.replicate (room - 16) 0) s else s
  put kind payload.length body s1

/-- R379, R380: an event is logged while the log is kept. -/
def logEvent (kind : Nat) (payload : List Byte) (s : State) : State := if logging s then appendEntry kind payload s else s

/-- R386: acceptance of what a peer sent waits for LOG_ACK, on a linked active member. -/
def acceptWaits (s : State) : Bool := linked s && logging s && s.ms.mode != .banked

/-- R489, R380: a BAR0 write in the states that answer; while a context is active it is logged. -/
def bar0Write (off v : Nat) (f : State → State) (s : State) : State :=
  if inService s then
    f (if anyCtxActive s then logEvent lkRegw (leBytes 4 off ++ leBytes 4 0 ++ leBytes 8 v) s else s)
  else s

end Sys2Proof.Machine
end

