-- ==== Sys2Proof/Machine/Rings.lean ====
section
/-! DEFINITION. Rings and completions: doorbells (R34, R35, R50), fetch (R36, R39), dispatch (R41, R42, R45, R103, R249),
starting on targets (R43), completion records (R46 to R50), MSI-X moderation (R62) and masking (R61), and the writes of the
ring registers (R31, R502). -/

namespace Sys2Proof.Machine

/-- A next state: what every meaning of this model answers. -/
abbrev Answer := Host.Outcome State Fault Refusal

/-! ### Rings that stop, and polling -/

/-- R35: the causes of a stop. -/
def ecOverrun : BitVec 3 := 1
def ecPast : BitVec 3 := 2
def ecFetch : BitVec 3 := 3

/-- R35: a submission ring stops with a cause and vector 66 is raised. -/
def stopRing (n : Nat) (code : BitVec 3) (s : State) : State :=
  let r := sring s n
  if r.err then s else raiseVector 66 (setSring n { r with err := true, errCode := code } s)

/-- R30: IOD_SRING_STATUS.FETCHING. A ring enabled while its context is ACTIVE fetches from its fetch index; a head written before
acts at the next BEGIN (log 79). -/
def isFetching (s : State) (n : Nat) : Bool :=
  let r := sring s n
  r.en && (ctxOf s r.ctx.toNat).state == .active && !r.err

/-- R35: how many descriptors SQ_PROD shows; none where it shows nothing yet. -/
def ringAhead (r : SRing) : Nat :=
  match r.prod with
  | none => 0
  | some p => (p - r.fetch).toNat

/-- R35: a fetching ring whose producer index is out of bounds stops. -/
def judgeRing (n : Nat) (s : State) : State :=
  if isFetching s n then
    let r := sring s n
    let d := ringAhead r
    if 2 ^ 31 < d then stopRing n ecPast s
    else if 2 ^ r.log2.toNat < d then stopRing n ecOverrun s
    else s
  else s

/-- R34: doorbell record `m` covers an enabled ring. -/
def recordInUse (s : State) (m : Nat) : Bool :=
  (List.range 8).any fun j => (sring s (8 * m + j)).en || (cring s (8 * m + j)).en

/-- R34: the records that a poll reads, from the lowest to the highest that covers an enabled ring. -/
def polledRecords (s : State) : List Nat :=
  let ms := (List.range 8).filter (recordInUse s)
  match ms.head?, ms.getLast? with
  | some lo, some hi => (List.range (hi + 1)).drop lo
  | _, _ => []

/-- R50: a CQ_CONS value as read for a completion ring. A value beyond p is ignored: CRING_CONS_ERR is set, and vector 66 is
raised when the value was not there at the last poll. -/
def takeCons (n : Nat) (v : Word) (fresh : Bool) (s : State) : State :=
  let c := cring s n
  if !c.en then s
  else match serial c.p v with
    | .ahead _ =>
      let s1 := setCring n { c with consErr := true } s
      if fresh || !c.consErr then raiseVector 66 s1 else s1
    | _ => setCring n { c with cons := v, consErr := false } s

/-- One field of a doorbell record as read: whether it changed, at first from 0 (log 79), and the state that has taken it. -/
def takeField (i : Nat) (v : Word) (s : State) : Bool × State :=
  let fresh := s.host.seen.get 0 i != v
  let s1 := { s with host := { s.host with seen := s.host.seen.put 0 i v } }
  let s2 := if i < 64 then setSring i { sring s1 i with prod := some v } s1 else takeCons (i - 64) v fresh s1
  (fresh, s2)

/-- The doorbell fields that the words of a poll stand for: SQ_PROD of ring n is field n, CQ_CONS of ring n field 64 + n. -/
def doorbellFields (ms : List Nat) (ws : List Word) : List (Nat × Word) :=
  let idx := ms.flatMap fun m => (List.range 8).map (8 * m + ·) ++ (List.range 8).map (64 + 8 * m + ·)
  idx.zip ws

/-- R34: the interval after a poll. -/
def nextInterval (s : State) (changed : Bool) : Nat :=
  if changed then 200 else min (2 * s.host.pollNs) s.host.maxNs.toNat

def setPoll (n : Nat) (s : State) : State := { s with host := { s.host with pollNs := n } }

/-- R32, R34: the read of some doorbell records. -/
def readRecords (ms : List Nat) (s : State) : State :=
  match ms.head? with
  | none => s
  | some lo => emit (.hostRead (s.host.dbAddr + BitVec.ofNat 64 (64 * lo)) (64 * ms.length)) s

/-- R34, R35, R50: the poll interval has passed; `words` is what the read of the doorbell records returned, none for a PCIe
error completion. -/
def execDoorbellPoll (words : Option (List Word)) (s : State) : Answer :=
  .next <|
    if !inService s then s else
      let ms := polledRecords s
      let s := readRecords ms s
      match words with
      | none =>
        let rings := ms.flatMap fun m => (List.range 8).map (8 * m + ·)
        setPoll (nextInterval s false) (rings.foldl (fun s n => stopRing n ecFetch s) s)
      | some ws =>
        let (changed, s1) := (doorbellFields ms ws).foldl (fun (b, s) f =>
          let (c, s1) := takeField f.1 f.2 s
          (b || c, s1)) (false, s)
        let s2 := (List.range 64).foldl (fun s n => judgeRing n s) s1
        setPoll (nextInterval s changed) s2

/-! ### Fetch -/

/-- R36: descriptors of a ring that are fetched and not completed. -/
def ringOpen (s : State) (n : Nat) : Nat := (s.descs.filter fun d => d.ref.ring == n).length

/-- R39, R48, R265, R435, R498: the outcome that a descriptor completes with at fetch. -/
def fetchOutcome (s : State) (b : List Byte) : Option (Nat × Word × Option Nat) :=
  match headerError s b with
  | some off => some (stDescInvalid, BitVec.ofNat 32 off, none)
  | none =>
    match opOf (hOpcode b) with
    | none => none
    | some o =>
      if (o = .tally ∨ o = .barrier) ∧ hUnit b = 4 ∧ 4 < hTarget b then some (stDescInvalid, 16, none)
      else if (s.ms.mode = .kindling ∧ !opInKindling o) ∨ (s.ms.mode ≠ .kindling ∧ o = .bist) then
        some (stNotAvailable, BitVec.ofNat 32 s.ms.mode.code, none)
      else none

/-- R36, R41, R46: a descriptor as fetched from a ring; it keeps the PRIO and CTX that the ring has at the fetch (log 79). -/
def newDesc (s : State) (n : Nat) (i : Word) (b : List Byte) : Desc :=
  let r := sring s n
  { ref := { ring := n, index := i }, bytes := b, ctx := r.ctx, prio := r.prio, dispatched := false, order := 0,
    copies := [], start := none, lateness := 0, outcome := fetchOutcome s b, detailAll := none, collided := false,
    deps := 0, waiting := none, replayed := false, pair := none }

/-- R380: the payload of a DESC entry. -/
def descPayload (r : Ref) (b : List Byte) : List Byte := leBytes 4 r.ring ++ leBytes 4 r.index.toNat ++ padTo 64 b

/-- R34, R390, R429: the states in which descriptors are fetched. -/
def fetchMode (s : State) : Bool :=
  (s.ms.mode == .kindling || s.ms.mode == .full) && !s.yoke.deposed && !(s.ms.trans matches .training _)

/-- R28, R32: the read of the entry that a submission ring's fetch index names. -/
def readEntry (n : Nat) (s : State) : State :=
  let r := sring s n
  emit (.hostRead (r.addr + BitVec.ofNat 64 (64 * (r.fetch.toNat % 2 ^ r.log2.toNat))) 64) s

/-- R34 to R36, R39: one descriptor is copied from a submission ring; `bytes` is what the read returned, none for a PCIe error
completion. -/
def execDescFetch (ring : Nat) (bytes : Option (List Byte)) (s : State) : Answer :=
  .next <|
    let s := judgeRing ring s
    let r := sring s ring
    if 64 ≤ ring ∨ !fetchMode s ∨ !isFetching s ring ∨ ringAhead r = 0 ∨ 256 ≤ ringOpen s ring ∨ (lgDom s dRingSlot).free = 0 then s
    else match bytes with
      | none => stopRing ring ecFetch (readEntry ring s)
      | some b =>
        let (ok, s1) := ledgerTake dRingSlot ring 1 (readEntry ring s)
        if !ok then s1 else
          let b := padTo 64 b
          let d := newDesc s1 ring r.fetch b
          let s2 := setSring ring { sring s1 ring with fetch := r.fetch + 1 } { s1 with descs := s1.descs ++ [d] }
          logEvent lkDesc (descPayload d.ref b) s2

/-! ### Dispatch -/

/-- R103: the descriptor ends its rows in a chain partner. -/
def wantsPartner (d : Desc) : Bool :=
  match d.op with
  | some .mma | some .bMma | some .conv => d.fld 40 22 2 == 2
  | _ => false

/-- The ring's descriptor that follows one. -/
def followerOf (s : State) (r : Ref) : Option Desc :=
  s.descs.find? fun d => d.ref.ring == r.ring && d.ref.index == r.index + 1

/-- R103: a CHAIN that takes the rows of the descriptor before it, on the same cores. -/
def isPartner (a b : Desc) : Bool :=
  b.op == some .chain && b.outcome.isNone && b.fld 40 6 2 == 1 && hUnit b.bytes == hUnit a.bytes
    && hFirst b.bytes == hFirst a.bytes && hCount b.bytes == hCount a.bytes

/-- R103: the partner that is dispatched together with a descriptor. -/
def partnerOf (s : State) (d : Desc) : Option Desc :=
  if wantsPartner d then (followerOf s d.ref).filter (isPartner d) else none

/-- R103: a descriptor that wants a partner is not dispatched before the next of its ring has been fetched, whatever became of that
one. -/
def partnerKnown (s : State) (d : Desc) : Bool :=
  !wantsPartner d || (followerOf s d.ref).isSome || (sring s d.ref.ring).fetch != d.ref.index + 1

/-- R50: records that wait for space, in the whole module. -/
def recordsWaiting (s : State) : Nat := (s.descs.filter fun d => d.waiting.isSome).length

/-- R41: `n` more entries find room in each queue of a descriptor's targets. -/
def queuesHaveRoom (s : State) (d : Desc) (n : Nat) : Bool :=
  (targetsOf d.bytes).all fun t => decide (queueLen s t d.prio + n ≤ 16)

def isEmberOpen (d : Desc) : Bool := d.op == some .ember && d.fld 24 0 2 == 0

/-- R373: what else the release of an EMBER OPEN asks for. -/
def openReady (s : State) (d : Desc) : Bool :=
  !isEmberOpen d || (!(s.descs.any fun e => e.ref != d.ref && e.copies.any fun c =>
      match c.st with
      | .running | .parked _ _ | .inPlace _ => true
      | _ => false)
    && !s.ember.streaming && (d.fld 24 2 1 == 1 || linked s || !s.yoke.en || d.replayed))

/-- R249, R389: a descriptor is no sown launch, or its launch tick has been reached. -/
def tickReached (s : State) (d : Desc) : Bool := !hSown d.bytes || d.replayed || decide ((hLaunch d.bytes).toNat ≤ s.ft.ft.toNat)

/-- R249, R389: LATENESS of a descriptor that is released now. -/
def latenessOf (s : State) (d : Desc) : Nat := if hSown d.bytes && !d.replayed then s.ft.ft.toNat - (hLaunch d.bytes).toNat else 0

/-- R41, R45, R103, R249, R373: a ring's next descriptor can be dispatched now. -/
def dispatchable (s : State) (d : Desc) : Bool :=
  !ringParked s d.ref.ring && !(hWaitPrev d.bytes && earlierOpen s d.ref)
    && tickReached s d && partnerKnown s d && (partnerOf s d).all (tickReached s) && openReady s d
    && queuesHaveRoom s d (if (partnerOf s d).isSome then 2 else 1)

/-- R41: among rings with a descriptor to dispatch, the highest priority first, and within one priority in round-robin
order of ring number. -/
def arbitrate (s : State) : Option Desc :=
  if 1024 ≤ recordsWaiting s then none else
    let ready := (List.range 64).filterMap fun n => (nextOf s n).filter (dispatchable s)
    (List.range 8).findSome? fun p =>
      let turn := s.host.turn.get 0 p
      (List.range 64).findSome? fun i =>
        ready.find? fun d => d.prio.toNat == p && d.ref.ring == (turn + i) % 64

/-- R41, R43: a descriptor enters the queues of its targets. -/
def enqueueDesc (d : Desc) (late : Nat) (s : State) : State :=
  let o := s.host.order
  updDesc d.ref (fun d => { d with
      dispatched := true, order := o, lateness := late,
      copies := (targetsOf d.bytes).map fun t => { target := t, st := .queued, stage := 0, since := 0, report := none } })
    { s with host := { s.host with order := o + 1, turn := s.host.turn.put 0 d.prio.toNat ((d.ref.ring + 1) % 64) } }

/-- R46, R249: a descriptor's record will carry the lateness of its release. -/
def noteLateness (d : Desc) (late : Nat) (s : State) : State := updDesc d.ref (fun x => { x with lateness := late }) s

/-- R41, R103, R407 step 3: a descriptor is dispatched, with its partner; one that needs a fenced die completes instead. -/
def dispatchDesc (d : Desc) (s : State) : State :=
  let late := latenessOf s d
  match partnerOf s d with
  | some e =>
    let s1 := updDesc e.ref (fun x => { x with pair := some d.ref }) (updDesc d.ref (fun x => { x with pair := some e.ref }) s)
    let m := fencedDeps s d ||| fencedDeps s e
    if m != 0 then setOutcome d.ref stFenced m none (noteLateness e (latenessOf s e) (noteLateness d late s1))
    else enqueueDesc e (latenessOf s e) (enqueueDesc d late s1)
  | none =>
    let m := fencedDeps s d
    if m != 0 then setOutcome d.ref stFenced m none (noteLateness d late s) else enqueueDesc d late s

/-- R249, R337: the counts of a late release. -/
def countLate (d : Desc) (late : Nat) (s : State) : State :=
  if late = 0 then s else
    let f := s.ft
    let l := s.lag
    let l1 := { l with ringLate := l.ringLate.upd .reset d.ref.ring (·.add late) }
    let l2 := if hUnit d.bytes < 4 then { l1 with dieLate := l1.dieLate.upd .reset (hUnit d.bytes) (·.add late) } else l1
    { s with ft := { f with lateCount := f.lateCount.add 1,
                            lateMax := if f.lateMax.toNat < late then BitVec.ofNat 32 (hold 0xFFFFFFFF late) else f.lateMax },
             lag := l2 }

/-- R103, R249: a descriptor and its partner are released together, each with its own lateness. -/
def releaseDesc (d : Desc) (s : State) : State :=
  let s1 := countLate d (latenessOf s d) (dispatchDesc d s)
  match partnerOf s d with
  | some e => countLate e (latenessOf s e) s1
  | none => s1

/-- R41: the dispatch of the descriptor whose turn it is, where it is not a sown launch. -/
def execDescDispatch (s : State) : Answer :=
  .next <|
    match arbitrate s with
    | some d => if hSown d.bytes && !d.replayed then s else releaseDesc d s
    | none => s

/-- R42, R249: the release of the sown launch whose turn it is, once its tick has been reached. -/
def execSownRelease (s : State) : Answer :=
  .next <|
    match arbitrate s with
    | some d => if hSown d.bytes && !d.replayed then releaseDesc d s else s
    | none => s

/-! ### Starting on a target -/

/-- R44: a parked copy on a target whose wait has ended. -/
def resumable (s : State) (t : Target) : Bool :=
  s.descs.any fun d => d.copies.any fun c => c.target == t && (match c.st with | .parked true _ => true | _ => false)

/-- R44: one of the ring's descriptors is parked on the target. -/
def ringParkedOn (s : State) (ring : Nat) (t : Target) : Bool :=
  s.descs.any fun d => d.ref.ring == ring && d.copies.any fun c => c.target == t && c.st.isParked

/-- R43, R44: the queued descriptor that a target starts next: of the highest priority, and there the first dispatched. -/
def nextQueued (s : State) (t : Target) : Option Desc :=
  let qs := s.descs.filter fun d =>
    (d.copies.any fun c => c.target == t && c.st == .queued) && !ringParkedOn s d.ref.ring t
  qs.foldl (fun best d =>
    match best with
    | none => some d
    | some b => if d.prio.toNat < b.prio.toNat ∨ (d.prio = b.prio ∧ d.order < b.order) then some d else best) none

/-- R161: replaced bytes are kept only while a descriptor that has started is not complete. -/
def dropOlds (s : State) : State :=
  if s.descs.any fun d => d.started then s else { s with mem := { s.mem with olds := [] } }

/-- R49, R161: where the bytes begin that a descriptor which starts now may read as they stood: those replaced by a descriptor that is
not complete. -/
def openFrom (s : State) : Nat :=
  ((s.mem.olds.findIdx? fun o => match o.writer with | some r => (findDesc s r).isSome | none => false)).getD s.mem.olds.length

/-- R43, R191: a copy of a descriptor starts on its target and reads its records. -/
def startCopy (t : Target) (r : Ref) (s : State) : State :=
  let s := dropOlds s
  let clk := s.clk
  let snap := match findDesc s r with | some d => snapOf s (rqOf t) (recordAddrs s d t) | none => []
  updDesc r (fun d => { updCopy t (fun c => { c with st := .running, since := clk, snap := snap }) d with
      start := match d.start with | some c => some c | none => some clk,
      mark := if d.start.isNone then openFrom s else d.mark }) s

/-- R182, R235: a copy that has started met an uncorrectable codeword in its records, and does nothing of its operation. -/
def recordsMet (t : Target) (r : Ref) (s : State) : State :=
  match findDesc s r with
  | none => s
  | some d =>
    match badRead s (rqOf t) (recordAddrs s d t) with
    | some (a, p) =>
      updDesc r (updCopy t fun c => { c with st := .done })
        (memUncorrectable r t a p (if t == .hearth then 4 else 0) (symbolsAt s.mem p) s)
    | none => s

/-- R346: the exchange of a GUARD_VERDICT goes ahead of every descriptor that is queued for the collective engine. -/
def exchangeFirst (s : State) (t : Target) : Bool :=
  t == .collective && (!s.coll.waiting.isEmpty || s.coll.run.any (·.exchange))

/-- R172: a read by the descriptor, or its partner, would wait: it has an operand on a die with a stack that is not yet zero-filled. The
copy starts once it is (log 18). -/
def waitsFill (s : State) (d : Desc) : Bool :=
  let unfilled (n : Nat) : Bool :=
    (if kindlingMap s then [0] else [3 * n, 3 * n + 1, 3 * n + 2]).any fun st => !s.mem.filled.get false st
  let waits (d : Desc) : Bool := (operandAddrs s d).any fun a =>
    match access s (firstRequester d.bytes) a with
    | some (.stack st _) => unfilled (st / 3)
    | _ => false
  waits d || (match d.pair.bind (findDesc s) with | some e => waits e | none => false)

/-- R175, R214, R356: the domain, the limit and the holders of the transactions of a descriptor's copy on a target. -/
def txnHolders (s : State) (d : Desc) (t : Target) : Nat × Nat × List Nat :=
  match t, d.op with
  | _, some .nop | _, some .tally | _, some .barrier => (dAeTxn, 512, [])
  | .core die k, _ => (dAeTxn, 512, [coreNumber (.core die k)])
  | .hearth, _ => (dHeTxn, 4096, (List.range 12).filter fun e =>
      (operandAddrs s d).any fun a => match access s .iod a with | some (.stack st _) => st / 3 == e / 3 | _ => false)
  | _, _ => (dHeTxn, 4096, [])

/-- R175, R176: a copy that has started has operations outstanding. -/
def openTxns (t : Target) (r : Ref) (s : State) : State :=
  match findDesc s r with
  | none => s
  | some d =>
    let (dom, most, hs) := txnHolders s d t
    let (c, s1) := drawFree s
    hs.foldl (fun s h => holdTokens dom most c h s) s1

/-- R359: the operations of a target that runs nothing are over. -/
def closeTxns (t : Target) (s : State) : State :=
  if targetBusy s t then s else
    match t with
    | .core die k => returnTokens dAeTxn (coreNumber (.core die k)) s
    | .hearth => (List.range 12).foldl (fun s e => returnTokens dHeTxn e s) s
    | _ => s

/-- R43, R44, R103: at a descriptor boundary a target starts its queued descriptor, with its partner; a parked one whose wait
has ended goes first. -/
def execDescStart (t : Target) (s : State) : Answer :=
  .next <|
    if targetBusy s t || resumable s t || exchangeFirst s t then s else
      match (nextQueued s t).filter fun d => !waitsFill s d with
      | none => s
      | some d =>
        let s1 := openTxns t d.ref (startCopy t d.ref (closeTxns t s))
        match d.pair with
        | some e => recordsMet t e (recordsMet t d.ref (startCopy t e s1))
        | none => recordsMet t d.ref s1

/-! ### Completion records -/

/-- What a completion record says of the outcome: STATUS, DETAIL, CORE, MULTI, NF_POS and IDX_POS. -/
structure RecordFields where
  status : Nat
  detail : Word
  core : Nat
  multi : Bool
  nf : Option Word
  idx : Option Word
deriving DecidableEq, Repr

/-- R47: the reports of a descriptor's copies, by core, with an outcome given to it as a whole. -/
def reportsOf (s : State) (d : Desc) : List (Nat × Word × Nat) :=
  let rs := d.copies.filterMap fun c => c.report.map fun r => (r.status, r.detail, coreNumber c.target)
  match d.outcome with
  | none => rs
  | some (st, det, core) => rs ++ [(st, det, core.getD (coreDefault s d.bytes))]

/-- R47: the highest status of some reports. -/
def worst (rs : List (Nat × Word × Nat)) : Nat := rs.foldl (fun m r => max m r.1) 0

/-- R46, R47, R48, R249, R259: the outcome that the record of a finished descriptor carries. -/
def outcomeOf (s : State) (d : Desc) : RecordFields :=
  let rs := reportsOf s d
  let top := worst rs
  let first := rs.find? fun r => r.1 == top
  let detail := match first with
    | some r => if top = 0 then d.detailAll.getD r.2.1 else r.2.1
    | none => d.detailAll.getD 0
  let core := match first with | some r => r.2.2 | none => coreDefault s d.bytes
  let st := if d.collided && decide (top < 2) then stCollision
            else if top = 0 ∧ 0 < d.lateness then stLate else top
  { status := st, detail := detail, core := core,
    multi := decide (1 < ((d.copies.filterMap (·.report)).filter fun r => decide (1 < r.status)).length),
    nf := d.copies.findSome? fun c => c.report.bind (·.nf),
    idx := d.copies.findSome? fun c => c.report.bind (·.idx) }

/-- R50: the completion ring is full. -/
def cringFull (c : CRing) : Bool := (c.p - c.cons).toNat == 2 ^ c.log2.toNat

/-- R46: the 32 bytes of a record. -/
def recordBytes (d : Desc) (o : RecordFields) (phase : Bool) : List Byte :=
  let w8 := d.ref.ring + at' (bit phase) 6 + at' (bit (decide (0 < d.lateness))) 7 + at' (bit o.nf.isSome) 8
    + at' (bit o.idx.isSome) 9 + at' (bit o.multi) 10 + at' d.ctx.toNat 12
  leBytes 4 d.ref.index.toNat ++ leBytes 1 o.status ++ leBytes 1 (hOpcode d.bytes) ++ leBytes 2 (hTag d.bytes)
    ++ leBytes 4 w8 ++ leBytes 4 (hold 0xFFFFFFFF d.lateness) ++ leBytes 4 o.detail.toNat
    ++ leBytes 4 (o.nf.getD 0).toNat ++ leBytes 4 (o.idx.getD 0).toNat ++ leBytes 2 o.core ++ leBytes 2 0

/-- R61, R62: the vector of a completion ring becomes due. -/
def ringVector (c : Nat) (s : State) : State :=
  let r := cring s c
  if !r.irqEn then s else
    let soon := match r.lastRaise with
      | some t => decide (s.clk < t + 1000 * r.modUs.toNat)
      | none => false
    if soon then setCring c { r with due := true } s
    else raiseVector c (setCring c { r with lastRaise := some s.clk, due := false } s)

/-- R253: a stamp within the headland of a boundary. -/
def inHeadland (s : State) (stamp b : DWord) : Bool :=
  decide (stamp.toNat ≤ b.toNat + s.ft.headland.toNat ∧ b.toNat ≤ stamp.toNat + s.ft.headland.toNat)

/-- R253, R341: a record within the headland of a window's start is counted. -/
def guardHeadland (s : State) : State :=
  { s with guard := { s.guard with headland := s.guard.headland.add 1 },
           ft := { s.ft with headCount := s.ft.headCount.add 1 } }

/-- R341: a record with NONFINITE_F is counted into the current guard window. -/
def countNonFinite (ctx : BitVec 4) (s : State) : State :=
  let g := s.guard
  if g.en && bitOf g.ctxMask.toNat ctx.toNat then
    let near := match g.winStart with | some b => inHeadland s s.ft.ft b | none => false
    let now := s.ft.ft
    let g1 := { g with windowNf := g.windowNf + 1,
                       recent := (g.recent.filter fun r => decide ((now - r.1).toNat ≤ 255)) ++ [(now, near)] }
    let s1 := { s with guard := g1 }
    if near then guardHeadland s1 else s1
  else s

/-- R380: the payload of a COMPLETE entry. -/
def completePayload (d : Desc) (c : Nat) (p : Word) (status : Nat) : List Byte :=
  leBytes 4 d.ref.ring ++ leBytes 4 d.ref.index.toNat ++ leBytes 4 c ++ leBytes 4 p.toNat ++ leBytes 4 status

/-- R49, R61, R34: a record is written to ring index p of its completion ring. -/
def writeRecord (c : Nat) (d : Desc) (o : RecordFields) (s : State) : State :=
  let r := cring s c
  let size := 2 ^ r.log2.toNat
  let phase := (r.p.toNat / size) % 2 == 0
  let s1 := emit (.hostWrite (r.addr + BitVec.ofNat 64 (32 * (r.p.toNat % size))) (recordBytes d o phase))
    (setCring c { r with p := r.p + 1 } s)
  let s2 := if o.nf.isSome then countNonFinite d.ctx s1 else s1
  let s3 := logEvent lkComplete (completePayload d c (r.p + 1) o.status) s2
  let s4 := if hIrq d.bytes || decide (2 ≤ o.status) then ringVector c s3 else s3
  setPoll 200 s4

/-- R36: a descriptor is complete: its ring slot returns. -/
def retire (r : Ref) (s : State) : State := (ledgerMove dRingSlot r.ring 1 .held .free none (dropDesc r s)).2

/-- R39: the completion ring that a record goes to; none where neither it nor ERR_CRING is enabled. -/
def recordRing (s : State) (d : Desc) : Option Nat :=
  let c := hCring d.bytes
  let e := (sring s d.ref.ring).errCring.toNat
  if (cring s c).en then some c else if (cring s e).en then some e else none

/-- R389: replay has met a COMPLETE entry for the descriptor. -/
def replayedDone (s : State) (d : Desc) : Option Nat :=
  if d.replayed then (s.yoke.replayDone.find? fun e => e.1 == d.ref.ring && e.2.1 == d.ref.index).map (·.2.2) else none

/-- R388, R389: a takeover ends in Fenced with CAUSE = TAKEOVER_FAULT and a RESULT. -/
def takeoverFail (result : Nat) (s : State) : State :=
  let s1 := { s with yoke := { s.yoke with result := result, takeEnd := s.ft.ft, stage := .none } }
  raiseVector 69 (fenceDescs (setMode .fenced causeTakeoverFault s1))

/-- R46 to R50, R389: a descriptor that has finished, with every effect visible, writes its record or waits for space; one that was
dispatched before 1,024 records waited waits beyond them (log 79). -/
def completeDesc (d : Desc) (s : State) : State :=
  let o := outcomeOf s d
  match replayedDone s d with
  | some st =>
    let s1 := retire d.ref s
    if 9 ≤ o.status ∧ st < o.status ∧ s.ms.trans = .takeover then takeoverFail 4 s1 else s1
  | none =>
    if hSilent d.bytes && o.status == 0 then
      retire d.ref (logEvent lkComplete (completePayload d (hCring d.bytes) (cring s (hCring d.bytes)).p 0) s)
    else match recordRing s d with
      | none => retire d.ref (stopRing d.ref.ring ecFetch s)
      | some c =>
        let ahead := s.descs.any fun e => e.waiting.isSome && recordRing s e == some c
        if cringFull (cring s c) || ahead then
          let k := s.host.order
          updDesc d.ref (fun d => { d with waiting := some k }) { s with host := { s.host with order := k + 1 } }
        else retire d.ref (writeRecord c d o s)

/-- R50: the record that has waited longest for a completion ring. -/
def firstWaiting (s : State) (c : Nat) : Option Desc :=
  (s.descs.filter fun d => d.waiting.isSome && recordRing s d == some c).foldl (fun best d =>
    match best with
    | none => some d
    | some b => if d.waiting.getD 0 < b.waiting.getD 0 then some d else best) none

/-- R50: a completion ring has space again and the record that waited longest for it is written. -/
def execCompletionRecordWaitEnd (cr : Nat) (s : State) : Answer :=
  .next <|
    if cringFull (cring s cr) || !inService s then s else
      match firstWaiting s cr with
      | none => s
      | some d => retire d.ref (writeRecord cr d (outcomeOf s d) s)

/-- R62: the moderation interval of a completion ring's vector has ended. -/
def execMsixModerationEnd (cr : Nat) (s : State) : Answer :=
  .next <|
    let r := cring s cr
    let beyond := match r.lastRaise with
      | some t => decide (t + 1000 * r.modUs.toNat ≤ s.clk)
      | none => true
    if r.due && beyond then raiseVector cr (setCring cr { r with due := false, lastRaise := some s.clk } s) else s

/-- R61: the host unmasks a vector; a pending one is sent. -/
def unmask (v : Nat) (s : State) : State :=
  let e := msixEntry s v
  if !e.masked then s else
    let s1 := setMsix v { e with masked := false } s
    if e.pending && inService s then emit (.msix v e.addr e.data) (setMsix v { e with masked := false, pending := false } s)
    else s1

/-- R61, R380: the host clears the mask bit of a vector's table entry: a BAR0 write of its last four bytes. -/
def execMsixUnmask (vector : Nat) (s : State) : Answer :=
  .next (if vector < 256 then bar0Write (0x10000C + 0x10 * vector) 0 (unmask vector) s else s)

/-! ### Register writes -/

/-- R30, R31, R502: a write of IOD_CRING_CFG. -/
def writeCringCfg (n : Nat) (v : Word) (s : State) : State :=
  let r := cring s n
  let en := v.getLsbD 0
  let lg := (v >>> 1).setWidth 5
  let irq := v.getLsbD 6
  let md : BitVec 16 := (v >>> 8).setWidth 16
  if r.en then
    if !en && anyCtxActive s then s else setCring n { r with en := en, irqEn := irq, modUs := md } s
  else
    let ok := en && decide (6 ≤ lg.toNat ∧ lg.toNat ≤ 20)
    let r1 := { r with en := ok, log2 := lg, irqEn := irq, modUs := md }
    if ok then setCring n { r1 with p := 0, cons := 0 } s else setCring n r1 s

/-- R31, R502: a write of IOD_CRING_CFG that sets or clears EN. -/
def execCringEnable (cr : Nat) (value : Word) (s : State) : Answer :=
  .next (if cr < 64 then bar0Write (0x12008 + 0x10 * cr) value.toNat (writeCringCfg cr value) s else s)

/-- R30, R31: a write of a submission ring's register. -/
def writeSring (n : Nat) (reg : SringReg) (v : DWord) (s : State) : State :=
  let r := sring s n
  let active := ctxActive s r.ctx.toNat
  match reg with
  | .addr => if r.en then s else setSring n { r with addr := v &&& ~~~0xFFF } s
  | .cfg =>
    let en := v.getLsbD 0
    let lg := (v >>> 1).setWidth 5
    if r.en then setSring n { r with en := en } s
    else setSring n { r with en := en && decide (6 ≤ lg.toNat ∧ lg.toNat ≤ 20), log2 := lg, prio := (v >>> 6).setWidth 3,
                             ctx := (v >>> 16).setWidth 4, errCring := (v >>> 24).setWidth 6 } s
  | .head => if active then s else setSring n { r with head := some (v.setWidth 32) } s
  | .status => if v.getLsbD 0 && r.err && !active then setSring n { r with err := false, errCode := 0 } s else s

/-- R29: the offset of a submission ring's register in its group. -/
def sringOffset : SringReg → Nat
  | .addr => 0
  | .cfg => 8
  | .head => 0xC
  | .status => 0x10

/-- R30, R31: a write of a submission ring's register. -/
def execSringCfgWrite (ring : Nat) (reg : SringReg) (value : DWord) (s : State) : Answer :=
  .next (if ring < 64 then bar0Write (0x11000 + 0x20 * ring + sringOffset reg) value.toNat (writeSring ring reg value) s else s)

end Sys2Proof.Machine
end

