-- ==== Sys2Proof/Machine/Contexts.lean ====
section
/-! DEFINITION. Contexts: BEGIN, END, ABORT and the end of a context (R53 to R58, R274, R286). -/

namespace Sys2Proof.Machine

/-! ### Tallies and lines -/

def tally (s : State) (i : Nat) : Word := s.sync.tallies.get 0 i

def setTally (i : Nat) (v : Word) (s : State) : State :=
  { s with sync := { s.sync with tallies := s.sync.tallies.put 0 i v } }

def lineOf (s : State) (l : Nat) : Line := s.sync.lines.get .reset l

def setLine (l : Nat) (x : Line) (s : State) : State :=
  { s with sync := { s.sync with lines := s.sync.lines.put .reset l x } }

/-- The generation bits of the lines of a mask, bit l for line l (R58). -/
def genBits (s : State) (mask : Word) : Word :=
  BitVec.ofNat 32 ((List.range 32).map fun l => if bitOf mask.toNat l && (lineOf s l).gen then 2 ^ l else 0).sum

/-- R286: a tally that belongs to a context. -/
def ownsTally (s : State) (ctx i : Nat) : Bool :=
  let c := ctxOf s ctx
  decide (c.base.toNat ≤ i ∧ i < c.base.toNat + c.count.toNat)

/-- R286: a line that belongs to a context. -/
def ownsLine (s : State) (ctx l : Nat) : Bool := bitOf (ctxOf s ctx).lines.toNat l

/-- R274, R363: the flags and latches of a line are cleared without a release, counted, and their tokens returned; those of a
fenced die's participants lie in RECLAIMED. -/
def clearLine (l : Nat) (s : State) : State :=
  let x := lineOf s l
  let flags := x.arrived ++ x.latched
  let kept := flags.filter fun k => !(decide (k.1 < 384) && isFenced s (k.1 / 96))
  let s1 := setLine l { x with arrived := [], latched := [], cleared := x.cleared + BitVec.ofNat 32 flags.length } s
  (ledgerMove dBarrier l kept.length .held .free none s1).2

/-- R274: every line of a mask is cleared. -/
def clearLines (mask : Word) (s : State) : State :=
  ((List.range 32).filter (bitOf mask.toNat)).foldl (fun s l => clearLine l s) s

/-! ### Results -/

/-- R53: the values of IOD_CTX_STATUS.RESULT. -/
def crOk : Nat := 1
def crTidy : Nat := 2
def crOverlap : Nat := 3
def crBadCfg : Nat := 4
def crSaveFault : Nat := 5
def crBadCmd : Nat := 6

/-- R57: a context command finishes in a state with a result, and vector 67 is raised. -/
def ctxDone (n : Nat) (st : CtxState) (result : Nat) (s : State) : State :=
  raiseVector 67 (setCtx n { ctxOf s n with state := st, result := result } s)

/-- R57: a command that the context's state does not accept. -/
def badCmd (n : Nat) (s : State) : State := ctxDone n (ctxOf s n).state crBadCmd s

/-- R380: a context command that was accepted is logged. -/
def logCtx (n cmd : Nat) (s : State) : State := logEvent lkCtxCmd (leBytes 4 (n + at' cmd 4)) s

/-! ### BEGIN -/

/-- R58: the bytes of the save area. -/
def saveBytes (c : Ctx) : Nat := 64 + 4 * c.count.toNat

/-- R54: the save area lies wholly in the populated stack memory of one die. -/
def saveAreaOk (s : State) (c : Ctx) : Bool :=
  let a := c.save.toNat
  let e := a + saveBytes c - 1
  match placeOf s a, placeOf s e with
  | some (.stack _ _), some (.stack _ _) => a / dieSpan == e / dieSpan
  | _, _ => false

/-- R54: the context's configuration is not acceptable. -/
def ctxCfgBad (s : State) (c : Ctx) : Bool :=
  decide (4096 < c.base.toNat + c.count.toNat) || (c.restore && !c.carried) || (c.carried && !saveAreaOk s c)

/-- R54: two contexts own a tally or a line in common. -/
def ctxOverlap (a b : Ctx) : Bool :=
  a.lines &&& b.lines != 0 ||
    (a.count != 0 && b.count != 0 && decide (a.base.toNat < b.base.toNat + b.count.toNat)
      && decide (b.base.toNat < a.base.toNat + a.count.toNat))

/-- R54: the context shares a tally or a line with another that is not IDLE. -/
def overlapsActive (s : State) (n : Nat) : Bool :=
  (List.range 16).any fun m => m != n && ctxActive s m && ctxOverlap (ctxOf s n) (ctxOf s m)

/-- R54, R35: the rings of a context start fetching at their heads, and are judged by the SQ_PROD last read (log 79). -/
def beginRings (n : Nat) (s : State) : State :=
  (List.range 64).foldl (fun s k =>
    let r := sring s k
    if r.ctx.toNat == n && r.en && !r.err then
      judgeRing k (match r.head with
        | some h => setSring k { r with fetch := h, head := none } s
        | none => s)
    else s) s

/-- R54: success: the context becomes ACTIVE with RESULT = OK. -/
def ctxStart (n : Nat) (s : State) : State :=
  let s1 := setCtx n { ctxOf s n with state := .active, result := crOk } s
  raiseVector 67 (beginRings n s1)

/-- The values of the tallies that a context owns, in ascending order. -/
def ownTallies (s : State) (c : Ctx) : List Word := (List.range c.count.toNat).map fun i => tally s (c.base.toNat + i)

/-- R54: a tidy context records its tallies and generation bits. -/
def ctxRecord (n : Nat) (s : State) : State :=
  let c := ctxOf s n
  setCtx n { c with recTallies := ownTallies s c, recGen := genBits s c.lines } s

/-- R58: the first 12 bytes of a save area. -/
def saveHeader (c : Ctx) (gen : Word) : List Byte :=
  leBytes 4 (c.base.toNat + at' c.count.toNat 12) ++ leBytes 4 c.lines.toNat ++ leBytes 4 gen.toNat

/-- R54, R58: the header of a save area names the context's tallies and lines. -/
def saveMatches (c : Ctx) (b : List Byte) : Bool :=
  fieldAt b 0 0 12 == c.base.toNat && fieldAt b 0 12 13 == c.count.toNat && fieldAt b 4 0 32 == c.lines.toNat

/-- R54: the tallies and generation bits of a save area are loaded. -/
def loadSave (c : Ctx) (b : List Byte) (s : State) : State :=
  let gen := fieldAt b 8 0 32
  let s1 := (List.range c.count.toNat).foldl (fun s i =>
    setTally (c.base.toNat + i) (BitVec.ofNat 32 (fieldAt b (64 + 4 * i) 0 32)) s) s
  (List.range 32).foldl (fun s l => if bitOf c.lines.toNat l then setLine l { lineOf s l with gen := bitOf gen l } s else s) s1

/-- R54: a carried context with RESTORE = 1 loads its save area. An uncorrectable codeword anywhere in it comes before a header that
differs (log 79). -/
def ctxRestore (n : Nat) (s : State) : State :=
  let c := ctxOf s n
  let a := c.save.toNat
  match firstBad s .bar2 a (saveBytes c) with
  | some x =>
    match placeOf s x with
    | some p => ctxDone n .idle crSaveFault (logMemErr x p 0 7 0xFFFF (symbolsAt s.mem p) s).2
    | none => s
  | none =>
    let b := readBytes (settled s) .bar2 a (saveBytes c)
    if saveMatches c b then ctxStart n (loadSave c b s) else ctxDone n .idle crBadCfg s

/-- R54, R57: BEGIN. -/
def ctxBegin (ctx : Nat) (s : State) : State :=
  let c := ctxOf s ctx
  if c.state != .idle then badCmd ctx s
  else
    let s := logCtx ctx 1 s
    if ctxCfgBad s c then ctxDone ctx .idle crBadCfg s
    else if overlapsActive s ctx then ctxDone ctx .idle crOverlap s
    else if !c.carried then ctxStart ctx (ctxRecord ctx s)
    else if c.restore then ctxRestore ctx s
    else ctxStart ctx s

/-- R53, R380, R489: a context command is a write of IOD_CTX_CMD. -/
def ctxWrite (ctx cmd : Nat) (f : Nat → State → State) (s : State) : State :=
  if ctx < 16 then bar0Write 0x10018 (ctx + at' cmd 4) (f ctx) s else s

/-- R54, R57: a BEGIN command. -/
def execCtxBegin (ctx : Nat) (s : State) : Answer := .next (ctxWrite ctx 1 ctxBegin s)

/-! ### END and ABORT -/

/-- R55, R57: END of an ACTIVE context. -/
def ctxEnd (ctx : Nat) (s : State) : State :=
  let c := ctxOf s ctx
  if c.state == .active then setCtx ctx { c with state := .ending } (logCtx ctx 2 s) else badCmd ctx s

/-- R55, R57: an END command. -/
def execCtxEnd (ctx : Nat) (s : State) : Answer := .next (ctxWrite ctx 2 ctxEnd s)

/-- R313: a packet belongs to the collective that runs. -/
def heldPiece (x : CollRun) (p : Packet) : Bool :=
  match p.type.toNat with
  | 6 => decide (x.op ≤ 4) && p.arg1.setWidth 32 == x.inst && (p.stream.toNat - 0x100) / 16 == x.slot
  | 10 | 11 => decide (5 ≤ x.op)
  | _ => false

/-- R313: a descriptor that runs a collective whose packets are held. -/
def isHeldUp (s : State) (d : Desc) : Bool :=
  match s.coll.run with
  | some x => x.ref == d.ref && (heldPackets s).any (heldPiece x)
  | none => false

/-- R56, R313: the context's descriptors that no core or engine runs, and those whose packets are held, complete with ABORTED, DETAIL = 1.
One of which some copies run goes on whole (log 79). -/
def abortDescs (ctx : Nat) (s : State) : State :=
  s.descs.foldl (fun s d =>
    if d.ctx.toNat == ctx && !d.finished && (!d.running || isHeldUp s d) then setOutcome d.ref stAborted 1 none s else s) s

/-- R56, R57: ABORT of an ACTIVE or ENDING context. -/
def ctxAbort (ctx : Nat) (s : State) : State :=
  let c := ctxOf s ctx
  if c.state == .active || c.state == .ending then
    abortDescs ctx (setCtx ctx { c with state := .ending } (logCtx ctx 3 s))
  else badCmd ctx s

/-- R56, R57: an ABORT command. -/
def execCtxAbort (ctx : Nat) (s : State) : Answer := .next (ctxWrite ctx 3 ctxAbort s)

/-- R53, R57: a write of IOD_CTX_CMD. -/
def writeCtxCmd (v : Word) (s : State) : State :=
  let ctx := bitsOf v.toNat 0 4
  match bitsOf v.toNat 4 2 with
  | 1 => ctxBegin ctx s
  | 2 => ctxEnd ctx s
  | 3 => ctxAbort ctx s
  | _ => s

/-- R55: the first owned tally that differs from its recorded value. -/
def tidyTally (s : State) (c : Ctx) : Option Nat :=
  ((ownTallies s c).zip c.recTallies).zipIdx.findSome? fun (p, i) => if p.1 != p.2 then some (c.base.toNat + i) else none

/-- R55: the first owned line whose generation bit differs from its recorded value. -/
def tidyLine (s : State) (c : Ctx) : Option Nat :=
  let g := (genBits s c.lines ^^^ c.recGen).toNat
  firstIdx 32 fun l => bitOf c.lines.toNat l && bitOf g l

/-- R55: the outcome of a tidy context: RESULT, MISMATCH_KIND and MISMATCH_INDEX. -/
def tidyResult (s : State) (c : Ctx) : Nat × Bool × Nat :=
  match tidyTally s c with
  | some i => (crTidy, false, i)
  | none =>
    match tidyLine s c with
    | some l => (crTidy, true, l)
    | none => (crOk, false, 0)

/-- R55, R58: the bytes that a carried context saves. -/
def saveArea (s : State) (c : Ctx) : List Byte :=
  saveHeader c (genBits s c.lines) ++ List.replicate 52 0 ++ (ownTallies s c).flatMap fun t => leBytes 4 t.toNat

/-- R55: a carried context writes its save area; its result. -/
def ctxSave (s : State) (c : Ctx) : Nat × State :=
  let b := saveArea s c
  let bad := (partBadAt s .bar2 (addressed c.save.toNat b)).isSome
  (if bad then crSaveFault else crOk, storeReceived .bar2 (addressed c.save.toNat b) s)

/-- R55, R274: every fetched descriptor of an ending context has completed: its state is checked or saved, its lines are
cleared, it becomes IDLE and vector 67 is raised. Without a mismatch its two MISMATCH fields read 0; an ABORT of an ENDING context joins
its END, and vector 67 is raised once for both (log 79). -/
def execCtxEndFinish (ctx : Nat) (s : State) : Answer :=
  .next <|
    let c := ctxOf s ctx
    if c.state != .ending || s.descs.any (fun d => d.ctx.toNat == ctx) then s
    else
      let (r, k, i, s1) : Nat × Bool × Nat × State :=
        if c.carried then
          let (r, s1) := ctxSave s c
          (r, false, 0, s1)
        else
          let (r, k, i) := tidyResult s c
          (r, k, i, s)
      let s2 := clearLines c.lines s1
      ctxDone ctx .idle r (setCtx ctx { ctxOf s2 ctx with mismatchKind := k, mismatchIndex := i } s2)

/-- R53: writes of a context's registers, ignored unless it is IDLE. -/
def writeCtxCfg (n : Nat) (v : Word) (s : State) : State :=
  let c := ctxOf s n
  if c.state != .idle then s else
    setCtx n { c with carried := v.getLsbD 0, restore := v.getLsbD 1, base := (v >>> 4).setWidth 12,
                      count := (v >>> 16).setWidth 13 } s
def writeCtxBar (n : Nat) (v : Word) (s : State) : State :=
  let c := ctxOf s n
  if c.state != .idle then s else setCtx n { c with lines := v } s
def writeCtxSave (n : Nat) (v : DWord) (s : State) : State :=
  let c := ctxOf s n
  if c.state != .idle then s else setCtx n { c with save := v.setWidth 44 &&& ~~~0x3F } s

/-- R53: IOD_CTX_STATUS. -/
def ctxStatus (s : State) (n : Nat) : Nat :=
  let c := ctxOf s n
  c.state.code + at' c.result 4 + at' (bit c.mismatchKind) 8 + at' c.mismatchIndex 9

end Sys2Proof.Machine
end

