-- ==== Sys2Proof/Machine/HostUnit.lean ====
section
/-! DEFINITION. The host unit: NOP (R498), WAIT_HOST (R59) and SIGNAL_HOST (R60), and how a wait of a copy ends (R44). -/

namespace Sys2Proof.Machine

/-- R40: runs an effect on a descriptor of an opcode of which some copies run and are at a stage (log 12). -/
def atStage (r : Ref) (o : Op) (stage : Nat) (f : Desc → State → State) (s : State) : State :=
  match findDesc s r with
  | none => s
  | some d => if d.op == some o && d.runsAt stage then f d s else s

/-- Runs an effect on one running copy of a descriptor of an opcode, at a stage. -/
def copyAtStage (r : Ref) (t : Target) (o : Op) (stage : Nat) (f : Desc → State → State) (s : State) : State :=
  match findDesc s r with
  | none => s
  | some d =>
    match copyAt d t with
    | some c => if d.op == some o && d.outcome.isNone && c.runs stage then f d s else s
    | none => s

/-- R44: the wait of a copy has ended with what it will report once it resumes. -/
def endWait (r : Ref) (t : Target) (rep : Report) (s : State) : State :=
  updDesc r (updCopy t fun c => if c.st.waits then { c with st := c.st.wake, report := some rep } else c) s

/-- A waiting copy of a descriptor. -/
def waitingCopy (d : Desc) : Option Copy := d.copies.find? fun c => c.st.waits

/-- R498: a NOP completes with OK as soon as it starts on its target. -/
def execNop (d : Ref) (s : State) : Answer :=
  .next <|
    match findDesc s d with
    | none => s
    | some x =>
      if x.op == some .nop then
        updDesc d (fun x => { x with
          copies := x.copies.map fun c => if c.st == .running then { c with st := .done, report := some .ok } else c }) s
      else s

/-- R59: the offset of the first field of a WAIT_HOST that fails its check. -/
def waitHostError (d : Desc) : Option Nat :=
  if d.fld 16 0 3 != 0 then some 16
  else if d.fld 40 0 2 == 3 || d.fld 40 2 30 != 0 then some 40
  else if anySet d.bytes 48 16 then some 48
  else none

/-- R59: a WAIT_HOST starts: its body is checked and it parks. -/
def execWaitHost (d : Ref) (s : State) : Answer :=
  .next (atStage d .waitHost 0 (fun x s =>
    match waitHostError x with
    | some off => invalid d off s
    | none => parkCopy d .host 1 s) s)

/-- R59: a word of host memory satisfies a WAIT_HOST. -/
def hostWordHolds (d : Desc) (word : DWord) : Bool :=
  let v := BitVec.ofNat 64 (d.fld 24 0 64)
  let m := BitVec.ofNat 64 (d.fld 32 0 64)
  let a := word &&& m
  let b := v &&& m
  match d.fld 40 0 2 with
  | 0 => a == b
  | 1 => a != b
  | _ => serialDone (a.setWidth 32) (b.setWidth 32)

/-- R59, R380: the poll of a waiting WAIT_HOST has read its word; none for a PCIe error completion. -/
def execWaitHostPoll (d : Ref) (word : Option DWord) (s : State) : Answer :=
  .next <|
    match findDesc s d with
    | none => s
    | some x =>
      if x.op != some .waitHost || x.outcome.isSome || (waitingCopy x).isNone then s
      else
        let s := emit (.hostRead (BitVec.ofNat 64 (x.fld 16 0 64)) 8) s
        match word with
        | none => invalid d 16 s
        | some w =>
          if hostWordHolds x w then
            logEvent lkHostWord (leBytes 4 d.ring ++ leBytes 4 d.index.toNat ++ leBytes 8 w.toNat) (endWait d .host .ok s)
          else s

/-- R60: the offset of the first field of a SIGNAL_HOST that fails its check. -/
def signalHostError (d : Desc) : Option Nat :=
  let v := d.fld 32 0 8
  if d.fld 16 0 3 != 0 then some 16
  else if (v != 0 && decide (v < 96)) || d.fld 32 8 24 != 0 then some 32
  else if anySet d.bytes 36 28 then some 36
  else none

/-- R60, R389: SIGNAL_HOST writes its word and raises its vector; a replayed one raises none. -/
def execSignalHost (d : Ref) (s : State) : Answer :=
  .next (atStage d .signalHost 0 (fun x s =>
    match signalHostError x with
    | some off => invalid d off s
    | none =>
      let s1 := emit (.hostWrite (BitVec.ofNat 64 (x.fld 16 0 64)) (leBytes 8 (x.fld 24 0 64))) s
      let v := x.fld 32 0 8
      let s2 := if v = 0 ∨ x.replayed then s1 else raiseVector v s1
      finishCopy d .host .ok s2) s)

end Sys2Proof.Machine
end

