-- ==== Sys2Proof/Machine/FieldTime.lean ====
section
/-! DEFINITION. Field Time: epoch pulses and loads (R241 to R243), the reference (R244), link time exchanges (R246 to R248),
slot plans (R254 to R259), FT_OUT (R260) and the FT_ registers (R261). -/

namespace Sys2Proof.Machine

def setFt (f : FieldTime) (s : State) : State := { s with ft := f }

/-- R243: FT less its nearest multiple of 10,000,000. -/
def epochError (ft : DWord) : Int := (((ft.toNat + 5000000) % 10000000 : Nat) : Int) - 5000000

/-- R242, R243: an epoch pulse loads an armed value, or records how far FT lies from its nearest multiple. -/
def execFtEpochPulse (s : State) : Answer :=
  .next <|
    if !ftRuns s then s else
      let f := { s.ft with lastPulse := some s.clk }
      if f.arm then
        setFt { f with ft := f.load, arm := false, loadDone := true, aligned := f.aligned || f.refOk, holdover := false } s
      else
        let e := epochError f.ft
        setFt { f with epochErr := BitVec.ofInt 32 e, epochMiss := f.epochMiss || decide (1 < e.natAbs),
                       aligned := f.aligned && decide (e.natAbs ≤ 4) } s

/-- R243: no pulse has arrived within 10,001,000 ticks of the previous one. -/
def execEpochMissTimeout (s : State) : Answer :=
  .next <|
    match s.ft.lastPulse with
    | some t =>
      if ftRuns s && decide (t + 10001000 ≤ s.clk) then setFt { s.ft with epochMiss := true, lastPulse := none } s else s
    | none => s

/-- R244: FT_REF has shown no edge for 100 ns. -/
def execFtRefLoss (s : State) : Answer :=
  .next <|
    let s1 := { s with pins := { s.pins with ftRef := false } }
    if ftRuns s then setFt { s.ft with refOk := false, holdover := true, aligned := false } s1 else s1

/-- R244: edges have returned; HOLDOVER reads 1 until the next load. -/
def execFtRefReturn (s : State) : Answer :=
  .next <|
    let s1 := { s with pins := { s.pins with ftRef := true } }
    if ftRuns s then setFt { s.ft with refOk := true } s1 else s1

/-- R242: a write of FT_CTRL: DISARM wins over ARM. -/
def writeFtCtrl (v : Word) (s : State) : State :=
  if v.getLsbD 1 then setFt { s.ft with arm := false } s
  else if v.getLsbD 0 then setFt { s.ft with arm := true } s
  else s

def ftBase : Nat := 0x110000

/-- R242: a write of FT_CTRL that arms. -/
def execFtCtrlArm (value : Word) (s : State) : Answer :=
  .next (bar0Write (ftBase + 0xC) value.toNat (writeFtCtrl value) s)

/-- R242: a write of FT_CTRL that disarms. -/
def execFtCtrlDisarm (value : Word) (s : State) : Answer :=
  .next (bar0Write (ftBase + 0xC) value.toNat (writeFtCtrl value) s)

/-- R242: a write of FT_LOAD, ignored unless a multiple of 10,000,000 and while a load is armed. -/
def writeFtLoad (v : DWord) (s : State) : State :=
  if v.toNat % 10000000 == 0 && !s.ft.arm then setFt { s.ft with load := v } s else s

/-- R242: a write of FT_LOAD. -/
def execFtLoadWrite (value : DWord) (s : State) : Answer :=
  .next (bar0Write (ftBase + 0x10) value.toNat (writeFtLoad value) s)

/-- R261: a 4-byte read of FT_NOW: one at 0x000 latches the high half for the next at 0x004. -/
def execFtNowRead (offset : Nat) (s : State) : Answer :=
  .next <|
    let hi : Word := (s.ft.ft >>> 32).setWidth 32
    if !inService s then s
    else if offset = 0 then emit (.ftNow (s.ft.ft.setWidth 32)) (setFt { s.ft with latch := some hi } s)
    else if offset = 4 then emit (.ftNow (s.ft.latch.getD hi)) (setFt { s.ft with latch := none } s)
    else s

/-! ### Time exchanges -/

def portTime (s : State) (p : Nat) : PortTime := s.ft.ports.get .reset p

def setPortTime (p : Nat) (x : PortTime) (s : State) : State :=
  setFt { s.ft with ports := s.ft.ports.put .reset p x } s

/-- R246: the port is trained. -/
def portTrained (s : State) (p : Nat) : Bool :=
  match (portOf s p).state with
  | .parked | .up => true
  | _ => false

/-- R246: the states in which links measure time. -/
def timeMode (s : State) : Bool := s.ms.mode == .full || s.ms.mode == .fenced || s.ms.mode == .banked

/-- R246: a trained port sends a time request stamped t1. -/
def execTimeReqSend (port : Nat) (s : State) : Answer :=
  .next <|
    if timeMode s && portTrained s port then
      sendWord port (.timeReq s.ft.ft) s
    else s

/-- R246, R293: a time request arrives and is answered; one in a replayed flit is ignored. -/
def execTimeReqReceive (port : Nat) (t1 : DWord) (replay : Bool) (s : State) : Answer :=
  .next <|
    if replay || !timeMode s || !portTrained s port then s else sendWord port (.timeRsp t1 s.ft.ft 0) s

/-- R248: OVER of a port by its reported offset, in 1/16 tick. -/
def isOver (s : State) (offset : Word) : Bool := decide (16 * s.ft.skewLimit.toNat < offset.toInt.natAbs)

/-- R246: a quotient rounded to a neighbour that the spec does not name, where it is not whole. -/
def freeQuot (n : Int) (d : Nat) (s : State) : Int × State :=
  let q := n / (d : Int)
  if n % (d : Int) = 0 then (q, s) else
    let (i, s1) := choose 2 s
    (q + i, s1)

/-- R246: FT_PORT_TIME from the exchanges that are kept. -/
def reportTime (p : Nat) (s : State) : State :=
  let x := portTime s p
  let n := x.exchanges.length
  let (o, s1) := freeQuot (8 * (x.exchanges.map (·.1)).sum) n s
  let (d, s2) := freeQuot ((x.exchanges.map (·.2)).sum) (2 * n) s1
  let ow := BitVec.ofInt 32 o
  setPortTime p { x with offset := ow, delay := BitVec.ofNat 16 (hold 0xFFFF d.toNat), valid := true,
                         lastReply := some s.clk, sent := none, beyond := isOver s ow } s2

/-- R246, R293: a time reply arrives at t4 and joins the mean of the last 16; one that comes later than 100 µs, or in a
replayed flit, is dropped. -/
def execTimeRspReceive (port : Nat) (t1 t2 : DWord) (turn : Word) (replay : Bool) (s : State) : Answer :=
  .next <|
    let x := portTime s port
    let t4 := s.ft.ft
    if replay || !timeMode s || !portTrained s port || x.sent != some t1 || decide (100000 < (t4 - t1).toNat) then s
    else
      let out : Int := (t2 - t1).toInt
      let back : Int := (t4 - (t2 + turn.setWidth 64)).toInt
      reportTime port (setPortTime port { x with exchanges := ((out - back, out + back) :: x.exchanges).take 16 } s)

/-- R246: no reply has arrived within 1 ms. -/
def execTimeReplyTimeout (port : Nat) (s : State) : Answer :=
  .next <|
    let x := portTime s port
    match x.lastReply with
    | some c => if x.valid && decide (c + 1000000 ≤ s.clk) then setPortTime port { x with valid := false } s else s
    | none => s

/-- R248: every port's OVER judged again after a write of SKEW_LIMIT. -/
def rejudgeSkew (s : State) : State :=
  (List.range 16).foldl (fun s p =>
    let x := portTime s p
    setPortTime p { x with beyond := isOver s x.offset } s) s

/-- R248: FT_STATUS.SKEW_ALARM. -/
def skewAlarm (s : State) : Bool := (List.range 16).any fun p => (portTime s p).beyond

/-! ### Slot plans -/

/-- R255: an entry of a plan record. -/
def planEntry (b : List Byte) (e : Nat) : PlanEntry :=
  { port := fieldAt b (64 + 8 * e) 0 4, rx := fieldAt b (64 + 8 * e) 4 1 == 1, first := fieldAt b (64 + 8 * e) 5 7,
    count := fieldAt b (64 + 8 * e) 12 7, peer := fieldAt b (64 + 8 * e + 4) 0 14 }

/-- R257: an entry that BAD_ENTRY names. -/
def planEntryBad (b : List Byte) (e : Nat) : Bool :=
  let x := planEntry b e
  fieldAt b (64 + 8 * e) 19 13 != 0 || fieldAt b (64 + 8 * e + 4) 14 18 != 0 || decide (79 < x.first) || x.count == 0
    || decide (80 < x.first + x.count)

/-- R257: two runs of one port and direction that share a slot. -/
def planRunsOverlap (x y : PlanEntry) : Bool :=
  x.port == y.port && x.rx == y.rx && decide (x.first < y.first + y.count) && decide (y.first < x.first + x.count)

/-- R257: the first entry that shares a slot with an earlier one. -/
def planOverlap (es : List PlanEntry) : Option Nat :=
  firstIdx es.length fun i =>
    match es[i]? with
    | some y => (es.take i).any fun x => planRunsOverlap x y
    | none => false

/-- R257: the check of a plan record at an address, with the plan's window: the ERR and ERR_ENTRY of the first failure, or
VC_MASK and the entries. The claim is decided apart. -/
def planCheck (s : State) (p : Plan) : Except (Nat × Nat) (Byte × List PlanEntry) :=
  let a := p.addr.toNat
  if !recordOk s .iod a 64 64 then .error (1, 0)
  else
    let n := fieldAt (readBytes s .iod a 64) 0 0 12 + 1
    if !inReach s .iod a (64 + 8 * n) then .error (1, 0)
    else
      let b := readBytes s .iod a (64 + 8 * n)
      if fieldAt b 0 12 4 != 0 || fieldAt b 0 24 8 != 0 || anySet b 4 60 || fieldAt b 0 16 8 == 0 then .error (2, 0)
      else match firstIdx n (planEntryBad b) with
        | some e => .error (2, e)
        | none =>
          let es := (List.range n).map (planEntry b)
          match planOverlap es with
          | some e => .error (3, e)
          | none =>
            if p.len == 0 || (p.period != 0 && decide (p.period.toNat < p.len.toNat)) then .error (4, 0)
            else .ok (BitVec.ofNat 8 (fieldAt b 0 16 8), es)

/-- R257, R494: a write that sets EN of a plan. -/
def enablePlan (b : Nat) (s : State) : State :=
  let p := planOf s b
  if p.en then s else
    match planCheck s p with
    | .error (e, i) => setPlan b { p with err := e, errEntry := i } s
    | .ok (m, es) =>
      let p1 := { p with en := true, err := 0, errEntry := 0, vcMask := m, entries := es }
      if planClaims p1 then
        if claimHolder s 2 = 1 then claimEvent 2 0 2 1 (setPlan b { p with err := 5, errEntry := 0 } s) else setPlan b p1 s
      else setPlan b p1 s

/-- R256, R257: a write of FT_PLAN_CTRL. -/
def writePlanCtrl (b : Nat) (v : Word) (s : State) : State :=
  if v.getLsbD 0 then enablePlan b s else setPlan b { planOf s b with en := false } s

/-- R257: a write that sets EN of a plan. -/
def execFtPlanEnable (plan : Nat) (s : State) : Answer :=
  .next (if plan < 2 then bar0Write (ftBase + 0x218 + 0x40 * plan) 1 (enablePlan plan) s else s)

/-- R256: a plan is active in a frame. -/
def planActive (p : Plan) (f : Nat) : Bool :=
  p.en && decide (p.start.toNat ≤ f) &&
    (if p.period = 0 then decide (f < p.start.toNat + p.len.toNat)
     else decide ((f - p.start.toNat) % p.period.toNat < p.len.toNat))

/-- R254: the frame of the present tick. -/
def frameNow (s : State) : Nat := s.ft.ft.toNat / 10000

/-- R256: the plan that governs a frame; none in Kindling. -/
def governing (s : State) (f : Nat) : Option Nat :=
  if s.ms.mode = .kindling then none
  else if planActive (planOf s 0) f then some 0
  else if planActive (planOf s 1) f then some 1
  else none

/-- R256: at a frame boundary the module decides which plan governs the frame; a change of a plan takes effect only there. -/
def execFrameBoundary (s : State) : Answer :=
  .next <|
    if inService s && s.ft.ft.toNat % 10000 == 0 then
      let g := governing s (frameNow s)
      setFt { s.ft with governs := g, ruling := match g with | some b => planOf s b | none => .reset } s
    else s

/-- R259: a tick lies in a run of a port and direction with a peer, in this frame or the ones beside it, the run widened at
both ends. -/
def inRun (p : Plan) (port : Nat) (rx : Bool) (peer tick widen : Nat) : Bool :=
  let f := tick / 10000
  [f - 1, f, f + 1].any fun g =>
    (g == f || planActive p g) && p.entries.any fun e =>
      e.port == port && e.rx == rx && e.peer == peer &&
        decide (10000 * g + 125 * e.first ≤ tick + widen ∧ tick < 10000 * g + 125 * (e.first + e.count) + widen)

/-- R256, R258: a plan governs the present frame and the packet's channel is planned. -/
def planned (s : State) (q : Packet) : Bool := s.ft.governs.isSome && bitOf s.ft.ruling.vcMask.toNat q.vc

/-- R259: a packet that arrives on a planned channel outside every run of its source collides. -/
def collides (s : State) (port : Nat) (q : Packet) : Bool :=
  planned s q && !inRun s.ft.ruling port true q.srcPos.toNat s.ft.ft.toNat s.ft.headland.toNat

/-- R253: within HEADLAND ticks of a boundary of the frames. -/
def nearFrame (s : State) : Bool :=
  let t := s.ft.ft.toNat % 10000
  decide (t ≤ s.ft.headland.toNat) || decide (10000 ≤ t + s.ft.headland.toNat)

/-- R253, R259: a packet arrives: whether it collides; a collision, and the arrival of a packet on a planned channel that a frame is kept for,
near a boundary of the frames, are counted. -/
def noteArrival (port : Nat) (q : Packet) (s : State) : Bool × State :=
  let c := collides s port q
  let f := s.ft
  let f1 := if c then { f with collide := f.collide.add 1 } else f
  let f2 := if planned s q && nearFrame s then { f1 with headCount := f1.headCount.add 1 } else f1
  (c, setFt f2 s)

/-- R253, R259: a packet arrives on a port that its command does not name: which of the sixteen is open (log 96). -/
def noteSomewhere (q : Packet) (s : State) : Bool × State :=
  let (p, s1) := choose 16 s
  noteArrival p q s1

/-- R258: the tick at which the TX run of a port toward a peer ends, where the present tick lies in one. -/
def runEnd (s : State) (p : Plan) (port peer : Nat) : Option Nat :=
  let t := s.ft.ft.toNat % 10000
  (p.entries.find? fun e => e.port == port && !e.rx && e.peer == peer
      && decide (125 * e.first ≤ t ∧ t < 125 * (e.first + e.count))).map fun e => 125 * (e.first + e.count)

/-- R258: a planned packet may start now. -/
def planAllows (s : State) (port : Nat) (q : Packet) : Bool :=
  if planned s q then
    match runEnd s s.ft.ruling port q.dstPos.toNat with
    | some e => decide (s.ft.ft.toNat % 10000 + ceilDiv (packetBytes q) 200 + s.ft.slotGuard.toNat ≤ e)
    | none => false
  else true

/-! ### FT_OUT -/

/-- R260: FT_OUT gives its pulse at a multiple of 10,000,000, or at a frame boundary. -/
def execFtOutPulse (s : State) : Answer :=
  .next <|
    let m := if s.ft.outSrc then 10000 else 10000000
    if inService s && s.ft.outEn && s.ft.ft.toNat % m == 0 then emit .ftOutPulse (setFt { s.ft with pulseAt := some s.clk } s) else s

/-- R260, R494: a write of FT_OUT_CFG requests or releases the FT_OUT contact. -/
def writeFtOutCfg (v : Word) (s : State) : State :=
  let s1 := setFt { s.ft with outSrc := v.getLsbD 1 } s
  if v.getLsbD 0 then claimHigh 0 s1 else setFt { s1.ft with outEn := false, pulseAt := none } s1

/-- R260: a write of FT_OUT_CFG. -/
def execFtOutCfgWrite (value : Word) (s : State) : Answer :=
  .next (bar0Write (ftBase + 0x20) value.toNat (writeFtOutCfg value) s)

end Sys2Proof.Machine
end

