-- ==== Sys2Proof/Machine/Fp.lean ====
section
/-! DEFINITION. Number formats and arithmetic (chapter 3): values, encodings (R63 to R67), subnormals (R68), block scaling
(R69 to R73), rounding and overflow (R83 to R86), SG64 (R87 to R89), and exact arithmetic with one rounding. -/

namespace Sys2Proof.Machine

/-- A value of a floating-point format: NaN, an infinity, or ± m × 2^e. A zero keeps its sign. -/
inductive FVal where
  | nan
  | inf (neg : Bool)
  | fin (neg : Bool) (m : Nat) (e : Int)
deriving DecidableEq, Repr

/-- +0. -/
def fzero : FVal := .fin false 0 0

/-- R65, R67: an encoding: its width, the bits of its mantissa, its bias, the code of its largest finite magnitude, the code of
infinity where it has one, and the canonical NaN. -/
structure Fmt where
  bits : Nat
  mbits : Nat
  bias : Nat
  top : Nat
  inf : Option Nat
  nan : Nat
  /-- R84: an 8-bit or 4-bit target -/
  narrow : Bool
deriving DecidableEq, Repr

def fp32 : Fmt := { bits := 32, mbits := 23, bias := 127, top := 0x7F7FFFFF, inf := some 0x7F800000, nan := 0x7FC00000, narrow := false }
def bf16 : Fmt := { bits := 16, mbits := 7, bias := 127, top := 0x7F7F, inf := some 0x7F80, nan := 0x7FC0, narrow := false }
def fp16 : Fmt := { bits := 16, mbits := 10, bias := 15, top := 0x7BFF, inf := some 0x7C00, nan := 0x7E00, narrow := false }
def e4m3 : Fmt := { bits := 8, mbits := 3, bias := 7, top := 0x7E, inf := none, nan := 0x7F, narrow := true }
def e5m2 : Fmt := { bits := 8, mbits := 2, bias := 15, top := 0x7B, inf := some 0x7C, nan := 0x7E, narrow := true }
def e2m1 : Fmt := { bits := 4, mbits := 1, bias := 1, top := 7, inf := none, nan := 0, narrow := true }

/-- R63: the element encoding of a format code from 0 to 7; INT32, code 8, has none. -/
def fmtOf (code : Nat) : Fmt :=
  match code with
  | 1 => bf16
  | 2 => fp16
  | 3 | 5 => e4m3
  | 4 | 6 => e5m2
  | 7 => e2m1
  | _ => fp32

/-- R63: a code with one block scale per 32 elements. -/
def isMx (code : Nat) : Bool := decide (5 ≤ code ∧ code ≤ 7)

/-- R63: the bits of an element of a format code. -/
def fmtBits (code : Nat) : Nat := if code = 8 then 32 else (fmtOf code).bits

/-- R65: the exponent of the least significant bit of a subnormal. -/
def Fmt.emin (f : Fmt) : Int := 1 - (f.bias : Int) - f.mbits

/-- R65, R67: the value of an encoding. -/
def decodeF (f : Fmt) (raw : Nat) : FVal :=
  let mag := raw % 2 ^ (f.bits - 1)
  let neg := bitOf raw (f.bits - 1)
  if f.inf = some mag then .inf neg
  else if f.top < mag then .nan
  else
    let e := mag / 2 ^ f.mbits
    let m := mag % 2 ^ f.mbits
    if e = 0 then .fin neg m f.emin else .fin neg (2 ^ f.mbits + m) ((e : Int) - f.bias - f.mbits)

/-- R83: the rounding modes. -/
inductive Rnd where
  | rne
  | rz
  | sr (u : Nat)
deriving DecidableEq, Repr

/-- R82, R83, R88: the discarded part `r` of a `sh`-bit tail rounds the magnitude `lo` away from zero. -/
def Rnd.up (rnd : Rnd) (lo r sh : Nat) : Bool :=
  match rnd with
  | .rne => decide (2 ^ sh < 2 * r) || (2 * r == 2 ^ sh && lo % 2 == 1)
  | .rz => false
  | .sr u => r != 0 && decide (u < (if 16 ≤ sh then r >>> (sh - 16) else r <<< (16 - sh)))

/-- R85: a magnitude rounded to a format's precision with an unbounded exponent: its multiple and the exponent of the unit. -/
def roundMag (f : Fmt) (rnd : Rnd) (m : Nat) (e : Int) : Nat × Int :=
  if m = 0 then (0, f.emin) else
    let k := max (e + Nat.log2 m - f.mbits) f.emin
    if k ≤ e then (m <<< (e - k).toNat, k)
    else
      let sh := (k - e).toNat
      let lo := m >>> sh
      (lo + bit (rnd.up lo (m % 2 ^ sh) sh), k)

/-- The code of a magnitude that is a multiple of its unit, as if the exponent had no bound: codes rise with magnitudes. -/
def Fmt.code (f : Fmt) (q : Nat) (k : Int) : Nat :=
  if q < 2 ^ f.mbits then q
  else if q < 2 ^ (f.mbits + 1) then ((k + f.mbits + f.bias).toNat <<< f.mbits) + (q - 2 ^ f.mbits)
  else ((k + 1 + f.mbits + f.bias).toNat <<< f.mbits)

/-- R84: whether a conversion to a target saturates under an overflow mode. -/
def Fmt.saturates (f : Fmt) (ovf : Nat) : Bool := f.inf.isNone && f.bits == 4 || ovf == 1 || (ovf == 0 && f.narrow)

/-- R85: what overflow and an infinite source give. -/
def Fmt.overflow (f : Fmt) (neg : Bool) (ovf : Nat) : Nat :=
  let sg := bit neg <<< (f.bits - 1)
  if f.saturates ovf then sg + f.top
  else match f.inf with
    | some i => sg + i
    | none => f.nan

/-- R85 to R88: a conversion to a format. A subnormal result is produced (R68). -/
def encodeF (f : Fmt) (rnd : Rnd) (ovf : Nat) (x : FVal) : Nat :=
  match x with
  | .nan => f.nan
  | .inf neg => f.overflow neg ovf
  | .fin neg m e =>
    let (q, k) := roundMag f rnd m e
    let c := f.code q k
    if f.top < c then f.overflow neg ovf else (bit neg <<< (f.bits - 1)) + c

/-- R68: an FP32 subnormal becomes a zero of its sign. -/
def flush32 (x : FVal) : FVal :=
  match x with
  | .fin neg m e => if m ≠ 0 ∧ e + Nat.log2 m < -126 then .fin neg 0 0 else x
  | y => y

/-- R82, R68: a result rounded to FP32 as the vector and Hearth engines and the guard unit do. -/
def round32 (x : FVal) : FVal := flush32 (decodeF fp32 (encodeF fp32 .rne 2 x))

/-- R77: a result of the matrix array or the WGA: truncated to FP32, overflow to infinity, a subnormal or zero to +0. -/
def trunc32 (x : FVal) : FVal :=
  match x with
  | .fin _ 0 _ => fzero
  | _ =>
    match flush32 (decodeF fp32 (encodeF fp32 .rz 2 x)) with
    | .fin _ 0 _ => fzero
    | y => y

/-- The FP32 encoding of a value, and the value an FP32 encoding stands for as the vector and Hearth engines read it (R68). -/
def bits32 (x : FVal) : Word :=
  BitVec.ofNat 32 (encodeF fp32 .rne 2 (flush32 x))
def val32 (w : Word) : FVal := flush32 (decodeF fp32 w.toNat)

/-! ### Exact arithmetic -/

/-- The integer n with value ± m × 2^e = n × 2^k, for k ≤ e. -/
def alignTo (neg : Bool) (m : Nat) (e k : Int) : Int :=
  let n : Int := ((m <<< (e - k).toNat : Nat) : Int)
  if neg then -n else n

/-- The exact value n × 2^k; a zero takes the sign given. -/
def ofInt (n : Int) (k : Int) (negZero : Bool) : FVal :=
  if n = 0 then .fin negZero 0 0 else .fin (decide (n < 0)) n.natAbs k

def FVal.negate : FVal → FVal
  | .nan => .nan
  | .inf n => .inf (!n)
  | .fin n m e => .fin (!n) m e

def FVal.abs : FVal → FVal
  | .nan => .nan
  | .inf _ => .inf false
  | .fin _ m e => .fin false m e

def FVal.isNan : FVal → Bool
  | .nan => true
  | _ => false

def FVal.isFinite : FVal → Bool
  | .fin _ _ _ => true
  | _ => false

def FVal.isZero : FVal → Bool
  | .fin _ 0 _ => true
  | _ => false

def FVal.isNeg : FVal → Bool
  | .nan => false
  | .inf n => n
  | .fin n _ _ => n

/-- The exact sum (IEEE 754-2019 for NaN, infinities and signed zeros). -/
def fadd (a b : FVal) : FVal :=
  match a, b with
  | .nan, _ => .nan
  | _, .nan => .nan
  | .inf x, .inf y => if x == y then .inf x else .nan
  | .inf x, _ => .inf x
  | _, .inf y => .inf y
  | .fin na ma ea, .fin nb mb eb =>
    let k := min ea eb
    ofInt (alignTo na ma ea k + alignTo nb mb eb k) k (na && nb)

/-- The exact product. -/
def fmul (a b : FVal) : FVal :=
  match a, b with
  | .nan, _ => .nan
  | _, .nan => .nan
  | .inf x, .inf y => .inf (x != y)
  | .inf x, .fin y m _ => if m = 0 then .nan else .inf (x != y)
  | .fin x m _, .inf y => if m = 0 then .nan else .inf (x != y)
  | .fin na ma ea, .fin nb mb eb => .fin (na != nb) (ma * mb) (ea + eb)

def fsub (a b : FVal) : FVal := fadd a b.negate

/-- The ordering of two numbers: −1, 0 or 1; none where either is NaN. −0 equals +0. -/
def fcmp (a b : FVal) : Option Int :=
  match a, b with
  | .nan, _ => none
  | _, .nan => none
  | .inf x, .inf y => some (if x == y then 0 else if x then -1 else 1)
  | .inf x, _ => some (if x then -1 else 1)
  | _, .inf y => some (if y then 1 else -1)
  | .fin na ma ea, .fin nb mb eb =>
    let k := min ea eb
    let d := alignTo na ma ea k - alignTo nb mb eb k
    some (if d < 0 then -1 else if d = 0 then 0 else 1)

def flt (a b : FVal) : Bool := fcmp a b == some (-1)
def fle (a b : FVal) : Bool := fcmp a b == some (-1) || fcmp a b == some 0
def feq (a b : FVal) : Bool := fcmp a b == some 0

/-- ± m × 2^e scaled by 2^k. -/
def FVal.scale (x : FVal) (k : Int) : FVal :=
  match x with
  | .fin n m e => .fin n m (e + k)
  | y => y

/-- The integer square root by bits, from bit `n` down. -/
def isqrt : Nat → Nat → Nat → Nat
  | 0, _, r => r
  | n + 1, x, r => let t := r + 2 ^ n; isqrt n x (if t * t ≤ x then t else r)

/-- A quotient of magnitudes to 40 bits and a sticky bit, exact enough for one rounding to any format. -/
def divMag (ma : Nat) (ea : Int) (mb : Nat) (eb : Int) : Nat × Int :=
  let sh := 80 + Nat.log2 mb
  let n := ma <<< sh
  (2 * (n / mb) + bit (n % mb != 0), ea - eb - sh - 1)

/-- A square root of a magnitude with a sticky bit. -/
def sqrtMag (m : Nat) (e : Int) : Nat × Int :=
  let (m1, e1) := if e % 2 = 0 then (m, e) else (2 * m, e - 1)
  let n := m1 <<< 160
  let r := isqrt (Nat.log2 n / 2 + 1) n 0
  (2 * r + bit (r * r != n), (e1 - 160) / 2 - 1)

/-- The quotient before its one rounding (IEEE 754-2019). -/
def fdiv (a b : FVal) : FVal :=
  match a, b with
  | .nan, _ => .nan
  | _, .nan => .nan
  | .inf _, .inf _ => .nan
  | .inf x, .fin y _ _ => .inf (x != y)
  | .fin x _ _, .inf y => .fin (x != y) 0 0
  | .fin na ma ea, .fin nb mb eb =>
    if mb = 0 then (if ma = 0 then .nan else .inf (na != nb))
    else
      let (m, e) := divMag ma ea mb eb
      .fin (na != nb) m e

/-- The square root before its one rounding. -/
def fsqrt (a : FVal) : FVal :=
  match a with
  | .nan => .nan
  | .inf n => if n then .nan else .inf false
  | .fin n m e => if m = 0 then .fin n 0 0 else if n then .nan else
      let (r, k) := sqrtMag m e
      .fin false r k

/-! ### Block scaling -/

/-- R66, R70: the value of an element of a block-scaled tensor. -/
def mxValue (code scale raw : Nat) : FVal :=
  if scale = 0xFF then .nan else (decodeF (fmtOf code) raw).scale ((scale : Int) - 127)

/-- R134: a two's-complement 32-bit integer as a value. -/
def intValue (raw : Nat) : FVal := ofInt (BitVec.ofNat 32 raw).toInt 0 false

/-- R63, R70, R72: the value of an element by its format code, with its block scale where it has one. -/
def elemValue (code scale raw : Nat) : FVal :=
  if code = 8 then intValue raw else if isMx code then mxValue code scale raw else decodeF (fmtOf code) raw

/-- R73: emax of the element formats. -/
def emaxOf (code : Nat) : Int := if code = 5 then 8 else if code = 6 then 15 else 2

/-- floor(log2 amax) over the values that are not 0. -/
def blockLog (xs : List FVal) : Option Int :=
  xs.foldl (fun best x =>
    match x with
    | .fin _ m e => if m = 0 then best else
        let l := e + Nat.log2 m
        match best with
        | none => some l
        | some b => some (max b l)
    | _ => best) none

/-- R73: the scale and the element codes of one block, from its valid source values, each with its rounding. -/
def mxBlock (code : Nat) (xs : List (FVal × Rnd)) : Nat × List Nat :=
  let f := fmtOf code
  if xs.any fun x => !x.1.isFinite then (0xFF, xs.map fun _ => 0)
  else match blockLog (xs.map (·.1)) with
    | none => (0, xs.map fun x => bit x.1.isNeg <<< (f.bits - 1))
    | some l =>
      let x := max (-127) (min 127 (l - emaxOf code))
      ((x + 127).toNat, xs.map fun v => encodeF f v.2 1 (v.1.scale (-x)))

/-- R134: a value written as INT32: rounded, saturating, 0 for a NaN. -/
def encodeInt (rnd : Rnd) (x : FVal) : Nat :=
  let sat (neg : Bool) : Nat := if neg then 2 ^ 31 else 2 ^ 31 - 1
  match x with
  | .nan => 0
  | .inf neg => sat neg
  | .fin neg m e =>
    let q := if 0 ≤ e then m <<< e.toNat else
      let sh := (-e).toNat
      let lo := m >>> sh
      lo + bit ((match rnd with | .rz => Rnd.rz | _ => Rnd.rne).up lo (m % 2 ^ sh) sh)
    if neg then (if 2 ^ 31 ≤ q then sat true else (2 ^ 32 - q) % 2 ^ 32)
    else if 2 ^ 31 ≤ q then sat false else q

/-! ### SG64 -/

/-- R87: fold. -/
def sgFold (z : DWord) : DWord :=
  let a := (z ^^^ (z >>> 31)) * 0x9F3A6C5B1D27E84B
  let b := (a ^^^ (a >>> 29)) * 0xC4E17A935B2DF06D
  b ^^^ (b >>> 32)

/-- R87: sg64. -/
def sg64 (seed index : DWord) (step : Word) : DWord :=
  let key := sgFold (seed ^^^ (step.setWidth 64 * 0x7A5C93E1D4B62F87))
  sgFold (key + index * 0xB3D90E6A51C748F3)

/-- R87: sg64_bits. -/
def sgBits (seed index : DWord) (step : Word) (lane : Nat) : Nat := ((sg64 seed index step) >>> (16 * lane)).toNat % 2 ^ 16

/-! ### Conversions that a descriptor asks for -/

/-- R83, R84, R89: the conversion that a descriptor's fields select. -/
structure Cvt where
  rnd : Nat
  ovf : Nat
  seed : DWord
  step : Word
  lane : Nat
deriving DecidableEq, Repr

/-- RNE with the default overflow mode. -/
def Cvt.plain : Cvt := { rnd := 0, ovf := 0, seed := 0, step := 0, lane := 0 }

/-- R88, R89: the rounding of the element with a linear index. -/
def Cvt.rndAt (c : Cvt) (index : Nat) : Rnd :=
  match c.rnd with
  | 0 => .rne
  | 1 => .rz
  | _ => .sr (sgBits c.seed (BitVec.ofNat 64 index) c.step c.lane)

/-- R91: KIND of a value that is not finite. -/
def nfKind (x : FVal) : Option Nat :=
  match x with
  | .nan => some 0
  | .inf n => some (if n then 2 else 1)
  | _ => none

/-- A value converted to a format without block scale: its code, and KIND where a non-finite value is written (R90). -/
def convert (code : Nat) (rnd : Rnd) (ovf : Nat) (x : FVal) : Nat × Option Nat :=
  if code = 8 then (encodeInt rnd x, if x.isNan then some 0 else none)
  else
    let raw := encodeF (fmtOf code) rnd ovf x
    (raw, nfKind (decodeF (fmtOf code) raw))

/-- R91: NF_POS for a KIND at an ordinal within a tile. -/
def nfPos (tile pos kind : Nat) : Word := BitVec.ofNat 32 (pos % 4096 + at' (hold 0xFFFF tile) 12 + at' kind 28)

/-- R90: NF_POS for the element of an ordinal within a copy. -/
def nfAt (ordinal kind : Nat) : Word := nfPos (ordinal / 4096) (ordinal % 4096) kind

end Sys2Proof.Machine
end

