-- ==== Sys2Proof/Machine/Tensor.lean ====
section
/-! DEFINITION. Tensor descriptors (R185 to R191), positions outside the tensor (R192 to R196), linear indices (R197, R198),
rows divided among copies (R120), and the plan of what each copy of a tensor descriptor reads, writes and reports. -/

namespace Sys2Proof.Machine

/-- R185, R197: a tensor descriptor as read. EXT and STRIDE are listed for dimensions below RANK, STRIDE[0] as 0; without an
origin record the logical tensor is the tensor itself. -/
structure Td where
  base : Nat
  fmt : Nat
  t16 : Bool
  wpad : Bool
  pad : Word
  ext : List Nat
  stride : List Int
  scaleBase : Nat
  scalePitch : Nat
  lo1 : Nat
  hi1 : Nat
  lo2 : Nat
  hi2 : Nat
  hasOrigin : Bool
  gext : List Nat
  origin : List Nat
deriving DecidableEq, Repr

def Td.rank (t : Td) : Nat := t.ext.length
def Td.w (t : Td) : Nat := fmtBits t.fmt
def Td.extAt (t : Td) (d : Nat) : Nat := t.ext.getD d 1
def Td.strideAt (t : Td) (d : Nat) : Int := t.stride.getD d 0
def Td.outer (t : Td) : List Nat := t.ext.drop 1
def Td.cols (t : Td) : Nat := t.extAt 0

/-- The product of some extents. -/
def volume (es : List Nat) : Nat := es.foldl (· * ·) 1

def Td.rows (t : Td) : Nat := volume t.outer

/-- Row-major flattening, the first extent of the list being the innermost. -/
def ravel : List Nat → List Nat → Nat
  | e :: es, x :: xs => x + e * ravel es xs
  | _, _ => 0

/-- The coordinates of a row-major number. -/
def unravel : List Nat → Nat → List Nat
  | [], _ => []
  | e :: es, n => n % e :: unravel es (n / e)

/-- R187: the padded innermost extent and the span of a row. -/
def Td.span (t : Td) : Nat :=
  if t.t16 then ceilDiv t.cols 64 * 128 * t.w else ceilDiv (ceilDiv t.cols 64 * 64 * t.w / 8) 128 * 128

/-- R186, R188: the address of a position. -/
def Td.addr (t : Td) (x : List Int) : Int :=
  let x0 := x.getD 0 0
  let outer (d : Nat) : Int := x.getD d 0 * t.strideAt d
  if t.t16 then
    let x1 := x.getD 1 0
    (t.base : Int) + ((List.range t.rank).drop 2 |>.map outer).sum + x1 / 16 * t.strideAt 1 + x0 / 64 * (128 * t.w)
      + x1 % 16 * (8 * t.w) + x0 % 64 * t.w / 8
  else (t.base : Int) + ((List.range t.rank).drop 1 |>.map outer).sum + x0 * t.w / 8

/-- R190: the border before and after dimension `d`. -/
def Td.border (t : Td) (d : Nat) : Nat × Nat :=
  if !t.wpad then (0, 0) else if d = 1 then (t.lo1, t.hi1) else if d = 2 then (t.lo2, t.hi2) else (0, 0)

/-- R190, R195: the coordinates of dimension `d`, its border among them. -/
def Td.bordered (t : Td) (d : Nat) : Nat := (t.border d).1 + t.extAt d + (t.border d).2

/-- R190: the footprint: its lowest and highest byte; none where no coordinate addresses any. -/
def Td.footprint (t : Td) : Option (Int × Int) :=
  if (List.range t.rank).any fun d => t.bordered d == 0 then none else
    let range (d : Nat) : Int × Int :=
      let lo := -Int.ofNat (t.border d).1
      let hi := lo + Int.ofNat (t.bordered d) - 1
      let (lo, hi) := if t.t16 && d == 1 then (lo / 16, hi / 16) else (lo, hi)
      (min (lo * t.strideAt d) (hi * t.strideAt d), max (lo * t.strideAt d) (hi * t.strideAt d))
    let rs := (List.range t.rank).drop 1 |>.map range
    some ((t.base : Int) + (rs.map (·.1)).sum, (t.base : Int) + (rs.map (·.2)).sum + t.span - 1)

/-- R189, R190: the bytes of the scale array. -/
def Td.scaleBytes (t : Td) : Nat := if t.rows = 0 then 0 else 64 * t.scalePitch * (t.rows - 1) + ceilDiv t.cols 32

/-- R197: an origin record's fields, where it holds to its rule. -/
def parseOrigin (ext : List Nat) (b : List Byte) : Option (List Nat × List Nat) :=
  let n := ext.length
  let g := (List.range 6).map fun d => fieldAt b (3 * d) 0 24
  let o := (List.range 6).map fun d => fieldAt b (18 + 3 * d) 0 24
  let ok := ((g.take n).zip ((o.take n).zip ext)).all fun (g, o, e) => g != 0 && decide (o + e ≤ g)
  if ok && (g.drop n ++ o.drop n).all (· == 0) && !anySet b 36 28 then some (g.take n, o.take n) else none

/-- R185: the fields of a record, before they are judged. -/
def tdFieldsOf (b : List Byte) (rec : List Byte) : Td :=
  let n := fieldAt b 0 48 3
  let wpad := fieldAt b 0 53 1 == 1
  let ext := (List.range n).map fun d => fieldAt b (12 + 3 * d) 0 24
  let has := fieldAt b 0 54 1 == 1
  let og := if has then parseOrigin ext rec else none
  { base := fieldAt b 0 0 44, fmt := fieldAt b 0 44 4, t16 := fieldAt b 0 51 2 == 1, wpad := wpad,
    pad := BitVec.ofNat 32 (fieldAt b 8 0 32), ext := ext,
    stride := (List.range n).map fun d => if d = 0 then 0 else signed40 (fieldAt b (30 + 5 * (d - 1)) 0 40),
    scaleBase := fieldAt b 56 0 44, scalePitch := fieldAt b 56 44 20,
    lo1 := fieldAt b 56 0 4, hi1 := fieldAt b 56 4 4, lo2 := fieldAt b 56 8 4, hi2 := fieldAt b 56 12 4,
    hasOrigin := has, gext := (og.map (·.1)).getD ext, origin := (og.map (·.2)).getD (ext.map fun _ => 0) }

/-- R195: the nesting test of a destination with a border. -/
def Td.nests (t : Td) : Bool :=
  decide ((t.span : Int) ≤ t.strideAt 1) &&
    ((List.range t.rank).drop 2).all fun d => decide ((t.bordered (d - 1) : Int) * t.strideAt (d - 1) ≤ t.strideAt d)

/-- R190: the record of a tensor descriptor is valid, apart from its address and footprint. -/
def recordValid (b : List Byte) (t : Td) : Bool :=
  let n := fieldAt b 0 48 3
  let mx := isMx t.fmt
  fieldAt b 0 55 9 == 0 && fieldAt b 55 0 8 == 0 && decide (t.fmt ≤ 8) && decide (1 ≤ n ∧ n ≤ 6) && decide (fieldAt b 0 51 2 ≤ 1)
    && ((List.range 6).drop n).all (fun d => fieldAt b (12 + 3 * d) 0 24 == 0 && (d == 0 || fieldAt b (30 + 5 * (d - 1)) 0 40 == 0))
    && t.base % 128 == 0
    && (if t.wpad then fieldAt b 56 16 48 == 0 && decide (t.fmt ≤ 4 ∧ 3 ≤ n)
        else if mx then t.scaleBase % 64 == 0 && decide (ceilDiv t.cols 32 ≤ 64 * t.scalePitch)
        else fieldAt b 56 0 64 == 0)
    && (!t.t16 || (decide (t.fmt ≤ 4 ∧ 2 ≤ n) && t.strideAt 1 % 128 == 0
        && decide ((ceilDiv t.cols 64 * 128 * t.w : Nat) ≤ t.strideAt 1)))

/-- R190: the footprint lies wholly within the requester's reach. -/
def Td.reached (s : State) (rq : Requester) (t : Td) : Bool :=
  match t.footprint with
  | none => true
  | some (lo, hi) =>
    decide (0 ≤ lo) && inReach s rq lo.toNat (hi - lo + 1).toNat
      && (!isMx t.fmt || inReach s rq t.scaleBase t.scaleBytes)

/-- R190, R191, R195: the tensor descriptor at an address, as a requester reads it; none where it is invalid. -/
def readTd (s : State) (rq : Requester) (dest : Bool) (a : Nat) : Option Td :=
  if a % 64 != 0 || !inReach s rq a 64 then none else
    let b := readBytes s rq a 64
    let has := fieldAt b 0 54 1 == 1
    if has && !inReach s rq a 128 then none else
      let og := readBytes s rq (a + 64) 64
      let t := tdFieldsOf b og
      if recordValid b t && t.reached s rq && (!has || (parseOrigin t.ext og).isSome) && (!dest || !t.wpad || t.nests)
      then some t else none

/-- R198: the linear index of a position. -/
def Td.linear (t : Td) (x : List Nat) : Nat := ravel t.gext ((t.origin.zip x).map fun (o, y) => o + y)

/-- The position of column `c` of row `r`. -/
def Td.pos (t : Td) (r c : Nat) : List Nat := c :: unravel t.outer r

def toInts (x : List Nat) : List Int := x.map Int.ofNat

/-- The position lies inside the tensor. -/
def Td.inside (t : Td) (x : List Int) : Bool := (x.zip t.ext).all fun (c, e) => decide (0 ≤ c ∧ c < e)

/-! ### Elements read -/

/-- The addresses of an element's bytes. -/
def Td.elemAddrs (t : Td) (x : List Int) : List Nat :=
  (List.range (max 1 (t.w / 8))).map fun i => (t.addr x).toNat + i

/-- R189: the address of the scale byte of a position. -/
def Td.scaleAddr (t : Td) (x : List Int) : Nat :=
  t.scaleBase + 64 * t.scalePitch * ravel t.outer ((x.drop 1).map Int.toNat) + (x.getD 0 0).toNat / 32

/-- The stored code of an element, and its block scale. -/
def rawAt (s : State) (rq : Requester) (t : Td) (x : List Int) : Nat :=
  let n := leNat (readBytes s rq (t.addr x).toNat (max 1 (t.w / 8)))
  if t.w = 4 then (if (x.getD 0 0).toNat % 2 = 0 then n % 16 else n / 16) else n
def scaleOf (s : State) (rq : Requester) (t : Td) (x : List Int) : Nat :=
  if isMx t.fmt then leNat (readBytes s rq (t.scaleAddr x) 1) else 127

/-- R192: the element code that PAD_VALUE converts to. -/
def padRaw (fmt : Nat) (pad : Word) : Nat :=
  let v := decodeF fp32 pad.toNat
  if fmt = 7 ∧ v.isNan then Config.padNan % 16 else (convert fmt .rne 0 v).1

/-- R192: the value of a position: stored, or PAD_VALUE outside the tensor. -/
def valAt (s : State) (rq : Requester) (t : Td) (x : List Int) : FVal :=
  if t.inside x then elemValue t.fmt (scaleOf s rq t x) (rawAt s rq t x)
  else elemValue t.fmt 127 (padRaw t.fmt t.pad)

/-- The addresses that reading a position reads. -/
def Td.readAddrs (t : Td) (x : List Int) : List Nat :=
  if t.inside x then t.elemAddrs x ++ (if isMx t.fmt then [t.scaleAddr x] else []) else []

/-! ### Elements written -/

/-- What a copy writes as one whole: bytes with the bits of each that change, and the ordinal and KIND of a non-finite value
among them. -/
structure EWrite where
  bytes : List (Nat × Nat × Nat)
  nf : Option (Nat × Nat)
deriving DecidableEq, Repr

/-- The bytes of an element's code. -/
def Td.elemBytes (t : Td) (x : List Int) (raw : Nat) : List (Nat × Nat × Nat) :=
  let a := (t.addr x).toNat
  let x0 := (x.getD 0 0).toNat
  if t.w = 4 then
    if x0 % 2 = 0 then [(a, raw, if x0 + 1 = t.cols then 0xFF else 0x0F)] else [(a, raw * 16, 0xF0)]
  else (List.range (t.w / 8)).map fun i => (a + i, raw / 256 ^ i % 256, 0xFF)

/-- R67: an element written with its value unchanged: a NaN is written canonical. -/
def canonical (fmt raw : Nat) : Nat :=
  if fmt ≤ 6 ∧ (decodeF (fmtOf fmt) raw).isNan then (fmtOf fmt).nan else raw

/-- R193, R202: an element written unchanged, with the ordinal it has in its copy. -/
def Td.writeRaw (t : Td) (x : List Int) (raw ordinal : Nat) : EWrite :=
  { bytes := t.elemBytes x (canonical t.fmt raw),
    nf := if t.fmt = 8 then none else (nfKind (decodeF (fmtOf t.fmt) raw)).map fun k => (ordinal, k) }

/-- R189: one block of a block-scaled tensor from column `c` of an outer position, written as one whole: its scale and the codes of its
elements. -/
def Td.writeWhole (t : Td) (outer : List Nat) (c ordinal scale : Nat) (codes : List Nat) : EWrite :=
  let at_ (i : Nat) : List Int := toInts ((c + i) :: outer)
  { bytes := (t.scaleAddr (at_ 0), scale, 0xFF) :: codes.zipIdx.flatMap fun (raw, i) => t.elemBytes (at_ i) raw,
    nf := if scale = 0xFF then some (ordinal, 3)
          else codes.zipIdx.findSome? fun (raw, i) => (nfKind (decodeF (fmtOf t.fmt) raw)).map fun k => (ordinal + i, k) }

/-- One block of at most 32 elements from column `c` of an outer position, formed by R73. -/
def Td.writeBlock (t : Td) (outer : List Nat) (cvt : Cvt) (c ordinal : Nat) (xs : List FVal) : EWrite :=
  let (sc, codes) := mxBlock t.fmt (xs.zipIdx.map fun (v, i) => (v, cvt.rndAt (t.linear ((c + i) :: outer))))
  t.writeWhole outer c ordinal sc codes

/-- R73, R85, R193: values written from column `c` of an outer position on, clipped to the extent; `c` is a multiple of 32 for
a block-scaled tensor. The ordinals of the elements count up from `ordinal`. -/
def Td.writeRun (t : Td) (outer : List Nat) (cvt : Cvt) (c ordinal : Nat) (xs : List FVal) : List EWrite :=
  let xs := xs.take (t.cols - c)
  if isMx t.fmt then
    (List.range (ceilDiv xs.length 32)).map fun b =>
      t.writeBlock outer cvt (c + 32 * b) (ordinal + 32 * b) ((xs.drop (32 * b)).take 32)
  else xs.zipIdx.map fun (v, i) =>
    let x := (c + i) :: outer
    let (raw, k) := convert t.fmt (cvt.rndAt (t.linear x)) cvt.ovf v
    { bytes := t.elemBytes (toInts x) raw, nf := k.map fun k => (ordinal + i, k) }

/-- R194: the rows of a border: their outer coordinates, those of dimensions 1 and 2 not both inside. -/
def Td.borderRows (t : Td) : List (List Int) :=
  if !t.wpad then [] else
    let span (lo e hi : Nat) : List Int := (List.range (lo + e + hi)).map fun i => Int.ofNat i - lo
    let deep := t.ext.drop 3
    (List.range (volume deep)).flatMap fun n =>
      (span t.lo2 (t.extAt 2) t.hi2).flatMap fun y =>
        (span t.lo1 (t.extAt 1) t.hi1).filterMap fun (x : Int) =>
          if decide (0 ≤ x ∧ x < (t.extAt 1 : Int)) && decide (0 ≤ y ∧ y < (t.extAt 2 : Int)) then none
          else some (x :: y :: toInts (unravel deep n))

/-- R194: the border written with PAD_VALUE; its elements are numbered after those of the copy that writes it (log 33). -/
def Td.writeBorder (t : Td) (ordinal : Nat) : List EWrite :=
  let raw := padRaw t.fmt t.pad
  (t.borderRows.flatMap fun o => (List.range t.cols).map fun c => Int.ofNat c :: o).zipIdx.map fun (x, i) =>
    t.writeRaw x raw (ordinal + i)

/-- R194: what copy `i` writes at its end: the border, where it is copy 0. -/
def Td.closing (t : Td) (i ordinal : Nat) : List EWrite := if i = 0 then t.writeBorder ordinal else []

/-! ### Rows divided among copies -/

/-- R120: the first and the number of the `total` items of copy `i` of `n`: contiguous blocks, the first total mod n of them
one longer. -/
def shareOf (total n i : Nat) : Nat × Nat :=
  let q := total / n
  let m := total % n
  (i * q + min i m, q + (if i < m then 1 else 0))

/-- The items of copy `i` of `n`. -/
def itemsOf (total n i : Nat) : List Nat :=
  let (a, k) := shareOf total n i
  (List.range k).map (a + ·)

/-! ### Views -/

/-- R206: a contribution that SCATTER ADD has made to an element: the place of the element, the code that stood there before the first of
them, and the contribution's value. -/
structure Term where
  place : Nat
  base : Nat
  value : FVal
deriving DecidableEq, Repr

/-- What a step of a copy comes to: what it leaves in accumulators; what it writes, each ordinal counted from the step's first; the
non-finite values that it delivers without a write; the rows that it delivers; its contributions, one for each write; the index values
that it took, by position; the elements that it numbers; what it adds to DETAIL; and an index fault, with whether it stops the copy. -/
structure Made where
  acc : List EWrite := []
  writes : List EWrite := []
  nfs : List (Nat × Nat) := []
  rows : List StreamRow := []
  terms : List Term := []
  taken : List (Nat × Option Nat) := []
  size : Nat := 0
  count : Nat := 0
  fault : Option Nat := none
  trap : Bool := false
deriving DecidableEq, Repr

/-- R135, R161, R209: what a step of an operation reads: memory as it stands, and the bytes as they stood at the earlier moments that the
reading of an element may fall on, with a draw and the number of the step for the choices between them, and what the descriptor's steps
have come to so far. -/
structure View where
  now : State
  past : List (Tab Byte)
  draw : Nat
  serial : Nat
  made : List Made := []

/-- Log 33: the state that some bytes are read from as one whole: as they stand, or where they stood otherwise before, as at one of
those moments by a free choice. -/
def View.at_ (v : View) (rq : Requester) (as : List Nat) : State :=
  match v.past with
  | [] => v.now
  | _ =>
    let keys := as.filterMap fun a => (access v.now rq a).map Place.key
    let others := v.past.filter fun m => keys.any fun k => m.get 0 k != byteAt v.now.mem k
    match others with
    | [] => v.now
    | _ =>
      let i := Config.freeAt v.draw (v.serial * 2 ^ 44 + as.headD 0) % (others.length + 1)
      { v.now with mem := { v.now.mem with bytes := (v.now.mem.bytes :: others).getD i v.now.mem.bytes } }

/-- The addresses of what is read as one whole with an element: the element, or its block with the scale. -/
def Td.wholeAddrs (t : Td) (x : List Int) : List Nat :=
  if isMx t.fmt then
    let c := (x.getD 0 0).toNat / 32 * 32
    t.scaleAddr x :: (List.range (min 32 (t.cols - c))).flatMap fun i => t.elemAddrs (Int.ofNat (c + i) :: x.drop 1)
  else t.elemAddrs x

/-- The state that a position of a tensor is read from. -/
def View.see (v : View) (rq : Requester) (t : Td) (x : List Int) : State :=
  if t.inside x then v.at_ rq (t.wholeAddrs x) else v.now

/-- R192: the value of a position as a step reads it. -/
def View.val (v : View) (rq : Requester) (t : Td) (x : List Int) : FVal := valAt (v.see rq t x) rq t x

/-- The stored code of an element as a step reads it. -/
def View.raw (v : View) (rq : Requester) (t : Td) (x : List Int) : Nat := rawAt (v.see rq t x) rq t x

/-- Memory with some replaced bytes put back, the latest first. -/
def putBack (os : List OldByte) (m : Tab Byte) : Tab Byte := os.foldr (fun o m => m.put 0 o.key o.byte) m

/-- R161: memory as it stood for a descriptor at the moments on which its reading may fall: before the writes of each writer. -/
def pastOf (d : Desc) (rmw : Bool) (s : State) : List (Tab Byte) :=
  let os := (s.mem.olds.drop d.mark).filter (readsOld d rmw)
  ((List.range os.length).filter fun i => i == 0 || (os[i - 1]?.map (·.writer)) != (os[i]?.map (·.writer))).map fun i =>
    putBack (os.drop i) s.mem.bytes

/-- R185: where a run of device-local addresses starts, for a requester, once its alias is resolved. -/
def runStart (rq : Requester) (a : Int) : Nat := (resolveAlias rq a.toNat).getD a.toNat

/-- The runs of addresses that a tensor spans: its footprint and its scales. -/
def Td.runs (rq : Requester) (t : Td) : List (Nat × Nat) :=
  (match t.footprint with | some (lo, hi) => [(runStart rq lo, (hi - lo + 1).toNat)] | none => [])
    ++ (if isMx t.fmt then [(runStart rq t.scaleBase, t.scaleBytes)] else [])

/-- Two intervals of bytes share one. -/
def overlaps (a la b lb : Nat) : Bool := decide (a < b + lb ∧ b < a + la)

/-- Two tensors may share a byte. -/
def Td.meets (rq : Requester) (a b : Td) : Bool :=
  (a.runs rq).any fun x => (b.runs rq).any fun y => overlaps x.1 x.2 y.1 y.2

/-- The addresses of all elements of a tensor, with its scales. -/
def Td.allAddrs (t : Td) : List Nat :=
  (List.range t.rows).flatMap fun r => (List.range t.cols).flatMap fun c => t.readAddrs (toInts (t.pos r c))

/-- R135: the addresses of the operands that a destination may overlap, their aliases resolved. -/
def watched (rq : Requester) (srcs dsts : List Td) : List Nat :=
  srcs.flatMap fun a => if dsts.any (a.meets rq) then a.allAddrs.map fun x => runStart rq (Int.ofNat x) else []

/-! ### Steps -/

/-- A step of a copy: the slab or piece that it belongs to, the addresses of its operands, how many bytes the access engine fetches for it,
and what it comes to. -/
structure Part where
  piece : Nat
  reads : List Nat
  fetched : Nat
  make : View → Made

/-- What one copy of a descriptor does: the operand addresses that a destination may overlap, its steps in order, and what it writes at
its end, numbered from an ordinal; and what its engine counts where it runs to its end, and where it stops. -/
structure Work where
  target : Target
  watch : List Nat
  parts : List Part
  close : Nat → List EWrite
  whole : State → State := id
  partly : State → State := id

/-- A copy under way: its steps that are left, and what those that are done have come to, by ordinals of the copy. -/
structure Going where
  work : Work
  left : List Part
  made : List Made
  size : Nat

/-- The copy has met an index fault in TRAP mode. -/
def Going.trapped (g : Going) : Bool := g.made.any (·.trap)

/-- What a copy has written, in order. -/
def Going.writes (g : Going) : List EWrite := g.made.flatMap (·.writes)

/-- Ordinals of a step made ordinals of its copy. -/
def Made.numbered (m : Made) (n : Nat) : Made :=
  { m with writes := m.writes.map fun w => { w with nf := w.nf.map fun (o, k) => (o + n, k) },
           nfs := m.nfs.map fun (o, k) => (o + n, k) }

/-- A step of a copy is done. -/
def Going.next (g : Going) (m : Made) : Going :=
  { g with left := g.left.tail, made := g.made ++ [m.numbered g.size], size := g.size + m.size }

/-- The bytes that writes make of memory, in order: a byte of which only some bits change keeps the others. -/
def mergeWrites (s : State) (rq : Requester) (ws : List EWrite) : List (Nat × Byte) :=
  ((ws.flatMap (·.bytes)).foldl (fun acc (a, v, mask) =>
    let old := if mask = 0xFF then 0 else
      match acc.find? fun p => p.1 == a with
      | some p => p.2.toNat
      | none => leNat (readBytes (settled s) rq a 1)
    (a, BitVec.ofNat 8 (v &&& mask) ||| (BitVec.ofNat 8 old &&& ~~~(BitVec.ofNat 8 mask))) :: acc) []).reverse

/-- How a copy's writes reach memory. -/
abbrev Put := Target → List EWrite → State → State

/-- The descriptor has written at an address, by itself or at one of `acc`. -/
def writtenAt (r : Ref) (rq : Requester) (s : State) (acc : List Nat) (a : Nat) : Bool :=
  acc.contains a || (match access s rq a with
    | some p => s.mem.olds.any fun o => o.writer == some r && o.key == p.key
    | none => false)

/-- R135, R209: where the descriptor has written before, an element or block holds either value: its bytes there are written or not, by a
free choice. -/
def keepEither (r : Ref) (v : View) (rq : Requester) (ws : List EWrite) : List EWrite :=
  (ws.foldl (fun (acc : List Nat × List EWrite) w =>
    let as := w.bytes.map (·.1)
    let kept := Config.freeAt v.draw (v.serial * 2 ^ 44 + 2 ^ 43 + as.headD 0) % 2 == 0
    (acc.1 ++ as, acc.2 ++ [if kept then { w with bytes := w.bytes.filter fun b => !writtenAt r rq v.now acc.1 b.1 } else w])) ([], [])).2

/-- The writes of a copy of a descriptor stored; `adds` marks read-add-writes of the Hearth engines. -/
def putFor (r : Ref) (adds : Bool) : Put := fun t ws s =>
  if ws.isEmpty then s else storeAs adds r t (rqOf t) (mergeWrites s (rqOf t) ws) s

/-- The writes of a copy of a descriptor stored that are no read-add-writes. -/
def putBy (r : Ref) : Put := putFor r false

/-- R232: the descriptor is a REDUCE_ADD or a SCALE. -/
def addsInPlace (d : Desc) : Bool := d.op == some .heOp && (d.fld 24 0 4 == 3 || d.fld 24 0 4 == 4)

/-- Writes stored for their values alone. -/
def putPlain : Put := fun t ws s =>
  { s with mem := putBytes s.mem ((mergeWrites s (rqOf t) ws).filterMap fun (a, b) => (access s (rqOf t) a).map fun p => (p.key, b)) }

/-- Some of a list, by free choices. -/
def someOf {α : Type} (draw : Nat) (ws : List α) : List α :=
  (ws.zipIdx.filter fun (_, i) => Config.freeAt draw i % 2 == 0).map (·.1)

/-- A list in an order that the spec leaves open, by one draw and a place. -/
def orderBy {α : Type} (draw place : Nat) : Nat → List α → List α
  | 0, xs => xs
  | _ + 1, [] => []
  | _ + 1, [x] => [x]
  | n + 1, y :: ys =>
    let i := Config.freeAt draw (place + n) % (ys.length + 1)
    (y :: ys).getD i y :: orderBy draw place n ((y :: ys).eraseIdx i)

/-- A step of which an unspecified part of the writes is made, each with the contribution that it stands for. -/
def Made.some_ (draw : Nat) (m : Made) : Made :=
  if m.terms.isEmpty then { m with writes := someOf draw m.writes }
  else
    let ps := someOf draw (m.writes.zip m.terms)
    { m with writes := ps.map (·.1), terms := ps.map (·.2) }

/-- R210: what another copy still does when one has trapped. Of the piece that it had begun, each element is written or not; where it
stood between two pieces, it may have begun the next by then, or have met a fault of its own there. -/
def Going.halt (v : View) (place : Nat) (g : Going) : List Made × Going :=
  let done := g.work.parts.length - g.left.length
  let last := if done = 0 then none else g.work.parts[done - 1]?.map (·.piece)
  let next := g.left.head?.map (·.piece)
  let begun := next.isSome && (next == last || Config.freeAt v.draw place % 2 == 0)
  let mine := if begun then g.left.takeWhile fun p => some p.piece == next else []
  let ms := mine.zipIdx.map fun (p, i) => (p.make v).some_ (v.draw + place + 2 ^ 30 * (i + 1))
  (ms, { ms.foldl Going.next g with left := [] })

/-- What the steps of some copies have come to. -/
def allMade (gs : List Going) : List Made := gs.flatMap (·.made)

/-- R182, R210: a copy has trapped, or met an uncorrectable codeword that it writes in part: every other stops. -/
def haltAll (put : Put) (v : View) (i : Nat) (gs : List Going) (s : State) : List Going × State :=
  gs.zipIdx.foldl (fun (acc : List Going × State) (g, j) =>
    if j = i then (acc.1 ++ [{ g with left := [] }], acc.2)
    else
      let (ms, g1) := g.halt { v with now := acc.2, made := allMade acc.1 ++ allMade (gs.drop j) } (2 ^ 60 * (j + 1))
      (acc.1 ++ [g1], ms.foldl (fun s m => put g.work.target m.writes s) acc.2)) ([], s)

/-- The copies that have steps left, by number. -/
def openCopies (gs : List Going) : List Nat := (gs.zipIdx.filter fun (g, _) => !g.left.isEmpty).map (·.2)

/-- One of some copies, by a free choice. -/
def pickCopy (able : List Nat) (s : State) : Nat × State :=
  match able with
  | [i] => (i, s)
  | _ => let (k, s1) := choose able.length s; (able.getD k 0, s1)

/-- Log 33: the steps of the copies one at a time, each copy's in its own order, in an interleaving that the spec leaves open; a step
reads, then writes. Memory as it stood before a write to an operand stays readable. `ended` says that the descriptor has been stopped.
`fuel` bounds the steps. -/
def runSteps (put : Put) (ended : State → Bool) (draw : Nat) (keys : List Nat) :
    Nat → List (Tab Byte) → List Going → State → List Going × State
  | 0, _, gs, s => (gs, s)
  | fuel + 1, past, gs, s =>
    if (openCopies gs).isEmpty then (gs, s) else
      let (i, s1) := pickCopy (openCopies gs) s
      match gs[i]? with
      | none => (gs, s1)
      | some g =>
        match g.left with
        | [] => (gs, s1)
        | p :: _ =>
          let v : View := { now := s1, past := past, draw := draw, serial := fuel, made := allMade gs }
          let m := p.make v
          let s2 := put g.work.target (m.acc ++ m.writes) s1
          let gs1 := gs.set i (g.next m)
          if m.trap || ended s2 then haltAll put { v with now := s2 } i gs1 s2
          else
            let hit := !keys.isEmpty && m.writes.any fun w => w.bytes.any fun b => keys.contains (runStart (rqOf g.work.target) (Int.ofNat b.1))
            runSteps put ended draw keys fuel (if hit then past ++ [s1.mem.bytes] else past) gs1 s2

/-- R194, R210: what a copy writes at its end; where an index fault stopped the copies, some of it. -/
def closeCopy (put : Put) (draw : Nat) (halted : Bool) (acc : List Going × State) (g : Going) : List Going × State :=
  let ws := g.work.close g.size
  let ws := if halted then someOf draw ws else ws
  (acc.1 ++ [{ g with made := g.made ++ [{ writes := ws }] }], put g.work.target ws acc.2)

/-- Log 12, log 33: the works of a descriptor's copies carried out. -/
def carryOutUntil (put : Put) (ended : State → Bool) (past : List (Tab Byte)) (ws : List Work) (s : State) : List Going × State :=
  let (c, s0) := drawFree s
  let keys := ws.flatMap (·.watch)
  let gs := ws.map fun w => ({ work := w, left := w.parts, made := [], size := 0 } : Going)
  let (gs1, s1) := runSteps put ended c keys ((gs.map fun g => g.left.length).sum) past gs s0
  gs1.foldl (closeCopy put (c + 1) (gs1.any Going.trapped || ended s1)) ([], s1)

/-- Works carried out for their values alone, to their ends. -/
def carryOut (past : List (Tab Byte)) (ws : List Work) (s : State) : List Going × State :=
  carryOutUntil putPlain (fun _ => false) past ws s

/-- Works carried out for a descriptor, until an uncorrectable codeword stops it (R182). -/
def carryOutFor (r : Ref) (adds : Bool) (past : List (Tab Byte)) (ws : List Work) (s : State) : List Going × State :=
  carryOutUntil (putFor r adds) (hasOutcome r) past ws s

/-! ### Reports -/

/-- R90, R91: NF_POS of the non-finite value of the lowest tile and position. -/
def lowestNf (xs : List (Nat × Nat)) : Option Word :=
  (xs.foldl (fun (best : Option (Nat × Nat)) x =>
    match best with
    | none => some x
    | some b => if x.1 < b.1 then some x else some b) none).map fun (o, k) => nfAt o k

/-- R90: NF_POS of some writes. -/
def firstNf (ws : List EWrite) : Option Word := lowestNf (ws.filterMap (·.nf))

/-- R39, R212: the report of a copy that has run. -/
def ranReport (detail : Nat) (nf : Option Word) : Report :=
  { status := stOk, detail := BitVec.ofNat 32 (hold 0xFFFFFFFF detail), nf := nf, idx := none }

/-- R210: IDX_POS of a copy that has met index faults. -/
def Going.firstFault (g : Going) : Option Word := (g.made.findSome? (·.fault)).map fun j => BitVec.ofNat 32 (hold 0xFFFFFFFF j)

/-- R90, R210, R212: the report of a copy whose steps are done; `total` is DETAIL, formed over all copies. -/
def Going.report (total : Nat) (g : Going) : Report :=
  { status := if g.trapped then stIndexFault else stOk, detail := BitVec.ofNat 32 (hold 0xFFFFFFFF total),
    nf := lowestNf (g.made.flatMap fun m => m.writes.filterMap (·.nf) ++ m.nfs), idx := g.firstFault }

/-- R141, R212: DETAIL over all copies. -/
def totalOf (gs : List Going) : Nat := (gs.map fun g => (g.made.map (·.count)).sum).sum

/-- R183: SOURCE of a read that a target's descriptor makes. -/
def sourceOf (t : Target) : Nat := match t with | .hearth => 4 | _ => 0

/-- The first uncorrectable codeword that a work's operands hold. -/
def workBad (s : State) (w : Work) : Option (Nat × Place) :=
  w.parts.findSome? fun p => badRead s (rqOf w.target) p.reads

/-- R175, R176, R178: the counters of a core's access engine: where it reads, at least the bytes `rd`; where it writes, at least the bytes
written; how often it fetches a byte again and how long it waits at its limit are open (log 11). -/
def countBytes (draw : Nat) (t : Target) (reads : Bool) (rd : Nat) (ws : List EWrite) (s : State) : State :=
  match t with
  | .core _ _ =>
    let c := coreNumber t
    let wr := (ws.map fun w => w.bytes.length).sum
    let free (on : Bool) (k : Nat) : Nat := if on then Config.freeAt draw (3 * c + k) else 0
    updCore c (fun x => { x with
      aeRd := x.aeRd.add (rd + free reads 0), aeWr := x.aeWr.add (wr + free (!ws.isEmpty) 1),
      aeFull := x.aeFull.add (free (reads || !ws.isEmpty) 2) }) s
  | _ => s

/-- R178: what a copy that goes by steps has read and written. -/
def countAccess (draw : Nat) (g : Going) (s : State) : State :=
  let ps := g.work.parts.take (g.work.parts.length - g.left.length)
  countBytes draw g.work.target (ps.any fun p => p.fetched != 0 || !p.reads.isEmpty) (ps.map (·.fetched)).sum g.writes s

/-- R175: the cores whose access engines some copies have used. -/
def aeHolders (gs : List Going) : List Nat :=
  gs.filterMap fun g =>
    match g.work.target with
    | .core die k =>
      if !g.writes.isEmpty || g.work.parts.any fun p => p.fetched != 0 || !p.reads.isEmpty then some (coreNumber (.core die k)) else none
    | _ => none

/-- R47: DETAIL formed over all copies. -/
def setDetailAll (r : Ref) (n : Nat) (s : State) : State :=
  updDesc r (fun d => { d with detailAll := some (BitVec.ofNat 32 (hold 0xFFFFFFFF n)) }) s

/-- R47, R141, R212: DETAIL over the copies that have run before. -/
def detailSoFar (d : Desc) : Nat := (d.detailAll.getD 0).toNat

/-- R210: a copy has stopped at an index fault, and copies that have not begun do nothing. -/
def endRest (r : Ref) (s : State) : State :=
  updDesc r (fun d => { d with copies := d.copies.map fun c => { c with st := .done } }) s

/-- Some copies of a descriptor have run: their reports, counters and tokens. -/
def finishWorks (d : Desc) (draw : Nat) (gs : List Going) (s : State) : State :=
  let total := detailSoFar d + totalOf gs
  let s1 := useTokens dAeTxn 512 draw (aeHolders gs)
    (gs.foldl (fun s g => g.work.whole (countAccess draw g (finishCopy d.ref g.work.target (g.report total) s))) s)
  let s2 := setDetailAll d.ref total s1
  if gs.any Going.trapped then endRest d.ref s2 else s2

/-- Works carried out for a descriptor: one that reads an uncorrectable codeword ends it; else every copy of them runs and reports. -/
def runWorks (d : Desc) (draw : Nat) (ws : List Work) (s : State) : State :=
  match ws.findSome? fun w => (workBad s w).map fun b => (w.target, b) with
  | some (t, a, pl) => memUncorrectable d.ref t a pl (sourceOf t) (symbolsAt s.mem pl) s
  | none =>
    let (gs, s1) := carryOutFor d.ref (addsInPlace d) (pastOf d false s) ws s
    finishWorks d draw gs s1

/-- The copies of a descriptor, numbered in order. -/
def copiesOf (d : Desc) : List (Target × Nat) := d.copies.zipIdx.map fun (c, i) => (c.target, i)

/-- R40: the copies of a descriptor that have still to end, each with its number. -/
def openCopiesOf (d : Desc) : List (Target × Nat) :=
  (d.copies.zipIdx.filter fun (c, _) => c.st != .done && c.report.isNone).map fun (c, i) => (c.target, i)

/-- R113 and the other check tables: the offset of the first condition that holds. -/
def firstError (cs : List (Nat × Bool)) : Option Nat := (cs.find? (·.2)).map (·.1)

/-- A copy that fails its check completes with DESC_INVALID (R39). -/
def checked {α : Type} (cs : List (Nat × Bool)) (x : α) : Except Report α :=
  match firstError cs with
  | some off => .error (Report.of stDescInvalid off)
  | none => .ok x

/-- What plans the copies of a descriptor: of each, its work or what it reports without one. -/
abbrev Planner := State → Desc → Nat → Target → Nat → Nat → Except Report Work

/-- The works of a descriptor's copies that have still to end, with a draw. -/
def plansOf (pl : Planner) (s : State) (d : Desc) (draw : Nat) : List (Target × Except Report Work) :=
  (openCopiesOf d).map fun (t, i) => (t, pl s d draw t i d.copies.length)

/-- The first report, in the order of the copies, of a copy that has no plan. -/
def firstReport {α : Type} (rs : List (Target × Except Report α)) : Option Report :=
  rs.findSome? fun (_, x) => match x with | .error rep => some rep | .ok _ => none

/-- R47: a descriptor of which some copies fail their checks does nothing: those report, the others end without a report. -/
def failCopies {α : Type} (r : Ref) (rs : List (Target × Except Report α)) (s : State) : State :=
  updDesc r (fun d => { d with copies := d.copies.map fun c =>
    if c.st == .done then c else
      { c with st := .done, report := rs.findSome? fun (t, x) => if t = c.target then (match x with | .error rep => some rep | .ok _ => none) else none } }) s

/-- The works among what a planner makes. -/
def worksOf (rs : List (Target × Except Report Work)) : List Work := rs.filterMap fun (_, x) => x.toOption

/-- A descriptor that fails a check completes with DESC_INVALID and does nothing; else the works of those of its copies are carried out
that run and that a test picks (log 12). -/
def runOpOn (pick : Target → Bool) (pl : Planner) (d : Desc) (s : State) : State :=
  let (c, s0) := drawFree s
  let rs := plansOf pl s0 d c
  if (firstReport rs).isSome then failCopies d.ref rs s0 else runWorks d c ((worksOf rs).filter fun w => pick w.target) s0

/-- R40: the copies of a descriptor that run at stage 0 carry out their works. -/
def runOp (pl : Planner) (d : Desc) (s : State) : State := runOpOn (d.runsOn 0) pl d s

/-- R182, R235: the part of a work that an uncorrectable codeword leaves to be done. A step that reads one makes nothing (log 32). -/
def Work.readable (s : State) (w : Work) : Work :=
  { w with parts := w.parts.filter fun p => (badRead s (rqOf w.target) p.reads).isNone }

/-- The copies of a descriptor that have been stopped. -/
def stoppedOf (d : Desc) : List Target := (d.copies.filter fun c => c.st == .stopped).map (·.target)

/-- R46, R90, R210: what a stopped copy has reported besides: a non-finite value that it wrote, and an index fault that it counted. -/
def noteStopped (r : Ref) (t : Target) (nf idx : Option Word) (s : State) : State :=
  if nf.isNone && idx.isNone then s
  else updDesc r (updCopy t fun c => { c with report := some { Report.ok with nf := nf, idx := idx } }) s

/-- R210: IDX_POS of a stopped copy: a fault before the codeword that it could not read has been counted; whether it had come to one
before it was stopped for another reason is open. -/
def stoppedFault (s : State) (draw : Nat) (w : Work) (g : Going) : Option Word :=
  let met := (w.parts.takeWhile fun p => (badRead s (rqOf w.target) p.reads).isNone).length
  if met < w.parts.length then { g with made := g.made.take met }.firstFault
  else if Config.freeAt draw (coreNumber w.target) % 2 == 0 then g.firstFault else none

/-- R141, R212: what the stopped copies of a descriptor have written: of each element they would have written, the value before or the
final value (log 32). -/
def writeSome (d : Desc) (ws : List Work) (s : State) : State :=
  let ws := ws.filter fun w => (stoppedOf d).contains w.target
  let (c, s0) := drawFree s
  let (gs, s1) := carryOut (pastOf d false s0) (ws.map (Work.readable s0)) s0
  (ws.zip gs).zipIdx.foldl (fun s ((w, g), i) =>
    let made := someOf (c + 2 ^ 40 * i) g.writes
    noteStopped d.ref w.target (firstNf made) (stoppedFault s0 (c + 1) w g)
      (g.work.partly (countAccess c g (putBy d.ref w.target made s))))
      { s0 with freeCtr := s1.freeCtr }

/-- The copies that stopped before their end have made part of their writes. -/
def stopOp (pl : Planner) (d : Desc) (s : State) : State :=
  if d.copies.any fun c => c.st == .stopped then
    let (c, s0) := drawFree s
    let rs := plansOf pl s0 d c
    if (firstReport rs).isSome then s0 else writeSome d (worksOf rs) s0
  else s


end Sys2Proof.Machine
end

