-- ==== Sys2Proof/Machine/Moves.lean ====
section
/-! DEFINITION. The tensor moves (R201 to R212): COPY, RELAYOUT, GATHER and SCATTER. -/

namespace Sys2Proof.Machine

/-- R500: reserved bits of a word that carries a device-local address. -/
def rsv44 (d : Desc) (off : Nat) : Bool := d.fld off 44 20 != 0

/-- R83 to R89: the conversion fields of a body: RND, OVF and LANE at bits of a word, SEED at byte 48 and STEP at byte 56. -/
def cvtOf (d : Desc) (rnd ovf lane : Nat) : Cvt :=
  { rnd := rnd, ovf := ovf, lane := lane, seed := BitVec.ofNat 64 (d.fld 48 0 64), step := BitVec.ofNat 32 (d.fld 56 0 32) }

/-- Columns `c` to `c + n - 1` of a row written unchanged: `from_ c` is the source position of column `c`. A block that does not lie
whole inside the source is formed by R73 (R202); one that does keeps its scale and its codes, of which `code` makes a NaN canonical, except
in a COPY, which copies it as it stands (log 34). -/
def rawRun (v : View) (rq : Requester) (src dst : Td) (outer : List Nat) (from_ : Nat → List Int) (cvt : Cvt) (whole : Bool)
    (code : Nat → Nat) (c n ordinal : Nat) : List EWrite :=
  if isMx dst.fmt then
    (List.range (ceilDiv n 32)).map fun b =>
      let c0 := c + 32 * b
      let ys := (List.range (min 32 (n - 32 * b))).map fun i => from_ (c0 + i)
      if whole && ys.all src.inside then
        let y0 := ys.headD []
        let s := v.see rq src y0
        dst.writeWhole outer c0 (ordinal + 32 * b) (scaleOf s rq src y0) (ys.map fun y => code (rawAt s rq src y))
      else dst.writeBlock outer cvt c0 (ordinal + 32 * b) (ys.map (v.val rq src))
  else (List.range n).map fun i =>
    let y := from_ (c + i)
    let raw := if src.inside y then v.raw rq src y else padRaw src.fmt src.pad
    dst.writeRaw (toInts ((c + i) :: outer)) raw (ordinal + i)

/-- The bytes that the access engine fetches for `n` positions of a row. -/
def Td.fetchBytes (t : Td) (n : Nat) : Nat := ceilDiv (n * t.w) 8 + (if isMx t.fmt then ceilDiv n 32 else 0)

/-- The columns that one step takes: a whole row, or as few as the format allows where a destination overlaps an operand. -/
def stepCols (dst : Td) (watch : List Nat) : Nat := if watch.isEmpty then max 1 dst.cols else if isMx dst.fmt then 32 else 1

/-- The pieces of a row of `cols` columns, each its first column and its length. -/
def colPieces (cols n : Nat) : List (Nat × Nat) := (List.range (ceilDiv cols n)).map fun i => (n * i, min n (cols - n * i))

/-- The steps that write a row of a destination, from the source position of each column; `write` says what a run of columns comes
to. -/
def rowParts (src dst : Td) (watch : List Nat) (piece : Nat) (from_ : Nat → List Int) (write : View → Nat → Nat → Made) : List Part :=
  (colPieces dst.cols (stepCols dst watch)).map fun (c, n) =>
    let ys := ((List.range n).map fun i => from_ (c + i)).filter src.inside
    { piece := piece, reads := ys.flatMap src.readAddrs, fetched := src.fetchBytes ys.length, make := fun v => write v c n }

/-! ### COPY -/

/-- R201: SHIFT[d]. -/
def shiftOf (d : Desc) (k : Nat) : Int := (BitVec.ofNat 16 (d.fld (32 + 2 * k) 0 16)).toInt

/-- R211: the checks of a COPY. -/
def copyChecks (d : Desc) (src dst : Option Td) : List (Nat × Bool) :=
  let sf := (src.map (·.fmt)).getD 0
  let df := (dst.map (·.fmt)).getD 0
  [ (16, rsv44 d 16 || src.isNone),
    (24, rsv44 d 24 || dst.isNone || (dst.map (·.rank)) != (src.map (·.rank)) || (sf == 8) != (df == 8)),
    (32, ((List.range 6).drop ((src.map (·.rank)).getD 0)).any fun k => d.fld (32 + 2 * k) 0 16 != 0),
    (44, d.fld 44 6 26 != 0 || d.fld 44 0 2 == 3 || d.fld 44 2 2 == 3 || (d.fld 44 0 2 == 2 && df == 8)) ]

/-- R202: the plan of a copy of a COPY. A source element is converted at its exact value, with no flush (log 80). -/
def copyPlan : Planner := fun s d _ t i n =>
  let rq := rqOf t
  let s0 := asStarted d t s
  let src? := readTd s0 rq false (d.fld 16 0 44)
  let dst? := readTd s0 rq true (d.fld 24 0 44)
  match checked (copyChecks d src? dst?) (src?, dst?) with
  | .error e => .error e
  | .ok (some src, some dst) =>
    let cvt := cvtOf d (d.fld 44 0 2) (d.fld 44 2 2) (d.fld 44 4 2)
    let watch := watched rq [src] [dst]
    let rows := itemsOf dst.rows n i
    let from_ (r c : Nat) : List Int := (dst.pos r c).zipIdx.map fun (x, k) => Int.ofNat x - shiftOf d k
    .ok { target := t, watch := watch,
          parts := rows.zipIdx.flatMap fun (r, j) => rowParts src dst watch r (from_ r) fun v c k =>
            let outer := unravel dst.outer r
            { writes :=
                if src.fmt == dst.fmt then rawRun v rq src dst outer (from_ r) cvt (shiftOf d 0 % 32 == 0) id c k (j * dst.cols + c)
                else dst.writeRun outer cvt c (j * dst.cols + c) ((List.range k).map fun m => v.val rq src (from_ r (c + m))) },
          close := fun _ => dst.closing i (rows.length * dst.cols) }
  | .ok _ => .error (Report.of stDescInvalid 16)

/-- R202: COPY runs on its cores. -/
def execCopy (d : Ref) (s : State) : Answer := .next (atStage d .copy 0 (runOp copyPlan) s)

/-! ### RELAYOUT -/

/-- R203: PERM[d]. -/
def permOf (d : Desc) (k : Nat) : Nat := d.fld 32 (3 * k) 3

/-- R211: the checks of a RELAYOUT. -/
def relayoutChecks (d : Desc) (src dst : Option Td) : List (Nat × Bool) :=
  let n := (src.map (·.rank)).getD 0
  let perm := (List.range n).map (permOf d)
  let isPerm := (List.range n).all (fun k => perm.contains k) && ((List.range 6).drop n).all fun k => permOf d k == k
  let se := (src.map (·.ext)).getD []
  let de := (dst.map (·.ext)).getD []
  [ (16, rsv44 d 16 || src.isNone),
    (24, rsv44 d 24 || dst.isNone || (dst.map (·.rank)) != (src.map (·.rank)) || (src.map (·.fmt)) != (dst.map (·.fmt))),
    (32, d.fld 32 18 14 != 0 || !isPerm || de != perm.map (fun k => se.getD k 0)
      || (isMx ((src.map (·.fmt)).getD 0) && permOf d 0 != 0)),
    (48, anySet d.bytes 36 28) ]

/-- R203: the rows of a copy: single rows with PERM[0] = 0, else groups of 64 rows. -/
def relayoutRows (d : Desc) (rows n i : Nat) : List Nat :=
  if permOf d 0 = 0 then itemsOf rows n i
  else (itemsOf (ceilDiv rows 64) n i).flatMap fun g => (List.range (min 64 (rows - 64 * g))).map (64 * g + ·)

/-- R203: the plan of a copy of a RELAYOUT. -/
def relayoutPlan : Planner := fun s d _ t i n =>
  let rq := rqOf t
  let s0 := asStarted d t s
  let src? := readTd s0 rq false (d.fld 16 0 44)
  let dst? := readTd s0 rq true (d.fld 24 0 44)
  match checked (relayoutChecks d src? dst?) (src?, dst?) with
  | .error e => .error e
  | .ok (some src, some dst) =>
    let watch := watched rq [src] [dst]
    let rows := relayoutRows d dst.rows n i
    let from_ (r c : Nat) : List Int :=
      let x := dst.pos r c
      (List.range src.rank).map fun m => Int.ofNat (((List.range src.rank).find? fun k => permOf d k == m).elim 0 fun k => x.getD k 0)
    .ok { target := t, watch := watch,
          parts := rows.zipIdx.flatMap fun (r, j) => rowParts src dst watch r (from_ r) fun v c k =>
            { writes := rawRun v rq src dst (unravel dst.outer r) (from_ r) Cvt.plain true (canonical dst.fmt) c k (j * dst.cols + c) },
          close := fun _ => dst.closing i (rows.length * dst.cols) }
  | .ok _ => .error (Report.of stDescInvalid 16)

/-- R203: RELAYOUT runs on its cores. -/
def execRelayout (d : Ref) (s : State) : Answer := .next (atStage d .relayout 0 (runOp relayoutPlan) s)

/-! ### Indices -/

/-- R208: an index value resolved: the coordinate, or none for an index fault. -/
def resolveIndex (imode e : Nat) (v : Int) : Option Nat :=
  let w := if imode = 2 ∧ v < 0 then v + e else v
  if 0 ≤ w ∧ w < e then some w.toNat else none

/-- R205: the index value at a position of IDX, in linear-index order. -/
def indexAt (s : State) (rq : Requester) (idx : Td) (j : Nat) : Int :=
  (BitVec.ofNat 32 (rawAt s rq idx (toInts (unravel idx.ext j)))).toInt

/-- A list with an element put at a place. -/
def putAt (xs : List Nat) (k v : Nat) : List Nat := xs.take k ++ v :: xs.drop k

/-- R205: the outer positions of the slab at a coordinate of an axis, row-major. -/
def slabRows (t : Td) (axis j : Nat) : List (List Nat) :=
  let others := t.outer.eraseIdx (axis - 1)
  (List.range (volume others)).map fun n => putAt (unravel others n) (axis - 1) j

/-- R205: the elements of a slab. -/
def slabSize (t : Td) (axis : Nat) : Nat := t.cols * volume (t.outer.eraseIdx (axis - 1))

/-- R205, R206: IDX, AXIS and IMODE of a body. -/
def axisOf (d : Desc) : Nat := d.fld 40 0 3
def imodeOf (d : Desc) : Nat := d.fld 40 3 2

/-- R208: the coordinate that a position of IDX resolves to: read once, in the step that comes to it first. -/
def takenAt (v : View) (rq : Requester) (d : Desc) (idx : Td) (e j : Nat) : Option Nat :=
  match v.made.findSome? fun m => (m.taken.find? fun p => p.1 == j).map (·.2) with
  | some x => x
  | none => resolveIndex (imodeOf d) e (indexAt (v.see rq idx (toInts (unravel idx.ext j))) rq idx j)

/-- R208, R210: an index fault: it is counted, and stops the copy in TRAP mode. -/
def faultAt (d : Desc) (j : Nat) : Made := { count := 1, fault := some j, trap := imodeOf d == 1 }

/-- The addresses of a position of IDX. -/
def idxReads (idx : Td) (j : Nat) : List Nat := idx.elemAddrs (toInts (unravel idx.ext j))

/-- R207: the positions of IDX of a copy with their coordinates as they stand at its start. -/
def takenOf (s : State) (rq : Requester) (d : Desc) (idx : Td) (e n i : Nat) : List (Nat × Option Nat) :=
  (itemsOf (volume idx.ext) n i).map fun j => (j, resolveIndex (imodeOf d) e (indexAt s rq idx j))

/-- R207: the runs of consecutive positions of a copy that hold the same coordinate: the source slab is read once for a run. -/
def coalesced : List (Nat × Option Nat) → List (List (Nat × Option Nat))
  | [] => []
  | x :: xs =>
    match coalesced xs with
    | (y :: ys) :: rest => if x.2.isSome && x.2 == y.2 then (x :: y :: ys) :: rest else [x] :: (y :: ys) :: rest
    | _ => [[x]]

/-- R175, R210: in TRAP mode a copy reads the slabs of the positions before its first index fault, and no index value beyond it. -/
def readable (d : Desc) (ts : List (Nat × Option Nat)) (j : Nat) : Bool :=
  imodeOf d != 1 || (ts.takeWhile fun x => x.2.isSome).any fun x => x.1 == j
def examined (d : Desc) (ts : List (Nat × Option Nat)) (j : Nat) : Bool :=
  imodeOf d != 1 || (ts.take ((ts.takeWhile fun x => x.2.isSome).length + 1)).any fun x => x.1 == j

/-! ### GATHER -/

/-- The extents of a tensor without those of an axis. -/
def extsBut (t : Td) (axis : Nat) : List Nat := t.ext.eraseIdx axis

/-- R211: the checks of a GATHER. With an AXIS that names no dimension, OUT's extents are not judged, and DETAIL is 40 (log 94). -/
def gatherChecks (d : Desc) (src idx out : Option Td) : List (Nat × Bool) :=
  let ax := axisOf d
  let shapeBad := match src, idx, out with
    | some a, some i, some o => o.fmt != a.fmt || o.rank != a.rank
        || (decide (1 ≤ ax ∧ ax < a.rank) && (o.extAt ax != volume i.ext || extsBut o ax != extsBut a ax))
    | _, _, _ => false
  let rank : Nat := (src.map (·.rank)).getD 0
  [ (16, rsv44 d 16 || src.isNone), (16, decide (rank < 2)),
    (24, rsv44 d 24 || idx.isNone || (idx.map (·.fmt)) != some 8),
    (32, rsv44 d 32 || out.isNone || shapeBad),
    (40, d.fld 40 5 27 != 0 || ax == 0 || decide (rank ≤ ax) || imodeOf d == 3),
    (48, anySet d.bytes 48 16) ]

/-- R205, R208: what columns `c` to `c + n - 1` of row `k` of the OUT slab of a position come to: from SRC, or FILL at an index fault,
which the first run of the slab counts. -/
def gatherRun (w : View) (rq : Requester) (d : Desc) (src idx out : Td) (first : Bool) (k c n : Nat) (x : Nat × Nat) : Made :=
  let ax := axisOf d
  let fill := decodeF fp32 (d.fld 44 0 32)
  let outer := (slabRows out ax x.1).getD k []
  let o := x.2 + k * out.cols + c
  let got := takenAt w rq d idx (src.extAt ax) x.1
  match got with
  | some v => { writes := rawRun w rq src out outer (fun c => toInts (c :: outer.set (ax - 1) v)) Cvt.plain true (canonical out.fmt) c n o,
                taken := [(x.1, got)] }
  | none =>
    let f := if first then faultAt d x.1 else { trap := imodeOf d == 1 }
    { f with writes := if f.trap then [] else out.writeRun outer Cvt.plain c o (List.replicate n fill), taken := [(x.1, got)] }

/-- Two parts of one step, the second made unless the first stops the copy. -/
def Made.after (m : Made) (f : Made → Made) : Made :=
  if m.trap then m else
    let n := f m
    { n with writes := m.writes ++ n.writes, taken := m.taken ++ n.taken, count := m.count + n.count,
             fault := m.fault.orElse fun _ => n.fault }

/-- R205, R207, R208: the steps that write the OUT slabs of a run of positions, each with the ordinal of its slab: the source is read
once for all of them. -/
def gatherRuns (rq : Requester) (d : Desc) (src idx out : Td) (watch : List Nat) (looks reads : Bool) (xs : List (Nat × Option Nat × Nat)) :
    List Part :=
  let ax := axisOf d
  let j0 := (xs.headD (0, none, 0)).1
  let from_ := ((xs.headD (0, none, 0)).2.1).filter fun _ => reads
  let rows := (List.range (slabRows out ax j0).length).flatMap fun k => (colPieces out.cols (stepCols out watch)).map fun (c, n) => (k, c, n)
  rows.zipIdx.map fun ((k, c, n), m) =>
    let ys := match from_ with
      | some v => (List.range n).map fun i => toInts ((c + i) :: ((slabRows out ax j0).getD k []).set (ax - 1) v)
      | none => []
    { piece := j0, reads := (if m = 0 && looks then xs.flatMap fun x => idxReads idx x.1 else []) ++ ys.flatMap src.readAddrs,
      fetched := (if m = 0 then 4 * xs.length else 0) + src.fetchBytes ys.length,
      make := fun w => xs.foldl (fun acc x => acc.after fun _ => gatherRun w rq d src idx out (m == 0) k c n (x.1, x.2.2)) {} }

/-- R205 to R210: the plan of a copy of a GATHER. -/
def gatherPlan : Planner := fun s d _ t i n =>
  let rq := rqOf t
  let s0 := asStarted d t s
  let src? := readTd s0 rq false (d.fld 16 0 44)
  let idx? := readTd s0 rq false (d.fld 24 0 44)
  let out? := readTd s0 rq true (d.fld 32 0 44)
  match checked (gatherChecks d src? idx? out?) (src?, idx?, out?) with
  | .error e => .error e
  | .ok (some src, some idx, some out) =>
    let ax := axisOf d
    let watch := watched rq [src, idx] [out]
    let ts := takenOf s rq d idx (src.extAt ax) n i
    let size := slabSize out ax
    let first := (ts.headD (0, none)).1
    .ok { target := t, watch := watch,
          parts := (coalesced ts).flatMap fun xs =>
            gatherRuns rq d src idx out watch (xs.all fun x => examined d ts x.1) (xs.all fun x => readable d ts x.1) (xs.map fun x => (x.1, x.2, (x.1 - first) * size)),
          close := fun _ => out.closing i (ts.length * size) }
  | .ok _ => .error (Report.of stDescInvalid 16)

/-- R212: DETAIL of an indexed move that has run is the number of faults, which every copy's report carries. -/
def execGather (d : Ref) (s : State) : Answer := .next (atStage d .gather 0 (runOp gatherPlan) s)

/-! ### SCATTER -/

/-- R206: OP = ADD. -/
def isScatterAdd (d : Desc) : Bool := d.fld 40 5 1 == 1

/-- R206, R211: SRC's rank and extents are not as they must be, as far as IDX and DST can be read: without IDX its extent along AXIS is
not judged, and without DST nothing is. With an AXIS that names no dimension, no extent is, and DETAIL is 40 (log 94). -/
def scatterSrcBad (d : Desc) (src idx dst : Option Td) : Bool :=
  let ax := axisOf d
  match src, dst with
  | some a, some o => a.rank != o.rank || (decide (1 ≤ ax ∧ ax < o.rank) &&
      (extsBut a ax != extsBut o ax || (match idx with | some i => a.extAt ax != volume i.ext | none => false)))
  | _, _ => false

/-- R211: the checks of a SCATTER. -/
def scatterChecks (d : Desc) (src idx dst : Option Td) : List (Nat × Bool) :=
  let ax := axisOf d
  let rank : Nat := (dst.map (·.rank)).getD 0
  let fmts := match src, dst with
    | some a, some o => if isScatterAdd d then decide (2 < a.fmt) || decide (2 < o.fmt) else a.fmt != o.fmt
    | _, _ => false
  [ (16, rsv44 d 16 || src.isNone), (16, scatterSrcBad d src idx dst),
    (24, rsv44 d 24 || idx.isNone || (idx.map (·.fmt)) != some 8),
    (32, rsv44 d 32 || dst.isNone || decide (rank < 2) || fmts),
    (40, d.fld 40 10 22 != 0 || ax == 0 || decide (rank ≤ ax) || imodeOf d == 3
      || (isScatterAdd d && (decide (2 ≤ d.fld 40 6 2) || d.fld 40 8 2 == 3))),
    (48, anySet d.bytes 44 20) ]

/-- R206: the operands of a SCATTER where its checks pass. -/
def scatterTds (s : State) (d : Desc) (t : Target) : Except Report (Td × Td × Td) :=
  let rq := rqOf t
  let s0 := asStarted d t s
  let src? := readTd s0 rq false (d.fld 16 0 44)
  let idx? := readTd s0 rq false (d.fld 24 0 44)
  let dst? := readTd s0 rq true (d.fld 32 0 44)
  match checked (scatterChecks d src? idx? dst?) (src?, idx?, dst?) with
  | .error e => .error e
  | .ok (some src, some idx, some dst) => .ok (src, idx, dst)
  | .ok _ => .error (Report.of stDescInvalid 16)

/-- R68, R206: an element that SCATTER ADD reads. -/
def addVal (s : State) (rq : Requester) (t : Td) (x : List Int) : FVal :=
  let v := valAt s rq t x
  if t.fmt = 0 then flush32 v else v

/-- R206: an element with some contributions added to a code that stood there, one at a time. -/
def addTerms (d : Desc) (fmt base : Nat) (vs : List FVal) : Nat × Option Nat :=
  let cvt := { Cvt.plain with rnd := d.fld 40 6 2, ovf := d.fld 40 8 2 }
  let ofCode (raw : Nat) : FVal := if fmt = 0 then flush32 (decodeF (fmtOf fmt) raw) else decodeF (fmtOf fmt) raw
  vs.foldl (fun (raw, _) v => convert fmt (cvt.rndAt 0) cvt.ovf (round32 (fadd (ofCode raw) v))) (base, none)

/-- R206, R68: one contribution: the read of a DST element, the addition in FP32 and the write. The contributions that the descriptor has
made to the element are added in an order that the spec leaves open. -/
def addOne (d : Desc) (v : View) (rq : Requester) (src dst : Td) (y : List Int) (x : List Nat) (ordinal : Nat) : EWrite × Term :=
  let place := ((access v.now rq (dst.addr (toInts x)).toNat).map Place.key).getD 0
  let before := v.made.flatMap fun m => m.terms.filter fun e => e.place == place
  let base := match before.head? with | some e => e.base | none => rawAt (settled v.now) rq dst (toInts x)
  let mine := addVal (v.see rq src y) rq src y
  let vs := orderBy v.draw (v.serial * 2 ^ 44 + 2 ^ 43 + place) (before.length + 1) (before.map (·.value) ++ [mine])
  let (raw, k) := addTerms d dst.fmt base vs
  ({ bytes := dst.elemBytes (toInts x) raw, nf := k.map fun k => (ordinal, k) }, { place := place, base := base, value := mine })

/-- R206, R209: what columns `c` to `c + n - 1` of a row of a slab come to in the DST slab at `j`. -/
def scatterRun (d : Desc) (v : View) (rq : Requester) (src dst : Td) (o : List Nat) (j c n : Nat) : Made :=
  let outer := o.set (axisOf d - 1) j
  if isScatterAdd d then
    let es := (List.range n).map fun i => addOne d v rq src dst (toInts ((c + i) :: o)) ((c + i) :: outer) i
    { writes := es.map (·.1), terms := es.map (·.2), size := n }
  else
    { writes := keepEither d.ref v rq (rawRun v rq src dst outer (fun c => toInts (c :: o)) Cvt.plain true (canonical dst.fmt) c n 0),
      size := n }

/-- R206 to R208: the steps of one slab of SRC, of which the first meets an index fault of its position. R212: only elements that are
written are numbered. -/
def scatterSlab (rq : Requester) (d : Desc) (src idx dst : Td) (cols : Nat) (looks reads : Bool) (x : Nat × Option Nat) : List Part :=
  let ax := axisOf d
  let rows := (slabRows src ax x.1).flatMap fun o => (colPieces src.cols cols).map fun (c, n) => (o, c, n)
  rows.zipIdx.map fun ((o, c, n), m) =>
    let x2 := x.2.filter fun _ => reads
    let ys := if x2.isNone then [] else (List.range n).map fun i => toInts ((c + i) :: o)
    let zs := match x2 with
      | some v => if isScatterAdd d then (List.range n).map fun i => toInts ((c + i) :: o.set (ax - 1) v) else []
      | none => []
    { piece := x.1, reads := (if m = 0 && looks then idxReads idx x.1 else []) ++ ys.flatMap src.readAddrs ++ zs.flatMap dst.readAddrs,
      fetched := (if m = 0 then 4 else 0) + src.fetchBytes ys.length + dst.fetchBytes zs.length,
      make := fun w =>
        let got := takenAt w rq d idx (dst.extAt ax) x.1
        match got with
        | some v => { scatterRun d w rq src dst o v c n with taken := [(x.1, got)] }
        | none => { (if m = 0 then faultAt d x.1 else { trap := imodeOf d == 1 }) with taken := [(x.1, got)] } }

/-- R206 to R210: the plan of a copy of a SCATTER: its positions in ascending order. -/
def scatterPlan : Planner := fun s d _ t i n =>
  match scatterTds s d t with
  | .error e => .error e
  | .ok (src, idx, dst) =>
    let rq := rqOf t
    let ax := axisOf d
    let ts := takenOf s rq d idx (dst.extAt ax) n i
    let watch := watched rq [src, idx] [dst]
    .ok { target := t, watch := watch,
          parts := ts.flatMap fun x => scatterSlab rq d src idx dst (stepCols dst watch) (examined d ts x.1) (readable d ts x.1) x,
          close := dst.closing i }

/-- R206, R209: SCATTER with OP = STORE runs on its cores. -/
def runScatterStore (d : Desc) (s : State) : State := runOp scatterPlan d s

/-- R206: SCATTER with OP = STORE. -/
def execScatterStore (d : Ref) (s : State) : Answer :=
  .next (atStage d .scatter 0 (fun x s => if isScatterAdd x then s else runScatterStore x s) s)

/-- R206, R210: SCATTER with OP = ADD runs on its cores: each contribution is read, added and written in one step. -/
def runScatterAdd (d : Desc) (s : State) : State := runOp scatterPlan d s

/-- R206: SCATTER with OP = ADD. -/
def execScatterAdd (d : Ref) (s : State) : Answer :=
  .next (atStage d .scatter 0 (fun x s => if isScatterAdd x then runScatterAdd x s else s) s)

/-- R212: the part of its contributions that a stopped SCATTER with OP = ADD has made. -/
def stopScatterAdd (d : Desc) (s : State) : State :=
  if d.copies.any fun c => c.st == .stopped then
    let (c, s0) := drawFree s
    let (c2, s1) := drawFree s0
    let some_ (w : Work) (i : Nat) : Work :=
      { w with parts := (w.readable s1).parts.zipIdx.map fun (p, k) =>
          { p with make := fun v => (p.make v).some_ (c2 + 2 ^ 40 * i + 2 ^ 20 * k) },
               close := fun o => someOf (c2 + 2 ^ 60 + i) (w.close o) }
    let rs := plansOf scatterPlan s1 d c
    if (firstReport rs).isSome then s1 else
      let ws := (worksOf rs).filter fun w => (stoppedOf d).contains w.target
      let (gs, s2) := carryOutFor d.ref false (pastOf d false s1) (ws.zipIdx.map fun (w, i) => some_ w i) s1
      (ws.zip gs).foldl (fun s (w, g) =>
        noteStopped d.ref w.target (firstNf g.writes) (stoppedFault s1 (c + 1) w g) (countAccess c g s)) s2
  else s

end Sys2Proof.Machine
end

