-- ==== Sys2Proof/Machine/Seeds.lean ====
section
/-! DEFINITION. The seed operations of the vector engine (R126), RMAXSUMEXP (R127) and sums in an open order: each result is any
value that the stated bound allows, found from a fixed-point value far more exact than the bound. -/

namespace Sys2Proof.Machine

/-- ln 2 and log2 e with 128 fraction bits. -/
def ln2Fix : Nat := 235865763225513294137944142764154484399
def log2eFix : Nat := 490923683258796565746369346286093237521

/-- A finite value with 128 fraction bits, rounded down in magnitude. -/
def toFix (x : FVal) : Int :=
  match x with
  | .fin neg m e =>
    let n : Nat := if 0 ≤ e + 128 then m <<< (e + 128).toNat else m >>> (-(e + 128)).toNat
    if neg then -(n : Int) else n
  | _ => 0

/-- The power series of e^t from its `i`-th term on, with 128 fraction bits. -/
def expSeries : Nat → Nat → Nat → Nat → Nat
  | 0, _, _, _ => 0
  | n + 1, i, t, term => term + expSeries n (i + 1) t (((term * t) >>> 128) / i)

/-- 2^y for y with 128 fraction bits: a mantissa with 128 fraction bits and an exponent. -/
def exp2Fix (y : Int) : Nat × Int := (expSeries 40 1 (((y % 2 ^ 128).toNat * ln2Fix) >>> 128) (2 ^ 128), y / 2 ^ 128)

/-- A value held between −300 and 300, beyond which 2^A leaves FP32 either way. -/
def clampExp (x : FVal) : FVal :=
  if flt x (.fin true 300 0) then .fin true 300 0 else if flt (.fin false 300 0) x then .fin false 300 0 else x

/-- e^x with 128 fraction bits, for x with 128 fraction bits. -/
def expFix (x : Int) : Int :=
  let (m, k) := exp2Fix (x * log2eFix / 2 ^ 128)
  if 0 ≤ k then ((m <<< k.toNat : Nat) : Int) else ((m >>> (-k).toNat : Nat) : Int)

/-- The next binary digits of a logarithm of a mantissa between 1 and 2. -/
def log2Digits : Nat → Nat → Nat → Nat
  | 0, _, acc => acc
  | n + 1, x, acc =>
    let y := (x * x) >>> 128
    if 2 ^ 129 ≤ y then log2Digits n (y / 2) (2 * acc + 1) else log2Digits n y (2 * acc)

/-- log2 of m × 2^e for m not 0. -/
def log2Val (m : Nat) (e : Int) : FVal :=
  let l := Nat.log2 m
  ofInt ((e + l) * 2 ^ 64 + log2Digits 64 (m <<< 128 >>> l) 0) (-64) false

/-- tanh of a finite value. -/
def tanhVal (x : FVal) : FVal :=
  let e := expFix (2 * toFix (clampExp x.abs))
  let r := ofInt (2 ^ 256 - 2 * 2 ^ 384 / (e + 2 ^ 128)) (-256) false
  if x.isZero then x else if x.isNeg then r.negate else r

/-- 1 / (1 + e^−x) of a finite value. -/
def sigmVal (x : FVal) : FVal := ofInt (2 ^ 384 / (expFix (-toFix (clampExp x)) + 2 ^ 128)) (-256) false

/-- A value that the spec bounds and does not fix: any FP32 value that a test allows, else the value given (log 36). -/
def bounded (draw place : Nat) (allowed : FVal → Bool) (r : FVal) : FVal :=
  let c := flush32 (decodeF fp32 (Config.freeAt draw place % 2 ^ 32))
  if c.isFinite && allowed c then c else r

/-- |r − v| ≤ n × 2^-b × |v|. -/
def relWithin (v : FVal) (n : Nat) (b : Int) (r : FVal) : Bool := fle ((fsub r v).abs) (fmul v.abs (.fin false n (-b)))

/-- |r − v| ≤ 2^-b. -/
def absWithin (v : FVal) (b : Int) (r : FVal) : Bool := fle ((fsub r v).abs) (.fin false 1 (-b))

/-- R126: a finite normal result within a relative bound of a value; other results are the rounded value. -/
def seedRel (draw place : Nat) (b : Int) (v : FVal) : FVal :=
  let r := round32 v
  if r.isFinite && !r.isZero then bounded draw place (fun c => !c.isZero && relWithin v 1 b c) r else r

/-- R126: a result within an absolute bound of a value and within an interval. -/
def seedAbs (draw place : Nat) (b : Int) (lo hi v : FVal) : FVal :=
  bounded draw place (fun c => absWithin v b c && fle lo c && fle c hi) (round32 v)

def fone : FVal := .fin false 1 0

/-- R126: the seed operations by their value, on operands in FP32. -/
def seedOp (op draw place : Nat) (a b : FVal) : FVal :=
  if a.isNan || (op == 33 && b.isNan) then .nan else
  match op with
  | 32 => seedRel draw place 22 (fdiv fone a)
  | 33 => seedRel draw place 21 (fdiv a b)
  | 34 =>
    if a.isZero then .inf a.isNeg
    else if a.isNeg then .nan
    else match a with
      | .inf _ => fzero
      | x => seedRel draw place 22 (fdiv fone (fsqrt x))
  | 35 => seedRel draw place 22 (fsqrt a)
  | 36 =>
    match a with
    | .inf n => if n then fzero else .inf false
    | x =>
      let (m, k) := exp2Fix (toFix (clampExp x))
      seedRel draw place 22 (.fin false m (k - 128))
  | 37 =>
    match a with
    | .inf n => if n then .nan else .inf false
    | .fin n m e =>
      if m = 0 then .inf true else if n then .nan
      else
        let v := log2Val m e
        if flt v.abs fone then bounded draw place (absWithin v 22) (round32 v) else seedRel draw place 22 v
    | y => y
  | 38 =>
    match a with
    | .inf n => .fin n 1 0
    | x => seedAbs draw place 21 fone.negate fone (tanhVal x)
  | _ =>
    match a with
    | .inf n => if n then fzero else fone
    | x => seedAbs draw place 22 fzero fone (sigmVal x)

/-- R82, R127: values combined two at a time by a rounded operation, each time two that the spec leaves open. -/
def combine (f : FVal → FVal → FVal) (draw place : Nat) : Nat → List FVal → FVal
  | _, [] => fzero
  | _, [x] => x
  | 0, x :: _ => x
  | n + 1, x :: y :: rest =>
    let xs := x :: y :: rest
    let i := Config.freeAt draw (place + 2 * n) % xs.length
    let a := xs.getD i x
    let ys := xs.eraseIdx i
    let j := Config.freeAt draw (place + 2 * n + 1) % ys.length
    combine f draw place n (f a (ys.getD j y) :: ys.eraseIdx j)

/-- R82: an FP32 sum with RNE in an order that the spec leaves open, from +0. -/
def freeSum (draw place : Nat) (xs : List FVal) : FVal :=
  combine (fun a b => round32 (fadd a b)) draw place xs.length (fzero :: xs)

/-- R127: a sum of squares: a finite one is any value that the bound allows. -/
def sumSq (draw place : Nat) (xs : List FVal) : FVal :=
  let r := freeSum draw place (xs.map fun v => round32 (fmul v v))
  let s := xs.foldl (fun s v => fadd s (fmul v v)) fzero
  let limit := fadd (fmul s (.fin false (xs.length + 1) (-24))) (.fin false xs.length (-126))
  if r.isFinite then bounded (draw + 1) place (fun c => fle (fsub c s).abs limit) r else r

/-- R125: the larger of two values: NaN if either is NaN, +0 for a pair of zeros that differ. -/
def fmax (a b : FVal) : FVal :=
  match fcmp a b with
  | none => .nan
  | some c => if c = 0 then (if a.isNeg then b else a) else if c < 0 then b else a

/-- R125: the smaller of two values: NaN if either is NaN, −0 for a pair of zeros that differ. -/
def fmin (a b : FVal) : FVal :=
  match fcmp a b with
  | none => .nan
  | some c => if c = 0 then (if a.isNeg then a else b) else if c < 0 then a else b

/-- R127: m and the sum of e^(A − m) over some values. -/
def maxSumExp (draw place : Nat) (xs : List FVal) : FVal × FVal :=
  let m := xs.foldl fmax (.inf true)
  match m with
  | .nan => (.nan, .nan)
  | .inf n => (m, if n then fzero else .nan)
  | y =>
    let s := (xs.map fun x => match fsub x y with | .inf _ => 0 | d => expFix (toFix (clampExp d))).sum
    let v := ofInt s (-128) false
    (m, bounded draw place (relWithin v (xs.length + 1) 21) (round32 v))

/-- R125: the integral values of FLOOR and RINT. -/
def integral (nearest : Bool) (a : FVal) : FVal :=
  match a with
  | .fin neg m e =>
    if 0 ≤ e then a
    else
      let sh := (-e).toNat
      let lo := m >>> sh
      let r := m % 2 ^ sh
      let up := if nearest then Rnd.rne.up lo r sh else neg && r != 0
      .fin neg (lo + bit up) 0
  | y => y

end Sys2Proof.Machine
end

