-- ==== Sys2Proof/Machine/Hearth.lean ====
section
/-! DEFINITION. The Hearth engines (R214 to R238): runs and residence, HE_OP, norm records, OPT_STEP and its guard gate. -/

namespace Sys2Proof.Machine

/-! ### Runs -/

/-- R215: a run: base, format, elements, and whether it is read and written. -/
structure Run where
  base : Nat
  fmt : Nat
  count : Nat
  rd : Bool
  wr : Bool
deriving DecidableEq, Repr

def Run.width (r : Run) : Nat := fmtBits r.fmt / 8
def Run.len (r : Run) : Nat := r.count * r.width
def Run.addr (r : Run) (i : Nat) : Nat := r.base + i * r.width
def Run.elemAddrs (r : Run) (i : Nat) : List Nat := (List.range r.width).map (r.addr i + ·)

/-- R233, R234: a run that is misplaced: a lead run lies in the tensor memory of one die, another also on a shelf. -/
def runBad (s : State) (lead : Bool) (r : Run) : Bool :=
  r.base % 64 != 0 || !inReach s .iod r.base r.len ||
    (match access s .iod r.base with
     | some (.stack _ _) => false
     | some (.shelf _ _) => lead
     | _ => true)

/-- Two runs share a byte. -/
def Run.meets (a b : Run) : Bool := decide (a.base < b.base + b.len ∧ b.base < a.base + a.len)

/-- R233, R234: two used runs of a descriptor overlap, apart from a segment's two runs of equal base and width where those may. -/
def runsOverlap (sameOk : Bool) (segs : List (List Run)) : Bool :=
  let all := segs.zipIdx.flatMap fun (rs, k) => rs.map fun r => (k, r)
  (all.zipIdx.any fun ((k, a), i) => (all.take i).any fun (m, b) =>
    a.meets b && !(sameOk && k == m && a.base == b.base && a.width == b.width))

/-- R215: the stack of an address; 12 for a byte on a shelf. -/
def stackAt (s : State) (a : Nat) : Nat := match access s .iod a with | some (.stack st _) => st | _ => 12

/-- R223, R68: the value of an element of a run. -/
def runVal (s : State) (r : Run) (i : Nat) : FVal :=
  let v := decodeF (fmtOf r.fmt) (leNat (readBytes s .iod (r.addr i) r.width))
  if r.fmt = 0 then flush32 v else v

/-- The value of an element of a run as a step reads it. -/
def View.elem (v : View) (r : Run) (i : Nat) : FVal := runVal (v.at_ .iod (r.elemAddrs i)) r i

/-- R232: how a read-add-write reads: after every other that was made or waits, and either value of what others overwrote. -/
def View.rmw (v : View) (past : List (Tab Byte)) : View := { v with now := settled v.now, past := past }

/-- R68, R85: a Hearth result converted to a format: an FP32 subnormal is a zero of its sign. -/
def heConvert (fmt : Nat) (rnd : Rnd) (ovf : Nat) (x : FVal) : Nat × Option Nat :=
  let (raw, k) := convert fmt rnd ovf x
  if fmt = 0 ∧ raw % 2 ^ 31 < 0x800000 then (raw / 2 ^ 31 * 2 ^ 31, k) else (raw, k)

/-- R232, R236: an element of a run written whole. -/
def Run.write (r : Run) (i raw ordinal : Nat) (kind : Option Nat) : EWrite :=
  { bytes := (List.range r.width).map fun b => (r.addr i + b, raw / 256 ^ b % 256, 0xFF), nf := kind.map fun k => (ordinal, k) }

/-- R238: what the runs of the segments give each engine: elements, bytes read, written, and far, by the lead run's stack. -/
def heStats (s : State) (segs : List (List Run)) : List (Nat × Nat × Nat × Nat × Nat) :=
  (List.range 12).map fun e =>
    let items := segs.flatMap fun rs =>
      match rs.head? with
      | none => []
      | some lead => ((List.range lead.count).filter fun i => stackAt s (lead.addr i) == e).map fun i => (rs, i)
    let sum (f : Run → Nat → Nat) : Nat := (items.map fun (rs, i) => (rs.map fun r => f r i).sum).sum
    (e, items.length, sum (fun r _ => if r.rd then r.width else 0), sum (fun r _ => if r.wr then r.width else 0),
      sum (fun r i => ((r.elemAddrs i).filter fun a => stackAt s a != e).length * (bit r.rd + bit r.wr)))

def heEng (s : State) (e : Nat) : HeEng := s.he.get .reset e
def setHe (e : Nat) (x : HeEng) (s : State) : State := { s with he := s.he.put .reset e x }

/-- R214, R238: the counters advance: cycles at no more than the element rate, bytes, and waits; how many cycles memory adds is
open (log 11). Each engine at work holds at most 4,096 transactions (R214, R356). Of a descriptor that stopped, an unspecified part counts. -/
def countHearth (draw rate : Nat) (whole : Bool) (segs : List (List Run)) (s : State) : State :=
  useTokens dHeTxn 4096 draw (((heStats s segs).filter fun x => x.2.1 != 0).map (·.1)) <|
    (heStats s segs).foldl (fun s (e, n, rd, wr, far) =>
      if n = 0 then s else
        let h := heEng s e
        let part (k x : Nat) : Nat := if whole then x else Config.freeAt draw (32 + 4 * e + k) % (x + 1)
        let (n, rd, wr, far) := (part 0 n, part 1 rd, part 2 wr, part 3 far)
        setHe e { h with busy := h.busy.add (ceilDiv n rate + Config.freeAt draw (16 + e)), rd := h.rd.add rd, wr := h.wr.add wr,
                         far := h.far.add far, waiting := h.waiting.add (Config.freeAt draw e) } s) s

/-! ### HE_OP -/

/-- R222: whether an operation uses DST and SRC. -/
def heUsesDst (op : Nat) : Bool := decide (op ≤ 4)
def heUsesSrc (op : Nat) : Bool := op == 1 || op == 2 || op == 3 || op == 5 || op == 6

/-- R221: a segment entry. -/
structure HeSeg where
  dst : Nat
  src : Nat
  count : Nat
  idx : Nat
  rsv : Bool
deriving DecidableEq, Repr

def heSegs (s : State) (d : Desc) : List HeSeg :=
  (List.range (d.fld 16 44 4 + 1)).map fun i =>
    let e := readBytes s .iod (d.fld 16 0 44 + 32 * i) 32
    { dst := fieldAt e 0 0 44, src := fieldAt e 8 0 44, count := fieldAt e 16 0 40, idx := fieldAt e 24 0 64,
      rsv := fieldAt e 0 44 20 != 0 || fieldAt e 8 44 20 != 0 || fieldAt e 16 40 24 != 0 }

def heOp (d : Desc) : Nat := d.fld 24 0 4
def heDstFmt (d : Desc) : Nat := d.fld 24 4 4
def heSrcFmt (d : Desc) : Nat := d.fld 24 8 4

/-- R222: OP, DST_FMT and SRC_FMT are accepted. -/
def heFmtsOk (d : Desc) : Bool :=
  let df := heDstFmt d
  let sf := heSrcFmt d
  match heOp d with
  | 0 => decide (df ≤ 4)
  | 1 => decide (df ≤ 4) && sf == df
  | 2 => decide (df ≤ 4 ∧ sf ≤ 4)
  | 3 => decide (df ≤ 2 ∧ sf ≤ 4)
  | 4 => decide (df ≤ 2)
  | 5 | 6 => decide (sf ≤ 4)
  | _ => false

/-- R222: the used runs of a segment, the lead run first. -/
def heRuns (d : Desc) (g : HeSeg) : List Run :=
  let op := heOp d
  (if heUsesDst op then [{ base := g.dst, fmt := heDstFmt d, count := g.count, rd := op == 3 || op == 4, wr := true }] else [])
    ++ (if heUsesSrc op then [{ base := g.src, fmt := heSrcFmt d, count := g.count, rd := true, wr := false }] else [])

/-- R233: the runs of a descriptor break a condition at offset 16. -/
def runsBad (s : State) (sameOk : Bool) (segs : List (List Run)) : Bool :=
  (segs.any fun rs => rs.zipIdx.any fun (r, i) => runBad s (i == 0) r) || runsOverlap sameOk segs

/-- R224, R233: a record lies in tensor memory or on a shelf. -/
def inTensorOrShelf (s : State) (a n : Nat) : Bool :=
  inReach s .iod a n && (match access s .iod a with | some _ => true | none => false)

/-- R233: the checks of an HE_OP. -/
def heChecks (s : State) (d : Desc) : List (Nat × Bool) :=
  let lst := d.fld 16 0 44
  let listBad := !recordOk s .iod lst (32 * (d.fld 16 44 4 + 1)) 64
  let gs := heSegs s d
  let segs := gs.map (heRuns d)
  let norm := heOp d == 5 || heOp d == 6
  let res := d.fld 48 0 44
  let recRun : Run := { base := res, fmt := 3, count := 32, rd := false, wr := true }
  [ (16, d.fld 16 48 16 != 0 || listBad || (gs.any fun g => g.rsv || g.count == 0) || (heFmtsOk d && runsBad s true segs)),
    (24, d.fld 24 18 14 != 0 || !heFmtsOk d || d.fld 24 12 2 == 3 || d.fld 24 14 2 == 3
      || (d.fld 24 12 2 == 2 && (heOp d == 1 || norm))),
    (44, anySet d.bytes 44 4 || anySet d.bytes 56 8),
    (48, rsv44 d 48 || (norm && (!recordOk s .iod res 32 32 || !inTensorOrShelf s res 32 || (segs.flatten.any fun r => r.meets recRun)))) ]

/-- R222: what an operation makes of an element: its code, and the KIND of a non-finite one; `v` reads SRC and `w` reads DST. -/
def heElem (v w : View) (d : Desc) (g : HeSeg) (i : Nat) : Nat × Option Nat :=
  let dst : Run := { base := g.dst, fmt := heDstFmt d, count := g.count, rd := true, wr := true }
  let src : Run := { base := g.src, fmt := heSrcFmt d, count := g.count, rd := true, wr := false }
  let a := val32 (BitVec.ofNat 32 (d.fld 28 0 32))
  let cvt : Cvt := { rnd := d.fld 24 12 2, ovf := d.fld 24 14 2, lane := d.fld 24 16 2, seed := BitVec.ofNat 64 (d.fld 32 0 64),
                     step := BitVec.ofNat 32 (d.fld 40 0 32) }
  let put (x : FVal) : Nat × Option Nat := heConvert dst.fmt (cvt.rndAt (g.idx + i)) cvt.ovf x
  match heOp d with
  | 0 => put a
  | 1 =>
    let raw := leNat (readBytes (v.at_ .iod (src.elemAddrs i)) .iod (src.addr i) src.width)
    (raw, nfKind (decodeF (fmtOf src.fmt) raw))
  | 2 => put (v.elem src i)
  | 3 => put (fadd (fmul a (v.elem src i)) (w.elem dst i))
  | _ => put (fmul a (w.elem dst i))

/-- The elements of the segments with their ordinals (R236). -/
def ordinals (counts : List Nat) : List (Nat × Nat × Nat) :=
  (counts.zipIdx.flatMap fun (n, k) => (List.range n).map fun i => (k, i)).zipIdx.map fun ((k, i), o) => (k, i, o)

/-- R222, R236: the writes of a segment of an HE_OP that writes runs, its first element numbered `o`. -/
def heWrites (v w : View) (d : Desc) (g : HeSeg) (o : Nat) : List EWrite :=
  (List.range g.count).map fun i =>
    let (raw, kd) := heElem v w d g i
    ({ base := g.dst, fmt := heDstFmt d, count := g.count, rd := false, wr := true } : Run).write i raw (o + i) kd

/-- R236: the segments of a descriptor, each with the number of its first element. -/
def numbered {α : Type} (count : α → Nat) (gs : List α) : List (α × Nat) :=
  (gs.foldl (fun (acc : List (α × Nat) × Nat) g => (acc.1 ++ [(g, acc.2)], acc.2 + count g)) ([], 0)).1

/-- R224: the exact sum of squares of a norm record that starts a NORM_ACC, where the module wrote it; else what it holds (log 81). -/
def normStart (s : State) (key : Nat) (rec : List Byte) : FVal :=
  match s.mem.norms.find? fun n => n.key == key && n.bytes == rec with
  | some n => .fin false n.m n.e
  | none => val32 (BitVec.ofNat 32 (fieldAt rec 0 0 32))

/-- R224: the norm record that NORM or NORM_ACC comes to. -/
structure NormDone where
  sumsq : FVal
  amax : FVal
  bytes : List Byte
  exact : FVal
deriving DecidableEq, Repr

/-- R224: the norm record over some values, from a record's start (empty for zeros) and the exact sum behind it: a finite SUMSQ is any
value within the bound. -/
def normRecord (draw : Nat) (start : List Byte) (before : FVal) (vals : List FVal) : NormDone :=
  let n0 := fieldAt start 8 0 64 - fieldAt start 16 0 32 - fieldAt start 20 0 32
  let fin := vals.filter FVal.isFinite
  let amax := fin.foldl (fun m v => fmax m v.abs) (val32 (BitVec.ofNat 32 (fieldAt start 4 0 32)))
  let s := fin.foldl (fun s v => fadd s (fmul v v)) before
  let n := n0 + fin.length
  let limit := fadd (fmul s (.fin false (n + 1) (-24))) (.fin false n (-126))
  let r := round32 s
  let sq := if r.isFinite then bounded (draw + 1) 0 (fun c => fle (fsub c s).abs limit) r else r
  let bs := leBytes 4 (bits32 sq).toNat ++ leBytes 4 (bits32 amax).toNat ++ leBytes 8 (fieldAt start 8 0 64 + vals.length)
    ++ leBytes 4 (hold 0xFFFFFFFF (fieldAt start 16 0 32 + (vals.filter fun v => v.isNan).length))
    ++ leBytes 4 (hold 0xFFFFFFFF (fieldAt start 20 0 32 + (vals.filter fun v => !v.isNan && !v.isFinite).length)) ++ leBytes 8 0
  { sumsq := sq, amax := amax, bytes := bs, exact := s }

/-- R224, R236: what NORM or NORM_ACC comes to, as a step reads its runs. -/
def normDone (v : View) (d : Desc) (draw : Nat) (gs : List HeSeg) : NormDone :=
  let vals := gs.flatMap fun g =>
    let r : Run := { base := g.src, fmt := heSrcFmt d, count := g.count, rd := true, wr := false }
    (List.range g.count).map fun i => v.elem r i
  let res := d.fld 48 0 44
  let rec_ := readBytes (v.at_ .iod ((List.range 32).map (res + ·))) .iod res 32
  let key := ((access v.now .iod res).map Place.key).getD 0
  if heOp d = 6 then normRecord draw rec_ (normStart v.now key rec_) vals else normRecord draw [] fzero vals

/-- R224, R236: the write of the norm record, numbered with the last element. -/
def normWrite (d : Desc) (n : Nat) (x : NormDone) : EWrite :=
  let kd := match nfKind x.sumsq with | some k => some k | none => nfKind x.amax
  { bytes := x.bytes.zipIdx.map fun (b, i) => (d.fld 48 0 44 + i, b.toNat, 0xFF), nf := kd.map fun k => (n - 1, k) }

/-- R224: a norm record that has been written is noted with the exact sum behind it. -/
def noteNorm (d : Desc) (x : NormDone) (s : State) : State :=
  match access s .iod (d.fld 48 0 44), x.exact with
  | some p, .fin _ m e =>
    { s with mem := { s.mem with norms := { key := p.key, bytes := x.bytes, m := m, e := e } :: s.mem.norms.filter fun n => n.key != p.key } }
  | _, _ => s

/-- R220 to R236: the plan of an HE_OP: a step for each segment, or one for all where it forms a norm record. -/
def hePlan : Planner := fun s d draw t _ _ =>
  let z := asStarted d t s
  match checked (heChecks z d) (heSegs z d) with
  | .error e => .error e
  | .ok gs =>
    let read (rs : List Run) : List Nat := (rs.filter (·.rd)).flatMap fun r => (List.range r.len).map (r.base + ·)
    let norm := heOp d == 5 || heOp d == 6
    let past := pastOf d true s
    let total := (gs.map (·.count)).sum
    let v0 : View := { now := s, past := past, draw := draw + 2, serial := 0 }
    let parts := if norm then
        [{ piece := 0, fetched := 0,
           reads := read (gs.flatMap (heRuns d)) ++ (if heOp d = 6 then (List.range 32).map (d.fld 48 0 44 + ·) else []),
           make := fun _ => { writes := [normWrite d total (normDone v0 d draw gs)] } }]
      else (numbered (·.count) gs).zipIdx.map fun ((g, o), k) =>
        { piece := k, fetched := 0, reads := read (heRuns d g), make := fun v => { writes := heWrites v (v.rmw past) d g o } }
    .ok { target := t, watch := [], parts := parts, close := fun _ => [],
          whole := fun z => countHearth draw 512 true (gs.map (heRuns d)) (if norm then noteNorm d (normDone v0 d draw gs) z else z),
          partly := countHearth draw 512 false (gs.map (heRuns d)) }

/-- R219 to R236: an HE_OP runs on the Hearth engines. -/
def runHeOp (d : Desc) (s : State) : State := runOp hePlan d s

/-- R222: an HE_OP with an OP that a row of the table names, or one that is rejected, runs. -/
def heOpRow (op : Nat) (d : Ref) (s : State) : State :=
  atStage d .heOp 0 (fun x s => if heOp x == op || (op == 0 && decide (7 ≤ heOp x)) then runHeOp x s else s) s

/-- R222: FILL. -/
def execHeOpFill (d : Ref) (s : State) : Answer := .next (heOpRow 0 d s)
/-- R222: COPY. -/
def execHeOpCopy (d : Ref) (s : State) : Answer := .next (heOpRow 1 d s)
/-- R222: CAST. -/
def execHeOpCast (d : Ref) (s : State) : Answer := .next (heOpRow 2 d s)
/-- R222: REDUCE_ADD. -/
def execHeOpReduceAdd (d : Ref) (s : State) : Answer := .next (heOpRow 3 d s)
/-- R222: SCALE. -/
def execHeOpScale (d : Ref) (s : State) : Answer := .next (heOpRow 4 d s)
/-- R222: NORM. -/
def execHeOpNorm (d : Ref) (s : State) : Answer := .next (heOpRow 5 d s)
/-- R222: NORM_ACC. -/
def execHeOpNormAcc (d : Ref) (s : State) : Answer := .next (heOpRow 6 d s)

/-- R235: the part of its elements that a stopped HE_OP has written; a stopped NORM writes no record. -/
def stopHeOp (d : Desc) (s : State) : State :=
  if heOp d == 5 || heOp d == 6 then s else stopOp hePlan d s

/-- R223: the reduce-add of a collective: values added to a run with its rounding and overflow modes; the state, and the
non-finite values written. -/
def reduceAddWrites (s : State) (base fmt : Nat) (rnd : Rnd) (ovf : Nat) (vals : List FVal) (ordinal : Nat) : List EWrite :=
  let r : Run := { base := base, fmt := fmt, count := vals.length, rd := true, wr := true }
  vals.zipIdx.map fun (v, i) =>
    let x := if fmt = 0 then flush32 v else v
    let (raw, k) := heConvert fmt rnd ovf (fadd x (runVal (settled s) r i))
    r.write i raw (ordinal + i) k

/-! ### OPT_STEP -/

/-- R227: the header of an optimizer record. -/
structure OptRec where
  algo : Nat
  wFmt : Nat
  gFmt : Nat
  nseg : Nat
  lr : FVal
  beta1 : FVal
  beta2 : FVal
  eps : FVal
  wd : FVal
  gscale : FVal
  bc1 : FVal
  bc2 : FVal
  rsv : Bool
deriving DecidableEq, Repr

def optRec (h : List Byte) : OptRec :=
  let v (off : Nat) : FVal := val32 (BitVec.ofNat 32 (fieldAt h off 0 32))
  { algo := fieldAt h 0 0 4, wFmt := fieldAt h 0 4 4, gFmt := fieldAt h 0 8 4, nseg := fieldAt h 0 16 4 + 1,
    lr := v 4, beta1 := v 8, beta2 := v 12, eps := v 16, wd := v 20, gscale := v 24, bc1 := v 28, bc2 := v 32,
    rsv := fieldAt h 0 12 4 != 0 || fieldAt h 0 20 12 != 0 || anySet h 36 28 }

/-- R228: whether an algorithm uses the first and the second moment. -/
def usesM1 (algo : Nat) : Bool := algo != 5
def usesM2 (algo : Nat) : Bool := decide (algo ≤ 1)

/-- R227: a segment entry: W, G, M1, M2, COUNT and IDX_BASE. -/
structure OptSeg where
  w : Nat
  g : Nat
  m1 : Nat
  m2 : Nat
  count : Nat
  idx : Nat
  rsv : Bool
deriving DecidableEq, Repr

def optSeg (e : List Byte) : OptSeg :=
  { w := fieldAt e 0 0 44, g := fieldAt e 8 0 44, m1 := fieldAt e 16 0 44, m2 := fieldAt e 24 0 44, count := fieldAt e 32 0 40,
    idx := fieldAt e 40 0 64,
    rsv := ([0, 8, 16, 24].any fun o => fieldAt e o 44 20 != 0) || fieldAt e 32 40 24 != 0 || anySet e 48 16 }

/-- R227, R228: the runs of a segment: W, G, M1, M2. -/
def optRuns (h : OptRec) (g : OptSeg) : List Run :=
  [ { base := g.w, fmt := h.wFmt, count := g.count, rd := true, wr := true },
    { base := g.g, fmt := h.gFmt, count := g.count, rd := true, wr := false } ]
  ++ (if usesM1 h.algo then [{ base := g.m1, fmt := 1, count := g.count, rd := true, wr := true }] else [])
  ++ (if usesM2 h.algo then [{ base := g.m2, fmt := 1, count := g.count, rd := true, wr := true }] else [])

/-- The header and the segments of the record that a descriptor names. -/
def optRecord (s : State) (d : Desc) : OptRec × List OptSeg :=
  let a := d.fld 16 0 44
  let h := optRec (readBytes s .iod a 64)
  (h, (List.range h.nseg).map fun i => optSeg (readBytes s .iod (a + 64 + 64 * i) 64))

/-- R234: the checks of an OPT_STEP when it starts. -/
def optChecks (s : State) (d : Desc) : List (Nat × Bool) :=
  let a := d.fld 16 0 44
  let (h, gs) := optRecord s d
  [ (16, rsv44 d 16 || !recordOk s .iod a (64 + 64 * h.nseg) 64 || h.rsv || decide (5 < h.algo) || !(decide (1 ≤ h.wFmt ∧ h.wFmt ≤ 2))
      || decide (2 < h.gFmt) || (gs.any fun g => g.rsv || g.count == 0) || runsBad s false (gs.map (optRuns h))),
    (40, d.fld 40 1 31 != 0),
    (44, anySet d.bytes 44 20) ]

/-- R229: the operations, each rounded to FP32 by R82. -/
def f32add (a b : FVal) : FVal := round32 (fadd a b)
def f32mul (a b : FVal) : FVal := round32 (fmul a b)
def f32fma (a b c : FVal) : FVal := round32 (fadd (fmul a b) c)
def f32div (a b : FVal) : FVal := round32 (fdiv a b)
def f32sqrt (a : FVal) : FVal := round32 (fsqrt a)

/-- R229: sign. -/
def fsign (a : FVal) : FVal :=
  if a.isNan then .nan else if a.isZero then fzero else .fin a.isNeg 1 0

/-- R229: the update of one element: the weight and the two moments before their conversion. -/
def optElement (p : OptRec) (w g m v : FVal) : FVal × FVal × FVal :=
  let om1 := round32 (fsub fone p.beta1)
  let om2 := round32 (fsub fone p.beta2)
  let lr := p.lr.negate
  let g := f32mul g p.gscale
  let g := if p.algo = 1 ∨ p.algo = 4 then g else f32fma p.wd w g
  match p.algo with
  | 0 | 1 =>
    let m := f32fma p.beta1 m (f32mul om1 g)
    let v := f32fma p.beta2 v (f32mul om2 (f32mul g g))
    let u := f32div (f32mul m p.bc1) (f32add (f32sqrt (f32mul v p.bc2)) p.eps)
    let u := if p.algo = 1 then f32fma p.wd w u else u
    (f32fma lr u w, m, v)
  | 2 =>
    let m := f32fma p.beta1 m g
    (f32fma lr m w, m, v)
  | 3 =>
    let m := f32fma p.beta1 m g
    (f32fma lr (f32fma p.beta1 m g) w, m, v)
  | 4 =>
    let c := f32fma p.beta1 m (f32mul om1 g)
    (f32fma lr (f32fma p.wd w (fsign c)) w, f32fma p.beta2 m (f32mul om2 g), v)
  | _ => (f32fma lr g w, m, v)

/-- R229, R236: the writes of one element of an OPT_STEP: W, M1 and M2. -/
def optElemWrites (u : View) (d : Desc) (h : OptRec) (g : OptSeg) (i ordinal : Nat) : List EWrite :=
  let wr : Run := { base := g.w, fmt := h.wFmt, count := g.count, rd := true, wr := true }
  let gr : Run := { base := g.g, fmt := h.gFmt, count := g.count, rd := true, wr := false }
  let r1 : Run := { base := g.m1, fmt := 1, count := g.count, rd := true, wr := true }
  let r2 : Run := { base := g.m2, fmt := 1, count := g.count, rd := true, wr := true }
  let (w, m, v) := optElement h (u.elem wr i) (u.elem gr i) (if usesM1 h.algo then u.elem r1 i else fzero)
    (if usesM2 h.algo then u.elem r2 i else fzero)
  let sr (r : Run) (lane : Nat) (x : FVal) : EWrite :=
    let cvt : Cvt := { rnd := 2, ovf := 0, seed := BitVec.ofNat 64 (d.fld 24 0 64), step := BitVec.ofNat 32 (d.fld 32 0 32), lane := lane }
    let (raw, k) := convert r.fmt (cvt.rndAt (g.idx + i)) 0 x
    r.write i raw ordinal k
  [sr wr 0 w] ++ (if usesM1 h.algo then [sr r1 1 m] else []) ++ (if usesM2 h.algo then [sr r2 2 v] else [])

/-- R225 to R229: the plan of an OPT_STEP that runs, by the record that it read when it started. -/
def optPlan : Planner := fun s d draw t _ _ =>
  let (h, gs) := optRecord (withSnap d s) d
  let parts := (numbered (·.count) gs).zipIdx.map fun ((g, o), k) =>
    { piece := k, fetched := 0,
      reads := ((optRuns h g).filter (·.rd)).flatMap fun r => (List.range r.len).map (r.base + ·),
      make := fun v => { writes := (List.range g.count).flatMap fun i => optElemWrites { v with now := settled v.now } d h g i (o + i) } }
  .ok { target := t, watch := [], parts := parts, close := fun _ => [],
        whole := countHearth draw 128 true (gs.map (optRuns h)), partly := countHearth draw 128 false (gs.map (optRuns h)) }

/-- R230, R350: how the verdict of a round stands. -/
inductive Gate where
  | ahead
  | held (word : DWord)
  | gone
deriving DecidableEq, Repr

def gateOf (s : State) (round : Word) : Gate :=
  match serial s.guard.doneRound round with
  | .ahead _ => .ahead
  | _ =>
    match s.guard.held.find? fun h => h.1 == round with
    | some h => .held h.2
    | none => .gone

/-- R226: GATE and VROUND. -/
def isGated (d : Desc) : Bool := d.fld 40 0 1 == 1
def vround (d : Desc) : Word := BitVec.ofNat 32 (d.fld 36 0 32)

/-- R219: an OPT_STEP that its gate lets through runs on the Hearth engines. -/
def runOptStep (d : Desc) (s : State) : State := runOpOn (d.runsOn 1) optPlan d s

/-- R230, R235: what a stopped OPT_STEP has written: nothing unless its gate had let it through. -/
def stopOptStep (d : Desc) (s : State) : State :=
  let open_ := !isGated d || (match gateOf s (vround d) with | .held w => !w.getLsbD 0 | _ => false)
  if open_ && (d.copies.any fun c => c.st == .stopped && c.stage == 1) then stopOp optPlan d s else s

/-- R230, R234: the gate is decided. -/
def decideGate (d : Desc) (s : State) : State :=
  if !isGated d then runOptStep d s
  else match gateOf s (vround d) with
  | .ahead => parkCopy d.ref .hearth 1 s
  | .held w =>
    if w.getLsbD 0 then finishCopy d.ref .hearth { Report.ok with status := stGuardSkipped, detail := w.setWidth 32 } s
    else runOptStep d s
  | .gone => invalid d.ref 36 s

/-- R225 to R234: an OPT_STEP starts: its record is checked and read, and its gate decided; or it resumes and its gate is
decided. -/
def execOptStep (d : Ref) (s : State) : Answer :=
  .next (atStage d .optStep 1 decideGate (atStage d .optStep 0 (fun x s =>
    match firstError (optChecks (withSnap x s) x) with
    | some off => invalid d off s
    | none => updDesc d (updCopy .hearth fun c => { c with stage := 1 }) s) s))

/-- R230: a gated OPT_STEP whose round has not completed 100,000,000 ticks after it started completes with TIMEOUT. -/
def execGateTimeout (d : Ref) (s : State) : Answer :=
  .next <|
    match findDesc s d with
    | none => s
    | some x =>
      match waitingCopy x with
      | none => s
      | some c =>
        if x.op == some .optStep && isGated x && x.outcome.isNone && decide (c.since + 100000000 ≤ s.clk) then
          finishCopy d .hearth (Report.of stTimeout 0) s
        else s

end Sys2Proof.Machine
end

