-- ==== Sys2Proof/Machine/Tallies.lean ====
section
/-! DEFINITION. Tallies (R262 to R267) and barrier lines (R268 to R273), as descriptors use them (R286). -/

namespace Sys2Proof.Machine

/-! ### Tallies -/

/-- R263: the fields of a TALLY body. -/
def tallyNo (d : Desc) : Nat := d.fld 16 0 12
def tallyOp (d : Desc) : Nat := d.fld 16 16 3
def tallyValue (d : Desc) : Word := BitVec.ofNat 32 (d.fld 20 0 32)
def tallyGoal (d : Desc) : Word := BitVec.ofNat 32 (d.fld 24 0 32)

/-- R264: WAIT or WAIT_ADD. -/
def isTallyWait (d : Desc) : Bool := d.op == some .tally && (tallyOp d == 2 || tallyOp d == 3)

/-- R264, R12: the tally has reached or passed the descriptor's GOAL. -/
def tallySatisfied (s : State) (d : Desc) : Bool := serialDone (tally s (tallyNo d)) (tallyGoal d)

/-- R286: the offset of the first condition of a TALLY that fails. -/
def tallyError (s : State) (d : Desc) : Option Nat :=
  if d.fld 16 12 4 != 0 || d.fld 16 22 10 != 0 || decide (4 < tallyOp d) || !ownsTally s d.ctx.toNat (tallyNo d)
      || (decide (hUnit d.bytes < 4) && hTarget d.bytes != 0) then some 16
  else if anySet d.bytes 32 32 then some 32
  else none

/-- R264: a satisfied wait of a copy ends: its report, and the addition of a WAIT_ADD in the same step. -/
def satisfyTally (d : Desc) (s : State) : Report × State :=
  let i := tallyNo d
  if tallyOp d = 3 then
    let c := tally s i + tallyValue d
    (Report.of stOk c.toNat, setTally i c s)
  else (Report.of stOk (tally s i).toNat, s)

/-- The copies that wait on a tally and are satisfied. -/
def satisfiedOn (s : State) (i : Nat) : List (Desc × Target) :=
  s.descs.flatMap fun d =>
    if isTallyWait d && tallyNo d == i && d.outcome.isNone && tallySatisfied s d then
      (d.copies.filter (·.st.waits)).map fun c => (d, c.target)
    else []

/-- R262, R264: after a change of a tally satisfied waits end one at a time, in an order that the spec leaves open, until none
is left. -/
def settleTally (i : Nat) : Nat → State → State
  | 0, s => s
  | n + 1, s =>
    match satisfiedOn s i with
    | [] => s
    | x :: xs =>
      let (k, s1) := choose (xs.length + 1) s
      let (d, t) := (x :: xs).getD k x
      let (rep, s2) := satisfyTally d s1
      settleTally i n (endWait d.ref t rep s2)

/-- Every copy of every descriptor, counted. -/
def copyCount (s : State) : Nat := (s.descs.map fun d => d.copies.length).sum

/-- R262: a tally takes a value, and the waits that this satisfies end. -/
def changeTally (i : Nat) (v : Word) (s : State) : State := settleTally i (copyCount s) (setTally i v s)

/-- Runs a TALLY of one OP on a copy that has started, after the checks of R286. -/
def tallyRow (r : Ref) (t : Target) (o : Nat) (f : Desc → State → State) (s : State) : State :=
  copyAtStage r t .tally 0 (fun d s =>
    match tallyError s d with
    | some off => finishCopy r t (Report.of stDescInvalid off) s
    | none => if tallyOp d = o then f d s else s) s

/-- R264: ADD. -/
def execTallyAdd (d : Ref) (t : Target) (s : State) : Answer :=
  .next (tallyRow d t 0 (fun x s =>
    let c := tally s (tallyNo x) + tallyValue x
    changeTally (tallyNo x) c (finishCopy d t (Report.of stOk c.toNat) s)) s)

/-- R264: SET. -/
def execTallySet (d : Ref) (t : Target) (s : State) : Answer :=
  .next (tallyRow d t 1 (fun x s =>
    changeTally (tallyNo x) (tallyValue x) (finishCopy d t (Report.of stOk (tallyValue x).toNat) s)) s)

/-- R264, R44: WAIT: completes at once where the tally satisfies it, else its copy parks. -/
def execTallyWait (d : Ref) (t : Target) (s : State) : Answer :=
  .next (tallyRow d t 2 (fun x s =>
    if tallySatisfied s x then finishCopy d t (satisfyTally x s).1 s else parkCopy d t 1 s) s)

/-- R264, R44: WAIT_ADD: where the tally satisfies it, it adds in the same step and completes; else its copy parks. -/
def execTallyWaitAdd (d : Ref) (t : Target) (s : State) : Answer :=
  .next (tallyRow d t 3 (fun x s =>
    if tallySatisfied s x then
      let (rep, s1) := satisfyTally x s
      changeTally (tallyNo x) (tally s1 (tallyNo x)) (finishCopy d t rep s1)
    else parkCopy d t 1 s) s)

/-- R264: READ. -/
def execTallyRead (d : Ref) (t : Target) (s : State) : Answer :=
  .next (tallyRow d t 4 (fun x s => finishCopy d t (Report.of stOk (tally s (tallyNo x)).toNat) s) s)

/-! ### Barrier lines -/

/-- R271: the fields of a BARRIER body. -/
def barLine (d : Desc) : Nat := d.fld 16 0 5
def barOp (d : Desc) : Nat := d.fld 16 8 2

/-- The number of a participant: 96 × die + core, and 384 + the number of an I/O-die target (R265). -/
def partNo : Target → Nat
  | .core n k => 96 * n + k
  | .collective => 384
  | .hearth => 385
  | .guard => 386
  | .ember => 387
  | .host => 388

/-- R268: the participants of a line. -/
def participants (x : Line) : List Nat :=
  ((List.range 4).flatMap fun n => ((List.range 96).filter fun k => (x.cores.get 0 n).getLsbD k).map (96 * n + ·))
    ++ ((List.range 5).filter fun t => x.targets.getLsbD t).map (384 + ·)

def isParticipant (x : Line) (p : Nat) : Bool := (participants x).contains p

/-- R270: the pending count of a participant. -/
def pendingOf (x : Line) (p : Nat) : Nat := bit (x.arrived.get false p) + bit (x.latched.get false p)

/-- R272: the fenced dies that have a participant on the line, as a mask. -/
def fencedParts (s : State) (x : Line) : Nat :=
  ((List.range 4).map fun n => if isFenced s n && x.cores.get 0 n != 0 then 2 ^ n else 0).sum

/-- R268, R272: the line can release: every participant has arrived, and none lies on a fenced die. -/
def lineReady (s : State) (x : Line) : Bool :=
  !(participants x).isEmpty && fencedParts s x == 0 && (participants x).all fun p => x.arrived.get false p

/-- R286: the offset of the first condition of a BARRIER that fails. -/
def barrierError (s : State) (d : Desc) : Option Nat :=
  let x := lineOf s (barLine d)
  if d.fld 16 5 3 != 0 || d.fld 16 13 19 != 0 || barOp d == 3 || !ownsLine s d.ctx.toNat (barLine d)
      || (decide (hUnit d.bytes < 4) && hTarget d.bytes != 0)
      || (d.copies.any fun c => !isParticipant x (partNo c.target)) then some 16
  else if anySet d.bytes 24 40 then some 24
  else none

/-- What a BARRIER copy reports that ends with OK: GEN as it last saw it (R272). -/
def genReport (s : State) (l : Nat) : Report := Report.of stOk (bit (lineOf s l).gen)

/-- R270 steps 1 and 2: an arrival enters its flag or its latch and takes a barrier token; false where it has to wait in
place. -/
def putArrival (l p : Nat) (s : State) : Bool × State :=
  let x := lineOf s l
  if x.arrived.get false p && x.latched.get false p then (false, s) else
    let (ok, s1) := ledgerTake dBarrier l 1 s
    if !ok then (false, s1)
    else if x.arrived.get false p then (true, setLine l { x with latched := x.latched.put false p true } s1)
    else (true, setLine l { x with arrived := x.arrived.put false p true } s1)

/-- R272: the wait part of a copy: it ends at once where its participant has no pending arrival, ends with FENCED where the line
has a participant on a fenced die, and parks otherwise. -/
def beginBarrierWait (r : Ref) (t : Target) (l : Nat) (s : State) : State :=
  let x := lineOf s l
  if pendingOf x (partNo t) = 0 then finishCopy r t (genReport s l) s
  else if fencedParts s x ≠ 0 then finishCopy r t (Report.of stFenced (fencedParts s x)) s
  else parkCopy r t 2 s

/-- R270: copies whose arrival waits in place on a line. -/
def spinning (s : State) (l : Nat) : List (Desc × Target) :=
  s.descs.flatMap fun d =>
    if d.op == some .barrier && barLine d == l && d.outcome.isNone then
      (d.copies.filter fun c => c.st == .inPlace false && c.stage == 1).map fun c => (d, c.target)
    else []

/-- R270, R272: an arrival that waited in place takes step 2 and its copy goes on. -/
def unspin (l : Nat) (x : Desc × Target) (s : State) : State :=
  let (ok, s1) := putArrival l (partNo x.2) s
  if !ok then s1
  else if barOp x.1 = 0 then finishCopy x.1.ref x.2 (genReport s1 l) s1
  else
    let clk := s1.clk
    beginBarrierWait x.1.ref x.2 l (updDesc x.1.ref (updCopy x.2 fun c => { c with since := clk }) s1)

/-- R272: the waits whose participant has no pending arrival any more end. -/
def wakeLine (l : Nat) (s : State) : State :=
  let x := lineOf s l
  let rep := genReport s l
  { s with descs := s.descs.map fun d =>
      if d.op == some .barrier && barLine d == l && d.outcome.isNone then
        { d with copies := d.copies.map fun c =>
            if c.st.waits && c.stage == 2 && pendingOf x (partNo c.target) == 0 then
              { c with st := c.st.wake, report := some rep }
            else c }
      else d }

/-- R268, R270: a line releases where it can: GEN inverts, the flags clear, every full latch empties into its flag, waits end,
and arrivals that waited in place enter their latches. -/
def releaseLine (l : Nat) (s : State) : State :=
  let x := lineOf s l
  if lineReady s x then
    let s1 := setLine l { x with gen := !x.gen, arrived := x.latched, latched := [] } s
    let s2 := (ledgerMove dBarrier l x.arrived.length .held .free none s1).2
    let s3 := wakeLine l s2
    (spinning s3 l).foldl (fun s y => unspin l y s) s3
  else s

/-- Runs a BARRIER of one OP on a copy that has started, after the checks of R286. -/
def barrierRow (r : Ref) (t : Target) (o : Nat) (f : Nat → State → State) (s : State) : State :=
  copyAtStage r t .barrier 0 (fun d s =>
    match barrierError s d with
    | some off => finishCopy r t (Report.of stDescInvalid off) s
    | none => if barOp d = o then f (barLine d) s else s) s

/-- R270: an arrival waits in place, and its target starts nothing else. -/
def spinCopy (r : Ref) (t : Target) (s : State) : State :=
  updDesc r (updCopy t fun c => { c with st := .inPlace false, stage := 1 }) s

/-- R270, R272: ARRIVE. -/
def execBarrierArrive (d : Ref) (t : Target) (s : State) : Answer :=
  .next (barrierRow d t 0 (fun l s =>
    let (ok, s1) := putArrival l (partNo t) s
    if ok then releaseLine l (finishCopy d t (genReport s1 l) s1) else spinCopy d t s1) s)

/-- R268, R270: latched arrivals complete the next round and the line releases again. -/
def execBarrierLatchRelease (line : Nat) (s : State) : Answer := .next (if line < 32 then releaseLine line s else s)

/-- R272: WAIT. -/
def execBarrierWait (d : Ref) (t : Target) (s : State) : Answer :=
  .next (barrierRow d t 1 (fun l s => beginBarrierWait d t l s) s)

/-- R272: ARRIVE_WAIT; its time limit counts from the end of its arrival. -/
def execBarrierArriveWait (d : Ref) (t : Target) (s : State) : Answer :=
  .next (barrierRow d t 2 (fun l s =>
    let (ok, s1) := putArrival l (partNo t) s
    if !ok then spinCopy d t s1 else
      let clk := s1.clk
      releaseLine l (beginBarrierWait d t l (updDesc d (updCopy t fun c => { c with since := clk }) s1))) s)

/-- R272: a fence ends every wait that still needs a release of a line with a participant on a fenced die. -/
def fenceLines (s : State) : State :=
  s.descs.foldl (fun s d =>
    let m := fencedParts s (lineOf s (barLine d))
    if d.op == some .barrier && m != 0 && (d.copies.any fun c => c.st.waits) then setOutcome d.ref stFenced m none s else s) s

/-- R358: a write of a participant register: the participants change and the ledger's total by two tokens each; a write that
would leave FREE below 0 is refused. -/
def setParticipants (l : Nat) (x : Line) (s : State) : State :=
  let delta : Int := 2 * ((participants x).length : Int) - 2 * ((participants (lineOf s l)).length : Int)
  match changeTotalOf dBarrier id delta s with
  | some s1 => setLine l x s1
  | none => s

/-- R269: a line whose participants may not change: a context that owns it is active. -/
def lineLocked (s : State) (l : Nat) : Bool := (List.range 16).any fun n => ctxActive s n && ownsLine s n l

/-- R269: a write of IOD_BAR_PART. -/
def writeIodBarPart (l : Nat) (v : Word) (s : State) : State :=
  if lineLocked s l then s else setParticipants l { lineOf s l with targets := v.setWidth 5 } s

/-- R269: a write of one of the three words of CD_BAR_PART. -/
def writeCdBarPart (die l w : Nat) (v : Word) (s : State) : State :=
  if lineLocked s l || decide (dieCount s ≤ die) then s else
    let x := lineOf s l
    let m : BitVec 96 := (0xFFFFFFFF#96) <<< (32 * w)
    let c := (x.cores.get 0 die &&& ~~~m) ||| (v.setWidth 96 <<< (32 * w))
    setParticipants l { x with cores := x.cores.put 0 die c } s

end Sys2Proof.Machine
end

