-- ==== Sys2Proof/Machine/StageQueues.lean ====
section
/-! DEFINITION. Undeliverable packets (R311) and stage queues: grants and credits (R278, R301), SEND (R279, R280), entries
received (R281), RECV (R282, R283), flushes and staleness (R283, R284). -/

namespace Sys2Proof.Machine

/-! ### Undeliverable packets -/

/-- The bytes of LEN ≤ 4,096 pieces that a payload travels in, at least one. -/
def packetCount (n : Nat) : Nat := max 1 (ceilDiv n 4096)

/-- R311: packets that cannot be delivered are counted and the first is logged. -/
def noteUndelivered (type srcPos : Nat) (srcSide : Bool) (stream n reason : Nat) (s : State) : State :=
  let k := s.link
  let k1 := { k with undeliv := k.undeliv.add n }
  { s with link := if k.logValid then k1 else
      { k1 with logValid := true, logSrcPos := BitVec.ofNat 14 srcPos, logSrcSide := srcSide, logType := BitVec.ofNat 4 type,
                logReason := BitVec.ofNat 3 reason, logStream := BitVec.ofNat 16 stream } }

/-- R311: the credit that a refused entry had used returns to the ledger: one of the queue's own source, too long for its slot or come on
a port that is not UP. -/
def refundCredit (srcPos q reason : Nat) (s : State) : State :=
  let x := s.sync.rx.get .reset q
  if (reason = 4 ∨ reason = 5) ∧ x.en ∧ x.srcPos.toNat = srcPos ∧ 0 < (lgDom s dCredit).lentBy.get 0 q then
    (ledgerMove dCredit q 1 .lent .free none s).2
  else s

/-- R311: packets of one message that cannot be delivered: they are counted, the first is logged, and for an ENTRY, CHUNK, RWR or
RRD one REFUSE is sent per message. -/
def undeliverable (type srcPos : Nat) (srcSide : Bool) (stream : Nat) (mseq : Word) (n reason : Nat) (s : State) : State :=
  let s1 := noteUndelivered type srcPos srcSide stream n reason s
  let key := streamKey srcPos srcSide stream
  if (type = 1 ∨ type = 6 ∨ type = 10 ∨ type = 11) ∧ !s.link.refused.contains (key, mseq) then
    let s2 := if type = 1 then refundCredit srcPos stream reason s1 else s1
    sendAll [mkPacket s2 5 0 srcPos (1 + bit srcSide) stream mseq reason 0 0 true []]
      { s2 with link := { s2.link with refused := s2.link.refused ++ [(key, mseq)] } }
  else s1

/-! ### Channels and queues -/

def sqTx (s : State) (n : Nat) : SqTx := s.sync.tx.get .reset n
def setSqTx (n : Nat) (x : SqTx) (s : State) : State := { s with sync := { s.sync with tx := s.sync.tx.put .reset n x } }
def sqRx (s : State) (q : Nat) : SqRx := s.sync.rx.get .reset q
def setSqRx (q : Nat) (x : SqRx) (s : State) : State := { s with sync := { s.sync with rx := s.sync.rx.put .reset q x } }

/-- R363: the queue's tokens lie in RECLAIMED. -/
def queueMoved (s : State) (q : Nat) : Bool := (lgDom s dCredit).movedTo.get 0 q != 0

/-- R278: the send channel that a queue of a position reaches: the lowest-numbered enabled one that delivers to it. -/
def channelFor (s : State) (pos q : Nat) : Option Nat :=
  firstIdx 64 fun n =>
    let x := sqTx s n
    x.en && x.destPos.toNat == pos && x.destQ.toNat == q

/-- R279: the fields of a SEND body. -/
def sendTxq (d : Desc) : Nat := d.fld 24 0 6
/-- R282: the receive queue of a RECV. -/
def recvRxq (d : Desc) : Nat := d.fld 24 0 6

/-- Copies of a descriptor that wait or have resumed at a stage. -/
def atStages (d : Desc) (n : Nat) : Bool := d.outcome.isNone && d.copies.any fun c => c.stage == n && c.st != .done

/-- Gives a stage to every copy of a descriptor and ends its waits. -/
def wakeAll (r : Ref) (stage : Nat) (rep : Option Report) (s : State) : State :=
  updDesc r (fun d => { d with copies := d.copies.map fun c =>
    if c.st.waits then { c with st := c.st.wake, stage := stage, report := rep } else c }) s

/-- The copies of a SEND or RECV that have not begun to wait end with it. -/
def endUnstarted (r : Ref) (s : State) : State :=
  updDesc r (fun d => { d with copies := d.copies.map fun c =>
    if c.st == .queued || c.runs 0 then { c with st := .done } else c }) s

/-- The copies of a descriptor that run at stage 0 come to another. -/
def setStage (r : Ref) (stage : Nat) (s : State) : State :=
  updDesc r (fun d => { d with copies := d.copies.map fun c => if c.runs 0 then { c with stage := stage } else c }) s

/-- The copies of a descriptor that run at stage 0 park. -/
def parkStarted (d : Desc) (s : State) : State :=
  (d.copies.filter (Copy.runs 0)).foldl (fun s c => parkCopy d.ref c.target 1 s) s

/-- R280: SENDs that wait for a credit of a channel. -/
def creditWaiters (s : State) (n : Nat) : List Ref :=
  (s.descs.filter fun d => d.op == some .send && sendTxq d == n && atStages d 1 && d.copies.any (·.st.waits)).map (·.ref)

/-- R280: credits of a channel go to SENDs that wait for one, in an order that the spec leaves open. -/
def assignCredits (n : Nat) : Nat → State → State
  | 0, s => s
  | k + 1, s =>
    let x := sqTx s n
    if !x.granted || x.credits == 0 then s else
      match creditWaiters s n with
      | [] => s
      | r :: rs =>
        let (i, s1) := choose (rs.length + 1) s
        assignCredits n k (wakeAll ((r :: rs).getD i r) 2 none (setSqTx n { x with credits := x.credits - 1 } s1))

/-- R301: a QSTATE reaches a channel: the credits that its cumulative count shows beyond the last are added, and entries up to
its MSEQ are accepted. -/
def takeQstate (pos q : Nat) (last : Word) (count : Word) (s : State) : State :=
  let s0 := release (fun p => p.type == 1 && p.dstPos.toNat == pos && p.stream.toNat == q && serialDone last p.mseq) s
  match channelFor s0 pos q with
  | none => s0
  | some n =>
    let x := sqTx s0 n
    let s1 := match serial x.returned count with
      | .ahead m => if x.granted then setSqTx n { x with credits := x.credits + m, returned := count } s0 else s0
      | _ => s0
    let woken (sq : Word) (c : Copy) : Copy :=
      if c.st.waits && c.stage == 3 then { c with st := c.st.wake, report := some (Report.of stOk sq.toNat) } else c
    let accepted (d : Desc) : Desc :=
      match d.detailAll with
      | some sq =>
        if d.op == some .send && sendTxq d == n && d.outcome.isNone && serialDone last sq then
          { d with copies := d.copies.map (woken sq) }
        else d
      | none => d
    let s2 := { s1 with descs := s1.descs.map accepted }
    assignCredits n s2.descs.length s2

/-- R278: a GRANT_ACK from a queue's source stops the repetition of its grant. -/
def takeGrantAck (pos q : Nat) (s : State) : State :=
  let x := sqRx s q
  if x.en && x.srcPos.toNat == pos then setSqRx q { x with granting := false } s else s

/-- R278: a grant reaches the channel of its queue, which takes it unless it has one, and acknowledges. -/
def takeGrant (pos q : Nat) (expect : Word) (count units : Nat) (s : State) : State :=
  match channelFor s pos q with
  | none => s
  | some n =>
    let x := sqTx s n
    let s1 := if x.granted then s else
      let s1 := setSqTx n { x with credits := count, units := units, next := expect, granted := true, returned := 0 } s
      assignCredits n s1.descs.length s1
    if pos = strapPos s1 then takeGrantAck pos q s1
    else sendAll [mkPacket s1 3 0 pos 0 q expect 0 0 0 true []] s1

/-- R278, R363: a queue's grant goes to its source. -/
def sendGrant (q : Nat) (s : State) : State :=
  let x := sqRx s q
  let n := x.depth.toNat - x.entries.length
  if queueMoved s q then s
  else if x.srcPos.toNat = strapPos s then takeGrant (strapPos s) q x.expect n x.units.toNat s
  else sendAll [mkPacket s 2 0 x.srcPos.toNat 0 q x.expect (n + at' x.units.toNat 16) 0 0 true []] s

/-- R301, R363: a QSTATE goes to a queue's source: the last entry accepted and the credits returned since the grant. -/
def sendQstate (q : Nat) (s : State) : State :=
  let x := sqRx s q
  if queueMoved s q then s
  else if x.srcPos.toNat = strapPos s then takeQstate (strapPos s) q (x.expect - 1) x.returned s
  else sendAll [mkPacket s 4 0 x.srcPos.toNat 0 q (x.expect - 1) x.returned.toNat 0 0 true []] s

/-- R283, R284, R361: slots of a queue are freed and their credits return to the sender, on behalf of a descriptor where one took them. -/
def returnCredits (q n : Nat) (r : Option Ref) (s : State) : State :=
  let s1 := (ledgerMove dCredit q n .held .lent r s).2
  sendQstate q (setSqRx q { sqRx s1 q with returned := (sqRx s1 q).returned + BitVec.ofNat 32 n } s1)

/-! ### Entries received -/

/-- R277: the bytes of a slot, and the address of slot `k`. -/
def slotBytes (x : SqRx) : Nat := x.units.toNat * 4096
def slotAddr (x : SqRx) (k : Nat) : Nat := x.base.toNat + k * slotBytes x

/-- R281: a free slot, of the module's choice. -/
def freeSlot (x : SqRx) (s : State) : Option Nat × State :=
  let free := (List.range x.depth.toNat).filter fun k => !(x.entries.any fun e => e.slot == k)
  match free with
  | [] => (none, s)
  | k :: ks =>
    let (i, s1) := choose (ks.length + 1) s
    ((k :: ks)[i]?, s1)

/-- R283: the best visible entry of a queue that no RECV has taken: the lowest PRIO, and there the earliest sequence. -/
def bestEntry (x : SqRx) : Option SqEntry :=
  (x.entries.filter (·.taken.isNone)).foldl (fun best e =>
    match best with
    | none => some e
    | some b => if e.prio < b.prio ∨ (e.prio = b.prio ∧ serialPast b.seq e.seq) then some e else best) none

/-- R191: the tensor of a SEND or RECV as a copy read it at its start. -/
def queueTd (s : State) (d : Desc) (t : Target) : Option Td :=
  readTd (asStarted d t s) (rqOf t) (d.op == some .recv) (d.fld 16 0 44)

/-- R283: the entry does not fit the destination. -/
def entryMismatch (t : Td) (e : SqEntry) : Bool := e.fmt != t.fmt || e.len != t.rows * t.cols * (t.w / 8)

/-- R283: the copies of a RECV that an entry does not fit. -/
def misfits (s : State) (d : Desc) (e : SqEntry) : List (Target × Except Report Unit) :=
  d.copies.map fun c =>
    (c.target, match queueTd s d c.target with
      | some t => if entryMismatch t e then .error (Report.of stDescInvalid 16) else .ok ()
      | none => .error (Report.of stDescInvalid 16))

/-- R283: the entry is taken by a descriptor, or given back to the queue. -/
def markEntry (q : Nat) (sq : Word) (r : Option Ref) (s : State) : State :=
  let x := sqRx s q
  setSqRx q { x with entries := x.entries.map fun e => if e.seq == sq then { e with taken := r } else e } s

/-- R283, R284: RECVs that wait for an entry of a queue, those with NOWAIT that look within this tick among them. -/
def entryWaiters (s : State) (q : Nat) : List Desc :=
  s.descs.filter fun d => d.op == some .recv && recvRxq d == q && (atStages d 1 || atStages d 5) && d.copies.any (·.st.waits)

/-- R283, R284: entries of a queue go to RECVs that wait, in an order that the spec leaves open; one whose entry does not fit
completes with DESC_INVALID and takes nothing. -/
def assignEntries (q : Nat) : Nat → State → State
  | 0, s => s
  | k + 1, s =>
    match bestEntry (sqRx s q), entryWaiters s q with
    | some e, d :: ds =>
      let (i, s1) := choose (ds.length + 1) s
      let w := (d :: ds).getD i d
      if (firstReport (misfits s1 w e)).isSome then
        assignEntries q k (endUnstarted w.ref (wakeAll w.ref 1 (some (Report.of stDescInvalid 16)) s1))
      else assignEntries q k (wakeAll w.ref 2 none (markEntry q e.seq (some w.ref) s1))
    | _, _ => s

/-- R283: waiting RECVs take what a queue now holds. -/
def offerEntries (q : Nat) (s : State) : State := assignEntries q s.descs.length s

/-- R363, R364, R377: an entry stays unwritten, behind those that do already; whether the queue has judged it. -/
def keepUnwritten (judged : Bool) (e : EntryIn) (s : State) : State :=
  { s with sync := { s.sync with unwritten := s.sync.unwritten ++ [(judged, e)] } }

/-- R363, R364: an entry of the queue has to stay unwritten: its tokens lie in RECLAIMED, or an earlier entry stays so. -/
def mustWait (s : State) (q : Nat) : Bool := queueMoved s q || s.sync.unwritten.any fun u => u.2.queue == q

/-- R281: an entry is written to slot `k` and visible, EXPECT advances, and it is acknowledged. -/
def writeEntry (e : EntryIn) (k : Nat) (s : State) : State :=
  let q := e.queue
  let s1 := storeReceived .iod (addressed (slotAddr (sqRx s q) k) e.payload) s
  let y := sqRx s1 q
  let en : SqEntry := { seq := e.seq, fmt := e.fmt, prio := e.prio, etag := e.etag, slot := k, len := e.payload.length,
                        since := s1.clk, stale := false, collided := e.collided, taken := none }
  offerEntries q (sendQstate q (setSqRx q { y with entries := y.entries ++ [en], expect := y.expect + 1 } s1))

/-- R281 step 1, R359: an entry is accepted; one that no credit covers is a ledger fault. One whose slot lies on an ember page that is
yet to be copied stays unwritten (R377). -/
def acceptEntry (e : EntryIn) (s : State) : State :=
  let q := e.queue
  if mustWait s q then keepUnwritten true e s else
    let (ok, s1) := ledgerMove dCredit q 1 .lent .held none s
    let x := sqRx s1 q
    match (if ok then freeSlot x s1 else (none, s1)) with
    | (none, s2) => s2
    | (some k, s2) => if writeWaits s2 (slotAddr x k) e.payload.length then keepUnwritten true e s else writeEntry e k s2

/-- R380: the log entries of a stage-queue entry, one for each of its packets. -/
def logEntry (e : EntryIn) (s : State) : State :=
  (pieces 4096 e.payload).zipIdx.foldl (fun s (b, i) =>
    logEvent lkEntry (leBytes 4 e.queue ++ leBytes 4 e.seq.toNat ++ leBytes 4 (e.fmt + at' e.prio 4 + at' e.etag.toNat 16)
      ++ leBytes 4 (4096 * i) ++ b) s) s

/-- R386: entries of a queue that wait for LOG_ACK. -/
def awaitingAck (s : State) (q : Nat) : Nat :=
  (s.yoke.pendingAccept.filter fun a => match a.2 with | .entry e => e.queue == q | _ => false).length

/-- R386: what a peer sent waits until LOG_ACK covers the log as it stands now. -/
def awaitAck (a : Accept) (s : State) : State :=
  { s with yoke := { s.yoke with pendingAccept := s.yoke.pendingAccept ++ [(s.ember.logSent, a)] } }

/-- R281 step 2: a duplicate is discarded, counted, acknowledged, and its credit returns at once. -/
def duplicateEntry (e : EntryIn) (s : State) : State :=
  let x := sqRx s e.queue
  let s1 := setSqRx e.queue { x with dup := x.dup.add 1, returned := x.returned + 1 } s
  sendQstate e.queue { s1 with link := { s1.link with dup := s1.link.dup.add (packetCount e.payload.length) } }

/-- R281 step 3: an entry has been lost. -/
def entryGap (q : Nat) (s : State) : State :=
  let s1 := setSqRx q { sqRx s q with err := 2 } s
  let s2 := (entryWaiters s1 q).foldl (fun s d => setOutcome d.ref stLedgerFault dCredit none s) s1
  ledgerFault dCredit kGap q none s2

/-- R281: an enabled queue judges an entry of its source by its sequence number. -/
def judgeEntry (e : EntryIn) (s : State) : State :=
  let q := e.queue
  let x := sqRx s q
  match serial (x.expect + BitVec.ofNat 32 (awaitingAck s q)) e.seq with
  | .past _ => duplicateEntry e s
  | .ahead _ => entryGap q s
  | .reached =>
    let s1 := logEntry e s
    if acceptWaits s then awaitAck (.entry e) s1 else acceptEntry e s1

/-- R311: why an entry cannot be delivered. -/
def entryRefusal (s : State) (e : EntryIn) : Option Nat :=
  let x := sqRx s e.queue
  if 64 ≤ e.queue then some 1
  else if !x.en then some 2
  else if x.srcPos != e.srcPos then some 3
  else if slotBytes x < e.payload.length then some 5
  else none

/-- R281, R363: an entry that its queue accepts from its source; one for a queue whose tokens lie in RECLAIMED stays unwritten. -/
def enterQueue (e : EntryIn) (s : State) : State :=
  if mustWait s e.queue then keepUnwritten false e s else judgeEntry e s

/-- R364, R377: the entries of a queue that stayed unwritten are accepted, in their order of arrival, as far as they may be. -/
def judgeUnwritten (q : Nat) (s : State) : State :=
  let mine := s.sync.unwritten.filter fun u => u.2.queue == q
  mine.foldl (fun s u => if u.1 then acceptEntry u.2 s else enterQueue u.2 s)
    { s with sync := { s.sync with unwritten := s.sync.unwritten.filter fun u => u.2.queue != q } }

/-- R281, R311: an entry from another module arrives whole. -/
def receiveEntry (side : Bool) (e : EntryIn) (s : State) : State :=
  match entryRefusal s e with
  | some why => undeliverable 1 e.srcPos.toNat side e.queue e.seq (packetCount e.payload.length) why s
  | none => enterQueue e s

/-- R259: at least one packet of an entry has collided; how many is open (log 96). -/
def noteEntry (e : EntryIn) (s : State) : State :=
  if !e.collided then s else
    let (k, s1) := choose (packetCount e.payload.length) s
    { s1 with ft := { s1.ft with collide := s1.ft.collide.add (k + 1) } }

/-- R281: a stage-queue entry arrives. -/
def execEntryReceive (e : EntryIn) (s : State) : Answer := .next (receiveEntry false e (noteEntry e s))

/-- R356: the holder of the pool blocks of transmit windows. -/
def windowHolder : Nat := 128

/-- R302, R306: the blocks of a piece in a transmit window, which holds 64 KiB of payload. -/
def pieceBlocks (p : Packet) : Nat := ceilDiv p.payload.length 256

/-- Packets that have not been sent leave the ports' queues, with their tokens, and what is kept for a resend. -/
def dropPackets (mine : Packet → Bool) (s : State) : State :=
  let s1 := (List.range 16).foldl (fun s p =>
    let y := portOf s p
    let k := (y.tx.queue.filter mine).length
    if k = 0 then s
    else (ledgerMove dLinkPacket p k .held .free none (setPort p { y with tx := { y.tx with queue := y.tx.queue.filter fun q => !mine q } } s)).2) s
  { s1 with link := { s1.link with backlog := s1.link.backlog.filter fun b => !mine b.2, retained := s1.link.retained.filter fun p => !mine p } }

/-- R280: an entry that is not yet whole is never sent: its packets that wait are dropped, with their tokens, and its number is taken
back. No later entry of the channel has one: the next is formed when this one is whole. -/
def dropEntry (n : Nat) (seq : Word) (s : State) : State :=
  let x := sqTx s n
  let mine (p : Packet) : Bool := p.type == 1 && p.dstPos == x.destPos && p.stream.toNat == x.destQ.toNat && p.mseq == seq
  let gone := x.window.filter fun w => w.1 == seq
  let blocks := ((s.link.retained.filter fun p => mine p && gone.contains (p.mseq, p.offset)).map pieceBlocks).sum
  let s3 := dropPackets mine (ledgerMove dBlock windowHolder blocks .held .free none s).2
  setSqTx n { x with rest := x.rest.filter fun p => !mine p, window := x.window.filter fun w => w.1 != seq,
                     next := seq } s3

/-- R311: a SEND whose entry has been refused completes with DESC_INVALID; what had still to go out is dropped. -/
def endRefused (n : Nat) (mseq : Word) (d : Desc) (s : State) : State :=
  if d.op == some .send && sendTxq d == n && d.detailAll == some mseq && d.outcome.isNone then
    if d.copies.any fun c => c.st.waits && c.stage == 3 then setOutcome d.ref stDescInvalid 24 none s
    else if d.copies.any fun c => c.stage == 4 then
      setOutcome d.ref stDescInvalid 24 none
        (updDesc d.ref (fun y => { y with copies := y.copies.map fun c => { c with stage := 3 } }) (dropEntry n mseq s))
    else s
  else s

/-- R311: a REFUSE of an entry reaches its send channel: GRANTED and CREDITS clear and its SEND completes with DESC_INVALID. -/
def refuseSend (pos q : Nat) (mseq : Word) (s : State) : State :=
  match channelFor s pos q with
  | none => s
  | some n =>
    let s1 := setSqTx n { sqTx s n with granted := false, credits := 0 } s
    let s2 := release (fun p => p.type == 1 && p.dstPos.toNat == pos && p.stream.toNat == q && p.mseq == mseq) s1
    s2.descs.foldl (fun s d => endRefused n mseq d s) s2

/-- R281, R311, R320: an entry for a queue of this module; a refusal reaches the send channel within the module. -/
def receiveOwn (e : EntryIn) (s : State) : State :=
  match entryRefusal s e with
  | some why =>
    refuseSend (strapPos s) e.queue e.seq
      (refundCredit (strapPos s) e.queue why (noteUndelivered 1 (strapPos s) (strapSide s) e.queue (packetCount e.payload.length) why s))
  | none => enterQueue e s

/-! ### SEND -/

/-- R279, R282: format codes 0 to 4 and 8. -/
def queueFmt (f : Nat) : Bool := decide (f ≤ 4) || f == 8

/-- R286: the conditions that SEND and RECV share, with the descriptor's tensor. -/
def queueChecks (s : State) (d : Desc) (t : Option Td) (enabled : Bool) : List (Nat × Bool) :=
  [(16, rsv44 d 16 || t.isNone || !queueFmt ((t.map (·.fmt)).getD 0)),
   (24, d.fld 24 9 3 != 0 || d.fld 24 24 8 != 0 || !enabled
      || (d.fld 24 8 1 == 1 && !ownsTally s d.ctx.toNat (d.fld 24 12 12)))]

/-- R286: the conditions of a SEND that a copy checks. -/
def sendChecks (s : State) (d : Desc) (t : Target) : List (Nat × Bool) :=
  let x := sqTx s (sendTxq d)
  queueChecks s d (queueTd s d t) (x.en && x.ctx == d.ctx) ++ [(28, d.fld 28 16 16 != 0), (36, anySet d.bytes 36 28)]

/-- R47, R286: what the copies of a SEND or RECV find by the checks of each. -/
def queueErrors (d : Desc) (checks : Target → List (Nat × Bool)) : List (Target × Except Report Unit) :=
  d.copies.map fun c => (c.target, checked (checks c.target) ())

/-- R302: a SEND whose payload is wholly in the transmit window has its copies done: they park until the entry is accepted (R280). -/
def parkWritten (n : Nat) (s : State) : State :=
  s.descs.foldl (fun s d =>
    if d.op == some .send && sendTxq d == n && atStages d 4 && !(sqTx s n).rest.any (fun p => some p.mseq == d.detailAll) then
      d.copies.foldl (fun s c => parkCopy d.ref c.target 3 s) s
    else s) s

/-- R280: the SEND whose entry of a number goes out on a channel. -/
def senderOf (s : State) (n : Nat) (mseq : Word) : Option Ref :=
  (s.descs.find? fun d => d.op == some .send && sendTxq d == n && d.detailAll == some mseq).map (·.ref)

/-- R302, R356: pieces of the entry being sent enter the channel's transmit window, at most 16, each with its pool blocks, and go to the
port. -/
def feedWindow (n : Nat) : Nat → State → State
  | 0, s => s
  | k + 1, s =>
    let x := sqTx s n
    match x.rest with
    | [] => s
    | p :: ps =>
      if 16 ≤ x.window.length then s else
        let (ok, s1) := ledgerTake dBlock windowHolder (pieceBlocks p) s
        if !ok then s1
        else feedWindow n k (sendAll [p] (setSqTx n { x with rest := ps, window := x.window ++ [(p.mseq, p.offset)] } s1))

/-- R302: a packet of an entry has left its channel's transmit window, and the window takes the next pieces. -/
def leaveWindow (q : Packet) (s : State) : State :=
  (List.range 64).foldl (fun s n =>
    let x := sqTx s n
    if q.type == 1 && x.destPos == q.dstPos && x.destQ.toNat == q.stream.toNat && x.window.contains (q.mseq, q.offset) then
      let s1 := (ledgerMove dBlock windowHolder (pieceBlocks q) .held .free (senderOf s n q.mseq) s).2
      parkWritten n (feedWindow n 16 (setSqTx n { x with window := x.window.erase (q.mseq, q.offset) } s1))
    else s) s

/-- R120, R279, R280: what a copy of a SEND puts into the payload: the addresses that it reads, the format, and its rows' bytes; where the
payload is larger than the slots of the grant, its check fails. -/
def sendShare (v : View) (d : Desc) (units : Nat) (t : Target) (i : Nat) : Except Report (List Nat × Nat × List Byte) :=
  match queueTd v.now d t with
  | none => .error (Report.of stDescInvalid 16)
  | some td =>
    if units * 4096 < td.rows * td.cols * (td.w / 8) then .error (Report.of stDescInvalid 16) else
      let xs := (itemsOf td.rows d.copies.length i).flatMap fun r => (List.range td.cols).map fun c => toInts (td.pos r c)
      .ok (xs.flatMap td.readAddrs, td.fmt, xs.flatMap fun x => leBytes (td.w / 8) (v.raw (rqOf t) td x))

/-- The shares of a SEND's copies. -/
def sendShares (v : View) (d : Desc) (units : Nat) : List (Target × Except Report (List Nat × Nat × List Byte)) :=
  (copiesOf d).map fun (t, i) => (t, sendShare v d units t i)

/-- R301: ENTRY packets: only the first carries FMT, PRIO, ETAG and the length. -/
def entryPackets (s : State) (x : SqTx) (e : EntryIn) : List Packet :=
  (mkMessage s 1 x.vc x.destPos.toNat 0 x.destQ.toNat e.seq (e.fmt + at' e.prio 4 + at' e.etag.toNat 16) e.payload.length
    e.payload).zipIdx.map fun (p, i) => if i = 0 then p else { p with arg0 := 0, arg1 := 0 }

/-- R280: the channel keeps the credit of a SEND that sends nothing; another SEND may take it. -/
def giveBack (n : Nat) (r : Ref) (s : State) : State :=
  let s1 := updDesc r (fun y => { y with copies := y.copies.map fun c => { c with stage := 0 } })
    (setSqTx n { sqTx s n with credits := (sqTx s n).credits + 1 } s)
  assignCredits n s1.descs.length s1

/-- R280, R302: an entry whose number is taken is handed over: within the module at once, else through the transmit window. -/
def handOver (d : Desc) (n : Nat) (e : EntryIn) (s : State) : State :=
  let x := sqTx s n
  if x.destPos.toNat = strapPos s then receiveOwn e (d.copies.foldl (fun s c => parkCopy d.ref c.target 3 s) s)
  else
    let ps := entryPackets s x e
    let s1 := updDesc d.ref (fun y => { y with copies := y.copies.map fun c => { c with st := .inPlace false, stage := 4 } }) s
    parkWritten n (feedWindow n 16 (setSqTx n { x with rest := x.rest ++ ps } (retain ps s1)))

/-- R175, R178: the access engines of a SEND's cores have read its SRC. -/
def countShares (draw : Nat) (shares : List (Target × List Nat × Nat × List Byte)) (s : State) : State :=
  useTokens dAeTxn 512 draw ((shares.filter fun y => !y.2.1.isEmpty).map fun y => coreNumber y.1)
    (shares.foldl (fun s y => countBytes draw y.1 (!y.2.1.isEmpty) y.2.2.2.length [] s) s)

/-- R280: the credit is taken: the copies read SRC, the entry goes out, and the copies park until it is accepted. -/
def runSend (d : Desc) (s : State) : State :=
  let n := sendTxq d
  let x := sqTx s n
  let (c, s0) := drawFree s
  let v : View := { now := s0, past := pastOf d false s0, draw := c, serial := 0 }
  let rs := sendShares v d x.units
  if (firstReport rs).isSome then giveBack n d.ref (failCopies d.ref rs s0)
  else
    let shares := rs.filterMap fun (t, y) => y.toOption.map fun z => (t, z)
    match shares.findSome? fun (t, as, _) => (badRead s0 (rqOf t) as).map fun b => (t, b) with
    | some (t, a, p) => giveBack n d.ref (memUncorrectable d.ref t a p 0 (symbolsAt s.mem p) s0)
    | none =>
      let e : EntryIn := { srcPos := BitVec.ofNat 14 (strapPos s), queue := x.destQ.toNat, seq := x.next,
                           fmt := (shares.head?.map fun y => y.2.2.1).getD 0, prio := d.fld 24 6 2, etag := BitVec.ofNat 16 (d.fld 28 0 16),
                           payload := shares.flatMap fun y => y.2.2.2, collided := false }
      handOver d n e (setSqTx n { x with next := x.next + 1 }
        (updDesc d.ref (fun d => { d with detailAll := some x.next }) (countShares c shares s0)))

/-- R279, R280: copies of a SEND start and are checked. The SEND takes one credit for all of its copies, and those that start before it
has one park. -/
def startSend (d : Desc) (s : State) : State :=
  let rs := queueErrors d (sendChecks s d)
  if (firstReport rs).isSome then failCopies d.ref rs s else
    let n := sendTxq d
    let x := sqTx s n
    if d.copies.any fun c => c.stage == 2 then setStage d.ref 2 s
    else if x.granted && decide (0 < x.credits) then setStage d.ref 2 (setSqTx n { x with credits := x.credits - 1 } s)
    else parkStarted d s

/-- R280: every copy of a SEND that holds a credit runs, and its channel's last entry has been handed over whole. -/
def sendReady (d : Desc) (s : State) : Bool :=
  d.allRunning && d.copies.all (fun c => c.stage == 2) && (sqTx s (sendTxq d)).rest.isEmpty

/-- R280: SEND. -/
def execSend (d : Ref) (s : State) : Answer :=
  .next (atStage d .send 2 (fun x s => if sendReady x s then runSend x s else s) (atStage d .send 0 startSend s))

/-- R280, R287: a SEND that ends with its credit taken and its entry not sent, or not yet whole: the channel keeps its credit. -/
def stopSend (d : Desc) (s : State) : State :=
  let n := sendTxq d
  if d.copies.any fun c => c.stage == 2 then giveBack n d.ref s
  else if d.copies.any fun c => c.stage == 4 then
    match d.detailAll with
    | some seq => giveBack n d.ref (dropEntry n seq s)
    | none => s
  else s

/-! ### RECV -/

/-- R286: the conditions of a RECV that a copy checks. -/
def recvChecks (s : State) (d : Desc) (t : Target) : List (Nat × Bool) :=
  let x := sqRx s (recvRxq d)
  queueChecks s d (queueTd s d t) (x.en && x.ctx == d.ctx)
    ++ [(24, d.fld 24 7 1 != 0), (28, anySet d.bytes 28 4), (36, anySet d.bytes 36 28)]

/-- R283: DETAIL of a RECV that took an entry. -/
def recvDetail (e : SqEntry) : Nat := 1 + at' (bit e.stale) 1 + at' e.prio 2 + at' e.etag.toNat 16

/-- R120, R194, R283: a copy of a RECV writes its rows' part of the payload to DST; copy 0 carries the tag of the entry in DETAIL. -/
def recvPlan (x : SqRx) (e : SqEntry) : Planner := fun s d _ t i n =>
  match queueTd s d t with
  | none => .error (Report.of stDescInvalid 16)
  | some td =>
    let w := td.w / 8
    let tag : Part := { piece := 0, reads := [], fetched := 0, make := fun _ => { count := recvDetail e } }
    let row (r : Nat) : Part :=
      { piece := r, reads := [], fetched := td.cols * w,
        make := fun v =>
          { writes := (List.range td.cols).map fun c =>
              td.writeRaw (toInts (td.pos r c)) (leNat (readBytes v.now .iod (slotAddr x e.slot + (r * td.cols + c) * w) w)) c,
            size := td.cols } }
    .ok { target := t, watch := [], parts := (if i = 0 then [tag] else []) ++ (itemsOf td.rows n i).map row, close := td.closing i }

/-- R283: a RECV has written its entry: the slot is freed and its credit returns. -/
def freeEntry (d : Desc) (e : SqEntry) (s : State) : State :=
  let q := recvRxq d
  let x := sqRx s q
  match findDesc s d.ref with
  | some y =>
    if y.outcome.isNone && y.over then
      returnCredits q 1 (some d.ref) (setSqRx q { x with entries := x.entries.filter fun z => z.seq != e.seq } s)
    else s
  | none => s

/-- R283: the copies of a RECV that has taken an entry and that run write it to DST; with the last of them the slot is freed. -/
def runRecv (d : Desc) (s : State) : State :=
  let q := recvRxq d
  let x := sqRx s q
  match x.entries.find? fun e => e.taken == some d.ref with
  | none => s
  | some e =>
    match d.copies.find? (Copy.runs 2), badRead s .iod ((List.range e.len).map (slotAddr x e.slot + ·)) with
    | some c, some (a, p) => memUncorrectable d.ref c.target a p 0 (symbolsAt s.mem p) s
    | _, _ =>
      freeEntry d e (runOpOn (d.runsOn 2) (recvPlan x e) d (updDesc d.ref (fun y => { y with collided := y.collided || e.collided }) s))

/-- R283, R284: copies of a RECV that find no entry: they park; with NOWAIT they look until the end of the tick, and once others have
found none they find none. -/
def awaitEntry (d : Desc) (s : State) : State :=
  if d.fld 24 6 1 == 1 then
    let none_ := d.copies.any (·.over)
    updDesc d.ref (fun y => { y with copies := y.copies.map fun c =>
      if !(c.runs 0) then c else if none_ then { c with st := .done, report := some .ok } else { c with st := .inPlace false, stage := 5 } }) s
  else parkStarted d s

/-- R283, R284: at the end of a tick a RECV with NOWAIT that has found no entry completes with the not-valid tag. -/
def endLooks (s : State) : State :=
  { s with descs := s.descs.map fun d =>
      if d.op == some .recv && atStages d 5 then
        { d with copies := d.copies.map fun c => if c.st.waits then { c with st := .done, report := some .ok } else c }
      else d }

/-- R283: the RECV has taken an entry. -/
def tookEntry (d : Desc) (s : State) : Bool := (sqRx s (recvRxq d)).entries.any fun e => e.taken == some d.ref

/-- R282, R283: copies of a RECV start and are checked. The RECV takes one entry for all of its copies, which go on with it or wait for
it. -/
def startRecv (d : Desc) (s : State) : State :=
  let rs := queueErrors d (recvChecks s d)
  if (firstReport rs).isSome then failCopies d.ref rs s
  else if tookEntry d s then setStage d.ref 2 s
  else
    match (bestEntry (sqRx s (recvRxq d))).filter fun _ => !(d.copies.any (·.over)) with
    | some e =>
      let ms := misfits s d e
      if (firstReport ms).isSome then failCopies d.ref ms s
      else setStage d.ref 2 (wakeAll d.ref 2 none (markEntry (recvRxq d) e.seq (some d.ref) s))
    | none => awaitEntry d s

/-- R283: RECV. -/
def execRecv (d : Ref) (s : State) : Answer := .next (atStage d .recv 2 runRecv (atStage d .recv 0 startRecv s))

/-- R287: a RECV that ends with an entry taken: the entry returns to the queue; DST holds old or new values. -/
def stopRecv (d : Desc) (s : State) : State :=
  let q := recvRxq d
  let x := sqRx s q
  match x.entries.find? fun e => e.taken == some d.ref with
  | none => s
  | some e =>
    let s1 := if d.copies.any fun c => c.st == .stopped && c.stage == 2 then stopOp (recvPlan x e) d s else s
    offerEntries q (markEntry q e.seq none s1)

/-- R279, R282: the tally that a completed SEND or RECV adds to: with OK or LATE, and for a RECV with an entry taken. -/
def doneTally (d : Desc) (status : Nat) (detail : Word) (s : State) : State :=
  if d.fld 24 8 1 == 1 && decide (status ≤ 1) && (d.op == some .send || (d.op == some .recv && detail.getLsbD 0)) then
    let i := d.fld 24 12 12
    changeTally i (tally s i + 1) s
  else s

/-! ### Registers and control packets -/

/-- R278: the slots of a queue lie in tensor memory or a shelf. -/
def queueCfgOk (s : State) (x : SqRx) : Bool :=
  decide (1 ≤ x.depth.toNat ∧ x.depth.toNat ≤ 1024) && inReach s .iod x.base.toNat (x.depth.toNat * slotBytes x)

/-- R278, R358: a queue is enabled: its DEPTH joins the credit ledger, its credits are lent, its stream opens, and its
grant goes out. -/
def enableQueue (q : Nat) (x : SqRx) (s : State) : State :=
  let n := x.depth.toNat
  match changeTotalOf dCredit id n s with
  | none => s
  | some s1 =>
    let (ok, s2) := ledgerTake dCredit q n s1
    let s3 := if ok then (ledgerMove dCredit q n .held .lent none s2).2 else s2
    let s4 := { s3 with link := { s3.link with streams := s3.link.streams.filter fun k => k.1 % 2 ^ 16 != q } }
    sendGrant q (setSqRx q { x with en := true, err := 0, returned := 0, granting := true } s4)

/-- R277, R358: an empty queue is disabled and its DEPTH leaves the credit ledger; refused where FREE does not hold it. -/
def disableQueue (q : Nat) (x : SqRx) (s : State) : State :=
  let back (y : LgDom) : LgDom :=
    let l := y.lentBy.get 0 q
    if y.movedTo.get 0 q = 0 then ((y.takeFrom .lent q l).giveTo .free q l) else y
  match changeTotalOf dCredit back (-(x.depth.toNat : Int)) s with
  | none => s
  | some z => setSqRx q { x with en := false, granting := false } z

/-- R284: every entry of a queue is discarded, FLUSHED is set, and the credits return. -/
def flushQueue (q : Nat) (s : State) : State :=
  let x := sqRx s q
  let n := x.entries.length
  let s1 := setSqRx q { x with entries := [], flushed := BitVec.ofNat 16 (hold 0xFFFF n) } s
  if n = 0 then s1 else returnCredits q n none s1

/-- R277, R278, R284: a write of IOD_SQRX_CFG. -/
def writeSqrxCfg (q : Nat) (v : Word) (s : State) : State :=
  let x := sqRx s q
  let en := v.getLsbD 0
  let ctx : BitVec 4 := (v >>> 4).setWidth 4
  let pos : BitVec 14 := (v >>> 16).setWidth 14
  if ctxActive s x.ctx.toNat then s
  else if x.en then
    if ctx != x.ctx || pos != x.srcPos || (!en && !x.entries.isEmpty) then s
    else
      let s1 := if v.getLsbD 1 then flushQueue q s else s
      if en then s1 else disableQueue q (sqRx s1 q) s1
  else
    let y := { x with ctx := ctx, srcPos := pos }
    if !en then setSqRx q y s
    else if queueCfgOk s y then enableQueue q y s
    else setSqRx q { y with err := 1 } s

def sqrxBase (q : Nat) : Nat := 0x4A000 + 0x40 * q

/-- R278: a write that sets EN of a receive queue. -/
def execSqrxEnable (queue : Nat) (value : Word) (s : State) : Answer :=
  .next (if queue < 64 then bar0Write (sqrxBase queue) value.toNat (writeSqrxCfg queue value) s else s)

/-- R284: a write of FLUSH. -/
def execSqrxFlush (queue : Nat) (value : Word) (s : State) : Answer :=
  .next (if queue < 64 then bar0Write (sqrxBase queue) value.toNat (writeSqrxCfg queue value) s else s)

/-- R277: a write of GEOM: a bad ENTRY_UNITS leaves its field unchanged. -/
def writeSqrxGeom (q : Nat) (v : Word) (s : State) : State :=
  let x := sqRx s q
  let u : BitVec 15 := (v >>> 16).setWidth 15
  if ctxActive s x.ctx.toNat || x.en then s
  else setSqRx q { x with depth := v.setWidth 11, units := if u.toNat = 0 ∨ 16384 < u.toNat then x.units else u } s

/-- R277: a write of BASE. -/
def writeSqrxBase (q : Nat) (v : DWord) (s : State) : State :=
  let x := sqRx s q
  if ctxActive s x.ctx.toNat || x.en then s else setSqRx q { x with base := v.setWidth 44 &&& ~~~0xFFF } s

/-- R277: a write of STALE. -/
def writeSqrxStale (q : Nat) (v : Word) (s : State) : State :=
  let x := sqRx s q
  if ctxActive s x.ctx.toNat then s else setSqRx q { x with staleUs := v } s

/-- R278: an unacknowledged grant is sent again. -/
def execGrantRepeat (queue : Nat) (s : State) : Answer :=
  .next (if (sqRx s queue).en && (sqRx s queue).granting then sendGrant queue s else s)

/-- R278, R301: a GRANT packet arrives. -/
def execGrantReceive (p : Packet) (s : State) : Answer :=
  .next (takeGrant p.srcPos.toNat p.stream.toNat p.mseq (p.arg0.toNat % 2048) (bitsOf p.arg0.toNat 16 15) (noteSomewhere p s).2)

/-- R278, R301: a GRANT_ACK packet arrives. -/
def execGrantAckReceive (p : Packet) (s : State) : Answer :=
  .next (takeGrantAck p.srcPos.toNat p.stream.toNat (noteSomewhere p s).2)

/-- R301: a QSTATE packet arrives. -/
def execQstateReceive (p : Packet) (s : State) : Answer :=
  .next (takeQstate p.srcPos.toNat p.stream.toNat p.mseq p.arg0 (noteSomewhere p s).2)

/-- R276, R278: a write of IOD_SQTX_CFG; clearing EN clears GRANTED and CREDITS. -/
def writeSqtxCfg (n : Nat) (v : Word) (s : State) : State :=
  let x := sqTx s n
  let vc := bitsOf v.toNat 1 3
  if ctxActive s x.ctx.toNat then s else
    let en := v.getLsbD 0 && decide (vc < 6)
    let y := { x with en := en, vc := vc, ctx := (v >>> 4).setWidth 4, destQ := (v >>> 8).setWidth 6,
                      destPos := (v >>> 16).setWidth 14 }
    setSqTx n (if en then y else { y with granted := false, credits := 0 }) s

/-- R276: a write of a send channel's configuration. -/
def execSqtxCfgWrite (chan : Nat) (value : Word) (s : State) : Answer :=
  .next (if chan < 64 then bar0Write (0x48000 + 0x20 * chan) value.toNat (writeSqtxCfg chan value) s else s)

/-- R283: an entry has been visible for its queue's limit and becomes stale. -/
def execEntryStale (queue : Nat) (seq : Word) (s : State) : Answer :=
  .next <|
    let x := sqRx s queue
    match x.entries.find? fun e => e.seq == seq && e.taken.isNone && !e.stale with
    | none => s
    | some e =>
      if x.staleUs != 0 && decide (e.since + 1000 * x.staleUs.toNat ≤ s.clk) then
        setSqRx queue { x with staleCnt := x.staleCnt.add 1,
                               entries := x.entries.map fun y => if y.seq == seq then { y with stale := true } else y } s
      else s

end Sys2Proof.Machine
end

