-- ==== Sys2Proof/Machine/Ports.lean ====
section
/-! DEFINITION. Zubry ports: training, HELLO, RETRAIN (R294 to R298), flits, acknowledgement and replay (R292, R293),
credits and sending (R304, R305, R307), loss and return of a port (R313). -/

namespace Sys2Proof.Machine

/-! ### Training -/

/-- R296: EN of a port is set. -/
def enablePort (p : Nat) (s : State) : State :=
  let x := portOf s p
  let s1 := setPort p { x with en := true } s
  if x.state == .off && portsRun s then enterTraining p (setPort p { x with en := true, attempts := 0 } s1) else s1

/-- R296: EN of a port is written 0. -/
def disablePort (p : Nat) (s : State) : State := enterOff p (setPort p { portOf s p with en := false } s)

def zbBase : Nat := 0x120000

/-- R296: a port with EN = 1 enters TRAINING. -/
def execPortEnable (port : Nat) (s : State) : Answer :=
  .next (if port < 16 then bar0Write (zbBase + 0x200 * port) 1 (enablePort port) s else s)

/-- R296: no signal on any lane for 10 ms in TRAINING. -/
def execNoSignalTimeout (port : Nat) (s : State) : Answer :=
  .next <|
    let x := portOf s port
    if x.state == .training && decide (x.start + 10000000 ≤ s.clk) then
      setPort port { x with state := .noPeer, cause := pcNoSignal, laneLock := 0 } s
    else s

/-- R296: a NO_PEER port checks for signal. -/
def execSignalCheck (port : Nat) (signal : Bool) (s : State) : Answer :=
  .next (if (portOf s port).state == .noPeer && signal then enterTraining port s else s)

/-- R295, R296: a training attempt fails with a cause; a new one starts, or the port is FAILED after the third. -/
def execTrainingAttemptFail (port : Nat) (cause : Nat) (s : State) : Answer :=
  .next <|
    let x := portOf s port
    if x.state == .training && decide (2 ≤ cause ∧ cause ≤ 5) then
      let y := { x with attempts := x.attempts + 1, cause := cause }
      if 3 ≤ y.attempts then setPort port { y with state := .failed, laneLock := 0 } s
      else enterTraining port (setPort port y s)
    else s

/-- R298: the states in which a port sends HELLO. -/
def helloState : PortState → Bool
  | .training | .parked | .up => true
  | _ => false

/-- R298, R311: the lanes of a training port are deskewed: a HELLO goes out, or what arrives is accepted, only from then on (log 85). -/
def deskew (p : Nat) (s : State) : State :=
  let x := portOf s p
  if x.state == .training && !x.deskewed then setPort p { x with deskewed := true, laneLock := 0xFF } s else s

/-- R298: a port sends a HELLO word. -/
def execHelloSend (port : Nat) (s : State) : Answer :=
  .next (if helloState (portOf s port).state then sendWord port (.hello (ownHello s port)) (deskew port s) else s)

/-- R298: two HELLOs that name the same device and port. -/
def sameDevice (a b : Hello) : Bool :=
  a.position == b.position && a.side == b.side && a.port == b.port && a.kindDev == b.kindDev

/-- R390: the module stops being the active member. -/
def depose (s : State) : State :=
  if ownRole s = 1 then raiseVector 69 { s with yoke := { s.yoke with deposed := true } } else s

/-- R390: both members of a linked pair advertise ROLE = 1: side B acts as on DEPOSE. -/
def dualActive (h : Hello) (s : State) : State :=
  if linked s && h.kindDev == 0 && h.position.toNat == strapPos s && h.side != strapSide s && h.role == 1
      && ownRole s == 1 && strapSide s then depose s
  else s

/-- R296, R298: a HELLO arrives on a port. -/
def takeHello (p : Nat) (h : Hello) (s : State) : State :=
  let x := portOf s p
  let y := { x with peer := some h, peerValid := true, peerAt := s.clk }
  match x.state with
  | .training =>
    let s1 := setPort p y s
    if h.proto == 1 && decide (s.clk ≤ x.start + 250000000) then enterParked p h s1 else s1
  | .parked => noteDegraded (setPort p y s)
  | .up =>
    if (match x.parkHello with | some g => sameDevice g h | none => false) then noteDegraded (setPort p y s)
    else reevaluate p (setPort p { noteDown s y with state := .parked, parkHello := some h } s)
  | _ => s

/-- R298, R390: a HELLO arrives. -/
def execHelloReceive (port : Nat) (h : Hello) (s : State) : Answer :=
  .next (if helloState (portOf s port).state then dualActive h (takeHello port h (deskew port s)) else s)

/-- R315, R323: no HELLO has arrived for 1 ms. -/
def execPeerHelloLapse (port : Nat) (s : State) : Answer :=
  .next <|
    let x := portOf s port
    if x.peerValid && decide (x.peerAt + 1000000 ≤ s.clk) then noteDegraded (setPort port { x with peerValid := false } s) else s

/-- R294, R296: RETRAIN is written. -/
def retrainPort (p : Nat) (s : State) : State :=
  let x := portOf s p
  if x.state == .failed then enterTraining p (setPort p { x with attempts := 0 } s) else enterRetrain p pcSoftware s

/-- R294: a write of RETRAIN. -/
def execZbRetrainWrite (port : Nat) (s : State) : Answer :=
  .next (if port < 16 then bar0Write (zbBase + 0x200 * port) 3 (retrainPort port) s else s)

/-- R294: a lane has had no codeword lock for 10 µs. -/
def execLaneSilence (port : Nat) (lane : Nat) (s : State) : Answer :=
  .next (if lane < 8 then enterRetrain port pcSilence s else s)

/-! ### Replay -/

/-- R293, R294: the sender replays its unacknowledged flits from one on; the eighth replay that starts from the same flit puts the port
into RETRAIN. -/
def replayFrom (p : Nat) (f : BitVec 12) (s : State) : State :=
  let x := portOf s p
  let flits := x.tx.unacked.dropWhile fun u => u.1 != f
  if flits.isEmpty then s else
    let n := x.tx.replays.get 0 f.toNat + 1
    let y := { x with stats := { x.stats with replay := x.stats.replay.add 1 },
                      tx := { x.tx with replays := x.tx.replays.put 0 f.toNat n } }
    let again := flits.zipIdx.map fun (u, i) =>
      ({ fseq := u.1, replay := true, idle := false, lane := (x.tx.sent + i) % 8 } : FlitBits)
    let s1 := emit (.replay p again) (setPort p { y with tx := { y.tx with sent := x.tx.sent + flits.length, moved := s.clk } } s)
    if 8 ≤ n then enterRetrain p 6 s1 else s1

/-- The oldest unacknowledged flit. -/
def oldestFlit (x : Port) : Option (BitVec 12) := x.tx.unacked.head?.map (·.1)

/-- R294: a port in RETRAIN relocks within 2 ms, returns to its previous state and replays what is not acknowledged; one that
returns to PARKED is matched again (R322). -/
def execRetrainRelock (port : Nat) (s : State) : Answer :=
  .next <|
    let x := portOf s port
    if x.state == .retrain && decide (x.start + 20000 ≤ s.clk ∧ s.clk ≤ x.start + 2000000) then
      let y := { x with state := x.back, laneLock := 0xFF, tx := { x.tx with replays := [] } }
      let s1 := setPort port y s
      let s2 := if x.back == .up then portUpNow port s1 else reevaluate port s1
      match oldestFlit (portOf s2 port) with
      | some f => replayFrom port f s2
      | none => s2
    else s

/-- R294: a port has not relocked within 2 ms. -/
def execRetrainFail (port : Nat) (s : State) : Answer :=
  .next <|
    let x := portOf s port
    if x.state == .retrain && decide (x.start + 2000000 ≤ s.clk) then
      enterTraining port (setPort port { x with attempts := 0 } s)
    else s

/-- R311: the states in which a port accepts flits; in TRAINING after deskew. -/
def flitState (s : State) (p : Nat) : Bool :=
  match (portOf s p).state with
  | .training => (portOf s p).deskewed
  | .parked | .up => true
  | _ => false

/-- R293: a NAK goes out for the first flit not yet wholly received, and flits are discarded until it arrives. -/
def sendNak (p : Nat) (s : State) : State :=
  let x := portOf s p
  let n := x.rx.ackable + 1
  sendWord p (.nak n) (setPort p { x with rx := { x.rx with nak := some n, expect := n, nakAt := s.clk } } s)

/-- R315: the counts of a codeword. -/
def countCodeword (e : Ecc) (c : PortStats) : PortStats :=
  match e with
  | .clean => c
  | .corrected | .miscorrected _ => { c with cwCorr := c.cwCorr.add 1 }
  | .uncorrectable _ => { c with cwUncorr := c.cwUncorr.add 1 }

def Ecc.bad : Ecc → Bool
  | .uncorrectable _ => true
  | _ => false

/-- R293: a flit is accepted: what of it may be acknowledged, or a NAK for a failed CRC. -/
def acceptFlit (p : Nat) (f : Flit) (s : State) : State :=
  let x := portOf s p
  let y := { x with rx := { x.rx with expect := f.fseq + 1, nak := none, ackable := f.firstOpen - 1, sinceAck := x.rx.sinceAck + 1 } }
  if f.crcFail then
    sendNak p (setPort p { y with stats := { y.stats with crcFail := y.stats.crcFail.add 1 } } s)
  else setPort p y s

/-- R311: whether a flit arrives before or after the deskew of a training port is open, where nothing has shown it. -/
def maybeDeskew (p : Nat) (s : State) : State :=
  if (portOf s p).state == .training && !(portOf s p).deskewed then
    let (i, s1) := choose 2 s
    if i = 0 then s1 else deskew p s1
  else s

/-- R293: a flit arrives on a port. An idle flit carries the FSEQ of the next flit that is not (R292). -/
def execFlitReceive (port : Nat) (f : Flit) (s : State) : Answer :=
  .next <|
    let s := maybeDeskew port s
    if !flitState s port then s else
      let x := portOf s port
      let s1 := setPort port { x with stats := countCodeword f.codeword x.stats } s
      match x.rx.nak with
      | some n => if !Ecc.bad f.codeword && !f.idle && f.replay && f.fseq == n && f.laneField == f.lane then acceptFlit port f s1 else s1
      | none =>
        if Ecc.bad f.codeword || f.laneField != f.lane then sendNak port s1
        else if f.fseq == x.rx.expect then (if f.idle then s1 else acceptFlit port f s1)
        else if f.replay && decide (1 ≤ (x.rx.expect - f.fseq).toNat ∧ (x.rx.expect - f.fseq).toNat ≤ 2047) then s1
        else sendNak port s1

/-- R293: the receiver acknowledges what it has accepted. -/
def execAckSend (port : Nat) (s : State) : Answer :=
  .next <|
    let x := portOf s port
    if flitState s port && x.rx.ackable != x.rx.acked && (decide (64 ≤ x.rx.sinceAck) || decide (x.rx.ackAt + 200 ≤ s.clk)) then
      sendWord port (.ack x.rx.ackable)
        (setPort port { x with rx := { x.rx with sinceAck := 0, acked := x.rx.ackable, ackAt := s.clk } } s)
    else s

/-- R304: the place of a control word in the order of sending. -/
def wordRank : CtlWord → Nat
  | .ack _ => 0
  | .nak _ => 1
  | .credit _ _ => 2
  | .timeReq _ | .timeRsp _ _ _ => 3
  | .hello _ => 4

/-- R304: the waiting control word that goes out first. -/
def firstWord (x : Port) : Option CtlWord :=
  (List.range 5).findSome? fun r => x.tx.words.find? fun w => wordRank w == r

/-- R293, R312: an ACK frees the flits up to the one it names, and ends the packets that they hold. -/
def takeAck (p : Nat) (f : BitVec 12) (s : State) : State :=
  let x := portOf s p
  if x.tx.unacked.any fun u => u.1 == f then
    let done := (x.tx.unacked.takeWhile fun u => u.1 != f) ++ (x.tx.unacked.filter fun u => u.1 == f)
    let rest := x.tx.unacked.drop done.length
    let n := (done.filter fun u => match u.2 with | .packet _ => true | _ => false).length
    let left := x.tx.replays.filter fun r => rest.any fun u => u.1.toNat == r.1
    let s1 := setPort p { x with tx := { x.tx with unacked := rest, moved := s.clk, replays := left } } s
    drainBacklog (ledgerMove dLinkPacket p n .held .free none s1).2
  else s

/-- R293: an ACK word arrives. -/
def execAckReceive (port : Nat) (fseq : BitVec 12) (replay : Bool) (s : State) : Answer :=
  .next (if flitState s port && !replay then takeAck port fseq s else s)

/-- R293: a NAK word arrives. -/
def execNakReceive (port : Nat) (fseq : BitVec 12) (replay : Bool) (s : State) : Answer :=
  .next (if flitState s port && !replay then replayFrom port fseq s else s)

/-- R293: ACKs have not advanced for 2 µs while flits are unacknowledged. -/
def execReplayTimeout (port : Nat) (s : State) : Answer :=
  .next <|
    match oldestFlit (portOf s port) with
    | some f => if flitState s port && decide ((portOf s port).tx.moved + 2000 ≤ s.clk) then replayFrom port f s else s
    | none => s

/-- R293: the awaited replayed flit has not arrived within 2 µs. -/
def execNakRepeatTimeout (port : Nat) (s : State) : Answer :=
  .next <|
    let x := portOf s port
    match x.rx.nak with
    | some n =>
      if flitState s port && decide (x.rx.nakAt + 2000 ≤ s.clk) then
        sendWord port (.nak n) (setPort port { x with rx := { x.rx with nakAt := s.clk } } s)
      else s
    | none => s

/-! ### Credits and sending -/

/-- R299, R307: a CREDIT word's cumulative TOTAL adds the credits that it shows beyond the last. -/
def execCreditReceive (port : Nat) (vc : Nat) (total : Word) (s : State) : Answer :=
  .next <|
    let x := portOf s port
    let last := x.tx.totals.get 0 vc
    match serial last total with
    | .ahead n =>
      if flitState s port && decide (vc < 8) then
        setPort port { x with tx := { x.tx with credits := x.tx.credits.upd 0 vc (· + n), totals := x.tx.totals.put 0 vc total } } s
      else s
    | _ => s

/-- R305: bytes that VC6 and VC7 have sent on a port in the present frame. -/
def yokeUsed (s : State) (x : Port) : Nat := if x.tx.frame = frameNow s then x.tx.used else 0

/-- R313: the stream of a packet may send on a port: no earlier packet of it waits on another, and on its primary port 100 µs have passed
since its last packet on another. -/
def orderAllows (s : State) (p : Nat) (q : Packet) : Bool :=
  ((pathOf s q).port != p || !(List.range 16).any fun o => o != p && (portOf s o).tx.queue.any fun r => pathKey r == pathKey q)
    && (primaryOf s (pathKey q) != some p || (match (pathOf s q).alt with | some c => decide (c + 100000 ≤ s.clk) | none => true))

/-- R335, R351: a member that is in Fenced sends nothing of the collective engine; such packets wait (log 98). -/
def fencedHolds (s : State) (q : Packet) : Bool :=
  s.ms.mode == .fenced && (match q.type.toNat with | 6 | 10 | 11 | 12 | 13 => true | _ => false)

/-- R258, R293, R304, R305, R390: a packet is ready on its port: credits for all its blocks, the yoke budget, places in the retry buffer, the
plan, its stream's order, and a module that may send it. -/
def packetReady (s : State) (p : Nat) (q : Packet) : Bool :=
  let x := portOf s p
  decide (packetBlocks q ≤ x.tx.credits.get 0 q.vc)
    && (decide (q.vc < 6) || decide (yokeUsed s x + packetBytes q ≤ 250000))
    && decide (x.tx.unacked.length + packetFlits q ≤ 512)
    && planAllows s p q && orderAllows s p q && maySend s q && !fencedHolds s q

/-- R302, R304: the packet of a channel whose turn it is: the first that is ready and has no packet of its stream, on whatever channel, ahead
of it. -/
def channelHead (s : State) (p vc : Nat) : Option Packet :=
  let qs := (portOf s p).tx.queue
  (qs.zipIdx.find? fun (q, i) => q.vc == vc && packetReady s p q && !(qs.take i).any fun r => pathKey r == pathKey q).map (·.1)

/-- R304: the packet that a port sends next. -/
def nextPacket (s : State) (p : Nat) : Option Packet :=
  let x := portOf s p
  let order := [7, 6] ++ (List.range 6).map fun i => (x.tx.turn + i) % 6
  order.findSome? (channelHead s p)

/-- R302, R304, R312: a packet leaves the queue: it takes its flits and its credits. -/
def transmit (p : Nat) (q : Packet) (s : State) : State :=
  let x := portOf s p
  let n := packetFlits q
  let flits := (List.range n).map fun i => flitBits x i false
  let y := takeFlits (List.replicate (n - 1) TxItem.part ++ [.packet q]) s.clk x
  let t := { y.tx with queue := x.tx.queue.erase q, credits := x.tx.credits.upd 0 q.vc (· - packetBlocks q),
                       turn := if q.vc < 6 then (q.vc + 1) % 6 else x.tx.turn }
  let t1 := if q.vc < 6 then t else { t with frame := frameNow s, used := yokeUsed s x + packetBytes q }
  let s1 := setPort p { y with tx := t1, stats := { x.stats with txBytes := x.stats.txBytes.add (packetBytes q) } } s
  let s2 := if primaryOf s (pathKey q) = some p then s1 else setPath (pathKey q) { pathOf s q with alt := some s.clk } s1
  emit (.packet p (packetWire q) flits) s2

/-- R304, R293: an idle flit. -/
def sendIdle (p : Nat) (s : State) : State :=
  let x := portOf s p
  emit (.idle p (flitBits x 0 true)) (setPort p { x with tx := { x.tx with sent := x.tx.sent + 1 } } s)

/-- R293, R304: the first waiting control word goes out; with 512 unacknowledged flits an idle flit does. -/
def sendWaiting (p : Nat) (w : CtlWord) (s : State) : State :=
  let x := portOf s p
  if x.tx.unacked.length < 512 then sendNow p w (setPort p { x with tx := { x.tx with words := x.tx.words.erase w } } s) else sendIdle p s

/-- R304: at a packet boundary the port sends the first ready item: a control word, a packet, or an idle flit. Control words travel in
TRAINING after deskew and in PARKED too (R298). -/
def execPacketSend (port : Nat) (s : State) : Answer :=
  .next <|
    if !flitState s port then s
    else match firstWord (portOf s port) with
      | some w => sendWaiting port w s
      | none =>
        if (portOf s port).state != .up then s else
          let s1 := drainBacklog s
          match nextPacket s1 port with
          | some q => leaveWindow q (transmit port q s1)
          | none => sendIdle port s1

/-- R307: pool blocks of a channel are freed by a write to memory. -/
def execBlockFree (chan : Nat) (blocks : Nat) (s : State) : Answer :=
  .next (if chan < 128 then poolFree (chan / 8) (chan % 8) blocks s else s)

/-! ### Loss of a port -/

/-- R313: a port that left UP has not been UP again for 2 ms; its packets move to alternate ports. -/
def execPortFailover (port : Nat) (s : State) : Answer :=
  .next <|
    let x := portOf s port
    match x.downAt with
    | some t =>
      if x.state != .up && decide (t + 2000000 ≤ s.clk) && !x.failover then
        movePackets port (setPort port { x with failover := true } s)
      else s
    | none => s

/-- R313: a port has been UP for 10 ms and takes back each of its streams that stands at a message boundary. -/
def returnStreams (p : Nat) (s : State) : State :=
  s.link.paths.foldl (fun s x =>
    if x.2.port != p && !x.2.mid && primaryOf s x.1 == some p then setPath x.1 { x.2 with port := p } s else s) s

/-- R313: streams return to their primary port. -/
def execPortReturn (port : Nat) (s : State) : Answer :=
  .next <|
    let x := portOf s port
    match x.upAt with
    | some t => if x.state == .up && decide (t + 10000000 ≤ s.clk) then returnStreams port s else s
    | none => s

end Sys2Proof.Machine
end

