-- ==== Sys2Proof/Machine/Admission.lean ====
section
/-! DEFINITION. Admission to the machine: the topology manifest (R318), the checks (R321) and what admission does (R322,
R323). -/

namespace Sys2Proof.Machine

/-- R318: the bytes of a manifest. -/
def manifestBytes : Nat := 2240

/-- R318: a reserved bit of a manifest is set. -/
def manifestReserved (b : List Byte) : Bool :=
  fieldAt b 0 15 1 != 0 || fieldAt b 4 1 31 != 0 || anySet b 8 56
    || (List.range 16).any (fun p => fieldAt b (64 + 8 * p) 26 38 != 0)
    || (List.range 512).any (fun g => fieldAt b (192 + 4 * g) 16 16 != 0)

/-- R318: the fields of a manifest. -/
def manifestOf (b : List Byte) : Manifest :=
  let peer (p : Nat) : Nat × Bool × Bool × Nat × Nat :=
    let o := 64 + 8 * p
    (fieldAt b o 0 14, fieldAt b o 14 1 == 1, fieldAt b o 15 1 == 1, fieldAt b o 16 8, fieldAt b o 24 2)
  { position := BitVec.ofNat 14 (fieldAt b 0 0 14), yokeEn := fieldAt b 0 14 1 == 1,
    required := BitVec.ofNat 16 (fieldAt b 0 16 16), allowSkew := fieldAt b 4 0 1 == 1,
    peers := (List.range 16).map peer,
    groups := (List.range 512).foldl (fun t g => t.put 0 g (BitVec.ofNat 16 (fieldAt b (192 + 4 * g) 0 16))) [] }

/-- R321: the values of REASON. -/
def arBadManifest : Nat := 1
def arPosition : Nat := 2
def arNotAligned : Nat := 3
def arSkew : Nat := 4
def arRequiredPort : Nat := 5
def arBadState : Nat := 6
def arBusy : Nat := 7

def setAdmit (a : Admit) (s : State) : State := { s with adm := a }

/-- R321: a check ends with REFUSED. -/
def refuseAdmission (reason port : Nat) (s : State) : State :=
  setAdmit { s.adm with state := 3, reason := reason, port := port, again := false } s

/-- R321: a write of 1 to REQ. -/
def admitRequest (s : State) : State :=
  if s.adm.state = 1 then setAdmit { s.adm with again := true } s
  else if s.ms.mode = .full ∨ s.ms.mode = .banked then
    setAdmit { s.adm with state := 1, reason := 0, port := 0, again := false } s
  else refuseAdmission arBadState 0 s

/-- R321: the lowest REQUIRED port that does not match. -/
def requiredFails (s : State) (m : Manifest) : Option Nat :=
  firstIdx 16 fun p => bitOf m.required.toNat p && !portMatches s m p

/-- R321: the first of the checks 2 to 5 that fails: its REASON and PORT. -/
def admitFailure (s : State) (m : Manifest) : Option (Nat × Nat) :=
  if m.position.toNat ≠ strapPos s ∨ m.yokeEn ≠ strapYokeEn s then some (arPosition, 0)
  else if !s.ft.aligned then some (arNotAligned, 0)
  else if skewAlarm s && !m.allowSkew then some (arSkew, 0)
  else (requiredFails s m).map fun p => (arRequiredPort, p)

/-- R322: on admission every matching port in PARKED goes UP and every other port that is UP returns to PARKED. A port in RETRAIN
keeps the state to which it returns only where its peer is the manifest's (log 77). -/
def admitPort (p : Nat) (s : State) : State :=
  let x := portOf s p
  let peerOk := match s.adm.manifest with
    | some m => peerMatches s m p
    | none => false
  if x.state == .parked && matchesNow s p then raisePort p s
  else if (x.state == .up && !matchesNow s p) || (x.state == .retrain && !peerOk) then park p s
  else s

/-- R321, R322: every check has passed. -/
def admitNow (m : Manifest) (s : State) : State :=
  let s1 := setAdmit { s.adm with state := 2, reason := if s.adm.again then arBusy else 0, port := 0, degraded := false,
                                    admitted := true, again := false, manifest := some m } s
  sendHeld ((List.range 16).foldl (fun s p => admitPort p s) s1)

/-- R321: the running check ends. -/
def admitCheck (s : State) : State :=
  let a := s.adm.manifestAddr.toNat
  if !recordOk s .iod a manifestBytes 64 then refuseAdmission arBadManifest 0 s
  else if unfilled s a manifestBytes then s
  else match firstBad s .iod a manifestBytes with
    | some x =>
      match access s .iod x with
      | some p => refuseAdmission arBadManifest 0 (logMemErr x p 0 7 0xFFFF (symbolsAt s.mem p) s).2
      | none => refuseAdmission arBadManifest 0 s
    | none =>
      let b := readBytes s .iod a manifestBytes
      if manifestReserved b then refuseAdmission arBadManifest 0 s
      else match admitFailure s (manifestOf b) with
        | some (r, p) => refuseAdmission r p s
        | none => admitNow (manifestOf b) s

/-- R322: a write of 1 to WITHDRAW. -/
def admitWithdrawal (s : State) : State := if anyCtxActive s then s else withdraw s

/-- R321, R322: a write of ZB_ADMIT; which of REQ and WITHDRAW in one write goes first is open (log 37). -/
def writeAdmit (v : Word) (s : State) : State :=
  let req (s : State) : State := if v.getLsbD 0 then admitRequest s else s
  let wd (s : State) : State := if v.getLsbD 1 then admitWithdrawal s else s
  if v.getLsbD 0 && v.getLsbD 1 then
    let (i, s1) := choose 2 s
    if i = 0 then wd (req s1) else req (wd s1)
  else wd (req s)

/-- R321: REQ is written. -/
def execAdmitReq (s : State) : Answer := .next (bar0Write (zbBase + 0x3008) 1 (writeAdmit 1) s)

/-- R321: the admission check that runs ends. -/
def execAdmitCheckDone (s : State) : Answer := .next (if s.adm.state = 1 then admitCheck s else s)

/-- R322: WITHDRAW is written. -/
def execAdmitWithdraw (s : State) : Answer := .next (bar0Write (zbBase + 0x3008) 2 (writeAdmit 2) s)

end Sys2Proof.Machine
end

