-- ==== Sys2Proof/Machine/Bar2.lean ====
section
/-! DEFINITION. The BAR2 window (R174), zero-fill (R172), scrubbing (R181) and the return of read data (R180, R182). -/

namespace Sys2Proof.Machine

/-- R174: the device-local address of an offset in the BAR2 window. -/
def bar2Addr (s : State) (offset : BitVec 34) : Nat := s.mem.bar2Base.toNat * 2 ^ 34 + offset.toNat

/-- R174: the place that BAR2 reaches at an address: none for aliases, unpopulated addresses and a fenced die's memory. -/
def bar2Place (s : State) (a : Nat) : Option Place := (access s .bar2 a).filter fun p => !isFenced s p.die

/-- R172: the stack that a read must wait for: one whose zero-fill has not completed. -/
def unfilledAt (s : State) (a n : Nat) : Option Nat :=
  (List.range n).findSome? fun i =>
    match bar2Place s (a + i) with
    | some (.stack st x) => if s.mem.filled.get false st || underTest s (.stack st x) then none else some st
    | _ => none

/-- R179, R180, R184: a correctable error is corrected and counted. -/
def countCorrected (p : Place) (s : State) : State :=
  match p with
  | .stack st _ => { s with mem := { s.mem with ceStack := s.mem.ceStack.upd .reset st (·.add 1) } }
  | q => { s with mem := { s.mem with ceSram := s.mem.ceSram.upd .reset q.die (·.add 1) } }

/-- R183: SYMBOLS: 2, 3, or 0xFF for more than the code locates. -/
def symbolsOf (n : Byte) : Byte := if n = 2 ∨ n = 3 then n else 0xFF

/-- R179: a codeword is known to be uncorrectable, with the symbols in error. -/
def markBad (p : Place) (symbols : Byte) (s : State) : State :=
  { s with mem := { s.mem with bad := s.mem.bad.put 0 (codeword p.key) (symbolsOf symbols) } }

/-- R179, R180: a codeword is delivered, and written back, with other data than it held. -/
def miscorrect (p : Place) (bs : List Byte) (s : State) : State :=
  let ws := (bs.take (codewordLen p.key)).zipIdx.map fun (b, i) => (codeword p.key + i, b)
  countCorrected p { s with mem := putBytes s.mem ws }

/-- R179: what a codeword's code says of it: a codeword that is uncorrectable stays so until it is overwritten. -/
def eccOf (s : State) (p : Place) (e : Ecc) : Ecc :=
  if symbolsAt s.mem p != 0 then .uncorrectable (symbolsAt s.mem p) else e

/-- R179, R180: the codes of the codewords that a BAR2 read meets, by offset: a corrected one is counted, an uncorrectable one is
known from then on. -/
def checkBar2 (a n : Nat) (errors : List (Nat × Ecc)) (s : State) : State :=
  errors.foldl (fun s e =>
    match (if e.1 < n then bar2Place s (a + e.1) else none) with
    | none => s
    | some p =>
      if underTest s p then s
      else match eccOf s p e.2 with
        | .clean => s
        | .corrected => countCorrected p s
        | .miscorrected bs => miscorrect p bs s
        | .uncorrectable sy => markBad p sy s) s

/-- The state in which BAR2 reads follow the BAR2 writes that wait for a page (R377), as they do on PCIe. -/
def afterWrites (s : State) : State :=
  if s.ember.heldWrites.isEmpty then s else
    { s with mem := putBytes s.mem (s.ember.heldWrites.filterMap fun h => if h.owner.isNone then some (h.key, h.byte) else none) }

/-- R182, R174, R437: a BAR2 read that is served: its data, 0 where it is under test, or Completer Abort with a log entry. -/
def serveBar2 (a n : Nat) (errors : List (Nat × Ecc)) (tag : Nat) (s : State) : State :=
  let s := checkBar2 a n errors s
  let bad := (List.range n).findSome? fun i =>
    match bar2Place s (a + i) with
    | some p => if !underTest s p && s.mem.bad.get 0 (codeword p.key) != 0 then some (a + i, p) else none
    | none => none
  match bad with
  | some (x, p) => emit (.pcieAbort tag) (logMemErr x p 3 7 0xFFFF (symbolsAt s.mem p) s).2
  | none =>
    emit (.pcieData tag ((List.range n).map fun i =>
      match bar2Place s (a + i) with
      | some p => if underTest s p then 0 else byteAt (afterWrites s).mem p.key
      | none => 0)) s

/-- R172, R174: a BAR2 read waits for the first stack that it touches and that is not yet zero-filled, or is served. -/
def readBar2 (a n : Nat) (errors : List (Nat × Ecc)) (tag : Nat) (s : State) : State :=
  match unfilledAt s a n with
  | some st =>
    { s with mem := { s.mem with heldReads := s.mem.heldReads ++
        [{ stack := st, addr := BitVec.ofNat 44 a, len := n, errors := errors, tag := tag }] } }
  | none => serveBar2 a n errors tag s

/-- R172, R174, R180, R182: a BAR2 read, with what the code says of the bytes at the offsets in `errors`; one of a stack that is not yet zero-filled waits. -/
def execBar2Read (offset : BitVec 34) (len : Nat) (errors : List (Nat × Ecc)) (tag : Nat) (s : State) : Answer :=
  .next <|
    if !inService s then s else readBar2 (bar2Addr s offset) len errors tag s

/-- R170: an address of the reserved region. -/
def inReserved (s : State) (a : Nat) : Bool :=
  decide (a < sramBase) && !kindlingMap s && decide (dieStackBytes ≤ a % dieSpan + reservedBytes s)

/-- R170, R174, R437: the bytes of a BAR2 write that are stored. -/
def bar2Stores (s : State) (a : Nat) (bs : List Byte) : List (Nat × Byte) :=
  (addressed a bs).filter fun x => (bar2Place s x.1).any (fun p => !underTest s p) && !inReserved s x.1

/-- R174, R380: a BAR2 write at a device-local address. -/
def writeBar2 (a : Nat) (bs : List Byte) (s : State) : State := storeReceived .bar2 (bar2Stores s a bs) s

/-- R174, R380: a BAR2 write. -/
def execBar2Write (offset : BitVec 34) (bytes : List Byte) (s : State) : Answer :=
  .next <|
    if !inService s then s else
      let a := bar2Addr s offset
      writeBar2 a bytes (logEvent lkBar2w (leBytes 8 a ++ bytes) s)

/-- R181: the scrubber reads a codeword. -/
def execScrub (addr : BitVec 44) (ecc : Ecc) (s : State) : Answer :=
  .next <|
    match placeOf s addr.toNat with
    | none => s
    | some p =>
      let ready := match p with
        | .stack st _ => s.mem.filled.get false st
        | _ => true
      if !inService s || !ready || isFenced s p.die then s
      else match eccOf s p ecc with
        | .clean => s
        | .corrected => countCorrected p s
        | .miscorrected bs => miscorrect p bs s
        | .uncorrectable sy => (logMemErr addr.toNat p 2 7 0xFFFF (symbolsOf sy) (markBad p sy s)).2

/-- R183: SOURCE of a read by a descriptor. -/
def readSource (d : Desc) : Nat :=
  match d.op with
  | some .heOp | some .optStep => 4
  | _ => 0

/-- The target whose module core number is given, for a descriptor. -/
def targetOfCore (d : Desc) (core : Nat) : Target :=
  if hUnit d.bytes < 4 then .core (core / 96) (core % 96)
  else match d.copies.head? with
    | some c => c.target
    | none => .host

/-- R180, R182: data that a running descriptor's copy read returns. -/
def execMemReadReturn (d : Ref) (core : Nat) (addr : BitVec 44) (ecc : Ecc) (s : State) : Answer :=
  .next <|
    match findDesc s d with
    | none => s
    | some x =>
      let t := targetOfCore x core
      let rq : Requester := match t with
        | .core n k => .core n k
        | _ => .iod
      match copyAt x t, (resolveAlias rq addr.toNat).bind (placeOf s) with
      | some c, some p =>
        if x.outcome.isSome || !c.st.busy || isFenced s p.die then s
        else match eccOf s p ecc with
          | .clean => s
          | .corrected => countCorrected p s
          | .miscorrected bs => miscorrect p bs s
          | .uncorrectable sy => memUncorrectable d t addr.toNat p (readSource x) (symbolsOf sy) (markBad p sy s)
      | _, _ => s

end Sys2Proof.Machine
end

