-- ==== Sys2Proof/Machine/Collectives.lean ====
section
/-! DEFINITION. COLLECTIVE (R324 to R335): member lists and blocks (R326, R327), pieces on the slot streams (R328), RING and
DIRECT transfers (R329, R330), ALL_TO_ALL (R331), PUT and GET (R332), early data, acceptance, mismatch and refusal (R333). -/

namespace Sys2Proof.Machine

/-! ### The body, R324 -/

def collDirect (d : Desc) : Bool := d.fld 16 4 1 == 1
def collRnd (d : Desc) : Nat := d.fld 16 6 2
def collOvf (d : Desc) : Nat := d.fld 16 8 2
def collFmt (d : Desc) : Nat := d.fld 16 10 4
def collSlot (d : Desc) : Nat := d.fld 16 14 3
def collVc (d : Desc) : Nat := d.fld 16 17 3
def collBuf (d : Desc) : Nat := d.fld 24 0 44
def collCount (d : Desc) : Nat := d.fld 48 0 40
def collWidth (d : Desc) : Nat := fmtBits (collFmt d) / 8

/-- R325: FMT is among those that OP accepts. -/
def collFmtOk (d : Desc) : Bool := if collOp d ≤ 1 then decide (collFmt d ≤ 2) else queueFmt (collFmt d)

/-! ### Member lists and owner tables -/

/-- R326, R334, R352: a member list that fails its check; `least` is the least number of members. -/
def memberListBad (s : State) (a least : Nat) : Bool :=
  if !recordOk s .iod a 2 64 then true else
    let n := fieldAt (readBytes s .iod a 2) 0 0 14 + 1
    if !inReach s .iod a (2 + 2 * n) then true else
      let b := readBytes s .iod a (2 + 2 * n)
      let ps := memberList s a
      (List.range (n + 1)).any (fun i => fieldAt b (2 * i) 14 2 != 0) || decide (n < least)
        || ps.eraseDups.length != n || !ps.contains (strapPos s)

/-- R334: a member lies in a group that is not reached. -/
def memberUnreached (s : State) (a : Nat) : Bool := (memberList s a).any fun p => (groupPorts s p).isEmpty

/-- R199, R200: an owner table of rank 1 and a format whose extent is `count` where one is given, apart from its LOCAL_TDs. Extents of
dimensions at RANK and above are to be 0, those below it not; ORIGIN at RANK and above is not looked at (log 94). -/
def ownerTableBad (s : State) (a fmt : Nat) (count : Option Nat) : Bool :=
  if !recordOk s .iod a 64 64 then true
  else if !inReach s .iod a (64 + 64 * ownerCount s a) then true
  else
    let h := readBytes s .iod a 64
    let gext := fieldAt h 8 0 24
    let es := ownerEntries s a
    let entryBad (e : Nat) : Bool :=
      let b := readBytes s .iod (a + 64 + 64 * e) 64
      anySet b 21 15 || fieldAt b 36 14 2 != 0 || anySet b 38 2 || fieldAt b 40 44 20 != 0 || anySet b 48 16
    fieldAt h 0 16 3 != 1 || fieldAt h 0 19 4 != fmt || fieldAt h 0 23 9 != 0 || anySet h 4 4 || anySet h 11 53
      || (List.range es.length).any entryBad || es.any (fun e => e.len == 0 || decide (gext < e.origin + e.len))
      || (es.map (·.len)).sum != gext || (match count with | some c => gext != c | none => false)

/-- R331: the receive table of an ALL_TO_ALL: an owner table whose LOCAL_TDs all lie on this module. -/
def receiveTableBad (s : State) (a fmt : Nat) : Bool :=
  ownerTableBad s a fmt none ||
    let gext := fieldAt (readBytes s .iod a 64) 8 0 24
    (ownerEntries s a).any fun e =>
      match readTd s .iod true e.td with
      | none => true
      | some t =>
        t.fmt != fmt || t.ext != [e.len] ||
          (fieldAt (readBytes s .iod e.td 64) 0 54 1 == 1 && (t.gext != [gext] || t.origin != [e.origin]))

/-- R327: a block: its entry number, the rank of its owner, and its region. -/
structure CBlock where
  entry : Nat
  owner : Nat
  origin : Nat
  len : Nat
deriving DecidableEq, Repr

/-- The rank of a position. -/
def rankOf (ps : List Nat) (p : Nat) : Nat := ps.findIdx (· == p)

/-- R327: the blocks of a COLLECTIVE, by the records as it read them. -/
def collBlocks (s : State) (d : Desc) : List CBlock :=
  let v := withSnap d s
  let ps := memberList v (collList d)
  if collOp d = 3 then [{ entry := 0, owner := 0, origin := 0, len := collCount d }]
  else if collTable d = 0 then
    (List.range ps.length).map fun r =>
      let (o, n) := shareOf (collCount d) ps.length r
      { entry := r, owner := r, origin := o, len := n }
  else (ownerEntries v (collTable d)).zipIdx.map fun (e, i) =>
    { entry := i, owner := rankOf ps e.pos, origin := e.origin, len := e.len }

/-- R328: the pieces of a block's region. -/
def blockPieces (d : Desc) (b : CBlock) : Nat := ceilDiv (b.len * collWidth d) 4096

/-- R328: the bytes of piece `i` of a block's region. -/
def pieceLen (d : Desc) (b : CBlock) (i : Nat) : Nat := min 4096 (b.len * collWidth d - 4096 * i)

/-- R327: the address of piece `i` of a block's region in BUF. -/
def pieceAddr (d : Desc) (b : CBlock) (i : Nat) : Nat := collBuf d + b.origin * collWidth d + 4096 * i

/-! ### Checks, R334 -/

/-- R334: the conditions of a COLLECTIVE that fail, in order. -/
def collChecks (s : State) (d : Desc) : List (Nat × Bool) :=
  let op := collOp d
  let n := collCount d * collWidth d
  let far := collFar d
  let inStackRun := match access s .iod (collBuf d) with | some (.stack _ _) => true | _ => false
  let tableBad : Bool :=
    if collTable d = 0 then op == 4
    else ownerTableBad s (collTable d) (collFmt d) (some (collCount d)) ||
      (ownerEntries s (collTable d)).any fun e => !(memberList s (collList d)).contains e.pos
  let farBad : Bool :=
    if op = 5 ∨ op = 6 then
      d.fld 56 58 6 != 0 || (groupPorts s (far / 2 ^ 44)).isEmpty
    else if op = 4 then d.fld 56 0 44 == 0 || d.fld 56 44 20 != 0 || receiveTableBad s (d.fld 56 0 44) (collFmt d)
    else d.fld 56 0 64 != 0
  [(16, d.fld 16 5 1 != 0 || d.fld 16 20 12 != 0 || decide (6 < op) || decide (2 ≤ collRnd d) || collOvf d == 3
      || !collFmtOk d || !s.adm.admitted),
   (24, rsv44 d 24 || collBuf d % 64 != 0 || !inReach s .iod (collBuf d) n || !inStackRun),
   (32, rsv44 d 32 || decide (op ≤ 4) && (memberListBad s (collList d) 2 || memberUnreached s (collList d))),
   (40, rsv44 d 40 || (decide (op ≤ 2) || op == 4) && tableBad),
   (48, d.fld 48 40 24 != 0 || collCount d == 0 || (decide (5 ≤ op) && decide (2 ^ 32 < n))),
   (56, farBad)]

/-! ### The running COLLECTIVE -/

def setRun (x : Option CollRun) (s : State) : State := { s with coll := { s.coll with run := x } }

/-- The run whose descriptor has not ended. -/
def liveRun (s : State) : Option CollRun :=
  s.coll.run.filter fun x =>
    match findDesc s x.ref with
    | none => false
    | some d => d.outcome.isNone && d.copies.any fun c => c.st != .done && c.st != .stopped && (c.report.isNone)

/-- The INSTANCE that the next COLLECTIVE of a slot takes, and the state with it taken (R328). -/
def takeInst (slot : Nat) (s : State) : Word × State :=
  let n := s.coll.inst.get 0 slot
  (n, { s with coll := { s.coll with inst := s.coll.inst.put 0 slot (n + 1) } })

/-- A run of a descriptor that has begun. -/
def newRun (r : Ref) (exchange : Bool) (slot : Nat) (inst : Word) (op : Nat) (now : DWord) : CollRun :=
  { ref := r, exchange := exchange, slot := slot, inst := inst, op := op, want := [], sent := [], reply := false, waited := 0,
    bad := none, nf := none, heard := false, lastPos := 0, lastSide := false, lastAt := 0, lastSend := now, collisions := 0, collPort := 0,
    reports := [] }

/-- R335: DETAIL of a COLLECTIVE that collided. -/
def collisionDetail (x : CollRun) : Nat := hold 0xFFFF x.collisions + at' x.collPort 16

/-- R337: IOD_COLL_LAST of a COLLECTIVE that has completed; peer and margin of one that received nothing are open (log 11). -/
def setLast (x : CollRun) (s : State) : State :=
  let margin := if x.lastSend.toNat ≤ x.lastAt.toNat then x.lastAt.toNat - x.lastSend.toNat else 0
  let (k, s1) := if x.heard then (0, s) else drawFree s
  { s1 with lag := { s1.lag with
      lastPeer := if x.heard then x.lastPos else BitVec.ofNat 14 k, lastSide := if x.heard then x.lastSide else bitOf k 14,
      lastValid := s1.lag.lastValid || x.collisions == 0,
      lastMargin := BitVec.ofNat 32 (if x.heard then hold 0xFFFFFFFF margin else k / 2 ^ 15) } }

/-- R90: the first non-finite value that a run has written, as its record gives it. -/
def CollRun.nfWord (x : CollRun) : Option Word := x.nf.map fun (o, k) => nfAt o k

/-- R90, R333: the run ends early with a report, beside which stands what it has written; a COLLECTIVE's copy is done, a GUARD_VERDICT's
wait ends. -/
def stopRun (x : CollRun) (rep : Report) (s : State) : State :=
  let s1 := setRun none s
  if x.exchange then endWait x.ref .guard rep s1 else finishCopy x.ref .collective { rep with nf := x.nfWord } s1

/-- R333, R335, R337, R346: where nothing is left to receive and every message is accepted, the COLLECTIVE is done; so is an exchange that
a mismatch has spoilt. -/
def endColl (s : State) : State :=
  match liveRun s with
  | none => s
  | some x =>
    if !x.want.isEmpty || !x.sent.isEmpty || x.reply then s else
      match x.bad with
      | some off => stopRun x (Report.of stDescInvalid off) s
      | none =>
        if x.exchange then s else
          let s2 := setLast x (setRun none s)
          let s3 := if x.collisions = 0 then s2 else setDetailAll x.ref (collisionDetail x) s2
          finishCopy x.ref .collective (ranReport x.waited x.nfWord) s3

/-! ### Sending -/

/-- R328: one piece goes to a member: a message takes its MSEQ with its first piece. -/
def sendChunk (slot inst op vc : Nat) (dst : Nat) (block : Nat) (phase : Bool) (i n : Nat) (data : List Byte) (s : State) : State :=
  let st := 0x100 + 16 * slot + i % 16
  let k := sendKey dst 0 st
  let (q, s1) := if i < 16 then takeSeq k s else (s.link.sendSeq.get 0 k - 1, s)
  let p := mkPacket s1 6 vc dst 0 st q (block + at' (bit phase) 16 + at' op 28) inst (i / 16 * 4096) (decide (n ≤ i + 16)) data
  let s2 := retain [p] (sendAll [p] s1)
  match s2.coll.run with
  | none => s2
  | some x =>
    let x1 := { x with lastSend := s2.ft.ft, sent := if i < 16 then x.sent ++ [(dst, st, q)] else x.sent }
    setRun (some x1) s2

/-- R328, R182: piece `i` of a block's region is read and sent to a rank. -/
def sendPiece (d : Desc) (x : CollRun) (ps : List Nat) (rank : Nat) (phase : Bool) (b : CBlock) (i : Nat) (s : State) : State :=
  let a := pieceAddr d b i
  let n := pieceLen d b i
  match badRead s .iod ((List.range n).map (a + ·)) with
  | some (z, p) => memUncorrectable d.ref .collective z p 0 (symbolsAt s.mem p) s
  | none => sendChunk x.slot x.inst.toNat x.op (collVc d) (ps.getD rank 0) b.entry phase i (blockPieces d b) (readBytes s .iod a n) s

/-- R328: a whole region is sent to a rank. -/
def sendRegion (d : Desc) (x : CollRun) (ps : List Nat) (rank : Nat) (phase : Bool) (b : CBlock) (s : State) : State :=
  (List.range (blockPieces d b)).foldl (fun s i => sendPiece d x ps rank phase b i s) s

/-- R329 to R331: the transfers that a member must receive. -/
def expected (d : Desc) (ps : List Nat) (me : Nat) (bs : List CBlock) (recv : List OwnerEntry) : List Xfer :=
  let np := ps.length
  let prev := (me + np - 1) % np
  let others := (List.range np).filter (· != me)
  let op := collOp d
  let xs := bs.flatMap fun b =>
    let n := blockPieces d b
    let x (r : Nat) (ph : Bool) : Xfer := { src := r, block := b.entry, phase := ph, left := n }
    if op = 4 then
      if b.owner = me then
        let k := (bs.filter fun c => c.owner == me && decide (c.entry < b.entry)).length
        (others.filter fun r => decide (k < (recv.filter fun e => e.pos == ps.getD r 0).length)).map fun r => x r true
      else []
    else if collDirect d then
      (if op ≤ 1 ∧ b.owner = me then others.map fun r => x r false else [])
        ++ (if op ≠ 1 ∧ b.owner ≠ me then [x b.owner true] else [])
    else
      (if op ≤ 1 ∧ me ≠ (b.owner + 1) % np then [x prev false] else [])
        ++ (if op ≠ 1 ∧ b.owner ≠ me then [x prev true] else [])
  xs.filter fun x => x.left != 0

/-- R329 to R331: the regions that a member sends at its start: the rank, PHASE and block of each. -/
def firstSends (d : Desc) (np me : Nat) (bs : List CBlock) : List (Nat × Bool × CBlock) :=
  let others := (List.range np).filter (· != me)
  let next := (me + 1) % np
  let op := collOp d
  bs.flatMap fun b =>
    if op = 4 then (if b.owner = me then [] else [(b.owner, true, b)])
    else if collDirect d then
      if op ≤ 1 then (if b.owner = me then [] else [(b.owner, false, b)])
      else (if b.owner = me then others.map fun r => (r, true, b) else [])
    else if op ≤ 1 then (if me = (b.owner + 1) % np then [(next, false, b)] else [])
    else (if b.owner = me then [(next, true, b)] else [])

/-! ### Pieces received -/

/-- R331: the receive block that takes a block of a source: the entry of the receive table. -/
def receiveBlock (s : State) (d : Desc) (ps : List Nat) (me src : Nat) (bs : List CBlock) (b : CBlock) : Option OwnerEntry :=
  let k := (bs.filter fun c => c.owner == me && decide (c.entry < b.entry)).length
  ((ownerEntries (withSnap d s) (d.fld 56 0 44)).filter fun e => e.pos == ps.getD src 0)[k]?

/-- Elements of a piece, raw. -/
def rawElems (w : Nat) (data : List Byte) : List Nat :=
  (List.range (data.length / max 1 w)).map fun i => leNat ((data.drop (i * w)).take w)

/-- R67, R90: raw elements written to a run from an address on, numbered from an index of the run; a NaN is written as its canonical one. -/
def runWrites (d : Desc) (a o : Nat) (xs : List Nat) : List EWrite :=
  let r : Run := { base := a, fmt := collFmt d, count := xs.length, rd := false, wr := true }
  xs.zipIdx.map fun (raw, k) =>
    r.write k (canonical r.fmt raw) (o + k) (if r.fmt = 8 then none else nfKind (decodeF (fmtOf r.fmt) raw))

/-- R325, R333: what a piece changes in BUF. -/
def pieceWrites (s : State) (d : Desc) (b : CBlock) (phase : Bool) (i : Nat) (data : List Byte) : List EWrite :=
  let w := collWidth d
  let a := pieceAddr d b i
  let o := b.origin + 4096 * i / max 1 w
  let xs := rawElems w data
  if phase then runWrites d a o xs
  else reduceAddWrites s a (collFmt d) (if collRnd d = 1 then .rz else .rne) (collOvf d) (xs.map (decodeF (fmtOf (collFmt d)))) o

/-- R331: what a piece changes in a receive block. -/
def receiveWrites (s : State) (d : Desc) (e : OwnerEntry) (i : Nat) (data : List Byte) : List EWrite :=
  match readTd (withSnap d s) .iod true e.td with
  | none => []
  | some t =>
    let w := collWidth d
    let o := 4096 * i / max 1 w
    (rawElems w data).zipIdx.filterMap fun (raw, k) =>
      if o + k < e.len then some (t.writeRaw (toInts [o + k]) (canonical t.fmt raw) (e.origin + o + k)) else none

/-- The lower of two non-finite values by its ordinal. -/
def lowerOf (a b : Option (Nat × Nat)) : Option (Nat × Nat) :=
  match a, b with
  | some x, some y => if y.1 < x.1 then some y else some x
  | none, y => y
  | x, none => x

/-- The lowest non-finite value of some writes. -/
def lowestOf (ws : List EWrite) : Option (Nat × Nat) := ws.foldl (fun m w => lowerOf m w.nf) none

/-- R90: the run has written some elements. -/
def noteWrites (ws : List EWrite) (s : State) : State :=
  match s.coll.run with
  | some x => setRun (some { x with nf := lowerOf x.nf (lowestOf ws) }) s
  | none => s

/-- R182, R333: data that another member sent, written: what is dropped is logged, and the COLLECTIVE goes on. -/
def storeArrived (d : Desc) (ws : List EWrite) (s : State) : State :=
  noteWrites ws (storePiece false d.ref .collective (mergeWrites s .iod ws) s)

/-- R182: data of this module that a COLLECTIVE reads and writes within it. -/
def storeOwn (d : Desc) (reads : List Nat) (ws : List EWrite) (s : State) : State :=
  match badRead s .iod reads with
  | some (a, p) => memUncorrectable d.ref .collective a p 0 (symbolsAt s.mem p) s
  | none => noteWrites ws (storeBy d.ref .collective .iod (mergeWrites s .iod ws) s)

/-- R182, R222, R238, R333: a piece is added to its region by the Hearth engines, which read it first and count their work. -/
def reducePiece (d : Desc) (a : Nat) (data : List Byte) (ws : List EWrite) (s : State) : State :=
  match badRead s .iod ((List.range data.length).map (a + ·)) with
  | some (z, p) => memUncorrectable d.ref .collective z p 4 (symbolsAt s.mem p) s
  | none =>
    let (k, s1) := drawFree s
    let r : Run := { base := a, fmt := collFmt d, count := data.length / max 1 (collWidth d), rd := true, wr := true }
    noteWrites ws (storePiece true d.ref .collective (mergeWrites s .iod ws) (countHearth k 512 true [[r]] s1))

/-- R333: a MACK of a message. -/
def sendMack (pos stream vc : Nat) (q : Word) (s : State) : State := sendAll [mkPacket s 13 vc pos 0 stream q 0 0 0 true []] s

/-- R328: the stream of a piece. -/
def Chunk.stream (c : Chunk) : Nat := 0x100 + 16 * c.slot + c.piece % 16

/-- R333: early data waits. -/
def holdEarly (c : Chunk) (s : State) : State := { s with coll := { s.coll with early := s.coll.early ++ [c] } }

/-- R328: ARG0 of a piece. -/
def Chunk.arg0 (c : Chunk) : Nat := c.block + at' (bit c.phase) 16 + at' c.op 28

/-- R333, R386: the last piece of a message has been added or written: the message is accepted and a MACK goes out, for a linked
active member once LOG_ACK covers it. -/
def acceptChunk (c : Chunk) (s : State) : State :=
  if acceptWaits s then
    awaitAck (.chunk (mkPacket s 13 c.vc c.srcPos.toNat 0 c.stream c.mseq 0 0 0 true [])) s
  else sendMack c.srcPos.toNat c.stream c.vc c.mseq s

/-- R389: the stream of a replayed piece counts it. -/
def countReplayed (c : Chunk) (last : Bool) (s : State) : State :=
  if c.seen then s else
    let k := streamKey c.srcPos.toNat c.srcSide c.stream
    let x := streamOf s k
    setStream k (if last then { x with isOpen := true, mseq := x.mseq + 1, offset := 0 }
                 else { x with isOpen := true, offset := c.piece / 16 * 4096 + c.data.length }) s

/-- R380: the log entry of a collective piece. -/
def logChunk (c : Chunk) (off : Nat) (s : State) : State :=
  logEvent lkChunk (leBytes 4 c.slot ++ leBytes 4 c.inst.toNat ++ leBytes 4 c.arg0
    ++ leBytes 4 (c.srcPos.toNat + at' (bit c.srcSide) 14) ++ leBytes 8 off ++ c.data) s

/-- R333: a CHUNK that no transfer expects. -/
def mismatch (s : State) : State :=
  match s.coll.run with
  | some x => setRun (some { x with bad := some (x.bad.getD 40) }) s
  | none => s

/-- R329, R330: what a member sends on once a piece has been added or written. -/
def forwards (d : Desc) (np me : Nat) (b : CBlock) (phase : Bool) (i : Nat) (blockDone : Bool) : List (Nat × Bool × Nat) :=
  let next := (me + 1) % np
  let op := collOp d
  let others := (List.range np).filter (· != me)
  if op = 4 then []
  else if collDirect d then
    if !phase && op == 0 && b.owner == me && blockDone then
      others.flatMap fun r => (List.range (blockPieces d b)).map fun k => (r, true, k)
    else []
  else if !phase then
    if b.owner = me then (if op = 0 then [(next, true, i)] else []) else [(next, false, i)]
  else if next = b.owner then [] else [(next, true, i)]

/-- R331: a block that does not fit its receive block is refused with reason 5; the receiver completes with DESC_INVALID 56
after its other work. -/
def misfit (c : Chunk) (s : State) : State :=
  let s1 := match s.coll.run with
    | some x => setRun (some { x with bad := some (x.bad.getD 56) }) s
    | none => s
  undeliverable 6 c.srcPos.toNat c.srcSide c.stream c.mseq 1 5 s1

/-- R333: a piece that a transfer expects is added or written, logged, accepted with its message, and sent on. -/
def takePiece (d : Desc) (x : CollRun) (ps : List Nat) (me src : Nat) (bs : List CBlock) (b : CBlock) (c : Chunk) (s : State) : State :=
  let last := decide (blockPieces d b ≤ c.piece + 16)
  let want := x.want.filterMap fun y =>
    if y.src = src ∧ y.block = c.block ∧ y.phase = c.phase then
      (if y.left ≤ 1 then none else some { y with left := y.left - 1 })
    else some y
  let x1 := { x with want := want, heard := true, lastPos := c.srcPos, lastSide := c.srcSide, lastAt := s.ft.ft }
  let s1 := countReplayed c last (setRun (some x1) s)
  if x.op = 4 then
    match receiveBlock s1 d ps me src bs b with
    | none => s1
    | some e =>
      let w := collWidth d
      let tooLong := decide (e.len * w < 4096 * c.piece + c.data.length)
      let (k, s2) := drawFree s1
      let ws := receiveWrites s2 d e c.piece c.data
      let s3 := storeArrived d (if tooLong then someOf k ws else ws)
        (if tooLong then s2 else logChunk c (b.origin * w + 4096 * c.piece) s2)
      if tooLong || (last && b.len != e.len) then misfit c s3
      else if last then acceptChunk c s3 else s3
  else
    let s2 := logChunk c (b.origin * collWidth d + 4096 * c.piece) s1
    let ws := pieceWrites s2 d b c.phase c.piece c.data
    let s3 := if c.phase then storeArrived d ws s2 else reducePiece d (pieceAddr d b c.piece) c.data ws s2
    let s4 := if last then acceptChunk c s3 else s3
    let blockDone := !want.any fun y => y.block == c.block && !y.phase
    (forwards d ps.length me b c.phase c.piece blockDone).foldl (fun s (r, ph, k) =>
      match s.coll.run with
      | some x => sendPiece d x ps r ph b k s
      | none => s) s4

/-- R325, R331: the addresses that a piece changes. -/
def pieceTarget (s : State) (d : Desc) (c : Chunk) : List Nat :=
  let ps := memberList (withSnap d s) (collList d)
  let bs := collBlocks s d
  match bs.find? fun b => b.entry == c.block with
  | none => []
  | some b =>
    if collOp d = 4 then
      match receiveBlock s d ps (rankOf ps (strapPos s)) (rankOf ps c.srcPos.toNat) bs b with
      | some e => (mergeWrites s .iod (receiveWrites s d e c.piece c.data)).map (·.1)
      | none => []
    else (List.range c.data.length).map (pieceAddr d b c.piece + ·)

/-- R333, R377: a piece has to wait: its region lies on an ember page that is yet to be copied, or an earlier piece of its stream waits. -/
def pieceWaits (s : State) (d : Desc) (x : CollRun) (c : Chunk) : Bool :=
  (s.coll.early.any fun e => e.slot == x.slot && e.inst == x.inst && e.srcPos == c.srcPos && e.stream == c.stream)
    || (pieceTarget s d c).any fun a => writeWaits s a 1

/-- R346: a report of another member arrives. -/
def takeReport (x : CollRun) (src : Nat) (c : Chunk) (s : State) : State :=
  let s1 := setRun (some { x with
      want := x.want.filter fun y => y.src != src, reports := x.reports ++ [(src, padTo 32 c.data)],
      heard := true, lastPos := c.srcPos, lastSide := c.srcSide, lastAt := s.ft.ft }) s
  acceptChunk c (logChunk c 0 (countReplayed c true s1))

/-- R345: the member list of a GUARD_VERDICT. -/
def verdictMembers (s : State) (d : Desc) : List Nat := memberList (withSnap d s) (d.fld 16 0 44)

/-- R333, R335, R377: a piece whose INSTANCE is that of the running COLLECTIVE; one that has to wait is kept with the early data. -/
def judgePiece (x : CollRun) (d : Desc) (c : Chunk) (s : State) : State :=
  let s := if c.collided then
      updDesc x.ref (fun d => { d with collided := true })
        (setRun (some { x with collisions := x.collisions + 1, collPort := if x.collisions = 0 then c.port else x.collPort }) s)
    else s
  let x := s.coll.run.getD x
  let ps := if x.exchange then verdictMembers s d else memberList (withSnap d s) (collList d)
  let src := rankOf ps c.srcPos.toNat
  let wanted := x.want.any fun y => y.src == src && y.block == c.block && y.phase == c.phase
  if c.op != x.op || !wanted then mismatch s
  else if x.exchange then (if c.piece = 0 then takeReport x src c s else mismatch s)
  else
    let bs := collBlocks s d
    match bs.find? fun b => b.entry == c.block with
    | none => mismatch s
    | some b =>
      if c.piece < blockPieces d b ∧ c.data.length = pieceLen d b c.piece then
        if pieceWaits s d x c then holdEarly { c with collided := false } s
        else takePiece d x ps (rankOf ps (strapPos s)) src bs b c s
      else mismatch s

/-- R333: a piece is processed, held as early data, or a mismatch. -/
def applyChunk (c : Chunk) (s : State) : State :=
  match liveRun s with
  | none => holdEarly c s
  | some x =>
    if x.slot != c.slot || decide (4 < x.op) then holdEarly c s
    else match serial x.inst c.inst, findDesc s x.ref with
      | .ahead _, _ => holdEarly c s
      | .past _, _ => endColl (mismatch s)
      | .reached, some d => endColl (judgePiece x d c s)
      | .reached, none => s

/-- R333: the early data of a COLLECTIVE that has begun is processed. -/
def replayEarly (slot : Nat) (inst : Word) (s : State) : State :=
  let mine (c : Chunk) : Bool := c.slot == slot && c.inst == inst
  let cs := s.coll.early.filter mine
  cs.foldl (fun s c => applyChunk c s) { s with coll := { s.coll with early := s.coll.early.filter fun c => !mine c } }

/-- R377: the waiting pieces of the running COLLECTIVE. -/
def heldPieces (s : State) : List Chunk :=
  match liveRun s with
  | none => []
  | some x => s.coll.early.filter fun c => c.slot == x.slot && c.inst == x.inst

/-- R377: the addresses that the waiting pieces of the running COLLECTIVE change. -/
def heldTargets (s : State) : List Nat :=
  match (liveRun s).bind fun x => findDesc s x.ref with
  | none => []
  | some d => (heldPieces s).flatMap (pieceTarget s d)

/-- R377: the waiting pieces of the running COLLECTIVE proceed as far as they may. -/
def takeHeld (s : State) : State :=
  match liveRun s with
  | some x => if (heldPieces s).isEmpty then s else replayEarly x.slot x.inst s
  | none => s

/-- R301, R328: the piece that a CHUNK packet carries. -/
def chunkOf (port : Nat) (collided : Bool) (p : Packet) : Chunk :=
  { slot := (p.stream.toNat - 0x100) / 16, inst := p.arg1.setWidth 32, op := bitsOf p.arg0.toNat 28 4,
    block := p.arg0.toNat % 65536, phase := bitOf p.arg0.toNat 16, srcPos := p.srcPos, srcSide := p.srcSide,
    piece := p.stream.toNat % 16 + 16 * (p.offset.toNat / 4096), data := p.payload, mseq := p.mseq, vc := p.vc, port := port,
    collided := collided, seen := true }

/-! ### Starting -/

/-- R331: some entry of the receive table has no block of its source to fill it. -/
def someUnfilled (ps : List Nat) (me : Nat) (bs : List CBlock) (recv : List OwnerEntry) : Bool :=
  let k := (bs.filter fun b => b.owner == me).length
  (ps.any fun p => decide (k < (recv.filter fun e => e.pos == p).length)) || recv.any fun e => !ps.contains e.pos

/-- R325 to R331: a COLLECTIVE of OP 0 to 4 begins: its records are read, its INSTANCE taken, its first regions sent, what it sends
to itself written, and early data processed. -/
def startColl (d : Desc) (s : State) : State :=
  let (inst, s1) := takeInst (collSlot d) s
  let v := withSnap d s1
  let ps := memberList v (collList d)
  let me := rankOf ps (strapPos s1)
  let bs := collBlocks s1 d
  let recv := if collOp d = 4 then ownerEntries v (d.fld 56 0 44) else []
  let x := { newRun d.ref false (collSlot d) inst (collOp d) s1.ft.ft with want := expected d ps me bs recv,
                                                                                bad := if someUnfilled ps me bs recv then some 56 else none }
  let s2 := setRun (some x) s1
  let s3 := (firstSends d ps.length me bs).foldl (fun s (r, ph, b) => sendRegion d x ps r ph b s) s2
  let own (b : CBlock) (s : State) : State :=
    match receiveBlock s d ps me me bs b with
    | none => s
    | some e =>
      let n := b.len * collWidth d
      let a := collBuf d + b.origin * collWidth d
      let s1 := if b.len = e.len then s else
        match s.coll.run with
        | some x => setRun (some { x with bad := some (x.bad.getD 56) }) s
        | none => s
      storeOwn d ((List.range n).map (a + ·)) (receiveWrites s1 d e 0 (readBytes s1 .iod a n)) s1
  let s4 := if collOp d = 4 then (bs.filter fun b => b.owner == me).foldl (fun s b => own b s) s3 else s3
  endColl (replayEarly (collSlot d) inst s4)

/-- R332: the local address lies wholly in tensor memory or a shelf, of a die that is not fenced. -/
def farReach (s : State) (a n : Nat) : Bool :=
  inReach s .iod a n && (match access s .iod a with | some p => !isFenced s p.die | none => false)

/-- The run BUF of a COLLECTIVE. -/
def bufLen (d : Desc) : Nat := collCount d * collWidth d
def bufBlock (d : Desc) : CBlock := { entry := 0, owner := 0, origin := 0, len := collCount d }

/-- R182: an uncorrectable codeword in BUF, or a step that goes on. -/
def withBuf (d : Desc) (a : Nat) (f : List Byte → State → State) (s : State) : State :=
  match badRead s .iod ((List.range (bufLen d)).map (a + ·)) with
  | some (z, p) => memUncorrectable d.ref .collective z p 0 (symbolsAt s.mem p) s
  | none => f (readBytes s .iod a (bufLen d)) s

/-- R332, R337: a PUT or GET to the own position: one run is written from the other. -/
def copyRun (d : Desc) (op src dst : Nat) (s : State) : State :=
  if farReach s (collFar d % 2 ^ 44) (bufLen d) then
    let s1 := setRun (some (newRun d.ref false (collSlot d) 0 op s.ft.ft)) s
    let reads := (List.range (bufLen d)).map (src + ·)
    endColl (storeOwn d reads (runWrites d dst 0 (rawElems (collWidth d) (readBytes s .iod src (bufLen d)))) s1)
  else invalid d.ref 56 s

/-- R332: a PUT or GET runs, and its member owes it an answer. -/
def ask (pos : Nat) (q : Word) (d : Desc) (nf : Option (Nat × Nat)) (s : State) : State :=
  let x := { newRun d.ref false (collSlot d) 0 (collOp d) s.ft.ft with reply := true, nf := nf }
  setRun (some x) { s with coll := { s.coll with
    asked := s.coll.asked ++ [{ pos := pos, seq := q, ref := d.ref, far := BitVec.ofNat 64 (collFar d), get := collOp d == 6 }] } }

/-- R309: the virtual channel of the stream of remote accesses toward a position, which its first packet chose (log 97). -/
def takeVc (pos vc : Nat) (s : State) : Nat × State :=
  let k := sendKey pos 0 0x300
  let v := s.link.vcs.get 8 k
  if v < 8 then (v, s) else (vc, { s with link := { s.link with vcs := s.link.vcs.put 8 k vc } })

/-- R67: the bytes of a run as another run receives them: a NaN is its canonical one. -/
def canonicalRun (d : Desc) (b : List Byte) : List Byte :=
  (rawElems (collWidth d) b).flatMap fun e => leBytes (collWidth d) (canonical (collFmt d) e)

/-- R332, R168: PUT: BUF goes to FAR, which may be local. -/
def startPut (d : Desc) (s : State) : State :=
  let pos := collFar d / 2 ^ 44
  if pos = strapPos s then copyRun d 5 (collBuf d) (collFar d % 2 ^ 44) s
  else withBuf d (collBuf d) (fun b s =>
    let (q, s1) := takeSeq (sendKey pos 0 0x300) s
    let (vc, s2) := takeVc pos (collVc d) s1
    let ps := mkMessage s2 10 vc pos 0 0x300 q 0 (collFar d) (canonicalRun d b)
    ask pos q d (lowestOf (runWrites d 0 0 (rawElems (collWidth d) b))) (retain ps (sendAll ps s2))) s

/-- R325, R332: data of a GET written into BUF from a byte offset on. -/
def getWrites (s : State) (d : Desc) (off : Nat) (data : List Byte) : List EWrite :=
  pieceWrites s d { bufBlock d with origin := off / max 1 (collWidth d) } true 0 data

/-- R332, R168: GET: FAR, which may be local, is read into BUF. -/
def startGet (d : Desc) (s : State) : State :=
  let pos := collFar d / 2 ^ 44
  if pos = strapPos s then copyRun d 6 (collFar d % 2 ^ 44) (collBuf d) s
  else
    let (q, s1) := takeSeq (sendKey pos 0 0x300) s
    let (vc, s2) := takeVc pos (collVc d) s1
    let p := mkPacket s2 11 vc pos 0 0x300 q (bufLen d - 1) (collFar d) 0 true []
    ask pos q d none (retain [p] (sendAll [p] s2))

/-- R324 to R334, R496: a COLLECTIVE of one OP starts, after its checks. -/
def collRow (r : Ref) (op : Nat) (f : Desc → State → State) (s : State) : State :=
  atStage r .collective 0 (fun d s =>
    match firstError (collChecks (withSnap d s) d) with
    | some off => invalid r off s
    | none =>
      if collOp d != op then s
      else if 6 ≤ collVc d ∧ claimHolder s 2 ≠ 2 then
        claimEvent 2 2 2 (claimHolder s 2) (finishCopy r .collective (Report.of stClaimConflict 2) s)
      else f d (updDesc r (updCopy .collective fun c => { c with stage := 1 }) s)) s

/-- R329, R330: ALL_REDUCE. -/
def execAllReduce (d : Ref) (s : State) : Answer := .next (collRow d 0 startColl s)
/-- R329, R330: REDUCE_SCATTER. -/
def execReduceScatter (d : Ref) (s : State) : Answer := .next (collRow d 1 startColl s)
/-- R329, R330: ALL_GATHER. -/
def execAllGather (d : Ref) (s : State) : Answer := .next (collRow d 2 startColl s)
/-- R329, R330: BROADCAST. -/
def execBroadcast (d : Ref) (s : State) : Answer := .next (collRow d 3 startColl s)
/-- R331: ALL_TO_ALL. -/
def execAllToAll (d : Ref) (s : State) : Answer := .next (collRow d 4 startColl s)
/-- R332: PUT. -/
def execPut (d : Ref) (s : State) : Answer := .next (collRow d 5 startPut s)
/-- R332: GET. -/
def execGet (d : Ref) (s : State) : Answer := .next (collRow d 6 startGet s)

/-! ### Replies and refusals -/

/-- R333: a MACK accepts every message of a stream up to its MSEQ. -/
def takeMack (pos stream : Nat) (q : Word) (s : State) : State :=
  let s1 := release (fun p => p.type == 6 && p.dstPos.toNat == pos && p.stream.toNat == stream && serialDone q p.mseq) s
  match s1.coll.run with
  | none => s1
  | some x =>
    endColl (setRun (some { x with sent := x.sent.filter fun m => !(m.1 == pos && m.2.1 == stream && serialDone q m.2.2) }) s1)

/-- The packets that wait to be sent. -/
def unsentPackets (s : State) : List Packet :=
  (List.range 16).flatMap (fun p => (portOf s p).tx.queue) ++ s.link.backlog.map (·.2)

/-- R333: the module stops sending for a COLLECTIVE that was refused: what is left of the refused message is dropped, and so are the
messages of which nothing has gone out, whose numbers are given back (log 86). -/
def stopSending (x : CollRun) (refused : Nat × Nat × Word) (s : State) : State :=
  let key (p : Packet) : Nat × Nat × Word := (p.dstPos.toNat, p.stream.toNat, p.mseq)
  let whole := x.sent.filter fun m => (unsentPackets s).any fun p => p.type == 6 && key p == m && p.offset == 0
  let s1 := dropPackets (fun p => p.type == 6 && (key p == refused || whole.contains (key p))) s
  whole.reverse.foldl (fun s m =>
    let k := sendKey m.1 0 m.2.1
    if s.link.sendSeq.get 0 k = m.2.2 + 1 then { s with link := { s.link with sendSeq := s.link.sendSeq.put 0 k m.2.2 } } else s) s1

/-- R331, R333: a REFUSE of a collective message ends the COLLECTIVE that sent it. -/
def refuseChunk (pos stream : Nat) (q : Word) (reason : Nat) (s : State) : State :=
  match liveRun s with
  | none => s
  | some x =>
    if x.sent.contains (pos, stream, q) then
      stopRun x (Report.of stDescInvalid (if x.op = 4 ∧ reason = 5 then 40 else 32)) (stopSending x (pos, stream, q) s)
    else s

/-- R332, R333: a remote request is refused: what is left of it is not sent, and the PUT or GET that it belongs to ends, where it still runs. -/
def refuseRemote (pos : Nat) (q : Word) (s : State) : State :=
  match s.coll.asked.find? fun a => a.pos == pos && a.seq == q with
  | none => s
  | some a =>
    let s1 := dropPackets (fun p => (p.type == 10 || p.type == 11) && p.dstPos.toNat == pos && p.mseq == q)
      { s with coll := { s.coll with asked := s.coll.asked.erase a } }
    match liveRun s1 with
    | some x => if x.ref == a.ref && x.reply then stopRun x (Report.of stDescInvalid 32) s1 else s1
    | none => s1

/-- R332: the response of a remote access, with its status. -/
def sendResponse (dst vc status far : Nat) (data : List Byte) (s : State) : State :=
  let s0 := release (fun p => p.type == 12 && p.dstPos.toNat == dst) s
  let (q, s1) := takeSeq (sendKey dst 0 0x300) s0
  let (c, s2) := takeVc dst vc s1
  let ps := mkMessage s2 12 c dst 0 0x300 q status far data
  retain ps (sendAll ps s2)

/-- A remote access waits. -/
def holdRemote (p : Packet) (s : State) : State := { s with coll := { s.coll with unwritten := s.coll.unwritten ++ [p] } }

/-- R332, R182, R172: a remote read is served from local memory; it waits for memory that is not yet filled. -/
def serveRead (p : Packet) (s : State) : State :=
  let n := p.arg0.toNat + 1
  let a := p.arg1.toNat % 2 ^ 44
  let far := p.arg1.toNat
  let dst := p.srcPos.toNat
  if !farReach s a n then sendResponse dst p.vc 1 far [] s
  else if unfilled s a n then holdRemote p s
  else match badRead s .iod ((List.range n).map (a + ·)) with
    | some (z, pl) => sendResponse dst p.vc 2 far [] (logMemErr z pl 0 7 0xFFFF (symbolsAt s.mem pl) s).2
    | none => sendResponse dst p.vc 0 far (readBytes s .iod a n) s

/-- R332, R380, R386: a remote write is written, logged packet by packet, and answered; a linked active member answers once LOG_ACK
covers it. -/
def writeRemote (p : Packet) (data : List Byte) (s : State) : State :=
  let a := p.arg1.toNat % 2 ^ 44
  let s1 := (pieces 4096 data).zipIdx.foldl (fun s (b, i) => logEvent lkRwr (leBytes 8 (a + 4096 * i) ++ b) s) s
  let s2 := storeReceived .iod (addressed a data) s1
  if acceptWaits s2 then awaitAck (.rwr { p with arg0 := 0 }) s2 else sendResponse p.srcPos.toNat p.vc 0 p.arg1.toNat [] s2

/-- R363, R364, R377: a remote write has to wait: its memory lies on a fenced die, or on an ember page that is yet to be copied. -/
def writeHeld (s : State) (a n : Nat) : Bool :=
  writeWaits s a n || (match access s .iod a with | some p => isFenced s p.die | none => false)

/-- R332: a remote write that has arrived whole. Those that wait keep their order. -/
def serveWrite (p : Packet) (data : List Byte) (s : State) : State :=
  let a := p.arg1.toNat % 2 ^ 44
  if !inReach s .iod a data.length then sendResponse p.srcPos.toNat p.vc 1 p.arg1.toNat [] s
  else if writeHeld s a data.length then holdRemote { p with payload := data } s
  else writeRemote p data s

/-- R172, R364, R377: remote accesses that waited are made as far as they may be. -/
def serveUnwritten (s : State) : State :=
  s.coll.unwritten.foldl (fun s p => if p.type = 11 then serveRead p s else serveWrite p p.payload s)
    { s with coll := { s.coll with unwritten := [] } }

/-- R172: the zero-fill of a stack completes, and the reads that waited for it proceed. -/
def execZeroFillComplete (stack : Nat) (s : State) : Answer :=
  .next <|
    if stackCount s ≤ stack ∨ !inService s ∨ (kindlingMap s ∧ stack ≠ 0 ∧ s.ms.trans matches .none) then s else
      let go := s.mem.heldReads.filter fun h => h.stack == stack
      let s1 := { s with mem := { s.mem with filled := s.mem.filled.put false stack true,
                                             heldReads := s.mem.heldReads.filter fun h => h.stack != stack } }
      serveUnwritten (go.foldl (fun s h => readBar2 h.addr.toNat h.len h.errors h.tag s) s1)

/-- R332: an entry in the memory error log for a codeword of another module; SYMBOLS is one of its three values (log 11). -/
def logRemoteErr (a : Nat) (s : State) : Nat × State :=
  let (c, s) := choose 3 s
  addMemErr { MemErr.reset with addr := BitVec.ofNat 44 (a / 64 * 64), tick := s.ft.ft, place := 15, unit := 4, core := 0xFFFF,
                                symbols := [2, 3, 0xFF].getD c 2 } s

/-- R332, R182: a PUT or GET has its whole reply, with its status. -/
def endReply (r : Ref) (status : Nat) (s : State) : State :=
  match s.coll.run, findDesc s r with
  | some x, some d =>
    if x.ref != r then s
    else if status = 1 then stopRun { x with nf := none } (Report.of stDescInvalid 56) s
    else if status = 2 then
      let (i, s1) := logRemoteErr (collFar d % 2 ^ 44) s
      jobFault causeMemUncorrectable (setOutcome r stMemUncorrectable i (some 0xFFFF) (setRun none s1))
    else endColl (setRun (some { x with reply := false }) s)
  | _, _ => s

/-- R332, R380, R386: a packet of a response to the PUT or GET that runs; a linked active member takes the reply once LOG_ACK covers it. -/
def applyResponse (x : CollRun) (d : Desc) (p : Packet) (s : State) : State :=
  let local_ := if x.op = 6 then collBuf d + p.offset.toNat else collFar d % 2 ^ 44
  let failed := p.arg0 == 1 || p.arg0 == 2
  let s1 := logEvent lkRrsp (leBytes 4 p.arg0.toNat ++ leBytes 4 0 ++ leBytes 8 local_ ++ p.payload)
    (setRun (some { x with heard := true, lastPos := p.srcPos, lastSide := p.srcSide, lastAt := s.ft.ft }) s)
  let s2 := if x.op = 6 && !failed then storeArrived d (getWrites s1 d p.offset.toNat p.payload) s1 else s1
  if !failed && !p.last then s2
  else if acceptWaits s2 then awaitAck (.rrsp x.ref p.arg0.toNat) s2
  else endReply x.ref p.arg0.toNat s2

/-- R301, R332: the access that a response answers: the oldest one asked of its member at its address, a read where data has come and a
write where none has. -/
def answered (s : State) (p : Packet) : Option Asked :=
  s.coll.asked.find? fun a =>
    a.pos == p.srcPos.toNat && a.far == p.arg1 && (if p.payload.isEmpty then p.arg0 != 0 || !a.get else a.get)

/-- R332: a packet of a response; that of a PUT or GET that has ended is dropped. -/
def takeResponse (p : Packet) (s : State) : State :=
  match answered s p with
  | none => s
  | some a =>
    let s1 := if !p.last then s else
      release (fun q => (q.type == 10 || q.type == 11) && q.dstPos == p.srcPos && q.mseq == a.seq)
        { s with coll := { s.coll with asked := s.coll.asked.erase a } }
    match liveRun s1 with
    | none => s1
    | some x =>
      match findDesc s1 x.ref with
      | some d => if x.ref == a.ref && x.reply then applyResponse x d p s1 else s1
      | none => s1

/-- R333, R335: a COLLECTIVE whose limit passes completes with TIMEOUT. -/
def collTimeout (d : Desc) (s : State) : State :=
  let us := d.fld 20 0 32
  match d.copies.head? with
  | some c =>
    if d.op == some .collective && d.outcome.isNone && c.st == .running && pastLimit s us c.since then
      match s.coll.run.filter (·.ref == d.ref) with
      | some x => stopRun x (Report.of stTimeout 0) s
      | none => finishCopy d.ref .collective (Report.of stTimeout 0) s
    else s
  | none => s

end Sys2Proof.Machine
end

