-- ==== Sys2Proof/Machine/Guards.lean ====
section
/-! DEFINITION. Run guards (R340 to R354): guard windows, GUARD_REPORT, the exchange of reports, the verdict and its effects. -/

namespace Sys2Proof.Machine

def setGuard (g : Guard) (s : State) : State := { s with guard := g }

/-- R353: a GUARD_VERDICT runs. -/
def verdictRuns (s : State) : Bool :=
  s.descs.any fun d => d.op == some .guardVerdict && d.outcome.isNone
    && d.copies.any fun c => c.st != .queued && c.st != .done && c.st != .stopped

/-- R353: a gated OPT_STEP is parked. -/
def gatedParked (s : State) : Bool :=
  s.descs.any fun d => d.op == some .optStep && isGated d && d.outcome.isNone
    && d.copies.any fun c => match c.st with | .parked _ _ | .inPlace _ => true | _ => false

/-! ### Windows, R341 -/

/-- R341, R252, R253: the window closes at a stamp and the next opens there: a record of the same tick counts toward the next, and
records within the headland of the stamp are counted. The closed window's count, and the state. -/
def closeWindow (now : DWord) (s : State) : Nat × State :=
  let g := s.guard
  let next := (g.recent.filter fun r => r.1 == now).length
  let near := g.recent.filter fun r => !r.2 && inHeadland s r.1 now
  let g1 := { g with windowNf := next, winStart := some now,
                     recent := g.recent.map fun r => (r.1, r.2 || inHeadland s r.1 now) }
  (hold 0xFFFFFFFF (g.windowNf - next), near.foldl (fun s _ => guardHeadland s) (setGuard g1 s))

/-! ### GUARD_REPORT -/

def greLoss (d : Desc) : Nat := d.fld 16 0 44
def greNorms (d : Desc) : List Nat := [d.fld 24 0 44, d.fld 32 0 44].filter (· != 0)
def greRound (d : Desc) : Word := BitVec.ofNat 32 (d.fld 40 0 32)

/-- An address that is named and not aligned or not reached. -/
def namedBad (s : State) (a align n : Nat) : Bool := a != 0 && !recordOk s .iod a n align

/-- R352: the conditions of a GUARD_REPORT that fail, in order. -/
def reportChecks (s : State) (d : Desc) : List (Nat × Bool) :=
  [(16, rsv44 d 16 || namedBad s (greLoss d) 8 8),
   (24, rsv44 d 24 || namedBad s (d.fld 24 0 44) 32 32),
   (32, rsv44 d 32 || namedBad s (d.fld 32 0 44) 32 32),
   (40, greRound d != s.guard.doneRound + 1 || s.guard.posted.isSome),
   (44, d.fld 44 1 31 != 0 || anySet d.bytes 48 16)]

/-- The larger of two FP32 values; where one is a NaN the spec states none (log 11). -/
def largerOf (a b : Word) (s : State) : Word × State :=
  let x := decodeF fp32 a.toNat
  let y := decodeF fp32 b.toNat
  if x.isNan || y.isNan then
    let (c, s1) := drawFree s
    (BitVec.ofNat 32 c, s1)
  else (if flt x y then b else a, s)

/-- R347: the value of an FP32 word; the guard unit flushes no subnormal, which R68 asks of the array, the vector and Hearth engines. -/
def fp32Val (w : Word) : FVal := decodeF fp32 w.toNat

/-- R347: an operation's result rounded by RNE. -/
def fp32Round (x : FVal) : FVal := decodeF fp32 (encodeF fp32 .rne 2 x)

/-- R347: sums and products of FP32 values, each rounded by RNE. -/
def add32 (a b : FVal) : FVal := fp32Round (fadd a b)
def mul32 (a b : FVal) : FVal := fp32Round (fmul a b)
def sub32 (a b : FVal) : FVal := fp32Round (fsub a b)

/-- R344: the bytes of a report. -/
def reportBytes (round : Word) (nf : Nat) (loss lossW sumsq amax : Nat) (tag : Nat) (force : Bool) : List Byte :=
  leBytes 4 round.toNat ++ leBytes 4 nf ++ leBytes 4 loss ++ leBytes 4 lossW ++ leBytes 4 sumsq ++ leBytes 4 amax
    ++ leBytes 4 (tag + at' (bit force) 16) ++ leBytes 4 0

/-- R343: GUARD_REPORT, whose start has closed a window with a count, reads its records and posts the report. -/
def postReport (d : Desc) (count : Nat) (s : State) : State :=
  let rd (a off : Nat) : Nat := fieldAt (readBytes s .iod a 32) off 0 32
  let ns := greNorms d
  let nf := hold 0xFFFFFFFF (count + (ns.map fun a => rd a 16 + rd a 20).sum)
  let val (i off : Nat) : Nat := match ns[i]? with | some a => rd a off | none => 0
  let sumsq := bits32 (add32 (fp32Val (BitVec.ofNat 32 (val 0 0))) (fp32Val (BitVec.ofNat 32 (val 1 0))))
  let (amax, s2) := largerOf (BitVec.ofNat 32 (val 0 4)) (BitVec.ofNat 32 (val 1 4)) s
  let pair := if greLoss d = 0 then [] else readBytes s .iod (greLoss d) 8
  let b := reportBytes (greRound d) nf (fieldAt pair 0 0 32) (fieldAt pair 4 0 32) sumsq.toNat amax.toNat
    s.guard.cfgTag.toNat (d.fld 44 0 1 == 1)
  finishCopy d.ref .guard (Report.of stOk nf) (setGuard { s2.guard with posted := some b } s2)

/-- R342, R343: GUARD_REPORT. -/
def execGuardReport (d : Ref) (s : State) : Answer :=
  .next (atStage d .guardReport 0 (fun x s =>
    match firstError (reportChecks s x) with
    | some off => invalid d off s
    | none =>
      let loss := if greLoss x = 0 then [] else (List.range 8).map (greLoss x + ·)
      let norms := (greNorms x).flatMap fun a => (List.range 32).map (a + ·)
      let (count, s1) := closeWindow s.ft.ft s
      match badRead s .iod (loss ++ norms) with
      | some (a, p) => memUncorrectable d .guard a p 0 (symbolsAt s.mem p) s1
      | none => postReport x count s1) s)

/-! ### GUARD_VERDICT -/

def gvRound (d : Desc) : Word := BitVec.ofNat 32 (d.fld 32 0 32)
def gvRec (d : Desc) : Nat := d.fld 24 0 44
def gvSlot (d : Desc) : Nat := d.fld 36 0 3
def gvVc (d : Desc) : Nat := d.fld 36 3 3

/-- R352: the conditions of a GUARD_VERDICT that fail, in order. -/
def verdictChecks (s : State) (d : Desc) : List (Nat × Bool) :=
  let a := d.fld 16 0 44
  let alone := (memberList s a).length == 1
  [(16, rsv44 d 16 || memberListBad s a 1 || (!alone && (!s.adm.admitted || memberUnreached s a))),
   (24, rsv44 d 24 || namedBad s (gvRec d) 64 64),
   (32, gvRound d != s.guard.doneRound + 1 ||
      (match s.guard.posted with | some b => fieldAt b 0 0 32 != (gvRound d).toNat | none => true)),
   (36, d.fld 36 6 26 != 0 || decide (6 ≤ gvVc d)),
   (44, anySet d.bytes 44 20)]

/-- R346: the exchange of a GUARD_VERDICT begins: the module's report goes to every other member. -/
def beginExchange (d : Desc) (s : State) : State :=
  let ps := verdictMembers s d
  let me := rankOf ps (strapPos s)
  let others := (List.range ps.length).filter (· != me)
  let (inst, s1) := takeInst (gvSlot d) s
  let rep := s1.guard.posted.getD []
  let x := { newRun d.ref true (gvSlot d) inst 2 s1.ft.ft with
               want := others.map (fun r => { src := r, block := r, phase := true, left := 1 }), reports := [(me, rep)] }
  let s2 := setRun (some x) { s1 with coll := { s1.coll with waiting := s1.coll.waiting.filter (· != d.ref) } }
  replayEarly (gvSlot d) inst
    (others.foldl (fun s r => sendChunk (gvSlot d) inst.toNat 2 (gvVc d) (ps.getD r 0) me true 0 1 rep s) s2)

/-- R346, R351: at a descriptor boundary of the collective engine a waiting exchange begins; in Fenced none does. -/
def serviceExchange (s : State) : State :=
  let ready := s.coll.waiting.filterMap fun r => (findDesc s r).filter fun d => d.outcome.isNone && d.copies.any (·.st.waits)
  match ready with
  | [] => s
  | d :: _ => if targetBusy s .collective || (liveRun s).isSome || s.ms.mode == .fenced then s else beginExchange d s

/-- R345, R346: a GUARD_VERDICT starts: with one member its verdict can be formed; with more its exchange begins or waits for the
collective engine, and the descriptor parks. -/
def execGuardVerdict (d : Ref) (s : State) : Answer :=
  .next (atStage d .guardVerdict 0 (fun x s =>
    match firstError (verdictChecks (withSnap x s) x) with
    | some off => invalid d off s
    | none =>
      let s1 := updDesc d (updCopy .guard fun c => { c with stage := 1 }) s
      if (verdictMembers s x).length = 1 then s1
      else serviceExchange { parkCopy d .guard 1 s1 with coll := { s1.coll with waiting := s1.coll.waiting ++ [d] } }) s)

/-! ### The verdict, R347 to R350 -/

/-- R347: what the reports of all members come to. -/
structure Combined where
  nfTotal : Nat
  wSum : FVal
  mean : FVal
  norm2 : FVal
  amax : Word
  nfRank : Nat
  mismatch : Bool
  forced : Bool
deriving DecidableEq, Repr

/-- R347: the FP32 field of a report. -/
def repVal (b : List Byte) (off : Nat) : FVal := fp32Val (BitVec.ofNat 32 (fieldAt b off 0 32))

/-- R347: reports combined in ascending rank order. -/
def combineReports (round : Word) (rs : List (List Byte)) (s : State) : Combined × State :=
  let sum (f : List Byte → FVal) : FVal := rs.foldl (fun a b => add32 a (f b)) fzero
  let w := sum fun b => repVal b 12
  let l := sum fun b => mul32 (repVal b 8) (repVal b 12)
  let (amax, s1) := rs.foldl (fun (a, s) b => largerOf a (BitVec.ofNat 32 (fieldAt b 20 0 32)) s) ((0 : Word), s)
  let tags := rs.map fun b => fieldAt b 24 0 16
  ({ nfTotal := hold 0xFFFFFFFF (rs.map fun b => fieldAt b 4 0 32).sum, wSum := w,
     mean := if w.isZero then fzero else fp32Round (fdiv l w), norm2 := sum fun b => repVal b 16, amax := amax,
     nfRank := (rs.findIdx? fun b => fieldAt b 4 0 32 != 0).getD 0x7FFF,
     mismatch := rs.any (fun b => fieldAt b 0 0 32 != round.toNat) || tags.any (fun t => t != tags.getD 0 0),
     forced := rs.any fun b => fieldAt b 24 16 1 == 1 }, s1)

/-- R347: the absolute value. -/
def absF (x : FVal) : FVal := match x with | .fin _ m e => .fin false m e | .inf _ => .inf false | y => y

/-- R347: the tests NF_TRIP, LOSS_TRIP and NORM_TRIP. -/
def nfTrip (g : Guard) (c : Combined) : Bool :=
  decide (g.nfLimit.toNat < c.nfTotal) || !c.mean.isFinite || !c.norm2.isFinite
def lossTrip (g : Guard) (c : Combined) : Bool :=
  g.lossEn && !c.wSum.isZero && decide (g.warmup ≤ g.seen)
    && flt (mul32 (fp32Val g.spike) (absF (fp32Val g.avg))) (sub32 c.mean (fp32Val g.avg))
def normTrip (g : Guard) (c : Combined) : Bool :=
  let n := fp32Val g.normLimit
  n.isFinite && flt fzero n && flt (mul32 n n) c.norm2

/-- R349: the verdict word. -/
def verdictWord (g : Guard) (c : Combined) (round : Word) (trip : Bool) (consec : Nat) : DWord :=
  BitVec.ofNat 64 (bit trip + at' (bit (nfTrip g c)) 1 + at' (bit (lossTrip g c)) 2 + at' (bit (normTrip g c)) 3
    + at' (bit c.mismatch) 4 + at' (bit c.forced) 5 + at' (bit c.wSum.isZero) 7 + at' consec 8 + at' c.nfRank 16
    + at' round.toNat 32)

/-- R348: the state of the guard unit after a round. -/
def updateGuard (g : Guard) (c : Combined) (round : Word) (trip : Bool) : Guard :=
  if trip then { g with consec := hold 255 (g.consec + 1) }
  else
    let g1 := { g with consec := 0, lastClear := round }
    if c.wSum.isZero then g1 else
      let a := fp32Val g.avg
      let avg := if g.seen = 0 then c.mean else add32 a (mul32 (sub32 c.mean a) (.fin false 1 (-(g.alpha : Int))))
      { g1 with avg := bits32 avg, seen := hold 0xFFFF (g.seen + 1) }

/-- R350: the bytes of the verdict record. -/
def verdictRecord (g : Guard) (c : Combined) (word : DWord) (members : Nat) (now : DWord) : List Byte :=
  leBytes 8 word.toNat ++ leBytes 4 c.nfTotal ++ leBytes 4 (bits32 c.mean).toNat ++ leBytes 4 (bits32 c.norm2).toNat
    ++ leBytes 4 c.amax.toNat ++ leBytes 4 g.avg.toNat ++ leBytes 4 (bits32 c.wSum).toNat ++ leBytes 4 members
    ++ leBytes 4 g.lastClear.toNat ++ leBytes 8 now.toNat ++ List.replicate 16 0

/-- R350 step 3: OPT_STEPs that wait for a round resume, and their gate is decided. -/
def resumeGated (round : Word) (s : State) : State :=
  wakeCopies (fun d _ => d.op == some .optStep && isGated d && d.outcome.isNone && vround d == round) s

/-- R350: a verdict is held, recorded, logged, and told of. -/
def settleVerdict (g : Guard) (round : Word) (word : DWord) (s : State) : State :=
  let held := g.held ++ [(round, word)]
  let s1 := setGuard { g with doneRound := round, held := held.drop (held.length - 64), posted := none,
                              trips := if word.getLsbD 0 then g.trips.add 1 else g.trips } s
  let s2 := logEvent lkVerdict (leBytes 4 round.toNat ++ leBytes 4 0 ++ leBytes 8 word.toNat) (resumeGated round s1)
  if word.getLsbD 0 then raiseVector 68 s2 else s2

/-- R350: the GUARD_VERDICT is done with a word. -/
def endVerdict (d : Desc) (word : DWord) (s : State) : State :=
  let rep := Report.of stOk (word.toNat % 2 ^ 32)
  match copyAt d .guard with
  | some c => if c.st.waits then endWait d.ref .guard rep s else finishCopy d.ref .guard rep s
  | none => s

/-- R389: during replay, the verdict that the log holds for a round is taken as the round's verdict. -/
def takenVerdict (s : State) (d : Desc) (round : Word) : Option DWord :=
  if d.replayed then (s.yoke.replayVerdicts.find? fun v => v.1 == round).map (·.2) else none

/-- R340, R352: the round of a GUARD_VERDICT is no longer the next one, since another has completed it: the descriptor completes with
DESC_INVALID (log 88). -/
def missRound (d : Desc) (s : State) : State :=
  let s1 := setRun (if s.coll.run.any (·.ref == d.ref) then none else s.coll.run) s
  let rep := Report.of stDescInvalid 32
  match copyAt d .guard with
  | some c => if c.st.waits then endWait d.ref .guard rep s1 else finishCopy d.ref .guard rep s1
  | none => s1

/-- R347 to R350: the verdict of a round is formed from the members' reports. -/
def formVerdict (d : Desc) (rs : List (List Byte)) (s : State) : State :=
  if gvRound d ≠ s.guard.doneRound + 1 then missRound d s else
  let round := gvRound d
  let (c, s1) := combineReports round rs s
  let g := s1.guard
  let taken := takenVerdict s1 d round
  let trip := match taken with
    | some w => w.getLsbD 0
    | none => nfTrip g c || lossTrip g c || normTrip g c || c.mismatch || c.forced
  let g1 := updateGuard g c round trip
  let word := taken.getD (verdictWord g c round trip g1.consec)
  let b := verdictRecord g1 c word rs.length s1.ft.ft
  let s2 := setRun (if s1.coll.run.any (·.ref == d.ref) then none else s1.coll.run) s1
  let s3 := settleVerdict { g1 with vrec := b } round word s2
  endVerdict d word (if gvRec d = 0 then s3 else storeBy d.ref .guard .iod (addressed (gvRec d) b) s3)

/-- R346: the reports of an exchange in ascending rank. -/
def orderedReports (x : CollRun) : List (List Byte) :=
  (List.range x.reports.length).filterMap fun r => (x.reports.find? fun p => p.1 == r).map (·.2)

/-- R347, R351: every report of the exchange has arrived, and its verdict is to be formed. -/
def allReported (s : State) (r : Ref) : Bool := s.coll.run.any fun x => x.exchange && x.ref == r && x.want.isEmpty && x.bad.isNone

/-- R347, R350: every report has arrived and the verdict is formed. -/
def execVerdictForm (d : Ref) (s : State) : Answer :=
  .next <|
    match findDesc s d with
    | none => s
    | some x =>
      match copyAt x .guard with
      | none => s
      | some c =>
        if x.op != some .guardVerdict || x.outcome.isSome || c.stage != 1 then s
        else if c.st == .running then
          (if (verdictMembers s x).length ≠ 1 then s
           else match s.guard.posted with
             | some b => formVerdict x [b] s
             | none => if gvRound x ≠ s.guard.doneRound + 1 then missRound x s else s)
        else match liveRun s with
          | some r => if c.st.waits && allReported s d then formVerdict x (orderedReports r) s else s
          | none => s

/-- R267, R351: a GUARD_VERDICT whose limit passes before every report has arrived completes with TIMEOUT. -/
def verdictTimeout (d : Desc) (s : State) : State :=
  let us := d.fld 40 0 32
  match copyAt d .guard with
  | some c =>
    if d.op == some .guardVerdict && d.outcome.isNone && c.st.waits && pastLimit s us c.since && !allReported s d.ref then
      let s1 := setRun (if s.coll.run.any (·.ref == d.ref) then none else s.coll.run) s
      endWait d.ref .guard (Report.of stTimeout 0) { s1 with coll := { s1.coll with waiting := s1.coll.waiting.filter (· != d.ref) } }
    else s
  | none => s

/-! ### Registers, R353 -/

/-- R353: a register write that a running GUARD_VERDICT holds off. -/
def guardWrite (f : Guard → Guard) (s : State) : State := if verdictRuns s then s else setGuard (f s.guard) s

/-- R341, R353: a write of GUARD_CFG; one that sets EN opens a window. -/
def writeGuardCfg (v : Word) (s : State) : State :=
  let now := s.ft.ft
  guardWrite (fun g =>
    let g1 := { g with en := v.getLsbD 0, lossEn := v.getLsbD 1, alpha := bitsOf v.toNat 2 4, warmup := bitsOf v.toNat 16 16 }
    if v.getLsbD 0 && !g.en then { g1 with windowNf := 0, recent := [], winStart := some now } else g1) s

def guardBase : Nat := 0x190000

/-- R341: a write of GUARD_CFG. -/
def execGuardCfgWrite (value : Word) (s : State) : Answer := .next (bar0Write guardBase value.toNat (writeGuardCfg value) s)

/-- R353: a write of GUARD_DONE_ROUND. -/
def writeDoneRound (v : Word) (s : State) : State :=
  if verdictRuns s || s.guard.posted.isSome || gatedParked s then s else setGuard { s.guard with doneRound := v, held := [] } s

/-- R353: a write of GUARD_DONE_ROUND. -/
def execGuardDoneRoundWrite (value : Word) (s : State) : Answer :=
  .next (bar0Write (guardBase + 0x20) value.toNat (writeDoneRound value) s)

/-- R353: writes of the other guard registers. -/
def writeGuardCtx (v : Word) (s : State) : State := guardWrite (fun g => { g with ctxMask := v.setWidth 16, cfgTag := (v >>> 16).setWidth 16 }) s
def writeNfLimit (v : Word) (s : State) : State := guardWrite (fun g => { g with nfLimit := v }) s
def writeSpike (v : Word) (s : State) : State := guardWrite (fun g => { g with spike := v }) s
def writeNormLimit (v : Word) (s : State) : State := guardWrite (fun g => { g with normLimit := v }) s
def writeAvg (v : Word) (s : State) : State := guardWrite (fun g => { g with avg := v }) s
def writeGuardState (v : Word) (s : State) : State :=
  guardWrite (fun g => { g with seen := v.toNat % 65536, consec := bitsOf v.toNat 16 8 }) s

/-- R340, R353: GUARD_STATUS, GUARD_STATE and GUARD_VERDICT_LAST. -/
def guardTrip (g : Guard) : Bool := match g.held.getLast? with | some h => h.2.getLsbD 0 | none => false
def guardStatus (g : Guard) : Nat := g.held.length + at' (bit (guardTrip g)) 7
def guardStateReg (g : Guard) : Nat := g.seen + at' g.consec 16 + at' (bit g.posted.isSome) 24
def guardLast (g : Guard) : Nat := match g.held.getLast? with | some h => h.2.toNat | none => 0

end Sys2Proof.Machine
end

