-- ==== Sys2Proof/Machine/Audit.lean ====
section
/-! DEFINITION. Audits of the ledgers (R360) and ledger snapshots (R365, R366, R368). -/

namespace Sys2Proof.Machine

/-- R357: the most tokens that a holder's share of HELD may come to (R36, R175, R214, R307 and the queue depths). -/
def shareLimit (s : State) (d h : Nat) : Option Nat :=
  if d = dRingSlot then some 256
  else if d = dAeTxn then some 512
  else if d = dHeTxn then some 4096
  else if d = dCredit then some (sqRx s h).depth.toNat
  else if d = dBlock ∧ h < 128 then some (poolCh s h).effMax
  else none

/-- R357: the balance of a domain holds: its columns add up, and no share of HELD is beyond its holder's limit. -/
def inBalance (s : State) (d : Nat) (x : LgDom) : Bool :=
  x.balanced && x.heldBy.all fun k => match shareLimit s d k.1 with | some n => decide (k.2 ≤ n) | none => true

/-- R360: the parity of every domain is checked, and its balance by the transfers stamped before the tick. -/
def auditDomain (s : State) (d : Nat) : State :=
  let s1 := parityCheck d s
  if inBalance s1 d (lgBefore s1 d) then s1 else ledgerFault d kSum 0xFFFF none s1

/-- R360: the I/O die audits every domain, once in each frame. -/
def execLedgerAudit (s : State) : Answer :=
  .next <|
    if !inService s then s else
      (List.range 8).foldl auditDomain { s with lg := { s.lg with audits := s.lg.audits.add 1 } }

/-- R365: some balance fails. -/
def anyUnbalanced (s : State) : Bool := (List.range 8).any fun d => !inBalance s d (lgBefore s d)

/-- R366: the part of a snapshot record for one domain. -/
def snapDomain (x : LgDom) : List Byte :=
  leBytes 4 x.total ++ leBytes 4 x.free ++ leBytes 4 x.held ++ leBytes 4 x.lent ++ leBytes 4 x.reclaimed ++ leBytes 4 x.dies
    ++ leBytes 8 0

/-- R365: what the capture of this tick says of IOD_STATE.STATE and of the balances: that of an epoch and that of the armed snapshot are
one. -/
def captured (s : State) : Nat × Bool :=
  match s.lg.capture with
  | some (t, m, bad) => if t = s.ft.ft then (m, bad) else (s.ms.mode.code, anyUnbalanced s)
  | none => (s.ms.mode.code, anyUnbalanced s)

/-- R366: the bytes of a snapshot record. -/
def snapBytes (s : State) (seq : Word) (lateness : Nat) : List Byte :=
  leBytes 8 s.ft.ft.toNat ++ leBytes 4 seq.toNat
    ++ leBytes 4 ((captured s).1 + at' (bit (decide (0 < lateness))) 4 + at' (bit (captured s).2) 5)
    ++ leBytes 4 (hold 0xFFFFFFFF lateness) ++ List.replicate 44 0
    ++ (List.range 8).flatMap fun d => snapDomain (lgBefore s d)

/-- R365: a snapshot audits its sums, once in a capture; MISMATCH says how the last one came out, and each mismatch is a SUM fault. -/
def snapAudit (s : State) : State :=
  let (m, bad) := captured s
  let again := s.lg.capture.any fun c => c.1 == s.ft.ft
  let s1 := { s with lg := { s.lg with snapMismatch := bad, capture := some (s.ft.ft, m, bad) } }
  if again then s1 else
    ((List.range 8).filter fun d => !inBalance s d (lgBefore s d)).foldl (fun s d => ledgerFault d kSum 0xFFFF none s) s1

/-- R366: the armed snapshot is taken. -/
def takeSnapshot (s : State) : State :=
  let l := s.lg
  let late := s.ft.ft.toNat - l.snapTick.toNat
  let seq := l.snapSeq + 1
  let b := snapBytes s seq late
  let s1 := { s with lg := { l with snapArm := false, snapDone := true, snapSeq := seq, snapLate := decide (0 < late) } }
  snapAudit (storeReceived .iod (addressed l.snapAddr.toNat b) s1)

/-- R366, R368: a write of LG_SNAP_CTRL. A snapshot whose tick has passed when it is armed is taken at once. -/
def writeSnapCtrl (v : Word) (s : State) : State :=
  let s1 := if v.getLsbD 2 then { s with lg := { s.lg with snapDone := false } } else s
  let s2 := if v.getLsbD 0 && recordOk s1 .iod s1.lg.snapAddr.toNat 320 64 then { s1 with lg := { s1.lg with snapArm := true } } else s1
  let s3 := if v.getLsbD 1 then { s2 with lg := { s2.lg with snapArm := false } } else s2
  if s3.lg.snapArm && decide (s3.lg.snapTick.toNat < s3.ft.ft.toNat) then takeSnapshot s3 else s3

def lgBase : Nat := 0x140000

/-- R366: a write that arms a snapshot. -/
def execLgSnapArm (value : Word) (s : State) : Answer := .next (bar0Write (lgBase + 0x250) value.toNat (writeSnapCtrl value) s)

/-- R368: a write that disarms a snapshot. -/
def execLgSnapDisarm (value : Word) (s : State) : Answer := .next (bar0Write (lgBase + 0x250) value.toNat (writeSnapCtrl value) s)

/-- R365: at its tick the armed snapshot is taken. -/
def execLedgerSnapshot (s : State) : Answer :=
  .next (if s.lg.snapArm && inService s && decide (s.lg.snapTick.toNat ≤ s.ft.ft.toNat) then takeSnapshot s else s)

end Sys2Proof.Machine
end

