-- ==== Sys2Proof/Machine/Sha.lean ====
section
/-! DEFINITION. SHA-384, the hash that R444 names, over lists of bytes. -/

namespace Sys2Proof.Machine

/-- The bits of the largest number whose power `e` is at most `n`, from bit `k` down, added to `r`. -/
def rootFrom (e n : Nat) : Nat → Nat → Nat
  | 0, r => r
  | k + 1, r => rootFrom e n k (if (r + 2 ^ k) ^ e ≤ n then r + 2 ^ k else r)

/-- The first 64 bits of the fraction of the root of order `e` of a number below 2^9. -/
def rootFraction (e p : Nat) : DWord := BitVec.ofNat 64 (rootFrom e (p * 2 ^ (64 * e)) 70 0)

/-- A number from 2 on that no smaller one divides. -/
def isPrime (n : Nat) : Bool := decide (2 ≤ n) && (List.range n).all fun d => d < 2 || n % d != 0

/-- The first eighty primes. -/
def shaPrimes : List Nat := (List.range 410).filter isPrime

/-- The constants of the eighty rounds: the fractions of the primes' cube roots. -/
def shaConstants : List DWord := shaPrimes.map (rootFraction 3)

/-- The hash value before the first block: the fractions of the square roots of the ninth prime and the seven after it. -/
def shaStart : List DWord := ((shaPrimes.drop 8).take 8).map (rootFraction 2)

/-- A word turned right by each of some counts, and, with a last count above 0, shifted right by that; all of it XORed. -/
def shaMix (turns : List Nat) (shift : Nat) (x : DWord) : DWord :=
  turns.foldl (fun y n => y ^^^ x.rotateRight n) (if shift = 0 then 0 else x >>> shift)

/-- The eighty words of the schedule of a block, made newest first: word t from those 2, 7, 15 and 16 places before it. -/
def shaSchedule (b : List DWord) : List DWord :=
  let next (l : List DWord) : DWord :=
    (([16, 7].map fun n => l.getD (n - 1) 0) ++ [shaMix [1, 8] 7 (l.getD 14 0), shaMix [19, 61] 6 (l.getD 1 0)]).foldl (· + ·) 0
  (Nat.repeat (fun l => next l :: l) 64 b.reverse).reverse

/-- The eight words of the hash value while a block is taken in. -/
structure ShaVars where
  a : DWord
  b : DWord
  c : DWord
  d : DWord
  e : DWord
  f : DWord
  g : DWord
  h : DWord
deriving DecidableEq, Repr

def ShaVars.words (v : ShaVars) : List DWord := [v.a, v.b, v.c, v.d, v.e, v.f, v.g, v.h]

def ShaVars.ofWords (l : List DWord) : ShaVars :=
  let w (i : Nat) : DWord := l.getD i 0
  { a := w 0, b := w 1, c := w 2, d := w 3, e := w 4, f := w 5, g := w 6, h := w 7 }

/-- A round with the sum of its constant and its word of the schedule: each bit of `e` chooses between `f` and `g`, and each bit of
`a`, `b` and `c` goes by the majority. -/
def shaRound (v : ShaVars) (kw : DWord) : ShaVars :=
  let chosen := v.g ^^^ (v.e &&& (v.f ^^^ v.g))
  let majority := (v.a &&& (v.b ||| v.c)) ||| (v.b &&& v.c)
  let first := kw + v.h + chosen + shaMix [14, 18, 41] 0 v.e
  let second := majority + shaMix [28, 34, 39] 0 v.a
  { v with a := first + second, b := v.a, c := v.b, d := v.c, e := v.d + first, f := v.e, g := v.f, h := v.g }

/-- Big-endian bytes of a number. -/
def beBytes (len n : Nat) : List Byte := (leBytes len n).reverse

/-- The number that bytes spell, most significant first. -/
def beNat (b : List Byte) : Nat := leNat b.reverse

/-- One block of 128 bytes taken into the hash value. -/
def shaBlock (h : List DWord) (b : List Byte) : List DWord :=
  let w := shaSchedule ((pieces 8 b).map fun x => BitVec.ofNat 64 (beNat x))
  let v := (List.zipWith (· + ·) shaConstants w).foldl shaRound (.ofWords h)
  List.zipWith (· + ·) h v.words

/-- The padded message. -/
def shaPad (m : List Byte) : List Byte :=
  let zeros := (239 - m.length % 128) % 128
  m ++ [0x80] ++ List.replicate zeros 0 ++ beBytes 16 (8 * m.length)

/-- SHA-384 of a message. -/
def sha384 (m : List Byte) : List Byte :=
  (((pieces 128 (shaPad m)).foldl shaBlock shaStart).take 6).flatMap fun x => beBytes 8 x.toNat

end Sys2Proof.Machine
end

