-- ==== Sys2Proof/Machine/Ecdsa.lean ====
section
/-! DEFINITION. ECDSA on brainpoolP384r1 with SHA-384, which R446, R448 and R449 name. The spec names the curve and not its parameters:
they are those of RFC 5639 (PRESUMED, log 42). -/

namespace Sys2Proof.Machine

/-- The field's prime, the coefficient A and the group's order. -/
def curveP : Nat := 0x8CB91E82A3386D280F5D6F7E50E641DF152F7109ED5456B412B1DA197FB71123ACD3A729901D1A71874700133107EC53
def curveA : Nat := 0x7BC382C63D8C150C3C72080ACE05AFA0C2BEA28E4FB22787139165EFBA91F90F8AA5814A503AD4EB04A8C7DD22CE2826
def curveN : Nat := 0x8CB91E82A3386D280F5D6F7E50E641DF152F7109ED5456B31F166E6CAC0425A7CF3AB6AF6B7FC3103B883202E9046565

/-- The base point. -/
def curveG : Nat × Nat :=
  (0x1D1C64F068CF45FFA2A63A81B7C13F6B8847A3E77EF14FE3DB7FCAFE0CBD10E8E826E03436D646AAEF87B2E247D4AF1E,
   0x8ABE1D7520F9C2A45CB1EB8E95CFD55262B70B29FEEC5864E19C054FF99129280E4646217791811142820341263C5315)

/-- Euclid's algorithm on two remainders with the second one's cofactors. -/
def euclid : Nat → Nat → Nat → Int → Int → Int
  | 0, _, _, t, _ => t
  | f + 1, a, b, t, u => if b = 0 then t else euclid f b (a % b) u (t - Int.ofNat (a / b) * u)

/-- The inverse of a number modulo a prime of at most 384 bits. -/
def invMod (a p : Nat) : Nat := ((euclid 600 p (a % p) 0 1) % Int.ofNat p).toNat

/-- A difference modulo a number. -/
def subMod (a b p : Nat) : Nat := (a + p - b % p) % p

/-- The sum of two points of the curve; `none` is the point at infinity. -/
def curveAdd : Option (Nat × Nat) → Option (Nat × Nat) → Option (Nat × Nat)
  | none, q => q
  | p, none => p
  | some (x, y), some (u, v) =>
    if x = u ∧ (y + v) % curveP = 0 then none else
      let l := if x = u then (3 * x * x + curveA) * invMod (2 * y) curveP else subMod v y curveP * invMod (subMod u x curveP) curveP
      let z := subMod (l * l) (x + u) curveP
      some (z, subMod (l * subMod x z curveP) y curveP)

/-- A multiple of a point, from the multiplier's highest bit down. -/
def curveMul (k : Nat) (p : Option (Nat × Nat)) : Option (Nat × Nat) :=
  (List.range 384).foldl (fun q i =>
    let d := curveAdd q q
    if k.testBit (383 - i) then curveAdd d p else d) none

/-- The public key of a private key; a key that is a multiple of the order has none. -/
def publicKey (d : Nat) : Nat × Nat := (curveMul (d % curveN) (some curveG)).getD (0, 0)

/-- ECDSA: a signature (r, s) over a digest verifies under a public key. -/
def ecdsaVerify (key : Nat × Nat) (digest : List Byte) (r s : Nat) : Bool :=
  decide (0 < r ∧ r < curveN ∧ 0 < s ∧ s < curveN) &&
    (let w := invMod s curveN
     match curveAdd (curveMul (beNat digest * w % curveN) (some curveG)) (curveMul (r * w % curveN) (some key)) with
     | some (x, _) => x % curveN == r
     | none => false)

/-- ECDSA: the signature over a digest by a private key with a secret number. -/
def ecdsaSign (d k : Nat) (digest : List Byte) : Nat × Nat :=
  let r := (publicKey k).1 % curveN
  (r, (beNat digest + r * d) * invMod k curveN % curveN)

end Sys2Proof.Machine
end

