-- ==== Sys2Proof/Machine/Embers.lean ====
section
/-! DEFINITION. Embers on the active member: the ember table (R369, R370), EMBER OPEN, ABANDON and LOAD (R373 to R375), the
schedule record (R376), copy on first touch (R231, R377), streaming, acknowledgement and the seal (R378). -/

namespace Sys2Proof.Machine

def embBase : Nat := 0x1A0000

def setYoke (y : Yoke) (s : State) : State := { s with yoke := y }

/-- R387: a packet of the partner's control stream has arrived. -/
def heardPartner (s : State) : State := setYoke { s.yoke with heard := some s.clk } s

def setEmber (e : Ember) (s : State) : State := { s with ember := e }

/-! ### The ember table -/

/-- R369: the entries of an ember table at an address. -/
def emberTable (s : State) (a : Nat) : List EmberEntry :=
  let n := fieldAt (readBytes s .iod a 64) 0 0 8 + 1
  let b := readBytes s .iod (a + 64) (32 * n)
  (List.range n).map fun e =>
    { base := BitVec.ofNat 44 (fieldAt b (32 * e) 0 44), pages := fieldAt b (32 * e + 8) 0 24,
      bank0 := BitVec.ofNat 44 (fieldAt b (32 * e + 16) 0 44), bank1 := BitVec.ofNat 44 (fieldAt b (32 * e + 24) 0 44) }

/-- R369: a reserved bit of a table of `n` entries is set. -/
def tableReserved (s : State) (a n : Nat) : Bool :=
  let b := readBytes s .iod a (64 + 32 * n)
  fieldAt b 0 8 56 != 0 || anySet b 8 56 || (List.range n).any fun e =>
    let o := 64 + 32 * e
    fieldAt b o 44 20 != 0 || fieldAt b (o + 8) 24 40 != 0 || fieldAt b (o + 16) 44 20 != 0 || fieldAt b (o + 24) 44 20 != 0

/-- R370: pages from an address on, a multiple of 2 MiB, that lie wholly in the tensor memory of one compute die. -/
def pagesIn (s : State) (a n : Nat) : Bool :=
  a % dieSpan % pageBytes == 0 && decide (a / dieSpan < dieCount s) && decide (a < sramBase)
    && decide (a % dieSpan + n * pageBytes + reservedBytes s ≤ dieStackBytes)

/-- Two spans of pages share a byte. -/
def spansMeet (a n b m : Nat) : Bool := decide (a < b + m * pageBytes ∧ b < a + n * pageBytes)

/-- R370: a bank of an entry is acceptable by itself. -/
def bankOk (s : State) (e : EmberEntry) (bank : Nat) : Bool :=
  pagesIn s bank e.pages && bank / dieSpan == e.base.toNat / dieSpan
    && bank % dieSpan / pageBytes % 3 == e.base.toNat % dieSpan / pageBytes % 3

/-- R370: an ember table's entries are valid. -/
def tableValid (s : State) (t : List EmberEntry) : Bool :=
  let homes (a n : Nat) : Bool := t.any fun e => spansMeet a n e.base.toNat e.pages
  t.all (fun e => decide (1 ≤ e.pages) && pagesIn s e.base.toNat e.pages && bankOk s e e.bank0.toNat && bankOk s e e.bank1.toNat
      && (e.bank0 == e.base || !homes e.bank0.toNat e.pages) && !homes e.bank1.toNat e.pages
      && !spansMeet e.bank0.toNat e.pages e.bank1.toNat e.pages)
    && (List.range t.length).all fun i =>
      match t[i]? with
      | some y => (t.take i).all fun x => !spansMeet x.base.toNat x.pages y.base.toNat y.pages
      | none => true

/-- R369, R370, R375: the table at an address cannot be used. -/
def tableBad (s : State) (a : Nat) : Bool :=
  !recordOk s .iod a 64 64 ||
    (let n := fieldAt (readBytes s .iod a 64) 0 0 8 + 1
     !inReach s .iod a (64 + 32 * n) || tableReserved s a n || !tableValid s (emberTable s a))

/-! ### Checks -/

def embTable (d : Desc) : Nat := d.fld 16 0 44
def embOp (d : Desc) : Nat := d.fld 24 0 2
def embHost (d : Desc) : Bool := d.fld 24 2 1 == 1
def embAddr (d : Desc) : Nat := d.fld 32 0 64

/-- R374: a context is active other than that of the descriptor's own ring, without which no descriptor could be fetched
(log 38). -/
def otherCtxActive (s : State) (d : Desc) : Bool := (List.range 16).any fun n => n != d.ctx.toNat && ctxActive s n

/-- R375: the offset of the first condition of an EMBER that holds. -/
def emberError (s : State) (d : Desc) : Option Nat :=
  firstError
    [(16, d.fld 16 44 20 != 0 || tableBad s (embTable d)),
     (24, d.fld 24 3 29 != 0 || embOp d == 3 || (embOp d == 0 && !embHost d && !s.yoke.en)
        || (embOp d == 2 && otherCtxActive s d)),
     (32, ((embOp d == 0 && embHost d) || embOp d == 2) && embAddr d % 4096 != 0),
     (40, anySet d.bytes 28 4 || anySet d.bytes 40 24)]

/-- R182: an uncorrectable codeword met by the read of the table. -/
def tableBadRead (s : State) (d : Desc) : Option (Nat × Place) :=
  let a := embTable d
  if !recordOk s .iod a 64 64 then none else
    let n := 64 + 32 * (fieldAt (readBytes s .iod a 64) 0 0 8 + 1)
    match firstBad s .iod a n with
    | some x => (access s .iod x).map fun p => (x, p)
    | none => none

/-- R375: an EMBER of one operation runs once its checks pass. -/
def emberRow (r : Ref) (op : Nat) (f : Desc → State → State) (s : State) : State :=
  atStage r .ember 0 (fun d s =>
    if embOp d != op && !(embOp d == 3 && op == 0) then s else
      match tableBadRead s d with
      | some (a, p) => memUncorrectable r .ember a p 0 (symbolsAt s.mem p) s
      | none =>
        match emberError s d with
        | some off => invalid r off s
        | none => f d s) s

/-! ### The schedule record -/

/-- R376: descriptors of a ring that are fetched and have not started. -/
def notStarted (s : State) (n : Nat) : List Desc := s.descs.filter fun d => d.ref.ring == n && !d.started

/-- R376: the open receive streams from peers: those of enabled receive queues, then those that have received a message or
part of one; the partner's yoke streams are left out (log 40). -/
def openStreams (s : State) : List DWord :=
  let entry (pos : Nat) (side : Bool) (st : Nat) (e : Word) : DWord :=
    BitVec.ofNat 64 (pos + at' (bit side) 14 + at' st 16 + at' e.toNat 32)
  ((List.range 64).filterMap fun q =>
      let x := sqRx s q
      let sideB := decide ((s.link.streams.filter fun k => k.1 == streamKey x.srcPos.toNat true q).length ≠ 0)
      if x.en then some (entry x.srcPos.toNat sideB q x.expect) else none)
    ++ (s.link.streams.filterMap fun k =>
      let st := k.1 % 2 ^ 16
      if st < 64 ∨ (0x200 ≤ st ∧ st ≤ 0x202) then none
      else some (entry (k.1 / 2 ^ 17) (k.1 / 2 ^ 16 % 2 == 1) st k.2.mseq))

/-- R376, R386: a sent message is not yet accepted: one that is kept; of a response, for which no acceptance comes back, one that has not
yet left the module (log 87). -/
def unaccepted (s : State) : Bool :=
  let leaving (p : Packet) : Bool := (unsentPackets s).contains p || (List.range 16).any fun q =>
    (portOf s q).tx.unacked.any fun u => match u.2 with | .packet r => r == p | _ => false
  s.link.retained.any fun p => p.type != 12 || leaving p

/-- R376: what makes an epoch ragged. -/
def isRagged (s : State) : Bool :=
  unaccepted s || !s.coll.early.isEmpty || !s.coll.unwritten.isEmpty || !s.sync.unwritten.isEmpty || !s.yoke.pendingAccept.isEmpty
    || s.link.streams.any (fun k => decide (0 < (k : Nat × Stream).2.offset)) || decide (4096 < (openStreams s).length)

/-- R376: the bytes of the schedule record of an epoch opened at this tick. -/
def scheduleRecord (s : State) (epoch : Word) (ragged : Bool) (late pages logStart : Nat) : List Byte :=
  let g := s.guard
  let strs := (openStreams s).take 4096
  padTo 64 (leBytes 4 epoch.toNat ++ leBytes 4 (bit ragged + 2 * bit (decide (0 < late))) ++ leBytes 8 s.ft.ft.toNat
      ++ leBytes 4 (hold 0xFFFFFFFF late) ++ leBytes 4 0 ++ leBytes 4 pages ++ leBytes 4 (strs.length % 65536)
      ++ leBytes 8 logStart)
    ++ (List.range 64).flatMap (fun n => leBytes 4 ((sring s n).fetch - BitVec.ofNat 32 (notStarted s n).length).toNat)
    ++ (List.range 64).flatMap (fun n => leBytes 4 (cring s n).p.toNat)
    ++ (List.range 16).flatMap (fun n => leBytes 4 (ctxStatus s n))
    ++ padTo 0x80 (leBytes 4 (genBits s 0xFFFFFFFF).toNat)
    ++ (List.range 64).flatMap (fun n => leBytes 8 ((sqTx s n).next.toNat + at' (sqTx s n).credits 32))
    ++ (List.range 64).flatMap (fun n => leBytes 8 ((sqRx s n).expect.toNat + at' (sqRx s n).entries.length 32))
    ++ (List.range 8).flatMap (fun k => leBytes 4 (s.coll.inst.get 0 k).toNat)
    ++ padTo 0x20 (leBytes 4 g.doneRound.toNat ++ leBytes 4 g.avg.toNat ++ leBytes 4 (guardStateReg g) ++ leBytes 4 (guardStatus g))
    ++ padTo 0x8C0 (snapBytes s s.lg.snapSeq late)
    ++ padTo 0x3000 ((List.range 64).flatMap fun j => leBytes 8 ((g.held.map Prod.snd).getD j 0).toNat)
    ++ (List.range 4096).flatMap (fun i => leBytes 4 (tally s i).toNat)
    ++ padTo 0x8000 (strs.flatMap fun w => leBytes 8 w.toNat)

/-- R371: the bookkeeping page of CD0 that holds the schedule record. -/
def recordPage : Nat := 91544

/-- R376: the schedule record written to its bookkeeping page. -/
def putRecord (b : List Byte) (s : State) : State :=
  commitNoted (b.zipIdx.map fun (x, i) => (slotKey 0 (recordPage * pageBytes + i), x)) s

/-! ### OPEN -/

/-- R379: where the next entry of `n` payload bytes starts in the log. -/
def nextEntryAt (s : State) (n : Nat) : Nat :=
  let room := logRing s - s.ember.logHead % logRing s
  if room < 16 + ceilDiv n 16 * 16 then s.ember.logHead + room else s.ember.logHead

/-- R373 step 4: the descriptors fetched and not started, logged again. -/
def relogDescs (s : State) : State :=
  ((List.range 64).flatMap (notStarted s)).foldl (fun s d => logEvent lkDesc (descPayload d.ref d.bytes) s) s

/-- R373: an epoch opens at this tick. -/
def openEpoch (d : Desc) (s : State) : State :=
  let e := s.ember
  let epoch := if e.current + 1 = 0 then 1 else e.current + 1
  let tab := emberTable s (embTable d)
  let ragged := isRagged s
  let start := nextEntryAt s 16
  let rec_ := scheduleRecord s epoch ragged d.lateness (emberPages tab) (start % logRing s)
  let s1 := setEmber { e with current := epoch, streaming := true, sinkHost := embHost d, hostAddr := BitVec.ofNat 64 (embAddr d),
                              ragged := ragged, opened := true, table := tab, pages := [], copies := 0, recordSent := false,
                              recordAcked := false, sentOrder := [], openStart := start } s
  let s2 := putRecord rec_ (snapAudit s1)
  let s3 := relogDescs (logEvent lkSegment (leBytes 4 epoch.toNat ++ List.replicate 12 0) s2)
  finishCopy d.ref .ember (Report.of stOk epoch.toNat) s3

/-! ### Writes that wait -/

/-- R377, R182: writes that waited for a page are made. -/
def makeHeld (ws : List HeldWrite) (s : State) : State :=
  let pb := partBad s.mem (ws.map fun w => (w.key, w.byte))
  let s1 := { s with mem := commit s.mem (ws.map fun w => (w.key, w.byte)) }
  pb.foldl (fun s c =>
    let (n, o) := slotOf c
    let p : Place := .stack (c / 2 ^ 36) (c % 2 ^ 36)
    let owner := (ws.find? fun w => codeword w.key == c).bind (·.owner)
    match owner with
    | some (r, t) => memUncorrectable r t (n * dieSpan + o) p 1 (symbolsAt s.mem p) s
    | none => (logMemErr (n * dieSpan + o) p 1 7 0xFFFF (symbolsAt s.mem p) s).2) s1

/-- R377: received entries, remote writes and collective pieces that wait for a page. -/
def receivedWait (s : State) : List (Nat × Nat) :=
  if !s.ember.streaming then [] else
    ((s.sync.unwritten.filter fun u => !queueMoved s u.2.queue).flatMap fun u =>
        let x := sqRx s u.2.queue
        ((List.range x.depth.toNat).filter fun k => !(x.entries.any fun e => e.slot == k)).map fun k => (slotAddr x k, u.2.payload.length))
      ++ (s.coll.unwritten.filter fun p => p.type == 10).map (fun p => (p.arg1.toNat % 2 ^ 44, p.payload.length))
      ++ (heldTargets s).map fun a => (a, 1)

/-- R377: some write waits for page `i`. -/
def touched (s : State) (i : Nat) : Bool :=
  (s.ember.heldWrites.any fun w => w.page == i) || (receivedWait s).any fun w => (spanPages s.ember.table w.1 w.2).contains i

/-- R377: a writer waits for some page. -/
def writersWait (s : State) : Bool := !s.ember.heldWrites.isEmpty || (receivedWait s).any fun w => writeWaits s w.1 w.2

/-- R377: the received entries, remote writes and collective pieces that waited for a page proceed as far as they may. -/
def releaseReceived (s : State) : State :=
  takeHeld <| serveUnwritten ((s.sync.unwritten.map fun u => u.2.queue).eraseDups.foldl (fun s q => judgeUnwritten q s) s)

/-- R377: the writes that waited for one page proceed. -/
def releaseHeld (i : Nat) (s : State) : State :=
  let ws := s.ember.heldWrites.filter fun w => w.page == i
  releaseReceived (makeHeld ws (setEmber { s.ember with heldWrites := s.ember.heldWrites.filter fun w => w.page != i } s))

/-- R377: copy on first touch has ended: every write that waited proceeds. -/
def releaseAllHeld (s : State) : State :=
  releaseReceived (makeHeld s.ember.heldWrites (setEmber { s.ember with heldWrites := [] } s))

/-! ### ABANDON -/

/-- R374: the pool page that a page of the ember occupies, and the column its token lies in. -/
def poolOf (x : EmberPage) : Option (Nat × Column) :=
  match x.st, x.lentPool with
  | .copying q, _ => some (q, .held)
  | .copied q _, _ => some (q, .held)
  | _, some q => some (q, .lent)
  | _, none => none

/-- R374, R387: the streaming epoch ends unsealed; every pool page returns to FREE. -/
def abandonEpoch (s : State) : State :=
  let back (s : State) (c : Nat × EmberPage) : State :=
    match poolOf c.2, homePage s.ember.table c.1 with
    | some (_, col), some (n, _) => if col == .held && isFenced s n then s else (ledgerMove dEmberPage n 1 col .free none s).2
    | _, _ => s
  let s1 := s.ember.pages.foldl back s
  releaseAllHeld (setEmber { s1.ember with streaming := false, pages := [], sentOrder := [] } s1)

/-- R373, R389: OPEN; the epoch that a replayed OPEN streams to a partner that is lost is abandoned at once (log 54). -/
def runOpen (d : Desc) (s : State) : State :=
  let s1 := openEpoch d s
  if d.replayed && !embHost d && !linked s then abandonEpoch s1 else s1

/-- R373: an EMBER OPEN that has been released runs. -/
def execEmberOpen (d : Ref) (s : State) : Answer := .next (emberRow d 0 runOpen s)

/-- R374: ABANDON. -/
def runAbandon (d : Desc) (s : State) : State :=
  let n := if s.ember.streaming then s.ember.current.toNat else 0
  let s1 := if s.ember.streaming then abandonEpoch s else s
  finishCopy d.ref .ember (Report.of stOk n) s1

/-- R374: an EMBER ABANDON runs. -/
def execEmberAbandon (d : Ref) (s : State) : Answer := .next (emberRow d 1 runAbandon s)

/-! ### LOAD -/

/-- The bytes of a 2 MiB page of a die. -/
def pageContents (s : State) (n p : Nat) : List Byte := (List.range pageBytes).map fun o => byteAt s.mem (slotKey n (p * pageBytes + o))

/-- R374: the bytes of a home page written for a LOAD. -/
def writeHome (d : Desc) (n p : Nat) (b : List Byte) (s : State) : State :=
  storeBy d.ref .ember .iod (addressed (n * dieSpan + p * pageBytes) (padTo pageBytes b)) s

/-- R374: the bytes of one page of an ember buffer written to its home page. -/
def loadPage (d : Desc) (i : Nat) (b : List Byte) (s : State) : State :=
  match homePage (emberTable s (embTable d)) i with
  | some (n, p) =>
    let old := pageContents s n p
    let s1 := writeHome d n p b s
    setEmber { s1.ember with replaced := s1.ember.replaced ++ [((n, p), old)] } s1
  | none => s

/-- R375: a LOAD whose read failed leaves each home page with its old or its new contents: each page that it had loaded holds either, and
every other its old contents, for which no new ones have been read (log 39). -/
def loadFailed (d : Desc) (s : State) : State :=
  let c := s.freeCtr
  let s1 := s.ember.replaced.zipIdx.foldl (fun s ((at_, old), i) =>
    if Config.freeAt c i % 2 = 0 then s else writeHome d at_.1 at_.2 old s) { s with freeCtr := c + 1 }
  invalid d.ref 32 (setEmber { s1.ember with replaced := [] } s1)

/-- R374, R378: one page has been read from its place in the ember buffer; pages are loaded in ascending index (log 39). -/
def takeLoad (page : Nat) (bytes : Option (List Byte)) (d : Desc) (s0 : State) : State :=
  let k := match copyAt d .ember with | some c => c.stage | none => 0
  let s := emit (.hostRead (BitVec.ofNat 64 (embAddr d + pageBytes * (page + 1))) pageBytes) s0
  if page ≠ k then s0 else
    match bytes with
    | none => loadFailed d s
    | some b =>
      let s1 := loadPage d page b (if page = 0 then setEmber { s.ember with replaced := [] } s else s)
      if page + 1 = emberPages (emberTable s (embTable d)) then
        finishCopy d.ref .ember .ok (setEmber { s1.ember with replaced := [] } s1)
      else updDesc d.ref (updCopy .ember fun c => { c with stage := k + 1 }) s1

/-- R374: the read of a page of the ember buffer of an EMBER LOAD has returned; none for a PCIe error completion. -/
def execEmberLoad (d : Ref) (page : Nat) (bytes : Option (List Byte)) (s : State) : Answer :=
  .next <|
    match (findDesc s d).bind fun x => copyAt x .ember with
    | none => s
    | some c =>
      if c.stage = 0 then emberRow d 2 (takeLoad page bytes) s
      else atStage d .ember c.stage (takeLoad page bytes) s

/-! ### Copy on first touch -/

/-- R377: pool pages of a die that may receive the copy of page `p` and are free. -/
def freePool (s : State) (n p : Nat) : List Nat :=
  let used := s.ember.pages.filterMap fun c =>
    match poolOf c.2, homePage s.ember.table c.1 with
    | some (q, _), some (m, _) => if m = n then some q else none
    | _, _ => none
  ((List.range (poolPages s)).map (poolFirst s + ·)).filter fun q => q % 3 == p % 3 && !used.contains q

/-- R377: a write waits for a CLEAN page, which the Hearth engines are told to copy to a pool page; which free one is open. -/
def startPageCopy (i : Nat) (s : State) : State :=
  match homePage s.ember.table i with
  | none => s
  | some (n, p) =>
    let qs := freePool s n p
    if qs.isEmpty || isFenced s n then s else
      let (k, s1) := choose qs.length s
      let (ok, s2) := ledgerTake dEmberPage n 1 s1
      if ok then setEmberPage i { emberPage s2 i with st := .copying (qs.getD k 0) } s2 else s

/-- R377: a write has touched a CLEAN page of the streaming epoch. -/
def execEmberPageCopy (page : Nat) (s : State) : Answer :=
  .next <|
    if s.ember.streaming && (emberPage s page).st == .clean && touched s page then
      startPageCopy page s
    else s

/-- R231, R238: the granules of page `p` that each engine of die `n` copies, at no more than 1,600 bytes in a Hearth cycle; how long the
arbiter held it up is open (log 11). -/
def countGranules (n p : Nat) (s : State) : State :=
  let (c, s1) := drawFree s
  useTokens dHeTxn 4096 c ((List.range 3).map (3 * n + ·)) <|
   (List.range 3).foldl (fun s j =>
    let e := 3 * n + j
    let g := ((List.range 1024).filter fun i => (1024 * p + i) % 3 == j).length
    { s with he := s.he.upd .reset e fun h =>
        { h with ember := h.ember.add g, rd := h.rd.add (2048 * g), wr := h.wr.add (2048 * g),
                 busy := h.busy.add (ceilDiv (4096 * g) 1600 + Config.freeAt c (16 + e)), waiting := h.waiting.add (Config.freeAt c e) } }) s1

/-- R231, R377: an ember page copy completes. -/
def execEmberCopyDone (page : Nat) (s : State) : Answer :=
  .next <|
    match (emberPage s page).st, homePage s.ember.table page with
    | .copying q, some (n, p) =>
      if !s.ember.streaming || isFenced s n then s else
        let s1 := notePageErrors n p { s with mem := copyPage n p q s.mem }
        let k := s1.ember.copies
        let s2 := setEmberPage page { emberPage s1 page with st := .copied q k } s1
        releaseHeld page (countGranules n p (setEmber { s2.ember with copies := k + 1 } s2))
    | _, _ => s

/-! ### Streaming -/

/-- R369: the entry of a page index and its number within the entry. -/
def entryOfPage (tab : List EmberEntry) (i : Nat) : Nat × Nat :=
  match tab with
  | [] => (0, i)
  | e :: t =>
    if i < e.pages then (0, i) else
      let (k, j) := entryOfPage t (i - e.pages)
      (k + 1, j)

/-- R407: the home of a page lies on a die that is not fenced. -/
def pageReachable (s : State) (i : Nat) : Bool :=
  match homePage s.ember.table i with
  | some (n, _) => !isFenced s n
  | none => false

/-- R378: the page that is streamed next: the copied page that was copied first, else the lowest CLEAN one. -/
def nextPage (s : State) : Option Nat :=
  let copied := s.ember.pages.filterMap fun c =>
    match c.2.st with
    | .copied _ k => if pageReachable s c.1 then some (k, c.1) else none
    | _ => none
  match copied.foldl (fun best c => match best with | none => some c | some b => if c.1 < b.1 then some c else best) none with
  | some c => some c.2
  | none => firstIdx (emberPages s.ember.table) fun i => (emberPage s i).st == .clean && pageReachable s i

/-- R377: the page that is being read for streaming from its home. -/
def readingPage (s : State) : Option Nat :=
  (s.ember.pages.find? fun c => decide (c.2.st = .reading) && pageReachable s c.1).map (·.1)

/-- R376, R384: the schedule record goes to the sink. -/
def streamRecord (s : State) : State :=
  let b := (List.range 65536).map fun i => byteAt s.mem (slotKey 0 (recordPage * pageBytes + i))
  let s1 := setEmber { s.ember with recordSent := true } s
  if s.ember.sinkHost then emit (.hostWrite s.ember.hostAddr b) s1
  else yokeMessage 7 6 0x200 0xFFFFFFFF s.ember.current.toNat b s1

/-- R378, R384: one page goes to the sink, from its home or from its pool copy. -/
def streamPage (i : Nat) (s : State) : State :=
  match homePage s.ember.table i with
  | none => s
  | some (n, p) =>
    let x := emberPage s i
    let pool := match x.st with | .copied q _ => some q | _ => none
    let b := pageContents s n (pool.getD p)
    let s1 := setEmberPage i { x with st := .done, sent := true, lentPool := pool } s
    let s2 := setEmber { s1.ember with sentOrder := s1.ember.sentOrder ++ [i] } s1
    let s3 := match pool with
      | some _ => (ledgerMove dEmberPage n 1 .held .lent none s2).2
      | none => s2
    let (k, j) := entryOfPage s.ember.table i
    let s4 := if s.ember.sinkHost then
        emit (.hostWrite (s.ember.hostAddr + BitVec.ofNat 64 (pageBytes * (i + 1))) b) s3
      else yokeMessage 7 6 0x200 (k + at' j 8) s.ember.current.toNat b s3
    releaseHeld i s4

/-- R377, R378: the next page: one that has a pool copy is streamed from it; a CLEAN one is read from its home. -/
def beginPage (i : Nat) (s : State) : State :=
  if (emberPage s i).st = .clean then setEmberPage i { emberPage s i with st := .reading } s else streamPage i s

/-- R377, R378: the ember unit goes on: it streams the record, ends the read of the page that it is reading and streams it, or takes the
next page. -/
def execEmberStream (s : State) : Answer :=
  .next <|
    if !s.ember.streaming then s
    else if !s.ember.recordSent then streamRecord s
    else match readingPage s with
      | some i => streamPage i s
      | none =>
        match nextPage s with
        | some i => beginPage i s
        | none => s

/-- R378: a page is acknowledged; its pool copy returns to FREE. -/
def ackPage (i : Nat) (s : State) : State :=
  let x := emberPage s i
  if x.acked then s else
    let s1 := setEmberPage i { x with acked := true, lentPool := none } s
    match x.lentPool, homePage s.ember.table i with
    | some _, some (n, _) => (ledgerMove dEmberPage n 1 .lent .free none s1).2
    | _, _ => s1

/-- R378: every page and the schedule record are acknowledged. -/
def allAcked (s : State) : Bool :=
  s.ember.recordAcked && (List.range (emberPages s.ember.table)).all fun i => (emberPage s i).acked

/-- R381: the SEGMENT entry of the open epoch has been overwritten. -/
def startLost (s : State) : Bool := decide (s.ember.openStart + logRing s < s.ember.logHead)

/-- R378, R381: the epoch is sealed. -/
def sealEpoch (s : State) : State :=
  let e := s.ember
  let done := e.pages.map fun c => (c.1, { c.2 with st := PageState.done })
  let s1 := setEmber { e with sealedEpoch := e.current, sealedStart := e.openStart, streaming := false, forfeit := startLost s,
                              pages := done } s
  raiseVector 69 (releaseAllHeld s1)

/-- R378: what follows an acknowledgement: with a host sink the epoch is sealed, with a partner SEAL goes out. -/
def sealIfAcked (s : State) : State :=
  if s.ember.streaming && allAcked s then
    if s.ember.sinkHost then sealEpoch s else yokeSend ykSeal s.ember.current.toNat s
  else s

/-- R378: a PAGE_ACK covers the pages streamed first; it follows the acknowledgement of the record, which was sent before
them. -/
def takePageAck (epoch pages : Word) (s : State) : State :=
  if s.ember.streaming && !s.ember.sinkHost && epoch == s.ember.current && s.ember.recordSent && !allAcked s then
    let s1 := setEmber { s.ember with recordAcked := true } s
    sealIfAcked ((s.ember.sentOrder.take pages.toNat).foldl (fun s i => ackPage i s) s1)
  else s

/-- R378: a PAGE_ACK arrives. -/
def execPageAckReceive (epoch pages : Word) (s : State) : Answer := .next (takePageAck epoch pages (heardPartner s))

/-- R378: a SEAL_ACK completes the seal. -/
def takeSealAck (epoch : Word) (s : State) : State :=
  if s.ember.streaming && !s.ember.sinkHost && epoch == s.ember.current && allAcked s then sealEpoch s else s

/-- R378: a SEAL_ACK arrives. -/
def execSealAckReceive (epoch : Word) (s : State) : Answer := .next (takeSealAck epoch (heardPartner s))

/-- R378: with a host sink, the read of a page's last 64 bytes has completed; the first such read also shows that the record,
written before every page, has arrived. -/
def execEmberHostAckRead (page : Nat) (s : State) : Answer :=
  .next <|
    if s.ember.streaming && s.ember.sinkHost && (emberPage s page).sent then
      sealIfAcked (ackPage page (setEmber { s.ember with recordAcked := true } s))
    else s

/-- R393: EMB_PAGES.ACKED. -/
def pagesAcked (s : State) : Nat := (s.ember.pages.filter fun c => c.2.acked).length

end Sys2Proof.Machine
end

