-- ==== Sys2Proof/Machine/Yoke.lean ====
section
/-! DEFINITION. Yoke pairs: linking (R384, R385), what the banked member receives (R385), acceptance under LOG_ACK (R386), partner
loss (R387), the start of a takeover (R388), DEPOSE and RESYNC (R390), and YOKE_CFG (R394). -/

namespace Sys2Proof.Machine

def yokeBase : Nat := 0x1B0000

/-- R384: the states in which a member takes part in its pair. -/
def yokeRuns (s : State) : Bool :=
  s.yoke.en && (s.ms.mode == .full || s.ms.mode == .fenced || s.ms.mode == .banked)

/-- R395: ERR takes a value; setting it raises vector 69. -/
def setYokeErr (v : Nat) (s : State) : State :=
  if s.yoke.err = v then s else raiseVector 69 (setYoke { s.yoke with err := v } s)

/-! ### Linking -/

/-- R385, R386: the members become LINKED; what LOG_ACK covers is counted anew. -/
def linkIfReady (s : State) : State :=
  if !s.yoke.gotPair || !s.yoke.gotBeat then s
  else if linked s then s
  else setPartner 2 (setYoke { s.yoke with ackFrom := none, ackFirst := 0 } (setEmber { s.ember with logSent := 0 } s))

/-- R384: ARG1 of a PAIR: the figures of this member's ember table and log. -/
def pairFigures (s : State) : Nat × Nat × Bool :=
  (s.ember.effLogPages, fieldAt (readBytes s .iod s.ember.tableAddr.toNat 64) 0 0 8 + 1, s.hw.variant == .m2)

/-- R384: a member sends PAIR until it is linked. -/
def execPairSend (s : State) : Answer :=
  .next <|
    let (l, n, v) := pairFigures s
    if yokeRuns s && !linked s then yokeSend ykPair (l + at' n 16 + at' (bit v) 25) s else s

/-- R385: a PAIR is compared with the member's own figures. -/
def takePair (logPages entries : Nat) (variant : Bool) (s : State) : State :=
  if !yokeRuns s then s else
    let s1 := heardPartner s
    if pairFigures s1 = (logPages, entries, variant) then linkIfReady (setYoke { s1.yoke with gotPair := true } s1)
    else setYokeErr 1 s1

/-- R385: a PAIR arrives. -/
def execPairReceive (logPages : BitVec 16) (entries : BitVec 9) (variant : Bool) (s : State) : Answer :=
  .next (takePair logPages.toNat entries.toNat variant s)

/-- R384: a member sends HEARTBEAT. -/
def execHeartbeatSend (s : State) : Answer := .next (if yokeRuns s then yokeSend ykHeartbeat s.ms.mode.code s else s)

/-- R385: a HEARTBEAT is received. -/
def takeHeartbeat (s : State) : State :=
  if yokeRuns s then linkIfReady (setYoke { (heardPartner s).yoke with gotBeat := true } s) else s

/-- R385: a HEARTBEAT arrives; the state that it carries changes nothing. -/
def execHeartbeatReceive (_state : BitVec 4) (s : State) : Answer := .next (takeHeartbeat s)

/-! ### The banked member -/

/-- R385: the member receives its partner's ember and log. -/
def receives (s : State) : Bool := s.ms.mode == .banked && s.ms.trans == .none && linked s

/-- R385: reception of an epoch begins with its first message. -/
def rxBegin (epoch : Word) (s : State) : State :=
  if s.yoke.rxEpoch = epoch then s
  else setYoke { s.yoke with rxEpoch := epoch, rxPages := [], rxRecord := false, rxBad := false, rxRec := [] } s

/-- R385: what has been written of the epoch is acknowledged. -/
def sendPageAck (s : State) : State :=
  yokeSend ykPageAck (s.yoke.rxEpoch.toNat + at' s.yoke.rxPages.length 32) s

/-- R369: the index of a page named by its entry and its number there. -/
def indexOfPage (tab : List EmberEntry) (e j : Nat) : Nat := ((tab.take e).map (·.pages)).sum + j

/-- R385: an ember page arrives whole: it is written into bank (epoch mod 2) of its entry, or is outside the member's table. -/
def takePage (e j : Nat) (b : List Byte) (s : State) : State :=
  let a := s.ember.tableAddr.toNat
  let tab := if tableBad s a then [] else emberTable s a
  match tab[e]? with
  | some x =>
    if j < x.pages then
      let bank := (if s.yoke.rxEpoch.getLsbD 0 then x.bank1 else x.bank0).toNat
      let o := bank % dieSpan + j * pageBytes
      let ws := (padTo pageBytes b).zipIdx.map fun (v, i) => (slotKey (bank / dieSpan) (o + i), v)
      let s1 := commitNoted ws (setYoke { s.yoke with rxPages := s.yoke.rxPages.put false (indexOfPage tab e j) true } s)
      if s1.yoke.rxBad then s1 else sendPageAck s1
    else setYokeErr 2 (setYoke { s.yoke with rxBad := true } s)
  | none => setYokeErr 2 (setYoke { s.yoke with rxBad := true } s)

/-- R384, R385: an EMBER message arrives whole. -/
def takeEmber (arg0 : Word) (arg1 : DWord) (b : List Byte) (s : State) : State :=
  if !receives s then s else
    let s1 := rxBegin (arg1.setWidth 32) s
    if arg0 = 0xFFFFFFFF then
      let s2 := putRecord b (setYoke { s1.yoke with rxRecord := true, rxRec := b } s1)
      if s2.yoke.rxBad then s2 else sendPageAck s2
    else takePage (bitsOf arg0.toNat 0 8) (bitsOf arg0.toNat 8 24) b s1

/-- The first position from one on that lies at an offset of a ring. -/
def positionFrom (p r o : Nat) : Nat := p + (o % r + r - p % r) % r

/-- R385, R379: a LOG payload is written into the member's own ring at the same offset and acknowledged; the log goes on after it. -/
def takeLog (o : Nat) (b : List Byte) (s : State) : State :=
  if !receives s then s else
    let y := s.yoke
    let r := max 1 (logRing s)
    let e := positionFrom (max r y.logEnd) r (o + b.length)
    let s1 := putLog o b (setYoke { y with mirrored := y.mirrored + b.length, logEnd := e } (setEmber { s.ember with logHead := e } s))
    yokeSend ykLogAck (s1.yoke.mirrored % 2 ^ 64) s1

/-- R385: every page of the member's table has been received for the epoch. -/
def rxWhole (s : State) : Bool :=
  s.yoke.rxRecord && !s.yoke.rxBad && s.yoke.rxPages.length == emberPages (emberTable s s.ember.tableAddr.toNat)

/-- The little-endian number of `n` bytes of the log from an offset on. -/
def logNat (s : State) (o n : Nat) : Nat := leNat (logBytes s o n)

/-- R381: the SEGMENT entry of an epoch still stands in the log, where its schedule record says. -/
def segmentStands (rec_ : List Byte) (epoch : Word) (s : State) : Bool :=
  let o := fieldAt rec_ 0x20 0 64
  logNat s o 1 == lkSegment && logNat s (o + 16) 4 == epoch.toNat

/-- R388: LOG_START of the sealed epoch. -/
def sealedLogStart (s : State) : Nat := fieldAt s.yoke.sealedRec 0x20 0 64

/-- R388: the bytes of the log from LOG_START to the last mirrored byte. -/
def replaySpan (s : State) : Nat :=
  let r := max 1 (logRing s)
  let n := (s.yoke.logEnd + r - sealedLogStart s % r) % r
  if n = 0 then r else n

/-- R385, R381, R393: at SEAL the member makes the epoch its sealed ember, whose entries are protected; FORFEIT clears unless the epoch's SEGMENT entry has been overwritten. -/
def takeSeal (epoch : Word) (s : State) : State :=
  if receives s && s.yoke.rxEpoch == epoch && rxWhole s then
    let s1 := setYoke { s.yoke with sealedRec := s.yoke.rxRec } s
    let s2 := setEmber { s.ember with sealedEpoch := epoch, sealedStart := s.yoke.logEnd - replaySpan s1,
                                      forfeit := s.ember.forfeit && !segmentStands s.yoke.rxRec epoch s } s1
    yokeSend ykSealAck epoch.toNat (raiseVector 69 s2)
  else s

/-- R385: a SEAL arrives. -/
def execSealReceive (epoch : Word) (s : State) : Answer := .next (takeSeal epoch (heardPartner s))

/-- R381: the banked member learns that local recovery is forfeited. -/
def takeForfeit (s : State) : State := if s.ms.mode = .banked then setEmber { s.ember with forfeit := true } s else s

/-- R381: a FORFEIT arrives. -/
def execForfeitReceive (s : State) : Answer := .next (takeForfeit (heardPartner s))

/-! ### Acceptance -/

/-- R386: a message whose log entries are covered is accepted. -/
def acceptNow (a : Accept) (s : State) : State :=
  match a with
  | .entry e => acceptEntry e s
  | .chunk p => sendAll [p] s
  | .rwr p => sendResponse p.srcPos.toNat p.vc p.arg0.toNat p.arg1.toNat [] s
  | .rrsp r status => endReply r status s

/-- R386: the messages that wait are accepted in order, up to a log position. -/
def acceptUpTo (covered : Nat) (s : State) : State :=
  let go := s.yoke.pendingAccept.filter fun a => decide (a.1 ≤ covered)
  go.foldl (fun s a => acceptNow a.2 s)
    (setYoke { s.yoke with pendingAccept := s.yoke.pendingAccept.filter fun a => !decide (a.1 ≤ covered) } s)

/-- R386: a LOG_ACK covers log bytes. It counts from the partner's PERST_N: the first one of a link covers the link's first LOG packet, which
shows what it counted before (log 99). -/
def takeLogAck (bytes : DWord) (s : State) : State :=
  let s1 := setEmber { s.ember with logMirror := bytes } s
  if !linked s || s.yoke.ackFirst = 0 then s1 else
    let start := s.yoke.ackFrom.getD ((bytes.toNat + 2 ^ 64 - s.yoke.ackFirst) % 2 ^ 64)
    acceptUpTo ((bytes.toNat + 2 ^ 64 - start) % 2 ^ 64) (setYoke { s1.yoke with ackFrom := some start } s1)

/-- R386: a LOG_ACK arrives. -/
def execLogAckReceive (bytes : DWord) (s : State) : Answer := .next (takeLogAck bytes (heardPartner s))

/-- R386: a member that is no longer linked accepts without LOG_ACK. -/
def acceptAll (s : State) : State :=
  let go := s.yoke.pendingAccept
  go.foldl (fun s a => acceptNow a.2 s) (setYoke { s.yoke with pendingAccept := [] } s)

/-! ### The start of a takeover -/

/-- R379: the entries of the log from an offset on, within a number of bytes: the offset, KIND and LEN of each. -/
def logEntries (s : State) : Nat → Nat → Nat → List (Nat × Nat × Nat)
  | 0, _, _ => []
  | n + 1, o, left =>
    if left < 16 then [] else
      let kind := logNat s o 1
      let len := logNat s (o + 1) 3
      let size := 16 + ceilDiv len 16 * 16
      if left < size then [] else (o, kind, len) :: logEntries s n ((o + size) % logRing s) (left - size)

/-- R388, R389: the entries that a replay walks. -/
def replayEntries (s : State) : List (Nat × Nat × Nat) := logEntries s (replaySpan s / 16) (sealedLogStart s) (replaySpan s)

/-- R376: the receive streams that a schedule record lists: source, side, STREAM and expected MSEQ. -/
def listedStreams (b : List Byte) : List (Nat × Bool × Nat × Word) :=
  (List.range (fieldAt b 0x1C 0 16)).map fun k =>
    let o := 0x8000 + 8 * k
    (fieldAt b o 0 14, fieldAt b o 14 1 == 1, fieldAt b o 16 16, BitVec.ofNat 32 (fieldAt b o 32 32))

/-- R388: the source positions of the sealed record's stream list and of the received log. -/
def resyncSources (s : State) : List Nat :=
  let fromLog := (replayEntries s).filterMap fun (o, kind, _) =>
    if kind = lkEntry then some (sqRx s (logNat s (o + 16) 4)).srcPos.toNat
    else if kind = lkChunk then some (logNat s (o + 28) 4 % 2 ^ 14)
    else none
  ((listedStreams s.yoke.sealedRec).map (·.1) ++ fromLog).eraseDups.filter (· != strapPos s)

/-- R384, R388: RESYNC to a position. -/
def sendResync (pos : Nat) (s : State) : State :=
  let (n, s1) := takeSeq (sendKey pos 0 0x202) s
  sendAll [mkPacket s1 9 7 pos 0 0x202 n ykResync 0 0 true []] s1

/-- R388, R379: in a takeover the log goes on after the last mirrored byte, and the sealed epoch is the newest. -/
def continueLog (s : State) : State :=
  let e := s.ember
  let next := match (replayEntries s).getLast? with
    | some x => BitVec.ofNat 32 (logNat s (x.1 + 4) 4) + 1
    | none => e.lseq
  setEmber { e with current := e.sealedEpoch, opened := true, lseq := next, logHead := s.yoke.logEnd, openStart := e.sealedStart } s

/-- R388 steps 1 and 2: a takeover starts, to end with a CAUSE. -/
def startTakeover (cause : Nat) (s : State) : State :=
  let s1 := setYoke { s.yoke with takeStart := s.ft.ft, takeCause := cause } s
  if s.ember.sealedEpoch = 0 then takeoverFail 2 s1
  else if s.ember.forfeit then takeoverFail 3 s1
  else
    let s2 := setYoke { s1.yoke with stage := .restoring, deposeLeft := 100 }
      (continueLog { s1 with ms := { s1.ms with trans := .takeover } })
    (resyncSources s2).foldl (fun s p => sendResync p s) s2

/-! ### Partner loss -/

/-- R387: a member has lost its partner. -/
def partnerLost (s : State) : State :=
  if !linked s then s else
    let s1 := setPartner 3 (setYoke { s.yoke with gotPair := false, gotBeat := false } s)
    if s.ms.mode = .banked then (if s.ms.trans = .none then startTakeover causeTakeover s1 else s1)
    else
      let s2 := if s1.ember.streaming && !s1.ember.sinkHost then abandonEpoch s1 else s1
      acceptAll s2

/-- R387: no packet of the partner's control stream has arrived for 250 µs. -/
def execPartnerLossTimeout (s : State) : Answer :=
  .next <|
    match s.yoke.heard with
    | some t => if linked s && decide (t + 250000 ≤ s.clk) then partnerLost s else s
    | none => s

/-- R387: a FAULT packet has arrived. -/
def execFaultReceive (_cause : Nat) (s : State) : Answer := .next (partnerLost (heardPartner s))

/-! ### DEPOSE and RESYNC -/

/-- R384, R388: the new active sends DEPOSE to the old side, one hundred times. -/
def execDeposeSend (s : State) : Answer :=
  .next <|
    if 0 < s.yoke.deposeLeft then yokeSend ykDepose 0 (setYoke { s.yoke with deposeLeft := s.yoke.deposeLeft - 1 } s) else s

/-- R390: a DEPOSE arrives. -/
def execDeposeReceive (s : State) : Answer := .next (depose (heardPartner s))

/-- R390 step 1: the receive streams from a position are kept under the side that the RESYNC came from; its yoke streams stay. -/
def rekey (pos : Nat) (side : Bool) (s : State) : State :=
  let other (k : Nat) : Bool :=
    k / 2 ^ 17 == pos && (k / 2 ^ 16 % 2 == 1) != side && !decide (0x200 ≤ k % 2 ^ 16 ∧ k % 2 ^ 16 ≤ 0x202)
  let mv := s.link.streams.filter fun x => other x.1
  let kept := s.link.streams.filter fun x => !other x.1
  { s with link := { s.link with
      streams := mv.foldl (fun t x => t.put .reset (streamKey pos side (x.1 % 2 ^ 16)) x.2) kept } }

/-- R390: a RESYNC from a position: its streams are rekeyed and every retained message toward it is sent again. -/
def takeResync (p : Packet) (s : State) : State :=
  let s1 := rekey p.srcPos.toNat p.srcSide s
  sendAll (s1.link.retained.filter fun q => q.dstPos == p.srcPos) s1

/-- R390: a RESYNC arrives. -/
def execResyncReceive (p : Packet) (s : State) : Answer :=
  .next (if inService s && p.srcPos.toNat != strapPos s then takeResync p s else s)

/-- R384: a YOKE packet by its kind; a kind above 9 is ignored. RESYNC may come from any position, every other kind comes from the
partner. -/
def takeYoke (p : Packet) (s : State) : State :=
  let kind := bitsOf p.arg0.toNat 0 4
  let a := p.arg1
  let lo : Word := a.setWidth 32
  if kind = ykResync then (if p.srcPos.toNat != strapPos s then takeResync p s else s)
  else if p.srcPos.toNat ≠ strapPos s ∨ p.srcSide = strapSide s ∨ !s.yoke.en then s
  else
    let s1 := heardPartner s
    if kind = ykPair then takePair (bitsOf a.toNat 0 16) (bitsOf a.toNat 16 9) (bitOf a.toNat 25) s1
    else if kind = ykHeartbeat then takeHeartbeat s1
    else if kind = ykPageAck then takePageAck lo ((a >>> 32).setWidth 32) s1
    else if kind = ykSeal then takeSeal lo s1
    else if kind = ykSealAck then takeSealAck lo s1
    else if kind = ykLogAck then takeLogAck a s1
    else if kind = ykFault then partnerLost s1
    else if kind = ykForfeit then takeForfeit s1
    else if kind = ykDepose then depose s1
    else s1

/-! ### YOKE_CFG -/

/-- R394, R494: a write of YOKE_CFG: ignored while a takeover runs; EN is ignored while the strap is deasserted. -/
def writeYokeCfg (v : Word) (s : State) : State :=
  if s.ms.trans = .takeover then s else
    let s1 := setYoke { s.yoke with emberPort := (v >>> 4).setWidth 4, logPort := (v >>> 8).setWidth 4 } s
    if !strapYokeEn s then s1
    else if v.getLsbD 0 then
      if s.yoke.en then s1
      else setPartner 1 (claimHigh 2 (setYoke { s1.yoke with gotPair := false, gotBeat := false, heard := none } s1))
    else if s.yoke.en then
      acceptAll (setPartner 0 (setYoke { s1.yoke with en := false, gotPair := false, gotBeat := false } s1))
    else s1

/-- R383, R493: a write of YOKE_CFG. -/
def execYokeCfgWrite (value : Word) (s : State) : Answer := .next (bar0Write yokeBase value.toNat (writeYokeCfg value) s)

end Sys2Proof.Machine
end

