-- ==== Sys2Proof/Machine/Deliver.lean ====
section
/-! DEFINITION. Arrival of packets: the pool (R307), collisions (R259), undeliverable packets (R311), duplicates, order and gaps
of streams (R310), and what each TYPE does (R301). -/

namespace Sys2Proof.Machine

/-! ### What cannot be delivered -/

/-- R382: the module holds its position's claim. -/
def holdsClaim (s : State) : Bool := !strapYokeEn s || ownRole s == 1

/-- R300, R311: DST_POS and DST_SIDE name this module. -/
def namesMe (s : State) (p : Packet) : Bool :=
  p.dstPos.toNat == strapPos s &&
    (match p.dstSide.toNat with
     | 0 => holdsClaim s
     | 1 => !strapSide s
     | 2 => strapSide s
     | _ => false)

/-- R310: the packets that are not sequenced. -/
def isControl (p : Packet) : Bool :=
  match p.type.toNat with
  | 2 | 3 | 4 | 5 | 13 => true
  | _ => false

/-- R309: the streams that are listed. -/
def listed (st : Nat) : Bool := decide (st < 0x40 ∨ (0x100 ≤ st ∧ st < 0x180) ∨ (0x200 ≤ st ∧ st ≤ 0x202) ∨ st = 0x300)

/-- R278, R309, R322, R383: a stream of a TYPE is open. -/
def streamOpen (s : State) (p : Packet) : Bool :=
  let st := p.stream.toNat
  match p.type.toNat with
  | 1 => decide (st < 0x40)
  | 6 => decide (0x100 ≤ st ∧ st < 0x180) && s.adm.admitted
  | 7 => st == 0x200 && s.yoke.en
  | 8 => st == 0x201 && s.yoke.en
  | 9 => st == 0x202
  | 10 | 11 | 12 => st == 0x300 && s.adm.admitted
  | _ => false

/-- R311: an ENTRY packet belongs to a message that exceeds its slot; a later packet does where the first was refused. -/
def entryTooLong (s : State) (p : Packet) : Bool :=
  let k := streamKey p.srcPos.toNat p.srcSide p.stream.toNat
  let room := slotBytes (sqRx s p.stream.toNat)
  decide (room < p.offset.toNat + p.payload.length) || (p.offset == 0 && decide (room < p.arg1.toNat))
    || (p.offset != 0 && (streamOf s k).offset == 0 && s.link.refused.contains (k, p.mseq))

/-- R311: why a packet cannot be delivered; a TYPE of 0 or 14 has no reason of its own, which is `free`. -/
def undeliveredWhy (s : State) (port free : Nat) (p : Packet) : Option Nat :=
  let x := sqRx s p.stream.toNat
  if port < 16 ∧ !portUp s port then some 4
  else if !namesMe s p then some 6
  else if p.type = 0 ∨ 14 ≤ p.type.toNat then some free
  else if !listed p.stream.toNat then some 1
  else if isControl p then none
  else if !streamOpen s p then some 1
  else if p.type = 1 then
    (if !x.en then some 2 else if x.srcPos != p.srcPos then some 3 else if entryTooLong s p then some 5 else none)
  else none

/-! ### Messages and packets by TYPE -/

/-- The bytes of the message so far, with the packet's own, and its first packet's ARG0 and ARG1. -/
def gather (x : Stream) (p : Packet) : Stream :=
  if p.offset = 0 then { x with data := p.payload, arg0 := p.arg0, arg1 := p.arg1 } else { x with data := x.data ++ p.payload }

/-- R301: a packet of a message that is handled whole. -/
def whole (p : Packet) : Bool :=
  match p.type.toNat with
  | 1 | 7 | 10 => true
  | _ => false

/-- R259, R332: the running GET is the one that a response answers. -/
def awaits (s : State) (r : CollRun) (p : Packet) : Bool := r.op == 6 && r.reply && (answered s p).any fun a => a.ref == r.ref

/-- R301: what a packet in order does, with its stream's message up to it. -/
def handle (port : Nat) (collided : Bool) (p : Packet) (x : Stream) (s : State) : State :=
  match p.type.toNat with
  | 1 =>
    if p.last then
      receiveEntry p.srcSide
        { srcPos := p.srcPos, queue := p.stream.toNat, seq := p.mseq, fmt := bitsOf x.arg0.toNat 0 4, prio := bitsOf x.arg0.toNat 4 2,
          etag := BitVec.ofNat 16 (bitsOf x.arg0.toNat 16 16), payload := x.data, collided := x.collided } s
    else s
  | 6 => applyChunk (chunkOf port collided p) s
  | 7 => if p.last then takeEmber x.arg0 x.arg1 x.data s else s
  | 8 => takeLog (p.arg1.toNat + p.offset.toNat) p.payload s
  | 9 => takeYoke p s
  | 10 => if p.last then serveWrite { p with arg1 := x.arg1 } x.data s else s
  | 11 => serveRead p s
  | 12 =>
    let s1 := match liveRun s with
      | some r => if collided && awaits s r p then
          updDesc r.ref (fun d => { d with collided := true })
            (setRun (some { r with collisions := r.collisions + 1, collPort := if r.collisions = 0 then port else r.collPort }) s)
        else s
      | none => s
    takeResponse p s1
  | _ => s

/-- R301, R310: a control packet is acted on by the rule that owns it. -/
def takeControl (p : Packet) (s : State) : State :=
  let pos := p.srcPos.toNat
  let st := p.stream.toNat
  match p.type.toNat with
  | 2 => if st < 64 then takeGrant pos st p.mseq (bitsOf p.arg0.toNat 0 11) (bitsOf p.arg0.toNat 16 15) s else s
  | 3 => if st < 64 then takeGrantAck pos st s else s
  | 4 => if st < 64 then takeQstate pos st p.mseq p.arg0 s else s
  | 5 =>
    if st < 64 then refuseSend pos st p.mseq s
    else if st = 0x300 then refuseRemote pos p.mseq s
    else if 0x100 ≤ st ∧ st < 0x180 then refuseChunk pos st p.mseq p.arg0.toNat s
    else s
  | 13 => if 0x100 ≤ st ∧ st < 0x180 then takeMack pos st p.mseq s else s
  | _ => s

/-! ### Order -/

/-- R310, R281: the MSEQ that a stream expects: of a stage queue its EXPECT, counting what waits for LOG_ACK. -/
def expectedSeq (s : State) (p : Packet) (x : Stream) : Word :=
  if p.stream.toNat < 64 then
    let q := p.stream.toNat
    (sqRx s q).expect + BitVec.ofNat 32 (awaitingAck s q + (s.sync.unwritten.filter fun u => u.2.queue == q).length)
  else x.mseq

/-- R307, R310, R311: the blocks of a packet that is discarded are free at once. -/
def discardBlocks (port blocks : Nat) (p : Packet) (s : State) : State := if blocks = 0 then s else poolFree port p.vc blocks s

/-- R310 rule 1: a duplicate packet; the last one of a duplicate entry counts the entry. -/
def takeDuplicate (past : Bool) (p : Packet) (s : State) : State :=
  let s1 := { s with link := { s.link with dup := s.link.dup.add 1 } }
  if p.type = 1 ∧ past ∧ p.last then
    let q := p.stream.toNat
    let x := sqRx s1 q
    sendQstate q (setSqRx q { x with dup := x.dup.add 1, returned := x.returned + 1 } s1)
  else s1

/-- R310 rule 3: the descriptor that the data of a lost packet would have served. -/
def servedBy (s : State) (p : Packet) : Option Ref :=
  match liveRun s with
  | none => none
  | some r =>
    if p.type = 6 ∧ r.op ≤ 4 ∧ r.slot = (p.stream.toNat - 0x100) / 16 then some r.ref
    else if p.type = 12 ∧ awaits s r p then some r.ref
    else none

/-- R310 rule 3: a gap. -/
def takeGap (port : Nat) (p : Packet) (s : State) : State :=
  if p.type = 1 then entryGap p.stream.toNat s else ledgerFault dLinkPacket kGap port (servedBy s p) s

/-- R310 rule 2: a packet in order: the payload is taken and n advances; LAST ends the message and e advances. -/
def takeInOrder (port : Nat) (collided : Bool) (k : Nat) (p : Packet) (x : Stream) (s : State) : State :=
  let y := gather { x with collided := (if p.offset = 0 then false else x.collided) || collided,
                           chan := chanOf port p.vc } p
  let next := if p.last then
      { Stream.reset with isOpen := true, chan := chanOf port p.vc, mseq := if p.stream.toNat < 64 then 0 else x.mseq + 1 }
    else if whole p then { y with isOpen := true, offset := x.offset + p.payload.length }
    else { x with isOpen := true, offset := x.offset + p.payload.length }
  handle port collided p y (setStream k next s)

/-- R310: a data packet of an open stream, in some blocks of the pool. -/
def takeData (port blocks : Nat) (collided : Bool) (p : Packet) (s : State) : State :=
  let k := streamKey p.srcPos.toNat p.srcSide p.stream.toNat
  let x := streamOf s k
  match serial (expectedSeq s p x) p.mseq with
  | .past _ => takeDuplicate true p (discardBlocks port blocks p s)
  | .ahead _ => takeGap port p (discardBlocks port blocks p s)
  | .reached =>
    if p.offset.toNat < x.offset then takeDuplicate false p (discardBlocks port blocks p s)
    else if x.offset < p.offset.toNat then takeGap port p (discardBlocks port blocks p s)
    else takeInOrder port collided k p x s

/-- R388: a data packet of a peer that arrives during a takeover. -/
def waitsForTakeover (s : State) (p : Packet) : Bool :=
  s.ms.trans == .takeover && !isControl p && !decide (0x200 ≤ p.stream.toNat ∧ p.stream.toNat ≤ 0x202)

/-- R310, R311, R388: a packet that the pool has taken into some blocks is delivered, discarded, or waits for the end of a takeover. -/
def deliver (port blocks : Nat) (collided : Bool) (p : Packet) (s : State) : State :=
  let k := streamKey p.srcPos.toNat p.srcSide p.stream.toNat
  let s0 := if p.offset = 0 then { s with link := { s.link with refused := s.link.refused.filter fun r => r != (k, p.mseq) } } else s
  let (free, s1) := if p.type = 0 ∨ 14 ≤ p.type.toNat then drawFree s0 else (0, s0)
  match undeliveredWhy s1 port free p with
  | some why =>
    undeliverable p.type.toNat p.srcPos.toNat p.srcSide p.stream.toNat p.mseq 1 why (discardBlocks port blocks p s1)
  | none =>
    if isControl p then takeControl p s1
    else if waitsForTakeover s1 p then
      { s1 with yoke := { s1.yoke with waiting := s1.yoke.waiting ++ [(port, collided, p)] } }
    else takeData port blocks collided p s1

/-- R307, R259, R310, R311, R315: a packet arrives on a port; the peer of one in TRAINING holds no credits yet, and no block keeps what
comes there. -/
def receivePacket (port : Nat) (p : Packet) (s : State) : State :=
  let x := portOf s port
  let s1 := setPort port { x with stats := { x.stats with rxBytes := x.stats.rxBytes.add (packetBytes p) } } s
  let b := if x.state == .training then 0 else packetBlocks p
  let (ok, s2) := if b = 0 then (true, s1) else poolArrive port p.vc b s1
  if !ok then s2 else
    let (c, s3) := noteArrival port p s2
    deliver port b c p s3

/-- R310: a packet arrives on a port. -/
def execPacketReceive (port : Nat) (p : Packet) (s : State) : Answer :=
  .next (if flitState s port && decide (p.vc < 8) then receivePacket port p s else s)

/-- A packet of one TYPE that has been taken from its port. -/
def deliverType (t : Nat) (port : Nat) (p : Packet) (s : State) : State :=
  if p.type.toNat = t then
    let (c, s1) := noteArrival port p s
    deliver port 0 c p s1
  else s

/-- R333: a CHUNK packet arrives. -/
def execChunkReceive (port : Nat) (p : Packet) (s : State) : Answer := .next (deliverType 6 port p s)

/-- R333: a MACK packet arrives. -/
def execMackReceive (port : Nat) (p : Packet) (s : State) : Answer := .next (deliverType 13 port p s)

/-- R332: an RWR packet arrives. -/
def execRwrReceive (port : Nat) (p : Packet) (s : State) : Answer := .next (deliverType 10 port p s)

/-- R332: an RRD packet arrives. -/
def execRrdReceive (port : Nat) (p : Packet) (s : State) : Answer := .next (deliverType 11 port p s)

/-- R332: an RRSP packet arrives. -/
def execRrspReceive (port : Nat) (p : Packet) (s : State) : Answer := .next (deliverType 12 port p s)

/-- R311: a REFUSE packet arrives. -/
def execRefuseReceive (p : Packet) (s : State) : Answer :=
  .next (if p.type = 5 then takeControl p (noteSomewhere p s).2 else s)

/-- R385: a packet of the partner of one TYPE that has been taken from some port. -/
def deliverYoke (t : Nat) (p : Packet) (s : State) : State :=
  if p.type.toNat = t then
    let (c, s1) := noteSomewhere p s
    deliver noPort 0 c p s1
  else s

/-- R385: an EMBER packet of the partner arrives. -/
def execEmberPacketReceive (p : Packet) (s : State) : Answer := .next (deliverYoke 7 p s)

/-- R385: a LOG packet of the partner arrives. -/
def execLogPacketReceive (p : Packet) (s : State) : Answer := .next (deliverYoke 8 p s)

end Sys2Proof.Machine
end

