-- ==== Sys2Proof/Machine/Power.lean ====
section
/-! DEFINITION. Power and operating points: OP_SET (R416 to R418), walks (R415), the cap (R419), steering (R420), droop (R421),
temperatures (R422) and the input (R411). -/

namespace Sys2Proof.Machine

def pwrBase : Nat := 0x150000

def setPwr (p : Power) (s : State) : State := { s with pwr := p }

/-! ### The operating-point table -/

/-- R414: the clock of an OP, in MHz. -/
def opMhz (o : Nat) : Nat := [400, 600, 800, 1000, 1200, 1350].getD o 1350

/-- R414: D(OP), the largest draw of one compute die, in W. -/
def opDraw (o : Nat) : Nat := [130, 200, 285, 390, 520, 665].getD o 665

/-- R414: 600 times D(f) at a clock of f MHz, linear between adjacent points. -/
def draw600 (f : Nat) : Nat :=
  let i := ((List.range 5).filter fun i => decide (opMhz i ≤ f)).getLast?.getD 0
  600 * opDraw i + 600 * (opDraw (i + 1) - opDraw i) * (f - opMhz i) / (opMhz (i + 1) - opMhz i)

/-- R414: the rail voltage at a clock of f MHz, in quarters of a millivolt. -/
def railFor (f : Nat) : Nat := if f ≤ 1200 then 2400 + (f - 400) else 3200 + (f - 1200) * 8 / 5

/-- R420: the highest 25 MHz step that fits a die's share of its draw at its effective OP. -/
def clockFor (eff : Nat) (share : Int) : Nat :=
  if share = 0 then opMhz eff
  else
    let fits (f : Nat) : Bool := decide (20 * draw600 f ≤ (20 + share).toNat * (600 * opDraw eff))
    (((List.range 39).map fun i => 400 + 25 * i).filter fits).getLast?.getD 400

/-! ### Flags and the vector of a warning -/

/-- R419, R422: the largest requested OP of the dies in service; Kindling runs CD0 alone. -/
def topRequest (s : State) : Nat :=
  (((liveDies s).filter fun n => s.ms.mode != .kindling || n == 0).map fun n => (pwrDie s n).req).foldl max 0

/-- R419: PWR_STATUS.THROTTLE_CAP, and R422: THROTTLE_THERM. -/
def throttleFlags (s : State) : State :=
  setPwr { s.pwr with throttleCap := decide (s.pwr.capCeil < topRequest s), throttleTherm := decide (s.pwr.thermCeil < topRequest s) } s

/-- R422: the flags that raise vector 70. -/
def warnFlags (s : State) : List Bool :=
  let p := s.pwr
  [p.inputLow, p.inputHigh, p.throttleCap, p.capUnmet, p.warnTemp, p.throttleTherm]

/-- R422: vector 70 is raised when a flag has changed from 0 to 1 since a state. -/
def noteWarnings (old s : State) : State :=
  if ((warnFlags old).zip (warnFlags s)).any fun f => !f.1 && f.2 then raiseVector 70 s else s

/-! ### Walks -/

/-- R415, R493: the sequencer holds the management timer. -/
def sequencerHolds (s : State) : Bool := s.pwr.seqEn && claimHolder s 1 == 2

/-- R415: the voltage of a die's rail now, in quarters of a millivolt: it moves toward `rail` at 20 mV/µs, which is 2 quarters in
25 ns. -/
def railNow (s : State) (x : PwrDie) : Nat :=
  let gap := ceilDiv ((x.railReady - s.clk) * 2) 25
  if x.railFalling then x.rail + gap else x.rail - gap

/-- R415: a rail starts to move from where it stands to a voltage. -/
def moveRail (n q : Nat) (s : State) : State :=
  let x := pwrDie s n
  let v := railNow s x
  setPwrDie n { x with rail := q, railFalling := decide (q < v), railReady := s.clk + ceilDiv ((max q v - min q v) * 25) 2 } s

/-- R415, R418: a die's rail moves to the voltage of a clock, unless it ends at least so high. -/
def raiseRail (n f : Nat) (s : State) : State :=
  let x := pwrDie s n
  let q := railFor f
  if x.rail < q then moveRail n q s else s

/-- R415: a walk has ended at a die's present clock: its rail falls to what that clock needs. -/
def dropRail (n : Nat) (s : State) : State :=
  let x := pwrDie s n
  if railFor x.mhz < railNow s x then moveRail n (railFor x.mhz) s else s

/-- R415, R417: a die walks to the clock of its effective OP and share; no walk starts while the sequencer does not hold the
timer, and one whose goal returns to the present clock is over. -/
def walkTo (n : Nat) (s : State) : State :=
  let x := pwrDie s n
  let f := clockFor x.eff x.share
  if x.walking then
    (if f = x.goal then s
     else if f = x.mhz then dropRail n (setPwrDie n { x with goal := f, walking := false } s)
     else raiseRail n f (setPwrDie n { x with goal := f } s))
  else if f = x.mhz ∨ !sequencerHolds s then s
  else raiseRail n f (setPwrDie n { x with goal := f, walking := true, stepped := false } s)

/-- R420: every share returns to 0. -/
def clearShares (s : State) : State := (List.range 4).foldl (fun s n => setPwrDie n { pwrDie s n with share := 0 } s) s

/-- R420: the dies in service have one effective OP. -/
def oneOp (s : State) : Bool :=
  match liveDies s with
  | [] => true
  | n :: ns => ns.all fun m => (pwrDie s m).eff == (pwrDie s n).eff

/-- R417: the effective OP of a die. -/
def effectiveOp (s : State) (n : Nat) : Nat := min (pwrDie s n).req (min s.pwr.capCeil s.pwr.thermCeil)

/-- R416: the dies that an OP_SET applies to. -/
def opSetDies (s : State) (d : Desc) : List Nat :=
  let m := d.fld 16 8 4
  (List.range (dieCount s)).filter fun n => (m == 0 || bitOf m n) && !isFenced s n

/-- R417: DETAIL of an OP_SET. -/
def opSetDetail (s : State) (d : Desc) (since : Nat) : Nat :=
  let ns := opSetDies s d
  let eff := ((ns.map fun n => (pwrDie s n).eff).foldl min 7)
  let capped := ns.any fun n => decide ((pwrDie s n).eff < (pwrDie s n).req)
  (if ns.isEmpty then 0 else eff) + at' (bit capped) 3 + at' (hold 0x0FFFFFFF (s.clk - since)) 4

/-- R417: an OP_SET whose walks have ended completes. -/
def settleOpSets (s : State) : State :=
  s.descs.foldl (fun s d =>
    match d.op, copyAt d .host with
    | some .opSet, some c =>
      if c.st == .running && c.stage == 1 && d.outcome.isNone && (opSetDies s d).all fun n => !(pwrDie s n).walking then
        finishCopy d.ref .host (Report.of stOk (opSetDetail s d c.since)) s
      else s
    | _, _ => s) s

/-- R417, R420: every die in service takes its effective OP and walks to its clock. Kindling keeps CD0 at OP0 (R414), where only the
flags of the ceilings follow. -/
def retarget (s : State) : State :=
  if s.ms.mode = .kindling then throttleFlags s else
    let s1 := (liveDies s).foldl (fun s n => setPwrDie n { pwrDie s n with eff := effectiveOp s n } s) s
    let s2 := if s1.pwr.steerEn && oneOp s1 then s1 else clearShares s1
    settleOpSets (throttleFlags ((liveDies s2).foldl (fun s n => walkTo n s) s2))

/-! ### OP_SET -/

/-- R416: the OP that an OP_SET requests. -/
def opSetOp (s : State) (d : Desc) : Nat :=
  if d.fld 16 3 1 = 1 then (s.pwr.phases.get 4 (d.fld 16 4 3)).toNat else d.fld 16 0 3

/-- R418: an OP_SET that DESC_INVALID completes. -/
def opSetBad (s : State) (d : Desc) : Bool :=
  d.fld 16 7 1 != 0 || d.fld 16 12 20 != 0 || anySet d.bytes 20 44 || decide (5 < d.fld 16 0 3)
    || (d.fld 16 3 1 == 1 && decide (5 < opSetOp s d)) || decide (2 ^ dieCount s ≤ d.fld 16 8 4)

/-- R417: the draw that is predicted with a cap ceiling fits the cap: P_mean + 1.07 × Σ (D(new) − D(present)). -/
def ceilingFits (s : State) (o : Nat) : Bool :=
  let change (n : Nat) : Int :=
    (opDraw (min (pwrDie s n).req (min o s.pwr.thermCeil)) : Int) - opDraw (pwrDie s n).eff
  decide (100 * (s.pwr.watts.toNat : Int) + 107 * ((liveDies s).map change).sum ≤ 100 * (s.pwr.cap.toNat : Int))

/-- R417, R419: the cap ceiling is the highest OP that fits; where not even OP0 does, the dies run at OP0 and CAP_UNMET reads 1. -/
def predictCeiling (s : State) : State :=
  match ((List.range 6).filter (ceilingFits s)).getLast? with
  | some o => setPwr { s.pwr with capCeil := o, capFits := none } s
  | none => setPwr { s.pwr with capCeil := 0, capUnmet := true, capFits := none } s

/-- R417, R418: an OP_SET starts. -/
def startOpSet (d : Desc) (s : State) : State :=
  if opSetBad s d then invalid d.ref 16 s
  else if !sequencerHolds s then
    claimEvent 1 2 2 (claimHolder s 1) (finishCopy d.ref .host (Report.of stClaimConflict 1) s)
  else
    let o := opSetOp s d
    let s1 := (opSetDies s d).foldl (fun s n => setPwrDie n { pwrDie s n with req := o } s) s
    let s2 := retarget (predictCeiling s1)
    let s3 := updDesc d.ref (updCopy .host fun c => { c with stage := 1 }) s2
    noteWarnings s (settleOpSets s3)

/-- R417: OP_SET. -/
def execOpSet (d : Ref) (s : State) : Answer := .next (atStage d .opSet 0 startOpSet s)

/-- R418: from 15,000 ticks before its launch tick on, the rails that a held OP_SET will need are raised. -/
def execRailPreraise (d : Ref) (s : State) : Answer :=
  .next <|
    match findDesc s d with
    | none => s
    | some x =>
      if x.op == some .opSet && hSown x.bytes && !x.dispatched && x.outcome.isNone && !opSetBad s x && sequencerHolds s
          && decide ((hLaunch x.bytes).toNat ≤ s.ft.ft.toNat + 15000) then
        (opSetDies s x).foldl (fun s n => raiseRail n (max (clockFor (opSetOp s x) (pwrDie s n).share) (opMhz (opSetOp s x))) s) s
      else s

/-- R415: a die can take the next step of its walk: its rail stands at the voltage of the clock it walks up to, and the sequencer
holds the timer where the walk has yet to start. -/
def stepReady (s : State) (n : Nat) : Bool :=
  let x := pwrDie s n
  x.walking && !isFenced s n && (decide (x.goal ≤ x.mhz) || decide (railFor x.goal ≤ railNow s x)) && (x.stepped || sequencerHolds s)

/-- R415, R424: PWR_OP.WALKING: the die's walk has begun; while the rail still rises before it, it has not. -/
def pwrWalks (s : State) (n : Nat) : Bool := (pwrDie s n).walking && ((pwrDie s n).stepped || stepReady s n)

/-- R415: the die whose turn it is: the next in ascending order, around. -/
def stepTurn (s : State) : Option Nat := ((List.range 4).map fun i => (s.pwr.lastDie + 1 + i) % 4).find? (stepReady s)

/-- R415: a walking die takes one step of 25 MHz; the whole module takes one in each 250 ns. -/
def takeStep (n : Nat) (s : State) : State :=
  let x := pwrDie s n
  let f := if x.mhz < x.goal then min x.goal (x.mhz + 25) else max x.goal (x.mhz - 25)
  let done := f == x.goal
  let s1 := setPwrDie n { x with mhz := f, stepped := true, walking := !done } s
  let s2 := if done && decide (f < x.mhz) then dropRail n s1 else s1
  settleOpSets (setPwr { s2.pwr with lastStep := some s.clk, lastDie := n } s2)

/-- R415: a step of a die's walk. -/
def execClockWalkStep (die : Nat) (s : State) : Answer :=
  .next <|
    let paced := match s.pwr.lastStep with | some t => decide (t + 250 ≤ s.clk) | none => true
    if paced && stepTurn s == some die then takeStep die s else s

/-! ### The cap -/

/-- R419: the cap ceiling of every die falls by one OP. -/
def lowerCap (s : State) : State :=
  if s.pwr.capCeil = 0 then setPwr { s.pwr with capUnmet := true } s
  else retarget (setPwr { s.pwr with capCeil := s.pwr.capCeil - 1, capSteps := s.pwr.capSteps.add 1, lastCapFall := some s.clk, capFits := none } s)

/-- R419: a sample of the input is taken every 10 µs; PWR_INPUT holds the means over the last 100. -/
def takeSample (mv w : Nat) (s : State) : State :=
  let xs := ((mv, w) :: s.pwr.samples).take 100
  let n := xs.length
  let total := (xs.map (·.2)).sum
  let (a, s1) := freeQuot ((xs.map fun x => Int.ofNat x.1).sum) n s
  let (b, s2) := freeQuot (Int.ofNat total) n s1
  let s3 := setPwr { s2.pwr with samples := xs, mv := BitVec.ofNat 16 (hold 0xFFFF a.toNat), watts := BitVec.ofNat 16 (hold 0xFFFF b.toNat) } s2
  let cap := s.pwr.cap.toNat
  let rested := match s.pwr.lastCapFall with | some t => decide (t + 1000000 ≤ s.clk) | none => true
  if (decide (cap * n < total) && rested) || decide (12 * cap < 10 * w) then lowerCap s3
  else if total < cap * n then setPwr { s3.pwr with capUnmet := false } s3
  else s3

/-- R419: an input sample. -/
def execPowerSample (millivolts watts : Nat) (s : State) : Answer :=
  .next (if inService s then noteWarnings s (takeSample millivolts watts s) else s)

/-- R419: the prediction for the next higher OP fits the cap. -/
def nextOpFits (s : State) : Bool := decide (s.pwr.capCeil < 5) && ceilingFits s (s.pwr.capCeil + 1)

/-- R419: at a tick, since when the prediction has fitted without a break. -/
def noteFit (s : State) : State :=
  setPwr { s.pwr with capFits := if inService s && nextOpFits s then some (s.pwr.capFits.getD s.clk) else none } s

/-- R419, R422: a condition has held for 100 ms. -/
def heldFor100Ms (s : State) (since : Option Nat) : Bool := since.any fun t => decide (t + 100000000 ≤ s.clk)

/-- R419: the prediction for the next higher OP has fitted the cap for 100 ms. -/
def execCapCeilingRaise (s : State) : Answer :=
  .next <|
    if inService s && nextOpFits s && heldFor100Ms s s.pwr.capFits then
      noteWarnings s (retarget (setPwr { s.pwr with capCeil := s.pwr.capCeil + 1, capFits := none } s))
    else s

/-- R419: a write of PWR_CAP, held within the variant's range. -/
def writePwrCap (v : Word) (s : State) : State :=
  let (lo, hi) := if isM4 s then (1800, 3600) else (950, 1900)
  setPwr { s.pwr with cap := BitVec.ofNat 13 (min hi (max lo (bitsOf v.toNat 0 13))) } s

/-! ### Steering -/

/-- R420: the die of a list with the largest value, the lowest number on a tie. -/
def largestBy (ns : List Nat) (f : Nat → Int) : Option Nat :=
  ns.foldl (fun best n => match best with | none => some n | some b => if f b < f n then some n else best) none

def addShare (n : Nat) (k : Int) (s : State) : State := setPwrDie n { pwrDie s n with share := (pwrDie s n).share + k } s

/-- R420: the die whose share is raised and the one that gives. -/
def steerPair (s : State) (l : Nat → Nat) : Option (Nat × Nat) :=
  let ns := liveDies s
  match largestBy ns fun n => Int.ofNat (l n) with
  | none => none
  | some a =>
    let others := ns.filter (· != a)
    if (others.all fun n => decide (l n + s.pwr.steerMin.toNat ≤ l a)) && decide ((pwrDie s a).share < 3) then
      (largestBy (others.filter fun n => decide (-3 < (pwrDie s n).share)) fun n => (pwrDie s n).share).map fun b => (a, b)
    else none

/-- R420: after 10 ms without a raise the shares decay toward 0. -/
def decayShares (s : State) : State :=
  let ns := liveDies s
  if ns.all fun n => (pwrDie s n).share == 0 then s else
    match largestBy ns (fun n => (pwrDie s n).share), largestBy ns (fun n => -(pwrDie s n).share) with
    | some hi, some lo => addShare lo 1 (addShare hi (-1) s)
    | _, _ => s

/-- R420: the lateness of each die where the next millisecond begins. -/
def lateSeen (s : State) : Tab Nat :=
  (List.range 4).foldl (fun (t : Tab Nat) n => t.put 0 n (s.lag.dieLate.get .reset n).count.toNat) []

/-- R420: the shares are adjusted once every millisecond. -/
def steer (s : State) : State :=
  let l (n : Nat) : Nat := ((s.lag.dieLate.get .reset n).count.toNat + 2 ^ 64 - s.steer.late.get 0 n) % 2 ^ 64
  match steerPair s l with
  | some (a, b) => retarget (addShare b (-1) (addShare a 1 { s with steer := { late := lateSeen s, quietMs := 0 } }))
  | none =>
    let q := s.steer.quietMs + 1
    let s1 := { s with steer := { late := lateSeen s, quietMs := q } }
    if 10 ≤ q then retarget (decayShares s1) else s1

/-- R420: a millisecond of steering; one without steering only ends. -/
def execSteerTick (s : State) : Answer :=
  .next (if inService s && s.ms.mode != .kindling && s.pwr.steerEn && oneOp s then steer s
    else { s with steer := { s.steer with late := lateSeen s } })

/-! ### Droop and temperatures -/

/-- R421: the rail of a die in service falls below its limit and its clock is stretched; PWR_DROOP counts each tick from then on. -/
def execDroop (die : Nat) (s : State) : Answer :=
  .next (if inService s && decide (die < dieCount s) then setPwrDie die { pwrDie s die with drooping := true } s else s)

/-- R421: the rail of a die has recovered and its clock is no longer stretched. -/
def execRailRecover (die : Nat) (s : State) : Answer :=
  .next (if (pwrDie s die).drooping then setPwrDie die { pwrDie s die with drooping := false } s else s)

/-- R422: the sensors of the variant. -/
def sensors (s : State) : List Nat :=
  (List.range 17).filter fun i => if i < 4 then decide (i < dieCount s) else if i = 4 then true else decide (i - 5 < stackCount s)

/-- R422: the warning, throttle and trip limits of a sensor, in 1/16 °C. -/
def tempLimits (i : Nat) : Int × Int × Int := if i ≤ 4 then (16 * 95, 16 * 100, 16 * 110) else (16 * 85, 16 * 90, 16 * 105)

def tempOf (s : State) (i : Nat) : Int := (s.pwr.temps.get 0 i).toInt

/-- R422: the thermal ceiling of every die falls by one OP. -/
def lowerTherm (s : State) : State :=
  if s.pwr.thermCeil = 0 then s
  else retarget (setPwr { s.pwr with thermCeil := s.pwr.thermCeil - 1, thermSteps := s.pwr.thermSteps.add 1, lastThermFall := some s.clk } s)

/-- R422: every sensor stands 3 °C or more below its throttle limit. -/
def allCool (s : State) : Bool := (sensors s).all fun i => decide (tempOf s i + 48 ≤ (tempLimits i).2.1)

/-- R422: the temperatures are read. -/
def takeTemps (rs : List (BitVec 16)) (s : State) : State :=
  let temps := rs.zipIdx.foldl (fun t (v, i) => if (sensors s).contains i then t.put 0 i v else t) s.pwr.temps
  let s1 := setPwr { s.pwr with temps := temps } s
  let warn := (sensors s).any fun i => decide ((tempLimits i).1 ≤ tempOf s1 i)
  let hot := (sensors s).any fun i => decide ((tempLimits i).2.1 ≤ tempOf s1 i)
  let rested := match s.pwr.lastThermFall with | some t => decide (t + 1000000 ≤ s.clk) | none => true
  let s2 := setPwr { s1.pwr with warnTemp := warn, coolSince := if allCool s1 then some (s.pwr.coolSince.getD s.clk) else none } s1
  if hot && rested then lowerTherm s2 else s2

/-- R422: the sensors are read once every microsecond. -/
def execTempSample (readings : List (BitVec 16)) (s : State) : Answer :=
  .next (if inService s then noteWarnings s (takeTemps readings s) else s)

/-- R422: every sensor has stood 3 °C below its throttle limit for 100 ms. -/
def execThermalCeilingRaise (s : State) : Answer :=
  .next <|
    if inService s && allCool s && decide (s.pwr.thermCeil < 5) && heldFor100Ms s s.pwr.coolSince then
      noteWarnings s (retarget (setPwr { s.pwr with thermCeil := s.pwr.thermCeil + 1, coolSince := some s.clk } s))
    else s

/-! ### The input -/

/-- R411, R422: a change of the input's flags, in every state but Off; vector 70 is raised where the module is in service. -/
def setInputFlags (f : Power → Power) (s : State) : State :=
  if s.ms.mode == .off then s else
    let s1 := setPwr (f s.pwr) s
    if inService s then noteWarnings s s1 else s1

/-- R411: the input has stood between 40 V and 42 V for 1 ms. -/
def execInputLow (s : State) : Answer := .next (setInputFlags (fun p => { p with inputLow := true }) s)

/-- R411: the input has stood above 60 V for 1 ms. -/
def execInputHigh (s : State) : Answer := .next (setInputFlags (fun p => { p with inputHigh := true }) s)

/-- R411: the input has been back inside 42 V to 60 V for 1 ms. -/
def execInputNormal (s : State) : Answer := .next (setInputFlags (fun p => { p with inputLow := false, inputHigh := false }) s)

/-! ### PWR_CFG and the management timer -/

/-- R415, R494: a write of PWR_CFG. -/
def writePwrCfg (v : Word) (s : State) : State :=
  let s1 := setPwr { s.pwr with steerEn := v.getLsbD 0, steerMin := (v >>> 16).setWidth 16 } s
  let s2 := if v.getLsbD 1 then
      (if s.pwr.seqEn then s1 else claimLow 1 (fun s => setPwr { s.pwr with seqEn := true } s) s1)
    else setPwr { s1.pwr with seqEn := false } s1
  noteWarnings s (retarget s2)

/-- R494: a write of PWR_CFG. -/
def execPwrCfgWrite (value : Word) (s : State) : Answer := .next (bar0Write (pwrBase + 4) value.toNat (writePwrCfg value) s)

/-- R495: the watchdog has displaced the sequencer: walks that have taken no step do not start, and an OP_SET with only such walks
completes with CLAIM_CONFLICT. -/
def timerDisplaced (s : State) : State :=
  let waiting (n : Nat) : Bool := (pwrDie s n).walking && !(pwrDie s n).stepped
  let s1 := s.descs.foldl (fun s1 d =>
    match d.op, copyAt d .host with
    | some .opSet, some c =>
      if c.st == .running && c.stage == 1 && d.outcome.isNone
          && (opSetDies s d).all fun n => !(pwrDie s n).walking || waiting n then
        claimEvent 1 2 2 1 (finishCopy d.ref .host (Report.of stClaimConflict 1) s1)
      else s1
    | _, _ => s1) s
  (List.range 4).foldl (fun s n =>
    if waiting n then setPwrDie n { pwrDie s n with walking := false, goal := (pwrDie s n).mhz } s else s) s1

end Sys2Proof.Machine
end

