-- ==== Sys2Proof/Machine/Matrix.lean ====
section
/-! DEFINITION. The matrix engine: geometry (R92, R93), terms and truncating sums (R76, R77), the grid (R111, R149), tiles and
accumulators (R99 to R101), and MMA, CONV (chapter 4), B_MMA and W_MMA (chapter 6). -/

namespace Sys2Proof.Machine

/-! ### Truncating sums -/

/-- R77: a truncating addition. -/
def truncAdd (a b : FVal) : FVal := trunc32 (fadd a b)

/-- R77: the terms of one pass added one at a time, in an order that the spec leaves open, from +0. -/
def passSum (draw place : Nat) (ts : List FVal) : FVal := (orderBy draw place ts.length ts).foldl truncAdd fzero

/-- R99: the sums of the passes added into the accumulator in order. -/
def accumulate (draw place : Nat) (init : FVal) (passes : List (List FVal)) : FVal :=
  passes.zipIdx.foldl (fun acc (ts, c) => truncAdd acc (passSum draw (place + 4096 * c) ts)) init

/-- R76: the exact sum of products. -/
def exactDot (xs : List (FVal × FVal)) : FVal := xs.foldl (fun acc p => fadd acc (fmul p.1 p.2)) fzero

/-- R93: an 8-bit or 4-bit format. -/
def isNarrow (fmt : Nat) : Bool := decide (3 ≤ fmt ∧ fmt ≤ 7)

/-- R93: Kw of an operand pair. -/
def kwOf (fa fs : Nat) : Nat :=
  if isNarrow fa && isNarrow fs then (if fa = 7 ∧ fs = 7 then 256 else 128) else 64

/-- R70: the block scale that an operand's position is multiplied by in the array; a tensor without scales has 0x7F (R72). -/
def scaleVal (sc : Nat) : FVal := if sc = 0xFF then .nan else .fin false 1 ((sc : Int) - 127)

/-- R68, R70: an operand element as it is multiplied product by product: a decoded value below 2^-126 is +0. -/
def operandVal (w : View) (rq : Requester) (t : Td) (x : List Int) : FVal :=
  let v := w.val rq t x
  if isMx t.fmt then (match flush32 v with | .fin _ 0 _ => fzero | y => y) else v

/-- An element's own value and its block scale, for exact block sums; PAD_VALUE outside the tensor (R192). -/
def elemAndScale (v : View) (rq : Requester) (t : Td) (x : List Int) : FVal × Nat :=
  if t.inside x then (decodeF (fmtOf t.fmt) (v.raw rq t x), scaleOf (v.see rq t x) rq t x)
  else (decodeF (fmtOf t.fmt) (padRaw t.fmt t.pad), 127)

/-- R76: the terms of the products at matching positions: one term a product, or for a narrow pair one term for the exact sum of
each 32 products with its scales. -/
def termsOf (v : View) (rq : Requester) (a b : Td) (xs : List (List Int × List Int)) : List FVal :=
  if isNarrow a.fmt && isNarrow b.fmt then
    (List.range (ceilDiv xs.length 32)).map fun k =>
      let ps := ((xs.drop (32 * k)).take 32).map fun (x, y) => (elemAndScale v rq a x, elemAndScale v rq b y)
      let sa := (ps.head?.map (·.1.2)).getD 127
      let sb := (ps.head?.map (·.2.2)).getD 127
      fmul (fmul (exactDot (ps.map fun p => (p.1.1, p.2.1))) (scaleVal sa)) (scaleVal sb)
  else xs.map fun (x, y) => fmul (operandVal v rq a x) (operandVal v rq b y)

/-! ### Grid, tiles and regions -/

/-- R111, R149: what one copy computes: its first row and row tiles, its first column tile and column tiles. -/
structure Geo where
  mi : Nat
  mt : Nat
  ni : Nat
  nt : Nat
deriving DecidableEq, Repr

/-- R111: copy `j` of `n` with `g` copies to a grid row. -/
def geoOf (m k g n j : Nat) : Geo :=
  let (mi, mt) := shareOf (ceilDiv m 64) (n / g) (j / g)
  let (ni, nt) := shareOf (ceilDiv k 64) g (j % g)
  { mi := mi, mt := mt, ni := ni, nt := nt }

/-- The rows of a copy. -/
def Geo.rows (q : Geo) (m : Nat) : Nat := min m (64 * (q.mi + q.mt)) - min m (64 * q.mi)

def Geo.isEmpty (q : Geo) : Bool := q.mt == 0 || q.nt == 0

/-- R101: the accumulator blocks of a copy; an empty one has none. -/
def Geo.blocks (q : Geo) (nOuter : Bool) : Nat := if q.isEmpty then 0 else if nOuter then q.mt else q.mt * q.nt

/-- R99, R101: the window address of offset 0 of a core's scratch or WGA. -/
def coreMem (t : Target) (wga : Bool) : Nat :=
  match t with
  | .core die k => sramBase + die * sramSpan + coreBase + k * coreSpan + (if wga then wgaBase else 0)
  | _ => 0

/-- R101: the address of an accumulator. -/
def accAddr (t : Target) (wga : Bool) (off blk row col : Nat) : Nat := coreMem t wga + off + 16384 * blk + 256 * row + 4 * col

/-- The FP32 value of an accumulator. -/
def accVal (s : State) (t : Target) (a : Nat) : FVal := decodeF fp32 (leNat (readBytes s (rqOf t) a 4))

/-- The write of an accumulator. -/
def accWrite (a : Nat) (v : FVal) : EWrite :=
  let raw := encodeF fp32 .rne 2 v
  { bytes := (List.range 4).map fun i => (a + i, raw / 256 ^ i % 256, 0xFF), nf := none }

/-- R113: a tensor's footprint or scale array overlaps a region of a core's own memory. -/
def tdHits (rq : Requester) (td : Td) (a n : Nat) : Bool :=
  let own (lo len : Nat) : Bool :=
    match resolveAlias rq lo with
    | some w => overlaps w len a n
    | none => false
  (match td.footprint with | some (lo, hi) => own lo.toNat (hi - lo + 1).toNat | none => false)
    || (isMx td.fmt && own td.scaleBase td.scaleBytes)

/-! ### The operations of the array -/

/-- The logical product of a matrix descriptor: its operands, its extents, Kw and its conversion. -/
structure Product where
  op : Op
  a : Td
  b : Td
  d : Option Td
  m : Nat
  n : Nat
  k : Nat
  kw : Nat
deriving DecidableEq, Repr

/-- R116: the fields of a CONV at offset 48. -/
def convField (x : Desc) (lo len : Nat) : Nat := x.fld 48 lo len

/-- R112, R115, R148: the matching positions of chunk `c` for output row `m` and column `n`: positions beyond K contribute
nothing. -/
def chunkPositions (x : Desc) (p : Product) (m n c : Nat) : List (List Int × List Int) :=
  match p.op with
  | .conv =>
    let ch := p.a.extAt 0
    let perTap := ceilDiv ch p.kw
    let tap := c / perTap
    let kh : Int := tap / p.b.extAt 1
    let kw : Int := tap % p.b.extAt 1
    let o := unravel ((p.d.map (·.outer)).getD []) m
    let ih := Int.ofNat (o.getD 1 0) * (convField x 8 3 + 1) - convField x 20 4 + kh * (convField x 14 3 + 1)
    let iw := Int.ofNat (o.getD 0 0) * (convField x 11 3 + 1) - convField x 24 4 + kw * (convField x 17 3 + 1)
    (List.range (min p.kw (ch - c % perTap * p.kw))).map fun i =>
      let cc := Int.ofNat (c % perTap * p.kw + i)
      ([cc, iw, ih, Int.ofNat (o.getD 2 0)], [cc, kw, kh, Int.ofNat n])
  | _ =>
    (List.range (min p.kw (p.k - c * p.kw))).map fun i =>
      let k := c * p.kw + i
      match p.op with
      | .wMma => (toInts (p.a.pos k m), toInts (p.b.pos k n))
      | .bMma => (toInts (p.a.pos m k), [Int.ofNat n, Int.ofNat k])
      | _ => (toInts (p.a.pos m k), [Int.ofNat k, Int.ofNat n])

/-- R112, R115: the number of K chunks. -/
def Product.chunks (p : Product) : Nat :=
  match p.op with
  | .conv => p.b.extAt 1 * p.b.extAt 2 * ceilDiv (p.a.extAt 0) p.kw
  | _ => ceilDiv p.k p.kw

/-- An output tile of a copy: its ordinal, its accumulator block and its place. -/
structure Tile where
  ord : Nat
  blk : Nat
  mi : Nat
  ni : Nat
deriving DecidableEq, Repr

/-- R101, R112: the tiles of a copy in ordinal order. -/
def tilesOf (q : Geo) (nOuter : Bool) : List Tile :=
  (List.range q.nt).flatMap fun ni => (List.range q.mt).map fun mi =>
    { ord := ni * q.mt + mi, blk := if nOuter then mi else ni * q.mt + mi, mi := q.mi + mi, ni := q.ni + ni }

/-- The rows of a tile, and its columns, each with its place in the tile. -/
def tileSpan (total i : Nat) : List (Nat × Nat) := (List.range (min 64 (total - 64 * i))).map fun r => (r, 64 * i + r)

/-- R99: the FP32 values of a tile after its first `kc` chunks: per row, its place, its number and its values. -/
def tileVals (v : View) (x : Desc) (t : Target) (p : Product) (wga init : Bool) (off draw kc : Nat) (keep : Nat → Nat → Bool)
    (q : Tile) : List (Nat × Nat × List (Nat × FVal)) :=
  (tileSpan p.m q.mi).map fun (r, m) =>
    (r, m, (tileSpan p.n q.ni).filterMap fun (c, n) =>
      if keep m n then
        let c0 := if init then accVal v.now t (accAddr t wga off q.blk r c) else fzero
        let place := ((m * p.n + n) * (p.chunks + 1)) * 4096
        some (c, accumulate draw place c0 ((List.range kc).map fun c => termsOf v (rqOf t) p.a p.b (chunkPositions x p m n c)))
      else none)

/-- R101: the accumulator writes of a tile. -/
def tileAcc (t : Target) (wga : Bool) (off : Nat) (q : Tile) (vs : List (Nat × Nat × List (Nat × FVal))) : List EWrite :=
  vs.flatMap fun (r, _, cs) => cs.map fun (c, v) => accWrite (accAddr t wga off q.blk r c) v

/-- R100: a tile stored: every run of values of each row, converted. -/
def tileStore (td : Td) (cvt : Cvt) (q : Tile) (vs : List (Nat × Nat × List (Nat × FVal))) : List EWrite :=
  vs.flatMap fun (r, m, cs) =>
    if isMx td.fmt then td.writeRun (unravel td.outer m) cvt (64 * q.ni) (q.ord * 4096 + r * 64) (cs.map (·.2))
    else cs.flatMap fun (c, v) => td.writeRun (unravel td.outer m) cvt (64 * q.ni + c) (q.ord * 4096 + r * 64 + c) [v]

/-- R90: the non-finite values among the FP32 values of a tile. -/
def tileNfs (q : Tile) (vs : List (Nat × Nat × List (Nat × FVal))) : List (Nat × Nat) :=
  vs.flatMap fun (r, _, cs) => cs.filterMap fun (c, v) => (nfKind v).map fun k => (q.ord * 4096 + r * 64 + c, k)

/-- R100: the rows of a tile as CHAIN and STREAM deliver them, columns beyond N as +0. -/
def tileRows (q : Tile) (vs : List (Nat × Nat × List (Nat × FVal))) : List StreamRow :=
  vs.map fun (_, m, cs) =>
    { m := m, ni := q.ni, vals := (List.range 64).map fun c =>
        BitVec.ofNat 32 (encodeF fp32 .rne 2 (((cs.find? fun e => e.1 == c).map (·.2)).getD fzero)) }

/-! ### MMA, B_MMA and CONV -/

/-- R110: fields of offsets 40, 44 and 60. -/
def accOff (d : Desc) : Nat := d.fld 40 0 20
def accWga (d : Desc) : Bool := d.op == some .wMma || d.fld 40 20 1 == 1
def accInit (d : Desc) : Bool := d.fld 40 21 1 == 1
def finalOf (d : Desc) : Nat := d.fld 40 22 2
def nOuter (d : Desc) : Bool := d.op != some .wMma && d.fld 40 24 1 == 1
def gridOf (d : Desc) : Nat := d.fld 44 0 7
def stageOff (d : Desc) : Nat := if d.op == some .wMma then d.fld 48 44 20 else d.fld 60 0 20

/-- R113: GRID_N passes its check. -/
def gridOk (d : Desc) : Bool := decide (1 ≤ gridOf d ∧ gridOf d ≤ 96) && d.copies.length % gridOf d == 0

/-- R102: the staging bytes of a copy; 0 where none is used. -/
def stageBytes (d : Desc) (p : Product) (q : Geo) : Nat :=
  if d.op == some .wMma then (if q.isEmpty then 0 else 16384 * q.mt)
  else if nOuter d || decide (q.nt ≤ 1) then 0
  else
    let w := fmtBits p.a.fmt
    let b := p.kw * w / 8 + (if isMx p.a.fmt then p.kw / 32 else 0)
    2 * q.rows p.m * (ceilDiv b 64 * 64)

/-- The geometry of every copy. -/
def geosOf (d : Desc) (p : Product) : List Geo :=
  if gridOk d then (List.range d.copies.length).map fun j => geoOf p.m p.n (gridOf d) d.copies.length j else []

/-- R113: some copy's accumulator region extends beyond 1 MiB. -/
def accTooLong (d : Desc) (p : Product) : Bool :=
  (geosOf d p).any fun q => !q.isEmpty && decide (wgaBase < accOff d + 16384 * q.blocks (nOuter d))

/-- R113: an operand overlaps the copy's accumulator or staging region. -/
def operandHits (d : Desc) (p : Product) (t : Target) (i : Nat) : Bool :=
  match (geosOf d p)[i]? with
  | none => false
  | some q =>
    let rs := [(coreMem t (accWga d) + accOff d, 16384 * q.blocks (nOuter d)),
               (coreMem t false + stageOff d, stageBytes d p q)]
    ([p.a, p.b] ++ p.d.toList).any fun td => rs.any fun r => r.2 != 0 && tdHits (rqOf t) td r.1 r.2

/-- R102, R148: what staging leaves in core scratch, where a copy stages: which byte lies where is open (log 78). -/
def stageData (d : Desc) (p : Product) (q : Geo) (t : Target) (draw : Nat) : List EWrite :=
  (List.range (stageBytes d p q)).map fun i =>
    { bytes := [(coreMem t false + stageOff d + i, Config.freeAt (draw + 1) (coreNumber t * 2 ^ 20 + i) % 256, 0xFF)], nf := none }

/-- R113: the staging region is misplaced. -/
def stageBad (d : Desc) (p : Product) : Bool :=
  (geosOf d p).any fun q =>
    let n := stageBytes d p q
    n != 0 && (stageOff d % 4096 != 0 || decide (wgaBase < stageOff d + n)
      || (!accWga d && overlaps (stageOff d) n (accOff d) (16384 * q.blocks (nOuter d))))

/-- The extents that the checks of the operands settle. -/
def productOf (o : Op) (a b : Td) (dd : Option Td) : Product :=
  match o with
  | .conv => { op := o, a := a, b := b, d := dd, m := ((dd.map fun t => t.rows).getD 0), n := b.extAt 3,
               k := a.extAt 0 * b.extAt 1 * b.extAt 2, kw := kwOf a.fmt b.fmt }
  | .bMma => { op := o, a := a, b := b, d := dd, m := a.rows, n := b.cols, k := a.cols, kw := 64 }
  | .wMma => { op := o, a := a, b := b, d := dd, m := a.cols, n := b.cols, k := a.rows, kw := 64 }
  | _ => { op := o, a := a, b := b, d := dd, m := a.rows, n := b.extAt 1, k := a.cols, kw := kwOf a.fmt b.fmt }

/-- R113: the conditions of offset 16 on A; R117 for X. -/
def aBad (o : Op) (a : Td) : Bool :=
  !(decide (1 ≤ a.fmt ∧ a.fmt ≤ 7)) ||
    (match o with
     | .conv => a.rank != 4 || a.ext.any (· == 0)
     | _ => decide (a.rank < 2) || a.rows == 0 || a.cols == 0)

/-- R113: the conditions of offset 24 on S; R146 for B_MMA, R117 for W. -/
def bBad (o : Op) (x : Desc) (a b : Td) : Bool :=
  match o with
  | .conv => !(decide (1 ≤ b.fmt ∧ b.fmt ≤ 7)) || b.rank != 4 || b.extAt 2 != convField x 0 4 + 1 || b.extAt 1 != convField x 4 4 + 1
      || b.extAt 0 != a.extAt 0 || b.extAt 3 == 0
  | .bMma => !(decide (1 ≤ b.fmt ∧ b.fmt ≤ 2)) || b.rank != 2 || b.extAt 1 != a.cols || b.cols == 0
  | _ => !(decide (1 ≤ b.fmt ∧ b.fmt ≤ 7)) || b.rank != 2 || b.cols != a.cols || b.extAt 1 == 0

/-- R113: the conditions of offset 32 on D; R117 for CONV, which takes OH and OW from D (log 35). -/
def dBad (o : Op) (a b : Td) (named : Bool) (dd : Option Td) (store : Bool) : Bool :=
  match dd with
  | none => named || store || o == .conv
  | some t => decide (7 < t.fmt) ||
    (match o with
     | .conv => t.rank != 4 || t.extAt 3 != a.extAt 3 || t.extAt 0 != b.extAt 3
     | .bMma => t.outer != a.outer || t.cols != b.cols
     | _ => t.outer != a.outer || t.cols != b.extAt 1)

/-- R117: the conditions of offset 48 of a CONV. -/
def convBad (x : Desc) (a : Td) (dd : Option Td) : Bool :=
  let oh : Int := (dd.map fun t => Int.ofNat (t.extAt 2)).getD 0
  let ow : Int := (dd.map fun t => Int.ofNat (t.extAt 1)).getD 0
  x.fld 48 28 4 != 0
    || decide ((a.extAt 2 : Int) ≤ (oh - 1) * (convField x 8 3 + 1) - convField x 20 4)
    || decide ((a.extAt 1 : Int) ≤ (ow - 1) * (convField x 11 3 + 1) - convField x 24 4)

/-- R113, R115: CONV's M is 0: OH or OW of its D is. -/
def convEmpty (o : Op) (dd : Option Td) : Bool :=
  o == .conv && (dd.map fun t => t.rank == 4 && (t.extAt 1 == 0 || t.extAt 2 == 0)).getD false

/-- R113, R117, R146: the checks of a matrix descriptor by one of its copies, in order; the product where they pass. D is named as a
destination only where FINAL = STORE (log 94). -/
def mmaCheck (s0 : State) (o : Op) (x : Desc) (t : Target) (i : Nat) : Except Report Product :=
  let rq := rqOf t
  let s := asStarted x t s0
  let fail (off : Nat) : Except Report Product := .error (Report.of stDescInvalid off)
  let named := x.fld 32 0 44 != 0
  let dd := if named then readTd s rq (finalOf x == 0) (x.fld 32 0 44) else none
  match readTd s rq false (x.fld 16 0 44) with
  | none => fail 16
  | some a =>
    if rsv44 x 16 || aBad o a || convEmpty o dd then fail 16
    else match readTd s rq false (x.fld 24 0 44) with
    | none => fail 24
    | some b =>
      if rsv44 x 24 || bBad o x a b then fail 24
      else if rsv44 x 32 || dBad o a b named dd (finalOf x == 0) then fail 32 else
      let p := productOf o a b dd
      if x.fld 40 25 7 != 0 || accOff x % 4096 != 0 || accTooLong x p || (nOuter x && (accInit x || finalOf x == 1))
          || (finalOf x == 2 && x.pair.isNone) || operandHits x p t i then fail 40
      else
      let dst := x.fld 44 16 2
      if x.fld 44 7 1 != 0 || x.fld 44 14 2 != 0 || !gridOk x
          || (finalOf x == 0 && (x.fld 44 8 2 == 3 || x.fld 44 10 2 == 3)) || (x.fld 44 8 2 == 2 && (finalOf x != 0 || o == .conv))
          || (finalOf x == 3 && (dst == hUnit x.bytes || decide (dieCount s ≤ dst) || decide (95 < x.fld 44 18 7))) then fail 44
      else if o == .conv && convBad x a dd then fail 48
      else if o == .conv && anySet x.bytes 52 8 then fail 52
      else if x.fld 60 20 12 != 0 || stageBad x p then fail 60
      else .ok p

/-- R110: the conversion of the values stored. -/
def mmaCvt (x : Desc) : Cvt := cvtOf x (x.fld 44 8 2) (x.fld 44 10 2) (x.fld 44 12 2)

/-- R108: the counters that a matrix copy of `passes` passes of `mr` rows advances: rows entered, invalid rows for loads not yet
complete (R95, R96), and, by numbers that the spec leaves open, invalid rows for loads and rows that memory delivers late
(log 11). -/
def countMatrix (t : Target) (draw passes mr load : Nat) (s : State) : State :=
  updCore (coreNumber t) (fun c => { c with
    meBusy := c.meBusy.add (passes * mr),
    meLoad := c.meLoad.add ((load - mr) * (passes - 1) + Config.freeAt draw (384 + coreNumber t)),
    meFeed := c.meFeed.add (Config.freeAt draw (coreNumber t)) }) s

/-- R94, R95: the cycles of the load of a stationary tile. -/
def loadCycles (p : Product) : Nat :=
  ceilDiv (p.kw * 64 * fmtBits p.b.fmt / 8 + (if isMx p.b.fmt then p.kw / 32 * 64 else 0)) 128

/-- One copy of a matrix descriptor: its product, its place in the grid, which elements it computes, and whether it starts from the
accumulators and leaves its sums there. -/
structure MatCopy where
  target : Target
  index : Nat
  p : Product
  q : Geo
  init : Bool
  keeps : Bool
  active : Nat → Nat → Bool

/-- R100, R153: the copy stores its tiles. -/
def storesTiles (x : Desc) : Bool := finalOf x == 0 || (x.op == some .wMma && x.fld 40 24 1 == 1)

/-- R99, R100: the values of a tile after its first `kc` chunks. -/
def MatCopy.vals (x : Desc) (j : MatCopy) (draw kc : Nat) (v : View) (w : Tile) : List (Nat × Nat × List (Nat × FVal)) :=
  tileVals v x j.target j.p (accWga x) j.init (accOff x) draw kc j.active w

/-- R100: what FINAL does with the values of a tile. -/
def MatCopy.final (x : Desc) (j : MatCopy) (w : Tile) (vs : List (Nat × Nat × List (Nat × FVal))) : Made :=
  if storesTiles x then { writes := match j.p.d with | some td => tileStore td (mmaCvt x) w vs | none => [] }
  else { nfs := tileNfs w vs, rows := if finalOf x = 1 then [] else tileRows w vs }

/-- R99, R100: what a tile comes to when its last pass is made: its accumulators, and what FINAL does with it. R153: a W_MMA stores its
tiles after its last chunk, by steps of their own. -/
def MatCopy.tile (x : Desc) (j : MatCopy) (draw : Nat) (v : View) (w : Tile) : Made :=
  let vs := j.vals x draw j.p.chunks v w
  let acc := if j.keeps then tileAcc j.target (accWga x) (accOff x) w vs else []
  if j.keeps && x.op == some .wMma && storesTiles x then { acc := acc } else { j.final x w vs with acc := acc }

/-- R153: the step that stores a tile of a W_MMA from its accumulators. -/
def MatCopy.store (x : Desc) (j : MatCopy) (w : Tile) : Part :=
  { piece := j.q.mt * j.q.nt + 1 + w.ord, reads := [], fetched := 0,
    make := fun v => j.final x w ({ j with init := true }.vals x 0 0 v w) }

/-- The elements of A that a tile's rows take, and those of S that its columns take. -/
def MatCopy.operands (x : Desc) (j : MatCopy) (w : Tile) : List (List Int) × List (List Int) :=
  let cs := List.range j.p.chunks
  let ms := ((tileSpan j.p.m w.mi).map (·.2)).filter fun m => j.active m (64 * w.ni)
  let ns := ((tileSpan j.p.n w.ni).map (·.2)).filter fun n => j.active (64 * w.mi) n || !ms.isEmpty
  (ms.flatMap fun m => cs.flatMap fun c => ((chunkPositions x j.p m (64 * w.ni) c).map (·.1)).filter j.p.a.inside,
   if ms.isEmpty then [] else
     ns.flatMap fun n => cs.flatMap fun c => ((chunkPositions x j.p (64 * w.mi) n c).map (·.2)).filter j.p.b.inside)

/-- The accumulators that a tile starts from. -/
def MatCopy.accReads (x : Desc) (j : MatCopy) (w : Tile) : List Nat :=
  if j.init then
    (tileSpan j.p.m w.mi).flatMap fun (r, m) => (tileSpan j.p.n w.ni).flatMap fun (c, n) =>
      if j.active m n then (List.range 4).map fun i => accAddr j.target (accWga x) (accOff x) w.blk r c + i else []
  else []

/-- R112: the step of a tile. -/
def MatCopy.part (x : Desc) (j : MatCopy) (draw : Nat) (w : Tile) : Part :=
  let (as, bs) := j.operands x w
  { piece := w.ord, reads := as.flatMap j.p.a.readAddrs ++ bs.flatMap j.p.b.readAddrs ++ j.accReads x w,
    fetched := (if stageBytes x j.p j.q == 0 || w.ni == j.q.ni then j.p.a.fetchBytes as.length else 0)
      + (if w.mi == j.q.mi then j.p.b.fetchBytes bs.length else 0),
    make := fun v => j.tile x draw v w }

/-- R102, R148: the step that stages what a copy streams more than once; `reads` is what only staging reads. -/
def MatCopy.stage (x : Desc) (j : MatCopy) (draw : Nat) (reads : List Nat) : List Part :=
  match stageData x j.p j.q j.target draw with
  | [] => []
  | ws => [{ piece := j.q.mt * j.q.nt, reads := reads, fetched := 0, make := fun _ => { writes := ws } }]

/-- R99, R111, R112: the work of a copy. -/
def MatCopy.work (x : Desc) (j : MatCopy) (draw : Nat) (staging : List Part) : Work :=
  { target := j.target,
    watch := if storesTiles x then watched (rqOf j.target) [j.p.a, j.p.b] j.p.d.toList else [],
    parts := staging ++ (tilesOf j.q (nOuter x)).map (j.part x draw)
      ++ (if j.keeps && x.op == some .wMma && storesTiles x then (tilesOf j.q (nOuter x)).map (j.store x) else []),
    close := fun _ => if storesTiles x then (match j.p.d with | some td => td.closing j.index (j.q.mt * j.q.nt * 4096) | none => [])
                      else [] }

/-- R111: copy `i` of an MMA, CONV or B_MMA, where its checks pass. -/
def mmaCopy (s : State) (o : Op) (x : Desc) (t : Target) (i : Nat) : Except Report MatCopy :=
  (mmaCheck s o x t i).map fun p =>
    { target := t, index := i, p := p, q := geoOf p.m p.n (gridOf x) x.copies.length i, init := accInit x, keeps := true,
      active := fun _ _ => true }

/-- R114, R157: the part of a copy's effects that is made where it stops: some of what it stages; its accumulators after one unspecified
leading set of chunks, added to `acc`, with N_OUTER those of one column of its tiles, by a free choice (log 32); and of the tiles it would
store some whole, as `g` has them. It reports what it stored. -/
def MatCopy.stopped (x : Desc) (j : MatCopy) (draw : Nat) (staging : List Part) (acc : Bool) (g : Going) (s : State) : State :=
  let r := x.ref
  let i := coreNumber j.target
  let kc := Config.freeAt draw (2 * i) % (j.p.chunks + 1)
  let col := j.q.ni + Config.freeAt (draw + 4) i % max 1 j.q.nt
  let v : View := { now := s, past := pastOf x false s, draw := draw, serial := i }
  let sums := if !j.keeps || kc = 0 then [] else
    ((tilesOf j.q (nOuter x)).filter fun w => !nOuter x || w.ni == col).map fun w => (w, { j with init := acc }.vals x draw kc v w)
  let s1 := putBy r j.target (someOf (draw + 1) (staging.flatMap fun p => (p.make v).writes)) s
  let s2 := putBy r j.target (sums.flatMap fun (w, vs) => tileAcc j.target (accWga x) (accOff x) w vs) s1
  let tiles := (someOf (draw + 2) g.made.dropLast).flatMap (·.writes)
  let border := (g.made.getLast?.map (·.writes)).getD []
  let made := if storesTiles x then tiles ++ someOf (draw + 3) border else []
  let left := if !storesTiles x && finalOf x = 1 then lowestNf (sums.flatMap fun (w, vs) => tileNfs w vs) else firstNf made
  noteStopped r j.target left none (putBy r j.target made s2)

/-- R142: the key of a raw stream. -/
def rawKey (srcDie dstDie dstCore id : Nat) : Nat := ((srcDie * 4 + dstDie) * 128 + dstCore) * 128 + id

def rawOf (s : State) (k : Nat) : RawStream := s.streams.raw.get .reset k

def setRaw (k : Nat) (x : RawStream) (s : State) : State :=
  { s with streams := { s.streams with raw := s.streams.raw.put .reset k x } }

/-- R401: the stream that a matrix descriptor sends on. -/
def sendKeyOf (x : Desc) : Nat := rawKey (hUnit x.bytes) (x.fld 44 16 2) (x.fld 44 18 7) (x.fld 44 25 7)

/-- R403: a sending copy whose descriptor still runs it. -/
def senderLive (s : State) (e : Sender) : Bool :=
  match findDesc s e.ref with
  | some d => d.outcome.isNone && d.copies.any fun c => c.target == e.target && c.st.busy
  | none => false

/-- R403: the holder of a stream: kept while one of its copies has still to send. -/
def liveHolder (s : State) (x : RawStream) : Option Ref :=
  x.holder.filter fun h => x.senders.any fun e => e.ref == h && senderLive s e

/-- R108: the counters of a matrix copy of `passes` passes. -/
def countMatCopy (draw : Nat) (j : MatCopy) (passes : Nat) (s : State) : State :=
  if j.q.isEmpty || passes = 0 then s else countMatrix j.target draw passes (j.q.rows j.p.m) (loadCycles j.p) s

/-- R108, R100: what a copy of a matrix descriptor that delivers its rows has counted when `left` of them are still to go: the passes of
the rows that have gone, and an open number of further ones. -/
def countDelivered (r : Ref) (t : Target) (left : Nat) (s : State) : State :=
  match findDesc s r with
  | none => s
  | some x =>
    let i := (x.copies.findIdx? fun c => c.target == t).getD 0
    match mmaCopy s (x.op.getD .mma) x t i with
    | .error _ => s
    | .ok j =>
      let (c, s1) := drawFree s
      let all := j.p.chunks * j.q.nt
      let least := if left = 0 then all else (j.q.rows j.p.m * j.q.nt - left) / max 1 (j.q.rows j.p.m) * j.p.chunks
      countMatCopy c j (least + Config.freeAt c (2 * coreNumber t + 1) % (all - least + 1)) s1

/-- R401: a word of a raw stream: its 16-byte header, with 64 FP32 values for a ROW. -/
def wordBytes (kind k srcCore : Nat) (close : Bool) (row ni credits : Nat) (vals : List Word) : List Byte :=
  leBytes 4 (kind + at' (k % 128) 2 + at' srcCore 9 + at' (k / 128 % 128) 16 + at' (k / 65536) 23 + at' (bit close) 25)
    ++ leBytes 5 row ++ leBytes 3 0 ++ leBytes 2 ni ++ leBytes 2 credits ++ vals.flatMap fun v => leBytes 4 v.toNat

/-- R401: the logical core of a target. -/
def coreIndex : Target → Nat
  | .core _ k => k
  | _ => 0

/-- R402: a word enters a stream. -/
def sendOn (k : Nat) (w : StreamWord) (s : State) : State :=
  let x := rawOf s k
  let bytes := match w with
    | .row src r => wordBytes 0 k src false r.m r.ni 0 r.vals
    | .fin src => wordBytes 1 k src false 0 0 0 []
    | .fenced => wordBytes 2 k 0 false 0 0 0 []
  emit (.streamWord bytes) (setRaw k { x with fwd := x.fwd ++ [w] } s)

/-- R402, R403: while there is a credit, the copy that may send and that became ready first sends its next ROW, or END when none is left; a
copy that has sent END is done. `fuel` bounds the words sent at once. -/
def pump (k : Nat) : Nat → State → State
  | 0, s => s
  | fuel + 1, s =>
    let x := rawOf s k
    let h := liveHolder s x
    match if x.credits == 0 then none else x.senders.find? fun e => senderLive s e && (h.isNone || h == some e.ref) with
    | none => setRaw k { x with senders := x.senders.filter (senderLive s), holder := h } s
    | some e =>
      let others := x.senders.filter fun f => !(f.ref == e.ref && f.target == e.target)
      match e.rows with
      | w :: rest =>
        let y := { x with credits := x.credits - 1, holder := some e.ref,
                          senders := others ++ [{ e with rows := rest, sent := e.sent + 1, since := s.ft.ft }] }
        pump k fuel (sendOn k (.row (coreIndex e.target) w) (setRaw k y s))
      | [] =>
        let y := { x with credits := x.credits - 1, holder := some e.ref, senders := others }
        pump k fuel (finishCopy e.ref e.target e.rep
          (countDelivered e.ref e.target 0 (sendOn k (.fin (coreIndex e.target)) (setRaw k y s))))

/-- R402: as many words as the credits allow. -/
def pumpAll (k : Nat) (s : State) : State := pump k ((rawOf s k).credits + 1) s

/-- R104, R402: the rows of a matrix copy begin to go out on its stream; the copy waits until its END has been sent. -/
def startSending (x : Desc) (t : Target) (rows : List StreamRow) (rep : Report) (s : State) : State :=
  let k := sendKeyOf x
  let y := rawOf s k
  let clean := (rows.takeWhile fun w => w.vals.all fun v => (nfKind (val32 v)).isNone).length
  let e : Sender := { ref := x.ref, target := t, rows := rows, since := s.ft.ft, rep := rep, clean := clean }
  setRaw k { y with senders := y.senders ++ [e] }
    (updDesc x.ref (updCopy t fun c => { c with stage := 1 }) s)

/-- R100, R103: what becomes of a copy whose tiles have come to their ends: it is done, or its rows go on to its paired CHAIN or its
stream, and what it counts is counted as they go. -/
def finishMat (x : Desc) (draw : Nat) (s : State) (jg : MatCopy × Going) : State :=
  let (j, g) := jg
  let rep := g.report 0
  let rows := g.made.flatMap (·.rows)
  let s1 := countAccess draw g s
  match finalOf x with
  | 2 =>
    let c := x.pair.getD x.ref
    updDesc x.ref (updCopy j.target fun c => { c with stage := 1 })
      { s1 with streams := { s1.streams with drains := s1.streams.drains ++ [{ chain := c, target := j.target, rows := rows, rep := rep }] } }
  | 3 => startSending x j.target rows rep s1
  | _ => finishCopy x.ref j.target rep (countMatCopy draw j (j.p.chunks * j.q.nt) s1)

/-- A matrix descriptor that fails its checks completes with its partner alike (R103, R141). -/
def failPair {α : Type} (x : Desc) (rs : List (Target × Except Report α)) (s : State) : State :=
  let s1 := failCopies x.ref rs s
  match x.pair with
  | some p => failCopies p rs s1
  | none => s1

/-- The copies of a matrix descriptor whose checks have passed, each with its work. -/
def mmaJobs (rs : List (Target × Except Report MatCopy)) (x : Desc) (draw : Nat) : List (MatCopy × Work) :=
  rs.filterMap fun (_, r) => r.toOption.map fun j => (j, j.work x draw (j.stage x draw []))

/-- The works of the copies that a test picks. -/
def pickJobs (p : Target → Bool) (js : List (MatCopy × Work)) : List (MatCopy × Work) := js.filter fun x => p x.1.target

/-- R182: the first uncorrectable codeword that some copies read. -/
def jobsBad (js : List (MatCopy × Work)) (s : State) : Option (Target × Nat × Place) :=
  js.findSome? fun (_, w) => (workBad s w).map fun b => (w.target, b)

/-- R109 to R117, R144 to R146: the copies of an MMA, CONV or B_MMA that run. -/
def runMma (o : Op) (x : Desc) (s : State) : State :=
  let (c, s0) := drawFree s
  let rs := (copiesOf x).map fun (t, i) => (t, mmaCopy s0 o x t i)
  if (firstReport rs).isSome then failPair x rs s0 else
    let js := pickJobs (x.runsOn 0) (mmaJobs rs x c)
    match jobsBad js s0 with
    | some (t, a, pl) => memUncorrectable x.ref t a pl 0 (symbolsAt s0.mem pl) s0
    | none =>
      let (gs, s1) := carryOutFor x.ref false (pastOf x false s0) (js.map (·.2)) s0
      let s2 := ((js.map (·.1)).zip gs).foldl (finishMat x c) s1
      let s3 := useTokens dAeTxn 512 c (aeHolders gs) s2
      if finalOf x = 3 then
        (if isFenced s3 (x.fld 44 16 2) then setOutcome x.ref stFenced (2 ^ x.fld 44 16 2) none s3 else pumpAll (sendKeyOf x) s3)
      else s3

/-- A copy of a descriptor has stopped before its operation was over. -/
def stoppedAt (x : Desc) (stage : Nat) (t : Target) : Bool := (copyAt x t).any fun c => c.st == .stopped && c.stage == stage

/-- R100, R103: the rows that copies of a matrix descriptor would deliver that have not delivered any. -/
def undelivered (o : Op) (x : Desc) (s : State) : List Drain :=
  let (c, s0) := drawFree s
  let rs := (copiesOf x).map fun (t, i) => (t, mmaCopy s0 o x t i)
  if (firstReport rs).isSome then [] else
    let js := pickJobs (stoppedAt x 0) (mmaJobs rs x c)
    let (gs, _) := carryOut (pastOf x false s0) (js.map fun (j, _) => (j.work x c []).readable s0) s0
    ((js.map (·.1)).zip gs).map fun (j, g) =>
      { chain := x.pair.getD x.ref, target := j.target, rows := g.made.flatMap (·.rows), rep := g.report 0 }

/-- R90: the first non-finite value among the rows that a copy has sent. -/
def Sender.nf (e : Sender) : Option Word := if e.clean < e.sent then e.rep.nf else none

/-- R114: what a stopped copy of a matrix descriptor that had begun to deliver its rows counts and reports: their passes and values so
far; how many of its rows a paired CHAIN had taken is open. -/
def stopDelivery (x : Desc) (s : State) (c : Copy) : State :=
  if c.st != .stopped || c.stage != 1 then s else
    match (rawOf s (sendKeyOf x)).senders.find? fun e => e.ref == x.ref && e.target == c.target with
    | some e => noteStopped x.ref c.target e.nf none (countDelivered x.ref c.target (e.rows.length + 1) s)
    | none =>
      let (k, s1) := choose 2 s
      let nf := (s.streams.drains.find? fun e => some e.chain == x.pair && e.target == c.target).bind (·.rep.nf)
      noteStopped x.ref c.target (if k = 0 then none else nf) none (countDelivered x.ref c.target (2 ^ 64) s1)

/-- R114: the part of a stopped matrix descriptor that has been done. -/
def stopMma (o : Op) (x : Desc) (s : State) : State :=
  let s := x.copies.foldl (stopDelivery x) s
  if x.copies.any fun c => stoppedAt x 0 c.target then
    let (c, s0) := drawFree s
    let rs := (copiesOf x).map fun (t, i) => (t, mmaCopy s0 o x t i)
    if (firstReport rs).isSome then s0 else
      let js := pickJobs (stoppedAt x 0) (mmaJobs rs x c)
      let (gs, s1) := carryOut (pastOf x false s0) (js.map fun (j, _) => (j.work x c []).readable s0) s0
      ((js.map (·.1)).zip gs).foldl (fun s (j, g) =>
        countAccess c g (countMatCopy c j (Config.freeAt c (2 * coreNumber j.target + 1) % (j.p.chunks * j.q.nt + 1))
          (j.stopped x c (j.stage x c []) j.init g s))) { s0 with freeCtr := s1.freeCtr }
  else s

/-- R104: a sending copy that has waited 10 ms of Field Time for a credit or for a held stream completes with TIMEOUT. -/
def execStreamCreditTimeout (d : Ref) (s : State) : Answer :=
  .next <|
    match findDesc s d with
    | none => s
    | some x =>
      let k := sendKeyOf x
      let y := rawOf s k
      let late := y.senders.filter fun e => e.ref == d && senderLive s e && decide (10000000 ≤ (s.ft.ft - e.since).toNat)
      late.foldl (fun s e => finishCopy d e.target { Report.of stTimeout 0 with nf := e.nf } (countDelivered d e.target (e.rows.length + 1) s))
        (setRaw k { y with senders := y.senders.filter fun e => !late.contains e } s)

/-! ### W_MMA -/

/-- R152: MODE = FLUSH. -/
def isFlush (x : Desc) : Bool := x.fld 40 24 1 == 1

/-- R154: bit `i` of a mask at an address; no mask masks nothing. -/
def maskBit (s : State) (rq : Requester) (a i : Nat) : Bool :=
  a != 0 && bitOf (leNat (readBytes s rq (a + i / 8) 1)) (i % 8)

/-- R154: the masks of a descriptor lie aligned and wholly within reach. -/
def maskBad (s : State) (rq : Requester) (a bits : Nat) : Bool := a != 0 && !recordOk s rq a (ceilDiv bits 8) 64

/-- R156: the checks of a W_MMA by one of its copies; the product where they pass. In FLUSH the operands stand for G's extents alone. G is
named as a destination with every FINAL (log 94). -/
def wMmaCheck (s0 : State) (x : Desc) (t : Target) (i : Nat) : Except Report Product :=
  let rq := rqOf t
  let s := asStarted x t s0
  let fail (off : Nat) : Except Report Product := .error (Report.of stDescInvalid off)
  let fl := isFlush x
  let dy := readTd s rq false (x.fld 16 0 44)
  let xx := readTd s rq false (x.fld 24 0 44)
  let gg := if x.fld 32 0 44 = 0 then none else readTd s rq true (x.fld 32 0 44)
  let bad16 (a : Td) : Bool := !(decide (1 ≤ a.fmt ∧ a.fmt ≤ 2)) || decide (a.rank < 2) || a.rows == 0 || a.cols == 0
  let bad24 (a b : Td) : Bool := !(decide (1 ≤ b.fmt ∧ b.fmt ≤ 2)) || b.outer != a.outer || b.cols == 0
  if rsv44 x 16 || (!fl && (dy.map bad16).getD true) then fail 16
  else if rsv44 x 24 || (!fl && ((dy.bind fun a => xx.map (bad24 a)).getD true)) then fail 24
  else
    let gBad (g : Td) : Bool := decide (2 < g.fmt) || g.rank != 2
      || (if fl then g.cols == 0 || g.rows == 0
          else g.ext != [(xx.map (·.cols)).getD 0, (dy.map (·.cols)).getD 0])
    if rsv44 x 32 || (x.fld 32 0 44 == 0 && (fl || finalOf x == 0)) || (x.fld 32 0 44 != 0 && (gg.map gBad).getD true) then fail 32
    else
      let p : Product := match fl, gg, dy, xx with
        | true, some g, _, _ => { op := .wMma, a := g, b := g, d := some g, m := g.extAt 1, n := g.cols, k := 0, kw := 64 }
        | _, _, some a, some b => productOf .wMma a b gg
        | _, _, _, _ => { op := .wMma, a := tdFieldsOf [] [], b := tdFieldsOf [] [], d := none, m := 0, n := 0, k := 0, kw := 64 }
      let rowMask := x.fld 48 0 44
      let blkMask := x.fld 56 0 44
      let hits := match (geosOf x p)[i]? with
        | none => false
        | some q =>
          let rs := [(coreMem t true + accOff x, 16384 * q.blocks false)]
            ++ (if fl then [] else [(coreMem t false + stageOff x, stageBytes x p q)])
          ((if fl then [] else [p.a, p.b]) ++ p.d.toList).any fun td => rs.any fun r => r.2 != 0 && tdHits rq td r.1 r.2
      if x.fld 40 20 1 != 0 || x.fld 40 25 7 != 0 || accOff x % 4096 != 0 || accTooLong x p || decide (2 ≤ finalOf x)
          || (fl && finalOf x == 1) || hits then fail 40
      else if x.fld 44 7 1 != 0 || x.fld 44 12 20 != 0 || !gridOk x || decide (2 ≤ x.fld 44 8 2) || x.fld 44 10 2 == 3 then fail 44
      else if maskBad s rq rowMask p.m || (!fl && (stageOff x % 4096 != 0
          || (geosOf x p).any fun q => decide (wgaBase < stageOff x + stageBytes x p q))) then fail 48
      else if rsv44 x 56 || maskBad s rq blkMask (ceilDiv p.m 64 * ceilDiv p.n 64) then fail 56
      else .ok p

/-- R154: an element of G is masked. -/
def isMasked (s : State) (rq : Requester) (x : Desc) (p : Product) (m n : Nat) : Bool :=
  maskBit s rq (x.fld 48 0 44) m || maskBit s rq (x.fld 56 0 44) (m / 64 * ceilDiv p.n 64 + n / 64)

/-- R147 to R154: copy `i` of a W_MMA, where its checks pass. A flush makes no pass and starts from the accumulators. -/
def wMmaCopy (s : State) (x : Desc) (t : Target) (i : Nat) : Except Report MatCopy :=
  (wMmaCheck s x t i).map fun p =>
    let z := asStarted x t s
    { target := t, index := i, p := p, q := geoOf p.m p.n (gridOf x) x.copies.length i, init := isFlush x || accInit x,
      keeps := !isFlush x, active := fun m n => !isMasked z (rqOf t) x p m n }

/-- R157: the tiles of a copy whose every element is masked. -/
def MatCopy.maskedTiles (j : MatCopy) : Nat :=
  ((tilesOf j.q false).filter fun w => (tileSpan j.p.m w.mi).all fun (_, m) => !j.active m (64 * w.ni)).length

/-- R154: the copy makes some pass. -/
def MatCopy.passes (x : Desc) (j : MatCopy) : Bool := !isFlush x && decide (j.maskedTiles < j.q.mt * j.q.nt)

/-- R148, R154: what a W_MMA copy stages: for each chunk the whole block of DY that covers it and the copy's rows of G; nothing where it
makes no pass. -/
def wStage (x : Desc) (j : MatCopy) (draw : Nat) : List Part :=
  if j.passes x then
    j.stage x draw ((List.range (j.q.rows j.p.m)).flatMap fun r => (List.range j.p.k).flatMap fun k =>
      j.p.a.readAddrs (toInts (j.p.a.pos k (64 * j.q.mi + r))))
  else []

/-- R155, R158: the counters of a W_MMA copy through `kc` chunks: rows streamed and rows skipped, per pass made or left out. -/
def countWMma (x : Desc) (draw kc : Nat) (j : MatCopy) (s : State) : State :=
  if isFlush x || j.q.isEmpty || kc = 0 then s else
    let cols := (List.range j.q.nt).map fun ni =>
      ((List.range (j.q.rows j.p.m)).filter fun r => j.active (64 * j.q.mi + r) (64 * (j.q.ni + ni))).length
    let made := cols.filter (· != 0)
    let skipped := (cols.map fun n => j.q.rows j.p.m - n).sum
    let c := coreNumber j.target
    let stalls := if made.isEmpty then 0 else
      (made.map fun n => (64 - n) * kc).sum - (64 - made.getLastD 64) + Config.freeAt draw (384 + c)
    updCore c (fun y => { y with
      meBusy := y.meBusy.add (kc * made.sum), meSkip := y.meSkip.add (kc * skipped), meLoad := y.meLoad.add stalls,
      meFeed := y.meFeed.add (if made.isEmpty then 0 else Config.freeAt draw c) }) s

/-- The copies of a W_MMA whose checks have passed, each with its work. -/
def wMmaJobs (rs : List (Target × Except Report MatCopy)) (x : Desc) (draw : Nat) : List (MatCopy × Work) :=
  rs.filterMap fun (_, r) => r.toOption.map fun j => (j, j.work x draw (wStage x j draw))

/-- R147 to R157: the copies of a W_MMA of either MODE that run. DETAIL is formed over all copies. -/
def runWMma (x : Desc) (s : State) : State :=
  let (c, s0) := drawFree s
  let rs := (copiesOf x).map fun (t, i) => (t, wMmaCopy s0 x t i)
  if (firstReport rs).isSome then failCopies x.ref rs s0 else
    let js := pickJobs (x.runsOn 0) (wMmaJobs rs x c)
    match jobsBad js s0 with
    | some (t, a, pl) => memUncorrectable x.ref t a pl 0 (symbolsAt s0.mem pl) s0
    | none =>
      let (gs, s1) := carryOutFor x.ref false (pastOf x false s0) (js.map (·.2)) s0
      let s2 := ((js.map (·.1)).zip gs).foldl (fun s (j, g) =>
        finishCopy x.ref j.target (g.report 0) (countAccess c g (countWMma x c j.p.chunks j s))) s1
      setDetailAll x.ref (detailSoFar x + (js.map fun (j, _) => j.maskedTiles).sum) (useTokens dAeTxn 512 c (aeHolders gs) s2)

/-- R157: the part of a stopped W_MMA that has been done: the sums of its leading chunks are added to what stood there before. -/
def stopWMma (x : Desc) (s : State) : State :=
  if x.copies.any fun c => stoppedAt x 0 c.target then
    let (c, s0) := drawFree s
    let rs := (copiesOf x).map fun (t, i) => (t, wMmaCopy s0 x t i)
    if (firstReport rs).isSome then s0 else
      let js := pickJobs (stoppedAt x 0) (wMmaJobs rs x c)
      let (gs, s1) := carryOut (pastOf x false s0) (js.map fun (j, _) => (j.work x c []).readable s0) s0
      ((js.map (·.1)).zip gs).foldl (fun s (j, g) =>
        countAccess c g (countWMma x c (Config.freeAt c (2 * coreNumber j.target) % (j.p.chunks + 1)) j
          (j.stopped x c (wStage x j c) true g s))) { s0 with freeCtr := s1.freeCtr }
  else s

/-- R147: a W_MMA with MODE = ACCUMULATE runs on its cores. -/
def execWMmaAccumulate (d : Ref) (s : State) : Answer :=
  .next (atStage d .wMma 0 (fun x s => if isFlush x then s else runWMma x s) s)

/-- R153: a W_MMA with MODE = FLUSH runs on its cores. -/
def execWMmaFlush (d : Ref) (s : State) : Answer :=
  .next (atStage d .wMma 0 (fun x s => if isFlush x then runWMma x s else s) s)

end Sys2Proof.Machine
end

