-- ==== Sys2Proof/Machine/Vector.lean ====
section
/-! DEFINITION. The vector engine (R118 to R142): chain programs, their checks (R140), stages, reductions, outputs and saves, the
three sources of rows (R129), and raw streams at the receiving end (R401 to R404). -/

namespace Sys2Proof.Machine

/-- R122: a stage word. -/
structure Stage where
  op : Nat
  sa : Nat
  sb : Nat
  sc : Nat
  save : Nat
  phase : Nat
  hreg : Nat
  rsv : Bool
deriving DecidableEq, Repr

def stageOf (w : Nat) : Stage :=
  { op := bitsOf w 0 6, sa := bitsOf w 6 5, sb := bitsOf w 11 5, sc := bitsOf w 16 5, save := bitsOf w 21 3,
    phase := bitsOf w 24 1, hreg := bitsOf w 25 2, rsv := bitsOf w 27 5 != 0 }

/-- R127: a reduction. -/
def isReduction (op : Nat) : Bool := decide (48 ≤ op ∧ op ≤ 53)

/-- R125 to R127: an operation that is not rejected. -/
def opListed (op : Nat) : Bool := decide (op ≤ 18 ∨ (32 ≤ op ∧ op ≤ 39)) || isReduction op

/-- R125 to R127: the operands of an operation. -/
def arity (op : Nat) : Nat :=
  match op with
  | 0 | 8 | 9 | 15 | 16 | 17 | 18 => 1
  | 4 | 5 | 10 | 14 => 3
  | 33 => 2
  | _ => if op < 32 then 2 else 1

/-- R125 to R127: the slots of an operation. -/
def slotsOf (op : Nat) : Nat :=
  match op with
  | 33 | 38 | 39 | 53 => 3
  | _ => if 32 ≤ op ∧ op ≤ 37 then 2 else 1

/-- R123: the selectors that a stage uses. -/
def Stage.used (g : Stage) : List Nat := [g.sa, g.sb, g.sc].take (arity g.op)

/-- R127: the row registers that a stage writes. -/
def Stage.regs (g : Stage) : List Nat := if g.op = 53 then [g.hreg, g.hreg + 1] else if isReduction g.op then [g.hreg] else []

/-- R139: fields of the CHAIN body. -/
def chainSrc (x : Desc) : Nat := x.fld 40 6 2
def chainMode (x : Desc) : Nat := x.fld 40 8 2
def chainW16 (x : Desc) : Bool := x.fld 40 3 1 == 1
def chainTwo (x : Desc) : Bool := x.fld 40 5 1 == 1
def chainCvt (x : Desc) : Cvt := cvtOf x (x.fld 40 13 2) (x.fld 40 15 2) (x.fld 40 17 2)
def stagesCount (x : Desc) : Nat := x.fld 40 0 3 + 1

/-- R121: a word of the chain program. -/
def progWord (s : State) (rq : Requester) (x : Desc) (off len : Nat) : Nat := leNat (readBytes s rq (x.fld 32 0 44 + off) len)

/-- What a copy of a CHAIN has read when it starts: its input and shape, its output, side inputs and saves, and its program. -/
structure Job where
  x : Option Td
  shape : List Nat
  out : Option Td
  sides : List (Option Td)
  saves : List (Option Td)
  k : List Nat
  stages : List Stage
deriving DecidableEq, Repr

/-- R129: X's logical shape. -/
def chainShape (s : State) (x : Desc) (t : Target) (i : Nat) (xt : Option Td) : Option (List Nat) :=
  if chainSrc x = 1 then
    match x.pair.bind (findDesc s) with
    | none => none
    | some d =>
      match d.op with
      | none => none
      | some o => ((mmaCheck s o d t i).toOption).map fun p =>
          if o = .conv then (p.d.map (·.ext)).getD [] else p.n :: p.a.outer
  else xt.map (·.ext)

/-- The named tensor descriptor; none where its address is 0 or it is invalid. -/
def namedTd (s : State) (rq : Requester) (dest : Bool) (a : Nat) : Option Td := if a = 0 then none else readTd s rq dest a

/-- What a copy reads at its start (R121, R191). -/
def chainJob (s0 : State) (x : Desc) (t : Target) (i : Nat) : Job :=
  let rq := rqOf t
  let s := asStarted x t s0
  let xt := if chainSrc x % 2 = 1 then none else readTd s rq false (x.fld 16 0 44)
  { x := xt, shape := (chainShape s0 x t i xt).getD [], out := namedTd s rq true (x.fld 24 0 44),
    sides := (List.range 4).map fun j => namedTd s rq false (progWord s rq x (8 * j) 8 % 2 ^ 44),
    saves := (List.range 4).map fun j => namedTd s rq true (progWord s rq x (32 + 8 * j) 8 % 2 ^ 44),
    k := (List.range 8).map fun c => progWord s rq x (64 + 4 * c) 4,
    stages := (List.range (stagesCount x)).map fun j => stageOf (progWord s rq x (96 + 4 * j) 4) }

/-! ### Checks -/

/-- R131, R132, R133: the formats accepted for inputs, and for the output and per-element saves. -/
def inFmtOk (w16 : Bool) (f : Nat) : Bool := if w16 then decide (1 ≤ f ∧ f ≤ 4) else decide (f ≤ 8)
def outFmtOk (w16 : Bool) (f : Nat) : Bool := if w16 then decide (1 ≤ f ∧ f ≤ 7) else decide (f ≤ 8)

/-- R123: a used selector of stage `j` is out of its limits; S3 in an EXPAND chain, which no stage reads (R132), is judged like one that
is out of limits (log 95). -/
def selectorBad (x : Desc) (stages : List Stage) (j : Nat) (g : Stage) (sel : Nat) : Bool :=
  if 28 ≤ sel then true
  else if 21 ≤ sel ∧ sel ≤ 24 then !(chainTwo x && g.phase == 1)
  else if 5 ≤ sel ∧ sel ≤ 12 then
    !(decide (sel - 5 < j) && (stages[sel - 5]?.map (·.phase)) == some g.phase)
  else if 1 ≤ sel ∧ sel ≤ 4 then chainMode x == 2 && sel == 4
  else false

/-- R140: a condition on stage words at offset 32. -/
def stagesBad (x : Desc) (stages : List Stage) : Bool :=
  let regs := stages.flatMap Stage.regs
  let slots := (stages.map (·.save)).filter (· != 0)
  (stages.zipIdx.any fun (g, j) => g.rsv || !opListed g.op || (g.used.any (selectorBad x stages j g)) || decide (5 ≤ g.save)
      || (g.phase == 1 && !chainTwo x) || (isReduction g.op && chainTwo x && g.phase == 1) || (g.op == 53 && g.hreg == 3))
    || !(decide regs.Nodup) || !(decide slots.Nodup)

/-- R130: the side inputs that a chain uses. -/
def usedSides (x : Desc) (stages : List Stage) : List Nat :=
  (List.range 4).filter fun j => (stages.any fun g => g.used.contains (j + 1)) || (chainMode x == 2 && j == 3)

/-- R130, R132: the extents of a side input fit; S3 of an EXPAND has X's outer extents. -/
def sideOk (x : Desc) (j : Job) (n : Nat) (t : Td) : Bool :=
  inFmtOk (chainW16 x) t.fmt &&
    decide (t.rank ≤ j.shape.length) &&
    (if chainMode x == 2 && n == 3 then t.outer == j.shape.drop 1
     else (t.ext.zip j.shape).all fun (a, b) => a == b || a == 1)

/-- R132, R133: the save of a slot by a stage, or V3 of a COMPRESS, fits. -/
def saveOk (x : Desc) (j : Job) (n : Nat) (t : Td) : Bool :=
  match j.stages.find? fun g => g.save == n + 1 with
  | some g =>
    if isReduction g.op then decide (t.fmt ≤ 2) && t.ext == (if g.op = 53 then 2 else 1) :: j.shape.drop 1
    else outFmtOk (chainW16 x) t.fmt && t.ext == j.shape
  | none => t.fmt == 8 && t.ext == 1 :: j.shape.drop 1

/-- R133: the save slots that a chain writes. -/
def usedSaves (x : Desc) (stages : List Stage) : List Nat :=
  (List.range 4).filter fun n => (stages.any fun g => g.save == n + 1) || (chainMode x == 1 && n == 3)

/-- R140: the checks of a CHAIN by one of its copies, in order. A chain with SRC = 3, or with SRC = DRAIN and no pair, has no X that an
extent could be held against. -/
def chainChecks (s : State) (x : Desc) (t : Target) (j : Job) : List (Nat × Bool) :=
  let rq := rqOf t
  let src := chainSrc x
  let w16 := chainW16 x
  let mode := chainMode x
  let hasOut := x.fld 24 0 44 != 0
  let alone := (src == 1 && x.pair.isNone) || src == 3
  let prog := x.fld 32 0 44
  let progBad := !recordOk s rq prog 128 64
  let xBad := match j.x with
    | none => src == 0 || src == 2
    | some a => src == 0 && (!inFmtOk w16 a.fmt || a.ext.any (· == 0))
  let outBad := hasOut && (match j.out with
    | none => true
    | some o => !outFmtOk w16 o.fmt || (!alone && mode == 1 && (o.outer != j.shape.drop 1 || o.rank != j.shape.length))
        || (!alone && (mode == 0 || mode == 2) && o.ext != j.shape))
  let tdBad := (usedSides x j.stages).any (fun n => match j.sides.getD n none with | none => true | some a => !sideOk x j n a)
    || (usedSaves x j.stages).any (fun n => match j.saves.getD n none with | none => true | some a => !saveOk x j n a)
  let int32s := ((j.out.toList ++ (usedSides x j.stages).filterMap (fun n => j.sides.getD n none)
    ++ (usedSaves x j.stages).filterMap (fun n => j.saves.getD n none))).any fun a => a.fmt == 8
  let ps := x.fld 40 10 3
  let rnd := x.fld 40 13 2
  [ (16, rsv44 x 16 || xBad),
    (24, rsv44 x 24 || outBad),
    (32, rsv44 x 32 || progBad || stagesBad x j.stages || (!alone && tdBad)),
    (40, x.fld 40 19 13 != 0 || mode == 3 || (mode != 0 && (src != 0 || !hasOut))
      || (mode == 1 && j.stages.any fun g => g.save == 4)
      || (mode != 0 && (decide (stagesCount x ≤ ps) || (chainTwo x && (j.stages[ps]?.map (·.phase)) == some 0)))
      || (chainTwo x && !((j.stages.any fun g => g.phase == 0) && j.stages.any fun g => g.phase == 1))
      || rnd == 3 || x.fld 40 15 2 == 3 || (rnd == 2 && (!hasOut || (j.out.map (·.fmt)) == some 8))
      || (w16 && int32s) || alone),
    (60, x.fld 60 16 16 != 0 || (src == 2 && (x.fld 60 0 2 == hUnit x.bytes || decide (dieCount s ≤ x.fld 60 0 2)
      || x.fld 60 9 7 == 0 || decide (96 < x.fld 60 9 7)))) ]

/-- R140: the job of a copy where its checks pass. -/
def chainCheck (s : State) (x : Desc) (t : Target) (i : Nat) : Except Report Job :=
  let j := chainJob s x t i
  checked (chainChecks s x t j) j

/-! ### Lanes and stages -/

/-- R118: the 16-bit lane format. -/
def laneFmt (x : Desc) : Fmt := if x.fld 40 4 1 = 1 then fp16 else bf16

/-- R82: a result in the lane format. -/
def lane (x : Desc) (v : FVal) : FVal :=
  if chainW16 x then decodeF (laneFmt x) (encodeF (laneFmt x) .rne 2 v) else round32 v

/-- R68, R131: an input value in the lane format: a 16-bit or 8-bit value keeps its exact value in W32. -/
def laneIn (x : Desc) (fmt : Nat) (v : FVal) : FVal :=
  if chainW16 x then lane x v else if 1 ≤ fmt ∧ fmt ≤ 4 then v else round32 v

/-- R130: the position of a side input that an element reads. -/
def sidePos (t : Td) (pos : List Nat) : List Int := toInts ((t.ext.zip pos).map fun (e, p) => if e = 1 then 0 else p)

/-- R130: the value of a side input at an element. -/
def sideVal (v : View) (rq : Requester) (x : Desc) (t : Td) (pos : List Nat) : FVal := laneIn x t.fmt (v.val rq t (sidePos t pos))

/-- R132: the position of S3 that EXPAND reads for the k-th true column of a row. -/
def expandPos (k : Nat) (outer : List Nat) : List Int := toInts (k :: outer)

/-- R68: a lane value written to OUT: in FP32 a subnormal is a zero of its sign. -/
def toOut (out : Td) (v : FVal) : FVal := if out.fmt = 0 then round32 v else v

/-- What a stage reads of an element besides earlier results. -/
structure Elem where
  pos : List Nat
  row : Nat
  col : Nat
  x : FVal
deriving DecidableEq, Repr

/-- R123: the value of an operand selector. -/
def operand (v : View) (rq : Requester) (x : Desc) (j : Job) (regs : List FVal) (e : Elem) (ts : List (Nat × FVal)) (sel : Nat) :
    FVal :=
  if sel = 0 then e.x
  else if sel ≤ 4 then (match j.sides.getD (sel - 1) none with | some t => sideVal v rq x t e.pos | none => fzero)
  else if sel ≤ 12 then ((ts.find? fun p => p.1 == sel - 5).map (·.2)).getD fzero
  else if sel ≤ 20 then lane x (val32 (BitVec.ofNat 32 (j.k.getD (sel - 13) 0)))
  else if sel ≤ 24 then lane x (regs.getD (sel - 21) fzero)
  else if sel = 25 then lane x (ofInt e.col 0 false)
  else if sel = 26 then lane x (ofInt e.row 0 false)
  else fzero

/-- 1.0 for true and +0 for false. -/
def truth (b : Bool) : FVal := if b then fone else fzero

/-- R125 to R127: the result of an operation; a reduction's is A unchanged. -/
def stageResult (x : Desc) (draw place op : Nat) (a b c : FVal) : FVal :=
  match op with
  | 0 => lane x a
  | 1 => lane x (fadd a b)
  | 2 => lane x (fsub a b)
  | 3 => lane x (fmul a b)
  | 4 => lane x (fadd (fmul a b) c)
  | 5 => lane x (fsub c (fmul a b))
  | 6 => lane x (fmax a b)
  | 7 => lane x (fmin a b)
  | 8 => lane x a.abs
  | 9 => lane x a.negate
  | 10 => lane x (fmin (fmax a b) c)
  | 11 => truth (flt a b)
  | 12 => truth (fle a b)
  | 13 => truth (feq a b)
  | 14 => lane x (if c.isZero then b else a)
  | 15 => lane x (integral false a)
  | 16 => lane x (integral true a)
  | 17 => lane x (decodeF bf16 (encodeF bf16 .rne 2 a))
  | 18 => lane x (decodeF fp16 (encodeF fp16 .rne 2 a))
  | _ => if isReduction op then a else lane x (seedOp op draw place a b)

/-- R124: the stages of a phase in order, each with its number. -/
def Job.phase (j : Job) (p : Nat) : List (Nat × Stage) := (j.stages.zipIdx.map fun (g, i) => (i, g)).filter fun g => g.2.phase == p

/-- R124: the results of a phase's stages for an element. -/
def runPhase (w : View) (rq : Requester) (x : Desc) (j : Job) (draw place : Nat) (regs : List FVal) (p : Nat) (e : Elem) :
    List (Nat × FVal) :=
  (j.phase p).foldl (fun ts (i, g) =>
    let v := operand w rq x j regs e ts
    ts ++ [(i, stageResult x draw (place + i) g.op (v g.sa) (v g.sb) (v g.sc))]) []

/-- The result of a stage among those of an element. -/
def resultOf (ts : List (Nat × FVal)) (i : Nat) : FVal := ((ts.find? fun p => p.1 == i).map (·.2)).getD fzero

/-- R127, R128: the values that a reduction stage leaves in its row registers, from its results along a row. -/
def reduceRow (draw place : Nat) (op : Nat) (xs : List FVal) : List FVal :=
  match op with
  | 48 => [freeSum draw place xs]
  | 49 => [sumSq draw place xs]
  | 50 => [round32 (xs.foldl fmax (.inf true))]
  | 51 => [round32 (xs.foldl fmin (.inf false))]
  | 52 => [round32 (xs.foldl (fun m v => fmax m v.abs) fzero)]
  | _ => let (m, t) := maxSumExp draw place xs; [round32 m, t]

/-- R128: the row registers after the reductions of a row. -/
def rowRegs (draw place : Nat) (j : Job) (cells : List (List (Nat × FVal))) : List FVal :=
  (j.stages.zipIdx.filter fun (g, _) => isReduction g.op).foldl (fun regs (g, i) =>
    ((reduceRow draw (place + 1000003 * (i + 1)) g.op (cells.map fun c => resultOf c i)).zipIdx).foldl (fun r (v, m) => r.set (g.hreg + m) v) regs)
    (List.replicate 4 fzero)

/-! ### Rows -/

/-- Writes whose ordinals are taken from a table. -/
def renumber (f : Nat → Nat) (ws : List EWrite) : List EWrite := ws.map fun w => { w with nf := w.nf.map fun (o, k) => (f o, k) }

/-- A row, or a run of its columns, that is processed: its outer coordinates, its first column, its active elements, and the ordinal of the
first of them. -/
structure RowIn where
  outer : List Nat
  col : Nat
  es : List Elem
  ord : Nat
deriving DecidableEq, Repr

/-- R138: the ordinal of a row's last element. -/
def RowIn.last (w : RowIn) : Nat := w.ord + w.es.length - 1

/-- A row of elements processed: what is written, and how many elements COMPRESS wrote. -/
structure RowDone where
  writes : List EWrite
  packed : Nat
deriving DecidableEq, Repr

/-- R132, R134: the writes of OUT for a row; a FILL is converted to INT32 with RNE. -/
def writeOut (v : View) (rq : Requester) (x : Desc) (j : Job) (w : RowIn) (cells : List (List (Nat × FVal))) (last : Nat) : RowDone :=
  match j.out with
  | none => { writes := [], packed := 0 }
  | some out =>
    let cvt := chainCvt x
    let fillCvt := if out.fmt = 8 then { cvt with rnd := 0 } else cvt
    let res := cells.map fun c => resultOf c last
    let preds := cells.map fun c => !(resultOf c (x.fld 40 10 3)).isZero
    let fill := val32 (BitVec.ofNat 32 (x.fld 44 0 32))
    let run (cvt : Cvt) (c o : Nat) (xs : List FVal) : List EWrite := out.writeRun w.outer cvt c o (xs.map (toOut out))
    match chainMode x with
    | 1 =>
      let kept := ((res.zip preds).zipIdx.filter fun (v, _) => v.2).map fun (v, i) => (v.1, i)
      let got := kept.take out.cols
      let fills := List.replicate (out.cols - got.length) fill
      let f (o : Nat) : Nat := match got[o]? with | some (_, i) => w.ord + i | none => w.last
      let cnt := match j.saves.getD 3 none with
        | some t => renumber (fun _ => w.last) (t.writeRun w.outer .plain 0 0 [ofInt kept.length 0 false])
        | none => []
      let ws := if isMx out.fmt then run cvt 0 0 (got.map (·.1) ++ fills)
                else run cvt 0 0 (got.map (·.1)) ++ run fillCvt got.length got.length fills
      { writes := renumber f ws ++ cnt, packed := got.length }
    | 2 =>
      let vals := (res.zip preds).zipIdx.map fun ((r, p), i) =>
        let k := ((preds.take i).filter id).length
        match p, j.sides.getD 3 none with
        | false, _ => (r, cvt)
        | true, some t => if k < t.cols then (laneIn x t.fmt (v.val rq t (expandPos k w.outer)), cvt) else (fill, fillCvt)
        | true, none => (fill, fillCvt)
      { writes := if isMx out.fmt then run cvt w.col w.ord (vals.map (·.1))
                  else vals.zipIdx.flatMap fun ((r, c), i) => run c (w.col + i) (w.ord + i) [r], packed := 0 }
    | _ => { writes := run cvt w.col w.ord res, packed := 0 }

/-- R128, R133: the saves of a row. -/
def writeSaves (j : Job) (w : RowIn) (cells : Nat → List (List (Nat × FVal))) (regs : List FVal) : List EWrite :=
  j.stages.zipIdx.flatMap fun (g, i) =>
    if g.save = 0 then [] else
      match j.saves.getD (g.save - 1) none with
      | none => []
      | some t =>
        if isReduction g.op then
          renumber (fun _ => w.last) (t.writeRun w.outer .plain 0 0 (g.regs.map fun r => regs.getD r fzero))
        else t.writeRun w.outer .plain w.col w.ord ((cells g.phase).map fun c => resultOf c i)

/-- R119, R124, R128: one row processed through its phases. Of an element for which OUT and saves write non-finite values, KIND is that of
the first in the order OUT, then saves by stage (log 33). -/
def processRow (v : View) (rq : Requester) (x : Desc) (j : Job) (draw place : Nat) (w : RowIn) : RowDone :=
  let zero := List.replicate 4 fzero
  let at_ (i : Nat) : Nat := place + 8 * i
  let a := w.es.zipIdx.map fun (e, i) => runPhase v rq x j draw (at_ i) zero 0 e
  let regs := rowRegs draw place j a
  let b := if chainTwo x then w.es.zipIdx.map fun (e, i) => runPhase v rq x j draw (at_ i) regs 1 e else a
  let cells (p : Nat) : List (List (Nat × FVal)) := if p = 1 then b else a
  let lastPhase := if chainTwo x then 1 else 0
  let last := ((j.phase lastPhase).getLast?.map (·.1)).getD 0
  let o := writeOut v rq x j w (cells lastPhase) last
  { o with writes := o.writes ++ writeSaves j w cells regs }

/-- R130: the addresses of the side inputs that elements at some positions of a row read. -/
def sideReads (x : Desc) (j : Job) (outer : List Nat) (ps : List (List Nat)) : List Nat :=
  (usedSides x j.stages).flatMap fun n =>
    match j.sides.getD n none with
    | none => []
    | some t =>
      if chainMode x == 2 && n == 3 then (List.range t.cols).flatMap fun c => t.readAddrs (expandPos c outer)
      else ps.flatMap fun p => t.readAddrs (sidePos t p)

/-- R133, R135: the tensors that a chain writes, and the side inputs that it reads. -/
def Job.dsts (j : Job) (x : Desc) : List Td := j.out.toList ++ (usedSaves x j.stages).filterMap fun n => j.saves.getD n none
def Job.srcs (j : Job) (x : Desc) : List Td := (usedSides x j.stages).filterMap fun n => j.sides.getD n none

/-- R135: two written tensors may share a byte. -/
def Job.clashes (j : Job) (x : Desc) (rq : Requester) : Bool :=
  (j.dsts x).zipIdx.any fun (a, i) => ((j.dsts x).drop (i + 1)).any (a.meets rq)

/-- R135: the operands that a destination may overlap; OUT may be X itself. -/
def Job.watch (j : Job) (x : Desc) (rq : Requester) : List Nat :=
  let same (a b : Td) : Bool := a.base == b.base && a.stride == b.stride && a.w == b.w && a.t16 == b.t16 && a.ext == b.ext
  let ofX := match j.x with
    | some a => if chainSrc x = 0 then watched rq [a] ((j.dsts x).filter fun o => !(j.out == some o && same a o)) else []
    | none => []
  ofX ++ watched rq (j.srcs x) (j.dsts x)

/-- R135: what a chain writes, where two of its written tensors overlap: each overlapping element keeps one of the values written to
it. -/
def Job.settle (j : Job) (x : Desc) (rq : Requester) (v : View) (ws : List EWrite) : List EWrite :=
  if j.clashes x rq then keepEither x.ref v rq ws else ws

/-- R194: the borders that copy `i` writes. -/
def Job.closing (j : Job) (x : Desc) (i ordinal : Nat) : List EWrite := (j.dsts x).flatMap fun t => t.closing i ordinal

/-- R119: the lanes. -/
def laneCount (x : Desc) : Nat := if chainW16 x then 256 else 128

/-- R136: the slots of a chain's phases. -/
def chainSlots (j : Job) : Nat := (j.stages.map fun g => slotsOf g.op).sum

/-- R124, R128: each element goes through the chain by itself. -/
def Job.elementwise (j : Job) (x : Desc) : Bool := chainMode x == 0 && !chainTwo x && !(j.stages.any fun g => isReduction g.op)

/-- R136: the slots of the stages of phase `p`. -/
def phaseSlots (j : Job) (p : Nat) : Nat := ((j.phase p).map fun g => slotsOf g.2.op).sum

/-- R119, R142: the counters and VL of a copy that has processed some strips; the waits are numbers that the spec leaves open (log 11). -/
def countVector (t : Target) (draw busy : Nat) (drain stream : Bool) (vl : Option Nat) (s : State) : State :=
  let free (k : Nat) : Nat := Config.freeAt draw (7 * coreNumber t + k)
  updCore (coreNumber t) (fun c => { c with
    veBusy := c.veBusy.add busy, veMem := c.veMem.add (free 0),
    veDrain := if drain then c.veDrain.add (free 1) else c.veDrain,
    veStream := if stream then c.veStream.add (free 2) else c.veStream,
    vl := vl.getD c.vl }) s

/-- R119, R124: a copy's passes of strips through a phase, in order: `n` rows of `per` strips of `w` columns, the last of a row shorter. -/
structure Strips where
  n : Nat
  per : Nat
  cols : Nat
  w : Nat
deriving DecidableEq, Repr

/-- R119: the passes of strips through phases. -/
def Strips.total (p : Strips) (two : Bool) : Nat := p.n * p.per * (if two then 2 else 1)

/-- R142: the slots of the first `k` passes. -/
def Strips.busy (p : Strips) (j : Job) (two : Bool) (k : Nat) : Nat :=
  if two then
    let q := k % (2 * p.per)
    k / (2 * p.per) * p.per * chainSlots j + min q p.per * phaseSlots j 0 + (q - p.per) * phaseSlots j 1
  else k * chainSlots j

/-- R119: VL at pass `k`. -/
def Strips.vl (p : Strips) (k : Nat) : Nat := min p.w (p.cols - k % p.per * p.w)

/-- R119, R142: the counters and VL of a copy that stopped within one of its passes of strips, or before the first: which one is open. -/
def countStopped (t : Target) (draw : Nat) (p : Strips) (j : Job) (two drain stream : Bool) (s : State) : State :=
  let k := Config.freeAt draw (7 * coreNumber t + 3) % (p.total two + 1)
  if k = 0 then countVector t draw 0 drain stream none s
  else
    let least := p.busy j two (k - 1)
    countVector t draw (least + Config.freeAt draw (7 * coreNumber t + 5) % (p.busy j two k - least + 1)) drain stream
      (some (p.vl (k - 1))) s

/-! ### SRC = TENSOR -/

/-- The elements of columns `c` to `c + n - 1` of row `r` of X. -/
def tensorRun (v : View) (rq : Requester) (x : Desc) (t : Td) (r c n : Nat) : List Elem :=
  (List.range n).map fun i =>
    { pos := t.pos r (c + i), row := r, col := c + i, x := laneIn x t.fmt (v.val rq t (toInts (t.pos r (c + i)))) }

/-- R120, R132: the plan of a copy of a CHAIN with SRC = TENSOR; a step is a row, or less of it where a destination overlaps an operand and
each element goes by itself; a chain that is not element-wise goes by whole rows (log 33). -/
def chainPlan : Planner := fun s d draw t i n =>
  let rq := rqOf t
  match chainCheck s d t i with
  | .error e => .error e
  | .ok j =>
    match j.x with
    | none => .error (Report.of stDescInvalid 16)
    | some a =>
      let watch := j.watch d rq
      let rows := itemsOf a.rows n i
      let cols := if watch.isEmpty || !j.elementwise d then max 1 a.cols else if (j.dsts d).any fun o => isMx o.fmt then 32 else 1
      let parts := rows.zipIdx.flatMap fun (r, m) => (colPieces a.cols cols).map fun (c, k) =>
        let ps := (List.range k).map fun q => a.pos r (c + q)
        { piece := r, reads := ps.flatMap (fun p => a.readAddrs (toInts p)) ++ sideReads d j (unravel a.outer r) ps,
          fetched := a.fetchBytes k,
          make := fun v =>
            let o := processRow v rq d j draw (16 * (r * a.cols) + 8 * c)
              { outer := unravel a.outer r, col := c, es := tensorRun v rq d a r c k, ord := m * a.cols + c }
            { writes := j.settle d rq v o.writes, count := o.packed } }
      let strips : Strips := { n := rows.length, per := ceilDiv a.cols (laneCount d), cols := a.cols, w := laneCount d }
      let all := strips.total (chainTwo d)
      .ok { target := t, watch := watch, parts := parts, close := fun _ => j.closing d i (rows.length * a.cols),
            whole := countVector t draw (strips.busy j (chainTwo d) all) false false
              (if all = 0 then none else some (strips.vl (all - 1))),
            partly := countStopped t draw strips j (chainTwo d) false false }

/-- R120, R141: a CHAIN with SRC = TENSOR runs. -/
def runChainTensor (x : Desc) (s : State) : State := runOp chainPlan x s

/-- R120: CHAIN with SRC = TENSOR. -/
def execChainTensor (d : Ref) (s : State) : Answer :=
  .next (atStage d .chain 0 (fun x s => if chainSrc x == 0 || chainSrc x == 3 then runChainTensor x s else s) s)

/-! ### Rows from a matrix engine -/

/-- R129: the active elements of a received row. -/
def receivedRow (x : Desc) (j : Job) (w : StreamRow) : List Elem :=
  let n := j.shape.headD 0
  (List.range (min 64 (n - 64 * w.ni))).map fun c =>
    { pos := (64 * w.ni + c) :: unravel (j.shape.drop 1) w.m, row := w.m, col := 64 * w.ni + c,
      x := lane x (val32 (w.vals.getD c 0)) }

/-- R129, R193: a received row processed: of one that lies beyond X's rows nothing is written. -/
def receivedDone (v : View) (rq : Requester) (x : Desc) (j : Job) (draw : Nat) (w : StreamRow) (ord : Nat) : RowDone :=
  let o := processRow v rq x j draw (16 * (w.m * 65536 + w.ni * 64))
    { outer := unravel (j.shape.drop 1) w.m, col := 64 * w.ni, es := receivedRow x j w, ord := ord }
  if w.m < volume (j.shape.drop 1) then o else { o with writes := [] }

/-- R130: the addresses that the processing of a received row reads. -/
def receivedReads (x : Desc) (j : Job) (w : StreamRow) : List Nat :=
  if w.m < volume (j.shape.drop 1) then
    sideReads x j (unravel (j.shape.drop 1) w.m) ((receivedRow x j w).map (·.pos))
  else []

/-- R129: a chain packs received rows into one strip. -/
def Job.packs (j : Job) (x : Desc) : Bool := !chainTwo x && !(j.stages.any fun g => isReduction g.op)

/-- R129: the rows that share a strip at most. -/
def Job.packMost (j : Job) (x : Desc) : Nat := if j.packs x then laneCount x / 64 else 1

/-- R129, R142: the counters and VL of a copy that has taken `n` rows: how many of them shared a strip is open, and the matrix engine waits
only for more rows than the hold has places for. -/
def countDrained (t : Target) (x : Desc) (j : Job) (draw n : Nat) (s : State) : State :=
  let free (k : Nat) : Nat := Config.freeAt draw (7 * coreNumber t + k)
  let last := 1 + free 4 % max 1 (min n (j.packMost x))
  let least := ceilDiv (n - last) (j.packMost x)
  let strips := if n = 0 then 0 else 1 + least + free 3 % (n - last - least + 1)
  countVector t draw (strips * chainSlots j) (decide (64 < n)) false (if n = 0 then none else some (64 * last)) s

/-- R129, R142: the counters and VL of a copy that has been stopped among `n` rows. -/
def countDrainStopped (t : Target) (x : Desc) (j : Job) (draw n : Nat) (s : State) : State :=
  countDrained t x j draw (Config.freeAt draw (7 * coreNumber t + 5) % (n + 1)) s

/-- R129: the plan of a copy of a CHAIN with SRC = DRAIN, from the rows its matrix descriptor has delivered. -/
def drainPlan (rows : List StreamRow) : Planner := fun s d draw t i _ =>
  let rq := rqOf t
  match chainCheck s d t i with
  | .error e => .error e
  | .ok j =>
    let ords := rows.foldl (fun (acc : List (StreamRow × Nat) × Nat) w =>
      (acc.1 ++ [(w, acc.2)], acc.2 + (receivedRow d j w).length)) ([], 0)
    let parts := ords.1.zipIdx.map fun ((w, ord), k) =>
      { piece := k, reads := receivedReads d j w, fetched := 0,
        make := fun v => { writes := j.settle d rq v (receivedDone v rq d j draw w ord).writes } }
    .ok { target := t, watch := j.watch d rq, parts := parts, close := fun _ => j.closing d i ords.2,
          whole := countDrained t d j draw rows.length, partly := countDrainStopped t d j draw rows.length }

/-- The rows delivered to a copy of a chain; none while its matrix copy has not run. -/
def drainOf (s : State) (r : Ref) (t : Target) : Option Drain := s.streams.drains.find? fun e => e.chain == r && e.target == t

/-- The rows delivered to copies of a chain are gone. -/
def dropDrains (r : Ref) (gone : Target → Bool) (s : State) : State :=
  { s with streams := { s.streams with drains := s.streams.drains.filter fun e => !(e.chain == r && gone e.target) } }

/-- R103: the last row of a matrix copy has entered the chain: the copy is done, with what it counts and reports. -/
def finishPartner (p : Ref) (t : Target) (rep : Report) (s : State) : State := finishCopy p t rep (countDelivered p t 0 s)

/-- The planner of a paired CHAIN, with the rows of every copy. -/
def pairedPlan (ds : List Drain) (r : Ref) : Planner := fun s0 d draw t i n =>
  drainPlan (((ds.find? fun e => e.chain == r && e.target == t).map (·.rows)).getD []) s0 d draw t i n

/-- R113, R140: the checks of every copy of a CHAIN. -/
def chainResults (s : State) (x : Desc) : List (Target × Except Report Job) := (copiesOf x).map fun (t, i) => (t, chainCheck s x t i)

/-- R103, R113: the checks of every copy of the matrix descriptor that a CHAIN is paired with; none where it is not paired. -/
def pairedResults (s : State) (x : Desc) : List (Target × Except Report Product) :=
  match x.pair.bind (findDesc s) with
  | none => []
  | some d =>
    match d.op with
    | some .mma => (copiesOf d).map fun (t, i) => (t, mmaCheck s .mma d t i)
    | some .conv => (copiesOf d).map fun (t, i) => (t, mmaCheck s .conv d t i)
    | some .bMma => (copiesOf d).map fun (t, i) => (t, mmaCheck s .bMma d t i)
    | _ => []

/-- R103, R129: copies of a CHAIN with SRC = DRAIN that run take the rows of their matrix copies, which are then done. -/
def takeDrains (x : Desc) (batch : List Drain) (s : State) : State :=
  let s1 := runOpOn (fun t => batch.any fun e => e.target == t) (pairedPlan batch x.ref) x s
  if hasOutcome x.ref s1 then s1
  else dropDrains x.ref (fun t => batch.any fun e => e.target == t)
    (match x.pair with
    | some p => batch.foldl (fun s e => finishPartner p e.target e.rep s) s1
    | none => s1)

/-- R129, R141: a CHAIN with SRC = DRAIN takes the rows of its matrix descriptor, each copy those of its core. Where the checks of either
fail, both complete alike. -/
def runChainDrain (x : Desc) (s : State) : State :=
  let all (_ : Target) : Bool := true
  if (firstReport (pairedResults s x)).isSome then dropDrains x.ref all (failPair x (pairedResults s x) s)
  else if (firstReport (chainResults s x)).isSome then dropDrains x.ref all (failPair x (chainResults s x) s)
  else
    let batch := s.streams.drains.filter fun e => e.chain == x.ref && x.runsOn 0 e.target
    if batch.isEmpty then s else takeDrains x batch s

/-- R129: CHAIN with SRC = DRAIN. -/
def execChainDrain (d : Ref) (s : State) : Answer :=
  .next (atStage d .chain 0 (fun x s => if chainSrc x == 1 then runChainDrain x s else s) s)

/-- R103, R141: a matrix descriptor runs unless the checks of the CHAIN that it is paired with fail; then both complete alike. -/
def runMatrix (o : Op) (x : Desc) (s : State) : State :=
  match x.pair.bind (findDesc s) with
  | some y =>
    if (firstReport (pairedResults s y)).isNone && (firstReport (chainResults s y)).isSome then failPair y (chainResults s y) s
    else runMma o x s
  | none => runMma o x s

/-- R109: MMA runs on its cores. -/
def execMma (d : Ref) (s : State) : Answer := .next (atStage d .mma 0 (runMatrix .mma) s)

/-- R115: CONV runs on its cores. -/
def execConv (d : Ref) (s : State) : Answer := .next (atStage d .conv 0 (runMatrix .conv) s)

/-- R144: B_MMA runs on its cores. -/
def execBMma (d : Ref) (s : State) : Answer := .next (atStage d .bMma 0 (runMatrix .bMma) s)

/-! ### Raw streams -/

/-- R401: the stream that copy on `t` of a CHAIN with SRC = STREAM receives on. -/
def recvKeyOf (x : Desc) (t : Target) : Nat :=
  match t with
  | .core die k => rawKey (x.fld 60 0 2) die k (x.fld 60 2 7)
  | _ => 0

/-- R401, R402: a CREDIT word on its way from the receiving core to the sending die. -/
def sendCredit (k n : Nat) (close : Bool) (s : State) : State :=
  emit (.streamWord (wordBytes 3 k (k / 128 % 128) close 0 0 n []))
    (setRaw k { rawOf s k with back := (rawOf s k).back ++ [(n, close)] } s)

/-- R129, R402, R404: a CHAIN with SRC = STREAM starts: each copy sends CREDIT with 64. -/
def runChainStream (x : Desc) (s : State) : State :=
  if (firstReport (chainResults s x)).isSome then failCopies x.ref (chainResults s x) s
  else if isFenced s (x.fld 60 0 2) then setOutcome x.ref stFenced (2 ^ x.fld 60 0 2) none s
  else
    (x.copies.filter (Copy.runs 0)).foldl (fun s c =>
      let k := recvKeyOf x c.target
      sendCredit k 64 false
        (setRaw k { rawOf s k with ends := 0, count := 0, nf := none, last := s.ft.ft, packed := 0, lit := false }
          (updDesc x.ref (updCopy c.target fun c => { c with stage := 1 }) s))) s

/-- R129: CHAIN with SRC = STREAM. -/
def execChainStream (d : Ref) (s : State) : Answer :=
  .next (atStage d .chain 0 (fun x s => if chainSrc x == 2 then runChainStream x s else s) s)

/-- R401: the key that a stream's name stands for. -/
def keyOf (k : StreamKey) : Nat := rawKey k.srcDie k.dstDie k.dstCore k.streamId

/-- R403: the CHAIN copy that takes a stream. -/
def receiverOf (s : State) (k : StreamKey) : Option Desc :=
  s.descs.find? fun d => d.op == some .chain && chainSrc d == 2 && d.outcome.isNone && d.fld 60 0 2 == k.srcDie
    && d.fld 60 2 7 == k.streamId
    && d.copies.any fun c => c.target == .core k.dstDie k.dstCore && c.st == .running && c.stage == 1

/-- The place of a target among a descriptor's copies. -/
def copyIndex (x : Desc) (t : Target) : Nat := (x.copies.findIdx? fun c => c.target == t).getD 0

/-- R129: the job of a copy that receives a stream, by the records that it read at its start. -/
def rowJob (x : Desc) (t : Target) (s : State) : Job := chainJob s x t (copyIndex x t)

/-- R129, R135: what a row of a stream comes to. An operand that the chain has written reads as it stands or as it stood before. -/
def rowOut (x : Desc) (t : Target) (k : Nat) (w : StreamRow) (draw : Nat) (s : State) : RowDone :=
  let j := rowJob x t s
  let v : View := { now := s, past := pastOf x false s, draw := draw + 1, serial := (rawOf s k).count }
  let o := receivedDone v (rqOf t) x j draw w (rawOf s k).count
  { o with writes := j.settle x (rqOf t) v o.writes }

/-- R90: of two non-finite values the one at the lower ordinal. -/
def lowerNf (a b : Option (Nat × Nat)) : Option (Nat × Nat) :=
  match a, b with
  | some x, some y => if y.1 < x.1 then some y else some x
  | some x, none => some x
  | none, y => y

/-- R129, R142: the strip that a received row goes through: a row joins the strip before it, by a free choice, where the chain packs rows
and that strip has place; VE_BUSY counts a strip once it has an active lane. The rows in the strip, whether it has one, and the slots
that are added. -/
def nextStrip (x : Desc) (j : Job) (y : RawStream) (draw place : Nat) (active : Bool) : Nat × Bool × Nat :=
  let joins := decide (0 < y.packed ∧ y.packed < j.packMost x) && Config.freeAt draw place % 2 == 0
  let lit := active || (joins && y.lit)
  (if joins then y.packed + 1 else 1, lit, if lit && !(joins && y.lit) then chainSlots j else 0)

/-- R129: a row received on a stream is processed and leaves the hold, and a credit goes back. -/
def takeRow (x : Desc) (t : Target) (k : Nat) (w : StreamRow) (s : State) : State :=
  let (c, s0) := drawFree s
  let y := rawOf s0 k
  let j := rowJob x t s0
  let reads := receivedReads x j w
  match badRead s0 (rqOf t) reads with
  | some (a, p) => memUncorrectable x.ref t a p 0 (symbolsAt s0.mem p) s0
  | none =>
    let o := rowOut x t k w c s0
    let s1 := putBy x.ref t o.writes s0
    let n := (receivedRow x j w).length
    let (packed, lit, busy) := nextStrip x j y c (7 * coreNumber t + 3) (decide (0 < n))
    let y1 := { rawOf s1 k with count := y.count + n, nf := o.writes.foldl (fun b w => lowerNf b w.nf) y.nf,
                                last := s1.ft.ft, packed := packed, lit := lit }
    let used := !reads.isEmpty || !o.writes.isEmpty
    sendCredit k 1 false
      (useTokens dAeTxn 512 c (if used then [coreNumber t] else [])
        (countBytes c t (!reads.isEmpty) 0 o.writes
          (countVector t c busy false true (some (64 * packed)) (setRaw k y1 s1))))

/-- R401: a ROW word reaches its core; with no CHAIN that takes the stream it stays under way. -/
def execStreamRow (k : StreamKey) (s : State) : Answer :=
  .next <|
    let y := rawOf s (keyOf k)
    match y.fwd, receiverOf s k with
    | .row _ w :: rest, some x => takeRow x (.core k.dstDie k.dstCore) (keyOf k) w (setRaw (keyOf k) { y with fwd := rest } s)
    | _, _ => s

/-- R129, R194: the border that the first copy of a received stream writes at its end. -/
def endWrites (x : Desc) (t : Target) (k : Nat) (s : State) : List EWrite :=
  (rowJob x t s).closing x (copyIndex x t) (rawOf s k).count

/-- R129, R194: what a copy with SRC = STREAM reports when its last END has come, with the borders that copy 0 writes. -/
def endStream (x : Desc) (t : Target) (k : Nat) (s : State) : State :=
  let (c, s0) := drawFree s
  let ws := endWrites x t k s0
  let nf := match (rawOf s0 k).nf with | some (o, kd) => some (nfAt o kd) | none => firstNf ws
  sendCredit k 0 true (finishCopy x.ref t (ranReport 0 nf)
    (useTokens dAeTxn 512 c (if ws.isEmpty then [] else [coreNumber t]) (countBytes c t false 0 ws (putBy x.ref t ws s0))))

/-- R142: a copy has waited for a marker, or until its time limit. -/
def countStreamWait (t : Target) (s : State) : State :=
  let (c, s0) := drawFree s
  countVector t c 0 false true none s0

/-- R402: an END word reaches its core; the last of SENDERS ends the copy, which sends CLOSE. -/
def execStreamEnd (k : StreamKey) (s : State) : Answer :=
  .next <|
    let y := rawOf s (keyOf k)
    match y.fwd, receiverOf s k with
    | .fin _ :: rest, some x =>
      let n := y.ends + 1
      let s1 := countStreamWait (.core k.dstDie k.dstCore)
        (sendCredit (keyOf k) 1 false (setRaw (keyOf k) { y with fwd := rest, ends := n, last := s.ft.ft } s))
      if x.fld 60 9 7 ≤ n then endStream x (.core k.dstDie k.dstCore) (keyOf k) s1 else s1
    | _, _ => s

/-- R142: the copies of a CHAIN that wait for a stream have waited. -/
def countStreamWaits (x : Desc) (s : State) : State :=
  (x.copies.filter (Copy.runs 1)).foldl (fun s c => countStreamWait c.target s) s

/-- R129, R404: a FENCED word reaches a CHAIN that streams from a fenced die. -/
def execStreamFenced (k : StreamKey) (s : State) : Answer :=
  .next <|
    let y := rawOf s (keyOf k)
    match y.fwd, receiverOf s k with
    | .fenced :: rest, some x =>
      setOutcome x.ref stFenced (2 ^ k.srcDie) none (countStreamWaits x (setRaw (keyOf k) { y with fwd := rest } s))
    | _, _ => s

/-- R402: a CREDIT word reaches the sending die: credits are added, or CLOSE sets the count to 0. -/
def execStreamCredit (k : StreamKey) (s : State) : Answer :=
  .next <|
    let y := rawOf s (keyOf k)
    match y.back with
    | [] => s
    | (n, close) :: rest =>
      pumpAll (keyOf k) (setRaw (keyOf k) { y with back := rest, credits := if close then 0 else y.credits + n } s)

/-- R129: copies that have received no row and no marker for 10 ms of Field Time complete with TIMEOUT; where their SRC_DIE is fenced a
FENCED word is on its way to them. -/
def execStreamWaitTimeout (d : Ref) (s : State) : Answer :=
  .next <|
    match findDesc s d with
    | none => s
    | some x =>
      if x.op != some .chain || chainSrc x != 2 || x.outcome.isSome || isFenced s (x.fld 60 0 2) then s
      else x.copies.foldl (fun s c =>
        let k := recvKeyOf x c.target
        if c.st == .running && c.stage == 1 && decide (10000000 ≤ (s.ft.ft - (rawOf s k).last).toNat) then
          sendCredit k 0 true (finishCopy d c.target { Report.of stTimeout 0 with nf := (rawOf s k).nf.map fun (o, kd) => nfAt o kd }
            (countStreamWait c.target s))
        else s) s

/-- R141, R103: the rows that a stopped chain would have taken: those delivered, and those that its matrix copies had still to deliver. -/
def dueDrains (x : Desc) (s : State) : List Drain :=
  s.streams.drains.filter (fun e => e.chain == x.ref) ++
    (match x.pair.bind (findDesc s) with
    | some d => undelivered (d.op.getD .mma) d s
    | none => [])

/-- R402, R141: what stopped copies of a CHAIN leave: part of their writes, and CLOSE on their streams. With SRC = DRAIN the rows still due
are among what may be written (log 32). -/
def stopChain (x : Desc) (s : State) : State :=
  match chainSrc x with
  | 1 => stopOp (pairedPlan (dueDrains x s) x.ref) x (drawFree s).2
  | 2 => x.copies.foldl (fun s c => if stoppedAt x 1 c.target then sendCredit (recvKeyOf x c.target) 0 true s else s) s
  | _ => stopOp chainPlan x s

/-- R103, R141: the copies of a CHAIN that is paired with a matrix descriptor leave what they leave when the first of the two ends. -/
def stopPartner (x : Desc) (s : State) : State :=
  match if finalOf x = 2 then x.pair.bind (findDesc s) else none with
  | some y =>
    updDesc y.ref (fun d => { d with copies := d.copies.map fun c => if c.st == .stopped then { c with st := .done } else c }) (stopChain y s)
  | none => s

/-- R114, R141: what a matrix descriptor leaves that ends early, with what its paired CHAIN leaves. -/
def stopMatrix (o : Op) (x : Desc) (s : State) : State :=
  match x.pair with
  | some p => dropDrains p (fun _ => true) (stopMma o x (stopPartner x s))
  | none => stopMma o x s

end Sys2Proof.Machine
end

