-- ==== Sys2Proof/Machine/Dies.lean ====
section
/-! DEFINITION. Duest links (R396 to R400), the sideband (R405), the loss and the fence of a compute die (R406 to R408, R362,
R404), and its return (R409, R364). -/

namespace Sys2Proof.Machine

/-! ### Links -/

def setDuest (d : Duest) (s : State) : State := { s with duest := d }
def duestLink (s : State) (l : Nat) : DuestLink := s.duest.links.get .reset l
def setDuestLink (l : Nat) (x : DuestLink) (s : State) : State :=
  setDuest { s.duest with links := s.duest.links.put .reset l x } s
def dieLoss (s : State) (n : Nat) : DieLoss := s.duest.dies.get .reset n
def setDieLoss (n : Nat) (x : DieLoss) (s : State) : State :=
  setDuest { s.duest with dies := s.duest.dies.put .reset n x } s

/-- R396: the compute dies at the ends of a link. -/
def linkEnds (l : Nat) : List Nat :=
  match l with
  | 0 => [0, 1]
  | 1 => [0, 2]
  | 2 => [0, 3]
  | 3 => [1, 2]
  | 4 => [1, 3]
  | 5 => [2, 3]
  | _ => [l - 6]

/-- R396: the variant has the link. -/
def linkPresent (s : State) (l : Nat) : Bool := decide (l < 10) && (linkEnds l).all fun n => decide (n < dieCount s)

/-- R400: the protocol version that a link runs. -/
def linkVersion (s : State) (l : Nat) : Nat := if l < 6 then 2 else if s.hw.iodGen.toNat = 1 then 1 else 2

/-- R4, R398: the groups that a sender's retry buffer holds. -/
def retryDepth (s : State) (l : Nat) : Nat := if linkVersion s l = 1 then 32 else 64

/-- R400: a link has been trained. -/
def linkUp (l : Nat) (s : State) : State :=
  let x := duestLink s l
  setDuestLink l { x with state := 2, version := linkVersion s l, expect := 0, nak := none, oldest := 0, kept := 0, times := [],
                          ackAt := s.clk } s

/-- R409, R432: a link is in a state other than UP; its counters and PERMANENT stay (R410). -/
def linkIn (l state : Nat) (s : State) : State :=
  let x := duestLink s l
  setDuestLink l { x with state := state, version := if state = 0 then 0 else x.version } s

/-- R396: the links of some dies that the variant has. -/
def linksOf (s : State) (dies : Nat) : List Nat :=
  (List.range 10).filter fun l => linkPresent s l && (linkEnds l).any (bitOf dies)


/-! ### The fence of a die -/

/-- R407, R409: the compute dies that are in service. -/
def dieRuns (s : State) (n : Nat) : Bool :=
  !isFenced s n &&
    (match s.ms.mode with
     | .kindling => n == 0
     | .full | .fenced | .banked => decide (n < dieCount s)
     | _ => false)

/-- R362: the receive queues whose slots lie in a die's stacks or shelf. -/
def queuesOn (s : State) (n : Nat) : List Nat :=
  (List.range 64).filter fun q => (sqRx s q).en && dieOfAddr s .iod (sqRx s q).base.toNat == some n

/-- R362: the flags and latches that participants on a die hold on a line. -/
def flagsOn (s : State) (n l : Nat) : Nat :=
  let x := lineOf s l
  ((x.arrived ++ x.latched).filter fun k => decide (k.1 < 384) && k.1 / 96 == n).length

/-- The pool blocks that the packets of a message take. -/
def messageBlocks (data : List Byte) : Nat := ((pieces 4096 data).map fun b => ceilDiv (40 + ceilDiv b.length 8 * 8) 256).sum

/-- R362, R385: the compute die that an EMBER message goes to: that of its page's bank, or CD0 for the schedule record. -/
def emberDie (s : State) (arg0 : Nat) (epoch : Nat) : Option Nat :=
  if arg0 = 0xFFFFFFFF then some 0
  else
    let a := s.ember.tableAddr.toNat
    match (if tableBad s a then [] else emberTable s a)[arg0 % 256]? with
    | some x => some ((if epoch % 2 = 1 then x.bank1 else x.bank0).toNat / dieSpan)
    | none => none

/-- R362: the blocks, by receive channel, of packets received of messages that go into a die's memory: of messages that have arrived in
part, of entries that wait for LOG_ACK (R386), and of entries, remote writes and collective pieces that are yet to be written. -/
def blocksFor (s : State) (n : Nat) : List (Nat × Nat) :=
  let parts := s.link.streams.filterMap fun k =>
    let st := k.1 % 2 ^ 16
    let into := if st < 64 then (queuesOn s n).contains st
                else if st = 0x200 then emberDie s k.2.arg0.toNat k.2.arg1.toNat == some n
                else st == 0x300 && dieOfAddr s .iod (k.2.arg1.toNat % 2 ^ 44) == some n
    if into && decide (0 < k.2.data.length) then some (k.2.chan, messageBlocks k.2.data) else none
  let chanFrom (pos st : Nat) : Option Nat :=
    (s.link.streams.find? fun k => k.1 % 2 ^ 16 == st && k.1 / 2 ^ 17 == pos).map (·.2.chan)
  let entry (e : EntryIn) : Option (Nat × Nat) :=
    if (queuesOn s n).contains e.queue then (chanFrom e.srcPos.toNat e.queue).map fun c => (c, messageBlocks e.payload) else none
  let waiting := s.yoke.pendingAccept.filterMap fun a => match a.2 with | .entry e => entry e | _ => none
  let unwritten := s.sync.unwritten.filterMap fun u => entry u.2
  let writes := s.coll.unwritten.filterMap fun p =>
    if p.type = 10 ∧ dieOfAddr s .iod (p.arg1.toNat % 2 ^ 44) = some n then
      (chanFrom p.srcPos.toNat 0x300).map fun c => (c, messageBlocks p.payload)
    else none
  let early := if (heldTargets s).any fun a => dieOfAddr s .iod a == some n then
      (heldPieces s).map fun c => (chanOf c.port c.vc, messageBlocks c.data)
    else []
  parts ++ waiting ++ unwritten ++ writes ++ early

/-- R362: the blocks of one channel move to RECLAIMED. -/
def reclaimBlocks (n : Nat) (cb : Nat × Nat) (s : State) : State :=
  let x := poolCh s cb.1
  let k := min cb.2 x.held
  let toShared := max (x.held + x.adv) x.effReserve - max (x.held + x.adv - k) x.effReserve
  let s1 := setPoolCh cb.1 { x with held := x.held - k } s
  let s2 := { s1 with link := { s1.link with pool := { s1.link.pool with lost := s1.link.pool.lost.upd 0 n (· + toShared) } } }
  updLgDom dBlock (LgDom.reclaimPart n cb.1 k) s2

/-- R362: a fenced die's tokens move to RECLAIMED. -/
def reclaimDie (n : Nat) (s : State) : State :=
  let s1 := updLgDom dAeTxn (LgDom.reclaim n ((List.range 96).map (96 * n + ·)) false true) s
  let s2 := updLgDom dHeTxn (LgDom.reclaim n ((List.range 3).map (3 * n + ·)) false true) s1
  let s3 := updLgDom dCredit (LgDom.reclaim n (queuesOn s n) true true) s2
  let s4 := (blocksFor s n).foldl (fun s c => reclaimBlocks n c s) s3
  let s5 := (List.range 32).foldl (fun s l => updLgDom dBarrier (LgDom.reclaimPart n l (flagsOn s n l)) s) s4
  updLgDom dEmberPage (LgDom.reclaim n [n] false false) s5

/-- R402: the streams to and from a die, whose counts are reset and whose rows are discarded. -/
def dropStreams (n : Nat) (s : State) : State :=
  let touches (k : Nat) : Bool := k / 2 ^ 16 == n || k / 2 ^ 14 % 4 == n
  { s with streams := { s.streams with raw := s.streams.raw.filter fun k => !touches k.1 } }

/-- R404: the streams from a fenced die that CHAIN copies of surviving dies take. -/
def survivingStreams (s : State) (n : Nat) : List Nat :=
  s.descs.flatMap fun d =>
    if d.op == some .chain && chainSrc d == 2 && d.outcome.isNone && d.fld 60 0 2 == n then
      (d.copies.filter (Copy.runs 1)).map fun c => recvKeyOf d c.target
    else []

/-- R402, R404: at a fence the streams to and from the die are reset; each surviving CHAIN that takes one is given a FENCED word, and what its
copy has done so far stays. -/
def fenceStreams (n : Nat) (s : State) : State :=
  (survivingStreams s n).foldl (fun z k =>
    sendOn k .fenced (setRaw k { rawOf s k with credits := 0, holder := none, senders := [], fwd := [], back := [] } z)) (dropStreams n s)

/-- R407 step 3 in Kindling: every descriptor that depends on a fenced die completes with FENCED. -/
def fenceKindling (s : State) : State :=
  s.descs.foldl (fun s d =>
    let m := fencedDeps s d
    if d.finished || m = 0 then s else setOutcome d.ref stFenced m none s) s

/-- R407 step 3: the module state after a fence. -/
def fenceState (cause : Nat) (s : State) : State :=
  let fault (s : State) : State := if s.yoke.en then sendFault cause s else s
  match s.ms.mode with
  | .full => jobFault cause s
  | .banked => jobFault cause (fault s)
  | .fenced =>
    let s1 := match s.ms.trans with
      | .dieReturn _ _ => { s with ms := { s.ms with trans := .none, cause := cause } }
      | _ => joinFault cause s
    fenceDescs (fault s1)
  | .kindling => fenceKindling (fault s)
  | _ => s

/-- R407, R408: compute dies are fenced with one stamp. `why` gives IOD_DIE_LOSS.CAUSE and LINK of each. -/
def fenceDies (ns : List Nat) (cause : Nat) (why : Nat → Nat × Nat) (s : State) : State :=
  let ns := ns.filter fun n => decide (n < dieCount s) && !isFenced s n
  if ns.isEmpty then s else
    let bits := (ns.map fun n => 2 ^ n).sum
    let s1 := { s with ms := { s.ms with dieFenced := s.ms.dieFenced ||| BitVec.ofNat 4 bits },
                       ft := { s.ft with still := ns.foldl (fun t n => t.put 0 n (dieTime s n)) s.ft.still } }
    let note (s : State) (n : Nat) : State :=
      setDieLoss n { dieLoss s n with cause := (why n).1, link := (why n).2, tick := s.ft.ft } s
    let s2 := ns.foldl note s1
    let s3 := ns.foldl (fun s n => reclaimDie n s) s2
    let halt (s : State) (n : Nat) : State := setPwrDie n { pwrDie s n with walking := false, goal := (pwrDie s n).mhz } s
    let s4 := settleOpSets (retarget (clearShares (ns.foldl halt (fenceLines (fenceState cause s3)))))
    ns.foldl (fun s n => fenceStreams n s) s4

/-- R408: a die was fenced with the stamp of this tick. -/
def justFenced (s : State) (n : Nat) : Bool := isFenced s n && (dieLoss s n).cause != 0 && (dieLoss s n).tick == s.ft.ft

/-- R398, R399, R407, R408: the links that carry groups now: none to or from a die that was fenced before this tick. -/
def linkRuns (s : State) (l : Nat) : Bool :=
  linkPresent s l && (duestLink s l).state == 2 && (linkEnds l).all fun n => !isFenced s n || justFenced s n

/-- R399: the die that a permanent fault of a link fences. -/
def faultDie (s : State) (l : Nat) : Option Nat :=
  if 6 ≤ l then some (l - 6)
  else if (linkEnds l).any (isFenced s) then none
  else (linkEnds l).getLast?

/-- R399, R408: a link has a permanent fault; where a die at its end was lost on this tick, that loss is the link's. -/
def permanentFault (l : Nat) (s : State) : State :=
  let s1 := setDuestLink l { duestLink s l with permanent := true } s
  match (linkEnds l).filter (justFenced s1) with
  | n :: _ =>
    if (dieLoss s1 n).cause = 3 then s1
    else joinFault causeDuestPermanent (setDieLoss n { dieLoss s1 n with cause := 3, link := l } s1)
  | [] =>
    match faultDie s1 l with
    | some n => fenceDies [n] causeDuestPermanent (fun _ => (3, l)) s1
    | none => s1

/-! ### Retry -/

/-- R397: the control field of a Duest flit. -/
def duestControl (gseq index : Nat) (replay ack nak : Bool) : Nat :=
  gseq % 256 + at' (index % 8) 8 + at' (bit replay) 11 + at' (bit ack) 12 + at' (bit nak) 13

/-- R397: a Duest flit: 256 data bytes, the control field and the CRC-32C of both. -/
def duestFlit (data : List Byte) (control : Nat) : List Byte :=
  let b := padTo 256 data ++ leBytes 2 control
  b ++ leBytes 4 (crc32c b).toNat

/-- R397: a flit group: eight flits, INDEX 0 to 7. -/
def duestGroup (g : Byte) (replay : Bool) (data : Nat → List Byte) : List (List Byte) :=
  (List.range 8).map fun i => duestFlit (data i) (duestControl g.toNat i replay false false)

/-- R397, R398: a NAK or an acknowledgement goes out in a flit of the other direction, with its GSEQ in byte 0; the group that carries it and
its traffic are free (log 41). -/
def duestReply (l : Nat) (nak : Bool) (g : Byte) (s : State) : State :=
  let free (i : Nat) : Nat := Config.freeAt s.freeCtr i
  let data := g :: (List.range 255).map fun i => BitVec.ofNat 8 (free i)
  let control := duestControl (free 255) (free 256) (free 257 % 2 == 1) (!nak) nak
  emit (.duestFlit l (duestFlit data control)) { s with freeCtr := s.freeCtr + 1 }

/-- The groups from one GSEQ to another. -/
def groupsTo (a b : Byte) : Nat := (b - a).toNat

/-- R398: what has gone over a link since its last command is open within its limits (log 41): accepted groups have been acknowledged, and
new groups sent while the retry buffer had room; it keeps at least some number of groups. -/
def linkTraffic (l : Nat) (acks : Bool) (least : Nat) (s : State) : State :=
  let x := duestLink s l
  let (i, s1) := choose (if acks then min (groupsTo x.oldest x.expect) x.kept + 1 else 1) s
  let (j, s2) := choose (retryDepth s l - (x.kept - i) + 1) s1
  setDuestLink l { x with oldest := x.oldest + BitVec.ofNat 8 i, kept := max (x.kept - i + j) (min least (retryDepth s l) - i),
                          ackAt := if i = 0 then x.ackAt else s.clk,
                          times := x.times.filter fun t => decide (i ≤ groupsTo x.oldest (BitVec.ofNat 8 t.1)) } s2

/-- R398, R399: the group that the receiving end awaits has failed: after its sixteenth replay the fault is permanent. -/
def groupFails (l : Nat) (s : State) : State :=
  let x := duestLink s l
  if 16 ≤ x.times.get 0 x.expect.toNat then permanentFault l s
  else duestReply l true x.expect (setDuestLink l { x with nak := some x.expect } s)

/-- R398: a group is accepted; what is accepted is acknowledged at least once every 20 ns. -/
def acceptGroup (l : Nat) (s : State) : State :=
  let x := duestLink s l
  let y := { x with expect := x.expect + 1, nak := none, times := x.times.put 0 x.expect.toNat 0 }
  if x.ackSent + 20 ≤ s.clk then duestReply l false x.expect (setDuestLink l { y with ackSent := s.clk } s) else setDuestLink l y s

/-- R398: a flit group arrives, which its sender keeps: it is accepted, or a NAK names the oldest group not accepted. How many of a bad
group's eight flits failed their CRC is open (log 11). -/
def execDuestGroupReceive (link : Nat) (gseq : Byte) (replay crcOk : Bool) (s : State) : Answer :=
  .next <|
    if !linkRuns s link then s else
      let s := linkTraffic link true (groupsTo (duestLink s link).oldest gseq + 1) s
      let x := duestLink s link
      let waits := match x.nak with | some g => !(replay && gseq == g) | none => false
      if !crcOk then
        let (k, s1) := choose 8 s
        let s2 := setDuestLink link { x with crc := x.crc.add (k + 1) } s1
        if waits then s2 else groupFails link s2
      else if waits then s
      else if gseq == x.expect then acceptGroup link s
      else groupFails link s

/-- R398, R399: the sender resends every group that it keeps from one on, in order; one that has been replayed 16 times and fails again is a
permanent fault. -/
def replayGroups (l : Nat) (g : Byte) (s : State) : State :=
  let x := duestLink s l
  if 16 ≤ x.times.get 0 g.toNat then permanentFault l s
  else
    let gs := (List.range (x.kept - groupsTo x.oldest g)).map fun i => g + BitVec.ofNat 8 i
    let s1 := setDuestLink l { x with replay := x.replay.add gs.length, times := gs.foldl (fun t k => t.upd 0 k.toNat (· + 1)) x.times } s
    gs.foldl (fun s k =>
      let free (i j : Nat) : Byte := BitVec.ofNat 8 (Config.freeAt s.freeCtr (256 * i + j))
      emit (.duestGroup l (duestGroup k true fun i => (List.range 256).map (free i))) { s with freeCtr := s.freeCtr + 1 }) s1

/-- R398: a NAK reaches the sender, which keeps the group that it names. -/
def execDuestNakReceive (link : Nat) (gseq : Byte) (s : State) : Answer :=
  .next <|
    if linkRuns s link then
      replayGroups link gseq (linkTraffic link true (groupsTo (duestLink s link).oldest gseq + 1) s)
    else s

/-- R398: acknowledgements have not advanced for 200 ns while groups are kept. -/
def execDuestReplayTimeout (link : Nat) (s : State) : Answer :=
  .next <|
    if linkRuns s link && decide ((duestLink s link).ackAt + 200 ≤ s.clk) then
      let s1 := linkTraffic link false 1 s
      replayGroups link (duestLink s1 link).oldest s1
    else s

/-! ### Sideband and loss -/

/-- R405: the sideband word to every die: the generation bits, the heartbeat, and check bits of a code that the spec does not give (log 41). -/
def downWord (s : State) : BitVec 42 :=
  let w := BitVec.ofNat 34 ((genBits s 0xFFFFFFFF).toNat + at' (s.clk / 1000 % 2) 32)
  BitVec.ofNat 42 (w.toNat + at' (Config.sidebandCheck w).toNat 34)

/-- R405: a sideband word arrives from a die; one with a detected error is ignored, but for how long the check has failed (R399). A word goes
the other way in the same period. -/
def execSidebandWord (die : Nat) (arrived : Word) (hb clkOk valid : Bool) (s : State) : Answer :=
  .next <|
    let x := dieLoss s die
    if !dieRuns s die then s else
      emit (.sideband die (downWord s)) <|
        if !valid then setDieLoss die { x with badSince := some (x.badSince.getD s.clk) } s
        else
          setDieLoss die { x with arrived := arrived, hb := hb, clkOk := clkOk, badSince := none,
                                  toggled := if hb == x.hb then x.toggled else s.clk } s

/-- R399: the sideband check of a die has failed continuously for 1 µs. -/
def sidebandFails (s : State) (n : Nat) : Bool := (dieLoss s n).badSince.any fun t => decide (t + 1000 ≤ s.clk)

/-- R399: the sideband check of a DL-CI has failed continuously for 1 µs. -/
def execSidebandFault (link : Nat) (s : State) : Answer :=
  .next <|
    let n := link - 6
    if 6 ≤ link ∧ linkPresent s link ∧ (dieRuns s n || justFenced s n) ∧ sidebandFails s n then permanentFault link s else s

/-- R406: a die's heartbeat has been missing for the timeout. -/
def heartbeatGone (s : State) (n : Nat) : Bool :=
  dieRuns s n && decide ((dieLoss s n).toggled + 1000 * s.duest.timeoutUs ≤ s.clk)

/-- R406, R408: dies are declared lost on one tick; `noClock` names those whose forwarded clock has shown no edge for 1 µs. -/
def execDieLost (dies : BitVec 4) (noClock : BitVec 4) (s : State) : Answer :=
  .next <|
    let ns := (List.range 4).filter fun n => bitOf dies.toNat n && heartbeatGone s n
    let why (n : Nat) : Nat × Nat := (if bitOf noClock.toNat n || !(dieLoss s n).clkOk then 1 else 2, 15)
    fenceDies ns causeDieLoss why s

/-! ### The return of a die -/

/-- R364: the tokens of a queue that lies on a returning die: those of its kept entries are held again and those of its sender's
credits are lent again. -/
def retakeQueue (q : Nat) (s : State) : State :=
  let x := sqRx s q
  let n := x.depth.toNat
  let k := x.entries.length
  let (ok, s1) := ledgerTake dCredit q n s
  if ok then (ledgerMove dCredit q (n - k) .held .lent none s1).2 else s1

/-- R364: the token of an ember copy that a returning die still holds is held again. -/
def retakePages (n : Nat) (s : State) : State :=
  let k := (s.ember.pages.filter fun c =>
    match poolOf c.2, homePage s.ember.table c.1 with
    | some (_, .held), some (m, _) => m == n
    | _, _ => false).length
  if s.ember.streaming && decide (0 < k) then (ledgerTake dEmberPage n k s).2 else s

/-- R172, R364: a queue on the returning die's shelf has lost its entries. -/
def flushShelf (q : Nat) (s : State) : State :=
  match access s .iod (sqRx s q).base.toNat with
  | some (.shelf _ _) => flushQueue q s
  | _ => s

/-- The flags and latches of participants on a die are gone after its reset. -/
def clearFlags (n l : Nat) (s : State) : State :=
  let x := lineOf s l
  let other (k : Nat × Bool) : Bool := !(decide (k.1 < 384) && k.1 / 96 == n)
  setLine l { x with arrived := x.arrived.filter other, latched := x.latched.filter other } s

/-- R107, R439: at a reset of a die the row repairs fused since its last one take effect. -/
def applyFuses (n : Nat) (s : State) : State :=
  let mine := s.hw.pendingRow.filter fun (k : Nat × Nat) => k.1 / 96 == n
  { s with hw := { s.hw with badRow := mine.foldl (fun (t : Tab Nat) k => t.put 64 k.1 (k.2 - 1)) s.hw.badRow,
                             pendingRow := s.hw.pendingRow.filter fun (k : Nat × Nat) => k.1 / 96 != n } }

/-- R172, R402, R439: what a reset of a die does to its SRAM, its streams and its matrix arrays. -/
def resetDie (n : Nat) (s : State) : State := applyFuses n (dropStreams n { s with mem := clearSram n s.mem })

/-- R409 steps 1 to 4, R364: a fenced die has been reset and retrained and returns. -/
def returnDie (n : Nat) (s : State) : State :=
  let qs := queuesOn s n
  let s1 := resetDie n s
  let s2 := (List.range 32).foldl (fun s l => clearFlags n l s) s1
  let s3 := [dAeTxn, dHeTxn, dCredit, dBlock, dBarrier, dEmberPage].foldl (fun s d => updLgDom d (LgDom.giveBack n) s) s2
  let s4 := setShared (s3.link.pool.shared + s3.link.pool.lost.get 0 n)
    { s3 with link := { s3.link with pool := { s3.link.pool with lost := s3.link.pool.lost.put 0 n 0 } } }
  let s5 := retakePages n (qs.foldl (fun s q => retakeQueue q s) s4)
  let s6 := { s5 with ms := { s5.ms with dieFenced := s5.ms.dieFenced &&& ~~~(BitVec.ofNat 4 (2 ^ n)) },
                      ft := { s5.ft with still := s5.ft.still.put 0 n 0 } }
  let s7 := setDieLoss n { dieLoss s6 n with toggled := s6.clk, clkOk := true, badSince := none } s6
  let ls := (List.range 10).filter fun l => linkPresent s7 l && (linkEnds l).contains n && (linkEnds l).all (dieRuns s7)
  let s8 := ls.foldl (fun s l => linkUp l s) s7
  serveUnwritten (qs.foldl (fun s q => sendQstate q (judgeUnwritten q (flushShelf q s))) s8)

/-- R409: in Kindling CD0 resets, and a fenced one returns unless it fails to. -/
def resetCd0 (returns : Bool) (s : State) : State :=
  let s1 := resetDie 0 s
  if isFenced s 0 then (if returns then returnDie 0 s1 else s1)
  else setDieLoss 0 { dieLoss s1 0 with toggled := s1.clk, clkOk := true, badSince := none } s1

/-- R409: a write of IOD_DIE_CTRL: only bit 0 acts, in Kindling. -/
def writeDieCtrl (v : Word) (returns : Bool) (s : State) : State :=
  if s.ms.mode = .kindling ∧ v.getLsbD 0 ∧ s.ms.trans = .none then resetCd0 returns s else s

/-- R409: a write of IOD_DIE_CTRL; `returns` says whether a fenced CD0 comes back within 20 ms. -/
def execDieCtrlReset (value : Word) (returns : Bool) (s : State) : Answer :=
  .next (bar0Write 0x60408 value.toNat (writeDieCtrl value returns) s)

/-- R410: a write of IOD_DUEST_CFG. -/
def writeDuestCfg (v : Word) (s : State) : State :=
  setDuest { s.duest with timeoutUs := min 40 (max 5 (bitsOf v.toNat 0 6)) } s

end Sys2Proof.Machine
end

