-- ==== Sys2Proof/Machine/Trust.lean ====
section
/-! DEFINITION. Measurements (R442 to R445, R461), the setup lock (R464), mailboxes (R454 to R460) and their services but
self-test, the management controller's restart (R458) and the watchdog (R492). -/

namespace Sys2Proof.Machine

def setTrust (t : Trust) (s : State) : State := { s with trust := t }

/-! ### Registers that a service reports -/

/-- R25: IOD_STATE. -/
def iodState (s : State) : Nat :=
  s.ms.mode.code + at' s.ms.prev.code 4 + at' s.ms.cause 8 + at' (bit (isBusy s)) 13 + at' (bit s.ms.reqReject) 14
    + at' (bit (s.ms.dieFenced != 0)) 15 + at' s.ms.dieFenced.toNat 16

/-- R491: IOD_CAP. -/
def iodCap (s : State) : Nat :=
  s.hw.iodGen.toNat + at' (bit !(isM4 s)) 2 + at' (if isM4 s then 0xF else 0x3) 4 + at' (mailboxCount s - 1) 8
    + at' (stackCount s) 12

/-- R465: SEC_FW_STATUS. -/
def fwStatus (s : State) : Nat :=
  bit Config.stageSigOk + at' (bit s.trust.s2Loaded) 1 + at' (bit s.trust.s2SigOk) 2 + at' Config.stageSvn.toNat 8
    + at' s.trust.s2Svn.toNat 16

/-- R465: SEC_FW_VERSION. -/
def fwVersion (s : State) : Nat := Config.stageVersion.toNat + at' s.trust.s2Version.toNat 32

/-! ### Measurements -/

def measOf (s : State) (i : Nat) : List Byte := s.trust.meas.get zeroDigest i

/-- R444, R461: an extend, with its entry in the measurement log. -/
def extendMeas (i : Nat) (d : List Byte) (s : State) : State :=
  let t := s.trust
  let c := hold 255 (t.counts.get 0 i + 1)
  let es := t.log ++ [{ number := t.extendCount, reg := i, count := c, digest := d }]
  setTrust { t with meas := t.meas.put zeroDigest i (sha384 (t.meas.get zeroDigest i ++ d)), counts := t.counts.put 0 i c,
                    log := es.drop (es.length - 64), extendCount := t.extendCount + 1 } s

/-- R442, R444: the boot chain at entry to Standby from Off. -/
def bootMeasure (s : State) : State :=
  [0, 1, 2].foldl (fun s i => extendMeas i (sha384 (Config.bootBytes i)) s) s

/-- R445: what entry to Standby from any state but Off resets. -/
def restartMeasure (s : State) : State :=
  let t := s.trust
  setTrust { t with meas := t.meas.filter (fun (k : Nat × List Byte) => decide (k.1 < 3)),
                    counts := t.counts.filter (fun (k : Nat × Nat) => decide (k.1 < 3)),
                    log := t.log.filter fun e => decide (e.reg < 3),
                    s2Loaded := false, s2SigOk := false, s2Svn := 0, s2Version := 0 } s

/-- R444: the values that SEC_MEAS5 takes in at entry to Kindling from Standby. -/
def hwValues (s : State) : List Nat :=
  [s.pins.straps.toNat] ++ ((List.range (dieCount s)).map fun n => (s.hw.coreMap.get Hw.coreMapReset n).toNat)
    ++ ((List.range (96 * dieCount s)).flatMap fun c => [s.hw.badRow.get 64 c, s.hw.pendingRow.get 0 c])
    ++ ((List.range (dieCount s)).map fun n => s.hw.fuseUsed.get 0 n) ++ [bit !(isM4 s), s.hw.iodGen.toNat]

/-- R464: the lock is set, and SEC_MEAS5 takes in the one register that holds an RWL field, SEC_MB_CFG. -/
def writeLock (v : Word) (s : State) : State :=
  if v.getLsbD 0 && !s.trust.lock then
    extendMeas 5 (sha384 (leBytes 4 s.trust.mask.toNat)) (setTrust { s.trust with lock := true } s)
  else s

/-- R464: a write of SEC_SETUP_LOCK. -/
def execSecSetupLockWrite (value : Word) (s : State) : Answer :=
  .next (bar0Write 0x160000 value.toNat (writeLock value) s)

/-- R10, R465: a write of SEC_MB_CFG. -/
def writeMbCfg (v : Word) (s : State) : State :=
  if s.trust.lock then s else setTrust { s.trust with mask := v.setWidth 16 } s

/-! ### Mailboxes -/

def mailbox (s : State) (m : Nat) : Mailbox := s.trust.mbs.get .reset m
def setMailbox (m : Nat) (x : Mailbox) (s : State) : State :=
  setTrust { s.trust with mbs := s.trust.mbs.put .reset m x } s

/-- R456: the values of RESULT. -/
def mrDone : Nat := 0
def mrBusy : Nat := 1
def mrCollision : Nat := 2
def mrAborted : Nat := 3
def mrNoService : Nat := 4
def mrDenied : Nat := 5
def mrBadSize : Nat := 6

/-- R455: a reply. -/
def mbReply (result status : Nat) (tag : BitVec 16) (detail : Nat) (data : List Byte) : List Byte :=
  leBytes 1 result ++ leBytes 1 status ++ leBytes 2 tag.toNat ++ leBytes 4 detail ++ data

/-- R20, R453, R458: the states and times in which MCTP answers. -/
def mctpAnswers (s : State) : Bool := s.ms.mode != .off && s.pins.standbyReady && !s.trust.restarting

/-- R481: the in-band interrupt with which the I3C target announces an MCTP message once it has a dynamic address; the value of its
mandatory data byte is the MCTP binding's (log 46). -/
def announced (s : State) : List Output :=
  match s.trust.i3cAddr with
  | some a => [.inBandInterrupt a 0xAE]
  | none => []

/-- R453, R481: an MCTP message is sent on I3C. -/
def sendMctp (o : Output) (s : State) : State := { s with out := s.out ++ announced s ++ [o] }

/-- R463: a mailbox's vector. -/
def mbVector (m : Nat) (s : State) : State := raiseVector (80 + m) s

/-- R457: the request that a post stores. -/
def posted (mctp : Bool) (tag : BitVec 16) (len : Nat) (bytes : List Byte) (x : Mailbox) : Mailbox :=
  { x with state := .posted, mctp := mctp, tag := tag, len := len, slot := bytes.take (min len 256), discard := false }

/-- R457: what an overwrite does to the request or the unread reply that it replaces. -/
def overwritten (m : Nat) (x : Mailbox) (s : State) : State :=
  if x.state = .posted ∧ x.mctp then sendMctp (.mailboxReply m x.tag (mbReply mrCollision stCollision x.tag 0 [])) s else s

/-- R457: a post from either sender. -/
def postMailbox (m : Nat) (mctp : Bool) (tag : BitVec 16) (len : Nat) (bytes : List Byte) (s : State) : State :=
  let x := mailbox s m
  match x.state with
  | .empty => setMailbox m (posted mctp tag len bytes x) s
  | .posted =>
    let y := posted mctp tag len bytes { x with collision := true, collide := x.collide.add 1 }
    mbVector m (overwritten m x (setMailbox m y s))
  | .serving =>
    if mctp then sendMctp (.mailboxReply m tag (mbReply mrBusy 0 tag 0 [])) s
    else mbVector m (setMailbox m { x with busy := true } s)
  | .replied => mbVector m (setMailbox m (posted mctp tag len bytes { x with collision := true, replyValid := false }) s)

/-- R454, R466: the 256 bytes of MB_REQ. -/
def mbStaging (x : Mailbox) : List Byte := (List.range 256).map fun i => x.req.get 0 i

/-- R454, R457: a write of MB_POST. -/
def writeMbPost (m : Nat) (v : Word) (s : State) : State :=
  if m < mailboxCount s then postMailbox m false ((v >>> 16).setWidth 16) (bitsOf v.toNat 0 9) (mbStaging (mailbox s m)) s else s

/-- R457, R466: a write of MB_ACK. -/
def writeMbAck (m : Nat) (v : Word) (s : State) : State :=
  let x := mailbox s m
  if v.getLsbD 0 && x.state == .replied then setMailbox m { x with state := .empty, replyValid := false } s else s

def mbBase (m : Nat) : Nat := 0x1D0000 + 0x1000 * m

/-- R454: software posts to a mailbox. -/
def execMbPost (mb : Nat) (value : Word) (s : State) : Answer :=
  .next (if mb < mailboxCount s then bar0Write (mbBase mb + 0x200) value.toNat (writeMbPost mb value) s else s)

/-- R457: software consumes a reply. -/
def execMbAck (mb : Nat) (value : Word) (s : State) : Answer :=
  .next (if mb < mailboxCount s then bar0Write (mbBase mb + 0x204) value.toNat (writeMbAck mb value) s else s)

/-- R454, R462: a request arrives over MCTP. -/
def execMctpMailboxRequest (mb : Nat) (tag : BitVec 16) (bytes : List Byte) (s : State) : Answer :=
  .next <|
    if !mctpAnswers s then s
    else if mailboxCount s ≤ mb then sendMctp (.mailboxReply mb tag (mbReply mrNoService 0 tag 0 [])) s
    else postMailbox mb true tag bytes.length bytes s

/-- R457: the service of a mailbox ends with a reply. -/
def endService (m result status detail : Nat) (data : List Byte) (s : State) : State :=
  let x := mailbox s m
  let r := mbReply result status x.tag detail data
  if x.mctp then
    let s1 := setMailbox m { x with state := .empty, discard := false } s
    if x.discard then s1 else sendMctp (.mailboxReply m x.tag r) s1
  else
    let buf := r.zipIdx.foldl (fun (t : Tab Byte) (c : Byte × Nat) => t.put 0 c.2 c.1) x.reply
    mbVector m (setMailbox m { x with state := .replied, replyValid := true, reply := buf } s)

/-! ### Taking a request -/

/-- A field of a request. -/
def Mailbox.fld (x : Mailbox) (off lo len : Nat) : Nat := fieldAt x.slot off lo len

/-- R460: the services. -/
inductive Service where
  | info | echo | fwLoad | bist | measExtend | measLog
deriving DecidableEq, Repr

/-- R460: the service that a code names. -/
def serviceOf (x : Mailbox) : Option Service :=
  match x.fld 0 0 16 with
  | 0x0001 => some .info
  | 0x0002 => some .echo
  | 0x0010 => some .fwLoad
  | 0x0020 => some .bist
  | 0x0030 => some .measExtend
  | 0x0031 => some .measLog
  | _ => none

/-- R459, R460: a secure service; a BIST with REPAIR = 1 counts as one. -/
def isSecure (x : Mailbox) (v : Service) : Bool :=
  match v with
  | .fwLoad | .measExtend => true
  | .bist => x.fld 4 14 1 == 1
  | _ => false

/-- R459: the request is refused by the security rules. -/
def isDenied (s : State) (m : Nat) (x : Mailbox) (v : Service) : Bool :=
  let secureMb := bitOf s.trust.mask.toNat m
  (isSecure x v && !secureMb) || (secureMb && s.trust.lock && !x.mctp)

/-- R460: the LEN that a service requires. -/
def serviceLen : Service → Option Nat
  | .info => some 4
  | .echo => none
  | .fwLoad => some 16
  | .bist => some 52
  | .measExtend => some 52
  | .measLog => some 8

/-- R460: the states that a service lists. -/
def serviceState (s : State) (v : Service) : Bool :=
  match v with
  | .fwLoad => s.ms.mode == .kindling
  | .bist => s.ms.mode == .kindling || s.ms.mode == .fenced
  | _ => s.ms.mode != .off

/-- R456: the first check that a request fails: RESULT, STATUS and DETAIL of its reply. -/
def rejection (s : State) (m : Nat) (x : Mailbox) : Option (Nat × Nat × Nat) :=
  if x.len < 4 ∨ 256 < x.len then some (mrBadSize, 0, 0)
  else match serviceOf x with
    | none => some (mrNoService, 0, 0)
    | some v =>
      if isDenied s m x v then some (mrDenied, 0, 0)
      else if (serviceLen v).any (· != x.len) then some (mrBadSize, 0, 0)
      else if !serviceState s v then some (mrDone, stNotAvailable, s.ms.mode.code)
      else none

/-- R457: Kolnu takes a posted request: it is rejected at once, or its service begins. -/
def execKolnuTake (mb : Nat) (s : State) : Answer :=
  .next <|
    let x := mailbox s mb
    if x.state != .posted || !mctpAnswers s then s else
      let s1 := setMailbox mb { x with state := .serving } s
      match rejection s mb x with
      | some (r, st, det) => endService mb r st det [] s1
      | none => s1

/-- Runs a service on the mailbox that serves it. -/
def serve (m : Nat) (v : Service) (f : Mailbox → State → State) (s : State) : State :=
  let x := mailbox s m
  if x.state == .serving && serviceOf x == some v && mctpAnswers s then f x s else s

/-- R460: INFO. -/
def execInfo (mb : Nat) (s : State) : Answer :=
  .next (serve mb .info (fun _ s =>
    endService mb mrDone stOk 0 (leBytes 4 (iodState s) ++ leBytes 4 (iodCap s) ++ leBytes 4 (fwStatus s) ++ leBytes 8 (fwVersion s)) s) s)

/-- R460: ECHO. The reply has room for 248 bytes of payload (log 44). -/
def execEcho (mb : Nat) (s : State) : Answer :=
  .next (serve mb .echo (fun x s => endService mb mrDone stOk 0 ((x.slot.drop 4).take 248) s) s)

/-- R460: MEAS_EXTEND. -/
def execMeasExtend (mb : Nat) (s : State) : Answer :=
  .next (serve mb .measExtend (fun x s =>
    let s1 := extendMeas 6 (padTo 48 (x.slot.drop 4)) s
    endService mb mrDone stOk (s1.trust.counts.get 0 6) [] s1) s)

/-- R461: the bytes of an entry of the measurement log, its number first. -/
def measEntryBytes (e : MeasEntry) : List Byte :=
  leBytes 4 e.number.toNat ++ leBytes 1 e.reg ++ leBytes 1 e.count ++ [0, 0] ++ padTo 48 e.digest

/-- R461: the held entries from a number on, at most four. -/
def measSelect (s : State) (e : Word) : List MeasEntry :=
  (s.trust.log.filter fun m => !serialPast e m.number).take 4

/-- R461: MEAS_LOG. -/
def execMeasLog (mb : Nat) (s : State) : Answer :=
  .next (serve mb .measLog (fun x s =>
    endService mb mrDone stOk s.trust.extendCount.toNat ((measSelect s (BitVec.ofNat 32 (x.fld 4 0 32))).flatMap measEntryBytes) s) s)

/-! ### Firmware load -/

/-- R447: STATUS and DETAIL where the request itself fails. -/
def fwRequestError (s : State) (x : Mailbox) : Option (Nat × Nat) :=
  let a := x.fld 4 0 44
  let n := x.fld 12 0 32
  if s.ms.mode != .kindling then some (stNotAvailable, s.ms.mode.code)
  else if s.trust.s2Loaded then some (stDescInvalid, 0xFFFFFFFF)
  else if x.fld 4 44 20 != 0 || a % 64 != 0 || decide (stackBytes ≤ a) then some (stDescInvalid, 4)
  else if stackBytes < a + n then some (stDescInvalid, 12)
  else none

/-- R446, R447: the offset of the first field of an image's header that fails. -/
def fwImageError (h : List Byte) (n : Nat) : Option Nat :=
  let code := fieldAt h 16 0 32
  let cfg := fieldAt h 20 0 32
  if fieldAt h 0 0 32 != 0x554E4C4B then some 0
  else if fieldAt h 4 0 8 != 2 then some 4
  else if fieldAt h 4 8 24 != 0 then some 4
  else if fieldAt h 12 8 24 != 0 then some 12
  else if anySet h 24 40 then some 24
  else if anySet h 160 864 then some 160
  else if code % 64 != 0 || decide (code < 64 ∨ 16711680 < code) then some 16
  else if cfg % 64 != 0 || decide (65536 < cfg) then some 20
  else if 1024 + code + cfg != n then some 16
  else none

/-- R183, R447: an uncorrectable codeword among `n` bytes of an image: its entry in the memory error log. -/
def fwBad (s : State) (a n : Nat) : Option (Nat × State) :=
  match firstBad s .bar2 a n with
  | none => none
  | some x => (placeOf s x).map fun p => logMemErr x p 0 4 0xFFFF (symbolsAt s.mem p) s

/-- R447: the offset of the first field that fails among the fields of an image's header whose codewords can be read: the row of the
format stands before the row of uncorrectable errors. -/
def fwFormat (s : State) (a n : Nat) : Option Nat :=
  let clean (k : Nat) : Bool := (firstBad s .bar2 (a + 64 * k) 64).isNone
  let h := (List.range 16).flatMap fun k => if clean k then readBytes s .bar2 (a + 64 * k) 64 else List.replicate 64 0
  if clean 0 then fwImageError h n else if anySet h 160 864 then some 160 else none

/-- R446: an image's signature over its signed bytes verifies: ECDSA on brainpoolP384r1 over their SHA-384 digest, r and s
little-endian. -/
def fwVerifies (b : List Byte) (code : Nat) : Bool :=
  let signed := b.take 64 ++ (b.drop 1024).take code ++ b.drop (1024 + code)
  ecdsaVerify Config.fwKey (sha384 signed) (leNat ((b.drop 64).take 48)) (leNat ((b.drop 112).take 48))

/-- R443, R444, R447: a stage 2 image is measured and started, whether or not its signature verifies. -/
def fwStart (b : List Byte) (s : State) : Bool × State :=
  let code := fieldAt b 16 0 32
  let body := (b.drop 1024).take code
  let cfg := b.drop (1024 + code)
  let ok := fwVerifies b code
  let s1 := extendMeas 4 (sha384 cfg) (extendMeas 3 (sha384 (b.take 64 ++ body)) s)
  (ok, setTrust { s1.trust with s2Loaded := true, s2SigOk := ok, s2Svn := BitVec.ofNat 8 (fieldAt b 12 0 8),
                                s2Version := BitVec.ofNat 32 (fieldAt b 8 0 32) } s1)

/-- R447: FW_LOAD. Its reads of a stack that is not yet zero-filled wait (R172), and the service has not ended. -/
def execFwLoad (mb : Nat) (s : State) : Answer :=
  .next (serve mb .fwLoad (fun x s =>
    let a := x.fld 4 0 44
    let n := x.fld 12 0 32
    let done (st det : Nat) (s : State) : State := endService mb mrDone st det [] s
    match fwRequestError s x with
    | some (st, det) => done st det s
    | none =>
      if decide (0 < n) && (unfilledAt s a 1).isSome then s else
      match fwFormat s a n with
      | some off => done stDescInvalid off s
      | none =>
        match fwBad s a n with
        | some (i, s1) => done stMemUncorrectable i s1
        | none =>
          let (ok, s1) := fwStart (readBytes s .bar2 a n) s
          done stOk (bit ok) s1) s)

/-! ### Restarts and withdrawals -/

/-- R458: the request of one mailbox is aborted by a restart of the management controller. -/
def abortMailbox (m : Nat) (s : State) : State :=
  let x := mailbox s m
  if x.state != .posted && x.state != .serving then s else
    let r := mbReply mrAborted stAborted x.tag 0 []
    if x.mctp then
      let s1 := setMailbox m { x with state := .empty, discard := false } s
      if x.discard then s1 else setTrust { s1.trust with owed := s1.trust.owed ++ [(m, x.tag, r)] } s1
    else
      let buf := r.zipIdx.foldl (fun (t : Tab Byte) (c : Byte × Nat) => t.put 0 c.2 c.1) x.reply
      mbVector m (setMailbox m { x with state := .replied, replyValid := true, aborted := true, reply := buf } s)

/-- R458: the management controller restarts; a self-test that a mailbox asked for goes on without a reply. -/
def restartKolnu (s : State) : State :=
  let s1 := (List.range 16).foldl (fun s m => abortMailbox m s) s
  { setTrust { s1.trust with restarting := true } s1 with
    bist := if s1.bist.mailbox then { s1.bist with mb := 16 } else s1.bist }

/-- R458: the restart of the management controller is over and MCTP answers again. -/
def execManagementRestartDone (s : State) : Answer :=
  .next <|
    if !s.trust.restarting || s.ms.mode == .off then s else
      let s1 := setTrust { s.trust with restarting := false, owed := [] } s
      s.trust.owed.foldl (fun s r => sendMctp (.mailboxReply r.1 r.2.1 r.2.2) s)
        { s1 with pins := { s1.pins with standbyReady := true }, wdog := { s1.wdog with restart := s1.clk } }

/-- R458: a receiver reset of the tray controller withdraws its requests. -/
def withdrawMctp (s : State) : State :=
  (List.range 16).foldl (fun s m =>
    let x := mailbox s m
    if !x.mctp then s
    else if x.state == .posted then setMailbox m { x with state := .empty } s
    else if x.state == .serving then setMailbox m { x with discard := true } s
    else s) s

/-! ### The watchdog -/

/-- R494, R495, R491: a write of IOD_WDOG. -/
def writeWdog (v : Word) (s : State) : State :=
  let t := BitVec.ofNat 8 (max 10 (bitsOf v.toNat 8 8))
  let s1 := { s with wdog := { s.wdog with timeoutMs := t } }
  if !v.getLsbD 0 then { s1 with wdog := { s1.wdog with en := false } }
  else if s1.wdog.en then s1
  else
    let held := s1.pwr.seqEn
    let s2 := claimHigh 1 { s1 with wdog := { s1.wdog with restart := s1.clk } }
    if held then timerDisplaced s2 else s2

/-- R491: a write of IOD_WDOG. -/
def execIodWdogWrite (value : Word) (s : State) : Answer := .next (bar0Write 0x30 value.toNat (writeWdog value) s)

/-- R492: Kolnu restarts the watchdog. -/
def execWatchdogRestart (s : State) : Answer :=
  .next (if s.wdog.en && !s.trust.restarting then { s with wdog := { s.wdog with restart := s.clk } } else s)

/-- R492: the limit has passed without a restart of the watchdog. -/
def execWatchdogExpiry (s : State) : Answer :=
  .next <|
    if s.wdog.en && inService s && !s.trust.restarting && decide (s.wdog.restart + 1000000 * s.wdog.timeoutMs.toNat < s.clk) then
      jobFault causeWatchdog (restartKolnu s)
    else s

end Sys2Proof.Machine
end

