-- ==== Sys2Proof/Machine/Identity.lean ====
section
/-! DEFINITION. Device identity (R448, R449): keys, certificates and the chain of slot 0. The DER forms are those of X.509 and SEC 1
(PRESUMED, log 42); what neither the spec nor X.509 fixes is free. -/

namespace Sys2Proof.Machine

/-! ### Keys, R448 -/

/-- R448: the DeviceID private key, from the device secret alone. -/
def deviceKey : Nat := 1 + Config.deriveKey Config.deviceSecret [] % (curveN - 1)

/-- R448: the alias private key, from the device secret, SEC_MEAS1 and SEC_MEAS2. -/
def aliasKey (s : State) : Nat := 1 + Config.deriveKey Config.deviceSecret (measOf s 1 ++ measOf s 2) % (curveN - 1)

/-! ### DER -/

/-- A DER element: tag, length and contents. -/
def der (tag : Nat) (b : List Byte) : List Byte :=
  let n := b.length
  let len := if n < 128 then leBytes 1 n else if n < 256 then leBytes 1 0x81 ++ leBytes 1 n else leBytes 1 0x82 ++ beBytes 2 n
  leBytes 1 tag ++ len ++ b

/-- A DER INTEGER of a number of at most 384 bits, with no leading zero byte that its sign does not need. -/
def derInt (n : Nat) : List Byte := der 0x02 (beBytes (Nat.log2 n / 8 + (if Nat.log2 n % 8 = 7 then 2 else 1)) n)

/-- The ASCII codes of a text. -/
def ascii (t : String) : List Byte := t.toList.map fun c => BitVec.ofNat 8 c.toNat

/-- Object identifiers: ecdsa-with-SHA384; id-ecPublicKey and brainpoolP384r1; serialNumber; keyUsage; basicConstraints. -/
def oidEcdsaSha384 : List Byte := der 0x06 [0x2A, 0x86, 0x48, 0xCE, 0x3D, 0x04, 0x03, 0x03]
def oidEcKey : List Byte := der 0x06 [0x2A, 0x86, 0x48, 0xCE, 0x3D, 0x02, 0x01] ++ der 0x06 [0x2B, 0x24, 0x03, 0x03, 0x02, 0x08, 0x01, 0x01, 0x0B]
def oidSerial : List Byte := der 0x06 [0x55, 0x04, 0x05]
def oidKeyUsage : List Byte := der 0x06 [0x55, 0x1D, 0x0F]
def oidBasic : List Byte := der 0x06 [0x55, 0x1D, 0x13]

/-! ### Certificates, R449 -/

/-- R449: the serial number as 16 upper-case hexadecimal digits, most significant first. -/
def serialDigits (s : State) : List Byte :=
  (List.range 16).map fun i =>
    let d := s.hw.serial.toNat / 16 ^ (15 - i) % 16
    BitVec.ofNat 8 (if d < 10 then 0x30 + d else 0x37 + d)

/-- R449: a subject that carries the serial number; its other attributes are free. -/
def subjectDer (s : State) (who : Nat) : List Byte :=
  der 0x30 (Config.certPart (10 + who) [] ++ der 0x31 (der 0x30 (oidSerial ++ der 0x13 (serialDigits s))))

/-- R449: validity. -/
def validityDer : List Byte := der 0x30 (der 0x18 (ascii "19700101000000Z") ++ der 0x18 (ascii "99991231235959Z"))

/-- A public key as a certificate carries it. -/
def keyDer (k : Nat × Nat) : List Byte :=
  der 0x30 (der 0x30 oidEcKey ++ der 0x03 ([0x00, 0x04] ++ beBytes 48 k.1 ++ beBytes 48 k.2))

/-- R449: keyUsage is digitalSignature only. -/
def keyUsageDer : List Byte := der 0x30 (oidKeyUsage ++ der 0x01 [0xFF] ++ der 0x04 (der 0x03 [0x07, 0x80]))

/-- R449: basicConstraints: CA:TRUE with pathLen 0 for the DeviceID certificate, CA:FALSE for the alias certificate. -/
def basicDer (ca : Bool) : List Byte :=
  der 0x30 (oidBasic ++ der 0x01 [0xFF] ++ der 0x04 (der 0x30 (if ca then der 0x01 [0xFF] ++ derInt 0 else [])))

/-- R449: SEC_MEAS1 and SEC_MEAS2 in a private extension; its identifier and the form of its value are free, and it is not
critical. -/
def measExtension (s : State) : List Byte :=
  der 0x30 (Config.certPart 20 [] ++ der 0x04 (Config.certPart 21 (measOf s 1 ++ measOf s 2)))

/-- R449: what is signed of an X.509 version 3 certificate: DeviceID (0) or alias (1). -/
def certBody (s : State) (who : Nat) : List Byte :=
  let issuer := if who = 0 then Config.certPart 9 [] else subjectDer s 0
  let key := if who = 0 then publicKey deviceKey else publicKey (aliasKey s)
  let extensions := keyUsageDer ++ basicDer (who == 0) ++ (if who = 1 then measExtension s else [])
  der 0x30 (der 0xA0 (derInt 2) ++ Config.certPart (30 + who) [] ++ der 0x30 oidEcdsaSha384 ++ issuer ++ validityDer ++ subjectDer s who
    ++ keyDer key ++ der 0xA3 (der 0x30 extensions))

/-- A certificate: its body, the algorithm and the signature (r, s). -/
def certificate (body : List Byte) (sig : Nat × Nat) : List Byte :=
  der 0x30 (body ++ der 0x30 oidEcdsaSha384 ++ der 0x03 (0x00 :: der 0x30 (derInt sig.1 ++ derInt sig.2)))

/-- R448: the DeviceID certificate, signed by the device CA at manufacture. -/
def deviceIdCert (s : State) : List Byte :=
  let body := certBody s 0
  certificate body (Config.caSignature (sha384 body))

/-- R448: the alias certificate, signed by the DeviceID key when the boot ROM makes it. -/
def aliasCert (s : State) : List Byte :=
  let body := certBody s 1
  certificate body (ecdsaSign deviceKey (1 + Config.aliasNonce (measOf s 1 ++ measOf s 2) % (curveN - 1)) (sha384 body))

/-- R449: the chain in slot 0: the device CA certificate, the DeviceID certificate and the alias certificate, behind a header of its
length and the digest of the Jorficon root certificate, as SPDM lays it out (log 46). -/
def chainBytes (s : State) : List Byte :=
  let certs := Config.certPart 1 [] ++ deviceIdCert s ++ aliasCert s
  leBytes 2 (52 + certs.length) ++ [0, 0] ++ sha384 (Config.certPart 0 []) ++ certs

/-- R448, R451: the alias key's signature over a message: r, then s, 48 bytes each, most significant byte first. Its secret number is
free. -/
def aliasSign (m : List Byte) (s : State) : List Byte × State :=
  let (k, s1) := choose (curveN - 1) s
  let (r, t) := ecdsaSign (aliasKey s) (1 + k) (sha384 m)
  (beBytes 48 r ++ beBytes 48 t, s1)

end Sys2Proof.Machine
end

