-- ==== Sys2Proof/Machine/Mgmt.lean ====
section
/-! DEFINITION. SPDM on its two transports (R450 to R453), MCTP control commands and DOE Discovery (R453), the I3C target (R481),
the JTAG port (R482), and the levels of the management pins (R474, R480). -/

namespace Sys2Proof.Machine

/-- Log 46. The bytes of SPDM messages that a signature covers, by their content: their layout is DMTF's. -/
opaque spdmMessages : List (SpdmRequest × SpdmReply) → List Byte

/-! ### SPDM -/

/-- R453: the states in which a transport is answered. -/
def transportAnswers (s : State) (t : Transport) : Bool :=
  match t with
  | .doe => inService s
  | .mctp => mctpAnswers s

def spdmOf (s : State) (t : Transport) : Spdm :=
  match t with
  | .doe => s.trust.doe
  | .mctp => s.trust.mctp

def setSpdm (t : Transport) (x : Spdm) (s : State) : State :=
  match t with
  | .doe => setTrust { s.trust with doe := x } s
  | .mctp => setTrust { s.trust with mctp := x } s

/-- R450: a response is sent on its transport. -/
def sendSpdm (t : Transport) (r : SpdmReply) (s : State) : State :=
  match t with
  | .doe => emit (.spdm t r) s
  | .mctp => sendMctp (.spdm t r) s

/-- R453: a response is sent, and its request and it become part of its transport's transcript. -/
def respond (t : Transport) (q : SpdmRequest) (r : SpdmReply) (s : State) : State :=
  let x := spdmOf s t
  sendSpdm t r (setSpdm t { x with transcript := x.transcript ++ [(q, r)] } s)

/-- A request in the order of SPDM is answered; out of it the module answers either as in order or with ERROR, code
UnexpectedRequest, which the spec leaves open (log 45). -/
def inOrder (t : Transport) (ok : Spdm → Bool) (f : State → State) (s : State) : State :=
  if !transportAnswers s t then s
  else if ok (spdmOf s t) then f s
  else
    let (k, s1) := choose 2 s
    if k = 0 then sendSpdm t (.error .unexpectedRequest) s1 else f s1

/-- R450: GET_VERSION lists 1.3 only and resets the connection state of its transport. -/
def execGetVersion (t : Transport) (s : State) : Answer :=
  .next (if transportAnswers s t then respond t .getVersion (.version 1 3) (setSpdm t { Spdm.reset with version := true } s) else s)

/-- R450, R451: GET_CAPABILITIES, with the requester's own capabilities. -/
def execGetCapabilities (q : CapsRequest) (s : State) : Answer :=
  .next (inOrder q.transport (·.version) (fun s =>
    respond q.transport (.getCapabilities q.flags q.ctExponent q.dataSize q.maxMessage) (.capabilities true true 2 17 4096 4096)
      (setSpdm q.transport { spdmOf s q.transport with caps := true } s)) s)

/-- R451: the values that the module selects. -/
def spdmAlgs : SpdmAlgs :=
  { measurementDmtf := true, measurementSha := 384, baseSha := 384, baseAsym := 0, registryPciSig := true, vendor := Config.pciVendor,
    algorithm := 0x0001, opaqueData := [] }

/-- R450, R451: NEGOTIATE_ALGORITHMS: the offers must hold DMTF, the ExtAsym entry of R451 and SHA-384. -/
def execNegotiateAlgorithms (t : Transport) (offers : AlgOffers) (offersSha384 : Bool) (s : State) : Answer :=
  .next (inOrder t (·.caps) (fun s =>
    if offers.dmtf && offers.extAsym && offersSha384 then
      respond t (.negotiateAlgorithms true true true) (.algorithms spdmAlgs) (setSpdm t { spdmOf s t with algs := true } s)
    else sendSpdm t (.error .invalidRequest) s) s)

/-- R450: GET_DIGESTS: slot 0 only. -/
def execGetDigests (t : Transport) (s : State) : Answer :=
  .next (inOrder t (·.algs) (fun s => respond t .getDigests (.digests 0 (sha384 (chainBytes s))) s) s)

/-- R450, R453: the bytes of a chain that one CERTIFICATE carries: on DOE the object of at most 4,096 bytes holds a header of 8 bytes and
the response's own of 8 too (log 46). -/
def certRoom (t : Transport) : Nat := match t with | .doe => 4080 | .mctp => 4096

/-- R450: GET_CERTIFICATE: a portion of slot 0's chain. -/
def execGetCertificate (t : Transport) (slot offset len : Nat) (s : State) : Answer :=
  .next (inOrder t (·.algs) (fun s =>
    let c := chainBytes s
    if slot != 0 || decide (c.length < offset) then sendSpdm t (.error .invalidRequest) s
    else
      let p := (c.drop offset).take (min len (certRoom t))
      respond t (.getCertificate slot offset len) (.certificate 0 p (c.length - offset - p.length)) s) s)

/-- R452: the DMTFSpecMeasurementValueType of a register. -/
def measType (i : Nat) : Nat :=
  match i with
  | 0 => 0
  | 1 | 3 => 1
  | 5 => 2
  | _ => 3

/-- R452: the measurement block of a register. -/
def measBlock (s : State) (i : Nat) : MeasBlock := { index := i + 1, type := measType i, digest := measOf s i }

/-- R452: a block in the DMTF layout: index, specification DMTF, size, value type, value size, value (log 46). -/
def blockBytes (b : MeasBlock) : List Byte :=
  leBytes 1 b.index ++ leBytes 1 1 ++ leBytes 2 51 ++ leBytes 1 b.type ++ leBytes 2 48 ++ b.digest

/-- R450: the measurement summary hash of a CHALLENGE. -/
def summaryHash (s : State) (k : Summary) : List Byte :=
  match k with
  | .none => []
  | .tcb => sha384 (([0, 1, 2].map (measBlock s)).flatMap blockBytes)
  | .all => sha384 (((List.range 7).map (measBlock s)).flatMap blockBytes)

/-- Free bytes: a nonce of the module (log 42). -/
def freeBytes (n : Nat) (s : State) : List Byte × State :=
  ((List.range n).map fun i => BitVec.ofNat 8 (Config.freeAt s.freeCtr i), { s with freeCtr := s.freeCtr + 1 })

/-- R448, R450: the signature over a transport's transcript, the request and what the response states before it. The bytes of the
messages are SPDM's (log 46). -/
def signTranscript (t : Transport) (q : SpdmRequest) (r : SpdmReply) (s : State) : List Byte × State :=
  aliasSign (spdmMessages ((spdmOf s t).transcript ++ [(q, r)])) s

/-- R450: CHALLENGE: slot 0 only. -/
def execChallenge (t : Transport) (slot : Nat) (summary : Summary) (nonce : List Byte) (s : State) : Answer :=
  .next (inOrder t (·.algs) (fun s =>
    if slot != 0 then sendSpdm t (.error .invalidRequest) s else
      let (own, s1) := freeBytes 32 s
      let answer (sig : List Byte) : SpdmReply := .challengeAuth 0 (sha384 (chainBytes s)) own (summaryHash s summary) sig
      let (sig, s2) := signTranscript t (.challenge slot summary nonce) (answer []) s1
      respond t (.challenge slot summary nonce) (answer sig) s2) s)

/-- R450, R452: the registers that a GET_MEASUREMENTS operation reports; none where it names no such operation. -/
def measOperation (op : Nat) : Option (List Nat) :=
  if op = 0 then some [] else if op = 0xFF then some (List.range 7) else if op ≤ 7 then some [op - 1] else none

/-- R450, R452: GET_MEASUREMENTS, signed on request. -/
def execGetMeasurements (t : Transport) (operation : Nat) (signed : Bool) (nonce : List Byte) (s : State) : Answer :=
  .next (inOrder t (·.algs) (fun s =>
    let q : SpdmRequest := .getMeasurements operation signed nonce
    match measOperation operation with
    | none => sendSpdm t (.error .invalidRequest) s
    | some is =>
      let bs := is.map (measBlock s)
      if signed then
        let (own, s1) := freeBytes 32 s
        let (sig, s2) := signTranscript t q (.measurements 7 bs (some (own, []))) s1
        respond t q (.measurements 7 bs (some (own, sig))) s2
      else respond t q (.measurements 7 bs none) s) s)

/-- R450: every other request code is answered with ERROR, code UnsupportedRequest. -/
def execSpdmUnsupportedRequest (t : Transport) (_code : Byte) (s : State) : Answer :=
  .next (if transportAnswers s t then sendSpdm t (.error .unsupportedRequest) s else s)

/-! ### DOE and MCTP -/

/-- R453: DOE Abort resets the connection state of DOE. -/
def execDoeAbort (s : State) : Answer := .next (if inService s then setSpdm .doe .reset s else s)

/-- R453: DOE Discovery: index 0 names the discovery type, index 1 CMA/SPDM; any other index no type (log 46). -/
def execDoeDiscovery (index : Nat) (s : State) : Answer :=
  .next <|
    if !inService s then s
    else if index = 0 then emit (.doeDiscovery 1 0 1) s
    else if index = 1 then emit (.doeDiscovery 1 1 0) s
    else emit (.doeDiscovery 0xFFFF 0xFF 0) s

/-- R453, R458: Set Endpoint ID resets the connection state of MCTP and withdraws the tray controller's requests. An endpoint ID of
0x00 or 0xFF is not taken (log 46). -/
def execSetEndpointId (eid : Byte) (s : State) : Answer :=
  .next <|
    if !mctpAnswers s then s else
      let ok := eid != 0 && eid != 0xFF
      let s1 := withdrawMctp (setSpdm .mctp .reset s)
      sendMctp (.mctpControl (.setEid (if ok then eid else s1.trust.eid) ok))
        (if ok then setTrust { s1.trust with eid := eid } s1 else s1)

/-- R453: Get Endpoint ID. -/
def execGetEndpointId (s : State) : Answer :=
  .next (if mctpAnswers s then sendMctp (.mctpControl (.getEid s.trust.eid)) s else s)

/-- R453: Get MCTP Version Support. -/
def execGetMctpVersionSupport (s : State) : Answer :=
  .next (if mctpAnswers s then sendMctp (.mctpControl .versions) s else s)

/-- R453, R462: Get Message Type Support: SPDM, 0x05, and vendor-defined PCI, 0x7E. -/
def execGetMessageTypeSupport (s : State) : Answer :=
  .next (if mctpAnswers s then sendMctp (.mctpControl (.messageTypes [0x05, 0x7E])) s else s)

/-! ### I3C -/

/-- R20, R481: the I3C target answers in every state but Off. -/
def i3cAnswers (s : State) : Bool := s.ms.mode != .off && s.pins.standbyReady

/-- R481: the static address. -/
def i3cStatic : BitVec 7 := 0x2A

/-- R458: an I3C target reset. -/
def execI3cTargetReset (s : State) : Answer := .next (if i3cAnswers s then withdrawMctp s else s)

/-- R481: SETDASA gives a dynamic address to the target with the static address named, which has none yet. -/
def execSetdasa (a : Dasa) (s : State) : Answer :=
  .next (if i3cAnswers s && a.static == i3cStatic && s.trust.i3cAddr.isNone then setTrust { s.trust with i3cAddr := some a.addr } s else s)

/-- R481: ENTDAA gives a dynamic address to a target that has none yet. -/
def execEntdaa (addr : BitVec 7) (s : State) : Answer :=
  .next (if i3cAnswers s && s.trust.i3cAddr.isNone then setTrust { s.trust with i3cAddr := some addr } s else s)

/-! ### The levels of the contacts -/

def setJtag (j : Jtag) (s : State) : State := { s with jtag := j }

/-- R482: EXTEST acts only in Kindling before the setup lock. -/
def extestActs (s : State) : Bool := s.ms.mode == .kindling && !s.trust.lock

/-- R482: the boundary-scan register drives the pins. -/
def extestDrives (s : State) : Bool := s.jtag.ir == .extest && extestActs s

/-- R472, R482: the contacts of MGMT that the boundary-scan register covers: every signal but FT_REF_P/N, PRSNT_N and the JTAG contacts;
one cell each (log 93). -/
def boundaryContacts : List Nat := [2, 3, 8, 9, 11, 12, 13, 14, 15, 16, 17, 18] ++ (List.range 18).map (26 + ·)

/-- R482: the cells of the boundary-scan register. -/
def boundaryLen : Nat := 30

/-- R482: the place of a contact's cell. -/
def cellOf (contact : Nat) : Nat := Config.boundaryCell contact % boundaryLen

/-- R473: the level of a contact that the module does not drive: what the board drives, or the level of its resistor. -/
def boardLevel (s : State) (contact : Nat) (rest : Bool) : Bool := (Config.boardPin contact s.clk).getD rest

/-- R24, R474: PRSNT_N, tied to ground on the module: low in every state. -/
def prsntNLevel (_ : State) : Bool := false

/-- R482: the level of an output contact: what R474 gives it, or what EXTEST drives. -/
def contactLevel (s : State) (contact : Nat) (level : Bool) : Bool :=
  if extestDrives s then s.jtag.preload.getD (cellOf contact) false else level

/-- R474: READY. -/
def readyLevel (s : State) : Bool := contactLevel s 16 (s.ms.mode == .full || s.ms.mode == .banked)

/-- R473, R474: FAULT_N, released high but in Fenced. -/
def faultNLevel (s : State) : Bool := contactLevel s 13 (s.ms.mode != .fenced)

/-- R422: an alert bit of PWR_STATUS reads 1. -/
def alertBit (s : State) : Bool :=
  s.pwr.inputLow || s.pwr.inputHigh || s.pwr.throttleCap || s.pwr.capUnmet || s.pwr.warnTemp || s.pwr.throttleTherm

/-- R474: ALERT_N. -/
def alertNLevel (s : State) : Bool := contactLevel s 14 !(inService s && alertBit s)

/-- R474: THERMTRIP_N, driven high in the states of service. -/
def thermtripNLevel (s : State) : Bool := contactLevel s 15 (inService s)

/-- R473, R480: GPIO0, GPIO1: driven with their output enable, else an input, in a state that drives outputs; at rest, high, in the
others. -/
def gpioLevel (s : State) (contact : Nat) (oe out : Bool) : Bool :=
  contactLevel s contact (if !inService s then true else if oe then out else boardLevel s contact true)

/-- R260: a pulse of 50 ns on FT_OUT lasts. -/
def pulseLasts (s : State) : Bool := s.ft.pulseAt.any fun t => decide (s.clk < t + 50)

/-- R260, R473, R480: the level of the FT_OUT contact: the Field Time pulse or the general-purpose level of the claimant that holds it,
else an input; at rest, low, in the states that drive no outputs. -/
def ftOutLevel (s : State) : Bool :=
  contactLevel s 9 (if !inService s then false else if s.ft.outEn then pulseLasts s else if s.pins.ftpOe then s.pins.ftpOut
    else boardLevel s 9 false)

/-- R473, R474: TDO between the shifts of the TAP, in which it is driven (`Output.tdo`): released, high. -/
def tdoLevel (_ : State) : Bool := true

/-- R473, R474: I3C_SDA between the transfers of the bus: the controller's pull-up, or what the bus drives. -/
def i3cSdaLevel (s : State) : Bool := boardLevel s 3 true

/-- R473: TRST_N: low, which holds the TAP in reset, unless a tester drives it. -/
def trstNLevel (s : State) : Bool := boardLevel s 24 false

/-- R472 to R480: the level of a contact that the boundary-scan register covers. -/
def mgmtLevel (s : State) (contact : Nat) : Bool :=
  match contact with
  | 2 => boardLevel s 2 true
  | 3 => i3cSdaLevel s
  | 8 => boardLevel s 8 false
  | 9 => ftOutLevel s
  | 11 => !s.pins.perstAsserted
  | 12 => !s.pins.coolantOk
  | 13 => faultNLevel s
  | 14 => alertNLevel s
  | 15 => thermtripNLevel s
  | 16 => readyLevel s
  | 17 => gpioLevel s 17 s.pins.oe0 s.pins.out0
  | 18 => gpioLevel s 18 s.pins.oe1 s.pins.out1
  | c => bitOf s.pins.boardStraps.toNat (c - 26)

/-! ### JTAG -/

/-- R482: what the boundary-scan register captures, in the order of its cells. -/
def boundaryCapture (s : State) : List Bool :=
  (List.range boundaryLen).map fun i => ((boundaryContacts.find? fun c => cellOf c == i).map (mgmtLevel s)).getD false

/-- R482: BYPASS, and every instruction code that is not listed. -/
def execBypass (s : State) : Answer := .next (if inService s then setJtag { s.jtag with ir := .bypass } s else s)

/-- R482: SAMPLE/PRELOAD: the levels of the contacts are captured and shifted out, and what is shifted in is held for EXTEST. The tester's
later bits are for the scans under EXTEST that follow (log 93). -/
def execSamplePreload (shiftIn later : List Bool) (s : State) : Answer :=
  .next (if inService s then emit (.tdo (boundaryCapture s)) (setJtag { ir := .sample, preload := shiftIn, later := later } s) else s)

/-- R482: EXTEST drives the pins from the boundary-scan register; where the tester has bits to shift in, a scan captures the levels and
loads the next ones. Where it does not act it acts as BYPASS. -/
def execExtest (s : State) : Answer :=
  .next <|
    if !inService s then s
    else if !extestActs s then setJtag { s.jtag with ir := .bypass } s
    else
      let s1 := setJtag { s.jtag with ir := .extest } s
      if s.jtag.later.isEmpty then s1 else
        emit (.tdo (boundaryCapture s1))
          (setJtag { s1.jtag with preload := s.jtag.later.take boundaryLen, later := s.jtag.later.drop boundaryLen } s1)

/-- R482: the identification code. -/
def idcodeValue (s : State) : Nat := if s.hw.iodGen.toNat = 1 then 0x1A7244B5 else 0x2A7244B5

/-- R482: IDCODE. -/
def execIdcode (s : State) : Answer :=
  .next (if inService s then emit (.tdo ((List.range 32).map (bitOf (idcodeValue s)))) (setJtag { s.jtag with ir := .idcode } s) else s)

/-- R482: a TAP reset returns every pin to the control of R474; IDCODE is selected (log 9). -/
def execTapReset (s : State) : Answer := .next (if inService s then setJtag .reset s else s)

/-! ### IOD_GPIO -/

/-- R480: IOD_GPIO as read. -/
def gpioReg (s : State) : Nat :=
  let p := s.pins
  bit p.oe0 + at' (bit p.oe1) 1 + at' (bit p.out0) 2 + at' (bit p.out1) 3
    + at' (bit (mgmtLevel s 17)) 4 + at' (bit (mgmtLevel s 18)) 5
    + at' (bit p.ftpOe) 6 + at' (bit p.ftpOut) 7 + at' (bit (mgmtLevel s 9)) 8

/-- R480, R494: a write of IOD_GPIO; FTP_OE claims the FT_OUT contact. -/
def writeGpio (v : Word) (s : State) : State :=
  let s1 := { s with pins := { s.pins with oe0 := v.getLsbD 0, oe1 := v.getLsbD 1, out0 := v.getLsbD 2, out1 := v.getLsbD 3,
                                           ftpOut := v.getLsbD 7 } }
  if !v.getLsbD 6 then { s1 with pins := { s1.pins with ftpOe := false } }
  else if s1.pins.ftpOe then s1
  else claimLow 0 (fun s => { s with pins := { s.pins with ftpOe := true } }) s1

/-- R480: a write of IOD_GPIO. -/
def execIodGpioWrite (value : Word) (s : State) : Answer := .next (bar0Write 0x71000 value.toNat (writeGpio value) s)

end Sys2Proof.Machine
end

