-- ==== Sys2Proof/Machine/Bist.lean ====
section
/-! DEFINITION. Self-test (R434 to R441): the checks of a run, its start by a descriptor or a mailbox, its end, its findings and
repairs, and its result record. -/

namespace Sys2Proof.Machine

def setBist (b : Bist) (s : State) : State := { s with bist := b }

/-! ### The body, R435 -/

def bKind (b : List Byte) : Nat := fieldAt b 16 0 4
def bDie (b : List Byte) : Nat := fieldAt b 16 4 3
def bStack (b : List Byte) : Nat := fieldAt b 16 8 4
def bRepair (b : List Byte) : Bool := fieldAt b 16 14 1 == 1
def bShelf (b : List Byte) : Bool := fieldAt b 16 15 1 == 1
def bFirst (b : List Byte) : Nat := fieldAt b 20 0 7
def bCount (b : List Byte) : Nat := fieldAt b 20 8 7
def bFrom (b : List Byte) : Nat := fieldAt b 24 0 40
def bLength (b : List Byte) : Nat := fieldAt b 32 0 40
def bResult (b : List Byte) : Nat := fieldAt b 40 0 44
def bMax (b : List Byte) : Nat := fieldAt b 48 0 13

/-- R435: the compute die that a run tests; none for the I/O die. -/
def bTarget (b : List Byte) : Option Nat :=
  if bKind b = 2 then some (bStack b / 3) else if bDie b < 4 then some (bDie b) else none

/-- R440: the bytes of the result record that the run may write. -/
def recordLen (b : List Byte) : Nat := 64 + 16 * bMax b

/-! ### Checks, R436 -/

/-- R436, offset 16. -/
def bistBad16 (s : State) (b : List Byte) : Bool :=
  let k := bKind b
  let pattern := fieldAt b 16 12 2
  fieldAt b 16 7 1 != 0 || fieldAt b 16 16 16 != 0 || decide (3 < k)
    || (k != 2 && (decide (4 < bDie b) || (bDie b == 4 && k != 0) || decide (bDie b < 4 ∧ dieCount s ≤ bDie b)))
    || ((k == 1 || k == 2) && pattern == 3) || (k == 2 && decide (stackCount s ≤ bStack b))
    || (s.ms.mode == .fenced && bRepair b) || (bTarget b).any (isFenced s)

/-- R436, offset 20. -/
def bistBad20 (b : List Byte) : Bool :=
  fieldAt b 20 7 1 != 0 || fieldAt b 20 15 17 != 0 || decide (96 < bCount b) || decide (96 < bFirst b + bCount b)
    || (bCount b == 0 && ((bKind b == 1 && !bShelf b) || bKind b == 3))

/-- R434, R436: the last tested byte of a STACK run lies in the reserved region; slot offsets rise along a stack. -/
def bistReserved (s : State) (b : List Byte) : Bool :=
  let last := bFrom b + bLength b - 1
  let slot := (last / 2048 * 3 + bStack b % 3) * 2048 + last % 2048
  decide (dieStackBytes ≤ slot + reservedBytes s)

/-- R436, offset 32. -/
def bistBad32 (s : State) (b : List Byte) : Bool :=
  fieldAt b 32 40 24 != 0
    || (bKind b == 2 && (bLength b % 64 != 0 || bLength b == 0 || decide (stackBytes < bFrom b + bLength b)
      || (s.ms.mode == .fenced && bistReserved s b)))

/-- R436: a record at an address overlaps the memory under test; both are made of whole 64-byte blocks. -/
def bistOverlap (s : State) (b : List Byte) : Bool :=
  (List.range (ceilDiv (recordLen b) 64)).any fun i => (access s .iod (bResult b + 64 * i)).any (bistTests b)

/-- R436, offset 40. -/
def bistBad40 (s : State) (b : List Byte) : Bool :=
  fieldAt b 40 44 20 != 0 || bResult b % 64 != 0 || !inReach s .iod (bResult b) (recordLen b) || bistOverlap s b

/-- R436, offset 48. -/
def bistBad48 (b : List Byte) : Bool :=
  bMax b == 0 || decide (4096 < bMax b) || fieldAt b 48 13 51 != 0 || anySet b 56 8

/-- R436: the offset of the first condition that holds. -/
def bistError (s : State) (b : List Byte) : Option Nat :=
  if bistBad16 s b then some 16
  else if bistBad20 b then some 20
  else if fieldAt b 24 40 24 != 0 || (bKind b == 2 && bFrom b % 64 != 0) then some 24
  else if bistBad32 s b then some 32
  else if bistBad40 s b then some 40
  else if bistBad48 b then some 48
  else none

/-! ### Start -/

/-- R434: a run starts. -/
def bistStart (byMailbox : Bool) (m : Nat) (r : Option Ref) (b : List Byte) (s : State) : State :=
  setBist { s.bist with running := true, mailbox := byMailbox, mb := m, ref := r, body := padTo 64 b, kind := bKind b,
                        die := bDie b, stack := bStack b, start := s.ft.ft } s

/-- R434: a BIST descriptor starts: its body is checked, it parks while a mailbox's run lasts, and its run begins. -/
def bistDescriptor (r : Ref) (kind : Nat) (s : State) : State :=
  match findDesc s r with
  | none => s
  | some d =>
    match copyAt d .host with
    | none => s
    | some c =>
      if d.op != some .bist || d.outcome.isSome || c.st != .running || decide (1 < c.stage) then s
      else match bistError s d.bytes with
        | some off => invalid r off s
        | none =>
          if bKind d.bytes != kind then s
          else if s.bist.running then parkCopy r .host 1 s
          else bistStart false 16 (some r) d.bytes (updDesc r (updCopy .host fun c => { c with stage := 2 }) s)

/-- R434, R438: a LOGIC self-test by descriptor. -/
def execBistLogic (d : Ref) (s : State) : Answer := .next (bistDescriptor d 0 s)

/-- R434: an SRAM self-test by descriptor. -/
def execBistSram (d : Ref) (s : State) : Answer := .next (bistDescriptor d 1 s)

/-- R434: a STACK self-test by descriptor. -/
def execBistStack (d : Ref) (s : State) : Answer := .next (bistDescriptor d 2 s)

/-- R434, R439: an ARRAY self-test by descriptor. -/
def execBistArray (d : Ref) (s : State) : Answer := .next (bistDescriptor d 3 s)

/-- R434, R460: the body that a mailbox request carries, at the offsets of R435. -/
def mbBistBody (x : Mailbox) : List Byte := List.replicate 16 0 ++ padTo 48 (x.slot.drop 4)

/-- R434: a self-test by mailbox: BUSY while any run is in progress; a result record on a fenced die completes it with FENCED
(R407). -/
def execMbBist (mb : Nat) (s : State) : Answer :=
  .next (serve mb .bist (fun x s =>
    let b := mbBistBody x
    if s.bist.running then endService mb mrBusy 0 0 [] s
    else if !serviceState s .bist then endService mb mrDone stNotAvailable s.ms.mode.code [] s
    else match (dieOfAddr s .iod (bResult b)).filter (isFenced s) with
      | some n => endService mb mrDone stFenced (2 ^ n) [] s
      | none =>
        match bistError s b with
        | some off => endService mb mrDone stDescInvalid off [] s
        | none => bistStart true mb none b s) s)

/-! ### Findings and repairs, R438, R439 -/

/-- R438: the signature that a block of the run must give. -/
def coreSignature (s : State) (core : Nat) : DWord :=
  if s.hw.badRow.get 64 core < 64 then 0x7B04E92C5A13D6F1 else 0x3D9A61F0C2B74E18
def sigExpected (s : State) (b : List Byte) : DWord :=
  if bKind b != 0 then 0
  else if bDie b < 4 then 0x8E6F13A709DCB254
  else if s.hw.iodGen.toNat = 1 then 0xA2E70C596B41F8D3 else 0x51C8F4E09A263D7B

/-- R435, R439: the findings that a run of its kind can make: WHAT of the kind, a core of its range, no row that a repair already
bypasses, no signature that is the expected one; CORE 0xFFFF stands for the fabric or the I/O die, whose signature is SIG_OBS. -/
def bistFinds (s : State) (b : List Byte) (sigObs : DWord) (f : Finding) : Bool :=
  let c := f.core.toNat
  let tested := c / 96 == bDie b && decide (bFirst b ≤ c % 96 ∧ c % 96 < bFirst b + bCount b)
  match bKind b, f.what with
  | 0, 0 => (tested && f.data != coreSignature s c) || (c == 0xFFFF && f.data == sigObs && sigObs != sigExpected s b)
  | 1, 4 => true
  | 2, 5 => true
  | 3, 1 => tested && f.index.toNat != s.hw.badRow.get 64 c
  | 3, 2 => tested
  | 3, 3 => tested
  | _, _ => false

/-- R439: the values of OUTCOME. -/
def boRepaired : Nat := 0
def boPending : Nat := 1
def boRepairable : Nat := 2
def boUnrepairable : Nat := 3
def boReported : Nat := 4

/-- R439: field fuse entries of a die still free. -/
def fusesFree (s : State) (n : Nat) : Nat := if n < dieCount s then 8 - s.hw.fuseUsed.get 0 n else 0

/-- R439: entries of a die blown since its last reset. -/
def fusesPending (s : State) (n : Nat) : Nat := (s.hw.pendingRow.filter fun (k : Nat × Nat) => k.1 / 96 == n).length

/-- R439: the outcome of a finding among all of its run, the repairs made for it, and the state with its repair made. -/
def judgeFinding (b : List Byte) (all : List Finding) (f : Finding) (s : State) : Nat × Nat × State :=
  let c := f.core.toNat
  let spareIn := decide (s.hw.badRow.get 64 c < 64)
  let rows := (all.filter fun g => g.what == 1 && g.core == f.core).length
  let spareBad := all.any fun g => g.what == 3 && g.core == f.core
  match f.what with
  | 0 => (boReported, 0, s)
  | 1 =>
    if spareIn || decide (1 < rows) || spareBad then (boUnrepairable, 0, s)
    else if !bRepair b then (boRepairable, 0, s)
    else if s.hw.pendingRow.get 0 c = f.index.toNat + 1 then (boPending, 0, s)
    else if s.hw.pendingRow.get 0 c != 0 then (boUnrepairable, 0, s)
    else if fusesFree s (c / 96) = 0 then (boRepairable, 0, s)
    else (boPending, 1, { s with hw := { s.hw with pendingRow := s.hw.pendingRow.put 0 c (f.index.toNat + 1),
                                                   fuseUsed := s.hw.fuseUsed.upd 0 (c / 96) (· + 1) } })
  | 3 => (if spareIn then boUnrepairable else boReported, 0, s)
  | 5 => if !f.spare then (boUnrepairable, 0, s) else if bRepair b then (boRepaired, 1, s) else (boRepairable, 0, s)
  | _ => (boUnrepairable, 0, s)

/-- R440: WHERE of a finding: the die or the stack that the run tests. -/
def findingWhere (b : List Byte) : Nat := if bKind b = 2 then bStack b else bDie b

/-- R440: a fault entry. -/
def faultEntry (b : List Byte) (f : Finding) (outcome : Nat) : List Byte :=
  leBytes 4 (f.what + at' outcome 4 + at' (findingWhere b) 8 + at' f.core.toNat 16) ++ leBytes 4 f.index.toNat ++ leBytes 8 f.data.toNat

/-- R439: every finding judged in the order found: the entries with their outcomes, repairs, and the state. -/
def judgeFindings (b : List Byte) (fs : List Finding) (s : State) : List (Finding × Nat) × Nat × State :=
  fs.foldl (fun (acc : List (Finding × Nat) × Nat × State) f =>
    let (o, n, s1) := judgeFinding b fs f acc.2.2
    (acc.1 ++ [(f, o)], acc.2.1 + n, s1)) ([], 0, s)

/-- R438, R440: the findings of a run in the order found, each once; a fabric or I/O-die signature that is not the expected one is a
finding of the run, the last where its place in the order is not given (log 47). -/
def runFindings (s : State) (b : List Byte) (sigObs : DWord) (given : List Finding) : List Finding :=
  let fs := (given.filter (bistFinds s b sigObs)).eraseDups
  let fabric : Finding := { what := 0, place := bDie b, core := 0xFFFF, index := 0, data := sigObs, spare := false }
  if bKind b = 0 ∧ sigObs ≠ sigExpected s b ∧ !(fs.any fun f => f.core == 0xFFFF) then fs ++ [fabric] else fs

/-- R440: RESULT. -/
def bistVerdict (js : List (Finding × Nat)) : Nat :=
  if js.isEmpty then 0
  else if js.all fun j => decide (j.2 ≤ boPending) then 1 else 2

/-- R440: the header of the result record. -/
def bistHeader (s : State) (b : List Byte) (result repairs entries : Nat) (sigObs : DWord) : List Byte :=
  let left := if bKind b = 2 ∨ bDie b = 4 then 0xFFFF else fusesFree s (bDie b)
  padTo 64 (leBytes 2 (bKind b + at' (bDie b) 4 + at' (bStack b) 8) ++ leBytes 2 result ++ leBytes 4 entries
    ++ leBytes 8 (if bKind b = 0 then sigObs.toNat else 0) ++ leBytes 8 (sigExpected s b).toNat ++ leBytes 8 s.bist.start.toNat
    ++ leBytes 8 s.ft.ft.toNat ++ leBytes 2 repairs ++ leBytes 2 left)

/-- R437: at the end of a run, however it ends, a die that Kindling holds in reset powers its stacks down again, and their contents are
lost. -/
def bistPowerDown (b : List Byte) (s : State) : State :=
  if s.ms.mode == .kindling && (bTarget b).any (· != 0) then
    { s with mem := loseStacks (fun st => (bTarget b) == some (st / 3)) s.mem }
  else s

/-- R437: the memory that a run has tested holds 0 with valid check bits. -/
def bistClear (b : List Byte) (s : State) : State :=
  bistPowerDown b { s with mem := clearPlaces (fun key => bistTests b (keyPlace key)) s.mem }

/-- R440: what asked for the run is told how it ended. -/
def bistReport (x : Bist) (status detail : Nat) (s : State) : State :=
  if x.mailbox then
    if (mailbox s x.mb).state == .serving && decide (x.mb < 16) then endService x.mb mrDone status detail [] s else s
  else match x.ref with
    | some r => finishCopy r .host (Report.of status detail) s
    | none => s

/-- R439 to R441: a run ends: repairs are made, its record is written once, the counters advance and its asker is told. -/
def bistEnd (sigObs : DWord) (findings : List Finding) (s : State) : State :=
  let x := s.bist
  let b := x.body
  let (js, repairs, s1) := judgeFindings b (runFindings s b sigObs findings) s
  let result := bistVerdict js
  let bytes := bistHeader s1 b result repairs js.length sigObs
    ++ (js.take (bMax b)).flatMap fun j => faultEntry b j.1 j.2
  let s2 := bistClear b s1
  let s3 := setBist { x with running := false, result := result, runs := x.runs.add 1,
                             fails := if result = 2 then x.fails.add 1 else x.fails } s2
  let detail := result + at' (hold 0x3FFFFFFF js.length) 2
  let ws := addressed (bResult b) bytes
  let own := x.ref.map fun r => (r, Target.host)
  let s4 := match partBadAt s3 .iod ws with
    | some (a, p) =>
      let (i, s4) := logMemErr a p 1 (if x.mailbox then 7 else 4) 0xFFFF (symbolsAt s3.mem p) (store own false .iod ws s3)
      bistReport x stMemUncorrectable i s4
    | none => bistReport x stOk detail (store own false .iod ws s3)
  wakeCopies (fun d c => d.op == some .bist && c.stage == 1) s4

/-- R437 to R441: the run in progress ends with what it has observed. -/
def execBistRunEnd (sigObs : DWord) (findings : List Finding) (s : State) : Answer :=
  .next (if s.bist.running && inService s then bistEnd sigObs findings s else s)

/-- R429, R56: a run is stopped before its end: it writes no record, and what its tested memory holds is open (log 47). -/
def stopBist (s : State) : State :=
  let x := s.bist
  if !x.running then s else
    let b := x.body
    let s1 := setBist { x with running := false } s
    let k := s1.freeCtr
    if bKind b = 2 then
      let base := (Place.stack (bStack b) (bFrom b)).key
      bistPowerDown b
        { s1 with mem := (List.range (bLength b)).foldl (fun m i => putBytes m [(base + i, BitVec.ofNat 8 (Config.freeAt k i))]) s1.mem,
                  freeCtr := k + 1 }
    else bistPowerDown b s1

end Sys2Proof.Machine
end

