-- ==== Sys2Proof/Machine/States.lean ====
section
/-! DEFINITION. Module states (R20 to R27): power, PERST_N and stops (R411, R423 to R427), full-service entry (R429 to R433),
return to Kindling (R432), Banked (R390), and the return from Fenced (R409). -/

namespace Sys2Proof.Machine

/-! ### What a loss of service leaves -/

/-- R24, R164, R172, R423: the package is without power: memory, descriptors, units and ports hold nothing, and every BAR0 register
has the value that PERST_N gives it. What the management controller keeps stays: the module as built, its inputs, the security
registers, and the model's own fields. -/
def unpower (s : State) : State :=
  { State.reset with
    hw := s.hw, ms := s.ms, pins := s.pins, clk := s.clk, trust := s.trust, out := s.out, freeCtr := s.freeCtr, pending := s.pending,
    mem := { Mem.reset with units := if isM4 s then 1 else 2, effUnits := if isM4 s then 1 else 2 },
    ember := { Ember.reset with logPages := if isM4 s then 954 else 1908, effLogPages := if isM4 s then 954 else 1908 },
    pwr := { Power.reset with cap := if isM4 s then 3600 else 1900, stopCause := s.pwr.stopCause, stopSensor := s.pwr.stopSensor,
                              stopTick := s.pwr.stopTick, inputLow := s.pwr.inputLow, inputHigh := s.pwr.inputHigh } }

/-- R466, R480: what PERST_N resets of the inputs' registers and the mailboxes. -/
def perstPins (s : State) : State :=
  let p := s.pins
  let s1 := { s with pins := { p with oe0 := false, oe1 := false, out0 := false, out1 := false, ftpOe := false, ftpOut := false } }
  setTrust { s1.trust with lock := false, mask := 0x000F, mbs := [], doe := .reset } s1

/-- R458: MCTP requests that are posted or being served are aborted; their replies are sent once MCTP answers again. -/
def abortMctp (s : State) : State :=
  (List.range 16).foldl (fun s m =>
    let x := mailbox s m
    if x.mctp && (x.state == .posted || x.state == .serving) then abortMailbox m s else s) s

/-- R21, R445, R453, R458: entry to Standby from a state other than Off, with its CAUSE. -/
def toStandby (s : State) : State :=
  let s1 := restartMeasure (perstPins (abortMctp s))
  let s2 := setTrust { s1.trust with restarting := true, mctp := .reset } s1
  let s3 := unpower s2
  { s3 with ms := { ModState.reset with mode := .standby, prev := s.ms.mode, cause := causePerst, kindled := s.ms.kindled, entered := s.clk },
            bringup := .reset, jtag := .reset }

/-- R423: a stop; of two causes on one tick CAUSE is COOLANT. Its FAULT leaves on the partner's control stream where the module is linked. -/
def toStopped (cause : Nat) (sensor : BitVec 5) (s : State) : State :=
  if s.ms.mode == .off then s
  else if s.ms.mode == .stopped then
    if cause = causeCoolant ∧ s.ms.cause = causeThermal ∧ s.ms.entered = s.clk then
      { s with ms := { s.ms with cause := cause }, pwr := { s.pwr with stopCause := 1 } }
    else s
  else
    let fault (s : State) : State := if s.yoke.en && linked s then yokeSend ykFault cause s else s
    let s1 := fault s
    let waiting := s1.link.ports.flatMap fun (k : Nat × Port) => (k.2.tx.queue.filter fun q =>
      q.stream == 0x202 && q.arg0 == BitVec.ofNat 32 ykFault).map fun q => (k.1, q)
    let s2 := unpower (match waiting.head? with | some (p, q) => transmit p q s1 | none => s1)
    let ms := { ModState.reset with mode := .stopped, prev := s.ms.mode, cause := cause, kindled := s.ms.kindled,
                                    dieFenced := s.ms.dieFenced, entered := s.clk }
    { s2 with ms := ms, bist := { s2.bist with running := false },
              pwr := { s2.pwr with stopCause := if cause = causeCoolant then 1 else 2, stopSensor := sensor, stopTick := s.ft.ft } }

/-- R21: the input falls below 40 V. -/
def toOff (s : State) : State :=
  if s.ms.mode == .off then s else
    { unpower s with
      ms := { ModState.reset with prev := s.ms.mode, entered := s.clk }, trust := .reset,
      pins := { Pins.reset with perstAsserted := s.pins.perstAsserted, coolantOk := s.pins.coolantOk, boardStraps := s.pins.boardStraps,
                                ftRef := s.pins.ftRef },
      pwr := { Power.reset with cap := if isM4 s then 3600 else 1900 } }

/-! ### Power and reset -/

/-- R21, R425, R442: the input rises into 40 V to 60 V. -/
def execInputInRange (millivolts : Nat) (s : State) : Answer :=
  .next <|
    if millivolts < 40000 ∨ 60000 < millivolts then s
    else
      let s1 := { s with pins := { s.pins with inputMv := millivolts } }
      if s.ms.mode == .off then
        bootMeasure { s1 with ms := { ModState.reset with mode := .standby, prev := .off, cause := causePowerOn, entered := s.clk } }
      else s1

/-- R411, R21: the input is lost. -/
def execInputLoss (millivolts : Nat) (s : State) : Answer :=
  .next (if millivolts < 40000 then { toOff s with pins := { (toOff s).pins with inputMv := millivolts } } else s)

/-- R107, R239, R424, R427, R477: the module leaves Standby: the straps are sampled, FT starts from 0, PWR_STOP reads 0, and the dies
take up every row repair that is fused. -/
def leaveStandby (s : State) : State :=
  let s := (List.range 4).foldl (fun s n => applyFuses n s) s
  { s with ms := { s.ms with trans := .bringUp }, pins := { s.pins with straps := s.pins.boardStraps },
           ft := { FieldTime.reset with refOk := s.pins.ftRef, holdover := !s.pins.ftRef },
           pwr := { s.pwr with stopCause := 0, stopSensor := 0, stopTick := 0 } }

/-- R21, R426: Standby with PERST_N deasserted and COOLANT_OK_N asserted is left at Standby ready. -/
def leaveIfReady (s : State) : State :=
  if s.ms.mode == .standby && s.ms.trans == .none && s.pins.standbyReady && !s.pins.perstAsserted && s.pins.coolantOk then
    leaveStandby s
  else s

/-- R425: Standby ready: the management controller has started and MCTP answers. -/
def execStandbyReady (s : State) : Answer :=
  .next (if s.ms.mode == .off || s.pins.standbyReady then s
    else leaveIfReady { s with pins := { s.pins with standbyReady := true } })

/-- R21, R317, R426, R427: PERST_N is deasserted, with the levels of the straps and of FT_REF. -/
def execPerstNDeassert (straps : BitVec 18) (ftRef : Bool) (s : State) : Answer :=
  .next <|
    leaveIfReady { s with pins := { s.pins with perstAsserted := false, boardStraps := straps, ftRef := ftRef } }

/-- R414, R424: in Kindling CD0 runs at OP0. -/
def kindlingClocks (s : State) : State :=
  { s with pwr := { s.pwr with dies := [(0, { PwrDie.reset with req := 0, eff := 0, mhz := 400, goal := 400, rail := 2400 })] },
           steer := { s.steer with quietMs := 0 } }

/-- R405, R406: the heartbeat of a die that starts is awaited from now on. -/
def startDie (n : Nat) (s : State) : State := setDieLoss n { dieLoss s n with toggled := s.clk, clkOk := true, badSince := none } s

/-- R25, R427, R444: the PCIe link is up: Kindling is entered. -/
def execPcieLinkUp (rate width : Nat) (s : State) : Answer :=
  .next <|
    if s.ms.mode == .standby && s.ms.trans == .bringUp && decide (1 ≤ rate ∧ rate ≤ 4 ∧ 1 ≤ width ∧ width ≤ 4) then
      let cause := if s.ms.kindled then causePerst else causePowerOn
      let s1 := setMode .kindling cause { s with ms := { s.ms with kindled := true },
                                                 bringup := { s.bringup with rate := rate, width := width } }
      extendMeas 5 (sha384 (Config.hwBytes (hwValues s1))) (startDie 0 (linkUp 6 (kindlingClocks s1)))
    else s

/-- R458, R465, R466, R480: PERST_N where it changes no state: it zeroes the mailboxes and the security registers, and the replies of
the MCTP requests that it aborts are sent where MCTP answers. -/
def perstOnly (s : State) : State :=
  let s1 := perstPins (abortMctp s)
  if mctpAnswers s1 then
    s1.trust.owed.foldl (fun s r => sendMctp (.mailboxReply r.1 r.2.1 r.2.2) s) (setTrust { s1.trust with owed := [] } s1)
  else s1

/-- R21, R22, R458: PERST_N is asserted; on the tick of a stop the module stays in Stopped (log 81). In Stopped it leads to Standby
once COOLANT_OK_N is asserted; in Standby it ends the bring-up and the module state does not change. -/
def execPerstNAssert (s : State) : Answer :=
  .next <|
    let s1 := { s with pins := { s.pins with perstAsserted := true } }
    match s.ms.mode with
    | .kindling | .full | .fenced | .banked => toStandby s1
    | .standby =>
      if s.ms.trans == .bringUp then
        let s2 := toStandby s1
        { s2 with ms := { s2.ms with prev := s.ms.prev, cause := s.ms.cause, entered := s.ms.entered } }
      else perstOnly s1
    | .stopped => if s.pins.coolantOk && s.ms.entered != s.clk then toStandby s1 else perstOnly s1
    | .off => s1

/-- R21, R423: COOLANT_OK_N has read deasserted in ten consecutive samples. -/
def execCoolantStop (s : State) : Answer :=
  .next (toStopped causeCoolant 0 { s with pins := { s.pins with coolantOk := false } })

/-- R422, R423: a sensor has read at or above its trip limit in two consecutive samples. -/
def execThermalTrip (sensor : Nat) (s : State) : Answer :=
  .next (if (sensors s).contains sensor then toStopped causeThermal (BitVec.ofNat 5 sensor) s else s)

/-- R21, R426: COOLANT_OK_N has read asserted in ten consecutive samples. -/
def execCoolantOkNAssert (s : State) : Answer :=
  .next <|
    let s1 := { s with pins := { s.pins with coolantOk := true } }
    if s.ms.mode == .stopped && s.pins.perstAsserted then toStandby s1 else leaveIfReady s1

/-! ### Requests -/

/-- R27: a request is rejected. -/
def rejectReq (s : State) : State := { s with ms := { s.ms with reqReject := true } }

/-- R429: every fetched descriptor that is not complete completes with ABORTED, DETAIL = 2. -/
def abortForEntry (s : State) : State :=
  s.descs.foldl (fun s d => if d.finished then s else setOutcome d.ref stAborted 2 none s) s

/-- R429: a self-test by mailbox stops and its reply reports ABORTED. -/
def stopMailboxBist (s : State) : State :=
  let x := s.bist
  let s1 := stopBist s
  if x.running && x.mailbox then bistReport x stAborted 2 s1 else s1

/-- R429: ENTER_FULL in Kindling: full-service training begins. -/
def beginTraining (s : State) : State :=
  let s1 := { s with ms := { s.ms with trans := .training s.clk } }
  portsStart (stopMailboxBist (abortForEntry s1))

/-- R21, R429, R388: a write of ENTER_FULL. A banked member that has never been linked takes nothing over (log 50). -/
def reqFull (s : State) : State :=
  if isBusy s then rejectReq s
  else match s.ms.mode with
    | .kindling => if s.trust.s2Loaded then beginTraining s else rejectReq s
    | .banked =>
      if s.yoke.partner = 2 ∨ s.yoke.partner = 3 then startTakeover causeHostRequest s
      else noteWarnings s (retarget (setMode .full causeHostRequest s))
    | _ => rejectReq s

/-- R433: IOD_BRINGUP.ENTRY_MS of the entry that began at a clock. -/
def entryMs (s : State) (start : Nat) : Nat := hold 1023 ((s.clk - start) / 1000000)

/-- R432: the stacks but stack 0 lose their contents, and every die but CD0 is held in reset. -/
def powerDown (s : State) : State :=
  let m := (([1, 2, 3] : List Nat)).foldl (fun m n => clearSram n m) s.mem
  { s with mem := loseStacks (fun st => st != 0) m }

/-- R429 to R431: the entry fails at a step; the link has been through Recovery, after which doorbells are polled at 200 ns intervals. -/
def trainingFails (start step unit : Nat) (s : State) : State :=
  let resets := (List.range (dieCount s)).filter fun n => 1 < step || n != unit
  let s1 := resets.foldl (fun s n => if n = 0 then resetCd0 true s else resetDie n s) s
  let s2 := powerDown (portsStop s1)
  setPoll 200 <| setMode .kindling causeTrainingFail
    { s2 with bringup := { s2.bringup with failStep := step, failUnit := unit, entryMs := entryMs s2 start,
                                           rate := min 4 s2.bringup.rate, width := min 4 s2.bringup.width } }

/-- R429, R431: a step of the entry fails or overruns its limit. -/
def execEntryStepFail (step unit : Nat) (s : State) : Answer :=
  .next <|
    match s.ms.trans with
    | .training start => if 1 ≤ step ∧ step ≤ 6 then trainingFails start step (unit % 16) s else s
    | _ => s

/-- R414, R417: the dies enter Full service at OP4. -/
def fullClocks (s : State) : State := { s with pwr := { s.pwr with dies := [] }, steer := { s.steer with quietMs := 0 } }

/-- R170, R308, R358, R429 steps 1 to 4: dies are reset and their links trained, the reserved region, the pool and the log's pages
take effect, and the ledgers' totals are set. -/
def trainUnits (s : State) : State :=
  let ns := List.range (dieCount s)
  let s1 := ns.foldl (fun s n => if n = 0 then resetCd0 true s else resetDie n s) s
  let ls := (List.range 10).filter (linkPresent s1)
  let s2 := ns.foldl (fun s n => startDie n s) (ls.foldl (fun s l => linkUp l s) s1)
  let s3 := { s2 with mem := { s2.mem with effUnits := s2.mem.units.toNat },
                      ember := { s2.ember with effLogPages := s2.ember.logPages.toNat } }
  let s4 := poolTakeEffect s3
  let s5 := ledgersFull (poolPages s4 * dieCount s4) s4
  (List.range 16).foldl (fun s p =>
    match (portOf s p).state with
    | .parked | .up => poolOffer p s
    | _ => s) s5

/-- R429 to R431: every step has succeeded: Full service; doorbells are polled at 200 ns intervals again (R430). -/
def trainingDone (start : Nat) (s : State) : State :=
  let s1 := trainUnits (fullClocks s)
  let s2 := setMode .full causeHostRequest <| setPoll 200
    { s1 with bringup := { s1.bringup with failStep := 0, failUnit := 0, entryMs := entryMs s1 start, rate := 7, width := 16 } }
  noteWarnings s (retarget s2)

/-- R297: every port with EN = 1 has settled. -/
def portsSettled (s : State) : Bool :=
  (List.range 16).all fun p =>
    let x := portOf s p
    !x.en || x.state == .parked || x.state == .noPeer || x.state == .failed

/-- R297, R429, R431: the training ends once every port has settled; past 1,000 ms it has failed with FAIL_STEP = TIME. -/
def execFullServiceTrainingDone (s : State) : Answer :=
  .next <|
    match s.ms.trans with
    | .training start => if start + 1000000000 < s.clk then trainingFails start 6 15 s else if portsSettled s then trainingDone start s else s
    | _ => s

/-- R21, R429: a write of ENTER_FULL to IOD_STATE_REQ. -/
def execEnterFull (s : State) : Answer := .next (bar0Write 0x24 1 reqFull s)

/-- R432, R48: descriptors that Kindling does not run complete with ABORTED, DETAIL = 2 (log 49). -/
def abortForKindling (s : State) : State :=
  s.descs.foldl (fun s d =>
    if d.finished || (d.op.map opInKindling).getD true then s else setOutcome d.ref stAborted 2 none s) s

/-- R306, R364: with the ledgers of the links at 0, no channel holds a block or a credit. -/
def poolEmpty (s : State) : State :=
  let p := s.link.pool
  { s with link := { s.link with pool := { p with
      chans := (p.chans.map Prod.fst).foldl (fun (t : Tab PoolCh) c => t.upd .reset c fun x => { x with held := 0, adv := 0 }) p.chans,
      shared := 0, lost := [] } } }

/-- R364, R409, R432: the fences of every die end: flags, receive queues, held entries and held remote requests are dealt with as at
a die's return, while the dies' memory is still mapped as before. -/
def endFences (s : State) : State :=
  let gone := (List.range 4).filter (isFenced s)
  let moved := gone.flatMap fun n => queuesOn s n
  let s1 := gone.foldl (fun s n => (List.range 32).foldl (fun s l => clearFlags n l s) s) s
  let s2 := moved.foldl (fun s q => retakeQueue q s)
    { s1 with ms := { s1.ms with dieFenced := 0 }, ft := { s1.ft with still := [] } }
  if gone.isEmpty then s2 else serveUnwritten (moved.foldl (fun s q => judgeUnwritten q (flushShelf q s)) s2)

/-- R402, R430, R432: what Kindling keeps of links and streams: no port's, no Duest link but CD0's, and a PCIe link no faster than 16.0 GT/s
and no wider than ×4. -/
def kindlingLinks (s : State) : State :=
  let s1 := setPoll 200 { s with yoke := { s.yoke with deposed := false }, streams := { s.streams with raw := [] },
                                 bringup := { s.bringup with rate := min 4 s.bringup.rate, width := min 4 s.bringup.width } }
  (List.range 10).foldl (fun s l => linkIn l 0 s) s1

/-- R432: entry to Kindling from Full service or Fenced. -/
def enterKindling (cd0Returns : Bool) (s : State) : State :=
  let cd0 := isFenced s 0
  let s1 := withdraw (portsStop (abortForKindling s))
  let s2 := if s1.ember.streaming then abandonEpoch s1 else s1
  let s3 := endFences (poolEmpty (ledgersKindling s2))
  let s4 := kindlingLinks (retarget (setMode .kindling causeHostRequest (kindlingClocks (powerDown s3))))
  let s5 := startDie 0 (linkUp 6 (if cd0 then resetDie 0 s4 else s4))
  if cd0 && !cd0Returns then
    let x := dieLoss s5 0
    fenceDies [0] causeDieLoss (fun _ => (x.cause, x.link)) s5
  else s5

/-- R22: a job fault has brought the module to Fenced on this tick. -/
def justFaulted (s : State) : Bool :=
  s.ms.mode == .fenced && s.ms.entered == s.clk && (s.ms.prev == .full || s.ms.prev == .banked)

/-- R21, R22, R27: a write of ENTER_KINDLING. It is carried out at the end of its tick, so that a job fault of that tick leads to Fenced
instead; where the fault has come first, the request is rejected (log 81). -/
def reqKindling (cd0Returns : Bool) (s : State) : State :=
  if isBusy s || justFaulted s then rejectReq s
  else
    let accept (s : State) : State := { s with ms := { s.ms with trans := .toKindling cd0Returns } }
    match s.ms.mode with
    | .full => if anyCtxActive s then rejectReq s else accept s
    | .fenced => accept s
    | _ => rejectReq s

/-- R22, R432: the end of a tick carries out an ENTER_KINDLING that was accepted in it. -/
def endRequest (s : State) : State :=
  match s.ms.trans with
  | .toKindling back => enterKindling back s
  | _ => s

/-- R21, R432: a write of ENTER_KINDLING to IOD_STATE_REQ; `cd0Returns` says whether a fenced CD0 comes back within 20 ms. -/
def execEnterKindling (cd0Returns : Bool) (s : State) : Answer := .next (bar0Write 0x24 2 (reqKindling cd0Returns) s)

/-- R21, R390: a write of ENTER_BANKED. -/
def reqBanked (s : State) : State :=
  if !isBusy s && s.ms.mode == .full && strapYokeEn s && !anyCtxActive s then
    setMode .banked causeHostRequest (setYoke { s.yoke with deposed := false, stage := .none } s)
  else rejectReq s

/-- R21: a write of ENTER_BANKED to IOD_STATE_REQ. -/
def execEnterBanked (s : State) : Answer := .next (bar0Write 0x24 3 reqBanked s)

/-- R21, R409: a write of CLEAR_FENCE: the fenced dies are reset and their links retrained; with none fenced the module enters Full service. -/
def reqClearFence (s : State) : State :=
  if isBusy s || s.ms.mode != .fenced || anyCtxActive s then rejectReq s
  else if s.ms.dieFenced = 0 then portsStart (noteWarnings s (retarget (setMode .full causeHostRequest s)))
  else
    let s1 := { s with ms := { s.ms with trans := .dieReturn s.ms.dieFenced s.clk } }
    (linksOf s1 s.ms.dieFenced.toNat).foldl (fun s l => linkIn l 1 s) s1

/-- R21, R409: a write of CLEAR_FENCE to IOD_STATE_REQ. -/
def execClearFence (s : State) : Answer := .next (bar0Write 0x24 4 reqClearFence s)

/-- R409: at the end of a return, a link of a die that stays fenced: FAILED where its fault is permanent, else as it is found (log 41). -/
def linkLeft (l : Nat) (s : State) : State :=
  if (duestLink s l).permanent then linkIn l 3 s else
    let (k, s1) := choose 3 s
    linkIn l (k + 1) s1

/-- R409: the return of the fenced dies has ended: those named have come back. -/
def diesReturn (dies returned : BitVec 4) (s : State) : State :=
  let back := (List.range 4).filter fun n => bitOf (dies &&& returned).toNat n
  let left := linksOf s (dies &&& ~~~returned).toNat
  let s1 := left.foldl (fun s l => linkLeft l s) (back.foldl (fun s n => returnDie n (setPwrDie n .reset s)) s)
  if s1.ms.dieFenced = 0 then portsStart (noteWarnings s1 (retarget (setMode .full causeHostRequest s1))) else setMode .fenced causeTrainingFail s1

/-- R21, R409: the resets and the retraining of the fenced dies have ended; past 250 ms none has returned. -/
def execDieReturnDone (returned : BitVec 4) (s : State) : Answer :=
  .next <|
    match s.ms.trans with
    | .dieReturn dies start => diesReturn dies (if start + 250000000 < s.clk then 0 else returned) s
    | _ => s

/-- R27: a write of IOD_STATE_REQ; REQ = 0 requests nothing. -/
def writeStateReq (v : Word) (cd0Returns : Bool) (s : State) : State :=
  match bitsOf v.toNat 0 3 with
  | 0 => s
  | 1 => reqFull s
  | 2 => reqKindling cd0Returns s
  | 3 => reqBanked s
  | 4 => reqClearFence s
  | _ => rejectReq s

end Sys2Proof.Machine
end

