-- ==== Sys2Proof/Machine/Registers.lean ====
section
/-! DEFINITION. BAR0 (R10, R11, R489, R490): what every register reads and what a write of it does, by block, with writes of 4 and
8 bytes, and the commands that write registers without behaviour of their own. -/

namespace Sys2Proof.Machine

/-- One register as BAR0 shows it: its width, the value it reads, the bits that a write of 1 clears, and what a write of its whole
width does. -/
structure Reg where
  wide : Bool
  value : Nat
  clears : Nat
  write : DWord → State → State

/-- R10: registers of 32 and of 64 bits: read-only, and with a write. -/
def ro (n : Nat) : Reg := { wide := false, value := n, clears := 0, write := fun _ s => s }
def ro64 (n : Nat) : Reg := { wide := true, value := n, clears := 0, write := fun _ s => s }
def rw (n : Nat) (f : Word → State → State) : Reg := { wide := false, value := n, clears := 0, write := fun v s => f (v.setWidth 32) s }
def rw64 (n : Nat) (f : DWord → State → State) : Reg := { wide := true, value := n, clears := 0, write := f }

/-- R14: a statistics counter, and a register of wrap counts, lowest first. -/
def statReg (c : Stat) : Reg := ro64 c.count.toNat
def wrapsOf (cs : List Stat) : Nat := (cs.zipIdx.map fun (c, i) => at' c.wraps.toNat (16 * i)).sum
def wrapsReg (cs : List Stat) : Reg := ro64 (wrapsOf cs)

/-- A register of an array: index and offset within an element, where the offset lies in it. -/
def slot (o base stride n : Nat) : Option (Nat × Nat) :=
  if base ≤ o ∧ o < base + stride * n then some ((o - base) / stride, (o - base) % stride) else none

/-! ### IOD_ -/

/-- R25, R27, R491. -/
def idReg (s : State) (o : Nat) : Option Reg :=
  match o with
  | 0x00 => some (ro (iodCap s))
  | 0x08 => some (ro64 s.hw.serial.toNat)
  | 0x10 => some (ro (s.hw.stepIod.toNat + at' s.hw.stepCd.toNat 8 + at' s.hw.board.toNat 16))
  | 0x20 => some (rw (iodState s) fun v s => if v.getLsbD 14 then { s with ms := { s.ms with reqReject := false } } else s)
  | 0x24 => some (rw 0 fun v s =>
      if bitsOf v.toNat 0 3 = 2 then let (k, s1) := choose 2 s; writeStateReq v (k == 1) s1 else writeStateReq v true s)
  | 0x30 => some (rw (bit s.wdog.en + at' s.wdog.timeoutMs.toNat 8) writeWdog)
  | _ => none

/-- R30: IOD_POLL and IOD_STATUS_CFG. -/
def writePoll (v : Word) (s : State) : State :=
  { s with host := { s.host with maxNs := BitVec.ofNat 20 (min 1000000 (max 200 (v.toNat % 2 ^ 20))) } }
def writeStatusCfg (v : Word) (s : State) : State :=
  { s with host := { s.host with statusEn := v.getLsbD 0, minUs := BitVec.ofNat 10 (min 1000 (max 1 (bitsOf v.toNat 1 10))) } }

/-- R45: a ring's next descriptor waits for its launch tick or for WAIT_PREV, or one of its descriptors is parked. -/
def ringBlocked (s : State) (n : Nat) : Bool :=
  ringParked s n ||
    (match nextOf s n with
     | some d => (hWaitPrev d.bytes && earlierOpen s d.ref)
         || (hSown d.bytes && !d.replayed && decide (s.ft.ft.toNat < (hLaunch d.bytes).toNat))
     | none => false)

/-- R29, R30: a submission ring. -/
def sringReg (s : State) (n o : Nat) : Option Reg :=
  let r := sring s n
  match o with
  | 0x00 => some (rw64 r.addr.toNat (writeSring n .addr))
  | 0x08 => some (rw (bit r.en + at' r.log2.toNat 1 + at' r.prio.toNat 6 + at' r.ctx.toNat 16 + at' r.errCring.toNat 24)
      fun v => writeSring n .cfg (v.setWidth 64))
  | 0x0C => some (rw r.fetch.toNat fun v => writeSring n .head (v.setWidth 64))
  | 0x10 => some (rw (bit r.err + at' r.errCode.toNat 1 + at' (bit (ringBlocked s n)) 4 + at' (bit (isFetching s n)) 5)
      fun v => writeSring n .status (v.setWidth 64))
  | _ => none

/-- R29, R30: a completion ring. -/
def cringReg (s : State) (n o : Nat) : Option Reg :=
  let r := cring s n
  match o with
  | 0x00 => some (rw64 r.addr.toNat fun v s =>
      if (cring s n).en then s else setCring n { cring s n with addr := v &&& ~~~0xFFF } s)
  | 0x08 => some (rw (bit r.en + at' r.log2.toNat 1 + at' (bit r.irqEn) 6 + at' r.modUs.toNat 8) (writeCringCfg n))
  | _ => none

/-- R29, R53: a context. -/
def ctxReg (s : State) (n o : Nat) : Option Reg :=
  let c := ctxOf s n
  match o with
  | 0x00 => some (rw (bit c.carried + at' (bit c.restore) 1 + at' c.base.toNat 4 + at' c.count.toNat 16) (writeCtxCfg n))
  | 0x04 => some (rw c.lines.toNat (writeCtxBar n))
  | 0x08 => some (rw64 c.save.toNat (writeCtxSave n))
  | 0x10 => some (ro (ctxStatus s n))
  | _ => none

/-- R29, R30, R53: IOD_ 0x1_0000 to 0x1_3FFF. -/
def hostReg (s : State) (o : Nat) : Option Reg :=
  let h := s.host
  match o with
  | 0x10000 => some (rw64 h.dbAddr.toNat fun v s => { s with host := { s.host with dbAddr := v &&& ~~~0x1FF } })
  | 0x10008 => some (rw64 h.statusAddr.toNat fun v s => { s with host := { s.host with statusAddr := v &&& ~~~0xFFF } })
  | 0x10010 => some (rw h.maxNs.toNat writePoll)
  | 0x10014 => some (rw (bit h.statusEn + at' h.minUs.toNat 1) writeStatusCfg)
  | 0x10018 => some (rw 0 writeCtxCmd)
  | _ =>
    match slot o 0x11000 0x20 64, slot o 0x12000 0x10 64, slot o 0x13000 0x20 16 with
    | some (n, r), _, _ => sringReg s n r
    | _, some (n, r), _ => cringReg s n r
    | _, _, some (n, r) => ctxReg s n r
    | _, _, _ => none

/-- R183: a slot of the memory error log. -/
def memErrReg (e : MemErr) (o : Nat) : Option Reg :=
  match o with
  | 0x00 => some (ro64 e.addr.toNat)
  | 0x08 => some (ro64 e.tick.toNat)
  | 0x10 => some (ro64 (e.index.toNat + at' e.mem 32 + at' e.place 36 + at' e.source 40 + at' e.unit 44 + at' e.core.toNat 48))
  | 0x18 => some (ro64 e.symbols.toNat)
  | _ => none

/-- R169: a write of IOD_MEM_RESV. -/
def writeMemResv (v : Word) (s : State) : State :=
  let u := bitsOf v.toNat 0 5
  if s.ms.mode == .kindling && decide (1 ≤ u ∧ u ≤ 16) then { s with mem := { s.mem with units := BitVec.ofNat 5 u } } else s

/-- A counter and, 8 bytes on, its wrap count. -/
def statPair (c : Stat) (o : Nat) : Option Reg :=
  match o with
  | 0 => some (statReg c)
  | 8 => some (wrapsReg [c])
  | _ => none

/-- R169, R174, R183, R184: IOD_ 0x2_0000 to 0x2_113F. -/
def memReg (s : State) (o : Nat) : Option Reg :=
  let m := s.mem
  match o with
  | 0x20000 => some (rw64 (at' m.bar2Base.toNat 34) fun v s => { s with mem := { s.mem with bar2Base := (v >>> 34).setWidth 10 } })
  | 0x20008 => some (ro m.errCount.toNat)
  | 0x20010 => some (rw m.units.toNat writeMemResv)
  | _ =>
    match slot o 0x20100 0x20 64, slot o 0x21000 0x10 (stackCount s), slot o 0x21100 0x10 (dieCount s) with
    | some (j, r), _, _ => memErrReg (m.errLog.get .reset j) r
    | _, some (n, r), _ => statPair (m.ceStack.get .reset n) r
    | _, _, some (n, r) => statPair (m.ceSram.get .reset n) r
    | _, _, _ => none

/-- R269: IOD_BAR_PART, IOD_BAR_STATE and IOD_BAR_CLEARED of a line. -/
def lineReg (s : State) (l o : Nat) : Option Reg :=
  let x := lineOf s l
  match o with
  | 0x0 => some (rw x.targets.toNat (writeIodBarPart l))
  | 0x4 => some (ro (bit x.gen + at' x.arrived.length 1 + at' x.latched.length 10))
  | 0x8 => some (ro x.cleared.toNat)
  | _ => none

/-- R276: a send channel. -/
def sqtxReg (s : State) (n o : Nat) : Option Reg :=
  let x := sqTx s n
  match o with
  | 0x00 => some (rw (bit x.en + at' x.vc 1 + at' x.ctx.toNat 4 + at' x.destQ.toNat 8 + at' x.destPos.toNat 16) (writeSqtxCfg n))
  | 0x04 => some (ro (x.credits + at' (bit x.granted) 11 + at' x.units 12))
  | 0x08 => some (ro x.next.toNat)
  | 0x10 => some (statReg x.stall)
  | 0x18 => some (wrapsReg [x.stall])
  | _ => none

/-- R277: a receive queue. -/
def sqrxReg (s : State) (q o : Nat) : Option Reg :=
  let x := sqRx s q
  match o with
  | 0x00 => some (rw (bit x.en + at' x.ctx.toNat 4 + at' x.srcPos.toNat 16) (writeSqrxCfg q))
  | 0x04 => some (rw (x.depth.toNat + at' x.units.toNat 16) (writeSqrxGeom q))
  | 0x08 => some (rw64 x.base.toNat (writeSqrxBase q))
  | 0x10 => some (rw x.staleUs.toNat (writeSqrxStale q))
  | 0x14 => some (ro (x.entries.length + at' x.err 11 + at' x.flushed.toNat 16))
  | 0x18 => some (ro x.expect.toNat)
  | 0x20 => some (statReg x.starve)
  | 0x28 => some (statReg x.staleCnt)
  | 0x30 => some (statReg x.dup)
  | 0x38 => some (wrapsReg [x.starve, x.staleCnt, x.dup])
  | _ => none

/-- R262, R269, R276, R277: IOD_ 0x4_0000 to 0x4_AFFF. -/
def syncReg (s : State) (o : Nat) : Option Reg :=
  match slot o 0x40000 4 4096, slot o 0x44000 0x10 32, slot o 0x48000 0x20 64, slot o 0x4A000 0x40 64 with
  | some (i, 0), _, _, _ => some (ro (tally s i).toNat)
  | _, some (l, r), _, _ => lineReg s l r
  | _, _, some (n, r), _ => sqtxReg s n r
  | _, _, _, some (q, r) => sqrxReg s q r
  | _, _, _, _ => none

/-- R337: the values of IOD_COLL_LAST. -/
def collLast (s : State) : Nat :=
  s.lag.lastPeer.toNat + at' (bit s.lag.lastSide) 14 + at' (bit s.lag.lastValid) 15 + at' s.lag.lastMargin.toNat 16

def dieLate (s : State) (n : Nat) : Stat := s.lag.dieLate.get .reset n
def ringLate (s : State) (n : Nat) : Stat := s.lag.ringLate.get .reset n

/-- R337: IOD_ 0x5_0000 to 0x5_037F. -/
def lagReg (s : State) (o : Nat) : Option Reg :=
  match o with
  | 0x50000 => some (statReg s.lag.collWait)
  | 0x50008 => some (ro64 (collLast s))
  | 0x50010 => some (wrapsReg [s.lag.collWait, dieLate s 0, dieLate s 1, dieLate s 2])
  | 0x50018 => some (wrapsReg [dieLate s 3])
  | _ =>
    match slot o 0x50020 8 (dieCount s), slot o 0x50100 8 64, slot o 0x50300 8 16 with
    | some (n, 0), _, _ => some (statReg (dieLate s n))
    | _, some (n, 0), _ => some (statReg (ringLate s n))
    | _, _, some (m, 0) => some (wrapsReg ((List.range 4).map fun i => ringLate s (4 * m + i)))
    | _, _, _ => none

/-- R410: a Duest link. -/
def duestReg (s : State) (l o : Nat) : Option Reg :=
  let x := duestLink s l
  if !linkPresent s l then none
  else match o with
    | 0x00 => some (ro (x.state + at' x.version 2 + at' (bit x.permanent) 4))
    | 0x08 => some (statReg x.crc)
    | 0x10 => some (statReg x.replay)
    | 0x18 => some (wrapsReg [x.crc, x.replay])
    | _ => none

/-- R410: IOD_ 0x6_0000 to 0x6_044F; whether a fenced CD0 comes back is a free choice here. -/
def dieReg (s : State) (o : Nat) : Option Reg :=
  match o with
  | 0x60400 => some (rw s.duest.timeoutUs writeDuestCfg)
  | 0x60408 => some (rw 0 fun v s => let (k, s1) := choose 2 s; writeDieCtrl v (k == 1) s1)
  | _ =>
    match slot o 0x60000 0x40 10, slot o 0x60410 0x10 (dieCount s) with
    | some (l, r), _ => duestReg s l r
    | _, some (n, 0) => some (ro ((dieLoss s n).cause + at' (dieLoss s n).link 2))
    | _, some (n, 8) => some (ro64 (dieLoss s n).tick.toNat)
    | _, _ => none

/-- R433: IOD_BRINGUP. -/
def bringupReg (s : State) : Nat :=
  let b := s.bringup
  b.failStep + at' b.failUnit 3 + at' b.entryMs 8 + at' b.rate 18 + at' b.width 21

/-- R433, R479, R480: IOD_ 0x7_0000 to 0x7_1013. -/
def boardReg (s : State) (o : Nat) : Option Reg :=
  match o with
  | 0x70000 => some (ro (bringupReg s))
  | 0x71000 => some (rw (gpioReg s) writeGpio)
  | 0x71010 => some (ro s.pins.straps.toNat)
  | _ => none

/-- R490: the IOD_ block. -/
def iodReg (s : State) (o : Nat) : Option Reg :=
  match o / 0x10000 with
  | 0 => idReg s o
  | 1 => hostReg s o
  | 2 => memReg s o
  | 4 => syncReg s o
  | 5 => lagReg s o
  | 6 => dieReg s o
  | 7 => boardReg s o
  | _ => none

/-! ### PCIE_, FT_, ZB_, POOL_ -/

/-- R61, R488: the MSI-X table, laid out as PCI Express lays it out (log 7). -/
def msixReg (s : State) (v o : Nat) : Option Reg :=
  let e := msixEntry s v
  match o with
  | 0x0 => some (rw64 e.addr.toNat fun x s => setMsix v { msixEntry s v with addr := x &&& ~~~3 } s)
  | 0x8 => some (rw e.data.toNat fun x s => setMsix v { msixEntry s v with data := x } s)
  | 0xC => some (rw (bit e.masked) fun x s =>
      if x.getLsbD 0 then setMsix v { msixEntry s v with masked := true } s else unmask v s)
  | _ => none

/-- R61: 64 bits of the pending-bit array. -/
def pendingBits (s : State) (w : Nat) : Nat :=
  ((List.range 64).map fun i => if (msixEntry s (64 * w + i)).pending then 2 ^ i else 0).sum

/-- R488: the PCIE_ block. -/
def pcieReg (s : State) (o : Nat) : Option Reg :=
  match slot o 0 0x10 256, slot o 0x1000 8 4 with
  | some (v, r), _ => msixReg s v r
  | _, some (w, 0) => some (ro64 (pendingBits s w))
  | _, _ => none

/-- R261: FT_STATUS. -/
def ftStatus (s : State) : Nat :=
  let f := s.ft
  bit f.refOk + at' (bit f.aligned) 1 + at' (bit f.holdover) 2 + at' (bit (skewAlarm s)) 3 + at' (bit f.epochMiss) 4
    + at' (bit f.loadDone) 5

/-- R261: a write of FT_CFG; the new SKEW_LIMIT judges the ports' offsets. -/
def writeFtCfg (v : Word) (s : State) : State :=
  rejudgeSkew (setFt { s.ft with headland := v.setWidth 8, slotGuard := (v >>> 8).setWidth 8, skewLimit := (v >>> 16).setWidth 8 } s)

/-- R261: a write of FT_STATUS. -/
def writeFtStatus (v : Word) (s : State) : State :=
  setFt { s.ft with epochMiss := s.ft.epochMiss && !v.getLsbD 4, loadDone := s.ft.loadDone && !v.getLsbD 5 } s

/-- R261: FT_PORT_TIME of a port. -/
def portTimeReg (x : PortTime) : Nat :=
  x.offset.toNat + at' x.delay.toNat 32 + at' (bit x.valid) 48 + at' (bit x.beyond) 49

/-- R256: a write of a plan's register other than FT_PLAN_CTRL. -/
def planWrite (b : Nat) (f : Plan → Plan) (s : State) : State := if (planOf s b).en then s else setPlan b (f (planOf s b)) s

/-- R261: the registers of a plan. -/
def planReg (s : State) (b o : Nat) : Option Reg :=
  let p := planOf s b
  match o with
  | 0x00 => some (rw64 p.addr.toNat fun v => planWrite b fun p => { p with addr := v.setWidth 44 &&& ~~~0x3F })
  | 0x08 => some (rw64 p.start.toNat fun v => planWrite b fun p => { p with start := v })
  | 0x10 => some (rw p.len.toNat fun v => planWrite b fun p => { p with len := v })
  | 0x14 => some (rw p.period.toNat fun v => planWrite b fun p => { p with period := v })
  | 0x18 => some (rw (bit p.en + at' p.err 1 + at' p.errEntry 4 + at' (bit (s.ft.governs == some b)) 16) (writePlanCtrl b))
  | _ => none

/-- R261: the FT_ block. -/
def ftReg (s : State) (o : Nat) : Option Reg :=
  let f := s.ft
  match o with
  | 0x00 => some (ro64 f.ft.toNat)
  | 0x08 => some (rw (f.headland.toNat + at' f.slotGuard.toNat 8 + at' f.skewLimit.toNat 16) writeFtCfg)
  | 0x0C => some (rw (bit f.arm) writeFtCtrl)
  | 0x10 => some (rw64 f.load.toNat writeFtLoad)
  | 0x18 => some (rw (ftStatus s) writeFtStatus)
  | 0x1C => some (ro f.epochErr.toNat)
  | 0x20 => some (rw (bit f.outEn + at' (bit f.outSrc) 1) writeFtOutCfg)
  | 0x28 => some (statReg f.lateCount)
  | 0x30 => some (rw f.lateMax.toNat fun v s => setFt { s.ft with lateMax := v } s)
  | 0x38 => some (statReg f.headCount)
  | 0x40 => some (statReg f.collide)
  | 0x48 => some (wrapsReg [f.lateCount, f.headCount, f.collide])
  | _ =>
    match slot o 0x100 8 16, slot o 0x200 0x40 2 with
    | some (p, 0), _ => some (ro64 (portTimeReg (portTime s p)))
    | _, some (b, r) => planReg s b r
    | _, _ => none

/-- R315: a write of ZB_PORT_CFG. -/
def writePortCfg (p : Nat) (v : Word) (s : State) : State :=
  if !v.getLsbD 0 then disablePort p s
  else
    let s1 := if (portOf s p).en then s else enablePort p s
    if v.getLsbD 1 then retrainPort p s1 else s1

/-- R315: ZB_PEER. -/
def peerReg (x : Port) : Nat :=
  match x.peer with
  | none => 0
  | some h => h.position.toNat + at' (bit h.side) 14 + at' (bit h.yokeEn) 15 + at' h.port.toNat 16 + at' h.kindDev.toNat 24
      + at' h.role.toNat 26 + at' (bit h.variant) 28 + at' h.iodGen.toNat 29 + at' (bit x.peerValid) 31

/-- R315: the registers of a port. -/
def portReg (s : State) (p o : Nat) : Option Reg :=
  let x := portOf s p
  let c := x.stats
  match o with
  | 0x00 => some (rw (bit x.en) (writePortCfg p))
  | 0x04 => some (ro (x.state.code + at' x.cause 3 + at' x.laneLock.toNat 7 + at' (bit (carriedElsewhere s p)) 15))
  | 0x08 => some (ro (peerReg x))
  | 0x10 => some (statReg c.cwCorr)
  | 0x18 => some (statReg c.cwUncorr)
  | 0x20 => some (statReg c.crcFail)
  | 0x28 => some (statReg c.replay)
  | 0x30 => some (statReg c.retrain)
  | 0x38 => some (statReg c.txBytes)
  | 0x40 => some (statReg c.rxBytes)
  | 0x48 => some (statReg c.creditStall)
  | 0x50 => some (wrapsReg [c.cwCorr, c.cwUncorr, c.crcFail, c.replay])
  | 0x58 => some (wrapsReg [c.retrain, c.txBytes, c.rxBytes, c.creditStall])
  | _ =>
    match slot o 0x60 4 8 with
    | some (v, 0) => some (ro (x.tx.credits.get 0 v))
    | _ => none

/-- R316: ZB_UNDELIV_LOG. -/
def undelivReg (s : State) : Nat :=
  let l := s.link
  l.logSrcPos.toNat + at' (bit l.logSrcSide) 14 + at' (bit l.logValid) 15 + at' l.logType.toNat 16 + at' l.logReason.toNat 20
    + at' l.logStream.toNat 32

/-- R323: ZB_ADMIT_STATUS. -/
def admitStatus (s : State) : Nat :=
  let a := s.adm
  a.state + at' a.reason 2 + at' a.port 6 + at' (bit a.degraded) 10 + at' (bit a.admitted) 11 + at' (strapPos s) 16
    + at' (bit (strapYokeEn s)) 30

/-- R319, R323: ZB_PORT_MATCH. -/
def portMatchReg (s : State) : Nat := ((List.range 16).map fun p => if matchesNow s p then 2 ^ p else 0).sum

/-- R315, R316, R323: the ZB_ block. -/
def zbReg (s : State) (o : Nat) : Option Reg :=
  match o with
  | 0x2000 => some (statReg s.link.dup)
  | 0x2008 => some (statReg s.link.undeliv)
  | 0x2010 => some (wrapsReg [s.link.dup, s.link.undeliv])
  | 0x2018 =>
    let clear (v : DWord) (s : State) : State :=
      if v.getLsbD 15 then { s with link := { s.link with logValid := false } } else s
    some { wide := true, value := undelivReg s, clears := 0x8000, write := clear }
  | 0x2020 => some (ro (outstanding s))
  | 0x3000 => some (rw64 s.adm.manifestAddr.toNat fun v s =>
      if s.adm.state = 1 then s else setAdmit { s.adm with manifestAddr := v.setWidth 44 &&& ~~~0x3F } s)
  | 0x3008 => some (rw 0 writeAdmit)
  | 0x300C => some (ro (admitStatus s))
  | 0x3010 => some (ro (portMatchReg s))
  | _ =>
    match slot o 0 0x200 16 with
    | some (p, r) => portReg s p r
    | none => none

/-- R308: the sum of the reserves that are written. -/
def reserveSum (s : State) : Nat := ((List.range 128).map fun c => (poolCh s c).reserve.toNat).sum

/-- R308: a write of POOL_CH_CFG. -/
def writePoolCh (c : Nat) (v : DWord) (s : State) : State :=
  let r := bitsOf v.toNat 0 20
  let m := bitsOf v.toNat 20 20
  let x := poolCh s c
  if s.ms.mode != .kindling || decide (r < 17) || decide (m < r)
      || decide (poolBlocks < windowBlocks + (reserveSum s - x.reserve.toNat + r) + s.link.pool.blocks.toNat) then s
  else setPoolCh c { x with reserve := BitVec.ofNat 20 r, max := BitVec.ofNat 20 m } s

/-- R308, R494: a write of POOL_RESV: an enable written 0 releases the hold-back, and one set requests it; both set together are
decided as a displacement. -/
def writePoolResv (v : Word) (s : State) : State :=
  let b := bitsOf v.toNat 0 20
  if s.ms.mode != .kindling || decide (poolBlocks < windowBlocks + reserveSum s + b) then s
  else
    let wl := v.getLsbD 20
    let we := v.getLsbD 21
    let p := s.link.pool
    let put (x : Pool) (s : State) : State := { s with link := { s.link with pool := x } }
    let p1 := { p with blocks := BitVec.ofNat 20 b, linksEn := p.linksEn && wl, emberEn := p.emberEn && we }
    if we && !p1.emberEn then claimHigh 3 (put { p1 with linksEn := wl } s)
    else if wl && !p1.linksEn then claimLow 3 (fun s => put { s.link.pool with linksEn := true } s) (put p1 s)
    else put p1 s

/-- R308: POOL_RESV. -/
def poolResv (s : State) : Nat :=
  s.link.pool.blocks.toNat + at' (bit s.link.pool.linksEn) 20 + at' (bit s.link.pool.emberEn) 21

/-- R308: the POOL_ block. -/
def poolReg (s : State) (o : Nat) : Option Reg :=
  match o with
  | 0x800 => some (rw (poolResv s) writePoolResv)
  | 0x804 => some (ro s.link.pool.shared)
  | 0x808 => some (ro poolBlocks)
  | _ =>
    match slot o 0 8 128, slot o 0x400 8 128 with
    | some (c, 0), _ => some (rw64 ((poolCh s c).reserve.toNat + at' (poolCh s c).max.toNat 20) (writePoolCh c))
    | _, some (c, 0) => some (ro64 ((poolCh s c).held + at' (poolCh s c).adv 20))
    | _, _ => none

/-! ### LG_, PWR_, SEC_, BIST_, HE_ -/

/-- R368: the registers of a ledger. -/
def ledgerReg (s : State) (d o : Nat) : Option Reg :=
  let x := lgDom s d
  match o with
  | 0x00 => some (ro x.total)
  | 0x04 => some (ro x.free)
  | 0x08 => some (ro x.held)
  | 0x0C => some (ro x.lent)
  | 0x10 => some (ro (x.reclaimed + at' x.dies 28))
  | 0x14 => some (rw x.high.toNat fun v s => updLgDom d (fun x => { x with high := v }) s)
  | 0x18 => some (statReg x.moved)
  | 0x20 => some (wrapsReg [x.moved])
  | _ => none

def setLedger (l : Ledger) (s : State) : State := { s with lg := l }

/-- R368: the LG_ block. -/
def lgReg (s : State) (o : Nat) : Option Reg :=
  let l := s.lg
  match o with
  | 0x200 => some (statReg l.audits)
  | 0x208 => some (wrapsReg [l.audits])
  | 0x210 => some (rw (l.faultDomain + at' l.faultKind 4 + at' (bit l.faultValid) 7 + at' l.faultHolder 8)
      fun v s => if v.getLsbD 7 then setLedger { s.lg with faultValid := false } s else s)
  | 0x218 => some (ro64 l.faultTick.toNat)
  | 0x220 => some (ro l.faultCount.toNat)
  | 0x240 => some (rw64 l.snapAddr.toNat fun v s =>
      if s.lg.snapArm then s else setLedger { s.lg with snapAddr := v.setWidth 44 &&& ~~~0x3F } s)
  | 0x248 => some (rw64 l.snapTick.toNat fun v s => if s.lg.snapArm then s else setLedger { s.lg with snapTick := v } s)
  | 0x250 => some (rw (bit l.snapArm + at' (bit l.snapDone) 2 + at' (bit l.snapLate) 3 + at' (bit l.snapMismatch) 4) writeSnapCtrl)
  | 0x254 => some (ro l.snapSeq.toNat)
  | _ =>
    match slot o 0 0x40 8 with
    | some (d, r) => ledgerReg s d r
    | none => none

/-- R424: PWR_OP of a die. -/
def opReg (s : State) (n : Nat) : Nat :=
  let x := pwrDie s n
  x.req + at' x.eff 3 + at' s.pwr.capCeil 6 + at' s.pwr.thermCeil 9 + at' (x.share + 3).toNat 12 + at' (bit (pwrWalks s n)) 15 + at' x.mhz 16

/-- R424: PWR_STATUS. -/
def pwrStatus (p : Power) : Nat :=
  bit p.inputLow + at' (bit p.inputHigh) 1 + at' (bit p.throttleCap) 2 + at' (bit p.capUnmet) 3 + at' (bit p.warnTemp) 4
    + at' (bit p.throttleTherm) 5

def droopStat (s : State) (n : Nat) : Stat := s.pwr.droop.get .reset n

/-- R424: the PWR_ block. -/
def pwrReg (s : State) (o : Nat) : Option Reg :=
  let p := s.pwr
  match o with
  | 0x00 => some (rw p.cap.toNat writePwrCap)
  | 0x04 => some (rw (bit p.steerEn + at' (bit p.seqEn) 1 + at' p.steerMin.toNat 16) writePwrCfg)
  | 0x20 => some (ro (pwrStatus p))
  | 0x24 => some (ro (p.mv.toNat + at' p.watts.toNat 16))
  | 0x80 => some (statReg p.capSteps)
  | 0x88 => some (statReg p.thermSteps)
  | 0xB0 => some (wrapsReg [p.capSteps, p.thermSteps])
  | 0xB8 => some (wrapsReg ((List.range 4).map (droopStat s)))
  | 0xC0 => some (ro (p.stopCause.toNat + at' p.stopSensor.toNat 2))
  | 0xC8 => some (ro64 p.stopTick.toNat)
  | _ =>
    match slot o 0x10 4 (dieCount s), slot o 0x90 8 (dieCount s), slot o 0x100 4 8, slot o 0x180 4 17 with
    | some (n, 0), _, _, _ => some (ro (opReg s n))
    | _, some (n, 0), _, _ => some (statReg (droopStat s n))
    | _, _, some (q, 0), _ => some (rw (p.phases.get 4 q).toNat fun v s =>
        setPwr { s.pwr with phases := s.pwr.phases.put 4 q (v.setWidth 3) } s)
    | _, _, _, some (i, 0) => if (sensors s).contains i then some (ro (p.temps.get 0 i).toNat) else none
    | _, _, _, _ => none

/-- R465: the SEC_ block. -/
def secReg (s : State) (o : Nat) : Option Reg :=
  let t := s.trust
  match o with
  | 0x00 => some (rw (bit t.lock) writeLock)
  | 0x04 => some (ro (fwStatus s))
  | 0x08 => some (ro64 (fwVersion s))
  | 0x10 => some (rw t.mask.toNat writeMbCfg)
  | 0x18 => some (ro64 ((List.range 7).map fun i => at' (t.counts.get 0 i) (8 * i)).sum)
  | _ =>
    match slot o 0x100 0x40 7 with
    | some (i, r) => if r < 48 ∧ r % 4 = 0 then some (ro (leNat (((measOf s i).drop r).take 4))) else none
    | none => none

/-- R441: BIST_STATUS. -/
def bistStatus (b : Bist) : Nat :=
  bit b.running + at' (bit b.mailbox) 1 + at' b.kind 2 + at' b.die 6 + at' b.stack 9 + at' b.result 13

/-- R441: the BIST_ block. -/
def bistReg (s : State) (o : Nat) : Option Reg :=
  let b := s.bist
  match o with
  | 0x00 => some (ro (bistStatus b))
  | 0x40 => some (statReg b.runs)
  | 0x48 => some (statReg b.fails)
  | 0x50 => some (wrapsReg [b.runs, b.fails])
  | _ =>
    match slot o 0x10 4 (dieCount s) with
    | some (n, 0) => some (ro (fusesFree s n + at' (fusesPending s n) 4))
    | _ => none

/-- R238: a write of HE_SHARE. -/
def writeShare (n : Nat) (v : Word) (s : State) : State :=
  { s with he := s.he.upd .reset n fun x => { x with share := BitVec.ofNat 5 (min 25 (bitsOf v.toNat 0 5)) } }

/-- R238: the HE_ block. -/
def heReg (s : State) (o : Nat) : Option Reg :=
  match slot o 0 0x80 (stackCount s) with
  | none => none
  | some (n, r) =>
    let x := s.he.get .reset n
    match r with
    | 0x00 => some (rw x.share.toNat (writeShare n))
    | 0x08 => some (statReg x.busy)
    | 0x10 => some (statReg x.rd)
    | 0x18 => some (statReg x.wr)
    | 0x20 => some (statReg x.far)
    | 0x28 => some (statReg x.ember)
    | 0x30 => some (statReg x.waiting)
    | 0x38 => some (wrapsReg [x.busy, x.rd, x.wr, x.far])
    | 0x40 => some (wrapsReg [x.ember, x.waiting])
    | _ => none

/-! ### GUARD_, EMB_, YOKE_, CLAIM_, MB_ -/

/-- R353: the GUARD_ block. -/
def guardReg (s : State) (o : Nat) : Option Reg :=
  let g := s.guard
  match o with
  | 0x00 => some (rw (bit g.en + at' (bit g.lossEn) 1 + at' g.alpha 2 + at' g.warmup 16) writeGuardCfg)
  | 0x04 => some (rw (g.ctxMask.toNat + at' g.cfgTag.toNat 16) writeGuardCtx)
  | 0x08 => some (rw g.nfLimit.toNat writeNfLimit)
  | 0x0C => some (rw g.spike.toNat writeSpike)
  | 0x10 => some (rw g.normLimit.toNat writeNormLimit)
  | 0x14 => some (rw g.avg.toNat writeAvg)
  | 0x18 => some (rw (guardStateReg g) writeGuardState)
  | 0x1C => some (ro (guardStatus g))
  | 0x20 => some (rw g.doneRound.toNat writeDoneRound)
  | 0x24 => some (ro (hold 0xFFFFFFFF g.windowNf))
  | 0x28 => some (ro64 (guardLast g))
  | 0x30 => some (statReg g.trips)
  | 0x38 => some (statReg g.headland)
  | 0x40 => some (wrapsReg [g.trips, g.headland])
  | _ => none

/-- R393: a write of EMB_CFG. -/
def writeEmbCfg (v : Word) (s : State) : State :=
  let n := bitsOf v.toNat 0 16
  let first := ceilDiv (dieStackBytes - s.mem.units.toNat * 4000000000) pageBytes
  if s.ms.mode != .kindling || decide (n < 64) || decide (poolEnd < first + n + 64)
      || decide ((if isM4 s then 7629 else 15258) < n) then s
  else setEmber { s.ember with logPages := BitVec.ofNat 16 n } s

/-- R393: EMB_STATUS, EMB_EPOCH and EMB_LOG_HEAD. -/
def embStatus (e : Ember) : Nat :=
  bit e.streaming + at' (bit (e.streaming && e.sinkHost)) 1 + at' (bit e.overrun) 2 + at' (bit e.forfeit) 3 + at' (bit e.ragged) 4
def embEpoch (e : Ember) : Nat := e.current.toNat + at' e.sealedEpoch.toNat 32
def embLogHead (e : Ember) : Nat := e.logCount % 2 ^ 64

/-- R393: the EMB_ block. -/
def embReg (s : State) (o : Nat) : Option Reg :=
  let e := s.ember
  match o with
  | 0x00 => some (rw e.logPages.toNat writeEmbCfg)
  | 0x08 => some (ro64 (embEpoch e))
  | 0x10 => some (rw (embStatus e) fun v s => if v.getLsbD 2 then setEmber { s.ember with overrun := false } s else s)
  | 0x14 => some (ro (pagesAcked s))
  | 0x18 => some (ro64 (embLogHead e))
  | 0x20 => some (ro64 e.logMirror.toNat)
  | 0x28 => some (ro64 (if e.sealedEpoch = 0 then 0 else e.sealedStart % max 1 (logRing s)))
  | 0x30 => some (rw64 e.tableAddr.toNat fun v s =>
      if s.ms.mode == .full && !anyCtxActive s then setEmber { s.ember with tableAddr := v.setWidth 44 } s else s)
  | 0x38 => some (statReg e.stall)
  | 0x40 => some (wrapsReg [e.stall])
  | _ => none

/-- R394: YOKE_STATUS. -/
def yokeStatus (s : State) : Nat :=
  let y := s.yoke
  ownRole s + at' y.partner 2 + at' (bit y.deposed) 4 + at' y.err 5 + at' y.result 8

/-- R394: the YOKE_ block. -/
def yokeReg (s : State) (o : Nat) : Option Reg :=
  let y := s.yoke
  match o with
  | 0x00 => some (rw (bit y.en + at' y.emberPort.toNat 4 + at' y.logPort.toNat 8) writeYokeCfg)
  | 0x04 => some (ro (yokeStatus s))
  | 0x08 => some (ro64 y.takeStart.toNat)
  | 0x10 => some (ro64 y.takeEnd.toNat)
  | _ => none

/-- R497: CLAIM_HOLDER. -/
def claimHolders (s : State) : Nat := ((List.range 4).map fun r => at' (claimHolder s r) (4 * r)).sum

/-- R497: the CLAIM_ block. -/
def claimReg (s : State) (o : Nat) : Option Reg :=
  let c := s.claims
  match o with
  | 0x00 => some (ro (claimHolders s))
  | 0x04 => some (rw (bit c.conflict) fun v s =>
      if v.getLsbD 0 then { s with claims := { s.claims with conflict := false } } else s)
  | 0x08 => some (rw (c.resource + at' c.kind 4 + at' c.claimant 8 + at' c.holder 12 + at' (bit c.valid) 16) fun v s =>
      if v.getLsbD 16 then { s with claims := { s.claims with valid := false } } else s)
  | 0x10 => some (ro64 c.tick.toNat)
  | 0x18 => some (statReg c.count)
  | 0x20 => some (wrapsReg [c.count])
  | _ => none

/-- R466: a write of four bytes of MB_REQ. -/
def writeMbReq (m w : Nat) (v : Word) (s : State) : State :=
  let x := mailbox s m
  setMailbox m { x with req := (leBytes 4 v.toNat).zipIdx.foldl (fun (t : Tab Byte) (b, i) => t.put 0 (4 * w + i) b) x.req } s

/-- Four bytes of a table of bytes, as a word. -/
def tabWord (t : Tab Byte) (w : Nat) : Nat := leNat ((List.range 4).map fun i => t.get 0 (4 * w + i))

/-- R466: MB_STATUS, and a write of it. -/
def mbStatus (x : Mailbox) : Nat :=
  x.state.code + at' (bit x.mctp) 2 + at' (bit x.replyValid) 3 + at' (bit x.collision) 4 + at' (bit x.aborted) 5 + at' (bit x.busy) 6
def writeMbStatus (m : Nat) (v : Word) (s : State) : State :=
  let x := mailbox s m
  setMailbox m { x with collision := x.collision && !v.getLsbD 4, aborted := x.aborted && !v.getLsbD 5,
                        busy := x.busy && !v.getLsbD 6 } s

/-- R466: the registers of a mailbox. -/
def mbReg (s : State) (m o : Nat) : Option Reg :=
  let x := mailbox s m
  match o with
  | 0x200 => some (rw 0 (writeMbPost m))
  | 0x204 => some (rw 0 (writeMbAck m))
  | 0x208 => some (rw (mbStatus x) (writeMbStatus m))
  | 0x210 => some (statReg x.collide)
  | 0x218 => some (wrapsReg [x.collide])
  | _ =>
    match slot o 0 4 64, slot o 0x100 4 64 with
    | some (w, 0), _ => some (rw (tabWord x.req w) (writeMbReq m w))
    | _, some (w, 0) => some (ro (tabWord x.reply w))
    | _, _ => none

/-! ### CD_, CORE_, ME_, VE_ -/

/-- R108: ME_LATENCY of a core: a repaired row adds a cycle. -/
def meLatency (s : State) (core : Nat) : Nat :=
  let r := s.hw.badRow.get 64 core
  if r < 64 then 131 + 2 ^ 8 + at' r 9 else 130 + at' 127 9

/-- R108, R158: the registers of a matrix engine. -/
def meReg (s : State) (core o : Nat) : Option Reg :=
  let c := coreCtr s core
  match o with
  | 0x00 => some (ro (meLatency s core))
  | 0x08 => some (statReg c.meBusy)
  | 0x10 => some (statReg c.meFeed)
  | 0x18 => some (statReg c.meLoad)
  | 0x20 => some (wrapsReg [c.meBusy, c.meFeed, c.meLoad])
  | 0x28 => some (statReg c.meSkip)
  | 0x30 => some (wrapsReg [c.meSkip])
  | _ => none

/-- R142: the registers of a vector engine. -/
def veReg (s : State) (core o : Nat) : Option Reg :=
  let c := coreCtr s core
  match o with
  | 0x00 => some (statReg c.veBusy)
  | 0x08 => some (statReg c.veMem)
  | 0x10 => some (statReg c.veDrain)
  | 0x18 => some (statReg c.veStream)
  | 0x20 => some (wrapsReg [c.veBusy, c.veMem, c.veDrain, c.veStream])
  | _ => none

/-- R178: the registers of an access engine. -/
def aeReg (s : State) (core o : Nat) : Option Reg :=
  let c := coreCtr s core
  match o with
  | 0x00 => some (statReg c.aeRd)
  | 0x08 => some (statReg c.aeWr)
  | 0x10 => some (statReg c.aeFull)
  | 0x18 => some (wrapsReg [c.aeRd, c.aeWr, c.aeFull])
  | _ => none

/-- R18, R107, R269: the blocks of compute die `n`. -/
def cdReg (s : State) (n o : Nat) : Option Reg :=
  let map := (s.hw.coreMap.get Hw.coreMapReset n).toNat
  match slot o 0 4 4, slot o 0x1000 0x10 32, slot o 0x10000 0x40 96, slot o 0x20000 0x40 96, slot o 0x30000 0x40 96 with
  | some (w, 0), _, _, _, _ => some (ro (bitsOf map (32 * w) 32))
  | _, some (l, r), _, _, _ =>
    if r = 0 ∨ r = 4 ∨ r = 8 then
      some (rw (bitsOf ((lineOf s l).cores.get 0 n).toNat (8 * r) 32) (writeCdBarPart n l (r / 4)))
    else none
  | _, _, some (k, r), _, _ => aeReg s (96 * n + k) r
  | _, _, _, some (k, r), _ => meReg s (96 * n + k) r
  | _, _, _, _, some (k, r) => veReg s (96 * n + k) r
  | _, _, _, _, _ => none

/-! ### BAR0 -/

/-- R490: the register at a BAR0 offset. -/
def regAt (s : State) (o : Nat) : Option Reg :=
  if o < 0x100000 then iodReg s o
  else if o < 0x1000000 then
    match o / 0x10000 with
    | 0x10 => pcieReg s (o - 0x100000)
    | 0x11 => ftReg s (o - 0x110000)
    | 0x12 => zbReg s (o - 0x120000)
    | 0x13 => poolReg s (o - 0x130000)
    | 0x14 => lgReg s (o - 0x140000)
    | 0x15 => pwrReg s (o - 0x150000)
    | 0x16 => secReg s (o - 0x160000)
    | 0x17 => bistReg s (o - 0x170000)
    | 0x18 => heReg s (o - 0x180000)
    | 0x19 => guardReg s (o - 0x190000)
    | 0x1A => embReg s (o - 0x1A0000)
    | 0x1B => yokeReg s (o - 0x1B0000)
    | 0x1C => claimReg s (o - 0x1C0000)
    | _ =>
      match slot o 0x1D0000 0x1000 (mailboxCount s) with
      | some (m, r) => mbReg s m r
      | none => none
  else
    match slot o 0x1000000 0x400000 (dieCount s) with
    | some (n, r) => cdReg s n r
    | none => none

/-- The 64-bit register whose upper half lies at an offset. -/
def upperOf (s : State) (o : Nat) : Option Reg :=
  if o % 8 = 4 then (regAt s (o - 4)).filter (·.wide) else none

/-- R11, R489: four bytes of BAR0 as read; 0 where no register is defined. -/
def read4 (s : State) (o : Nat) : Nat :=
  match regAt s o, upperOf s o with
  | some r, _ => r.value % 2 ^ 32
  | none, some r => r.value >>> 32
  | none, none => 0

/-- R11, R489: a BAR0 read of 4 or 8 bytes. -/
def readBar0 (s : State) (o size : Nat) : Nat := if size = 8 then read4 s o + at' (read4 s (o + 4)) 32 else read4 s o

/-- A 64-bit register with one of its halves replaced; the bits that a write of 1 clears stay as they are. -/
def Reg.withLow (r : Reg) (v : Word) : DWord := BitVec.ofNat 64 ((r.value - (r.value &&& r.clears)) / 2 ^ 32 * 2 ^ 32 + v.toNat)
def Reg.withHigh (r : Reg) (v : Word) : DWord := BitVec.ofNat 64 (v.toNat * 2 ^ 32 + (r.value - (r.value &&& r.clears)) % 2 ^ 32)

/-- R11, R53, R380, R489: four bytes written to BAR0: a register of 32 bits, or one half of one of 64 bits. A write of the low half
is logged with the whole value (log 51). -/
def write4 (o : Nat) (v : Word) (s : State) : State :=
  match regAt s o, upperOf s o with
    | some r, _ =>
      if r.wide then bar0Write o (r.withLow v).toNat (r.write (r.withLow v)) s
      else bar0Write o v.toNat (r.write (v.setWidth 64)) s
    | none, some r => bar0Write o v.toNat (r.write (r.withHigh v)) s
    | none, none => bar0Write o v.toNat id s

/-- The offset is that of a register of 64 bits. -/
def isWide (s : State) (o : Nat) : Bool := (regAt s o).any (·.wide)

/-- R489: eight bytes written to BAR0: a whole register of 64 bits at one instant, or two registers of 32 bits, the lower first. -/
def write8 (o : Nat) (v : DWord) (s : State) : State :=
  match regAt s o with
  | some r =>
    if r.wide then bar0Write o v.toNat (r.write v) s
    else write4 (o + 4) ((v >>> 32).setWidth 32) (write4 o (v.setWidth 32) s)
  | none => write4 (o + 4) ((v >>> 32).setWidth 32) (write4 o (v.setWidth 32) s)

/-- R488, R489: an access that BAR0 accepts: aligned, of 4 or 8 bytes, within 32 MiB. -/
def bar0Access (o size : Nat) : Bool := (size == 4 || size == 8) && o % size == 0 && decide (o + size ≤ 2 ^ 25)

/-- R10, R11, R489: a BAR0 write. -/
def writeBar0 (o size : Nat) (v : DWord) (s : State) : State :=
  if !bar0Access o size || !inService s then s
  else if size = 8 then write8 o v s
  else write4 o (v.setWidth 32) s

/-- R10, R11: a BAR0 write acts by the access codes of the register. -/
def execRegisterWrite (offset : Nat) (size : Nat) (value : DWord) (s : State) : Answer := .next (writeBar0 offset size value s)

/-- R489: a BAR0 access that is not an aligned one of 4 or 8 bytes completes with Unsupported Request and has no effect. -/
def execBar0UnsupportedAccess (_write : Bool) (offset : Nat) (size : Nat) (s : State) : Answer :=
  .next (if inService s && !bar0Access offset size then emit .pcieUnsupported s else s)

/-- R308, R494: a write of POOL_RESV. -/
def execPoolResvWrite (value : Word) (s : State) : Answer := .next (bar0Write 0x130800 value.toNat (writePoolResv value) s)

/-- R380, R389: a logged BAR0 write is made again; a write of IOD_CTX_CMD is left to the CTXCMD entry of its command (log 51). -/
def replayWrite (o : Nat) (v : DWord) (s : State) : State :=
  if o = 0x10018 then s
  else if isWide s o then write8 o v s else write4 o (v.setWidth 32) s

/-! ### The status page, R51, R52 -/

/-- A field of 4 or of 8 bytes of the status page: its offset and bytes. -/
def word4 (o n : Nat) : Nat × List Byte := (o, leBytes 4 n)
def word8 (o n : Nat) : Nat × List Byte := (o, leBytes 8 n)

/-- Bits of a set of numbers below `n`. -/
def bitSet (n : Nat) (p : Nat → Bool) : Nat := ((List.range n).map fun i => if p i then 2 ^ i else 0).sum

/-- R51: the flags at offset 0x014. -/
def pageFlags (s : State) : Nat :=
  bit (s.ms.mode == .fenced) + at' (bit ((List.range 64).any fun n => (sring s n).err)) 1
    + at' (bit ((List.range 64).any fun n => (cring s n).consErr)) 2 + at' (bit s.claims.conflict) 3
    + at' (bit s.ember.overrun) 4 + at' (bit (guardTrip s.guard)) 5

/-- R51: the fields of the status page in bytes 0x004 to 0x3FF, but SEQ. -/
def pageHead (s : State) : List (Nat × List Byte) :=
  [word4 4 (iodState s), word8 8 s.ft.ft.toNat, word4 0x10 (s.host.pageWrites.toNat), word4 0x14 (pageFlags s),
    word8 0x18 (bitSet 64 fun n => (sring s n).err), word8 0x20 (bitSet 64 (ringBlocked s)), word4 0x28 (bitSet 16 (ctxActive s))]
    ++ ((List.range 64).map fun n => word4 (0x40 + 4 * n) (sring s n).fetch.toNat)
    ++ ((List.range 64).map fun n => word4 (0x140 + 4 * n) (cring s n).p.toNat)
    ++ ((List.range 16).map fun n => word4 (0x240 + 4 * n) (ctxStatus s n))

/-- R285, R338: the counters in bytes 0x400 to 0x7FF. -/
def pageCounters (s : State) : List (Nat × List Byte) :=
  ((List.range 64).map fun n => word4 (0x400 + 4 * n) (sqTx s n).stall.count.toNat)
    ++ ((List.range 64).map fun n => word4 (0x500 + 4 * n) (sqRx s n).starve.count.toNat)
    ++ ((List.range 64).map fun n => word4 (0x600 + 4 * n) (ringLate s n).count.toNat)
    ++ [word4 0x700 s.lag.collWait.count.toNat, word4 0x704 (collLast s % 2 ^ 16), word4 0x708 s.lag.lastMargin.toNat]
    ++ ((List.range 4).map fun n => word4 (0x710 + 4 * n) (dieLate s n).count.toNat) ++ [word4 0x720 (admitStatus s)]

/-- R354: the run-guard part. -/
def pageGuard (s : State) : List (Nat × List Byte) :=
  let g := s.guard
  [(0x800, padTo 64 g.vrec), word4 0x840 (hold 0xFFFFFFFF g.windowNf), word4 0x844 (guardStateReg g), word4 0x848 (guardStatus g),
    word4 0x84C g.doneRound.toNat]

/-- R395: the ember, log and yoke part. -/
def pageYoke (s : State) : List (Nat × List Byte) :=
  let e := s.ember
  [word8 0xC00 (embEpoch e), word4 0xC08 (embStatus e), word4 0xC0C (yokeStatus s), word8 0xC10 s.yoke.takeEnd.toNat,
    word8 0xC20 (embLogHead e), word8 0xC28 e.logMirror.toNat, word4 0xC30 (pagesAcked s)]

/-- R51: the bytes of the page but SEQ, as they are to be written. -/
def pageTab (s : State) : Tab Byte :=
  (pageHead s ++ pageCounters s ++ pageGuard s ++ pageYoke s).foldl (fun t f =>
    f.2.zipIdx.foldl (fun (t : Tab Byte) (b, i) => t.put 0 (f.1 + i) b) t) []

/-- R52: a 64-byte line of the page. -/
def pageLine (t : Tab Byte) (l : Nat) : List Byte := (List.range 64).map fun i => t.get 0 (64 * l + i)

/-- R52: the module writes SEQ + 1, the changed lines with that SEQ, and SEQ + 2. A line has changed where it differs from the page
last written, at first from zeros (log 79). -/
def writePage (s : State) : State :=
  let h := s.host
  let a := h.statusAddr
  let seq : Word := h.pageSeq + 1
  let s0 := { s with host := { h with pageWrites := h.pageWrites + 1 } }
  let t := pageTab s0
  let changed := (List.range 64).filter fun l => pageLine t l != pageLine h.page l
  let withSeq (l : Nat) : List Byte := if l = 0 then leBytes 4 seq.toNat ++ (pageLine t l).drop 4 else pageLine t l
  let word (v : Word) (s : State) : State := emit (.hostWrite a (leBytes 4 v.toNat)) s
  let s1 := changed.foldl (fun s l => emit (.hostWrite (a + BitVec.ofNat 64 (64 * l)) (withSeq l)) s) (word seq s0)
  let s2 := word (seq + 1) s1
  { s2 with host := { s2.host with pageSeq := seq + 1, pageLast := some s.clk, page := t } }

/-- R51: the bytes of the page in which a change causes a write. The fields of a write itself, SEQ, FT and WRITES, are none of them
(log 80). -/
def causesWrite (i : Nat) : Bool :=
  decide (4 ≤ i ∧ i < 8 ∨ 0x14 ≤ i ∧ i < 0x400 ∨ 0x800 ≤ i ∧ i < 0x840 ∨ 0xC00 ≤ i ∧ i < 0xC20)

/-- R51: a field has changed whose change causes a write. -/
def pageChanged (s : State) : Bool :=
  let t := pageTab s
  (List.range 0xC20).any fun i => causesWrite i && t.get 0 i != s.host.page.get 0 i

/-- R51: a write of the page is due: a field has changed and MIN_US has passed since the last, or the longest interval has. -/
def pageMay (s : State) : Bool :=
  s.host.statusEn && inService s &&
    (match s.host.pageLast with
     | some t => decide (t + 1000 * max 100 s.host.minUs.toNat ≤ s.clk)
         || (decide (t + 1000 * s.host.minUs.toNat ≤ s.clk) && pageChanged s)
     | none => true)

/-- R51, R52: the status page is written. -/
def execStatusPageWrite (s : State) : Answer := .next (if pageMay s then writePage s else s)

/-! ### The PCIe function -/

/-- R488: a 64-bit memory BAR: whether it is prefetchable, and its size in bytes. -/
structure Bar where
  prefetchable : Bool
  size : Nat
deriving DecidableEq, Repr

/-- R488: the configuration of the single function: class code, BAR0/1, BAR2/3 and BAR4/5, MSI-X with its vectors, table and pending-bit
array in BAR0, and the DOE extended capability; every other capability is absent. -/
structure PcieFunction where
  classCode : BitVec 24
  bars : List (Option Bar)
  msixVectors : Nat
  msixTable : Nat
  msixPending : Nat
  doe : Bool
deriving DecidableEq, Repr

/-- R488: the module's function. -/
def pcieFunction : PcieFunction :=
  { classCode := 0x120000, bars := [some { prefetchable := false, size := 0x2000000 }, some { prefetchable := true, size := 0x400000000 }, none],
    msixVectors := 256, msixTable := 0x100000, msixPending := 0x101000, doe := true }

/-- R488: the low word of a BAR before an address is placed in it: 64-bit memory, prefetchable or not (as PCI Express encodes it, log 100);
a BAR that is not implemented reads 0. -/
def barWord (b : Option Bar) : Nat := match b with | some x => 4 + at' (bit x.prefetchable) 3 | none => 0

/-- R427, R488: the answer to a configuration request. -/
inductive ConfigAnswer where
  | requestRetryStatus
  | function (f : PcieFunction)
deriving DecidableEq, Repr

/-- R20, R427, R488: Request Retry Status until the link's bring-up ends in Kindling, the function from then on; nothing while the link is
down. -/
def configAnswer (s : State) : Option ConfigAnswer :=
  if inService s then some (.function pcieFunction)
  else if s.ms.trans == .bringUp then some .requestRetryStatus
  else none

end Sys2Proof.Machine
end

