-- ==== Sys2Proof/Machine/Takeover.lean ====
section
/-! DEFINITION. A takeover after its start: the restore from the sealed ember and its schedule record (R388 step 3), the replay of the
sowing log (R389), and going live (R388 step 5). -/

namespace Sys2Proof.Machine

/-! ### Restore -/

/-- R388: one page of the sealed bank copied to its home page, as the Hearth engines do (R231, R238). -/
def restorePage (n bank home : Nat) (s : State) : State :=
  let s1 := notePageErrors n bank s
  countGranules n bank { s1 with mem := copyPage n bank home s1.mem }

/-- R388: every entry of the ember table whose sealed bank is not its home. -/
def restorePages (s : State) : State :=
  let a := s.ember.tableAddr.toNat
  let tab := if tableBad s a then [] else emberTable s a
  tab.foldl (fun s x =>
    let bank := if s.ember.sealedEpoch.getLsbD 0 then x.bank1 else x.bank0
    let page (v : BitVec 44) : Nat := v.toNat % dieSpan / pageBytes
    if bank = x.base then s
    else (List.range x.pages).foldl (fun s j => restorePage (x.base.toNat / dieSpan) (page bank + j) (page x.base + j) s) s) s

/-- A word of the sealed schedule record. -/
def recWord (b : List Byte) (off : Nat) : Word := BitVec.ofNat 32 (fieldAt b off 0 32)

/-- R376: the context state that IOD_CTX_STATUS reports. -/
def ctxStateOf (n : Nat) : CtxState :=
  match n with
  | 1 => .active
  | 2 => .ending
  | 3 => .beginning
  | _ => .idle

/-- R388: a context as the record has it; what a tidy context recorded at its BEGIN is in no record and open (log 52). -/
def loadCtx (b : List Byte) (n : Nat) (s : State) : State :=
  let v := fieldAt b (0x240 + 4 * n) 0 32
  let c := s.freeCtr
  let x := ctxOf s n
  let y := { x with state := ctxStateOf (v % 4), result := bitsOf v 4 4, mismatchKind := bitOf v 8, mismatchIndex := bitsOf v 9 12 }
  let z := if y.state == .idle || y.carried then y else
    { y with recTallies := (List.range y.count.toNat).map fun i => BitVec.ofNat 32 (Config.freeAt c i),
             recGen := BitVec.ofNat 32 (Config.freeAt (c + 1) 0) }
  setCtx n z { s with freeCtr := c + 2 }

/-- R388: a send channel as the record has it: an enabled one has its grant; the size of a slot of its queue and the credits
returned to it before are in no record and open (log 53). -/
def loadSqtx (b : List Byte) (n : Nat) (s : State) : State :=
  let c := s.freeCtr
  let x := sqTx s n
  let o := 0x300 + 8 * n
  setSqTx n { x with next := recWord b o, credits := fieldAt b o 32 11, granted := x.en,
                     units := Config.freeAt c 0 % 2 ^ 15, returned := BitVec.ofNat 32 (Config.freeAt c 1) }
    { s with freeCtr := c + 1 }

/-- R388: entries that a receive queue holds: of each the sequence number, format, priority, tag, length and slot are in no
record and open (log 53); they precede EXPECT. -/
def loadEntries (q : Nat) : Nat → Word → State → State
  | 0, _, s => s
  | k + 1, e, s =>
    let x := sqRx s q
    let (slot, s1) := freeSlot x s
    let c := s1.freeCtr
    let f (i : Nat) : Nat := Config.freeAt c i
    let seq := e - 1 - BitVec.ofNat 32 (f 0)
    let y : SqEntry := { seq := seq, fmt := f 1 % 16, prio := f 2 % 4, etag := BitVec.ofNat 16 (f 3), slot := slot.getD 0,
                         len := f 4 % (slotBytes x + 1), since := s1.clk, stale := f 5 % 2 == 1, collided := f 6 % 2 == 1,
                         taken := none }
    loadEntries q k seq (setSqRx q { x with entries := y :: x.entries } { s1 with freeCtr := c + 1 })

/-- R388: a receive queue as the record has it; the credits of the entries that it holds are the module's. -/
def loadSqrx (b : List Byte) (q : Nat) (s : State) : State :=
  let x := sqRx s q
  let o := 0x500 + 8 * q
  let n := min (fieldAt b o 32 11) x.depth.toNat
  let c := s.freeCtr
  let s1 := setSqRx q { x with expect := recWord b o, entries := [], returned := BitVec.ofNat 32 (Config.freeAt c 0) }
    { s with freeCtr := c + 1 }
  if !x.en then s1 else
    let s2 := (ledgerMove dCredit q x.entries.length .held .lent none s1).2
    let s3 := (ledgerMove dCredit q n .lent .held none s2).2
    loadEntries q n (recWord b o) s3

/-- R388: the guard unit as the record has it; a posted report, the count of the current window and the last clear round are in no
record and open (log 53). -/
def loadGuard (b : List Byte) (s : State) : State :=
  let c := s.freeCtr
  let held := (List.range (min 64 (fieldAt b 0x72C 0 7))).map fun j =>
    let w := BitVec.ofNat 64 (fieldAt b (0x1000 + 8 * j) 0 64)
    ((w >>> 32).setWidth 32, w)
  let posted := if fieldAt b 0x728 24 1 = 1 then some ((List.range 32).map fun i => BitVec.ofNat 8 (Config.freeAt c i)) else none
  setGuard { s.guard with doneRound := recWord b 0x720, avg := recWord b 0x724, seen := fieldAt b 0x728 0 16,
                          consec := fieldAt b 0x728 16 8, posted := posted, held := held,
                          windowNf := Config.freeAt (c + 1) 0 % 2 ^ 32, lastClear := BitVec.ofNat 32 (Config.freeAt (c + 1) 1) }
    { s with freeCtr := c + 2 }

/-- R388: the receive streams that the record lists; the MSEQ of what the module sends back to a listed peer is in no record and
open (log 53). -/
def loadStreams (b : List Byte) (s : State) : State :=
  (listedStreams b).foldl (fun s x =>
    let (pos, side, st, e) := x
    if st < 64 then s else
      let (k, s1) := drawFree (setStream (streamKey pos side st) { Stream.reset with isOpen := true, mseq := e } s)
      { s1 with link := { s1.link with sendSeq := s1.link.sendSeq.put 0 (sendKey pos 0 st) (BitVec.ofNat 32 k) } }) s

/-- R388 step 3: rings, contexts, tallies, GEN, queues, channels, INSTANCEs, guard state and streams from the sealed schedule
record. -/
def loadRecord (s : State) : State :=
  let b := s.yoke.sealedRec
  let gen := fieldAt b 0x280 0 32
  let each (n : Nat) (f : Nat → State → State) (s : State) : State := (List.range n).foldl (fun s i => f i s) s
  let s1 := each 64 (fun n s => setSring n { sring s n with fetch := recWord b (0x40 + 4 * n) }
    (setCring n { cring s n with p := recWord b (0x140 + 4 * n) } s)) s
  let s2 := each 16 (loadCtx b) s1
  let s3 := each 32 (fun l s => setLine l { lineOf s l with gen := bitOf gen l } s) s2
  let s4 := each 64 (loadSqrx b) (each 64 (loadSqtx b) s3)
  let s5 := each 8 (fun k s => { s with coll := { s.coll with inst := s.coll.inst.put 0 k (recWord b (0x700 + 4 * k)) } }) s4
  loadStreams b (each 4096 (fun i s => setTally i (recWord b (0x4000 + 4 * i)) s) (loadGuard b s5))

/-! ### Replay -/

/-- R380: the payload of a log entry. -/
def entryBytes (s : State) (e : Nat × Nat × Nat) : List Byte := logBytes s (e.1 + 16) e.2.2

/-- R389: the COMPLETE entries of the log: submission ring, ring index, STATUS. -/
def loggedDone (s : State) : List (Nat × Word × Nat) :=
  (replayEntries s).filterMap fun e =>
    if e.2.1 = lkComplete then
      let b := entryBytes s e
      some (fieldAt b 0 0 32, recWord b 4, fieldAt b 16 0 32)
    else none

/-- R389: the VERDICT entries of the log: round and verdict word. -/
def loggedVerdicts (s : State) : List (Word × DWord) :=
  (replayEntries s).filterMap fun e =>
    if e.2.1 = lkVerdict then
      let b := entryBytes s e
      some (recWord b 0, BitVec.ofNat 64 (fieldAt b 8 0 64))
    else none

/-- R389: every descriptor that replay has fetched is dispatched or has its outcome. -/
def replayDispatched (s : State) : Bool := s.descs.all fun d => d.dispatched || d.outcome.isSome

/-- A descriptor of an opcode that has not finished. -/
def openDesc (s : State) (p : Desc → Bool) : Bool := s.descs.any fun d => !d.finished && p d

/-- R389: the run that a replayed collective piece belongs to has begun. -/
def runsChunk (s : State) (b : List Byte) : Bool :=
  match liveRun s with
  | some x => x.slot == fieldAt b 0 0 32 && x.inst == recWord b 4 && decide (x.op ≤ 4)
  | none => false

/-- R389: what replay waits for at an entry: a ring slot for a DESC; the dispatch of every earlier DESC for what peers sent; and the
start of the descriptor that takes the data (log 54). -/
def replayWaits (s : State) (kind : Nat) (b : List Byte) : Bool :=
  if kind = lkDesc then (lgDom s dRingSlot).free == 0 || decide (256 ≤ ringOpen s (fieldAt b 0 0 32))
  else if kind = lkEntry ∨ kind = lkRwr then !replayDispatched s
  else if kind = lkChunk then
    !replayDispatched s || (!runsChunk s b && openDesc s fun d =>
      (d.op == some .collective && decide (collOp d ≤ 4) && collSlot d == fieldAt b 0 0 32)
        || (d.op == some .guardVerdict && gvSlot d == fieldAt b 0 0 32))
  else if kind = lkRrsp then
    !replayDispatched s || (!(liveRun s).any (·.reply) && openDesc s fun d => d.op == some .collective && decide (5 ≤ collOp d))
  else if kind = lkHostWord then
    openDesc s fun d => d.ref == { ring := fieldAt b 0 0 32, index := recWord b 4 } && (waitingCopy d).isNone
  else false

/-- R389: DESC: the descriptor is fetched from the log. -/
def replayDesc (b : List Byte) (s : State) : State :=
  let n := fieldAt b 0 0 32
  let i := recWord b 4
  let (ok, s1) := ledgerTake dRingSlot n 1 s
  if !ok then s1 else
    let d := { newDesc s1 n i (b.drop 8) with replayed := true }
    setSring n { sring s1 n with fetch := i + 1 } { s1 with descs := s1.descs ++ [d] }

/-- R389: COMPLETE: the completion ring's producer index advances. -/
def replayComplete (b : List Byte) (s : State) : State :=
  let c := fieldAt b 8 0 32
  let v := recWord b 12
  match serial (cring s c).p v with
  | .ahead _ => setCring c { cring s c with p := v } s
  | _ => s

/-- The payload bytes of the ENTRY entries of one queue and sequence number, in order. -/
def entryPayload (s : State) (q : Nat) (seq : Word) : List Byte :=
  (replayEntries s).flatMap fun e =>
    let b := entryBytes s e
    if e.2.1 = lkEntry ∧ fieldAt b 0 0 32 = q ∧ recWord b 4 = seq then b.drop 16 else []

/-- R389: ENTRY: a stage-queue entry is complete with the entry of its last packet: one of fewer than 4,096 bytes, or one that no
packet of the same message follows; whether a full packet at the very end of the log is the last is open (log 54). -/
def replayEntry (rest : List (Nat × Nat × Nat)) (b : List Byte) (s : State) : State :=
  let q := fieldAt b 0 0 32
  let seq := recWord b 4
  let more := rest.any fun e =>
    let b := entryBytes s e
    e.2.1 == lkEntry && fieldAt b 0 0 32 == q && recWord b 4 == seq
  let (k, s1) := choose 2 s
  if more || (b.length == 4112 && rest.isEmpty && k == 1) || decide (64 ≤ q) then s1 else
    let x := sqRx s1 q
    let v := fieldAt b 8 0 32
    judgeEntry { srcPos := x.srcPos, queue := q, seq := seq, fmt := bitsOf v 0 4, prio := bitsOf v 4 2,
                 etag := BitVec.ofNat 16 (bitsOf v 16 16), payload := entryPayload s1 q seq, collided := false } s1

/-- R389: CHUNK: a collective piece is taken from the log; its place in its block follows from its offset in BUF. -/
def replayChunk (b : List Byte) (s : State) : State :=
  match (liveRun s).bind fun x => (findDesc s x.ref).map fun d => (x, d) with
  | none => s
  | some (x, d) =>
    if !runsChunk s b then s else
      let a := fieldAt b 8 0 32
      let v := fieldAt b 12 0 32
      let blk := a % 65536
      let piece : Nat := if x.exchange then 0 else
        match (collBlocks s d).find? fun k => k.entry == blk with
        | some k => (fieldAt b 16 0 64 - k.origin * collWidth d) / 4096
        | none => 0
      let c : Chunk := { slot := x.slot, inst := x.inst, op := bitsOf a 28 4, block := blk, phase := bitOf a 16,
                         srcPos := BitVec.ofNat 14 v, srcSide := bitOf v 14, piece := piece, data := b.drop 24, mseq := 0,
                         vc := if x.exchange then gvVc d else collVc d, port := noPort, collided := false, seen := false }
      applyChunk { c with mseq := (streamOf s (streamKey c.srcPos.toNat c.srcSide c.stream)).mseq } s

/-- R389: RRSP: one packet of a remote response is taken from the log. -/
def replayRrsp (b : List Byte) (s : State) : State :=
  match (liveRun s).bind fun x => (findDesc s x.ref).map fun d => (x, d) with
  | none => s
  | some (x, d) =>
    let off := if x.op = 6 then fieldAt b 8 0 64 - collBuf d else 0
    let data := b.drop 16
    let p := mkPacket s 12 (collVc d) (strapPos s) 0 0x300 0 (fieldAt b 0 0 32) (collFar d) off
      (x.op != 6 || fieldAt b 0 0 32 != 0 || decide (bufLen d ≤ off + data.length)) data
    takeResponse { p with srcPos := BitVec.ofNat 14 (collFar d / 2 ^ 44) } s

/-- R389: HOSTWORD: the word that a WAIT_HOST reads. -/
def replayHostWord (b : List Byte) (s : State) : State :=
  match findDesc s { ring := fieldAt b 0 0 32, index := recWord b 4 } with
  | none => s
  | some d =>
    if d.op == some .waitHost && d.outcome.isNone && hostWordHolds d (BitVec.ofNat 64 (fieldAt b 8 0 64)) then
      endWait d.ref .host .ok s
    else s

/-- R389: what replay does at an entry; a VERDICT is taken when its round is judged, SEGMENT and PAD are ignored. -/
def replayOne (kind : Nat) (b : List Byte) (rest : List (Nat × Nat × Nat)) (s : State) : State :=
  if kind = lkDesc then replayDesc b s
  else if kind = lkComplete then replayComplete b s
  else if kind = lkEntry then replayEntry rest b s
  else if kind = lkChunk then replayChunk b s
  else if kind = lkRwr then storeReceived .iod (addressed (fieldAt b 0 0 64) (b.drop 8)) s
  else if kind = lkRrsp then replayRrsp b s
  else if kind = lkHostWord then replayHostWord b s
  else if kind = lkBar2w then writeBar2 (fieldAt b 0 0 64) (b.drop 8) s
  else if kind = lkRegw then replayWrite (fieldAt b 0 0 32) (BitVec.ofNat 64 (fieldAt b 8 0 64)) s
  else if kind = lkCtxCmd then writeCtxCmd (recWord b 0) s
  else s

/-- R389: what replay does at an entry stands in the log already. -/
def replayMuted (kind : Nat) (b : List Byte) (rest : List (Nat × Nat × Nat)) (s : State) : State :=
  let s1 := replayOne kind b rest (setYoke { s.yoke with muted := true } s)
  setYoke { s1.yoke with muted := false } s1

/-- R389: replay walks the log from an entry on, as far as nothing has to be waited for. -/
def walkReplay : List (Nat × Nat × Nat) → State → State
  | [], s => s
  | e :: rest, s =>
    let b := entryBytes s e
    if s.ms.trans != .takeover || s.yoke.stage != .replaying || replayWaits s e.2.1 b then s
    else walkReplay rest (replayMuted e.2.1 b rest (setYoke { s.yoke with replayPos := s.yoke.replayPos + 1 } s))

/-- R389: replay goes on from where it stands. -/
def replayAdvance (s : State) : State :=
  if s.yoke.stage = .replaying then walkReplay ((replayEntries s).drop s.yoke.replayPos) s else s

/-- R388 steps 3 and 4: the restore has completed and replay starts. -/
def restoreDone (s : State) : State :=
  if s.ms.trans = .takeover ∧ s.yoke.stage = .restoring then
    let s1 := loadRecord (restorePages s)
    replayAdvance (setYoke { s1.yoke with stage := .replaying, replayPos := 0, replayDone := loggedDone s1,
                                          replayVerdicts := loggedVerdicts s1 } s1)
  else s

/-- R388: the bank restore completes and replay of the sowing log starts. -/
def execTakeoverRestoreDone (s : State) : Answer := .next (restoreDone s)

/-! ### Live -/

/-- R388: data packets that waited are handled. -/
def handleWaiting (s : State) : State :=
  s.yoke.waiting.foldl (fun s x => takeData x.1 0 x.2.1 x.2.2 s) (setYoke { s.yoke with waiting := [] } s)

/-- R388 step 5: replay has dispatched the last logged descriptor, and the module enters Full service. -/
def goLive (s : State) : State :=
  let s2 := setMode .full s.yoke.takeCause s
  handleWaiting (raiseVector 69 (setYoke { s2.yoke with stage := .none, result := 1, takeEnd := s2.ft.ft } s2))

/-- R388: replay has walked the whole log and dispatched every descriptor in it. -/
def replayOver (s : State) : Bool :=
  s.ms.trans == .takeover && s.yoke.stage == .replaying && decide ((replayEntries s).length ≤ s.yoke.replayPos) && replayDispatched s

/-- R388: replay has dispatched the last logged descriptor, and the module goes live. -/
def execTakeoverLive (s : State) : Answer :=
  .next <|
    let s1 := replayAdvance s
    if replayOver s1 then goLive s1 else s1

end Sys2Proof.Machine
end

