-- ==== Sys2Proof/Machine/Finish.lean ====
section
/-! DEFINITION. The end of a descriptor: what stopped copies leave, its completion (R49), the resumption of parked copies (R44), and
time limits (R267). -/

namespace Sys2Proof.Machine

/-! ### What a descriptor leaves that ends early -/

/-- R114, R141, R157, R212, R235, R287: what the stopped copies of a descriptor have done of their operation. -/
def stopEffects (d : Desc) (s : State) : State :=
  match d.op with
  | some .copy => stopOp copyPlan d s
  | some .relayout => stopOp relayoutPlan d s
  | some .gather => stopOp gatherPlan d s
  | some .scatter => if isScatterAdd d then stopScatterAdd d s else stopOp scatterPlan d s
  | some .mma => stopMatrix .mma d s
  | some .conv => stopMatrix .conv d s
  | some .bMma => stopMatrix .bMma d s
  | some .wMma => stopWMma d s
  | some .chain => stopChain d s
  | some .heOp => stopHeOp d s
  | some .optStep => stopOptStep d s
  | some .bist => if s.bist.ref == some d.ref then stopBist s else s
  | _ => s

/-- R90, R346: the collective engine no longer works for a descriptor, whose record reports what it has written. -/
def leaveEngine (r : Ref) (s : State) : State :=
  let s1 := { s with coll := { s.coll with waiting := s.coll.waiting.filter (· != r) } }
  match s.coll.run.filter (·.ref == r) with
  | some x => noteStopped r .collective x.nfWord none (setRun none s1)
  | none => s1

/-- R313: a packet carries the entry of a SEND. -/
def heldEntry (s : State) (d : Desc) (p : Packet) : Bool :=
  let x := sqTx s (sendTxq d)
  p.type == 1 && p.dstPos == x.destPos && p.stream.toNat == x.destQ.toNat && some p.mseq == d.detailAll

/-- R313: packets of an aborted descriptor that no port could take are discarded, with their tokens. -/
def discardHeld (d : Desc) (s : State) : State :=
  let mine (p : Packet) : Bool :=
    (d.op == some .send && heldEntry s d p) ||
      (match s.coll.run with | some x => x.ref == d.ref && heldPiece x p | none => false)
  let gone := (heldPackets s).filter mine
  if gone.isEmpty then s else dropPackets gone.contains s

/-- What a finished descriptor gives back that its operation holds. -/
def releaseHolds (d : Desc) (s : State) : State :=
  let aborted := match d.outcome with | some (st, det, _) => st == stAborted && det == 1 | none => false
  let s0 := if aborted then discardHeld d s else s
  let s1 := d.copies.foldl (fun s c => closeTxns c.target s) s0
  match d.op with
  | some .send => if d.outcome.isSome then stopSend d s1 else s1
  | some .recv => stopRecv d s1
  | some .collective | some .guardVerdict => leaveEngine d.ref s1
  | _ => s1

/-- The stopped copies of a descriptor are done. -/
def settleStopped (r : Ref) (s : State) : State :=
  updDesc r (fun d => { d with copies := d.copies.map fun c => if c.st == .stopped then { c with st := .done } else c }) s

/-- R403: the rows of other senders go on once a sending descriptor has ended. -/
def freeStream (d : Desc) (s : State) : State :=
  match d.op with
  | some .mma | some .conv | some .bMma => if finalOf d = 3 then pumpAll (sendKeyOf d) s else s
  | _ => s

/-- R49: every effect of a finished descriptor is made, once. -/
def makeEffects (d : Desc) (s : State) : State :=
  if d.copies.any (fun c => c.st == .stopped) || d.outcome.isSome then
    settleStopped d.ref (releaseHolds d (stopEffects d s))
  else releaseHolds d s

/-- R49, R279: a finished descriptor whose writes are all visible completes: its tally, then its record. -/
def finishDesc (r : Ref) (s : State) : State :=
  match findDesc s r with
  | none => s
  | some d =>
    if !d.finished || d.waiting.isSome || ownsHeld s r then s else
      let s1 := makeEffects d s
      if ownsHeld s1 r then s1 else
        match findDesc s1 r with
        | none => s1
        | some y =>
          let o := outcomeOf s1 y
          serviceExchange (freeStream y (completeDesc y (doneTally y o.status o.detail s1)))

/-- R46 to R50: a descriptor finishes and its completion record is written after all of its effects are visible. -/
def execDescComplete (d : Ref) (s : State) : Answer := .next (if inService s then finishDesc d s else s)

/-! ### Resumption -/

/-- R44: the copies on a target whose wait has ended, that wait in place or are parked. -/
def endedInPlace (s : State) (t : Target) : Option Desc :=
  s.descs.find? fun d => d.copies.any fun c => c.target == t && c.st == .inPlace true

/-- R44: the place of a descriptor's copy on a target in the order of parking. -/
def parkOrder (d : Desc) (t : Target) : Nat :=
  match copyAt d t with
  | some c => match c.st with | .parked _ o => o | _ => 0
  | none => 0

/-- R44: the parked copy on a target that resumes next: of the highest priority, and there the one parked first. -/
def nextParked (s : State) (t : Target) : Option Desc :=
  (s.descs.filter fun d => d.copies.any fun c => c.target == t && (match c.st with | .parked true _ => true | _ => false)).foldl
    (fun best d =>
      match best with
      | none => some d
      | some b => if d.prio.toNat < b.prio.toNat ∨ (d.prio = b.prio ∧ parkOrder d t < parkOrder b t) then some d else best) none

/-- R44: a copy goes on after its wait: it is done where the wait was all that was left. -/
def goOn (c : Copy) : Copy :=
  match c.report with
  | some _ => { c with st := .done }
  | none => { c with st := .running }

/-- R44: at a descriptor boundary of a target a parked descriptor whose wait has ended resumes; one that waited in place goes on at
once. -/
def resumeOn (t : Target) (s : State) : State :=
  match endedInPlace s t with
  | some d => updDesc d.ref (updCopy t goOn) s
  | none =>
    if targetBusy s t then s else
      match nextParked s t with
      | some d => updDesc d.ref (updCopy t goOn) s
      | none => s

/-- R44: the wait of a parked descriptor has ended and it resumes at the target's next descriptor boundary. -/
def execDescResume (t : Target) (s : State) : Answer := .next (resumeOn t s)

/-! ### Time limits -/

/-- R267: the time limit of a wait, in µs, of a descriptor whose waiting copies stand at a stage: the offset of TIMEOUT_US and the
stage. -/
def limitOf (d : Desc) : Option (Nat × Nat) :=
  match d.op with
  | some .tally => some (28, 1)
  | some .barrier => some (20, 2)
  | some .send | some .recv => some (32, 1)
  | some .waitHost => some (44, 1)
  | _ => none

/-- R267: the limit of a waiting copy has passed; on its tick the awaited event still wins. -/
def limitPassed (s : State) (us stage : Nat) (c : Copy) : Bool :=
  c.st.waits && c.stage == stage && pastLimit s us c.since

/-- R59, R267, R272, R280, R283: a descriptor whose wait has passed its limit completes with TIMEOUT; a SEND or RECV as a whole. -/
def waitTimeout (d : Desc) (s : State) : State :=
  match limitOf d with
  | none => verdictTimeout d (collTimeout d s)
  | some (off, stage) =>
    let us := d.fld off 0 32
    let late := d.copies.filter (limitPassed s us stage)
    let whole := (d.op == some .send || d.op == some .recv) && !late.isEmpty
    if d.outcome.isSome then s else
      let s1 := (if whole then d.copies else late).foldl (fun s c => endWait d.ref c.target (Report.of stTimeout 0) s) s
      if whole then endUnstarted d.ref s1 else s1

/-- R267: the time limit of a waiting descriptor passes and it completes with TIMEOUT. -/
def execWaitTimeout (d : Ref) (s : State) : Answer :=
  .next <|
    match findDesc s d with
    | some x => waitTimeout x s
    | none => s

end Sys2Proof.Machine
end

