-- ==== Sys2Proof/Machine/Dispatch.lean ====
section
/-! DEFINITION. The dispatch of the block: one arm per command of Instr, each one direct call of its meaning. -/

namespace Sys2Proof.Machine

/-- The effect of a command on everything but the queue of waiting commands. -/
def exec (i : Instr) (s : State) : Host.Outcome State Fault Refusal :=
  match i with
  | .inputInRange millivolts => Sys2Proof.Machine.execInputInRange millivolts s
  | .standbyReady => Sys2Proof.Machine.execStandbyReady s
  | .inputLoss millivolts => Sys2Proof.Machine.execInputLoss millivolts s
  | .perstNDeassert straps ftRef => Sys2Proof.Machine.execPerstNDeassert straps ftRef s
  | .pcieLinkUp rate width => Sys2Proof.Machine.execPcieLinkUp rate width s
  | .zeroFillComplete stack => Sys2Proof.Machine.execZeroFillComplete stack s
  | .perstNAssert => Sys2Proof.Machine.execPerstNAssert s
  | .coolantStop => Sys2Proof.Machine.execCoolantStop s
  | .thermalTrip sensor => Sys2Proof.Machine.execThermalTrip sensor s
  | .coolantOkNAssert => Sys2Proof.Machine.execCoolantOkNAssert s
  | .enterFull => Sys2Proof.Machine.execEnterFull s
  | .fullServiceTrainingDone => Sys2Proof.Machine.execFullServiceTrainingDone s
  | .entryStepFail step unit => Sys2Proof.Machine.execEntryStepFail step unit s
  | .enterKindling cd0Returns => Sys2Proof.Machine.execEnterKindling cd0Returns s
  | .enterBanked => Sys2Proof.Machine.execEnterBanked s
  | .clearFence => Sys2Proof.Machine.execClearFence s
  | .dieReturnDone returned => Sys2Proof.Machine.execDieReturnDone returned s
  | .doorbellPoll words => Sys2Proof.Machine.execDoorbellPoll words s
  | .descFetch ring bytes => Sys2Proof.Machine.execDescFetch ring bytes s
  | .descDispatch => Sys2Proof.Machine.execDescDispatch s
  | .sownRelease => Sys2Proof.Machine.execSownRelease s
  | .descStart t => Sys2Proof.Machine.execDescStart t s
  | .descResume t => Sys2Proof.Machine.execDescResume t s
  | .waitTimeout d => Sys2Proof.Machine.execWaitTimeout d s
  | .descComplete d => Sys2Proof.Machine.execDescComplete d s
  | .completionRecordWaitEnd cring => Sys2Proof.Machine.execCompletionRecordWaitEnd cring s
  | .msixModerationEnd cring => Sys2Proof.Machine.execMsixModerationEnd cring s
  | .msixUnmask vector => Sys2Proof.Machine.execMsixUnmask vector s
  | .statusPageWrite => Sys2Proof.Machine.execStatusPageWrite s
  | .cringEnable cring value => Sys2Proof.Machine.execCringEnable cring value s
  | .sringCfgWrite ring reg value => Sys2Proof.Machine.execSringCfgWrite ring reg value s
  | .ctxBegin ctx => Sys2Proof.Machine.execCtxBegin ctx s
  | .ctxEnd ctx => Sys2Proof.Machine.execCtxEnd ctx s
  | .ctxAbort ctx => Sys2Proof.Machine.execCtxAbort ctx s
  | .ctxEndFinish ctx => Sys2Proof.Machine.execCtxEndFinish ctx s
  | .nop d => Sys2Proof.Machine.execNop d s
  | .waitHost d => Sys2Proof.Machine.execWaitHost d s
  | .waitHostPoll d word => Sys2Proof.Machine.execWaitHostPoll d word s
  | .signalHost d => Sys2Proof.Machine.execSignalHost d s
  | .mma d => Sys2Proof.Machine.execMma d s
  | .conv d => Sys2Proof.Machine.execConv d s
  | .bMma d => Sys2Proof.Machine.execBMma d s
  | .wMmaAccumulate d => Sys2Proof.Machine.execWMmaAccumulate d s
  | .wMmaFlush d => Sys2Proof.Machine.execWMmaFlush d s
  | .streamCreditTimeout d => Sys2Proof.Machine.execStreamCreditTimeout d s
  | .chainTensor d => Sys2Proof.Machine.execChainTensor d s
  | .chainDrain d => Sys2Proof.Machine.execChainDrain d s
  | .chainStream d => Sys2Proof.Machine.execChainStream d s
  | .streamRow k => Sys2Proof.Machine.execStreamRow k s
  | .streamEnd k => Sys2Proof.Machine.execStreamEnd k s
  | .streamFenced k => Sys2Proof.Machine.execStreamFenced k s
  | .streamCredit k => Sys2Proof.Machine.execStreamCredit k s
  | .streamWaitTimeout d => Sys2Proof.Machine.execStreamWaitTimeout d s
  | .memReadReturn d core addr ecc => Sys2Proof.Machine.execMemReadReturn d core addr ecc s
  | .scrub addr ecc => Sys2Proof.Machine.execScrub addr ecc s
  | .bar2Read offset len errors tag => Sys2Proof.Machine.execBar2Read offset len errors tag s
  | .bar2Write offset bytes => Sys2Proof.Machine.execBar2Write offset bytes s
  | .copy d => Sys2Proof.Machine.execCopy d s
  | .relayout d => Sys2Proof.Machine.execRelayout d s
  | .gather d => Sys2Proof.Machine.execGather d s
  | .scatterStore d => Sys2Proof.Machine.execScatterStore d s
  | .scatterAdd d => Sys2Proof.Machine.execScatterAdd d s
  | .heOpFill d => Sys2Proof.Machine.execHeOpFill d s
  | .heOpCopy d => Sys2Proof.Machine.execHeOpCopy d s
  | .heOpCast d => Sys2Proof.Machine.execHeOpCast d s
  | .heOpReduceAdd d => Sys2Proof.Machine.execHeOpReduceAdd d s
  | .heOpScale d => Sys2Proof.Machine.execHeOpScale d s
  | .heOpNorm d => Sys2Proof.Machine.execHeOpNorm d s
  | .heOpNormAcc d => Sys2Proof.Machine.execHeOpNormAcc d s
  | .optStep d => Sys2Proof.Machine.execOptStep d s
  | .gateTimeout d => Sys2Proof.Machine.execGateTimeout d s
  | .emberPageCopy page => Sys2Proof.Machine.execEmberPageCopy page s
  | .emberCopyDone page => Sys2Proof.Machine.execEmberCopyDone page s
  | .ftEpochPulse => Sys2Proof.Machine.execFtEpochPulse s
  | .epochMissTimeout => Sys2Proof.Machine.execEpochMissTimeout s
  | .ftRefLoss => Sys2Proof.Machine.execFtRefLoss s
  | .ftRefReturn => Sys2Proof.Machine.execFtRefReturn s
  | .ftCtrlArm value => Sys2Proof.Machine.execFtCtrlArm value s
  | .ftCtrlDisarm value => Sys2Proof.Machine.execFtCtrlDisarm value s
  | .ftLoadWrite value => Sys2Proof.Machine.execFtLoadWrite value s
  | .ftNowRead offset => Sys2Proof.Machine.execFtNowRead offset s
  | .timeReqSend port => Sys2Proof.Machine.execTimeReqSend port s
  | .timeReqReceive port t1 replay => Sys2Proof.Machine.execTimeReqReceive port t1 replay s
  | .timeRspReceive port t1 t2 turn replay => Sys2Proof.Machine.execTimeRspReceive port t1 t2 turn replay s
  | .timeReplyTimeout port => Sys2Proof.Machine.execTimeReplyTimeout port s
  | .ftPlanEnable plan => Sys2Proof.Machine.execFtPlanEnable plan s
  | .frameBoundary => Sys2Proof.Machine.execFrameBoundary s
  | .ftOutPulse => Sys2Proof.Machine.execFtOutPulse s
  | .ftOutCfgWrite value => Sys2Proof.Machine.execFtOutCfgWrite value s
  | .tallyAdd d t => Sys2Proof.Machine.execTallyAdd d t s
  | .tallySet d t => Sys2Proof.Machine.execTallySet d t s
  | .tallyWait d t => Sys2Proof.Machine.execTallyWait d t s
  | .tallyWaitAdd d t => Sys2Proof.Machine.execTallyWaitAdd d t s
  | .tallyRead d t => Sys2Proof.Machine.execTallyRead d t s
  | .barrierArrive d t => Sys2Proof.Machine.execBarrierArrive d t s
  | .barrierLatchRelease line => Sys2Proof.Machine.execBarrierLatchRelease line s
  | .barrierWait d t => Sys2Proof.Machine.execBarrierWait d t s
  | .barrierArriveWait d t => Sys2Proof.Machine.execBarrierArriveWait d t s
  | .send d => Sys2Proof.Machine.execSend d s
  | .recv d => Sys2Proof.Machine.execRecv d s
  | .entryReceive e => Sys2Proof.Machine.execEntryReceive e s
  | .sqrxEnable queue value => Sys2Proof.Machine.execSqrxEnable queue value s
  | .grantRepeat queue => Sys2Proof.Machine.execGrantRepeat queue s
  | .grantReceive p => Sys2Proof.Machine.execGrantReceive p s
  | .grantAckReceive p => Sys2Proof.Machine.execGrantAckReceive p s
  | .qstateReceive p => Sys2Proof.Machine.execQstateReceive p s
  | .sqtxCfgWrite chan value => Sys2Proof.Machine.execSqtxCfgWrite chan value s
  | .sqrxFlush queue value => Sys2Proof.Machine.execSqrxFlush queue value s
  | .entryStale queue seq => Sys2Proof.Machine.execEntryStale queue seq s
  | .refuseReceive p => Sys2Proof.Machine.execRefuseReceive p s
  | .portEnable port => Sys2Proof.Machine.execPortEnable port s
  | .noSignalTimeout port => Sys2Proof.Machine.execNoSignalTimeout port s
  | .signalCheck port signal => Sys2Proof.Machine.execSignalCheck port signal s
  | .trainingAttemptFail port cause => Sys2Proof.Machine.execTrainingAttemptFail port cause s
  | .helloSend port => Sys2Proof.Machine.execHelloSend port s
  | .helloReceive port h => Sys2Proof.Machine.execHelloReceive port h s
  | .zbRetrainWrite port => Sys2Proof.Machine.execZbRetrainWrite port s
  | .laneSilence port lane => Sys2Proof.Machine.execLaneSilence port lane s
  | .retrainRelock port => Sys2Proof.Machine.execRetrainRelock port s
  | .retrainFail port => Sys2Proof.Machine.execRetrainFail port s
  | .flitReceive port f => Sys2Proof.Machine.execFlitReceive port f s
  | .ackSend port => Sys2Proof.Machine.execAckSend port s
  | .ackReceive port fseq replay => Sys2Proof.Machine.execAckReceive port fseq replay s
  | .nakReceive port fseq replay => Sys2Proof.Machine.execNakReceive port fseq replay s
  | .replayTimeout port => Sys2Proof.Machine.execReplayTimeout port s
  | .nakRepeatTimeout port => Sys2Proof.Machine.execNakRepeatTimeout port s
  | .creditReceive port vc total => Sys2Proof.Machine.execCreditReceive port vc total s
  | .packetSend port => Sys2Proof.Machine.execPacketSend port s
  | .packetReceive port p => Sys2Proof.Machine.execPacketReceive port p s
  | .blockFree chan blocks => Sys2Proof.Machine.execBlockFree chan blocks s
  | .portFailover port => Sys2Proof.Machine.execPortFailover port s
  | .portReturn port => Sys2Proof.Machine.execPortReturn port s
  | .admitReq => Sys2Proof.Machine.execAdmitReq s
  | .admitCheckDone => Sys2Proof.Machine.execAdmitCheckDone s
  | .admitWithdraw => Sys2Proof.Machine.execAdmitWithdraw s
  | .allReduce d => Sys2Proof.Machine.execAllReduce d s
  | .reduceScatter d => Sys2Proof.Machine.execReduceScatter d s
  | .allGather d => Sys2Proof.Machine.execAllGather d s
  | .broadcast d => Sys2Proof.Machine.execBroadcast d s
  | .allToAll d => Sys2Proof.Machine.execAllToAll d s
  | .put d => Sys2Proof.Machine.execPut d s
  | .get d => Sys2Proof.Machine.execGet d s
  | .chunkReceive port p => Sys2Proof.Machine.execChunkReceive port p s
  | .mackReceive port p => Sys2Proof.Machine.execMackReceive port p s
  | .rwrReceive port p => Sys2Proof.Machine.execRwrReceive port p s
  | .rrdReceive port p => Sys2Proof.Machine.execRrdReceive port p s
  | .rrspReceive port p => Sys2Proof.Machine.execRrspReceive port p s
  | .guardReport d => Sys2Proof.Machine.execGuardReport d s
  | .guardVerdict d => Sys2Proof.Machine.execGuardVerdict d s
  | .verdictForm d => Sys2Proof.Machine.execVerdictForm d s
  | .guardCfgWrite value => Sys2Proof.Machine.execGuardCfgWrite value s
  | .guardDoneRoundWrite value => Sys2Proof.Machine.execGuardDoneRoundWrite value s
  | .ledgerAudit => Sys2Proof.Machine.execLedgerAudit s
  | .lgSnapArm value => Sys2Proof.Machine.execLgSnapArm value s
  | .lgSnapDisarm value => Sys2Proof.Machine.execLgSnapDisarm value s
  | .ledgerSnapshot => Sys2Proof.Machine.execLedgerSnapshot s
  | .emberOpen d => Sys2Proof.Machine.execEmberOpen d s
  | .emberAbandon d => Sys2Proof.Machine.execEmberAbandon d s
  | .emberLoad d page bytes => Sys2Proof.Machine.execEmberLoad d page bytes s
  | .emberStream => Sys2Proof.Machine.execEmberStream s
  | .pageAckReceive epoch pages => Sys2Proof.Machine.execPageAckReceive epoch pages s
  | .sealAckReceive epoch => Sys2Proof.Machine.execSealAckReceive epoch s
  | .emberPacketReceive p => Sys2Proof.Machine.execEmberPacketReceive p s
  | .logPacketReceive p => Sys2Proof.Machine.execLogPacketReceive p s
  | .sealReceive epoch => Sys2Proof.Machine.execSealReceive epoch s
  | .logAckReceive bytes => Sys2Proof.Machine.execLogAckReceive bytes s
  | .forfeitReceive => Sys2Proof.Machine.execForfeitReceive s
  | .pairSend => Sys2Proof.Machine.execPairSend s
  | .pairReceive logPages entries variant => Sys2Proof.Machine.execPairReceive logPages entries variant s
  | .heartbeatSend => Sys2Proof.Machine.execHeartbeatSend s
  | .heartbeatReceive state => Sys2Proof.Machine.execHeartbeatReceive state s
  | .partnerLossTimeout => Sys2Proof.Machine.execPartnerLossTimeout s
  | .faultReceive cause => Sys2Proof.Machine.execFaultReceive cause s
  | .takeoverRestoreDone => Sys2Proof.Machine.execTakeoverRestoreDone s
  | .takeoverLive => Sys2Proof.Machine.execTakeoverLive s
  | .deposeSend => Sys2Proof.Machine.execDeposeSend s
  | .deposeReceive => Sys2Proof.Machine.execDeposeReceive s
  | .resyncReceive p => Sys2Proof.Machine.execResyncReceive p s
  | .duestGroupReceive link gseq replay crcOk => Sys2Proof.Machine.execDuestGroupReceive link gseq replay crcOk s
  | .duestNakReceive link gseq => Sys2Proof.Machine.execDuestNakReceive link gseq s
  | .duestReplayTimeout link => Sys2Proof.Machine.execDuestReplayTimeout link s
  | .sidebandWord die arrived hb clkOk valid => Sys2Proof.Machine.execSidebandWord die arrived hb clkOk valid s
  | .sidebandFault link => Sys2Proof.Machine.execSidebandFault link s
  | .dieLost dies noClock => Sys2Proof.Machine.execDieLost dies noClock s
  | .dieCtrlReset value returns => Sys2Proof.Machine.execDieCtrlReset value returns s
  | .opSet d => Sys2Proof.Machine.execOpSet d s
  | .railPreraise d => Sys2Proof.Machine.execRailPreraise d s
  | .clockWalkStep die => Sys2Proof.Machine.execClockWalkStep die s
  | .powerSample millivolts watts => Sys2Proof.Machine.execPowerSample millivolts watts s
  | .capCeilingRaise => Sys2Proof.Machine.execCapCeilingRaise s
  | .steerTick => Sys2Proof.Machine.execSteerTick s
  | .droop die => Sys2Proof.Machine.execDroop die s
  | .tempSample readings => Sys2Proof.Machine.execTempSample readings s
  | .thermalCeilingRaise => Sys2Proof.Machine.execThermalCeilingRaise s
  | .inputLow => Sys2Proof.Machine.execInputLow s
  | .inputHigh => Sys2Proof.Machine.execInputHigh s
  | .inputNormal => Sys2Proof.Machine.execInputNormal s
  | .bistLogic d => Sys2Proof.Machine.execBistLogic d s
  | .bistSram d => Sys2Proof.Machine.execBistSram d s
  | .bistStack d => Sys2Proof.Machine.execBistStack d s
  | .bistArray d => Sys2Proof.Machine.execBistArray d s
  | .bistRunEnd sigObs findings => Sys2Proof.Machine.execBistRunEnd sigObs findings s
  | .mbPost mb value => Sys2Proof.Machine.execMbPost mb value s
  | .mctpMailboxRequest mb tag bytes => Sys2Proof.Machine.execMctpMailboxRequest mb tag bytes s
  | .mbAck mb value => Sys2Proof.Machine.execMbAck mb value s
  | .kolnuTake mb => Sys2Proof.Machine.execKolnuTake mb s
  | .info mb => Sys2Proof.Machine.execInfo mb s
  | .echo mb => Sys2Proof.Machine.execEcho mb s
  | .fwLoad mb => Sys2Proof.Machine.execFwLoad mb s
  | .mbBist mb => Sys2Proof.Machine.execMbBist mb s
  | .measExtend mb => Sys2Proof.Machine.execMeasExtend mb s
  | .measLog mb => Sys2Proof.Machine.execMeasLog mb s
  | .getVersion t => Sys2Proof.Machine.execGetVersion t s
  | .getCapabilities q => Sys2Proof.Machine.execGetCapabilities q s
  | .negotiateAlgorithms t offers offersSha384 => Sys2Proof.Machine.execNegotiateAlgorithms t offers offersSha384 s
  | .getDigests t => Sys2Proof.Machine.execGetDigests t s
  | .getCertificate t slot offset len => Sys2Proof.Machine.execGetCertificate t slot offset len s
  | .challenge t slot summary nonce => Sys2Proof.Machine.execChallenge t slot summary nonce s
  | .getMeasurements t operation signed nonce => Sys2Proof.Machine.execGetMeasurements t operation signed nonce s
  | .spdmUnsupportedRequest t code => Sys2Proof.Machine.execSpdmUnsupportedRequest t code s
  | .doeAbort => Sys2Proof.Machine.execDoeAbort s
  | .setEndpointId eid => Sys2Proof.Machine.execSetEndpointId eid s
  | .getEndpointId => Sys2Proof.Machine.execGetEndpointId s
  | .getMctpVersionSupport => Sys2Proof.Machine.execGetMctpVersionSupport s
  | .getMessageTypeSupport => Sys2Proof.Machine.execGetMessageTypeSupport s
  | .i3cTargetReset => Sys2Proof.Machine.execI3cTargetReset s
  | .setdasa a => Sys2Proof.Machine.execSetdasa a s
  | .entdaa addr => Sys2Proof.Machine.execEntdaa addr s
  | .secSetupLockWrite value => Sys2Proof.Machine.execSecSetupLockWrite value s
  | .watchdogExpiry => Sys2Proof.Machine.execWatchdogExpiry s
  | .bypass => Sys2Proof.Machine.execBypass s
  | .samplePreload shiftIn later => Sys2Proof.Machine.execSamplePreload shiftIn later s
  | .extest => Sys2Proof.Machine.execExtest s
  | .idcode => Sys2Proof.Machine.execIdcode s
  | .tapReset => Sys2Proof.Machine.execTapReset s
  | .yokeCfgWrite value => Sys2Proof.Machine.execYokeCfgWrite value s
  | .iodGpioWrite value => Sys2Proof.Machine.execIodGpioWrite value s
  | .iodWdogWrite value => Sys2Proof.Machine.execIodWdogWrite value s
  | .pwrCfgWrite value => Sys2Proof.Machine.execPwrCfgWrite value s
  | .poolResvWrite value => Sys2Proof.Machine.execPoolResvWrite value s
  | .bar0UnsupportedAccess write offset size => Sys2Proof.Machine.execBar0UnsupportedAccess write offset size s
  | .registerWrite offset size value => Sys2Proof.Machine.execRegisterWrite offset size value s
  | .watchdogRestart => Sys2Proof.Machine.execWatchdogRestart s
  | .managementRestartDone => Sys2Proof.Machine.execManagementRestartDone s
  | .emberHostAckRead page => Sys2Proof.Machine.execEmberHostAckRead page s
  | .peerHelloLapse port => Sys2Proof.Machine.execPeerHelloLapse port s
  | .railRecover die => Sys2Proof.Machine.execRailRecover die s
  | .doeDiscovery index => Sys2Proof.Machine.execDoeDiscovery index s

end Sys2Proof.Machine
end

