-- ==== Sys2Proof/Machine/Tick.lean ====
section
/-! DEFINITION. What one tick of 1 ns does while no command waits (log 2): Field Time and the counters of waiting. -/

namespace Sys2Proof.Machine

/-- R239: Field Time advances by 1 in each tick in which it runs. -/
def tickTime (s : State) : State :=
  let s1 := { s with clk := s.clk + 1 }
  if ftRuns s then { s1 with ft := { s1.ft with ft := s1.ft.ft + 1 } } else s1

/-- R280: the send channels on which a SEND waits for a credit. -/
def stalledChannels (s : State) : List Nat :=
  (List.range 64).filter fun n => !(creditWaiters s n).isEmpty

/-- R283: the receive queues on which a RECV waits for an entry. -/
def starvedQueues (s : State) : List Nat :=
  (List.range 64).filter fun q => !(entryWaiters s q).isEmpty

/-- R280, R283: IOD_SQTX_STALL and IOD_SQRX_STARVE count the tick. -/
def tickQueues (s : State) : State :=
  let s1 := (stalledChannels s).foldl (fun s n => setSqTx n { sqTx s n with stall := (sqTx s n).stall.add 1 } s) s
  (starvedQueues s1).foldl (fun s q => setSqRx q { sqRx s q with starve := (sqRx s q).starve.add 1 } s) s1

/-- R315: a packet waits on a port only for credit. -/
def waitsForCredit (s : State) (p : Nat) : Bool :=
  let x := portOf s p
  x.state == .up && (List.range 8).any fun vc =>
    (channelHead s p vc).any fun q =>
      decide (x.tx.credits.get 0 vc < packetBlocks q) && (decide (vc < 6) || decide (yokeUsed s x + packetBytes q ≤ 250000))
        && decide (x.tx.unacked.length + packetFlits q ≤ 512) && orderAllows s p q

/-- R315: ZB_CREDIT_STALL counts the tick. -/
def tickPorts (s : State) : State :=
  ((List.range 16).filter (waitsForCredit s)).foldl (fun s p =>
    let x := portOf s p
    setPort p { x with stats := { x.stats with creditStall := x.stats.creditStall.add 1 } } s) s

/-- R333, R337, R346: a COLLECTIVE or an exchange of guard reports that waits for data of its peers counts the tick. -/
def tickColl (s : State) : State :=
  match liveRun s with
  | none => s
  | some x =>
    if x.want.isEmpty && !(x.op == 6 && x.reply) then s else
      let s1 := setRun (some { x with waited := x.waited + 1 }) s
      { s1 with lag := { s1.lag with collWait := s1.lag.collWait.add 1 } }

/-- R377: EMB_STALL counts a tick in which a writer waits. -/
def tickEmber (s : State) : State :=
  if !writersWait s then s else { s with ember := { s.ember with stall := s.ember.stall.add 1 } }

/-- R421: PWR_DROOP counts a tick in which a die's clock is stretched. -/
def tickDroop (s : State) : State :=
  ((List.range 4).filter fun n => (pwrDie s n).drooping).foldl (fun s n =>
    { s with pwr := { s.pwr with droop := s.pwr.droop.upd .reset n (·.add 1) } }) s

/-- R419: how long the prediction for the next higher OP has fitted is judged before the tick passes. -/
def tickPower (s : State) : State := tickDroop (noteFit s)

/-- Log 2: with no command waiting, one tick of 1 ns passes; a RECV that only looked has found nothing (R284), a replay under way goes on, and a waiting exchange of guard reports
begins where the collective engine is free. An ENTER_KINDLING of the tick is carried out first (R22). -/
def tick (s : State) : State :=
  serviceExchange (replayAdvance (tickEmber (tickColl (tickPorts (tickQueues (tickTime (tickPower (endLooks (endRequest s)))))))))

end Sys2Proof.Machine
end

