-- ==== Sys2Proof/Safety.lean ====
section
/-! DEFINITION. The terms in which claims speak of a run: that a command completes, what a BAR0 write leaves in the sowing log, and the
canonical form of memory. -/

namespace Sys2Proof

open Machine

/-- A command completes in a state with a property of what it leaves. -/
def Completes (i : Instr) (s : State) (P : State → Prop) : Prop :=
  ∃ t, exec i s = .next t ∧ P t

/-- R380: the state once a BAR0 write of value `v` at offset `off` has been logged: while a context is active it is a REGW entry of the
sowing log. -/
def writeLogged (off v : Nat) (s : State) : State :=
  if anyCtxActive s then logEvent lkRegw (leBytes 4 off ++ leBytes 4 0 ++ leBytes 8 v) s else s

/-- R296, R307: no credit stands advertised on a port that is OFF. -/
abbrev IdlePorts (s : State) : Prop := ∀ p < 16, (portOf s p).state = .off → ∀ v < 8, (poolCh s (chanOf p v)).adv = 0

/-- R40, log 12: a descriptor of an opcode of which some copies run at a stage of its operation; each goes on by itself. -/
abbrev RunsAt (s : State) (r : Ref) (o : Op) (stage : Nat) (x : Desc) : Prop :=
  findDesc s r = some x ∧ x.op = some o ∧ x.runsAt stage = true

/-- A descriptor whose one copy, on a target, runs at a stage of its operation. -/
abbrev RunsAlone (s : State) (r : Ref) (o : Op) (t : Target) (stage : Nat) (x : Desc) : Prop :=
  RunsAt s r o stage x ∧ x.copies.map (·.target) = [t]

/-- A copy of a descriptor of an opcode that runs on a target at a stage of its operation. -/
def CopyRunsAt (s : State) (r : Ref) (t : Target) (o : Op) (stage : Nat) (x : Desc) : Prop :=
  findDesc s r = some x ∧ x.op = some o ∧ x.outcome = none ∧ ∃ c, copyAt x t = some c ∧ c.st = .running ∧ c.stage = stage

/-- Every copy of a descriptor is done, with a report of which a property holds. -/
def AllDone (s : State) (r : Ref) (P : Report → Prop) : Prop :=
  ∃ y, findDesc s r = some y ∧ ∀ c ∈ y.copies, c.st = .done ∧ ∃ rep, c.report = some rep ∧ P rep

/-- Of a descriptor, the copies that ran at a stage are done, each with a report of which a property holds; the others stand as before. -/
def RanDone (t : State) (x : Desc) (stage : Nat) (P : Report → Prop) : Prop :=
  ∃ y, findDesc t x.ref = some y ∧
    (∀ c ∈ y.copies, x.runsOn stage c.target = true → c.st = .done ∧ ∃ rep, c.report = some rep ∧ P rep) ∧
    ∀ c ∈ x.copies, x.runsOn stage c.target = false → c ∈ y.copies

/-- R210: as `RanDone`, but a copy that had not begun may have ended too: an index fault has stopped them all. -/
def RanOrEnded (t : State) (x : Desc) (stage : Nat) (P : Report → Prop) : Prop :=
  ∃ y, findDesc t x.ref = some y ∧
    (∀ c ∈ y.copies, x.runsOn stage c.target = true → c.st = .done ∧ ∃ rep, c.report = some rep ∧ P rep) ∧
    ∀ c ∈ x.copies, x.runsOn stage c.target = false → c ∈ y.copies ∨ { c with st := .done } ∈ y.copies

/-- A copy of a descriptor is done, with a report of which a property holds. -/
def CopyDone (s : State) (r : Ref) (t : Target) (P : Report → Prop) : Prop :=
  ∃ y c, findDesc s r = some y ∧ copyAt y t = some c ∧ c.st = .done ∧ ∃ rep, c.report = some rep ∧ P rep

/-- A report of success (R46). -/
def isOk (rep : Report) : Prop := rep.status = 0

/-- The places of some addresses for a requester. -/
def placesAt (s : State) (rq : Requester) (as : List Nat) : List Nat := as.filterMap fun a => (access s rq a).map Place.key

/-- The addresses that writes store to. -/
def storedAt (ws : List EWrite) : List Nat := ws.flatMap fun w => w.bytes.map Prod.fst

/-- Every byte of memory outside some places reads in one state as in another. -/
def SameBut (keys : List Nat) (s t : State) : Prop := ∀ key, key ∉ keys → byteAt t.mem key = byteAt s.mem key

/-- The places that copies of a descriptor have stored to. -/
def goingPlaces (s : State) (gs : List Going) : List Nat := gs.flatMap fun g => placesAt s (rqOf g.work.target) (storedAt g.writes)

/-- The plans that a planner makes for the copies of a descriptor in a state (log 12). -/
def plansMade (pl : Planner) (s : State) (x : Desc) : List (Target × Except Report Work) := plansOf pl (drawFree s).2 x (drawFree s).1

/-- R40: the works of a plan whose copies run at a stage. -/
def worksBegun (x : Desc) (stage : Nat) (rs : List (Target × Except Report Work)) : List Work := (worksOf rs).filter fun w => x.runsOn stage w.target

/-- R182: the places that a descriptor stores to whose copies a planner plans and whose works are carried out. -/
def planPlaces (pl : Planner) (stage : Nat) (s : State) (x : Desc) : List Nat :=
  let s0 := (drawFree s).2
  goingPlaces s (carryOutFor x.ref (addsInPlace x) (pastOf x false s0) (worksBegun x stage (plansMade pl s x)) s0).1

/-- R356, R357, R359: the tokens that a descriptor's accesses take come back: every column of every domain is as before; only the mark of
the most held may have risen. -/
abbrev ColumnsKept (s t : State) : Prop :=
  t.lg = { s.lg with doms := t.lg.doms, stamp := t.lg.stamp, before := t.lg.before } ∧
    ∀ n, lgDom t n = { lgDom s n with high := (lgDom t n).high }

/-- R103: the partner of a matrix descriptor does not fail its own checks alone. -/
abbrev PartnerPasses (s : State) (x : Desc) : Prop :=
  ∀ y, x.pair.bind (findDesc s) = some y → firstReport (pairedResults s y) ≠ none ∨ firstReport (chainResults s y) = none

/-- What the checks of a matrix descriptor's copies come to. -/
def mmaCopies (s : State) (o : Op) (x : Desc) : List (Target × Except Report MatCopy) :=
  (copiesOf x).map fun (t, i) => (t, mmaCopy (drawFree s).2 o x t i)

/-- What the checks of a W_MMA's copies come to. -/
def wMmaCopies (s : State) (x : Desc) : List (Target × Except Report MatCopy) :=
  (copiesOf x).map fun (t, i) => (t, wMmaCopy (drawFree s).2 x t i)

/-- R40: the matrix jobs whose copies run. -/
def jobsBegun (x : Desc) (js : List (MatCopy × Work)) : List (MatCopy × Work) := pickJobs (x.runsOn 0) js

/-- R100, R105, R150, R153: the places that matrix jobs store to: their staging regions, their accumulators, and D or G. -/
def matPlaces (s : State) (x : Desc) (js : List (MatCopy × Work)) : List Nat :=
  let s0 := (drawFree s).2
  goingPlaces s (carryOutFor x.ref false (pastOf x false s0) (js.map (·.2)) s0).1

/-- R103, R129: the rows that wait for the copies of a CHAIN that run. -/
def drainsFor (s : State) (x : Desc) : List Drain := s.streams.drains.filter fun e => e.chain == x.ref && x.runsOn 0 e.target

/-- R129: the places that the copies of a CHAIN with SRC = DRAIN store to whose rows wait. -/
def drainPlaces (s : State) (x : Desc) : List Nat :=
  let s0 := (drawFree s).2
  let ws := (worksOf (plansMade (pairedPlan (drainsFor s x) x.ref) s x)).filter fun w => (drainsFor s x).any fun e => e.target == w.target
  goingPlaces s (carryOutFor x.ref (addsInPlace x) (pastOf x false s0) ws s0).1

/-- R129: the places that one row of a CHAIN's output stream stores to. -/
def rowPlaces (x : Desc) (k : StreamKey) (w : StreamRow) (s : State) : List Nat :=
  placesAt s (.core k.dstDie k.dstCore)
    (storedAt (rowOut x (.core k.dstDie k.dstCore) (keyOf k) w (drawFree s).1 (drawFree s).2).writes)

/-- R225: an OPT_STEP once its checks have passed: it has begun. -/
def optBegun (r : Ref) (s : State) : State := updDesc r (updCopy .hearth fun c => { c with stage := 1 }) s

/-- R324: a COLLECTIVE once its checks have passed: it has begun. -/
def collBegun (r : Ref) (s : State) : State := updDesc r (updCopy .collective fun c => { c with stage := 1 }) s

/-- R253, R259, log 96: a packet has arrived on a port that its command does not name. -/
abbrev heard (p : Packet) (s : State) : State := (noteSomewhere p s).2

/-- R398: a link once a group or a request for one has come over it. -/
abbrev linkHeard (l : Nat) (g : Byte) (s : State) : State := linkTraffic l true (groupsTo (duestLink s l).oldest g + 1) s

/-- R311: the first packet of a message puts an earlier refusal of its MSEQ out of force. -/
def refusalForgotten (p : Packet) (s : State) : State :=
  if p.offset = 0 then
    let k := streamKey p.srcPos.toNat p.srcSide p.stream.toNat
    { s with link := { s.link with refused := s.link.refused.filter fun r => r != (k, p.mseq) } }
  else s

/-- R310: the stream of a packet in order once its payload is taken: a packet that is not handled whole adds its bytes, and LAST
ends the message. -/
def streamAdvanced (port : Nat) (p : Packet) (s : State) : State :=
  let k := streamKey p.srcPos.toNat p.srcSide p.stream.toNat
  let x := streamOf s k
  setStream k (if p.last then { Stream.reset with isOpen := true, chan := chanOf port p.vc,
                                                  mseq := if p.stream.toNat < 64 then 0 else x.mseq + 1 }
               else { x with isOpen := true, offset := x.offset + p.payload.length }) (refusalForgotten p s)

/-- R259, R310: the state once a packet in order has arrived and its stream has advanced. -/
def packetTaken (port : Nat) (p : Packet) (s : State) : State := streamAdvanced port p (noteArrival port p s).2

/-- R310, R311, R388: a data packet that is delivered in order. -/
abbrev InOrder (s : State) (port : Nat) (p : Packet) : Prop :=
  undeliveredWhy s port 0 p = none ∧ waitsForTakeover s p = false ∧
    serial (expectedSeq s p (streamOf s (streamKey p.srcPos.toNat p.srcSide p.stream.toNat))) p.mseq = .reached ∧
    (streamOf s (streamKey p.srcPos.toNat p.srcSide p.stream.toNat)).offset = p.offset.toNat

/-- R301, R332: a response answers a request: it is the oldest unanswered one to the position that it comes from, of its address and
kind. -/
abbrev Answers (s : State) (p : Packet) (a : Asked) : Prop := answered s p = some a

/-- R310, R332: a request is answered: it is no longer owed, and its packets are retained no more. -/
def requestAnswered (p : Packet) (a : Asked) (s : State) : State :=
  release (fun q => (q.type == 10 || q.type == 11) && q.dstPos == p.srcPos && q.mseq == a.seq)
    { s with coll := { s.coll with asked := s.coll.asked.erase a } }

/-- R332: a PUT or GET has heard from the member that it asked. -/
abbrev heardFrom (x : CollRun) (p : Packet) (s : State) : State :=
  setRun (some { x with heard := true, lastPos := p.srcPos, lastSide := p.srcSide, lastAt := s.ft.ft }) s

/-- R292, R293: flits of the retry buffer as they leave a port again. -/
def flitsAgain (x : Port) (us : List (BitVec 12 × TxItem)) : List FlitBits :=
  us.zipIdx.map fun (u, j) => { fseq := u.1, replay := true, idle := false, lane := (x.tx.sent + j) % 8 }

/-- R363, R377: no entry and no remote write waits for a page or a die. -/
abbrev NoneWaits (s : State) : Prop := s.sync.unwritten = [] ∧ s.coll.unwritten = []

/-- R36: a descriptor that has finished and whose record is to be written now: it waits for nothing. -/
abbrev ReadyToComplete (s : State) (r : Ref) (d : Desc) : Prop :=
  findDesc s r = some d ∧ d.finished = true ∧ d.waiting = none ∧ ownsHeld s r = false ∧ d.outcome = none ∧
    ∀ c ∈ d.copies, c.st ≠ .stopped

/-- The canonical form of the stored bytes and of the codewords known as uncorrectable. -/
def Memory.wf (m : Mem) : Bool := Tab.wf 0 m.bytes && Tab.wf 0 m.bad

end Sys2Proof
end

