-- ==== Sys2Proof/Certificates/Slice0/Obligations.lean ====
section
/-! DEFINITION. The statements for the provers, by chapter of the spec: what each command does where it completes, what functions of the
model keep, and the invariants of a step. A statement gives the whole next state or what each part that changes becomes. -/

open Sys2Proof Sys2Proof.Machine

/-- Step takes the command at the front of the queue and is exec of it with the queue's rest; with no command waiting a tick of 1 ns passes,
and no command stops: exec answers a next state for every command in every state (the model's choices, log 1 and log 2). -/
def Obligations.StepRunsFrontCommand : Prop :=
  (∀ (c : Instr) (rest : List Instr) (s : State), s.pending = c :: rest → step s = exec c { s with pending := rest }) ∧
  (∀ s : State, s.pending = [] → step s = .next (tick s)) ∧
  (∀ (c : Instr) (s : State), Completes c s fun _ => True)

/-- The memory of the state after reset has the canonical form, and reads 0 everywhere. -/
def Obligations.MemoryFormAtReset : Prop :=
  Memory.wf State.reset.mem = true ∧ ∀ key, byteAt State.reset.mem key = 0

/-- Every step keeps the canonical form of memory: the listed places rise strictly, none holds the 0 that an unlisted one reads as, and the
same of the codewords known as uncorrectable. Equal memories are equal data. -/
def Obligations.StepKeepsMemoryForm : Prop :=
  ∀ s t : State, Memory.wf s.mem = true → step s = .next t → Memory.wf t.mem = true

/-- R182: what writes at places leave of memory: of a place that no write names, the byte stays; of a codeword that is uncorrectable and that the
writes cover in part, no byte changes and it stays uncorrectable; elsewhere the last write of a place is what it reads; and an uncorrectable
codeword that they cover whole becomes clean. -/
def Obligations.WritesReadBack : Prop :=
  ∀ (m : Mem) (ws : List (Nat × Byte)),
    (∀ key, (∀ w ∈ ws, w.1 ≠ key) → byteAt (commit m ws) key = byteAt m key) ∧
    (∀ key, codeword key ∈ partBad m ws → byteAt (commit m ws) key = byteAt m key ∧
      (commit m ws).bad.get 0 (codeword key) = m.bad.get 0 (codeword key)) ∧
    (∀ key v pre post, codeword key ∉ partBad m ws → ws = pre ++ (key, v) :: post → (∀ w ∈ post, w.1 ≠ key) →
      byteAt (commit m ws) key = v) ∧
    (∀ c ∈ wholeBad m ws, (commit m ws).bad.get 0 c = 0)

/-- R1, R2, R11, R439: what a module is built as never changes: no step changes its variant, its generation, its serial number, its steppings or its
cores, and a field fuse that is used stays used. A step takes one command from the queue, and only a step with none waiting lets time pass (the model's
choice, log 2). -/
def Obligations.StepKeepsTheBuild : Prop :=
  ∀ s t : State, step s = .next t →
    t.hw.variant = s.hw.variant ∧ t.hw.iodGen = s.hw.iodGen ∧ t.hw.serial = s.hw.serial ∧ t.hw.stepIod = s.hw.stepIod ∧
      t.hw.stepCd = s.hw.stepCd ∧ t.hw.board = s.hw.board ∧ t.hw.coreMap = s.hw.coreMap ∧
      (∀ n, s.hw.fuseUsed.get 0 n ≤ t.hw.fuseUsed.get 0 n) ∧ t.pending = s.pending.tail ∧
      t.clk = (if s.pending = [] then s.clk + 1 else s.clk)

/-- R30, R238, R261, R269, R277, R308, R315, R353, R393, R394, R410, R424, R465, R491, R497: what PERST_N leaves in the registers whose reset value
is not 0, and in the tallies, the lines, the slot plans and the descriptors that the module holds. -/
def Obligations.RegistersReadTheirResetValues : Prop :=
  ∀ s, (s.ms.mode = .kindling ∨ s.ms.mode = .full ∨ s.ms.mode = .fenced ∨ s.ms.mode = .banked) →
    Completes .perstNAssert s fun t =>
      let reads (off v : Nat) : Prop := ∃ r, regAt t off = some r ∧ r.value = v
      reads 0x10010 1000000 ∧ reads 0x10014 2 ∧ reads 0x30 0x6400 ∧ (∀ e < 6, reads (0x180000 + 0x80 * e) 8) ∧ reads 0x110008 0x101008 ∧
        (∀ q < 64, reads (0x4A004 + 0x40 * q) 0x10001) ∧ (∀ c < 128, reads (0x130000 + 8 * c) (256 + 2048 * 2 ^ 20)) ∧
        reads 0x130800 0x110000 ∧ reads 0x130808 393216 ∧ (∀ p < 16, reads (0x120000 + 0x200 * p) 1) ∧
        reads 0x190000 0x640014 ∧ reads 0x190004 0xFFFF ∧ reads 0x19000C 0x3F000000 ∧ reads 0x190020 0xFFFFFFFF ∧
        reads 0x1A0000 (if s.hw.variant = .m4 then 954 else 1908) ∧ reads 0x1B0000 0x100 ∧ reads 0x60400 30 ∧
        reads 0x150000 (if s.hw.variant = .m4 then 3600 else 1900) ∧ reads 0x150004 0x27100003 ∧ reads 0x160010 0xF ∧ reads 0x1C0000 0x2020 ∧
        (∀ i < 4096, reads (0x40000 + 4 * i) 0) ∧ (∀ l, lineOf t l = .reset) ∧ (∀ b, planOf t b = .reset) ∧ t.descs = []

/-- R65, R67: an encoding and its value agree in every format of R65: a finite value that a code stands for is encoded as that code, whatever the
rounding and the overflow mode; an infinity as its code where the conversion does not saturate; and every NaN as the canonical one of R67. -/
def Obligations.FormatsEncodeWhatTheyDecode : Prop :=
  ∀ f ∈ [fp32, bf16, fp16, e4m3, e5m2, e2m1], ∀ raw rnd ovf, raw < 2 ^ f.bits →
    (∀ neg m e, decodeF f raw = .fin neg m e → encodeF f rnd ovf (decodeF f raw) = raw) ∧
    (∀ neg, decodeF f raw = .inf neg → f.saturates ovf = false → encodeF f rnd ovf (decodeF f raw) = raw) ∧
    (decodeF f raw = .nan → encodeF f rnd ovf (decodeF f raw) = f.nan ∧ decodeF f f.nan = .nan)

/-- R66, R70: code s of a block scale, from 0x00 to 0xFE, multiplies by 2^(s − 127), and 0xFF makes every element NaN, whatever its code; an element
that is itself NaN or infinite reads as that value. -/
def Obligations.ScaledElementsRead : Prop :=
  ∀ code raw s, 5 ≤ code → code ≤ 7 →
    (s = 0xFF → elemValue code s raw = .nan) ∧
    (∀ neg m e, s ≤ 0xFE → decodeF (fmtOf code) raw = .fin neg m e → elemValue code s raw = .fin neg m (e + ((s : Int) - 127))) ∧
    (s ≤ 0xFE → decodeF (fmtOf code) raw = .nan → elemValue code s raw = .nan) ∧
    (∀ neg, s ≤ 0xFE → decodeF (fmtOf code) raw = .inf neg → elemValue code s raw = .inf neg)

/-- R12: for a 32-bit current value c and target t, with d = (t − c) mod 2^32: t is reached if d = 0, ahead of c by d if 1 ≤ d ≤ 2^31, and past, behind c
by 2^32 − d, if d > 2^31. -/
def Obligations.SerialComparison : Prop :=
  ∀ c t : Word, ∀ d : Nat, (d : Int) = ((t.toNat : Int) - (c.toNat : Int)) % 2 ^ 32 →
    (d = 0 → serial c t = .reached) ∧ (1 ≤ d → d ≤ 2 ^ 31 → serial c t = .ahead d) ∧ (2 ^ 31 < d → serial c t = .past (2 ^ 32 - d))

/-- R14: a statistics counter that advances by one wraps from 0xFFFF_FFFF_FFFF_FFFF to 0, and its 16-bit wrap count advances at each wrap and
holds at 0xFFFF. -/
def Obligations.StatisticsCountersWrap : Prop :=
  ∀ c : Stat, (c.add 1).count = c.count + 1 ∧
    (c.count = 0xFFFFFFFFFFFFFFFF → (c.add 1).wraps = if c.wraps = 0xFFFF then 0xFFFF else c.wraps + 1) ∧
    (c.count ≠ 0xFFFFFFFFFFFFFFFF → (c.add 1).wraps = c.wraps)

/-- R21, R423 to R427, R172: the commands of power and reset complete in the states that R21 lists for them, and lead where it
says; what no clause names keeps its value. -/
def Obligations.PowerAndResetComplete : Prop :=
  (∀ mv s, 40000 ≤ mv → mv ≤ 60000 → s.ms.mode = .off →
    Completes (.inputInRange mv) s fun t =>
      t = { s with ms := { ModState.reset with mode := .standby, prev := .off, cause := 0, entered := s.clk },
                   pins := { s.pins with inputMv := mv },
                   trust := t.trust }) ∧
  (∀ s, s.ms.mode = .standby → s.pins.standbyReady = false → (s.pins.perstAsserted = true ∨ s.pins.coolantOk = false) →
    Completes .standbyReady s fun t => t = { s with pins := { s.pins with standbyReady := true } }) ∧
  (∀ mv s, mv < 40000 → s.ms.mode ≠ .off →
    Completes (.inputLoss mv) s fun t =>
      t.ms = { ModState.reset with prev := s.ms.mode, entered := s.clk } ∧ t.pins.inputMv = mv ∧ t.mem.bytes = [] ∧ t.descs = [] ∧
        t.trust = Trust.reset ∧ t.pins.standbyReady = false ∧ t.hw = s.hw ∧ t.out = s.out) ∧
  (∀ straps ftRef s, s.ms.mode = .standby → s.ms.trans = .none → s.pins.standbyReady = true → s.pins.coolantOk = true →
    Completes (.perstNDeassert straps ftRef) s fun t =>
      t = { s with ms := { s.ms with trans := .bringUp }, hw := t.hw, ft := t.ft,
                   pins := { s.pins with perstAsserted := false, straps := straps, boardStraps := straps, ftRef := ftRef },
                   pwr := { s.pwr with stopCause := 0, stopSensor := 0, stopTick := 0 } } ∧
        t.ft.ft = 0 ∧ t.ft.refOk = ftRef) ∧
  (∀ rate width s, s.ms.mode = .standby → s.ms.trans = .bringUp → 1 ≤ rate → rate ≤ 4 → 1 ≤ width → width ≤ 4 →
    Completes (.pcieLinkUp rate width) s fun t =>
      t.ms = { s.ms with mode := .kindling, prev := .standby, cause := if s.ms.kindled then 1 else 0, kindled := true, trans := .none,
                         entered := s.clk } ∧
        t.bringup.rate = rate ∧ t.bringup.width = width ∧ (pwrDie t 0).req = 0 ∧ (pwrDie t 0).eff = 0 ∧ (pwrDie t 0).mhz = 400 ∧
        t = { s with ms := t.ms, bringup := t.bringup, pwr := t.pwr, steer := t.steer, duest := t.duest, trust := t.trust,
                     host := t.host, out := t.out }) ∧
  (∀ s, (s.ms.mode = .kindling ∨ s.ms.mode = .full ∨ s.ms.mode = .fenced ∨ s.ms.mode = .banked) →
    Completes .perstNAssert s fun t =>
      t.ms = { ModState.reset with mode := .standby, prev := s.ms.mode, cause := 1, kindled := s.ms.kindled, entered := s.clk } ∧
        t.pins.perstAsserted = true ∧ t.mem.bytes = [] ∧ t.descs = [] ∧ t.host = HostIf.reset ∧ t.link = Links.reset ∧ t.hw = s.hw) ∧
  (∀ s, s.ms.mode ≠ .off → s.ms.mode ≠ .stopped →
    Completes .coolantStop s fun t =>
      t.ms.mode = .stopped ∧ t.ms.prev = s.ms.mode ∧ t.ms.cause = 7 ∧ t.pins.coolantOk = false ∧ t.pwr.stopCause = 1 ∧
        t.pwr.stopTick = s.ft.ft ∧ t.mem.bytes = [] ∧ t.trust = s.trust ∧ t.hw = s.hw) ∧
  (∀ sensor s, s.ms.mode ≠ .off → s.ms.mode ≠ .stopped → sensor ∈ sensors s →
    Completes (.thermalTrip sensor) s fun t =>
      t.ms.mode = .stopped ∧ t.ms.prev = s.ms.mode ∧ t.ms.cause = 8 ∧ t.pwr.stopCause = 2 ∧
        t.pwr.stopSensor = BitVec.ofNat 5 sensor ∧ t.pwr.stopTick = s.ft.ft ∧ t.mem.bytes = [] ∧ t.pins = s.pins ∧ t.hw = s.hw) ∧
  (∀ s, s.ms.mode = .stopped → s.pins.perstAsserted = true →
    Completes .coolantOkNAssert s fun t =>
      t.ms = { ModState.reset with mode := .standby, prev := .stopped, cause := 1, kindled := s.ms.kindled, entered := s.clk } ∧
        t.pins.coolantOk = true ∧ t.pins.perstAsserted = true ∧ t.hw = s.hw) ∧
  (∀ st s, inService s = true → st < stackCount s → (kindlingMap s = false ∨ st = 0) → s.mem.heldReads = [] →
    Completes (.zeroFillComplete st) s fun t =>
      t = serveUnwritten { s with mem := { s.mem with filled := s.mem.filled.put false st true } }) ∧
  (∀ s, s.ms.mode = .standby → s.ms.trans = .none → s.pins.standbyReady = false → s.pins.perstAsserted = false → s.pins.coolantOk = true →
    Completes .standbyReady s fun t =>
      t.ms = { s.ms with trans := .bringUp } ∧ t.pins = { s.pins with standbyReady := true, straps := s.pins.boardStraps } ∧ t.mem = s.mem) ∧
  (∀ st s, inService s = true → st < stackCount s → (kindlingMap s = false ∨ st = 0) → s.coll.unwritten = [] →
    Completes (.zeroFillComplete st) s fun t =>
      t.mem.filled.get false st = true ∧
        (∃ more, t.mem.heldReads = s.mem.heldReads.filter (·.stack != st) ++ more ∧
          (∀ h ∈ more, h.stack ≠ st ∧ s.mem.filled.get false h.stack = false)) ∧
        t = { s with mem := t.mem, out := t.out } ∧
        ((∀ h ∈ s.mem.heldReads, h.stack = st → ∀ e ∈ h.errors, Ecc.bad e.2 = false) → t.mem.bytes = s.mem.bytes))

/-- R21, R22, R25, R27, R390, R409, R429, R431, R432: the requests to IOD_STATE_REQ and the ends of the transitions they begin complete where R21
lists them, and leave IOD_STATE as it says.
R27: while a requested transition is in progress, every request to IOD_STATE_REQ is rejected: REQ_REJECT is set, and nothing else of the
module changes but what its log and the clock of the sowing log record. -/
def Obligations.StateRequestsComplete : Prop :=
  ((∀ s, s.ms.mode = .kindling → s.ms.trans = .none → s.trust.s2Loaded = true →
     Completes .enterFull s fun t => t.ms = { s.ms with trans := .training s.clk } ∧ t.bist.running = false ∧ t.hw = s.hw ∧ t.pins = s.pins ∧
       t.ft = s.ft ∧ t.sync = s.sync) ∧
   (∀ s c, s.ms.mode = .kindling → s.ms.trans = .training c → s.clk ≤ c + 1000000000 → portsSettled s = true →
     Completes .fullServiceTrainingDone s fun t =>
       t.ms = { s.ms with mode := .full, prev := .kindling, cause := 2, trans := .none, dieFenced := s.ms.dieFenced &&& 14, entered := s.clk } ∧
         t.bringup.failStep = 0 ∧ t.bringup.failUnit = 0 ∧
         t.bringup.rate = 7 ∧ t.bringup.width = 16 ∧ t.bringup.entryMs = min 1023 ((s.clk - c) / 1000000) ∧
         t.ember.effLogPages = s.ember.logPages.toNat ∧ t.host.pollNs = 200 ∧ t.ft = { s.ft with still := t.ft.still } ∧ t.trust = s.trust ∧ t.pins = s.pins) ∧
   (∀ step unit s c, 1 ≤ step → step ≤ 6 → unit < 16 → s.ms.mode = .kindling → s.ms.trans = .training c →
     Completes (.entryStepFail step unit) s fun t =>
       t.ms = { s.ms with mode := .kindling, prev := .kindling, cause := 11, trans := .none, dieFenced := t.ms.dieFenced, entered := s.clk } ∧
         t.bringup.failStep = step ∧ t.bringup.failUnit = unit ∧ t.bringup.rate ≤ 4 ∧ t.bringup.width ≤ 4 ∧
         t.ft = { s.ft with still := t.ft.still } ∧ t.trust = s.trust) ∧
   (∀ back s, s.ms.trans = .none → (s.ms.mode = .full ∧ anyCtxActive s = false ∨ s.ms.mode = .fenced) → justFaulted s = false →
     Completes (.enterKindling back) s fun t =>
       t = { writeLogged 0x24 2 s with ms := { s.ms with trans := .toKindling back } }) ∧
   (∀ back s, s.ms.trans = .none → s.ms.mode = .fenced → s.ms.entered = s.clk → (s.ms.prev = .full ∨ s.ms.prev = .banked) →
     Completes (.enterKindling back) s fun t => t = { writeLogged 0x24 2 s with ms := { s.ms with reqReject := true } }) ∧
   (∀ back s, s.ms.trans = .toKindling back → (isFenced s 0 = false ∨ back = true) →
     let t := endRequest s
     (tick s).ms.mode = .kindling ∧ (tick s).ms.trans = .none ∧ t.ms.prev = s.ms.mode ∧ t.ms.entered = s.clk ∧
       t.ms.mode = .kindling ∧ t.ms.cause = 2 ∧ t.ms.trans = .none ∧ t.ms.dieFenced = 0 ∧ (pwrDie t 0).req = 0 ∧ (pwrDie t 0).eff = 0 ∧
         (pwrDie t 0).mhz = 400 ∧ t.bringup.rate ≤ 4 ∧ t.bringup.width ≤ 4 ∧ t.yoke.deposed = false ∧ t.ft = { s.ft with still := t.ft.still } ∧
         t.trust = s.trust ∧ (∀ l < 10, l ≠ 6 → (duestLink t l).state = 0) ∧ (duestLink t 6).state = 2 ∧
         ∀ l, (duestLink t l).crc = (duestLink s l).crc ∧ (duestLink t l).replay = (duestLink s l).replay) ∧
   (∀ s, s.ms.mode = .full → s.ms.trans = .none → strapYokeEn s = true → anyCtxActive s = false →
     Completes .enterBanked s fun t =>
       t = { s with ms := { s.ms with mode := .banked, prev := .full, cause := 2, trans := .none, entered := s.clk },
                    yoke := { s.yoke with deposed := false, stage := .none }, host := t.host, out := t.out }) ∧
   (∀ s, s.ms.mode = .fenced → s.ms.trans = .none → anyCtxActive s = false → s.ms.dieFenced ≠ 0 →
     Completes .clearFence s fun t =>
       t = { s with ms := { s.ms with trans := .dieReturn s.ms.dieFenced s.clk }, duest := t.duest } ∧
         ∀ l < 10, duestLink t l = if linkPresent s l = true ∧ (linkEnds l).any (isFenced s) = true then { duestLink s l with state := 1 }
                                   else duestLink s l) ∧
   (∀ s, s.ms.mode = .fenced → s.ms.trans = .none → anyCtxActive s = false → s.ms.dieFenced = 0 → IdlePorts s →
     Completes .clearFence s fun t =>
       t = { s with ms := { s.ms with mode := .full, prev := .fenced, cause := 2, trans := .none, entered := s.clk },
                    host := t.host, out := t.out, pwr := t.pwr, link := t.link, adm := t.adm, descs := t.descs, freeCtr := t.freeCtr } ∧
         ∀ p < 16, (portOf s p).en = true → (portOf s p).state = .off → (portOf t p).state = .training) ∧
   (∀ returned dies c s, s.ms.mode = .fenced → s.ms.trans = .dieReturn dies c → s.ms.dieFenced = dies →
     (if c + 250000000 < s.clk then dies else dies &&& ~~~returned) = 0 → IdlePorts s →
     Completes (.dieReturnDone returned) s fun t =>
       t.ms = { s.ms with mode := .full, prev := .fenced, cause := 2, trans := .none, dieFenced := 0, entered := s.clk } ∧
         t.ft = { s.ft with still := t.ft.still } ∧ t.trust = s.trust) ∧
   (∀ returned dies c s, s.ms.mode = .fenced → s.ms.trans = .dieReturn dies c → s.ms.dieFenced = dies →
     (if c + 250000000 < s.clk then dies else dies &&& ~~~returned) ≠ 0 →
     Completes (.dieReturnDone returned) s fun t =>
       t.ms = { s.ms with mode := .fenced, prev := .fenced, cause := 11, trans := .none,
                          dieFenced := if c + 250000000 < s.clk then dies else dies &&& ~~~returned, entered := s.clk } ∧
         t.ft = { s.ft with still := t.ft.still } ∧ t.trust = s.trust)) ∧
  (∀ s c, isBusy s = true → inService s = true → s.ms.mode ≠ .full →
     (c = .enterFull ∨ (∃ b, c = .enterKindling b) ∨ c = .enterBanked ∨ c = .clearFence) →
     ∃ k, k < 5 ∧ exec c s = .next { writeLogged 0x24 k s with ms := { s.ms with reqReject := true } })

/-- R34, R35, R36, R41 to R44, R249: polling, fetch, dispatch, release, start and resumption complete, and do what the rules give them. -/
def Obligations.RingCommandsComplete : Prop :=
  (∀ s, inService s = true →
    Completes (.doorbellPoll none) s fun t =>
      t = { s with host := t.host, out := t.out } ∧ t.host.pollNs = min (2 * s.host.pollNs) s.host.maxNs.toNat ∧
        ∀ m ∈ polledRecords s, ∀ j < 8, (sring t (8 * m + j)).err = true) ∧
  (∀ ws s, inService s = true →
    Completes (.doorbellPoll (some ws)) s fun t =>
      t = { s with host := t.host, out := t.out } ∧
        (∀ f ∈ doorbellFields (polledRecords s) ws, f.1 < 64 → (sring t f.1).prod = some f.2) ∧
        ((∀ f ∈ doorbellFields (polledRecords s) ws, s.host.seen.get 0 f.1 = f.2) →
          t.host.pollNs = min (2 * s.host.pollNs) s.host.maxNs.toNat) ∧
        ((∃ f ∈ doorbellFields (polledRecords s) ws, s.host.seen.get 0 f.1 ≠ f.2) → t.host.pollNs = 200)) ∧
  (∀ n b x s, n < 64 → fetchMode s = true → isFetching s n = true → 0 < ringAhead (sring s n) →
    ringAhead (sring s n) ≤ 2 ^ (sring s n).log2.toNat → ringAhead (sring s n) ≤ 2 ^ 31 → ringOpen s n < 256 →
    (lgDom s dRingSlot).parityBad = false → (lgDom s dRingSlot).take n 1 = some x →
    Completes (.descFetch n (some b)) s fun t =>
      t = logEvent lkDesc (descPayload ⟨n, (sring s n).fetch⟩ (padTo 64 b))
        (setSring n { sring s n with fetch := (sring s n).fetch + 1 }
          (setLgDom dRingSlot x { readEntry n s with descs := s.descs ++ [newDesc s n (sring s n).fetch (padTo 64 b)] }))) ∧
  (∀ n s, n < 64 → fetchMode s = true → isFetching s n = true → 0 < ringAhead (sring s n) →
    ringAhead (sring s n) ≤ 2 ^ (sring s n).log2.toNat → ringAhead (sring s n) ≤ 2 ^ 31 → ringOpen s n < 256 → (lgDom s dRingSlot).free ≠ 0 →
    Completes (.descFetch n none) s fun t =>
      t = raiseVector 66 (setSring n { sring s n with err := true, errCode := 3 } (readEntry n s))) ∧
  (∀ n b s, n < 64 → (256 ≤ ringOpen s n ∨ (lgDom s dRingSlot).free = 0) →
    Completes (.descFetch n b) s fun t => t = judgeRing n s) ∧
  (∀ d s, arbitrate s = some d → (hSown d.bytes = false ∨ d.replayed = true) → partnerOf s d = none → fencedDeps s d = 0 →
    Completes .descDispatch s fun t => t = enqueueDesc d 0 s) ∧
  (∀ d e s, arbitrate s = some d → (hSown d.bytes = false ∨ d.replayed = true) → partnerOf s d = some e →
    fencedDeps s d = 0 → fencedDeps s e = 0 →
    Completes .descDispatch s fun t =>
      t = countLate e (latenessOf s e) (enqueueDesc e (latenessOf s e) (enqueueDesc d 0 (updDesc e.ref (fun x => { x with pair := some d.ref })
        (updDesc d.ref (fun x => { x with pair := some e.ref }) s))))) ∧
  (∀ d s, arbitrate s = some d → hSown d.bytes = true → d.replayed = false → partnerOf s d = none → fencedDeps s d = 0 →
    s.ft.ft.toNat ≤ (hLaunch d.bytes).toNat →
    Completes .sownRelease s fun t => t = enqueueDesc d 0 s) ∧
  (∀ d s, arbitrate s = some d → hSown d.bytes = true → d.replayed = false → partnerOf s d = none → fencedDeps s d = 0 →
    (hLaunch d.bytes).toNat < s.ft.ft.toNat →
    Completes .sownRelease s fun t =>
      let late := s.ft.ft.toNat - (hLaunch d.bytes).toNat
      t = { enqueueDesc d late s with ft := t.ft, lag := t.lag } ∧ t.ft.lateCount = s.ft.lateCount.add 1 ∧
        t.ft.lateMax.toNat = max s.ft.lateMax.toNat (min 0xFFFFFFFF late) ∧
        t.lag.ringLate.get .reset d.ref.ring = (s.lag.ringLate.get .reset d.ref.ring).add late) ∧
  (∀ d e s, arbitrate s = some d → hSown d.bytes = true → d.replayed = false → partnerOf s d = some e → fencedDeps s d = 0 →
    fencedDeps s e = 0 →
    Completes .sownRelease s fun t =>
      t = countLate e (latenessOf s e) (countLate d (latenessOf s d) (enqueueDesc e (latenessOf s e) (enqueueDesc d (latenessOf s d)
        (updDesc e.ref (fun x => { x with pair := some d.ref }) (updDesc d.ref (fun x => { x with pair := some e.ref }) s)))))) ∧
  (∀ tg d s, targetBusy s tg = false → resumable s tg = false → exchangeFirst s tg = false → nextQueued s tg = some d →
    waitsFill s d = false → d.pair = none →
    Completes (.descStart tg) s fun t => t = recordsMet tg d.ref (openTxns tg d.ref (startCopy tg d.ref (closeTxns tg s)))) ∧
  (∀ tg d e s, targetBusy s tg = false → resumable s tg = false → exchangeFirst s tg = false → nextQueued s tg = some d →
    waitsFill s d = false → d.pair = some e →
    Completes (.descStart tg) s fun t =>
      t = recordsMet tg e (recordsMet tg d.ref (startCopy tg e (openTxns tg d.ref (startCopy tg d.ref (closeTxns tg s)))))) ∧
  (∀ tg d s, endedInPlace s tg = some d → Completes (.descResume tg) s fun t => t = updDesc d.ref (updCopy tg goOn) s) ∧
  (∀ tg d s, endedInPlace s tg = none → targetBusy s tg = false → nextParked s tg = some d →
    Completes (.descResume tg) s fun t => t = updDesc d.ref (updCopy tg goOn) s)

/-- R46, R49, R50, R59, R61, R62, R267: the ends of waits, completion, MSI-X and the status page complete as the rules give them.
R49, R50, R61: what the writing of a completion record does where the log is not kept: the record's 32 bytes go to ring index p of the
completion ring, p advances, the vector is raised where the record asks for it, and polling starts again at 200 ns. -/
def Obligations.CompletionCommandsComplete : Prop :=
  ((∀ r d off stage s, findDesc s r = some d → limitOf d = some (off, stage) → d.outcome = none →
     (d.op = some .tally ∨ d.op = some .barrier ∨ d.op = some .waitHost) →
     Completes (.waitTimeout r) s fun t =>
       t = (d.copies.filter (limitPassed s (d.fld off 0 32) stage)).foldl
         (fun s c => endWait d.ref c.target { status := 3, detail := 0, nf := none, idx := none } s) s) ∧
   (∀ r d s c, inService s = true → ReadyToComplete s r d → d.op = some .nop → d.replayed = false → hSilent d.bytes = false →
     recordRing s d = some c → cringFull (cring s c) = false →
     (∀ e ∈ s.descs, e.waiting = none ∨ recordRing s e ≠ some c) →
     Completes (.descComplete r) s fun t => t = serviceExchange (retire d.ref (writeRecord c d (outcomeOf s d) s))) ∧
   (∀ c d s, inService s = true → cringFull (cring s c) = false → firstWaiting s c = some d →
     Completes (.completionRecordWaitEnd c) s fun t => t = retire d.ref (writeRecord c d (outcomeOf s d) s)) ∧
   (∀ c s t0, (cring s c).due = true → (cring s c).lastRaise = some t0 → t0 + 1000 * (cring s c).modUs.toNat ≤ s.clk →
     Completes (.msixModerationEnd c) s fun t =>
       t = raiseVector c (setCring c { cring s c with due := false, lastRaise := some s.clk } s)) ∧
   (∀ v s u, v < 256 → inService s = true → u = writeLogged (0x10000C + 0x10 * v) 0 s → (msixEntry u v).masked = true →
     ((msixEntry u v).pending = false →
       Completes (.msixUnmask v) s fun t => t = setMsix v { msixEntry u v with masked := false } u) ∧
     ((msixEntry u v).pending = true → inService u = true →
       Completes (.msixUnmask v) s fun t =>
         t = { setMsix v { msixEntry u v with masked := false, pending := false } u with
               out := u.out ++ [.msix v (msixEntry u v).addr (msixEntry u v).data] })) ∧
   (∀ s, pageMay s = true →
     Completes .statusPageWrite s fun t =>
       t = { s with host := t.host, out := t.out } ∧ t.host.pageSeq = s.host.pageSeq + 2 ∧ t.host.pageLast = some s.clk ∧
         t.host.pageWrites = s.host.pageWrites + 1 ∧
         ∃ lines, t.out = s.out ++ [.hostWrite s.host.statusAddr (leBytes 4 (s.host.pageSeq + 1).toNat)] ++ lines ++
           [.hostWrite s.host.statusAddr (leBytes 4 (s.host.pageSeq + 2).toNat)])) ∧
  (∀ c d o s, logging s = false → o.nf = none →
     let size := 2 ^ (cring s c).log2.toNat
     let s1 := { setCring c { cring s c with p := (cring s c).p + 1 } s with
       out := s.out ++ [.hostWrite ((cring s c).addr + BitVec.ofNat 64 (32 * ((cring s c).p.toNat % size)))
         (recordBytes d o ((cring s c).p.toNat / size % 2 == 0))] }
     writeRecord c d o s = setPoll 200 (if hIrq d.bytes = true ∨ 2 ≤ o.status then ringVector c s1 else s1) ∧
       (recordBytes d o ((cring s c).p.toNat / size % 2 == 0)).length = 32)

/-- R31, R53 to R58, R502: the writes of ring registers and the context commands complete: in the states named they have the effect that the
rules give them. -/
def Obligations.RingRegistersAndContextsComplete : Prop :=
  (∀ c v s, c < 64 → inService s = true →
    Completes (.cringEnable c v) s fun t => t = writeCringCfg c v (writeLogged (0x12008 + 0x10 * c) v.toNat s)) ∧
  (∀ c v s, (cring s c).en = false → v.getLsbD 0 = true → 6 ≤ (v.toNat / 2 % 32) → (v.toNat / 2 % 32) ≤ 20 →
    cring (writeCringCfg c v s) c = { cring s c with en := true, log2 := BitVec.ofNat 5 (v.toNat / 2), irqEn := v.getLsbD 6,
                                                     modUs := BitVec.ofNat 16 (v.toNat / 256), p := 0, cons := 0 }) ∧
  (∀ n reg v s, n < 64 → inService s = true →
    Completes (.sringCfgWrite n reg v) s fun t => t = writeSring n reg v (writeLogged (0x11000 + 0x20 * n + sringOffset reg) v.toNat s)) ∧
  (∀ n s, n < 16 → inService s = true → (ctxOf s n).state = .idle → logging s = false → ctxCfgBad s (ctxOf s n) = false →
    overlapsActive s n = false → (ctxOf s n).carried = false →
    Completes (.ctxBegin n) s fun t =>
      t = { s with host := t.host, out := t.out } ∧ (ctxOf t n).state = .active ∧ (ctxOf t n).result = 1 ∧
        (ctxOf t n).recTallies = ownTallies s (ctxOf s n) ∧ (ctxOf t n).recGen = genBits s (ctxOf s n).lines) ∧
  (∀ n s, n < 16 → inService s = true → (ctxOf s n).state = .idle → logging s = false → ctxCfgBad s (ctxOf s n) = false →
    overlapsActive s n = false → (ctxOf s n).carried = true → (ctxOf s n).restore = false →
    Completes (.ctxBegin n) s fun t =>
      t = { s with host := t.host, out := t.out } ∧ (ctxOf t n).state = .active ∧ (ctxOf t n).result = 1) ∧
  (∀ n s, n < 16 → inService s = true → (ctxOf s n).state = .idle → logging s = false → ctxCfgBad s (ctxOf s n) = false →
    overlapsActive s n = false → (ctxOf s n).carried = true → (ctxOf s n).restore = true →
    firstBad s .bar2 (ctxOf s n).save.toNat (saveBytes (ctxOf s n)) = none →
    saveMatches (ctxOf s n) (readBytes (settled s) .bar2 (ctxOf s n).save.toNat (saveBytes (ctxOf s n))) = true →
    Completes (.ctxBegin n) s fun t =>
      t = { s with host := t.host, out := t.out, sync := t.sync } ∧ (ctxOf t n).state = .active ∧ (ctxOf t n).result = 1 ∧
        ∀ i < (ctxOf s n).count.toNat, tally t ((ctxOf s n).base.toNat + i) =
          BitVec.ofNat 32 (fieldAt (readBytes (settled s) .bar2 (ctxOf s n).save.toNat (saveBytes (ctxOf s n))) (64 + 4 * i) 0 32)) ∧
  (∀ n s u, n < 16 → inService s = true → u = writeLogged 0x10018 (n + 32) s → (ctxOf u n).state = .active →
    Completes (.ctxEnd n) s fun t => t = setCtx n { ctxOf u n with state := .ending } (logCtx n 2 u)) ∧
  (∀ n s u, n < 16 → inService s = true → u = writeLogged 0x10018 (n + 48) s →
    ((ctxOf u n).state = .active ∨ (ctxOf u n).state = .ending) →
    Completes (.ctxAbort n) s fun t => t = abortDescs n (setCtx n { ctxOf u n with state := .ending } (logCtx n 3 u))) ∧
  (∀ n s, (ctxOf s n).state = .ending → (∀ d ∈ s.descs, d.ctx.toNat ≠ n) → (ctxOf s n).carried = false →
    tidyTally s (ctxOf s n) = none → tidyLine s (ctxOf s n) = none →
    Completes (.ctxEndFinish n) s fun t => (ctxOf t n).state = .idle ∧ (ctxOf t n).result = 1 ∧ t.sync.tallies = s.sync.tallies) ∧
  (∀ n s i, (ctxOf s n).state = .ending → (∀ d ∈ s.descs, d.ctx.toNat ≠ n) → (ctxOf s n).carried = false →
    tidyTally s (ctxOf s n) = some i →
    Completes (.ctxEndFinish n) s fun t => (ctxOf t n).state = .idle ∧ (ctxOf t n).result = 2 ∧ (ctxOf t n).mismatchKind = false ∧
      (ctxOf t n).mismatchIndex = i ∧ t.sync.tallies = s.sync.tallies) ∧
  (∀ n s, (ctxOf s n).state = .ending → (∀ d ∈ s.descs, d.ctx.toNat ≠ n) → (ctxOf s n).carried = true → s.mem.bad = [] →
    Completes (.ctxEndFinish n) s fun t =>
      (ctxOf t n).state = .idle ∧ (ctxOf t n).result = 1 ∧ t.sync.tallies = s.sync.tallies ∧
        t.mem = (storeReceived .bar2 (addressed (ctxOf s n).save.toNat (saveArea s (ctxOf s n))) s).mem)

/-- R44, R59, R60, R498: the descriptors of the host unit complete: NOP and SIGNAL_HOST report OK, WAIT_HOST parks, and its poll ends the
wait once the word satisfies its condition. -/
def Obligations.HostUnitComplete : Prop :=
  (∀ r x s, RunsAt s r .nop 0 x →
    Completes (.nop r) s fun t =>
      t = { s with descs := t.descs } ∧
        ∃ y, findDesc t r = some y ∧ y.copies = x.copies.map fun c =>
          { c with st := .done, report := some { status := 0, detail := 0, nf := none, idx := none } }) ∧
  (∀ r x s, RunsAt s r .waitHost 0 x → waitHostError x = none →
    Completes (.waitHost r) s fun t => t = parkCopy r .host 1 s) ∧
  (∀ r x w s, findDesc s r = some x → x.op = some .waitHost → x.outcome = none → (∃ c ∈ x.copies, c.st.waits = true) →
    hostWordHolds x w = true →
    Completes (.waitHostPoll r (some w)) s fun t =>
      t = logEvent lkHostWord (leBytes 4 r.ring ++ leBytes 4 r.index.toNat ++ leBytes 8 w.toNat)
        (endWait r .host { status := 0, detail := 0, nf := none, idx := none }
          { s with out := s.out ++ [.hostRead (BitVec.ofNat 64 (x.fld 16 0 64)) 8] })) ∧
  (∀ r x w s, findDesc s r = some x → x.op = some .waitHost → x.outcome = none → (∃ c ∈ x.copies, c.st.waits = true) →
    hostWordHolds x w = false → Completes (.waitHostPoll r (some w)) s fun t =>
      t = { s with out := s.out ++ [.hostRead (BitVec.ofNat 64 (x.fld 16 0 64)) 8] }) ∧
  (∀ r x s, findDesc s r = some x → x.op = some .waitHost → x.outcome = none → (∃ c ∈ x.copies, c.st.waits = true) →
    Completes (.waitHostPoll r none) s fun t =>
      t = { s with descs := t.descs, out := s.out ++ [.hostRead (BitVec.ofNat 64 (x.fld 16 0 64)) 8] } ∧
        ∃ y, findDesc t r = some y ∧ ∀ c ∈ y.copies, c.st = .done) ∧
  (∀ r x s, RunsAt s r .signalHost 0 x → signalHostError x = none → x.fld 32 0 8 = 0 →
    Completes (.signalHost r) s fun t =>
      t = finishCopy r .host { status := 0, detail := 0, nf := none, idx := none }
        { s with out := s.out ++ [.hostWrite (BitVec.ofNat 64 (x.fld 16 0 64)) (leBytes 8 (x.fld 24 0 64))] }) ∧
  (∀ r x s, RunsAt s r .signalHost 0 x → signalHostError x = none → x.fld 32 0 8 ≠ 0 → x.replayed = false →
    Completes (.signalHost r) s fun t =>
      t = finishCopy r .host { status := 0, detail := 0, nf := none, idx := none } (raiseVector (x.fld 32 0 8)
        { s with out := s.out ++ [.hostWrite (BitVec.ofNat 64 (x.fld 16 0 64)) (leBytes 8 (x.fld 24 0 64))] }))

/-- R40, R100 to R105, R109, R115, R144, R147, R153, R402: the matrix descriptors complete: where the checks of one pass and memory holds no
uncorrectable codeword, each copy that runs carries out its work: with FINAL = STORE or NONE it is done with OK, with CHAIN its rows wait for
its partner, with STREAM they begin to go out; no byte of memory changes but those that these copies store to. A sending copy whose wait has
lasted 10 ms ends with TIMEOUT.
R47, R103, R114, R196: where a matrix descriptor's checks fail on some copy, nothing is stored and every copy is done: a copy that fails
reports DESC_INVALID, the first of them with the offset of its first condition that fails, and the partner of R103 is done with it. -/
def Obligations.MatrixCommandsComplete : Prop :=
  ((∀ o c r x s, (o = .mma ∧ c = .mma r ∨ o = .conv ∧ c = .conv r ∨ o = .bMma ∧ c = .bMma r) → RunsAt s r o 0 x → s.mem.bad = [] →
     (lgDom s dAeTxn).parityBad = false → PartnerPasses s x → firstReport (mmaCopies s o x) = none →
     (finalOf x < 2 → Completes c s fun t => ColumnsKept s t ∧
       t = { s with descs := t.descs, mem := t.mem, ember := t.ember, cores := t.cores, lg := t.lg, freeCtr := t.freeCtr } ∧
       SameBut (matPlaces s x (jobsBegun x (mmaJobs (mmaCopies s o x) x (drawFree s).1))) s t ∧ RanDone t x 0 isOk) ∧
     (finalOf x = 2 → Completes c s fun t =>
       t.streams.drains.length = s.streams.drains.length + (x.copies.filter fun k => x.runsOn 0 k.target).length ∧
         t.streams.raw = s.streams.raw ∧ ColumnsKept s t ∧
         t = { s with descs := t.descs, mem := t.mem, ember := t.ember, cores := t.cores, streams := t.streams, lg := t.lg,
                      freeCtr := t.freeCtr } ∧
         SameBut (matPlaces s x (jobsBegun x (mmaJobs (mmaCopies s o x) x (drawFree s).1))) s t ∧
         ∃ y, findDesc t r = some y ∧ ∀ k ∈ y.copies, x.runsOn 0 k.target = true → k.st = .running ∧ k.stage = 1) ∧
     (finalOf x = 3 → isFenced s (x.fld 44 16 2) = false → Completes c s fun t => ColumnsKept s t ∧
         t = { s with descs := t.descs, mem := t.mem, ember := t.ember, cores := t.cores, streams := t.streams, lg := t.lg, out := t.out,
                      freeCtr := t.freeCtr } ∧
         SameBut (matPlaces s x (jobsBegun x (mmaJobs (mmaCopies s o x) x (drawFree s).1))) s t ∧
         ∃ y, findDesc t r = some y ∧ ∀ k ∈ y.copies, x.runsOn 0 k.target = true → k.stage = 1)) ∧
   (∀ c r x s, (c = .wMmaAccumulate r ∧ isFlush x = false ∨ c = .wMmaFlush r ∧ isFlush x = true) → RunsAt s r .wMma 0 x → s.mem.bad = [] →
     (lgDom s dAeTxn).parityBad = false → firstReport (wMmaCopies s x) = none →
     Completes c s fun t => ColumnsKept s t ∧
       t = { s with descs := t.descs, mem := t.mem, ember := t.ember, cores := t.cores, lg := t.lg, freeCtr := t.freeCtr } ∧
       SameBut (matPlaces s x (jobsBegun x (wMmaJobs (wMmaCopies s x) x (drawFree s).1))) s t ∧ RanDone t x 0 isOk) ∧
   (∀ r x e s, findDesc s r = some x → e ∈ (rawOf s (sendKeyOf x)).senders → e.ref = r → senderLive s e = true →
     10000000 ≤ (s.ft.ft - e.since).toNat →
     Completes (.streamCreditTimeout r) s fun t =>
       t = { s with descs := t.descs, streams := t.streams, cores := t.cores, freeCtr := t.freeCtr } ∧
         ∃ y, findDesc t r = some y ∧ ∀ k ∈ y.copies, k.target = e.target → k.st = .done ∧ ∃ rep, k.report = some rep ∧ rep.status = 3)) ∧
  (∀ o c r x rep s, (o = .mma ∧ c = .mma r ∨ o = .conv ∧ c = .conv r ∨ o = .bMma ∧ c = .bMma r) → RunsAt s r o 0 x →
     (∀ k ∈ x.copies, k.st ≠ .done) → PartnerPasses s x → firstReport (mmaCopies s o x) = some rep →
     rep.status = 9 ∧ Completes c s (fun t =>
       t = { s with descs := t.descs, freeCtr := s.freeCtr + 1 } ∧
         (∃ y, findDesc t r = some y ∧ (∀ k ∈ y.copies, k.st = .done ∧ ∀ e, k.report = some e → e.status = 9) ∧
           ∃ k ∈ y.copies, k.report = some rep) ∧
         ∀ p, x.pair = some p → (findDesc s p).isSome = true → ∃ y, findDesc t p = some y ∧ ∀ k ∈ y.copies, k.st = .done))

/-- R40, R120, R129, R401 to R404: the vector descriptors and the words of raw streams complete: where the checks of a CHAIN pass, each copy
that runs carries out its work, takes the rows that wait for it, or opens its stream with 64 credits; a ROW is processed and returns a
credit; the last END ends the copy with CLOSE; of these none changes a byte of memory but those that it stores to; a FENCED word ends the
CHAIN; a CREDIT adds its credits; and a stream of a running die that is silent for 10 ms ends with TIMEOUT. -/
def Obligations.VectorCommandsComplete : Prop :=
  (∀ r x s, RunsAt s r .chain 0 x → chainSrc x = 0 → s.mem.bad = [] → (lgDom s dAeTxn).parityBad = false →
    (lgDom s dHeTxn).parityBad = false → firstReport (plansMade chainPlan s x) = none →
    Completes (.chainTensor r) s fun t => ColumnsKept s t ∧
      t = { s with descs := t.descs, mem := t.mem, ember := t.ember, cores := t.cores, lg := t.lg, freeCtr := t.freeCtr } ∧
      SameBut (planPlaces chainPlan 0 s x) s t ∧ RanDone t x 0 isOk) ∧
  (∀ r x s, RunsAt s r .chain 0 x → chainSrc x = 1 → s.mem.bad = [] → (lgDom s dAeTxn).parityBad = false →
    (lgDom s dHeTxn).parityBad = false → firstReport (pairedResults s x) = none → firstReport (chainResults s x) = none →
    Completes (.chainDrain r) s fun t => t.streams.raw = s.streams.raw ∧
      t.streams.drains = s.streams.drains.filter (fun e => !(e.chain == r && x.runsOn 0 e.target)) ∧ ColumnsKept s t ∧
      t = { s with descs := t.descs, mem := t.mem, ember := t.ember, cores := t.cores, streams := t.streams, lg := t.lg,
                   freeCtr := t.freeCtr } ∧
      SameBut (drainPlaces s x) s t ∧
      (∃ y, findDesc t r = some y ∧ ∀ c ∈ y.copies, x.runsOn 0 c.target = true → (drainOf s r c.target).isSome = true → c.st = .done) ∧
      ∀ p y, x.pair = some p → findDesc t p = some y → ∀ e ∈ drainsFor s x, ∀ c ∈ y.copies, c.target = e.target → c.st = .done) ∧
  (∀ r x s, RunsAt s r .chain 0 x → chainSrc x = 2 → s.mem.bad = [] → isFenced s (x.fld 60 0 2) = false →
    firstReport (chainResults s x) = none →
    Completes (.chainStream r) s fun t =>
      t = { s with descs := t.descs, streams := t.streams, out := t.out } ∧
        (∃ y, findDesc t r = some y ∧ ∀ c ∈ y.copies, x.runsOn 0 c.target = true → c.stage = 1) ∧
        (∀ k, (rawOf t k).back = (rawOf s k).back ++
          List.replicate (((x.copies.filter (Copy.runs 0)).filter fun c => recvKeyOf x c.target == k).length) (64, false)) ∧
        ∀ c ∈ x.copies, c.runs 0 = true → (rawOf t (recvKeyOf x c.target)).ends = 0 ∧ (rawOf t (recvKeyOf x c.target)).count = 0) ∧
  (∀ k x n w rest s, (rawOf s (keyOf k)).fwd = .row n w :: rest → receiverOf s k = some x → s.mem.bad = [] →
    (lgDom s dAeTxn).parityBad = false →
    Completes (.streamRow k) s fun t =>
      t = { s with streams := t.streams, mem := t.mem, ember := t.ember, cores := t.cores, lg := t.lg, out := t.out, freeCtr := t.freeCtr } ∧
        ColumnsKept s t ∧
        (rawOf t (keyOf k)).fwd = rest ∧ (rawOf t (keyOf k)).back = (rawOf s (keyOf k)).back ++ [(1, false)] ∧
        (rawOf t (keyOf k)).last = s.ft.ft ∧
        SameBut (rowPlaces x k w (setRaw (keyOf k) { rawOf s (keyOf k) with fwd := rest } s)) s t) ∧
  (∀ k x n rest s, (rawOf s (keyOf k)).fwd = .fin n :: rest → receiverOf s k = some x → (rawOf s (keyOf k)).ends + 1 < x.fld 60 9 7 →
    Completes (.streamEnd k) s fun t =>
      t = { setRaw (keyOf k) { rawOf s (keyOf k) with fwd := rest, ends := (rawOf s (keyOf k)).ends + 1, last := s.ft.ft,
                                                      back := (rawOf s (keyOf k)).back ++ [(1, false)] } s with
            cores := t.cores, out := t.out, freeCtr := s.freeCtr + 1 }) ∧
  (∀ k x n rest s, (rawOf s (keyOf k)).fwd = .fin n :: rest → receiverOf s k = some x → x.fld 60 9 7 ≤ (rawOf s (keyOf k)).ends + 1 →
    findDesc s x.ref = some x → s.mem.bad = [] → (lgDom s dAeTxn).parityBad = false →
    Completes (.streamEnd k) s fun t =>
      t = { s with streams := t.streams, descs := t.descs, mem := t.mem, ember := t.ember, cores := t.cores, lg := t.lg, out := t.out,
                   freeCtr := t.freeCtr } ∧ ColumnsKept s t ∧
        (rawOf t (keyOf k)).fwd = rest ∧ (rawOf t (keyOf k)).back = (rawOf s (keyOf k)).back ++ [(1, false), (0, true)] ∧
        SameBut (placesAt s (.core k.dstDie k.dstCore) (storedAt (endWrites x (.core k.dstDie k.dstCore) (keyOf k) s))) s t ∧
        ∃ y, findDesc t x.ref = some y ∧ ∀ c ∈ y.copies, c.target = .core k.dstDie k.dstCore →
          c.st = .done ∧ ∃ rep, c.report = some rep ∧ isOk rep) ∧
  (∀ k x rest s, (rawOf s (keyOf k)).fwd = .fenced :: rest → receiverOf s k = some x →
    Completes (.streamFenced k) s fun t =>
      t = setOutcome x.ref 11 (2 ^ k.srcDie) none (countStreamWaits x (setRaw (keyOf k) { rawOf s (keyOf k) with fwd := rest } s))) ∧
  (∀ k n close rest s, (rawOf s (keyOf k)).back = (n, close) :: rest →
    Completes (.streamCredit k) s fun t =>
      t = { s with streams := t.streams, descs := t.descs, cores := t.cores, out := t.out, freeCtr := t.freeCtr } ∧
        (rawOf t (keyOf k)).back = rest ∧
        (rawOf t (keyOf k)).fwd.length + (rawOf t (keyOf k)).credits =
          (rawOf s (keyOf k)).fwd.length + (if close = true then 0 else (rawOf s (keyOf k)).credits + n)) ∧
  (∀ r x c s, findDesc s r = some x → x.op = some .chain → chainSrc x = 2 → x.outcome = none → isFenced s (x.fld 60 0 2) = false →
    c ∈ x.copies → c.st = .running → c.stage = 1 → 10000000 ≤ (s.ft.ft - (rawOf s (recvKeyOf x c.target)).last).toNat →
    Completes (.streamWaitTimeout r) s fun t =>
      t = { s with streams := t.streams, descs := t.descs, cores := t.cores, out := t.out, freeCtr := t.freeCtr } ∧
        ∃ y, findDesc t r = some y ∧ ∀ k ∈ y.copies, k.target = c.target → k.st = .done ∧ ∃ rep, k.report = some rep ∧ rep.status = 3)

/-- R169, R172, R174, R179 to R182, R191: what a read returns, the scrubber, and the reads and writes of the BAR2 window complete. -/
def Obligations.MemoryCommandsComplete : Prop :=
  (∀ r core addr x c p s, findDesc s r = some x → copyAt x (targetOfCore x core) = some c → c.st.busy = true → x.outcome = none →
    (resolveAlias (rqOf (targetOfCore x core)) addr.toNat).bind (placeOf s) = some p → isFenced s p.die = false → symbolsAt s.mem p = 0 →
    Completes (.memReadReturn r core addr .clean) s (fun t => t = s) ∧
    Completes (.memReadReturn r core addr .corrected) s (fun t => t = countCorrected p s) ∧
    (∀ sy, Completes (.memReadReturn r core addr (.uncorrectable sy)) s fun t =>
      t = memUncorrectable r (targetOfCore x core) addr.toNat p (readSource x) (symbolsOf sy) (markBad p sy s)) ∧
    (∀ bs, Completes (.memReadReturn r core addr (.miscorrected bs)) s fun t => t = miscorrect p bs s)) ∧
  (∀ addr p s, inService s = true → placeOf s addr.toNat = some p → isFenced s p.die = false →
    (∀ st x, p = .stack st x → s.mem.filled.get false st = true) → symbolsAt s.mem p = 0 →
    Completes (.scrub addr .clean) s (fun t => t = s) ∧
    Completes (.scrub addr .corrected) s (fun t => t = countCorrected p s) ∧
    (∀ sy, Completes (.scrub addr (.uncorrectable sy)) s fun t =>
      t = { s with mem := t.mem } ∧ t.mem.bytes = s.mem.bytes ∧ symbolsAt t.mem p = symbolsOf sy) ∧
    (∀ bs, Completes (.scrub addr (.miscorrected bs)) s fun t => t = miscorrect p bs s)) ∧
  (∀ st x s, (countCorrected (.stack st x) s).mem.ceStack.get .reset st = (s.mem.ceStack.get .reset st).add 1) ∧
  (∀ offset len errors tag s, inService s = true → unfilledAt s (bar2Addr s offset) len = none → s.mem.bad = [] →
    (∀ e ∈ errors, e.2 = .clean ∨ e.2 = .corrected) →
    Completes (.bar2Read offset len errors tag) s fun t =>
      t = { s with mem := { s.mem with ceStack := t.mem.ceStack, ceSram := t.mem.ceSram },
                   out := s.out ++ [.pcieData tag ((List.range len).map fun i =>
        match bar2Place s (bar2Addr s offset + i) with
        | some p => if underTest s p then 0 else byteAt (afterWrites s).mem p.key
        | none => 0)] }) ∧
  (∀ offset len i sy tag p s, inService s = true → unfilledAt s (bar2Addr s offset) len = none → s.mem.bad = [] → i < len →
    bar2Place s (bar2Addr s offset + i) = some p → underTest s p = false →
    Completes (.bar2Read offset len [(i, .uncorrectable sy)] tag) s fun t =>
      t = { s with mem := t.mem, out := s.out ++ [.pcieAbort tag] } ∧ t.mem.bytes = s.mem.bytes ∧
        symbolsAt t.mem p = symbolsOf sy ∧ (s.mem.errLog = [] → t.mem.errCount = s.mem.errCount + 1)) ∧
  (∀ offset len errors tag st s, inService s = true → unfilledAt s (bar2Addr s offset) len = some st →
    Completes (.bar2Read offset len errors tag) s fun t =>
      t = { s with mem := { s.mem with heldReads := s.mem.heldReads ++
        [{ stack := st, addr := BitVec.ofNat 44 (bar2Addr s offset), len := len, errors := errors, tag := tag }] } }) ∧
  (∀ offset bytes s, inService s = true → logging s = false → s.mem.bad = [] →
    Completes (.bar2Write offset bytes) s fun t =>
      t = { s with mem := t.mem, ember := t.ember } ∧
        (∀ key, (∀ w ∈ bar2Stores s (bar2Addr s offset) bytes, (access s .bar2 w.1).map Place.key ≠ some key) → byteAt t.mem key = byteAt s.mem key) ∧
        ∀ i p, i < bytes.length → access s .bar2 (bar2Addr s offset + i) = some p → isFenced s p.die = false → underTest s p = false →
          inReserved s (bar2Addr s offset + i) = false → heldBy s (bar2Addr s offset + i) = none →
          (∀ j q, i < j → j < bytes.length → access s .bar2 (bar2Addr s offset + j) = some q → q.key ≠ p.key) →
          byteAt t.mem p.key = bytes.getD i 0)

/-- R40, R201 to R212: the tensor moves complete: where their checks pass and memory holds no uncorrectable codeword, every copy that runs
is done with its report, INDEX_FAULT only on an indexed move, and no byte of memory changes but those that these copies store to; a copy
that has not begun stands as before, unless an index fault has ended it too. -/
def Obligations.MovesComplete : Prop :=
  ∀ o c pl r x s, (o = .copy ∧ c = .copy r ∧ pl = copyPlan ∨ o = .relayout ∧ c = .relayout r ∧ pl = relayoutPlan ∨
      o = .gather ∧ c = .gather r ∧ pl = gatherPlan ∨
      o = .scatter ∧ pl = scatterPlan ∧ (c = .scatterStore r ∧ isScatterAdd x = false ∨ c = .scatterAdd r ∧ isScatterAdd x = true)) →
    RunsAt s r o 0 x → s.mem.bad = [] → (lgDom s dAeTxn).parityBad = false → (lgDom s dHeTxn).parityBad = false →
    firstReport (plansMade pl s x) = none →
    Completes c s fun t => ColumnsKept s t ∧
      t = { s with descs := t.descs, mem := t.mem, ember := t.ember, cores := t.cores, lg := t.lg, freeCtr := t.freeCtr } ∧
      SameBut (planPlaces pl 0 s x) s t ∧ RanOrEnded t x 0 (fun rep => rep.status = 0 ∨ (o = .gather ∨ o = .scatter) ∧ rep.status = 6) ∧
      (o = .copy ∨ o = .relayout → RanDone t x 0 isOk)

/-- R219 to R235, R236: the operations of the Hearth engines complete: an HE_OP and an OPT_STEP whose checks pass end with OK and change no byte
of memory but those that they store to; what an OPT_STEP that has started does is decided by its gate: it parks while its round is ahead,
is skipped where the verdict is SKIP, and ends with TIMEOUT after 100,000,000 ticks. -/
def Obligations.HearthCommandsComplete : Prop :=
  (∀ k c r x s, (k = 0 ∧ c = .heOpFill r ∨ k = 1 ∧ c = .heOpCopy r ∨ k = 2 ∧ c = .heOpCast r ∨ k = 3 ∧ c = .heOpReduceAdd r ∨
      k = 4 ∧ c = .heOpScale r ∨ k = 5 ∧ c = .heOpNorm r ∨ k = 6 ∧ c = .heOpNormAcc r) →
    RunsAt s r .heOp 0 x → (∀ c ∈ x.copies, c.target = .hearth) → heOp x = k → firstError (heChecks (withSnap x s) x) = none →
    s.mem.bad = [] → (lgDom s dHeTxn).parityBad = false →
    Completes c s fun t => ColumnsKept s t ∧
      t = { s with descs := t.descs, mem := t.mem, ember := t.ember, he := t.he, lg := t.lg, freeCtr := t.freeCtr } ∧
      SameBut (planPlaces hePlan 0 s x) s t ∧ RanDone t x 0 isOk) ∧
  (∀ r x s, RunsAt s r .optStep 0 x → (∀ c ∈ x.copies, c.target = .hearth) → firstError (optChecks (withSnap x s) x) = none →
    s.mem.bad = [] → (∀ y, findDesc (optBegun r s) r = some y → Completes (.optStep r) s fun t => t = decideGate y (optBegun r s))) ∧
  (∀ r x s, RunsAt s r .optStep 1 x → (∀ c ∈ x.copies, c.target = .hearth) → s.mem.bad = [] → (lgDom s dHeTxn).parityBad = false →
    (isGated x = false ∨ ∃ w, gateOf s (vround x) = .held w ∧ w.getLsbD 0 = false) →
    Completes (.optStep r) s fun t => ColumnsKept s t ∧
      t = { s with descs := t.descs, mem := t.mem, ember := t.ember, he := t.he, lg := t.lg, freeCtr := t.freeCtr } ∧
      SameBut (planPlaces optPlan 1 s x) s t ∧ RanDone t x 1 isOk) ∧
  (∀ r x s, RunsAt s r .optStep 1 x → (∀ c ∈ x.copies, c.target = .hearth) →
    isGated x = true → gateOf s (vround x) = .ahead → parkedOn s .hearth < 4 →
    Completes (.optStep r) s fun t =>
      t = { s with descs := t.descs, host := { s.host with order := s.host.order + 1 } } ∧
        ∃ y, findDesc t r = some y ∧ ∀ c ∈ y.copies, c.st = .parked false s.host.order ∧ c.stage = 1) ∧
  (∀ r x w s, RunsAt s r .optStep 1 x → (∀ c ∈ x.copies, c.target = .hearth) →
    isGated x = true → gateOf s (vround x) = .held w → w.getLsbD 0 = true →
    Completes (.optStep r) s fun t => t = { s with descs := t.descs } ∧
      AllDone t r (fun rep => rep = { status := 2, detail := w.setWidth 32, nf := none, idx := none })) ∧
  (∀ r x c s, findDesc s r = some x → waitingCopy x = some c → x.op = some .optStep → isGated x = true → x.outcome = none →
    c.since + 100000000 ≤ s.clk →
    Completes (.gateTimeout r) s fun t => t = finishCopy r .hearth { status := 3, detail := 0, nf := none, idx := none } s)

/-- R242 to R244, R246, R248, R260, R261: the events and register writes of Field Time complete with the values that the rules give. -/
def Obligations.FieldTimeComplete : Prop :=
  (∀ s, ftRuns s = true → s.ft.arm = true →
    Completes .ftEpochPulse s fun t =>
      t = { s with ft := { s.ft with lastPulse := some s.clk, ft := s.ft.load, arm := false, loadDone := true,
                                     aligned := s.ft.aligned || s.ft.refOk, holdover := false } }) ∧
  (∀ s, ftRuns s = true → s.ft.arm = false →
    let e : Int := (((s.ft.ft.toNat + 5000000) % 10000000 : Nat) : Int) - 5000000
    Completes .ftEpochPulse s fun t =>
      t = { s with ft := { s.ft with lastPulse := some s.clk, epochErr := BitVec.ofInt 32 e,
                                     epochMiss := s.ft.epochMiss || decide (1 < e.natAbs),
                                     aligned := s.ft.aligned && decide (e.natAbs ≤ 4) } }) ∧
  (∀ s c, ftRuns s = true → s.ft.lastPulse = some c → c + 10001000 ≤ s.clk →
    Completes .epochMissTimeout s fun t => t = { s with ft := { s.ft with epochMiss := true, lastPulse := none } }) ∧
  (∀ s, ftRuns s = true →
    Completes .ftRefLoss s fun t =>
      t = { s with pins := { s.pins with ftRef := false }, ft := { s.ft with refOk := false, holdover := true, aligned := false } }) ∧
  (∀ s, ftRuns s = true →
    Completes .ftRefReturn s fun t => t = { s with pins := { s.pins with ftRef := true }, ft := { s.ft with refOk := true } }) ∧
  (∀ v s, inService s = true → v.getLsbD 0 = true → v.getLsbD 1 = false →
    Completes (.ftCtrlArm v) s fun t => t = { writeLogged 0x11000C v.toNat s with ft := { s.ft with arm := true } }) ∧
  (∀ v s, inService s = true → v.getLsbD 1 = true →
    Completes (.ftCtrlDisarm v) s fun t => t = { writeLogged 0x11000C v.toNat s with ft := { s.ft with arm := false } }) ∧
  (∀ v s, inService s = true → v.toNat % 10000000 = 0 → s.ft.arm = false →
    Completes (.ftLoadWrite v) s fun t => t = { writeLogged 0x110010 v.toNat s with ft := { s.ft with load := v } }) ∧
  (∀ v s, inService s = true → (v.toNat % 10000000 ≠ 0 ∨ s.ft.arm = true) →
    Completes (.ftLoadWrite v) s fun t => t = writeLogged 0x110010 v.toNat s) ∧
  (∀ s, inService s = true →
    Completes (.ftNowRead 0) s fun t =>
      t = { s with ft := { s.ft with latch := some ((s.ft.ft >>> 32).setWidth 32) }, out := s.out ++ [.ftNow (s.ft.ft.setWidth 32)] }) ∧
  (∀ s, inService s = true →
    Completes (.ftNowRead 4) s fun t =>
      t = { s with ft := { s.ft with latch := none }, out := s.out ++ [.ftNow (s.ft.latch.getD ((s.ft.ft >>> 32).setWidth 32))] }) ∧
  (∀ s, inService s = true → s.ft.ft.toNat % 10000 = 0 →
    let f := s.ft.ft.toNat / 10000
    let g : Option Nat := if s.ms.mode = .kindling then none else if planActive (planOf s 0) f then some 0
      else if planActive (planOf s 1) f then some 1 else none
    Completes .frameBoundary s fun t => 
      t = { s with ft := { s.ft with governs := g, ruling := match g with | some b => planOf s b | none => Plan.reset } }) ∧
  (∀ s, inService s = true → s.ft.outEn = true → s.ft.ft.toNat % (if s.ft.outSrc = true then 10000 else 10000000) = 0 →
    Completes .ftOutPulse s fun t => t = { s with ft := { s.ft with pulseAt := some s.clk }, out := s.out ++ [.ftOutPulse] }) ∧
  (∀ v s, inService s = true → v.getLsbD 0 = true →
    Completes (.ftOutCfgWrite v) s fun t =>
      let s1 := { writeLogged 0x110020 v.toNat s with ft := { s.ft with outSrc := v.getLsbD 1, outEn := true }, pins := { s.pins with ftpOe := false } }
      t = if s.ft.outEn = false ∧ s.pins.ftpOe = true then claimEvent 0 1 2 1 s1 else { s1 with pins := s.pins }) ∧
  (∀ v s, inService s = true → v.getLsbD 0 = false →
    Completes (.ftOutCfgWrite v) s fun t =>
      t = { writeLogged 0x110020 v.toNat s with ft := { s.ft with outSrc := v.getLsbD 1, outEn := false } })

/-- R246, R248, R293: the time exchanges of a port complete: a request leaves with its stamp and is answered with the stamp of its arrival, and a
reply in time joins the exchanges of which the port reports the mean; after 1 ms without one VALID reads 0.
R257, R494, R497: a write that sets EN of a slot plan completes: a record that passes its check is taken, unless it needs the reserved virtual
channels while claimant 1 holds them; one that fails leaves EN at 0 with its error. -/
def Obligations.TimeExchangesAndPlansComplete : Prop :=
  ((∀ p s, timeMode s = true → portTrained s p = true →
     Completes (.timeReqSend p) s fun t => 
       t = sendWord p (.timeReq s.ft.ft) s ∧
         ((portOf s p).tx.words = [] → (portOf s p).tx.unacked.length < 512 → (portTime t p).sent = some s.ft.ft)) ∧
   (∀ p t1 s, timeMode s = true → portTrained s p = true →
     Completes (.timeReqReceive p t1 false) s fun t => t = sendWord p (.timeRsp t1 s.ft.ft 0) s) ∧
   (∀ p t1 replay s, timeMode s = false → Completes (.timeReqReceive p t1 replay) s fun t => t = s) ∧
   (∀ p t1 s, Completes (.timeReqReceive p t1 true) s fun t => t = s) ∧
   (∀ p t1 t2 turn s, timeMode s = true → portTrained s p = true → (portTime s p).sent = some t1 → (s.ft.ft - t1).toNat ≤ 100000 →
     let out : Int := (t2 - t1).toInt
     let back : Int := (s.ft.ft - (t2 + turn.setWidth 64)).toInt
     Completes (.timeRspReceive p t1 t2 turn false) s fun t =>
       t = { s with ft := { s.ft with ports := t.ft.ports }, freeCtr := t.freeCtr } ∧
         (portTime t p).exchanges = ((out - back, out + back) :: (portTime s p).exchanges).take 16 ∧ (portTime t p).valid = true ∧
         (portTime t p).sent = none ∧ (portTime t p).lastReply = some s.clk ∧ (∀ q, q ≠ p → portTime t q = portTime s q) ∧
         ((portTime s p).exchanges = [] → (portTime t p).offset = BitVec.ofInt 32 (8 * (out - back))) ∧
         (portTime t p).beyond = decide (16 * s.ft.skewLimit.toNat < (portTime t p).offset.toInt.natAbs)) ∧
   (∀ p s c, (portTime s p).valid = true → (portTime s p).lastReply = some c → c + 1000000 ≤ s.clk →
     Completes (.timeReplyTimeout p) s fun t => t = setPortTime p { portTime s p with valid := false } s)) ∧
  (∀ b s, b < 2 → inService s = true →
     let s1 := writeLogged (0x110218 + 0x40 * b) 1 s
     (planOf s1 b).en = false →
     (∀ m es, planCheck s1 (planOf s1 b) = .ok (m, es) → (bitOf m.toNat 6 || bitOf m.toNat 7) = false ∨ claimHolder s1 2 ≠ 1 →
       Completes (.ftPlanEnable b) s fun t =>
         t = setPlan b { planOf s1 b with en := true, err := 0, errEntry := 0, vcMask := m, entries := es } s1) ∧
     (∀ m es, planCheck s1 (planOf s1 b) = .ok (m, es) → (bitOf m.toNat 6 || bitOf m.toNat 7) = true → claimHolder s1 2 = 1 →
       Completes (.ftPlanEnable b) s fun t => t = claimEvent 2 0 2 1 (setPlan b { planOf s1 b with err := 5, errEntry := 0 } s1)) ∧
     (∀ e i, planCheck s1 (planOf s1 b) = .error (e, i) →
       Completes (.ftPlanEnable b) s fun t => t = setPlan b { planOf s1 b with err := e, errEntry := i } s1))

/-- R264: OP of a TALLY on a copy that has started: ADD, SET and READ report the value they leave or find, WAIT and WAIT_ADD do so at once where the
tally has reached GOAL or is past it and park otherwise, and OP = 5 to 7 is rejected with DESC_INVALID.
R262, R264: a change of a tally: every other tally and all else of the module but descriptors keeps its value, no wait on it that it satisfies
is left, and where it satisfies none the tally holds the value given. -/
def Obligations.TallyOperationsComplete : Prop :=
  ((∀ r t x s, CopyRunsAt s r t .tally 0 x → tallyError s x = none →
     let n := tallyNo x
     let c := tally s n
     let v := tallyValue x
     let ok (w : Word) : Report := { status := 0, detail := w, nf := none, idx := none }
     (tallyOp x = 0 → Completes (.tallyAdd r t) s fun u => u = changeTally n (c + v) (finishCopy r t (ok (c + v)) s)) ∧
     (tallyOp x = 1 → Completes (.tallySet r t) s fun u => u = changeTally n v (finishCopy r t (ok v) s)) ∧
     (tallyOp x = 2 → serialDone c (tallyGoal x) = true → Completes (.tallyWait r t) s fun u => u = finishCopy r t (ok c) s) ∧
     (tallyOp x = 2 → serialDone c (tallyGoal x) = false → Completes (.tallyWait r t) s fun u => u = parkCopy r t 1 s) ∧
     (tallyOp x = 3 → serialDone c (tallyGoal x) = true →
       Completes (.tallyWaitAdd r t) s fun u => u = changeTally n (c + v) (finishCopy r t (ok (c + v)) (setTally n (c + v) s))) ∧
     (tallyOp x = 3 → serialDone c (tallyGoal x) = false → Completes (.tallyWaitAdd r t) s fun u => u = parkCopy r t 1 s) ∧
     (tallyOp x = 4 → Completes (.tallyRead r t) s fun u => u = finishCopy r t (ok c) s)) ∧
   (∀ r t x s, CopyRunsAt s r t .tally 0 x → 5 ≤ tallyOp x →
     ∀ c, c = .tallyAdd r t ∨ c = .tallySet r t ∨ c = .tallyWait r t ∨ c = .tallyWaitAdd r t ∨ c = .tallyRead r t →
       Completes c s fun u => u = finishCopy r t { status := 9, detail := 16, nf := none, idx := none } s)) ∧
  (∀ i v s, (∀ j, j ≠ i → tally (changeTally i v s) j = tally s j) ∧ satisfiedOn (changeTally i v s) i = [] ∧
     changeTally i v s = { s with sync := (changeTally i v s).sync, descs := (changeTally i v s).descs, freeCtr := (changeTally i v s).freeCtr } ∧
     (satisfiedOn (setTally i v s) i = [] → changeTally i v s = setTally i v s))

/-- R268, R270, R272: the operations of a BARRIER on a copy that has started: an arrival sets its participant's flag or, where that is set, its
latch; it waits in place where both are set; a wait ends at once where its participant has no pending arrival, and parks otherwise.
R268, R270: a line releases when every participant's arrival flag is 1: GEN inverts, the flags clear, and every full latch empties into its
flag; where some participant has not arrived nothing changes. Every other line keeps its state. -/
def Obligations.BarrierOperationsComplete : Prop :=
  ((∀ r t x y s, CopyRunsAt s r t .barrier 0 x → barrierError s x = none → (lgDom s dBarrier).parityBad = false →
     (lgDom s dBarrier).take (barLine x) 1 = some y →
     let l := barLine x
     let p := partNo t
     let ok (g : Bool) : Report := { status := 0, detail := BitVec.ofNat 32 (bit g), nf := none, idx := none }
     let flagged := setLine l { lineOf s l with arrived := (lineOf s l).arrived.put false p true } (setLgDom dBarrier y s)
     let held := setLine l { lineOf s l with latched := (lineOf s l).latched.put false p true } (setLgDom dBarrier y s)
     ((lineOf s l).arrived.get false p = false →
       (barOp x = 0 → Completes (.barrierArrive r t) s fun u => u = releaseLine l (finishCopy r t (ok (lineOf s l).gen) flagged)) ∧
       (barOp x = 2 → fencedParts s (lineOf s l) = 0 → Completes (.barrierArriveWait r t) s fun u =>
         u = releaseLine l (parkCopy r t 2 (updDesc r (updCopy t fun c => { c with since := s.clk }) flagged)))) ∧
     ((lineOf s l).arrived.get false p = true → (lineOf s l).latched.get false p = false →
       (barOp x = 0 → Completes (.barrierArrive r t) s fun u => u = releaseLine l (finishCopy r t (ok (lineOf s l).gen) held)) ∧
       (barOp x = 2 → fencedParts s (lineOf s l) = 0 → Completes (.barrierArriveWait r t) s fun u =>
         u = releaseLine l (parkCopy r t 2 (updDesc r (updCopy t fun c => { c with since := s.clk }) held))))) ∧
   (∀ r t x s, CopyRunsAt s r t .barrier 0 x → barrierError s x = none → pendingOf (lineOf s (barLine x)) (partNo t) = 2 →
     (barOp x = 0 → Completes (.barrierArrive r t) s fun u => u = updDesc r (updCopy t fun c => { c with st := .inPlace false, stage := 1 }) s) ∧
     (barOp x = 2 → Completes (.barrierArriveWait r t) s fun u => u = updDesc r (updCopy t fun c => { c with st := .inPlace false, stage := 1 }) s)) ∧
   (∀ r t x s, CopyRunsAt s r t .barrier 0 x → barrierError s x = none → barOp x = 1 →
     (pendingOf (lineOf s (barLine x)) (partNo t) = 0 → Completes (.barrierWait r t) s fun u =>
       u = finishCopy r t { status := 0, detail := BitVec.ofNat 32 (bit (lineOf s (barLine x)).gen), nf := none, idx := none } s) ∧
     (pendingOf (lineOf s (barLine x)) (partNo t) ≠ 0 → fencedParts s (lineOf s (barLine x)) = 0 →
       Completes (.barrierWait r t) s fun u => u = parkCopy r t 2 s)) ∧
   (∀ l s, l < 32 → Completes (.barrierLatchRelease l) s fun t => t = releaseLine l s)) ∧
  (∀ l s, (lineReady s (lineOf s l) = false → releaseLine l s = s) ∧
     (lineReady s (lineOf s l) = true →
       (lineOf (releaseLine l s) l).gen = !(lineOf s l).gen ∧ (∀ j, j ≠ l → lineOf (releaseLine l s) j = lineOf s j) ∧
         (releaseLine l s).sync.tallies = s.sync.tallies ∧ (releaseLine l s).mem = s.mem ∧
         (spinning s l = [] → lineOf (releaseLine l s) l =
           { lineOf s l with gen := !(lineOf s l).gen, arrived := (lineOf s l).latched, latched := [] })))

/-- R276 to R284, R301, R311: the commands of stage queues complete: what each leaves in its channel, its queue and its descriptor. -/
def Obligations.StageQueueDescriptorsComplete : Prop :=
  (∀ r x s, RunsAt s r .send 0 x → firstReport (queueErrors x (sendChecks s x)) = none →
    ((sqTx s (sendTxq x)).granted = false ∨ (sqTx s (sendTxq x)).credits = 0) →
    Completes (.send r) s fun t =>
      t = { s with descs := t.descs, host := t.host } ∧
        ∃ y, findDesc t r = some y ∧ ∀ c ∈ y.copies, c.st.waits = true ∧ c.stage = 1) ∧
  (∀ r x s, RunsAt s r .send 0 x → firstReport (queueErrors x (sendChecks s x)) = none → s.mem.bad = [] →
    (sqTx s (sendTxq x)).granted = true → 0 < (sqTx s (sendTxq x)).credits →
    (∀ c ∈ x.copies, ∃ td, queueTd s x c.target = some td ∧ td.rows * td.cols * (td.w / 8) ≤ (sqTx s (sendTxq x)).units * 4096) →
    Completes (.send r) s fun t =>
      (sqTx t (sendTxq x)).next = (sqTx s (sendTxq x)).next + 1 ∧ t.sync.tallies = s.sync.tallies ∧
        ((sqTx s (sendTxq x)).destPos.toNat ≠ strapPos s →
          (sqTx t (sendTxq x)).credits = (sqTx s (sendTxq x)).credits - 1 ∧ (sqTx t (sendTxq x)).granted = true ∧
            (∀ n, n ≠ sendTxq x → sqTx t n = sqTx s n) ∧ t.sync.rx = s.sync.rx ∧ t.mem = s.mem)) ∧
  (∀ r x e s, RunsAt s r .recv 0 x → firstReport (queueErrors x (recvChecks s x)) = none → s.mem.bad = [] →
    bestEntry (sqRx s (recvRxq x)) = some e → firstReport (misfits s x e) = none →
    (∀ z ∈ (sqRx s (recvRxq x)).entries, z.taken ≠ some r ∧ (z.seq = e.seq → z = e)) →
    Completes (.recv r) s fun t =>
      AllDone t r (fun rep => rep.status = 0 ∧ rep.detail = BitVec.ofNat 32 (min 0xFFFFFFFF (recvDetail e))) ∧
        (∀ z ∈ (sqRx t (recvRxq x)).entries, z.seq ≠ e.seq) ∧ (sqRx t (recvRxq x)).returned = (sqRx s (recvRxq x)).returned + 1) ∧
  (∀ r x s, RunsAt s r .recv 0 x → firstReport (queueErrors x (recvChecks s x)) = none → bestEntry (sqRx s (recvRxq x)) = none →
    x.fld 24 6 1 = 1 →
    Completes (.recv r) s fun t => t = { s with descs := t.descs } ∧
      (∃ y, findDesc t r = some y ∧ ∀ c ∈ y.copies, c.st = .inPlace false ∧ c.stage = 5) ∧
      AllDone (endLooks t) r (fun rep => rep = { status := 0, detail := 0, nf := none, idx := none })) ∧
  (∀ r x s, RunsAt s r .recv 0 x → firstReport (queueErrors x (recvChecks s x)) = none → bestEntry (sqRx s (recvRxq x)) = none →
    x.fld 24 6 1 = 0 →
    Completes (.recv r) s fun t => t = { s with descs := t.descs, host := t.host } ∧
      ∃ y, findDesc t r = some y ∧ ∀ c ∈ y.copies, c.st.waits = true ∧ c.stage = 1)

/-- R281, R284, R278: entries that reach a receive queue complete: the expected one enters a free slot and EXPECT advances, one already received is
counted and its credit returned, and an entry that has stood for its queue's limit becomes stale.
R311, R331 to R333: a REFUSE reaches the send channel, the remote request or the collective message that it names, and ends what waits on it. -/
def Obligations.EntriesAndRefusalsComplete : Prop :=
  ((∀ e y s, entryRefusal s e = none → mustWait s e.queue = false → e.seq = (sqRx s e.queue).expect → awaitingAck s e.queue = 0 →
     logging s = false → s.mem.bad = [] → (lgDom s dCredit).parityBad = false →
     (lgDom s dCredit).move false e.queue 1 .lent .held = .ok y →
     (∃ k < (sqRx s e.queue).depth.toNat, ∀ z ∈ (sqRx s e.queue).entries, z.slot ≠ k) →
     (∀ k < (sqRx s e.queue).depth.toNat, writeWaits s (slotAddr (sqRx s e.queue) k) e.payload.length = false) →
     Completes (.entryReceive e) s fun t =>
       (sqRx t e.queue).expect = e.seq + 1 ∧ (sqRx t e.queue).entries.length = (sqRx s e.queue).entries.length + 1 ∧
         ∃ k < (sqRx s e.queue).depth.toNat, (∀ z ∈ (sqRx s e.queue).entries, z.slot ≠ k) ∧
           t.mem = (storeReceived .iod (addressed (slotAddr (sqRx s e.queue) k) e.payload) s).mem) ∧
   (∀ e n s, entryRefusal s e = none → mustWait s e.queue = false → awaitingAck s e.queue = 0 →
     serial (sqRx s e.queue).expect e.seq = .past n →
     Completes (.entryReceive e) s fun t =>
       (sqRx t e.queue).dup = (sqRx s e.queue).dup.add 1 ∧ (sqRx t e.queue).returned = (sqRx s e.queue).returned + 1 ∧
         (sqRx t e.queue).entries = (sqRx s e.queue).entries ∧ (sqRx t e.queue).expect = (sqRx s e.queue).expect ∧ t.mem = s.mem) ∧
   (∀ q sq e s, (sqRx s q).entries.find? (fun e => e.seq == sq && e.taken.isNone && !e.stale) = some e → (sqRx s q).staleUs ≠ 0 →
     e.since + 1000 * (sqRx s q).staleUs.toNat ≤ s.clk →
     Completes (.entryStale q sq) s fun t =>
       t = setSqRx q { sqRx s q with staleCnt := (sqRx s q).staleCnt.add 1,
                                     entries := (sqRx s q).entries.map fun y => if y.seq == sq then { y with stale := true } else y } s)) ∧
  ((∀ p n s, p.type = 5 → p.stream.toNat < 64 → channelFor s p.srcPos.toNat p.stream.toNat = some n →
     (∀ d ∈ s.descs, d.op ≠ some .send) →
     Completes (.refuseReceive p) s fun t =>
       sqTx t n = { sqTx s n with granted := false, credits := 0 } ∧ (∀ z, z ≠ n → sqTx t z = sqTx s z) ∧
         t = { heard p s with sync := t.sync, link := t.link } ∧
         ∀ q ∈ t.link.retained, ¬ (q.type = 1 ∧ q.dstPos = p.srcPos ∧ q.stream = p.stream ∧ q.mseq = p.mseq)) ∧
   (∀ p s, p.type = 5 → p.stream.toNat < 64 → channelFor s p.srcPos.toNat p.stream.toNat = none →
     Completes (.refuseReceive p) s fun t => t = heard p s) ∧
   (∀ p n d s, p.type = 5 → p.stream.toNat < 64 → channelFor s p.srcPos.toNat p.stream.toNat = some n → s.descs = [d] → d.op = some .send →
     sendTxq d = n → d.detailAll = some p.mseq → d.finished = false → d.pair = none → (d.copies.any fun c => c.st.waits && c.stage == 3) = true →
     Completes (.refuseReceive p) s fun t => ∃ y, findDesc t d.ref = some y ∧ y.outcome = some (9, 24, none)) ∧
   (∀ p n d c s, p.type = 5 → p.stream.toNat < 64 → channelFor s p.srcPos.toNat p.stream.toNat = some n → s.descs = [d] → d.op = some .send →
     sendTxq d = n → d.detailAll = some p.mseq → d.finished = false → d.pair = none → d.copies = [c] → c.stage = 4 → c.st ≠ .done →
     Completes (.refuseReceive p) s fun t => (∃ y, findDesc t d.ref = some y ∧ y.outcome = some (9, 24, none)) ∧
       ∀ q ∈ unsentPackets t, ¬ (q.type = 1 ∧ q.dstPos = p.srcPos ∧ q.stream = p.stream ∧ q.mseq = p.mseq)) ∧
   (∀ p a x d s, p.type = 5 → p.stream = 0x300 → liveRun s = some x → findDesc s x.ref = some d → (copyAt d .collective).isSome = true →
     x.reply = true → x.exchange = false →
     (s.coll.asked.find? fun a => a.pos == p.srcPos.toNat && a.seq == p.mseq) = some a → a.ref = x.ref →
     Completes (.refuseReceive p) s fun t =>
       t.coll.run = none ∧ t.coll.asked = s.coll.asked.erase a ∧
         (∀ q ∈ unsentPackets t, ¬ ((q.type = 10 ∨ q.type = 11) ∧ q.dstPos = p.srcPos ∧ q.mseq = p.mseq)) ∧
         CopyDone t x.ref .collective (fun rep => rep.status = 9 ∧ rep.detail = 32)) ∧
   (∀ p s, p.type = 5 → p.stream = 0x300 → (∀ a ∈ s.coll.asked, ¬ (a.pos = p.srcPos.toNat ∧ a.seq = p.mseq)) →
     Completes (.refuseReceive p) s fun t => t = heard p s) ∧
   (∀ p x d s, p.type = 5 → 0x100 ≤ p.stream.toNat → p.stream.toNat < 0x180 → liveRun s = some x → findDesc s x.ref = some d →
     (copyAt d .collective).isSome = true → x.exchange = false → x.sent.contains (p.srcPos.toNat, p.stream.toNat, p.mseq) = true →
     Completes (.refuseReceive p) s fun t =>
       t.coll.run = none ∧
         CopyDone t x.ref .collective (fun rep => rep.status = 9 ∧ rep.detail = (if x.op = 4 ∧ p.arg0.toNat = 5 then 40 else 32))))

/-- R276 to R278, R284, R301, R358: the registers of channels and queues and the packets of grants and credits complete. -/
def Obligations.GrantsAndCreditsComplete : Prop :=
  (∀ n (v : Word) s, n < 64 → inService s = true →
    let s1 := writeLogged (0x48000 + 0x20 * n) v.toNat s
    ctxActive s1 (sqTx s1 n).ctx.toNat = false →
    let y : SqTx := { sqTx s1 n with en := v.getLsbD 0 && decide (bitsOf v.toNat 1 3 < 6), vc := bitsOf v.toNat 1 3, ctx := (v >>> 4).setWidth 4,
                                     destQ := (v >>> 8).setWidth 6, destPos := (v >>> 16).setWidth 14 }
    Completes (.sqtxCfgWrite n v) s fun t =>
      t = setSqTx n (if y.en = true then y else { y with granted := false, credits := 0 }) s1) ∧
  (∀ q (v : Word) s, q < 64 → inService s = true →
    let s1 := writeLogged (0x4A000 + 0x40 * q) v.toNat s
    let x : SqRx := { sqRx s1 q with ctx := (v >>> 4).setWidth 4, srcPos := (v >>> 16).setWidth 14 }
    ctxActive s1 (sqRx s1 q).ctx.toNat = false → (sqRx s1 q).en = false → v.getLsbD 0 = true → queueCfgOk s1 x = true →
    Completes (.sqrxEnable q v) s fun t =>
      (sqRx t q).en = true ∧ (sqRx t q).err = 0 ∧ (sqRx t q).returned = 0 ∧ (sqRx t q).ctx = x.ctx ∧ (sqRx t q).srcPos = x.srcPos ∧
        (lgDom t dCredit).total = (lgDom s1 dCredit).total + x.depth.toNat) ∧
  (∀ q (v : Word) s, q < 64 → inService s = true →
    let s1 := writeLogged (0x4A000 + 0x40 * q) v.toNat s
    let x := sqRx s1 q
    ctxActive s1 x.ctx.toNat = false → x.en = true → v.getLsbD 0 = true → v.getLsbD 1 = true → (v >>> 4).setWidth 4 = x.ctx →
    (v >>> 16).setWidth 14 = x.srcPos →
    Completes (.sqrxFlush q v) s fun t =>
      (sqRx t q).entries = [] ∧ (sqRx t q).flushed = BitVec.ofNat 16 (min 0xFFFF x.entries.length) ∧
        (sqRx t q).returned = x.returned + BitVec.ofNat 32 x.entries.length ∧ (sqRx t q).en = true) ∧
  (∀ q s, (sqRx s q).en = true → (sqRx s q).granting = true → Completes (.grantRepeat q) s fun t => t = sendGrant q s) ∧
  (∀ p n s, channelFor s p.srcPos.toNat p.stream.toNat = some n → (sqTx s n).granted = false → creditWaiters s n = [] →
    Completes (.grantReceive p) s fun t =>
      sqTx t n = { sqTx s n with credits := p.arg0.toNat % 2048, units := p.arg0.toNat / 65536 % 32768, next := p.mseq, granted := true,
                                 returned := 0 } ∧ t.mem = s.mem) ∧
  (∀ p s, (sqRx s p.stream.toNat).en = true → (sqRx s p.stream.toNat).srcPos = p.srcPos →
    Completes (.grantAckReceive p) s fun t => t = setSqRx p.stream.toNat { sqRx s p.stream.toNat with granting := false } (heard p s)) ∧
  (∀ p n m s, channelFor s p.srcPos.toNat p.stream.toNat = some n → (sqTx s n).granted = true →
    serial (sqTx s n).returned p.arg0 = .ahead m → creditWaiters s n = [] →
    Completes (.qstateReceive p) s fun t =>
      sqTx t n = { sqTx s n with credits := (sqTx s n).credits + m, returned := p.arg0 } ∧
        t = { heard p s with link := t.link, sync := t.sync, descs := t.descs, freeCtr := t.freeCtr })

/-- R295, R296, R298: the commands of a port's training complete: what EN, a lost signal, a found signal and a failed attempt leave of the port. -/
def Obligations.PortTrainingCompletes : Prop :=
  (∀ p s, p < 16 → inService s = true →
    let s1 := writeLogged (0x120000 + 0x200 * p) 1 s
    (portOf s1 p).state = .off → portsRun s1 = true →
    Completes (.portEnable p) s fun t =>
      (portOf t p).state = .training ∧ (portOf t p).en = true ∧ (portOf t p).attempts = 0 ∧ (portOf t p).start = s1.clk ∧
        (portOf t p).deskewed = false ∧ (portOf t p).tx.unacked = [] ∧ (∀ q, q ≠ p → (portOf t q).state = (portOf s1 q).state)) ∧
  (∀ p s, p < 16 → inService s = true →
    let s1 := writeLogged (0x120000 + 0x200 * p) 1 s
    (portOf s1 p).state ≠ .off ∨ portsRun s1 = false →
    Completes (.portEnable p) s fun t => t = setPort p { portOf s1 p with en := true } s1) ∧
  (∀ p s, (portOf s p).state = .training → (portOf s p).start + 10000000 ≤ s.clk →
    Completes (.noSignalTimeout p) s fun t => t = setPort p { portOf s p with state := .noPeer, cause := 1, laneLock := 0 } s) ∧
  (∀ p s, (portOf s p).state = .noPeer → Completes (.signalCheck p true) s fun t => t = enterTraining p s) ∧
  (∀ p s, (portOf s p).state = .noPeer → Completes (.signalCheck p false) s fun t => t = s) ∧
  (∀ p cause s, (portOf s p).state = .training → 2 ≤ cause → cause ≤ 5 → (portOf s p).attempts < 2 →
    Completes (.trainingAttemptFail p cause) s fun t =>
      t = enterTraining p (setPort p { portOf s p with attempts := (portOf s p).attempts + 1, cause := cause } s)) ∧
  (∀ p cause s, (portOf s p).state = .training → 2 ≤ cause → cause ≤ 5 → 2 ≤ (portOf s p).attempts →
    Completes (.trainingAttemptFail p cause) s fun t =>
      t = setPort p { portOf s p with attempts := (portOf s p).attempts + 1, cause := cause, state := .failed, laneLock := 0 } s)

/-- R296, R307, R313, R315: entry to TRAINING empties the retry buffer and the credit state of the port, puts unacknowledged packets before those that
wait, counts RETRAIN, and returns the credits advertised to its peer; the other ports stay.
R307 rule 2: an arriving packet's blocks leave ADV for HELD, the shared region lends what RESERVE's maximum and its free blocks allow, and a packet
that no credit covers changes nothing of the pool. -/
def Obligations.PoolAndRetryBufferMove : Prop :=
  (∀ p s, p < 16 →
     let x := portOf s p
     let t := enterTraining p s
     (portOf t p).state = .training ∧ (portOf t p).start = s.clk ∧ (portOf t p).deskewed = false ∧ (portOf t p).peerValid = x.peerValid ∧
       (portOf t p).en = x.en ∧ (portOf t p).attempts = x.attempts ∧ (portOf t p).cause = x.cause ∧
       (portOf t p).tx.unacked = [] ∧ (portOf t p).tx.words = [] ∧ (portOf t p).tx.credits = [] ∧
       (portOf t p).tx.queue = (x.tx.unacked.filterMap fun u => match u.2 with | .packet q => some q | _ => none) ++ x.tx.queue ∧
       (portOf t p).stats.retrain = x.stats.retrain.add 1 ∧ (∀ v < 8, (poolCh t (8 * p + v)).adv = 0) ∧
       (∀ c, c < 8 * p ∨ 8 * p + 8 ≤ c → poolCh t c = poolCh s c) ∧
       (x.state = .up → (portOf t p).upAt = none ∧ (x.downAt = none → (portOf t p).downAt = some s.clk)) ∧
       t.mem = s.mem ∧ t.ft = s.ft ∧ t.sync = s.sync ∧ t.coll = s.coll ∧ t.ember = s.ember) ∧
  (∀ p v b y s, (lgDom s dBlock).parityBad = false → (lgDom s dBlock).move true (8 * p + v) b .lent .held = .ok y → b ≤ (poolCh s (8 * p + v)).adv →
     (poolArrive p v b s).1 = true ∧
       (poolCh (poolArrive p v b s).2 (8 * p + v)).held = (poolCh s (8 * p + v)).held + b ∧
       (poolCh (poolArrive p v b s).2 (8 * p + v)).adv + b = (poolCh s (8 * p + v)).adv +
         min b (min ((poolCh s (8 * p + v)).effMax - ((poolCh s (8 * p + v)).held + b) - ((poolCh s (8 * p + v)).adv - b)) s.link.pool.shared) ∧
       (poolArrive p v b s).2.link.pool.shared + (poolCh (poolArrive p v b s).2 (8 * p + v)).adv + b =
         s.link.pool.shared + (poolCh s (8 * p + v)).adv ∧
       ∀ c, c ≠ 8 * p + v → poolCh (poolArrive p v b s).2 c = poolCh s c)

/-- R298, R299, R315, R322, R323: a port sends its HELLO, takes one in each state that does, and loses its peer after 1 ms without one. -/
def Obligations.HelloCommandsComplete : Prop :=
  (∀ p s, helloState (portOf s p).state = true → Completes (.helloSend p) s fun t => t = sendWord p (.hello (ownHello s p)) (deskew p s)) ∧
  (∀ p h s, (portOf s p).state = .training → h.proto = 1 → s.clk ≤ (portOf s p).start + 250000000 → s.adm.admitted = false →
    Completes (.helloReceive p h) s fun t =>
      (portOf t p).state = .parked ∧ (portOf t p).peer = some h ∧ (portOf t p).peerValid = true ∧ (portOf t p).peerAt = s.clk ∧ (portOf t p).deskewed = true ∧ (portOf t p).parkHello = some h ∧
        (portOf t p).attempts = 0 ∧ (portOf t p).laneLock = 0xFF ∧ (∀ q, q ≠ p → portOf t q = portOf s q) ∧ t.mem = s.mem ∧ t.ft = s.ft) ∧
  (∀ p h s, (portOf s p).state = .training → h.proto ≠ 1 ∨ (portOf s p).start + 250000000 < s.clk →
    let u := deskew p s
    Completes (.helloReceive p h) s fun t => t = dualActive h (setPort p { portOf u p with peer := some h, peerValid := true, peerAt := s.clk } u)) ∧
  (∀ p h s, (portOf s p).state = .parked → Completes (.helloReceive p h) s fun t =>
      t = dualActive h (noteDegraded (setPort p { portOf s p with peer := some h, peerValid := true, peerAt := s.clk } s))) ∧
  (∀ p h g s, (portOf s p).state = .up → (portOf s p).parkHello = some g → sameDevice g h = true → Completes (.helloReceive p h) s fun t =>
      t = dualActive h (noteDegraded (setPort p { portOf s p with peer := some h, peerValid := true, peerAt := s.clk } s))) ∧
  (∀ p h g s, (portOf s p).state = .up → (portOf s p).parkHello = some g → sameDevice g h = false →
    let s1 := setPort p { noteDown s { portOf s p with peer := some h, peerValid := true, peerAt := s.clk } with state := .parked, parkHello := some h } s
    Completes (.helloReceive p h) s fun t =>
      t = dualActive h (if s.adm.admitted && matchesNow s1 p then portUpNow p s1 else noteDegraded s1)) ∧
  (∀ p s, (portOf s p).peerValid = true → (portOf s p).peerAt + 1000000 ≤ s.clk →
    Completes (.peerHelloLapse p) s fun t => t = noteDegraded (setPort p { portOf s p with peerValid := false } s))

/-- R294, R296, R322: a port enters RETRAIN where software or a silent lane asks, leaves it within 2 ms for the state it left, or for UP where it left
PARKED and its peer now matches an admitted module (log 77: the choice of the model), and trains anew after that. -/
def Obligations.RetrainCommandsComplete : Prop :=
  (∀ p s, p < 16 → inService s = true →
    let s1 := writeLogged (0x120000 + 0x200 * p) 3 s
    (portOf s1 p).state = .parked ∨ (portOf s1 p).state = .up →
    Completes (.zbRetrainWrite p) s fun t =>
      t = { s1 with link := t.link, adm := t.adm, freeCtr := t.freeCtr } ∧ (portOf t p).state = .retrain ∧ (portOf t p).back = (portOf s1 p).state ∧
        (portOf t p).cause = 8 ∧ (portOf t p).start = s1.clk ∧ (portOf t p).tx = (portOf s1 p).tx ∧
        (portOf t p).stats.retrain = (portOf s1 p).stats.retrain.add 1 ∧ (∀ q, q ≠ p → portOf t q = portOf s1 q)) ∧
  (∀ p s, p < 16 → inService s = true →
    let s1 := writeLogged (0x120000 + 0x200 * p) 3 s
    (portOf s1 p).state = .failed →
    Completes (.zbRetrainWrite p) s fun t => t = enterTraining p (setPort p { portOf s1 p with attempts := 0 } s1)) ∧
  (∀ p lane s, lane < 8 → (portOf s p).state = .parked ∨ (portOf s p).state = .up →
    Completes (.laneSilence p lane) s fun t =>
      t = { s with link := t.link, adm := t.adm, freeCtr := t.freeCtr } ∧ (portOf t p).state = .retrain ∧ (portOf t p).back = (portOf s p).state ∧
        (portOf t p).cause = 7 ∧ (portOf t p).start = s.clk ∧ (portOf t p).tx = (portOf s p).tx ∧ (∀ q, q ≠ p → portOf t q = portOf s q)) ∧
  (∀ p s, (portOf s p).state = .retrain → (portOf s p).start + 20000 ≤ s.clk → s.clk ≤ (portOf s p).start + 2000000 →
    (portOf s p).back = .parked → (portOf s p).tx.unacked = [] → s.adm.admitted = false →
    Completes (.retrainRelock p) s fun t =>
      t = setPort p { portOf s p with state := .parked, laneLock := 0xFF, tx := { (portOf s p).tx with replays := [] } } s) ∧
  (∀ p s, (portOf s p).state = .retrain → (portOf s p).start + 20000 ≤ s.clk → s.clk ≤ (portOf s p).start + 2000000 →
    (portOf s p).back = .parked → (portOf s p).tx.unacked = [] → s.link.backlog = [] → (∀ q, (portOf s q).failover = false) →
    s.adm.admitted = true → matchesNow (setPort p { portOf s p with state := .parked, laneLock := 0xFF } s) p = true →
    Completes (.retrainRelock p) s fun t =>
      portOf t p = { portOf s p with state := .up, laneLock := 0xFF, upAt := some s.clk, downAt := none, tx := { (portOf s p).tx with replays := [] } } ∧
        t = { s with link := t.link } ∧ ∀ q, q ≠ p → portOf t q = portOf s q) ∧
  (∀ p s, (portOf s p).state = .retrain → (portOf s p).start + 20000 ≤ s.clk → s.clk ≤ (portOf s p).start + 2000000 →
    (portOf s p).back = .up → (portOf s p).tx.unacked = [] → s.link.backlog = [] → (∀ q, (portOf s q).failover = false) →
    Completes (.retrainRelock p) s fun t =>
      portOf t p = { portOf s p with state := .up, laneLock := 0xFF, upAt := some s.clk, downAt := none, tx := { (portOf s p).tx with replays := [] } } ∧
        t = { s with link := t.link } ∧ ∀ q, q ≠ p → portOf t q = portOf s q) ∧
  (∀ p f i rest s, (portOf s p).state = .retrain → (portOf s p).start + 20000 ≤ s.clk → s.clk ≤ (portOf s p).start + 2000000 →
    (portOf s p).back = .parked → s.adm.admitted = false → (portOf s p).tx.unacked = (f, i) :: rest →
    Completes (.retrainRelock p) s fun t =>
      t.out = s.out ++ [.replay p (flitsAgain (portOf s p) ((f, i) :: rest))] ∧ (portOf t p).state = .parked ∧
        (portOf t p).stats.replay = (portOf s p).stats.replay.add 1 ∧ (portOf t p).tx.unacked = (portOf s p).tx.unacked) ∧
  (∀ p s, (portOf s p).state = .retrain → (portOf s p).start + 2000000 ≤ s.clk →
    Completes (.retrainFail p) s fun t => t = enterTraining p (setPort p { portOf s p with attempts := 0 } s))

/-- R293, R315: flits and the words that acknowledge them complete: what a flit leaves of the receiver by the state of its codeword, its FSEQ, its lane
and its CRC; and the frame of each. -/
def Obligations.FlitsComplete : Prop :=
  (∀ p f s, flitState s p = true → (portOf s p).rx.nak = none → Ecc.bad f.codeword = false → f.idle = false → f.laneField = f.lane →
    f.fseq = (portOf s p).rx.expect → f.crcFail = false →
    Completes (.flitReceive p f) s fun t =>
      t = { s with link := t.link } ∧ (∀ q, q ≠ p → portOf t q = portOf s q) ∧
      portOf t p = { portOf s p with
        stats := countCodeword f.codeword (portOf s p).stats,
        rx := { (portOf s p).rx with expect := f.fseq + 1, nak := none, ackable := f.firstOpen - 1, sinceAck := (portOf s p).rx.sinceAck + 1 } }) ∧
  (∀ p f s, flitState s p = true → (portOf s p).rx.nak = none → Ecc.bad f.codeword = false → f.idle = false → f.laneField = f.lane →
    f.fseq = (portOf s p).rx.expect → f.crcFail = true →
    Completes (.flitReceive p f) s fun t =>
      t = { s with link := t.link, out := t.out } ∧ (∀ q, q ≠ p → portOf t q = portOf s q) ∧ (portOf t p).rx.nak = some f.firstOpen ∧
        (portOf t p).stats.crcFail = (portOf s p).stats.crcFail.add 1) ∧
  (∀ p f s, flitState s p = true → (portOf s p).rx.nak = none →
    (Ecc.bad f.codeword = true ∨ f.laneField ≠ f.lane ∨
      f.fseq ≠ (portOf s p).rx.expect ∧ (f.replay = false ∨ 2047 < ((portOf s p).rx.expect - f.fseq).toNat)) →
    Completes (.flitReceive p f) s fun t =>
      t = { s with link := t.link, out := t.out } ∧ (∀ q, q ≠ p → portOf t q = portOf s q) ∧
        (portOf t p).rx.nak = some ((portOf s p).rx.ackable + 1) ∧ (portOf t p).rx.expect = (portOf s p).rx.ackable + 1 ∧
        (portOf t p).rx.nakAt = s.clk ∧ (portOf t p).rx.sinceAck = (portOf s p).rx.sinceAck) ∧
  (∀ p f s, flitState s p = true → (portOf s p).rx.nak = none → Ecc.bad f.codeword = false → f.laneField = f.lane →
    (f.idle = true ∧ f.fseq = (portOf s p).rx.expect ∨ f.fseq ≠ (portOf s p).rx.expect ∧ f.replay = true ∧
      ((portOf s p).rx.expect - f.fseq).toNat ≤ 2047) →
    Completes (.flitReceive p f) s fun t => t = setPort p { portOf s p with stats := countCodeword f.codeword (portOf s p).stats } s) ∧
  (∀ p f n s, flitState s p = true → (portOf s p).rx.nak = some n →
    (Ecc.bad f.codeword = true ∨ f.idle = true ∨ f.laneField ≠ f.lane ∨ f.replay = false ∨ f.fseq ≠ n) →
    Completes (.flitReceive p f) s fun t => t = setPort p { portOf s p with stats := countCodeword f.codeword (portOf s p).stats } s) ∧
  (∀ p f n s, flitState s p = true → (portOf s p).rx.nak = some n → Ecc.bad f.codeword = false → f.idle = false → f.laneField = f.lane →
    f.replay = true → f.fseq = n → f.crcFail = false →
    Completes (.flitReceive p f) s fun t => (portOf t p).rx.nak = none ∧ (portOf t p).rx.expect = n + 1 ∧ (portOf t p).rx.ackable = f.firstOpen - 1) ∧
  (∀ p f s, flitState s p = false → (portOf s p).state ≠ .training → Completes (.flitReceive p f) s fun t => t = s) ∧
  (∀ p s, flitState s p = true → (portOf s p).rx.ackable ≠ (portOf s p).rx.acked →
    64 ≤ (portOf s p).rx.sinceAck ∨ (portOf s p).rx.ackAt + 200 ≤ s.clk →
    Completes (.ackSend p) s fun t =>
      t = sendWord p (.ack (portOf s p).rx.ackable) (setPort p
        { portOf s p with rx := { (portOf s p).rx with sinceAck := 0, acked := (portOf s p).rx.ackable, ackAt := s.clk } } s)) ∧
  (∀ p n s, flitState s p = true → (portOf s p).rx.nak = some n → (portOf s p).rx.nakAt + 2000 ≤ s.clk →
    Completes (.nakRepeatTimeout p) s fun t =>
      t = sendWord p (.nak n) (setPort p { portOf s p with rx := { (portOf s p).rx with nakAt := s.clk } } s))

/-- R293, R294: an ACK frees the flits up to the one it names; a NAK, or the 2 µs without progress, replays from a flit on; the eighth replay from the
same flit puts the port into RETRAIN with CAUSE 6.
R246, R293, R299: a control word takes the next FSEQ and a place in the retry buffer, and leaves the port as the 32 bytes that carry what Field
Time reads at that moment; behind another word that waits, or with 512 unacknowledged flits, it waits unstamped. -/
def Obligations.AcksAndReplaysComplete : Prop :=
  ((∀ p f i before after y s, flitState s p = true → (portOf s p).tx.unacked = before ++ (f, i) :: after → (∀ u ∈ before ++ after, u.1 ≠ f) →
     s.link.backlog = [] → (lgDom s dLinkPacket).parityBad = false →
     let n := ((before ++ [(f, i)]).filter fun u => match u.2 with | .packet _ => true | _ => false).length
     (lgDom s dLinkPacket).move false p n .held .free = .ok y →
     Completes (.ackReceive p f false) s fun t =>
       t = { s with link := t.link, lg := t.lg } ∧ (portOf t p).tx.unacked = after ∧
         (portOf t p).tx.replays = (portOf s p).tx.replays.filter (fun r => after.any fun u => u.1.toNat == r.1) ∧
         (portOf t p).tx.queue = (portOf s p).tx.queue ∧ (portOf t p).tx.moved = s.clk ∧ (n ≠ 0 → lgDom t dLinkPacket = y)) ∧
   (∀ p f s, flitState s p = true → (∀ u ∈ (portOf s p).tx.unacked, u.1 ≠ f) → Completes (.ackReceive p f false) s fun t => t = s) ∧
   (∀ p f i before after s, flitState s p = true → (portOf s p).tx.unacked = before ++ (f, i) :: after → (∀ u ∈ before, u.1 ≠ f) →
     (portOf s p).tx.replays.get 0 f.toNat < 7 →
     Completes (.nakReceive p f false) s fun t =>
       t.out = s.out ++ [.replay p (flitsAgain (portOf s p) ((f, i) :: after))] ∧ t = { s with link := t.link, out := t.out } ∧
         (portOf t p).tx.replays = (portOf s p).tx.replays.put 0 f.toNat ((portOf s p).tx.replays.get 0 f.toNat + 1) ∧
         (portOf t p).stats.replay = (portOf s p).stats.replay.add 1 ∧ (portOf t p).tx.unacked = (portOf s p).tx.unacked ∧
         (portOf t p).state = (portOf s p).state) ∧
   (∀ p f i before after s, (portOf s p).state = .up → (portOf s p).tx.unacked = before ++ (f, i) :: after → (∀ u ∈ before, u.1 ≠ f) →
     7 ≤ (portOf s p).tx.replays.get 0 f.toNat →
     Completes (.nakReceive p f false) s fun t =>
       t.out = s.out ++ [.replay p (flitsAgain (portOf s p) ((f, i) :: after))] ∧ (portOf t p).state = .retrain ∧ (portOf t p).cause = 6 ∧ (portOf t p).back = .up) ∧
   (∀ p f i rest s, flitState s p = true → (portOf s p).tx.unacked = (f, i) :: rest →
     (portOf s p).tx.moved + 2000 ≤ s.clk → Completes (.replayTimeout p) s fun t => t = replayFrom p f s)) ∧
  (∀ p w s,
     ((portOf s p).tx.words = [] → (portOf s p).tx.unacked.length < 512 →
       (sendWord p w s).out = s.out ++ [.ctlWord p (wordWire (stampWord s.ft.ft w)) (flitBits (portOf s p) 0 false)] ∧
       (portOf (sendWord p w s) p).tx.unacked = (portOf s p).tx.unacked ++ [((portOf s p).tx.next, .word (stampWord s.ft.ft w))] ∧
       (portOf (sendWord p w s) p).tx.next = (portOf s p).tx.next + 1 ∧ (portOf (sendWord p w s) p).tx.sent = (portOf s p).tx.sent + 1) ∧
     ((portOf s p).tx.words ≠ [] ∨ 512 ≤ (portOf s p).tx.unacked.length →
       (sendWord p w s).out = s.out ∧ (portOf (sendWord p w s) p).tx.words = (portOf s p).tx.words ++ [w] ∧
       (portOf (sendWord p w s) p).tx.unacked = (portOf s p).tx.unacked ∧ (sendWord p w s).ft = s.ft) ∧
     (∀ q, q ≠ p → portOf (sendWord p w s) q = portOf s q) ∧
     sendWord p w s = { s with link := (sendWord p w s).link, out := (sendWord p w s).out, ft := (sendWord p w s).ft })

/-- R299, R304, R305, R307, R310, R313: credits arrive, packets leave and arrive, blocks are freed, and a lost port's packets move and come back. -/
def Obligations.CreditsAndPacketsComplete : Prop :=
  (∀ p vc (total : Word) n s, flitState s p = true → vc < 8 → serial ((portOf s p).tx.totals.get 0 vc) total = .ahead n →
    Completes (.creditReceive p vc total) s fun t =>
      t = setPort p { portOf s p with tx := { (portOf s p).tx with credits := (portOf s p).tx.credits.upd 0 vc (· + n),
                                                                   totals := (portOf s p).tx.totals.put 0 vc total } } s) ∧
  (∀ p q s, (portOf s p).state = .up → (portOf s p).tx.words = [] → s.link.backlog = [] → nextPacket s p = some q →
    Completes (.packetSend p) s fun t => t = leaveWindow q (transmit p q s)) ∧
  (∀ p q s, (portOf s p).state = .up → (portOf s p).tx.words = [] → s.link.backlog = [] → nextPacket s p = some q → q.type ≠ 1 →
    Completes (.packetSend p) s fun t =>
      t = { s with link := t.link,
                   out := s.out ++ [.packet p (packetWire q) ((List.range (packetFlits q)).map fun i => flitBits (portOf s p) i false)] } ∧
      (∀ z, z ≠ p → portOf t z = portOf s z) ∧
      (portOf t p).tx.queue = (portOf s p).tx.queue.erase q ∧
      (portOf t p).tx.credits.get 0 q.vc = (portOf s p).tx.credits.get 0 q.vc - packetBlocks q ∧
      (portOf t p).tx.unacked.length = (portOf s p).tx.unacked.length + packetFlits q ∧
      (portOf t p).tx.next = (portOf s p).tx.next + BitVec.ofNat 12 (packetFlits q) ∧
      (portOf t p).tx.sent = (portOf s p).tx.sent + packetFlits q ∧
      (portOf t p).stats.txBytes = (portOf s p).stats.txBytes.add (packetBytes q)) ∧
  (∀ p s, (portOf s p).state = .up → (portOf s p).tx.words = [] → s.link.backlog = [] → nextPacket s p = none →
    Completes (.packetSend p) s fun t => t = sendIdle p s) ∧
  (∀ p w s, flitState s p = true → firstWord (portOf s p) = some w → (portOf s p).tx.unacked.length < 512 →
    Completes (.packetSend p) s fun t =>
      t = sendNow p w (setPort p { portOf s p with tx := { (portOf s p).tx with words := (portOf s p).tx.words.erase w } } s)) ∧
  (∀ p w s, flitState s p = true → firstWord (portOf s p) = some w → 512 ≤ (portOf s p).tx.unacked.length →
    Completes (.packetSend p) s fun t => t = sendIdle p s) ∧
  (∀ p q s, flitState s p = true → q.vc < 8 →
    let s1 := setPort p { portOf s p with stats := { (portOf s p).stats with rxBytes := (portOf s p).stats.rxBytes.add (packetBytes q) } } s
    (portOf s p).state ≠ .training → (poolArrive p q.vc (packetBlocks q) s1).1 = false →
    Completes (.packetReceive p q) s fun t => t = (poolArrive p q.vc (packetBlocks q) s1).2) ∧
  (∀ p q s, flitState s p = true → q.vc < 8 →
    let s1 := setPort p { portOf s p with stats := { (portOf s p).stats with rxBytes := (portOf s p).stats.rxBytes.add (packetBytes q) } } s
    let s2 := (poolArrive p q.vc (packetBlocks q) s1).2
    (portOf s p).state ≠ .training → (poolArrive p q.vc (packetBlocks q) s1).1 = true →
    Completes (.packetReceive p q) s fun t => t = deliver p (packetBlocks q) (noteArrival p q s2).1 q (noteArrival p q s2).2) ∧
  (∀ p q s, flitState s p = true → q.vc < 8 →
    let s1 := setPort p { portOf s p with stats := { (portOf s p).stats with rxBytes := (portOf s p).stats.rxBytes.add (packetBytes q) } } s
    (portOf s p).state = .training →
    Completes (.packetReceive p q) s fun t => t = deliver p 0 (noteArrival p q s1).1 q (noteArrival p q s1).2) ∧
  (∀ p q s, (noteArrival p q s).1 = collides s p q ∧
    (noteArrival p q s).2.ft.collide = (if collides s p q = true then s.ft.collide.add 1 else s.ft.collide) ∧
    (noteArrival p q s).2 = { s with ft := (noteArrival p q s).2.ft }) ∧
  (∀ q s, heard q s = { s with ft := (heard q s).ft, freeCtr := (heard q s).freeCtr } ∧
    ∃ p < 16, (heard q s).ft = (noteArrival p q s).2.ft) ∧
  (∀ c n s, c < 128 → Completes (.blockFree c n) s fun t =>
    (poolCh t c).held = (poolCh s c).held - min n (poolCh s c).held ∧ (∀ z, z ≠ c → poolCh t z = poolCh s z) ∧ t.mem = s.mem ∧ t.ft = s.ft) ∧
  (∀ p c s, (portOf s p).downAt = some c → (portOf s p).state ≠ .up → c + 2000000 ≤ s.clk → (portOf s p).failover = false →
    Completes (.portFailover p) s fun t => t = movePackets p (setPort p { portOf s p with failover := true } s)) ∧
  (∀ p c s, (portOf s p).upAt = some c → (portOf s p).state = .up → c + 10000000 ≤ s.clk →
    Completes (.portReturn p) s fun t =>
      t = { s with link := { s.link with paths := t.link.paths } } ∧
        ∀ x ∈ s.link.paths, x.2.port ≠ p → x.2.mid = false → primaryOf s x.1 = some p → (t.link.paths.get .reset x.1).port = p)

/-- R321 to R323: a request for admission, the end of its check, and withdrawal complete with the STATE, REASON and PORT of R321. -/
def Obligations.AdmissionCommandsComplete : Prop :=
  (∀ s, inService s = true →
    let s1 := writeLogged 0x123008 1 s
    s1.adm.state ≠ 1 → s1.ms.mode = .full ∨ s1.ms.mode = .banked →
    Completes .admitReq s fun t => t = { s1 with adm := { s1.adm with state := 1, reason := 0, port := 0, again := false } }) ∧
  (∀ s, inService s = true →
    let s1 := writeLogged 0x123008 1 s
    s1.adm.state ≠ 1 → s1.ms.mode ≠ .full → s1.ms.mode ≠ .banked →
    Completes .admitReq s fun t => t = { s1 with adm := { s1.adm with state := 3, reason := 6, port := 0, again := false } }) ∧
  (∀ s, inService s = true →
    let s1 := writeLogged 0x123008 1 s
    s1.adm.state = 1 → Completes .admitReq s fun t => t = { s1 with adm := { s1.adm with again := true } }) ∧
  (∀ s, s.adm.state = 1 → recordOk s .iod s.adm.manifestAddr.toNat 2240 64 = false →
    Completes .admitCheckDone s fun t => t = { s with adm := { s.adm with state := 3, reason := 1, port := 0, again := false } }) ∧
  (∀ r p s, s.adm.state = 1 → recordOk s .iod s.adm.manifestAddr.toNat 2240 64 = true → unfilled s s.adm.manifestAddr.toNat 2240 = false → s.mem.bad = [] →
    let b := readBytes s .iod s.adm.manifestAddr.toNat 2240
    manifestReserved b = false → admitFailure s (manifestOf b) = some (r, p) →
    Completes .admitCheckDone s fun t => t = { s with adm := { s.adm with state := 3, reason := r, port := p, again := false } }) ∧
  (∀ s, s.adm.state = 1 → recordOk s .iod s.adm.manifestAddr.toNat 2240 64 = true → unfilled s s.adm.manifestAddr.toNat 2240 = false → s.mem.bad = [] →
    let b := readBytes s .iod s.adm.manifestAddr.toNat 2240
    manifestReserved b = false → admitFailure s (manifestOf b) = none →
    Completes .admitCheckDone s fun t =>
      t.adm = { s.adm with state := 2, reason := (if s.adm.again = true then 7 else 0), port := 0, degraded := false, admitted := true, again := false,
                           manifest := some (manifestOf b) } ∧ t.mem = s.mem ∧ t.ft = s.ft ∧ t.sync = s.sync ∧ t.coll = s.coll) ∧
  (∀ s, s.adm.state = 1 → recordOk s .iod s.adm.manifestAddr.toNat 2240 64 = true → unfilled s s.adm.manifestAddr.toNat 2240 = true →
    Completes .admitCheckDone s fun t => t = s) ∧
  (∀ s, inService s = true → anyCtxActive s = false →
    Completes .admitWithdraw s fun t =>
      t = { s with link := t.link, adm := { s.adm with state := 0, admitted := false } } ∧ (∀ p < 16, (portOf t p).state ≠ .up) ∧
        ∀ p < 16, (portOf s p).state = .up → (portOf t p).state = .parked) ∧
  (∀ s, inService s = true → anyCtxActive s = true → Completes .admitWithdraw s fun t => t = writeLogged 0x123008 2 s)

/-- R324 to R334, R496: a COLLECTIVE of each OP begins where its checks pass, fails where one does, and is refused VC6 and VC7 that it does not hold. -/
def Obligations.CollectivesComplete : Prop :=
  (∀ r x s, RunsAt s r .collective 0 x → firstError (collChecks (withSnap x s) x) = none → collVc x < 6 →
    (collOp x = 0 → Completes (.allReduce r) s fun t => t = startColl x (collBegun r s)) ∧
    (collOp x = 1 → Completes (.reduceScatter r) s fun t => t = startColl x (collBegun r s)) ∧
    (collOp x = 2 → Completes (.allGather r) s fun t => t = startColl x (collBegun r s)) ∧
    (collOp x = 3 → Completes (.broadcast r) s fun t => t = startColl x (collBegun r s)) ∧
    (collOp x = 4 → Completes (.allToAll r) s fun t => t = startColl x (collBegun r s)) ∧
    (collOp x = 5 → Completes (.put r) s fun t => t = startPut x (collBegun r s)) ∧
    (collOp x = 6 → Completes (.get r) s fun t => t = startGet x (collBegun r s))) ∧
  (∀ r x off s, RunsAt s r .collective 0 x → firstError (collChecks (withSnap x s) x) = some off →
    Completes (.allReduce r) s (fun t => t = invalid r off s) ∧ Completes (.reduceScatter r) s (fun t => t = invalid r off s) ∧
    Completes (.allGather r) s (fun t => t = invalid r off s) ∧ Completes (.broadcast r) s (fun t => t = invalid r off s) ∧
    Completes (.allToAll r) s (fun t => t = invalid r off s) ∧ Completes (.put r) s (fun t => t = invalid r off s) ∧
    Completes (.get r) s (fun t => t = invalid r off s)) ∧
  (∀ r x s, RunsAt s r .collective 0 x → firstError (collChecks (withSnap x s) x) = none → 6 ≤ collVc x → claimHolder s 2 ≠ 2 → collOp x = 0 →
    Completes (.allReduce r) s fun t =>
      t = claimEvent 2 2 2 (claimHolder s 2) (finishCopy r .collective { status := 4, detail := 2, nf := none, idx := none } s))

/-- R328: a COLLECTIVE of OP 0 to 4 takes the next INSTANCE of its slot, and no other slot's.
R329, R330: what a member sends at its start. RING: a block of an ALL_REDUCE or REDUCE_SCATTER starts, PHASE 0, at the rank after its owner, and a
block of an ALL_GATHER or BROADCAST, PHASE 1, at its owner, each to the next rank. DIRECT: each member sends every block it does not own to the
owner, and an ALL_GATHER's or BROADCAST's owner sends its blocks to every other member.
R332, R168: a PUT or GET whose FAR is another module's sends one message on stream 0x300 and waits for its reply; a local PUT stores BUF at FAR; and
a FAR out of reach is DESC_INVALID 56. -/
def Obligations.CollectivesBegin : Prop :=
  (∀ d s,
     (startColl d s).coll.inst.get 0 (collSlot d) = s.coll.inst.get 0 (collSlot d) + 1 ∧
       (∀ k, k ≠ collSlot d → (startColl d s).coll.inst.get 0 k = s.coll.inst.get 0 k) ∧
       (startColl d s).ft = s.ft ∧ (startColl d s).pins = s.pins ∧ (startColl d s).trust = s.trust) ∧
  (∀ d np me bs r ph b, collOp d ≤ 3 → me < np →
     ((r, ph, b) ∈ firstSends d np me bs ↔
       b ∈ bs ∧
         ((collDirect d = false ∧ collOp d ≤ 1 ∧ me = (b.owner + 1) % np ∧ r = (me + 1) % np ∧ ph = false) ∨
          (collDirect d = false ∧ 2 ≤ collOp d ∧ b.owner = me ∧ r = (me + 1) % np ∧ ph = true) ∨
          (collDirect d = true ∧ collOp d ≤ 1 ∧ b.owner ≠ me ∧ r = b.owner ∧ ph = false) ∨
          (collDirect d = true ∧ 2 ≤ collOp d ∧ b.owner = me ∧ r < np ∧ r ≠ me ∧ ph = true)))) ∧
  ((∀ d s, collOp d = 5 → collFar d / 2 ^ 44 ≠ strapPos s → s.mem.bad = [] →
     let t := startPut d s
     let pos := collFar d / 2 ^ 44
     let q := s.link.sendSeq.get 0 (sendKey pos 0 0x300)
     let data := readBytes s .iod (collBuf d) (collCount d * collWidth d)
     t.coll.run = some { newRun d.ref false (collSlot d) 0 5 s.ft.ft with
                           reply := true, nf := lowestOf (runWrites d 0 0 (rawElems (collWidth d) data)) } ∧
       t.coll.inst = s.coll.inst ∧ t.mem = s.mem ∧
       t.coll.asked = s.coll.asked ++ [{ pos := pos, seq := q, ref := d.ref, far := BitVec.ofNat 64 (collFar d), get := false }] ∧
       t.link.sendSeq.get 0 (sendKey pos 0 0x300) = q + 1 ∧ ∃ ps, t.link.retained = s.link.retained ++ ps ∧
         ps.flatMap (·.payload) = canonicalRun d data ∧
         ∀ p ∈ ps, p.type = 10 ∧ p.vc = (takeVc pos (collVc d) s).1 ∧ p.stream = 0x300 ∧ p.mseq = q ∧ p.arg1 = BitVec.ofNat 64 (collFar d)) ∧
   (∀ d s, collOp d = 6 → collFar d / 2 ^ 44 ≠ strapPos s →
     let t := startGet d s
     let pos := collFar d / 2 ^ 44
     let q := s.link.sendSeq.get 0 (sendKey pos 0 0x300)
     t.coll.run = some { newRun d.ref false (collSlot d) 0 6 s.ft.ft with reply := true } ∧ t.mem = s.mem ∧
       t.coll.asked = s.coll.asked ++ [{ pos := pos, seq := q, ref := d.ref, far := BitVec.ofNat 64 (collFar d), get := true }] ∧
       t.link.sendSeq.get 0 (sendKey pos 0 0x300) = q + 1 ∧
       ∃ p, t.link.retained = s.link.retained ++ [p] ∧ p.type = 11 ∧ p.vc = (takeVc pos (collVc d) s).1 ∧ p.stream = 0x300 ∧ p.mseq = q ∧ p.payload = [] ∧
         p.arg0 = BitVec.ofNat 32 (collCount d * collWidth d - 1) ∧ p.arg1 = BitVec.ofNat 64 (collFar d)) ∧
   (∀ d s, collFar d / 2 ^ 44 = strapPos s → farReach s (collFar d % 2 ^ 44) (collCount d * collWidth d) = true →
     let far := collFar d % 2 ^ 44
     let moved (op src dst : Nat) : State :=
       let s1 := setRun (some (newRun d.ref false (collSlot d) 0 op s.ft.ft)) s
       let ws := runWrites d dst 0 (rawElems (collWidth d) (readBytes s .iod src (collCount d * collWidth d)))
       endColl (storeOwn d ((List.range (collCount d * collWidth d)).map (src + ·)) ws s1)
     startPut d s = moved 5 (collBuf d) far ∧ startGet d s = moved 6 far (collBuf d)) ∧
   (∀ d x s, collFar d / 2 ^ 44 = strapPos s → farReach s (collFar d % 2 ^ 44) (collCount d * collWidth d) = true → s.mem.bad = [] →
     findDesc s d.ref = some x → x.outcome = none → (∃ c, copyAt x .collective = some c ∧ c.st = .running ∧ c.report = none) →
     let far := collFar d % 2 ^ 44
     let moved (src dst : Nat) (t : State) : Prop :=
       t.coll.run = none ∧ t.lag.lastValid = true ∧ CopyDone t d.ref .collective isOk ∧
         SameBut (placesAt s .iod (storedAt (runWrites d dst 0
           (rawElems (collWidth d) (readBytes s .iod src (collCount d * collWidth d)))))) s t
     moved (collBuf d) far (startPut d s) ∧ moved far (collBuf d) (startGet d s)) ∧
   (∀ d s, collFar d / 2 ^ 44 = strapPos s → farReach s (collFar d % 2 ^ 44) (collCount d * collWidth d) = false →
     startPut d s = invalid d.ref 56 s ∧ startGet d s = invalid d.ref 56 s))

/-- R310, R333: a CHUNK packet in order is its slot's piece: with no COLLECTIVE running it waits as early data, and a MACK accepts the messages of its
stream up to its MSEQ, the last of which ends the COLLECTIVE that sent them. -/
def Obligations.CollectivePacketsComplete : Prop :=
  (∀ port p s, p.type = 6 → InOrder s port p →
    Completes (.chunkReceive port p) s fun t => t = applyChunk (chunkOf port (collides s port p) p) (packetTaken port p s)) ∧
  (∀ port p s, p.type = 6 → InOrder s port p → liveRun s = none →
    Completes (.chunkReceive port p) s fun t =>
      t = { s with link := t.link, ft := (noteArrival port p s).2.ft,
                   coll := { s.coll with early := s.coll.early ++ [chunkOf port (collides s port p) p] } }) ∧
  (∀ port p s, p.type = 13 → undeliveredWhy s port 0 p = none → 0x100 ≤ p.stream.toNat → p.stream.toNat < 0x180 →
    Completes (.mackReceive port p) s fun t =>
      t = takeMack p.srcPos.toNat p.stream.toNat p.mseq (refusalForgotten p (noteArrival port p s).2)) ∧
  (∀ port p x d c s, p.type = 13 → undeliveredWhy s port 0 p = none → 0x100 ≤ p.stream.toNat → p.stream.toNat < 0x180 →
    s.coll.run = some x → x.want = [] → x.reply = false → x.exchange = false → x.bad = none → findDesc s x.ref = some d → d.outcome = none →
    copyAt d .collective = some c → c.st = .running → c.report = none →
    (∀ m ∈ x.sent, m.1 = p.srcPos.toNat ∧ m.2.1 = p.stream.toNat ∧ serialDone p.mseq m.2.2 = true) →
    Completes (.mackReceive port p) s fun t =>
      t.coll.run = none ∧ CopyDone t x.ref .collective isOk ∧
        ∀ q ∈ t.link.retained, ¬ (q.type = 6 ∧ q.dstPos = p.srcPos ∧ q.stream = p.stream ∧ serialDone p.mseq q.mseq = true))

/-- R310, R332, R363: remote writes and reads in order are served from local memory and answered with STATUS 0, those out of reach with STATUS 1; a
write to a page still to be streamed, or to a fenced die, waits; and a response ends the PUT or GET that waits for it. -/
def Obligations.RemotePacketsComplete : Prop :=
  (∀ port p s, p.type = 10 → InOrder s port p → p.offset = 0 → p.last = true →
    inReach s .iod (p.arg1.toNat % 2 ^ 44) p.payload.length = true → writeHeld s (p.arg1.toNat % 2 ^ 44) p.payload.length = false →
    logging s = false →
    Completes (.rwrReceive port p) s fun t =>
      t = sendResponse p.srcPos.toNat p.vc 0 p.arg1.toNat []
        (storeReceived .iod (addressed (p.arg1.toNat % 2 ^ 44) p.payload) (packetTaken port p s))) ∧
  (∀ port p s, p.type = 10 → InOrder s port p → p.offset = 0 → p.last = true →
    inReach s .iod (p.arg1.toNat % 2 ^ 44) p.payload.length = true → writeHeld s (p.arg1.toNat % 2 ^ 44) p.payload.length = true →
    Completes (.rwrReceive port p) s fun t =>
      t = { packetTaken port p s with coll := { s.coll with unwritten := s.coll.unwritten ++ [p] } }) ∧
  (∀ port p s, p.type = 10 → InOrder s port p → p.offset = 0 → p.last = true →
    inReach s .iod (p.arg1.toNat % 2 ^ 44) p.payload.length = false →
    Completes (.rwrReceive port p) s fun t => t = sendResponse p.srcPos.toNat p.vc 1 p.arg1.toNat [] (packetTaken port p s)) ∧
  (∀ port p s, p.type = 11 → InOrder s port p → p.offset = 0 → p.last = true →
    farReach s (p.arg1.toNat % 2 ^ 44) (p.arg0.toNat + 1) = true → unfilled s (p.arg1.toNat % 2 ^ 44) (p.arg0.toNat + 1) = true →
    Completes (.rrdReceive port p) s fun t =>
      t = { packetTaken port p s with coll := { s.coll with unwritten := s.coll.unwritten ++ [p] } }) ∧
  (∀ port p s, p.type = 11 → InOrder s port p → p.offset = 0 → p.last = true →
    farReach s (p.arg1.toNat % 2 ^ 44) (p.arg0.toNat + 1) = true → unfilled s (p.arg1.toNat % 2 ^ 44) (p.arg0.toNat + 1) = false →
    s.mem.bad = [] →
    Completes (.rrdReceive port p) s fun t =>
      t = sendResponse p.srcPos.toNat p.vc 0 p.arg1.toNat (readBytes s .iod (p.arg1.toNat % 2 ^ 44) (p.arg0.toNat + 1)) (packetTaken port p s)) ∧
  (∀ port p s, p.type = 11 → InOrder s port p → p.offset = 0 → p.last = true →
    farReach s (p.arg1.toNat % 2 ^ 44) (p.arg0.toNat + 1) = false →
    Completes (.rrdReceive port p) s fun t => t = sendResponse p.srcPos.toNat p.vc 1 p.arg1.toNat [] (packetTaken port p s)) ∧
  (∀ port p x d a s, p.type = 12 → InOrder s port p → p.last = true → liveRun s = some x → findDesc s x.ref = some d →
    (copyAt d .collective).isSome = true → x.op = 5 → x.reply = true → x.exchange = false → x.want = [] → x.sent = [] → x.bad = none →
    Answers s p a → a.ref = x.ref → p.arg0 = 0 → logging s = false →
    Completes (.rrspReceive port p) s fun t =>
      t.coll.run = none ∧ t.coll.asked = s.coll.asked.erase a ∧ CopyDone t x.ref .collective isOk ∧ t.mem = s.mem) ∧
  (∀ port p x d a s, p.type = 12 → InOrder s port p → p.last = true → liveRun s = some x → findDesc s x.ref = some d →
    (copyAt d .collective).isSome = true → x.op = 6 → x.reply = true → x.exchange = false → x.want = [] → x.sent = [] → x.bad = none →
    Answers s p a → a.ref = x.ref → p.arg0 = 0 → logging s = false → s.mem.bad = [] → collides s port p = false →
    let s1 := heardFrom x p (requestAnswered p a (packetTaken port p s))
    Completes (.rrspReceive port p) s fun t =>
      t.coll.run = none ∧ CopyDone t x.ref .collective isOk ∧
        t.mem = (storeArrived d (getWrites s1 d p.offset.toNat p.payload) s1).mem) ∧
  (∀ port p x d a s, p.type = 12 → InOrder s port p → liveRun s = some x → findDesc s x.ref = some d →
    (copyAt d .collective).isSome = true → x.reply = true → x.exchange = false → Answers s p a → a.ref = x.ref → p.arg0 = 1 →
    logging s = false →
    Completes (.rrspReceive port p) s fun t =>
      t.coll.run = none ∧ CopyDone t x.ref .collective (fun rep => rep.status = 9 ∧ rep.detail = 56) ∧ t.mem = s.mem) ∧
  (∀ port p s, p.type = 12 → InOrder s port p → answered s p = none →
    Completes (.rrspReceive port p) s fun t => t = packetTaken port p s) ∧
  (∀ dst vc status far data s,
    let t := sendResponse dst vc status far data s
    let q := s.link.sendSeq.get 0 (sendKey dst 0 0x300)
    t.link.sendSeq.get 0 (sendKey dst 0 0x300) = q + 1 ∧ t.mem = s.mem ∧
      ∃ ps, t.link.retained = (s.link.retained.filter fun p => !(p.type == 12 && p.dstPos.toNat == dst)) ++ ps ∧ ps.flatMap (·.payload) = data ∧
        ∀ p ∈ ps, p.type = 12 ∧ p.vc = (takeVc dst vc s).1 ∧ p.stream = 0x300 ∧ p.mseq = q ∧ p.arg0 = BitVec.ofNat 32 status ∧ p.arg1 = BitVec.ofNat 64 far)

/-- R341 to R353: GUARD_REPORT and GUARD_VERDICT complete, and the registers of the guard unit are written where no verdict holds them off. -/
def Obligations.GuardCommandsComplete : Prop :=
  (∀ r x s, RunsAlone s r .guardReport .guard 0 x → firstError (reportChecks s x) = none → s.mem.bad = [] → s.guard.recent = [] →
    let rd (a off : Nat) : Nat := fieldAt (readBytes s .iod a 32) off 0 32
    let val (i off : Nat) : Nat := match (greNorms x)[i]? with | some a => rd a off | none => 0
    let nf := hold 0xFFFFFFFF (s.guard.windowNf + ((greNorms x).map fun a => rd a 16 + rd a 20).sum)
    let pair := if greLoss x = 0 then [] else readBytes s .iod (greLoss x) 8
    let sumsq := bits32 (fp32Round (fadd (fp32Val (BitVec.ofNat 32 (val 0 0))) (fp32Val (BitVec.ofNat 32 (val 1 0)))))
    let amax := (largerOf (BitVec.ofNat 32 (val 0 4)) (BitVec.ofNat 32 (val 1 4)) s).1
    Completes (.guardReport r) s fun t =>
      t = { s with guard := { s.guard with windowNf := 0, winStart := some s.ft.ft,
                                           posted := some (reportBytes (greRound x) nf (fieldAt pair 0 0 32) (fieldAt pair 4 0 32) sumsq.toNat
                                             amax.toNat s.guard.cfgTag.toNat (x.fld 44 0 1 == 1)) },
                   descs := t.descs, freeCtr := t.freeCtr } ∧
        CopyDone t r .guard (fun rep => rep.status = 0 ∧ rep.detail = BitVec.ofNat 32 nf)) ∧
  (∀ r x a p s, RunsAlone s r .guardReport .guard 0 x → firstError (reportChecks s x) = none →
    badRead s .iod ((if greLoss x = 0 then [] else (List.range 8).map (greLoss x + ·)) ++
      (greNorms x).flatMap fun a => (List.range 32).map (a + ·)) = some (a, p) →
    Completes (.guardReport r) s fun t => t = memUncorrectable r .guard a p 0 (symbolsAt s.mem p) (closeWindow s.ft.ft s).2) ∧
  (∀ r x off s, RunsAlone s r .guardReport .guard 0 x → firstError (reportChecks s x) = some off →
    Completes (.guardReport r) s fun t => t = invalid r off s) ∧
  (∀ r x s, RunsAlone s r .guardVerdict .guard 0 x → firstError (verdictChecks s x) = none → s.mem.bad = [] →
    (memberList s (x.fld 16 0 44)).length = 1 →
    Completes (.guardVerdict r) s fun t =>
      t = { s with descs := t.descs } ∧ ∃ y, findDesc t r = some y ∧ ∀ c ∈ y.copies, c.st = .running ∧ (c.target = .guard → c.stage = 1)) ∧
  (∀ r x s, RunsAlone s r .guardVerdict .guard 0 x → firstError (verdictChecks s x) = none → s.mem.bad = [] →
    2 ≤ (memberList s (x.fld 16 0 44)).length → targetBusy s .collective = true →
    Completes (.guardVerdict r) s fun t =>
      t = { s with descs := t.descs, host := t.host, coll := { s.coll with waiting := s.coll.waiting ++ [r] } } ∧
        ∃ y, findDesc t r = some y ∧ ∀ c ∈ y.copies, c.st.waits = true ∧ c.stage = 1) ∧
  (∀ r x s, RunsAlone s r .guardVerdict .guard 0 x → firstError (verdictChecks s x) = none → s.mem.bad = [] →
    2 ≤ (memberList s (x.fld 16 0 44)).length → targetBusy s .collective = false → liveRun s = none → s.ms.mode ≠ .fenced →
    s.coll.waiting = [] →
    Completes (.guardVerdict r) s fun t =>
      t.coll.waiting = [] ∧ t.coll.inst.get 0 (gvSlot x) = s.coll.inst.get 0 (gvSlot x) + 1 ∧
        (∀ k, k ≠ gvSlot x → t.coll.inst.get 0 k = s.coll.inst.get 0 k) ∧ t.guard.doneRound = s.guard.doneRound) ∧
  (∀ (v : Word) s, inService s = true →
    let s1 := writeLogged 0x190000 v.toNat s
    verdictRuns s1 = false →
    Completes (.guardCfgWrite v) s fun t =>
      t = { s1 with guard := t.guard } ∧ t.guard.en = v.getLsbD 0 ∧ t.guard.lossEn = v.getLsbD 1 ∧ t.guard.alpha = bitsOf v.toNat 2 4 ∧
        t.guard.warmup = bitsOf v.toNat 16 16 ∧
        (v.getLsbD 0 = true → s1.guard.en = false → t.guard.windowNf = 0 ∧ t.guard.winStart = some s1.ft.ft) ∧
        ((v.getLsbD 0 = false ∨ s1.guard.en = true) → t.guard.windowNf = s1.guard.windowNf ∧ t.guard.winStart = s1.guard.winStart)) ∧
  (∀ (v : Word) s, inService s = true →
    let s1 := writeLogged 0x190000 v.toNat s
    verdictRuns s1 = true → Completes (.guardCfgWrite v) s fun t => t = s1) ∧
  (∀ (v : Word) s, inService s = true →
    let s1 := writeLogged 0x190020 v.toNat s
    verdictRuns s1 = false → s1.guard.posted = none → gatedParked s1 = false →
    Completes (.guardDoneRoundWrite v) s fun t => t = { s1 with guard := { s1.guard with doneRound := v, held := [] } }) ∧
  (∀ (v : Word) s, inService s = true →
    let s1 := writeLogged 0x190020 v.toNat s
    (verdictRuns s1 || s1.guard.posted.isSome || gatedParked s1) = true → Completes (.guardDoneRoundWrite v) s fun t => t = s1)

/-- R347 to R350: a module that is alone in its member list forms its verdict from its own report: the round is done and its verdict held, the report
leaves, and the descriptor's DETAIL is the low word of the verdict. A round that is not the next one is DESC_INVALID at 32 (R352).
R348: what a round leaves of AVG, SEEN and CONSEC: a tripped round keeps AVG and SEEN and raises CONSEC, held at 255; a clear round clears CONSEC,
and with a loss takes LOSS_MEAN into AVG and raises SEEN, held at 0xFFFF. -/
def Obligations.VerdictsAreFormed : Prop :=
  ((∀ r x c b s, findDesc s r = some x → x.op = some .guardVerdict → x.outcome = none → x.replayed = false → copyAt x .guard = some c →
     c.st = .running → c.stage = 1 → s.guard.posted = some b → (verdictMembers s x).length = 1 → gvRound x = s.guard.doneRound + 1 →
     let k := (combineReports (gvRound x) [b] s).1
     let g := (combineReports (gvRound x) [b] s).2.guard
     let trip := nfTrip g k || lossTrip g k || normTrip g k || k.mismatch || k.forced
     let g1 := updateGuard g k (gvRound x) trip
     let w := verdictWord g k (gvRound x) trip g1.consec
     Completes (.verdictForm r) s fun t =>
       t.guard.doneRound = gvRound x ∧ t.guard.posted = none ∧ t.guard.held.getLast? = some (gvRound x, w) ∧ t.guard.held.length ≤ 64 ∧
         t.guard.avg = g1.avg ∧ t.guard.seen = g1.seen ∧ t.guard.consec = g1.consec ∧
         t.guard.trips = (if trip = true then s.guard.trips.add 1 else s.guard.trips) ∧ g = s.guard ∧ w.getLsbD 0 = trip ∧
         CopyDone t r .guard (fun rep => rep.status = 0 ∧ rep.detail = w.setWidth 32)) ∧
   (∀ r x c s, findDesc s r = some x → x.op = some .guardVerdict → x.outcome = none → copyAt x .guard = some c →
     c.st = .running → c.stage = 1 → (verdictMembers s x).length = 1 → gvRound x ≠ s.guard.doneRound + 1 →
     Completes (.verdictForm r) s fun t =>
       t.guard = s.guard ∧ t.mem = s.mem ∧ CopyDone t r .guard (fun rep => rep.status = 9 ∧ rep.detail = 32))) ∧
  (∀ g k round,
     updateGuard g k round true = { g with consec := min 255 (g.consec + 1) } ∧
     (k.wSum.isZero = true → updateGuard g k round false = { g with consec := 0, lastClear := round }) ∧
     (k.wSum.isZero = false → g.seen = 0 →
       updateGuard g k round false = { g with consec := 0, lastClear := round, avg := bits32 k.mean, seen := 1 }) ∧
     (k.wSum.isZero = false → g.seen ≠ 0 →
       (updateGuard g k round false).consec = 0 ∧ (updateGuard g k round false).seen = min 0xFFFF (g.seen + 1) ∧
       (updateGuard g k round false).avg =
         bits32 (fp32Round (fadd (fp32Val g.avg) (fp32Round (fmul (fp32Round (fsub k.mean (fp32Val g.avg))) (.fin false 1 (-(g.alpha : Int)))))))))

/-- R360, R361, R365, R366, R368: an audit, and the commands of a ledger snapshot, complete. -/
def Obligations.LedgerCommandsComplete : Prop :=
  (∀ s, inService s = true → (∀ d < 8, inBalance s d (lgBefore s d) = true ∧ (lgDom s d).parityBad = false) →
    Completes .ledgerAudit s fun t => t = { s with lg := { s.lg with audits := s.lg.audits.add 1 } }) ∧
  (∀ s, inService s = true → s.ms.mode = .full → (∃ d < 8, inBalance s d (lgBefore s d) = false) →
    Completes .ledgerAudit s fun t => t.ms.mode = .fenced ∧ t.ms.cause = 5 ∧ t.lg.faultValid = true ∧ t.lg.faultCount ≠ s.lg.faultCount ∧
      ∀ d, (lgDom t d).free = (lgDom s d).free ∧ (lgDom t d).held = (lgDom s d).held ∧ (lgDom t d).lent = (lgDom s d).lent ∧
        (lgDom t d).reclaimed = (lgDom s d).reclaimed) ∧
  (∀ (v : Word) s, inService s = true → v.getLsbD 0 = true → v.getLsbD 1 = false →
    let s1 := writeLogged 0x140250 v.toNat s
    let done := if v.getLsbD 2 then false else s1.lg.snapDone
    recordOk s1 .iod s1.lg.snapAddr.toNat 320 64 = true → s1.ft.ft.toNat ≤ s1.lg.snapTick.toNat →
    Completes (.lgSnapArm v) s fun t => t = { s1 with lg := { s1.lg with snapArm := true, snapDone := done } }) ∧
  (∀ (v : Word) s, inService s = true → v.getLsbD 0 = true → v.getLsbD 1 = false →
    let s1 := writeLogged 0x140250 v.toNat s
    recordOk s1 .iod s1.lg.snapAddr.toNat 320 64 = true → s1.lg.snapTick.toNat < s1.ft.ft.toNat →
    Completes (.lgSnapArm v) s fun t => t.lg.snapArm = false ∧ t.lg.snapDone = true ∧ t.lg.snapLate = true ∧ t.lg.snapSeq = s1.lg.snapSeq + 1) ∧
  (∀ (v : Word) s, inService s = true → v.getLsbD 1 = true →
    let s1 := writeLogged 0x140250 v.toNat s
    let done := if v.getLsbD 2 then false else s1.lg.snapDone
    Completes (.lgSnapDisarm v) s fun t => t = { s1 with lg := { s1.lg with snapArm := false, snapDone := done } }) ∧
  (∀ s, inService s = true → s.lg.snapArm = true → s.lg.snapTick.toNat ≤ s.ft.ft.toNat → (∀ d < 8, inBalance s d (lgBefore s d) = true) →
    Completes .ledgerSnapshot s fun t =>
      t = { storeReceived .iod (addressed s.lg.snapAddr.toNat
              (snapBytes s (s.lg.snapSeq + 1) (s.ft.ft.toNat - s.lg.snapTick.toNat))) s with
            lg := { s.lg with snapArm := false, snapDone := true, snapSeq := s.lg.snapSeq + 1,
                              snapLate := decide (s.lg.snapTick.toNat < s.ft.ft.toNat), snapMismatch := (captured s).2,
                              capture := some (s.ft.ft, captured s) } })

/-- R357, R359: a transfer that a ledger makes keeps FREE + HELD + LENT + RECLAIMED and TOTAL, moves its tokens out of the giving column and the holder's
share, and one that the share does not cover is refused with OVERDRAW, or UNCOVERED for an arriving packet, and moves nothing. -/
def Obligations.LedgerTransfersConserve : Prop :=
  (∀ block h n src dst x y, x.movedTo.get 0 h = 0 → LgDom.move block h n src dst x = .ok y →
    (∀ k, x.heldBy.get 0 k ≤ x.held) → (∀ k, x.lentBy.get 0 k ≤ x.lent) → y.sum = x.sum ∧ y.total = x.total ∧ n ≤ x.has src h) ∧
  (∀ h n x y, LgDom.take h n x = some y → y.sum = x.sum ∧ y.total = x.total ∧ y.free + n = x.free ∧ y.held = x.held + n) ∧
  (∀ block h n src dst x, x.movedTo.get 0 h = 0 → x.has src h < n →
    LgDom.move block h n src dst x = .error (if block = true ∧ src = .lent ∧ dst = .held then 3 else 2)) ∧
  (∀ d h n src dst r k s, n ≠ 0 → (lgDom s d).parityBad = false → (lgDom s d).move (d == 5) h n src dst = .error k →
    (ledgerMove d h n src dst r s).1 = false ∧
      (s.ms.mode = .full → (ledgerMove d h n src dst r s).2.ms.mode = .fenced ∧ (ledgerMove d h n src dst r s).2.ms.cause = 5) ∧
      (∀ e, lgDom (ledgerMove d h n src dst r s).2 e = lgDom s e) ∧
      (ledgerMove d h n src dst r s).2.lg.faultCount = s.lg.faultCount + 1 ∧
      (s.lg.faultValid = false → (ledgerMove d h n src dst r s).2.lg.faultDomain = d ∧ (ledgerMove d h n src dst r s).2.lg.faultKind = k ∧
        (ledgerMove d h n src dst r s).2.lg.faultHolder = h ∧ (ledgerMove d h n src dst r s).2.lg.faultTick = s.ft.ft))

/-- R369 to R375: OPEN, ABANDON and LOAD of an ember complete: an epoch opens with the next number, one ends unsealed, and the pages of a buffer are
loaded one after the other; each fails where a check of R375 does. -/
def Obligations.EmberDescriptorsComplete : Prop :=
  (∀ r x s, RunsAlone s r .ember .ember 0 x → embOp x = 0 → s.mem.bad = [] → emberError s x = none →
    let epoch := if s.ember.current + 1 = 0 then 1 else s.ember.current + 1
    Completes (.emberOpen r) s fun t =>
      t.ember.current = epoch ∧ t.ember.streaming = true ∧ t.ember.sinkHost = embHost x ∧ t.ember.hostAddr = BitVec.ofNat 64 (embAddr x) ∧
        t.ember.ragged = isRagged s ∧ t.ember.opened = true ∧ t.ember.table = emberTable s (embTable x) ∧ t.ember.pages = [] ∧
        t.ember.recordSent = false ∧ t.ember.recordAcked = false ∧ t.ember.openStart = nextEntryAt s 16 ∧
        CopyDone t r .ember (fun rep => rep.status = 0 ∧ rep.detail = epoch)) ∧
  (∀ r x off s, RunsAlone s r .ember .ember 0 x → s.mem.bad = [] → emberError s x = some off →
    ((embOp x = 0 ∨ embOp x = 3) → Completes (.emberOpen r) s fun t => t = invalid r off s) ∧
    (embOp x = 1 → Completes (.emberAbandon r) s fun t => t = invalid r off s) ∧
    (embOp x = 2 → ∀ page b, Completes (.emberLoad r page b) s fun t => t = invalid r off s)) ∧
  (∀ r x s, RunsAlone s r .ember .ember 0 x → embOp x = 1 → s.mem.bad = [] → emberError s x = none → s.ember.streaming = true →
    Completes (.emberAbandon r) s fun t =>
      t.ember.streaming = false ∧ t.ember.pages = [] ∧ t.ember.heldWrites = [] ∧ t.ember.current = s.ember.current ∧
        t.ember.sealedEpoch = s.ember.sealedEpoch ∧ CopyDone t r .ember (fun rep => rep.status = 0 ∧ rep.detail = s.ember.current)) ∧
  (∀ r x s, RunsAlone s r .ember .ember 0 x → embOp x = 1 → s.mem.bad = [] → emberError s x = none → s.ember.streaming = false →
    Completes (.emberAbandon r) s fun t =>
      t = { s with descs := t.descs } ∧ CopyDone t r .ember (fun rep => rep.status = 0 ∧ rep.detail = 0)) ∧
  (∀ r x b s, RunsAlone s r .ember .ember 0 x → embOp x = 2 → s.mem.bad = [] → emberError s x = none →
    emberPages (emberTable s (embTable x)) = 1 →
    Completes (.emberLoad r 0 (some b)) s fun t => t.mem = (loadPage x 0 b s).mem ∧ CopyDone t r .ember isOk) ∧
  (∀ r x b s, RunsAlone s r .ember .ember 0 x → embOp x = 2 → s.mem.bad = [] → emberError s x = none →
    1 < emberPages (emberTable s (embTable x)) →
    Completes (.emberLoad r 0 (some b)) s fun t =>
      t.mem = (loadPage x 0 b s).mem ∧ ∃ y, findDesc t r = some y ∧ ∀ c ∈ y.copies, c.st = .running ∧ c.stage = 1) ∧
  (∀ r x k b s, RunsAlone s r .ember .ember k x → 0 < k → k + 1 = emberPages (emberTable s (embTable x)) → s.mem.bad = [] →
    Completes (.emberLoad r k (some b)) s fun t => t.mem = (loadPage x k b s).mem ∧ CopyDone t r .ember isOk) ∧
  (∀ r x k s, RunsAlone s r .ember .ember k x → 0 < k → s.mem.bad = [] →
    Completes (.emberLoad r k none) s fun t => CopyDone t r .ember (fun rep => rep.status = 9 ∧ rep.detail = 32))

/-- R231, R377, R356: the copies of ember pages on first touch complete: a CLEAN page that a write waits for takes a free pool page and a
token of EMBER_PAGE; when its copy completes, the writes that waited for it are made.
R377, R378, R384: the record and the pages of a streaming epoch go to its sink, and acknowledgements lead to the seal. A clean page is READING
until its data has left; what was to be written to it meanwhile is written then. -/
def Obligations.EmberStreamingCompletes : Prop :=
  ((∀ i n p x s, s.ember.streaming = true → (emberPage s i).st = .clean → touched s i = true →
     homePage s.ember.table i = some (n, p) → freePool s n p ≠ [] → isFenced s n = false →
     (lgDom s dEmberPage).parityBad = false → (lgDom s dEmberPage).take n 1 = some x →
     Completes (.emberPageCopy i) s fun t =>
       ∃ q ∈ freePool s n p, t = setEmberPage i { emberPage s i with st := .copying q }
         (setLgDom dEmberPage x { s with freeCtr := s.freeCtr + 1 })) ∧
   (∀ i n p q s, s.ember.streaming = true → (emberPage s i).st = .copying q → homePage s.ember.table i = some (n, p) →
     isFenced s n = false → s.mem.bad = [] → s.sync.unwritten = [] → s.coll.unwritten = [] → (lgDom s dHeTxn).parityBad = false →
     Completes (.emberCopyDone i) s fun t =>
       t = { s with mem := t.mem, ember := t.ember, he := t.he, lg := t.lg, freeCtr := s.freeCtr + 1 } ∧ ColumnsKept s t ∧
         (emberPage t i).st = .copied q s.ember.copies ∧
         t.ember.copies = s.ember.copies + 1 ∧ t.ember.heldWrites = s.ember.heldWrites.filter (·.page != i) ∧
         t.mem = commit (copyPage n p q s.mem) ((s.ember.heldWrites.filter (·.page == i)).map fun w => (w.key, w.byte)))) ∧
  ((∀ s, s.ember.streaming = true → s.ember.recordSent = false → s.ember.sinkHost = true →
     Completes .emberStream s fun t =>
       t = { s with ember := { s.ember with recordSent := true },
                    out := s.out ++ [.hostWrite s.ember.hostAddr
                      ((List.range 65536).map fun i => byteAt s.mem (slotKey 0 (recordPage * pageBytes + i)))] }) ∧
   (∀ s, s.ember.streaming = true → s.ember.recordSent = false → s.ember.sinkHost = false →
     Completes .emberStream s fun t =>
       t = yokeMessage 7 6 0x200 0xFFFFFFFF s.ember.current.toNat
         ((List.range 65536).map fun i => byteAt s.mem (slotKey 0 (recordPage * pageBytes + i)))
         { s with ember := { s.ember with recordSent := true } }) ∧
   (∀ i s, s.ember.streaming = true → s.ember.recordSent = true → readingPage s = none → nextPage s = some i →
     (emberPage s i).st = .clean →
     Completes .emberStream s fun t =>
       t = { s with ember := t.ember } ∧ emberPage t i = { emberPage s i with st := .reading } ∧ (∀ j, j ≠ i → emberPage t j = emberPage s j) ∧
         t.ember.sentOrder = s.ember.sentOrder ∧ t.ember.heldWrites = s.ember.heldWrites) ∧
   (∀ i n p s, s.ember.streaming = true → s.ember.recordSent = true → s.ember.sinkHost = true → readingPage s = some i →
     homePage s.ember.table i = some (n, p) → (emberPage s i).st = .reading → NoneWaits s →
     (∀ w ∈ s.ember.heldWrites, w.page ≠ i) →
     Completes .emberStream s fun t =>
       t = { s with ember := t.ember,
                    out := s.out ++ [.hostWrite (s.ember.hostAddr + BitVec.ofNat 64 (2097152 * (i + 1))) (pageContents s n p)] } ∧
         t.ember.sentOrder = s.ember.sentOrder ++ [i] ∧ (emberPage t i).sent = true ∧ (emberPage t i).st = .done ∧
         ∀ j, j ≠ i → emberPage t j = emberPage s j) ∧
   (∀ i n p s, s.ember.streaming = true → s.ember.recordSent = true → s.ember.sinkHost = true → readingPage s = some i →
     homePage s.ember.table i = some (n, p) → (emberPage s i).st = .reading → NoneWaits s → s.mem.bad = [] →
     Completes .emberStream s fun t =>
       t.out = s.out ++ [.hostWrite (s.ember.hostAddr + BitVec.ofNat 64 (2097152 * (i + 1))) (pageContents s n p)] ∧
         t.ember.heldWrites = (s.ember.heldWrites.filter fun w => w.page != i) ∧
         t.mem = commit s.mem ((s.ember.heldWrites.filter fun w => w.page == i).map fun w => (w.key, w.byte))) ∧
   (∀ i n p q k s, s.ember.streaming = true → s.ember.recordSent = true → s.ember.sinkHost = true → readingPage s = none → nextPage s = some i →
     homePage s.ember.table i = some (n, p) → (emberPage s i).st = .copied q k → NoneWaits s → (∀ w ∈ s.ember.heldWrites, w.page ≠ i) →
     Completes .emberStream s fun t =>
       t.out.getLast? = some (.hostWrite (s.ember.hostAddr + BitVec.ofNat 64 (2097152 * (i + 1))) (pageContents s n q)) ∧
         t.ember.sentOrder = s.ember.sentOrder ++ [i] ∧ (emberPage t i).sent = true ∧ (emberPage t i).lentPool = some q ∧ t.mem = s.mem) ∧
   (∀ s, s.ember.streaming = true → s.ember.recordSent = true → readingPage s = none → nextPage s = none → Completes .emberStream s fun t => t = s) ∧
   (∀ epoch (pages : Word) s, s.ember.streaming = true → s.ember.sinkHost = false → epoch = s.ember.current → s.ember.recordSent = true →
     allAcked s = false →
     Completes (.pageAckReceive epoch pages) s fun t =>
       t.ember.recordAcked = true ∧ (∀ i ∈ s.ember.sentOrder.take pages.toNat, (emberPage t i).acked = true ∧ (emberPage t i).lentPool =
           (if (emberPage s i).acked = true then (emberPage s i).lentPool else none)) ∧
         (∀ i, i ∉ s.ember.sentOrder.take pages.toNat → emberPage t i = emberPage s i) ∧ t.ember.current = s.ember.current ∧ t.mem = s.mem) ∧
   (∀ epoch (pages : Word) s, epoch ≠ s.ember.current → Completes (.pageAckReceive epoch pages) s fun t => t = s) ∧
   (∀ epoch s, s.ember.streaming = true → s.ember.sinkHost = false → epoch = s.ember.current → allAcked s = true → s.ember.heldWrites = [] → NoneWaits s →
     Completes (.sealAckReceive epoch) s fun t =>
       t = { s with ember := t.ember, host := t.host, out := t.out } ∧ t.ember.sealedEpoch = epoch ∧ t.ember.sealedStart = s.ember.openStart ∧
         t.ember.streaming = false ∧ t.ember.forfeit = startLost s) ∧
   (∀ epoch s, epoch ≠ s.ember.current ∨ allAcked s = false → Completes (.sealAckReceive epoch) s fun t => t = s) ∧
   (∀ i s, s.ember.streaming = true → s.ember.sinkHost = true → (emberPage s i).sent = true →
     (∃ j < emberPages s.ember.table, j ≠ i ∧ (emberPage s j).acked = false) →
     Completes (.emberHostAckRead i) s fun t =>
       (emberPage t i).acked = true ∧ t.ember.recordAcked = true ∧ t.ember.streaming = true ∧ (∀ j, j ≠ i → emberPage t j = emberPage s j)) ∧
   (∀ i s, s.ember.streaming = true → s.ember.sinkHost = true → (emberPage s i).sent = true →
     (∀ j < emberPages s.ember.table, j ≠ i → (emberPage s j).acked = true) →
     Completes (.emberHostAckRead i) s fun t =>
       t.ember.streaming = false ∧ t.ember.sealedEpoch = s.ember.current ∧ t.ember.sealedStart = s.ember.openStart ∧ t.ember.heldWrites = []))

/-- R381, R384 to R387: the messages of a yoke pair complete: what each leaves of the pair, of the banked member's memory and epoch, and of the messages
that wait for LOG_ACK. -/
def Obligations.YokeMessagesComplete : Prop :=
  (∀ s, yokeRuns s = true → linked s = false →
    Completes .pairSend s fun t =>
      t = yokeSend 0 (s.ember.effLogPages + (fieldAt (readBytes s .iod s.ember.tableAddr.toNat 64) 0 0 8 + 1) * 2 ^ 16 +
        (if s.hw.variant = .m2 then 2 ^ 25 else 0)) s) ∧
  (∀ s, linked s = true → Completes .pairSend s fun t => t = s) ∧
  (∀ l e v s, yokeRuns s = true → pairFigures s = (l.toNat, e.toNat, v) → s.yoke.gotBeat = false →
    Completes (.pairReceive l e v) s fun t => t = { s with yoke := { s.yoke with heard := some s.clk, gotPair := true } }) ∧
  (∀ l e v s, yokeRuns s = true → pairFigures s = (l.toNat, e.toNat, v) → s.yoke.gotBeat = true → s.yoke.partner ≠ 2 →
    Completes (.pairReceive l e v) s fun t =>
      t = raiseVector 69 { s with yoke := { s.yoke with heard := some s.clk, gotPair := true, partner := 2 } }) ∧
  (∀ l e v s, yokeRuns s = true → pairFigures s ≠ (l.toNat, e.toNat, v) → s.yoke.err ≠ 1 →
    Completes (.pairReceive l e v) s fun t => t = raiseVector 69 { s with yoke := { s.yoke with heard := some s.clk, err := 1 } }) ∧
  (∀ s, yokeRuns s = true → Completes .heartbeatSend s fun t => t = yokeSend 1 s.ms.mode.code s) ∧
  (∀ z s, yokeRuns s = true → s.yoke.gotPair = false →
    Completes (.heartbeatReceive z) s fun t => t = { s with yoke := { s.yoke with heard := some s.clk, gotBeat := true } }) ∧
  (∀ z s, yokeRuns s = true → s.yoke.gotPair = true → s.yoke.partner ≠ 2 →
    Completes (.heartbeatReceive z) s fun t =>
      t = raiseVector 69 { s with yoke := { s.yoke with heard := some s.clk, gotBeat := true, partner := 2 } }) ∧
  (∀ p s, p.type = 7 → InOrder s 16 p → p.offset = 0 → p.last = true →
    Completes (.emberPacketReceive p) s fun t => t = takeEmber p.arg0 p.arg1 p.payload (packetTaken 16 p s)) ∧
  (∀ p s, p.type = 7 → InOrder s 16 p → p.last = false →
    let k := streamKey p.srcPos.toNat p.srcSide p.stream.toNat
    Completes (.emberPacketReceive p) s fun t =>
      t = { s with link := t.link, ft := (noteArrival 16 p s).2.ft } ∧ (streamOf t k).offset = p.offset.toNat + p.payload.length ∧
        (streamOf t k).data = (if p.offset = 0 then [] else (streamOf s k).data) ++ p.payload ∧ (streamOf t k).mseq = (streamOf s k).mseq) ∧
  (∀ p s, p.type = 8 → InOrder s 16 p → receives s = true →
    let o := p.arg1.toNat + p.offset.toNat
    Completes (.logPacketReceive p) s fun t =>
      t.mem = commit s.mem (p.payload.zipIdx.map fun (b, i) => (logKey s (o + i), b)) ∧ t.yoke.mirrored = s.yoke.mirrored + p.payload.length ∧
        t.yoke.logEnd = (o + p.payload.length) % max 1 (logRing s)) ∧
  (∀ p s, p.type = 8 → InOrder s 16 p → receives s = false →
    Completes (.logPacketReceive p) s fun t => t = packetTaken 16 p s) ∧
  (∀ epoch s, receives s = true → s.yoke.rxEpoch = epoch → rxWhole s = true →
    Completes (.sealReceive epoch) s fun t =>
      t.ember = { s.ember with sealedEpoch := epoch, forfeit := s.ember.forfeit && !segmentStands s.yoke.rxRec epoch s } ∧ t.yoke.sealedRec = s.yoke.rxRec ∧ t.yoke.heard = some s.clk ∧
        t.mem = s.mem) ∧
  (∀ epoch s, (receives s && s.yoke.rxEpoch == epoch && rxWhole s) = false →
    Completes (.sealReceive epoch) s fun t => t = { s with yoke := { s.yoke with heard := some s.clk } }) ∧
  (∀ bytes s, (∀ a ∈ s.yoke.pendingAccept, bytes.toNat < a.1) →
    Completes (.logAckReceive bytes) s fun t =>
      t = { s with ember := { s.ember with logMirror := bytes }, yoke := { s.yoke with heard := some s.clk } }) ∧
  (∀ bytes n a s, s.yoke.pendingAccept = [(n, a)] → n ≤ bytes.toNat →
    Completes (.logAckReceive bytes) s fun t =>
      t = acceptNow a { s with ember := { s.ember with logMirror := bytes }, yoke := { s.yoke with heard := some s.clk, pendingAccept := [] } }) ∧
  (∀ s, s.ms.mode = .banked → Completes .forfeitReceive s fun t =>
      t = { s with ember := { s.ember with forfeit := true }, yoke := { s.yoke with heard := some s.clk } }) ∧
  (∀ s, s.ms.mode ≠ .banked → Completes .forfeitReceive s fun t => t = { s with yoke := { s.yoke with heard := some s.clk } })

/-- R387, R388: a member that hears nothing of its partner for 250 µs, or its FAULT, has lost it: a streaming epoch ends and its waiting messages are
accepted; a banked member with a sealed ember takes over, and fails with RESULT 2 or 3 where it has none or it is forfeited. -/
def Obligations.PartnerLossCompletes : Prop :=
  (∀ c s, linked s = true → s.yoke.heard = some c → c + 250000 ≤ s.clk → s.ms.mode = .full →
    s.ember.streaming = false ∨ s.ember.sinkHost = true → s.yoke.pendingAccept = [] →
    Completes .partnerLossTimeout s fun t =>
      t = raiseVector 69 { s with yoke := { s.yoke with partner := 3, gotPair := false, gotBeat := false } }) ∧
  (∀ c s, linked s = true → s.yoke.heard = some c → c + 250000 ≤ s.clk → s.ms.mode = .full → s.ember.streaming = true →
    s.ember.sinkHost = false → s.yoke.pendingAccept = [] →
    Completes .partnerLossTimeout s fun t => t.yoke.partner = 3 ∧ t.ember.streaming = false ∧ t.ember.pages = [] ∧
      t.ember.sealedEpoch = s.ember.sealedEpoch) ∧
  (∀ c s, linked s = true → s.yoke.heard = some c → c + 250000 ≤ s.clk → s.ms.mode = .banked → s.ms.trans = .none →
    s.ember.sealedEpoch ≠ 0 → s.ember.forfeit = false → (lgDom s dLinkPacket).parityBad = false →
    Completes .partnerLossTimeout s fun t =>
      t.ms = { s.ms with trans := .takeover } ∧ t.yoke.partner = 3 ∧ t.yoke.stage = .restoring ∧ t.yoke.deposeLeft = 100 ∧
        t.yoke.takeStart = s.ft.ft ∧ t.yoke.takeCause = 9 ∧ t.mem = s.mem) ∧
  (∀ c s, linked s = true → s.yoke.heard = some c → c + 250000 ≤ s.clk → s.ms.mode = .banked → s.ms.trans = .none →
    s.ember.sealedEpoch = 0 ∨ s.ember.forfeit = true →
    Completes .partnerLossTimeout s fun t =>
      t.ms.mode = .fenced ∧ t.ms.cause = 10 ∧ t.ms.trans = .none ∧ t.yoke.result = (if s.ember.sealedEpoch = 0 then 2 else 3) ∧
        t.yoke.partner = 3 ∧ t.mem = s.mem) ∧
  (∀ cause s, linked s = true → s.ms.mode = .banked → s.ms.trans = .none →
    s.ember.sealedEpoch ≠ 0 → s.ember.forfeit = false → (lgDom s dLinkPacket).parityBad = false →
    Completes (.faultReceive cause) s fun t => t.ms = { s.ms with trans := .takeover } ∧ t.yoke.stage = .restoring ∧ t.yoke.partner = 3) ∧
  (∀ cause s, linked s = true → s.ms.mode = .full → s.ember.streaming = false ∨ s.ember.sinkHost = true → s.yoke.pendingAccept = [] →
    Completes (.faultReceive cause) s fun t =>
      t = raiseVector 69 { s with yoke := { s.yoke with heard := some s.clk, partner := 3, gotPair := false, gotBeat := false } })

/-- R388 to R390: a takeover restores, replays and goes live; the new active deposes the old; and a module resends to a position that resynchronises.
R388: a restore loads, of the sealed schedule record, the fetch indices of the submission rings, the write indices of the completion rings, GEN of
the lines, INSTANCEs, DONE_ROUND, the average and the tallies. -/
def Obligations.TakeoverCompletes : Prop :=
  ((∀ s, s.ms.trans = .takeover → s.yoke.stage = .restoring →
     let s1 := loadRecord (restorePages s)
     Completes .takeoverRestoreDone s fun t =>
       t = replayAdvance { s1 with yoke := { s1.yoke with stage := .replaying, replayPos := 0, replayDone := loggedDone s1,
                                                          replayVerdicts := loggedVerdicts s1 } }) ∧
   (∀ s, s.ms.trans = .takeover → s.yoke.stage = .replaying → (replayEntries s).length ≤ s.yoke.replayPos → replayDispatched s = true →
     s.yoke.waiting = [] →
     Completes .takeoverLive s fun t =>
       t.ms = { s.ms with mode := .full, prev := s.ms.mode, cause := s.yoke.takeCause, entered := s.clk, trans := .none } ∧ t.yoke.stage = .none ∧
         t.yoke.result = 1 ∧ t.yoke.takeEnd = s.ft.ft ∧ t.ember.current = s.ember.sealedEpoch ∧ t.ember.opened = true ∧ t.mem = s.mem) ∧
   (∀ s, s.ms.trans = .takeover → s.yoke.stage = .replaying → (replayEntries s).length ≤ s.yoke.replayPos → replayDispatched s = false →
     Completes .takeoverLive s fun t => t = s) ∧
   (∀ s, 0 < s.yoke.deposeLeft →
     Completes .deposeSend s fun t => t = yokeSend 8 0 { s with yoke := { s.yoke with deposeLeft := s.yoke.deposeLeft - 1 } }) ∧
   (∀ s, s.yoke.deposeLeft = 0 → Completes .deposeSend s fun t => t = s) ∧
   (∀ s, ownRole s = 1 → Completes .deposeReceive s fun t =>
       t = raiseVector 69 { s with yoke := { s.yoke with heard := some s.clk, deposed := true } }) ∧
   (∀ s, ownRole s ≠ 1 → Completes .deposeReceive s fun t => t = { s with yoke := { s.yoke with heard := some s.clk } }) ∧
   (∀ p s, inService s = true → p.srcPos.toNat ≠ strapPos s →
     let s1 := rekey p.srcPos.toNat p.srcSide s
     Completes (.resyncReceive p) s fun t => t = sendAll (s.link.retained.filter fun q => q.dstPos == p.srcPos) s1) ∧
   (∀ pos side st s, Tab.wf Stream.reset s.link.streams = true → st < 2 ^ 16 → st < 0x200 ∨ 0x202 < st → (streamOf s (streamKey pos (!side) st)) ≠ .reset →
     streamOf (rekey pos side s) (streamKey pos side st) = streamOf s (streamKey pos (!side) st)) ∧
   (∀ (v : Word) s, inService s = true →
     let s1 := writeLogged 0x1B0000 v.toNat s
     s1.ms.trans ≠ .takeover → strapYokeEn s1 = true → v.getLsbD 0 = true → s1.yoke.en = false →
     Completes (.yokeCfgWrite v) s fun t =>
       t.yoke.en = true ∧ t.yoke.partner = 1 ∧ t.yoke.gotPair = false ∧ t.yoke.gotBeat = false ∧ t.yoke.emberPort = (v >>> 4).setWidth 4 ∧
         t.yoke.logPort = (v >>> 8).setWidth 4 ∧ (planClaims (planOf t 0) || planClaims (planOf t 1)) = false ∧
         (s1.claims.valid = false → (planClaims (planOf s1 0) || planClaims (planOf s1 1)) = true →
           t.claims.resource = 2 ∧ t.claims.kind = 1 ∧ t.claims.claimant = 2 ∧ t.claims.holder = 1)) ∧
   (∀ (v : Word) s, inService s = true →
     let s1 := writeLogged 0x1B0000 v.toNat s
     s1.ms.trans ≠ .takeover → (strapYokeEn s1 = false ∨ v.getLsbD 0 = s1.yoke.en) →
     Completes (.yokeCfgWrite v) s fun t =>
       t = { s1 with yoke := { s1.yoke with emberPort := (v >>> 4).setWidth 4, logPort := (v >>> 8).setWidth 4 } }) ∧
   (∀ (v : Word) s, inService s = true →
     let s1 := writeLogged 0x1B0000 v.toNat s
     s1.ms.trans = .takeover → Completes (.yokeCfgWrite v) s fun t => t = s1)) ∧
  (∀ s,
     let b := s.yoke.sealedRec
     let t := loadRecord s
     (∀ n < 64, (sring t n).fetch = BitVec.ofNat 32 (fieldAt b (0x40 + 4 * n) 0 32)) ∧
       (∀ n < 64, (cring t n).p = BitVec.ofNat 32 (fieldAt b (0x140 + 4 * n) 0 32)) ∧
       (∀ l < 32, (lineOf t l).gen = bitOf (fieldAt b 0x280 0 32) l) ∧
       (∀ n < 64, (sqTx t n).next = BitVec.ofNat 32 (fieldAt b (0x300 + 8 * n) 0 32)) ∧
       (∀ q < 64, (sqRx t q).expect = BitVec.ofNat 32 (fieldAt b (0x500 + 8 * q) 0 32)) ∧
       (∀ k < 8, t.coll.inst.get 0 k = BitVec.ofNat 32 (fieldAt b (0x700 + 4 * k) 0 32)) ∧
       t.guard.doneRound = BitVec.ofNat 32 (fieldAt b 0x720 0 32) ∧ t.guard.avg = BitVec.ofNat 32 (fieldAt b 0x724 0 32) ∧
       t.guard.seen = fieldAt b 0x728 0 16 ∧ t.guard.consec = fieldAt b 0x728 16 8 ∧
       (∀ i < 4096, tally t i = BitVec.ofNat 32 (fieldAt b (0x4000 + 4 * i) 0 32)) ∧ t.mem = s.mem ∧ t.ember = s.ember)

/-- R398, R399, R405: what reaches a Duest link or the sideband completes: a group in order is accepted, a bad or unexpected one is asked for again, a
NAK or a timeout replays from a group on, and the seventeenth trial is a permanent fault. -/
def Obligations.DuestLinksComplete : Prop :=
  (∀ l g replay s, linkRuns s l = true → (∀ z, (duestLink s l).nak = some z → replay = true ∧ g = z) → g = (duestLink s l).expect →
    Completes (.duestGroupReceive l g replay true) s fun t =>
      t = acceptGroup l (linkHeard l g s) ∧ (duestLink t l).expect = g + 1 ∧ (duestLink t l).nak = none ∧
        (duestLink t l).times.get 0 g.toNat = 0 ∧ ∀ m, m ≠ l → duestLink t m = duestLink s m) ∧
  (∀ l g replay s, linkRuns s l = true → (duestLink s l).nak = none → g ≠ (duestLink s l).expect →
    (duestLink s l).times.get 0 (duestLink s l).expect.toNat < 16 →
    let s1 := linkHeard l g s
    Completes (.duestGroupReceive l g replay true) s fun t =>
      t = duestReply l true (duestLink s l).expect (setDuestLink l { duestLink s1 l with nak := some (duestLink s l).expect } s1)) ∧
  (∀ l g replay z s, linkRuns s l = true → (duestLink s l).nak = some z → (replay = false ∨ g ≠ z) →
    Completes (.duestGroupReceive l g replay true) s fun t => t = linkHeard l g s) ∧
  (∀ l g replay s, linkRuns s l = true → (duestLink s l).nak = none → (duestLink s l).times.get 0 (duestLink s l).expect.toNat < 16 →
    let s1 := linkHeard l g s
    Completes (.duestGroupReceive l g replay false) s fun t =>
      ∃ k, 1 ≤ k ∧ k ≤ 8 ∧ t = { s with duest := t.duest, out := t.out, freeCtr := t.freeCtr } ∧
        (∃ bs, bs[0]? = some (duestLink s l).expect ∧ t.out = s.out ++ [.duestFlit l bs]) ∧
        duestLink t l = { duestLink s1 l with crc := (duestLink s l).crc.add k, nak := some (duestLink s l).expect } ∧
        ∀ m, m ≠ l → duestLink t m = duestLink s m) ∧
  (∀ l g s, linkRuns s l = true → g = (duestLink s l).expect → groupsTo (duestLink s l).oldest g < retryDepth s l →
    (duestLink s l).kept ≤ retryDepth s l → (duestLink s l).times.get 0 g.toNat < 16 →
    Completes (.duestNakReceive l g) s fun t =>
      t = replayGroups l g (linkHeard l g s) ∧
      ∃ n, 1 ≤ n ∧ n ≤ retryDepth s l ∧ t = { s with duest := t.duest, out := t.out, freeCtr := t.freeCtr } ∧
        t.out.length = s.out.length + n ∧ (duestLink t l).replay = (duestLink s l).replay.add n ∧
        (duestLink t l).times.get 0 g.toNat = (duestLink s l).times.get 0 g.toNat + 1 ∧ ∀ m, m ≠ l → duestLink t m = duestLink s m) ∧
  (∀ l g s, linkRuns s l = true → g = (duestLink s l).expect → 16 ≤ (duestLink s l).times.get 0 g.toNat →
    Completes (.duestNakReceive l g) s fun t => t = permanentFault l (linkHeard l g s)) ∧
  (∀ l s, linkRuns s l = true → (duestLink s l).ackAt + 200 ≤ s.clk →
    let s1 := linkTraffic l false 1 s
    Completes (.duestReplayTimeout l) s fun t => t = replayGroups l (duestLink s l).oldest s1 ∧ (duestLink s1 l).oldest = (duestLink s l).oldest ∧
      1 ≤ (duestLink s1 l).kept) ∧
  (∀ l s, s.clk < (duestLink s l).ackAt + 200 → Completes (.duestReplayTimeout l) s fun t => t = s) ∧
  (∀ n w hb ok s, dieRuns s n = true →
    Completes (.sidebandWord n w hb ok true) s fun t =>
      t = emit (.sideband n (downWord s)) (setDieLoss n
        { dieLoss s n with arrived := w, hb := hb, clkOk := ok, badSince := none,
                           toggled := if hb = (dieLoss s n).hb then (dieLoss s n).toggled else s.clk } s)) ∧
  (∀ n w hb ok s, dieRuns s n = true →
    Completes (.sidebandWord n w hb ok false) s fun t =>
      t = emit (.sideband n (downWord s)) (setDieLoss n { dieLoss s n with badSince := some ((dieLoss s n).badSince.getD s.clk) } s)) ∧
  (∀ n c s, n < dieCount s → dieRuns s n = true → s.ms.mode = .full → (dieLoss s n).badSince = some c → c + 1000 ≤ s.clk →
    (∀ d < 8, (lgDom s d).parityBad = false) →
    Completes (.sidebandFault (6 + n)) s fun t =>
      t.ms.mode = .fenced ∧ t.ms.cause = 6 ∧ t.ms.dieFenced = s.ms.dieFenced ||| BitVec.ofNat 4 (2 ^ n) ∧ (dieLoss t n).cause = 3 ∧
        (dieLoss t n).link = 6 + n ∧ (dieLoss t n).tick = s.ft.ft ∧ (duestLink t (6 + n)).permanent = true ∧ t.mem = s.mem) ∧
  (∀ n s, (∀ c, (dieLoss s n).badSince = some c → s.clk < c + 1000) → Completes (.sidebandFault (6 + n)) s fun t => t = s) ∧
  (∀ l nak g s, ∃ bs, duestReply l nak g s = { s with out := s.out ++ [.duestFlit l bs], freeCtr := s.freeCtr + 1 } ∧ bs.length = 262 ∧
    bs[0]? = some g ∧ bitOf (fieldAt bs 256 0 16) 13 = nak ∧ bitOf (fieldAt bs 256 0 16) 12 = !nak ∧ bs.drop 258 = leBytes 4 (crc32c (bs.take 258)).toNat)

/-- R362, R406 to R409: dies that are lost are fenced with one stamp, the module enters Fenced with CAUSE = DIE_LOSS, and CD0 is reset by software in
Kindling. -/
def Obligations.DieCommandsComplete : Prop :=
  (∀ dies noClock s, s.ms.mode = .full → (∃ n < 4, bitOf dies.toNat n = true ∧ heartbeatGone s n = true) →
    Completes (.dieLost dies noClock) s fun t =>
      t.ms.mode = .fenced ∧ t.ms.prev = .full ∧ t.ms.cause = 3 ∧ t.ms.trans = .none ∧
        (∀ n < 4, bitOf t.ms.dieFenced.toNat n = (isFenced s n || (bitOf dies.toNat n && heartbeatGone s n))) ∧
        (∀ n < 4, bitOf dies.toNat n = true → heartbeatGone s n = true →
          (dieLoss t n).cause = (if bitOf noClock.toNat n = true ∨ (dieLoss s n).clkOk = false then 1 else 2) ∧ (dieLoss t n).link = 15 ∧
            (dieLoss t n).tick = s.ft.ft) ∧ t.mem = s.mem ∧ t.sync = s.sync ∧
        t.ft = { s.ft with still := t.ft.still } ∧
        ∀ n < 4, bitOf dies.toNat n = true → heartbeatGone s n = true → t.ft.still.get 0 n = dieTime s n) ∧
  (∀ dies noClock s, (∀ n < 4, bitOf dies.toNat n = true → heartbeatGone s n = false) →
    Completes (.dieLost dies noClock) s fun t => t = s) ∧
  (∀ (v : Word) back s, inService s = true →
    let s1 := writeLogged 0x60408 v.toNat s
    s1.ms.mode = .kindling → s1.ms.trans = .none → v.getLsbD 0 = true → isFenced s1 0 = false →
    Completes (.dieCtrlReset v back) s fun t =>
      t = { s1 with mem := clearSram 0 s1.mem, hw := t.hw, duest := t.duest, streams := t.streams } ∧ (dieLoss t 0).toggled = s1.clk ∧ (dieLoss t 0).clkOk = true) ∧
  (∀ (v : Word) s, inService s = true →
    let s1 := writeLogged 0x60408 v.toNat s
    s1.ms.mode = .kindling → s1.ms.trans = .none → v.getLsbD 0 = true → isFenced s1 0 = true →
    Completes (.dieCtrlReset v true) s fun t => isFenced t 0 = false ∧ (∀ n, 1 ≤ n → n < 4 → isFenced t n = isFenced s1 n)) ∧
  (∀ (v : Word) s, inService s = true →
    let s1 := writeLogged 0x60408 v.toNat s
    s1.ms.mode = .kindling → s1.ms.trans = .none → v.getLsbD 0 = true → isFenced s1 0 = true →
    Completes (.dieCtrlReset v false) s fun t => isFenced t 0 = true ∧ t.mem = clearSram 0 s1.mem) ∧
  (∀ (v : Word) back s, inService s = true →
    let s1 := writeLogged 0x60408 v.toNat s
    (s1.ms.mode ≠ .kindling ∨ s1.ms.trans ≠ .none ∨ v.getLsbD 0 = false) → Completes (.dieCtrlReset v back) s fun t => t = s1)

/-- R23, R407: when a die is fenced in Full service, a descriptor that has not started ends with ABORTED, one that depends on the die with FENCED and the
die's mask, and one that depends on none goes on. -/
def Obligations.FenceEndsDependents : Prop :=
  ∀ n cause why d s, n < dieCount s → isFenced s n = false → s.ms.dieFenced = 0 → s.ms.mode = .full → s.descs = [d] → d.finished = false →
    let t := fenceDies [n] cause why s
    (d.started = false → ∃ y, findDesc t d.ref = some y ∧ y.outcome = some (10, 0, none)) ∧
    (d.started = true → dependsOn s d n = true → (d.op ≠ some .chain) →
      ∃ y, findDesc t d.ref = some y ∧ y.outcome = some (11, BitVec.ofNat 32 (2 ^ n), none)) ∧
    (d.started = true → dependsOn s d n = false → d.op ≠ some .barrier → ∃ y, findDesc t d.ref = some y ∧ y.outcome = d.outcome)

/-- R411, R415 to R422: the commands of power, operating points and temperatures complete. -/
def Obligations.PowerCommandsComplete : Prop :=
  (∀ r x s, RunsAlone s r .opSet .host 0 x → opSetBad s x = true → Completes (.opSet r) s fun t => t = invalid r 16 s) ∧
  (∀ r x s, RunsAlone s r .opSet .host 0 x → opSetBad s x = false → sequencerHolds s = false →
    Completes (.opSet r) s fun t =>
      t = claimEvent 1 2 2 (claimHolder s 1) (finishCopy r .host { status := 4, detail := 1, nf := none, idx := none } s)) ∧
  (∀ r x s, RunsAlone s r .opSet .host 0 x → opSetBad s x = false → sequencerHolds s = true → s.ms.mode ≠ .kindling →
    Completes (.opSet r) s fun t =>
      t = { s with pwr := t.pwr, descs := t.descs, host := t.host, out := t.out } ∧
        (∀ n ∈ opSetDies s x, (pwrDie t n).req = opSetOp s x) ∧ (∀ n, n ∉ opSetDies s x → (pwrDie t n).req = (pwrDie s n).req) ∧
        (∀ n ∈ liveDies s, (pwrDie t n).eff = min (pwrDie t n).req (min t.pwr.capCeil t.pwr.thermCeil)) ∧
        ((∀ n, (pwrDie t n).walking = false) → CopyDone t r .host isOk)) ∧
  (∀ r x s, findDesc s r = some x → x.op = some .opSet → hSown x.bytes = true → x.dispatched = false → x.outcome = none →
    opSetBad s x = false → sequencerHolds s = true → (hLaunch x.bytes).toNat ≤ s.ft.ft.toNat + 15000 →
    Completes (.railPreraise r) s fun t =>
      t = { s with pwr := t.pwr } ∧ (∀ n ∈ opSetDies s x, railFor (max (clockFor (opSetOp s x) (pwrDie s n).share) (opMhz (opSetOp s x))) ≤ (pwrDie t n).rail) ∧
        ∀ n, (pwrDie t n).mhz = (pwrDie s n).mhz ∧ (pwrDie t n).eff = (pwrDie s n).eff ∧ (pwrDie s n).rail ≤ (pwrDie t n).rail) ∧
  (∀ n s, (∀ c, s.pwr.lastStep = some c → c + 250 ≤ s.clk) → stepTurn s = some n → (pwrDie s n).mhz < (pwrDie s n).goal →
    Completes (.clockWalkStep n) s fun t =>
      t = { s with pwr := t.pwr, descs := t.descs } ∧ (pwrDie t n).mhz = min (pwrDie s n).goal ((pwrDie s n).mhz + 25) ∧
        (pwrDie t n).walking = decide ((pwrDie s n).mhz + 25 < (pwrDie s n).goal) ∧ t.pwr.lastStep = some s.clk ∧ t.pwr.lastDie = n ∧
        ∀ m, m ≠ n → pwrDie t m = pwrDie s m) ∧
  (∀ n s, (∀ c, s.pwr.lastStep = some c → c + 250 ≤ s.clk) → stepTurn s = some n → (pwrDie s n).goal ≤ (pwrDie s n).mhz →
    Completes (.clockWalkStep n) s fun t =>
      t = { s with pwr := t.pwr, descs := t.descs } ∧ (pwrDie t n).mhz = max (pwrDie s n).goal ((pwrDie s n).mhz - 25) ∧
        (pwrDie t n).walking = decide ((pwrDie s n).goal < (pwrDie s n).mhz - 25) ∧ ∀ m, m ≠ n → pwrDie t m = pwrDie s m) ∧
  (∀ mv w s, inService s = true →
    let xs := ((mv, w) :: s.pwr.samples).take 100
    let total := (xs.map (·.2)).sum
    let rested := match s.pwr.lastCapFall with | some c => decide (c + 1000000 ≤ s.clk) | none => true
    let high := (decide (s.pwr.cap.toNat * xs.length < total) && rested) || decide (12 * s.pwr.cap.toNat < 10 * w)
    Completes (.powerSample mv w) s fun t =>
      t = { s with pwr := t.pwr, descs := t.descs, host := t.host, out := t.out, freeCtr := t.freeCtr } ∧ t.pwr.samples = xs ∧
        (total < 65535 * xs.length → total / xs.length ≤ t.pwr.watts.toNat ∧ t.pwr.watts.toNat ≤ total / xs.length + 1) ∧
        t.pwr.capCeil = (if high = true then s.pwr.capCeil - 1 else s.pwr.capCeil) ∧
        (high = true → s.pwr.capCeil = 0 → t.pwr.capUnmet = true) ∧
        (high = false → total < s.pwr.cap.toNat * xs.length → t.pwr.capUnmet = false) ∧ t.pwr.thermCeil = s.pwr.thermCeil) ∧
  (∀ c s, inService s = true → s.pwr.capCeil < 5 → ceilingFits s (s.pwr.capCeil + 1) = true → s.pwr.capFits = some c → c + 100000000 ≤ s.clk →
    Completes .capCeilingRaise s fun t =>
      t = noteWarnings s (retarget { s with pwr := { s.pwr with capCeil := s.pwr.capCeil + 1, capFits := none } })) ∧
  (∀ a b s, inService s = true → s.ms.mode ≠ .kindling → s.pwr.steerEn = true → oneOp s = true →
    let seen (n : Nat) : Nat := (s.lag.dieLate.get .reset n).count.toNat
    let l (n : Nat) : Nat := (seen n + 2 ^ 64 - s.steer.late.get 0 n) % 2 ^ 64
    let s1 := { s with steer := { late := (List.range 4).foldl (fun (t : Tab Nat) n => t.put 0 n (seen n)) [], quietMs := 0 } }
    steerPair s l = some (a, b) →
    Completes .steerTick s fun t => t = retarget (addShare b (-1) (addShare a 1 s1))) ∧
  (∀ s, inService s = true → s.ms.mode ≠ .kindling → s.pwr.steerEn = true → oneOp s = true →
    let seen (n : Nat) : Nat := (s.lag.dieLate.get .reset n).count.toNat
    let l (n : Nat) : Nat := (seen n + 2 ^ 64 - s.steer.late.get 0 n) % 2 ^ 64
    let s1 := { s with steer := { late := (List.range 4).foldl (fun (t : Tab Nat) n => t.put 0 n (seen n)) [],
                                  quietMs := s.steer.quietMs + 1 } }
    steerPair s l = none →
    Completes .steerTick s fun t => t = (if 9 ≤ s.steer.quietMs then retarget (decayShares s1) else s1)) ∧
  (∀ s, (inService s && s.ms.mode != .kindling && s.pwr.steerEn && oneOp s) = false →
    Completes .steerTick s fun t => t = { s with steer := t.steer } ∧ t.steer.quietMs = s.steer.quietMs) ∧
  (∀ n s, inService s = true → n < dieCount s →
    Completes (.droop n) s fun t => t = setPwrDie n { pwrDie s n with drooping := true } s) ∧
  (∀ n s, (pwrDie s n).drooping = true →
    Completes (.railRecover n) s fun t => t = setPwrDie n { pwrDie s n with drooping := false } s) ∧
  (∀ rs s, inService s = true →
    Completes (.tempSample rs) s fun t =>
      t = { s with pwr := t.pwr, descs := t.descs, host := t.host, out := t.out } ∧
        (∀ i ∈ sensors s, ∀ v, rs[i]? = some v → tempOf t i = v.toInt) ∧
        t.pwr.warnTemp = ((sensors s).any fun i => decide ((tempLimits i).1 ≤ tempOf t i)) ∧
        t.pwr.thermCeil =
          (if ((sensors s).any fun i => decide ((tempLimits i).2.1 ≤ tempOf t i)) = true ∧ (∀ c, s.pwr.lastThermFall = some c → c + 1000000 ≤ s.clk)
           then s.pwr.thermCeil - 1 else s.pwr.thermCeil)) ∧
  (∀ c s, inService s = true → s.pwr.thermCeil < 5 → (∀ i ∈ sensors s, tempOf s i + 48 ≤ (tempLimits i).2.1) →
    s.pwr.coolSince = some c → c + 100000000 ≤ s.clk →
    Completes .thermalCeilingRaise s fun t =>
      t = noteWarnings s (retarget { s with pwr := { s.pwr with thermCeil := s.pwr.thermCeil + 1, coolSince := some s.clk } })) ∧
  (∀ s, inService s = true → Completes .inputLow s fun t => t = noteWarnings s { s with pwr := { s.pwr with inputLow := true } }) ∧
  (∀ s, inService s = true → Completes .inputHigh s fun t => t = noteWarnings s { s with pwr := { s.pwr with inputHigh := true } }) ∧
  (∀ s, s.ms.mode ≠ .off → inService s = false →
    Completes .inputLow s (fun t => t = { s with pwr := { s.pwr with inputLow := true } }) ∧
    Completes .inputHigh s (fun t => t = { s with pwr := { s.pwr with inputHigh := true } })) ∧
  (∀ s, s.ms.mode = .off → Completes .inputLow s (fun t => t = s) ∧ Completes .inputHigh s (fun t => t = s) ∧
    Completes .inputNormal s (fun t => t = s)) ∧
  (∀ s, s.ms.mode ≠ .off → Completes .inputNormal s fun t => t = { s with pwr := { s.pwr with inputLow := false, inputHigh := false } }) ∧
  (∀ (v : Word) s, inService s = true →
    let s1 := writeLogged 0x150004 v.toNat s
    v.getLsbD 1 = true → s1.pwr.seqEn = false → s1.wdog.en = false →
    Completes (.pwrCfgWrite v) s fun t =>
      t = { s1 with pwr := t.pwr, descs := t.descs, host := t.host, out := t.out } ∧ t.pwr.seqEn = true ∧ t.pwr.steerEn = v.getLsbD 0 ∧
        t.pwr.steerMin = (v >>> 16).setWidth 16) ∧
  (∀ (v : Word) s, inService s = true →
    let s1 := writeLogged 0x150004 v.toNat s
    v.getLsbD 1 = true → s1.pwr.seqEn = false → s1.wdog.en = true →
    Completes (.pwrCfgWrite v) s fun t =>
      t.pwr.seqEn = false ∧ t.pwr.steerEn = v.getLsbD 0 ∧ t.claims.conflict = true ∧ t.claims.count = s1.claims.count.add 1 ∧
        (s1.claims.valid = false → t.claims.resource = 1 ∧ t.claims.kind = 0 ∧ t.claims.claimant = 2 ∧ t.claims.holder = 1)) ∧
  (∀ (v : Word) s, inService s = true →
    let s1 := writeLogged 0x150004 v.toNat s
    v.getLsbD 1 = false → Completes (.pwrCfgWrite v) s fun t => t.pwr.seqEn = false ∧ t.pwr.steerEn = v.getLsbD 0 ∧ t.claims = s1.claims)

/-- R417, R419: the cap ceiling that an OP_SET predicts is the highest OP whose predicted draw fits the cap; where none does it is OP0 and CAP_UNMET
reads 1.
R420: the clock of a die with a share is the highest step of 25 MHz from 400 MHz to 1,350 MHz whose draw fits its budget; with the example of four
dies at OP4 and the shares +3 and −1. -/
def Obligations.PowerPolicySetsTheClock : Prop :=
  ((∀ s o, o ≤ 5 → ceilingFits s o = true → (∀ k, o < k → k ≤ 5 → ceilingFits s k = false) →
     predictCeiling s = { s with pwr := { s.pwr with capCeil := o, capFits := none } }) ∧
   (∀ s, (∀ k ≤ 5, ceilingFits s k = false) → predictCeiling s = { s with pwr := { s.pwr with capCeil := 0, capUnmet := true, capFits := none } })) ∧
  ((∀ eff share f, share ≠ 0 → clockFor eff share = f → f ≠ 400 →
     f % 25 = 0 ∧ 400 < f ∧ f ≤ 1350 ∧ 20 * draw600 f ≤ (20 + share).toNat * (600 * opDraw eff) ∧
       ∀ g, f < g → g ≤ 1350 → g % 25 = 0 → (20 + share).toNat * (600 * opDraw eff) < 20 * draw600 g) ∧
   clockFor 4 3 = 1275 ∧ clockFor 4 (-1) = 1150 ∧ ∀ eff, clockFor eff 0 = opMhz eff)

/-- R434 to R441: a self-test by descriptor starts where its checks pass and no run is in progress, parks where one is, and fails where a check does;
the end of a run tells what asked for it.
R439: a faulty row of a core without one in its spare, found by a run with REPAIR = 1 on a die that has a fuse entry free, is repaired with the
outcome REPAIRED_PENDING; with REPAIR = 0 it is REPAIRABLE and nothing changes; and a core whose spare is in use is UNREPAIRABLE. -/
def Obligations.SelfTestsComplete : Prop :=
  ((∀ r x k s, CopyRunsAt s r .host .bist 0 x → bistError s x.bytes = none → bKind x.bytes = k → s.bist.running = false →
     let P (t : State) : Prop :=
       t = { s with descs := t.descs,
                    bist := { s.bist with running := true, mailbox := false, mb := 16, ref := some r, body := padTo 64 x.bytes, kind := k,
                                          die := bDie x.bytes, stack := bStack x.bytes, start := s.ft.ft } } ∧
         ∃ y c, findDesc t r = some y ∧ copyAt y .host = some c ∧ c.st = .running ∧ c.stage = 2
     (k = 0 → Completes (.bistLogic r) s P) ∧ (k = 1 → Completes (.bistSram r) s P) ∧ (k = 2 → Completes (.bistStack r) s P) ∧
       (k = 3 → Completes (.bistArray r) s P)) ∧
   (∀ r x k s, CopyRunsAt s r .host .bist 0 x → bistError s x.bytes = none → bKind x.bytes = k → s.bist.running = true →
     let P (t : State) : Prop :=
       t = { s with descs := t.descs, host := t.host } ∧
         ∃ y c, findDesc t r = some y ∧ copyAt y .host = some c ∧ c.st.waits = true ∧ c.stage = 1
     (k = 0 → Completes (.bistLogic r) s P) ∧ (k = 1 → Completes (.bistSram r) s P) ∧ (k = 2 → Completes (.bistStack r) s P) ∧
       (k = 3 → Completes (.bistArray r) s P)) ∧
   (∀ r x off s, CopyRunsAt s r .host .bist 0 x → bistError s x.bytes = some off →
     let P (t : State) : Prop := t = invalid r off s
     Completes (.bistLogic r) s P ∧ Completes (.bistSram r) s P ∧ Completes (.bistStack r) s P ∧ Completes (.bistArray r) s P) ∧
   (∀ sig r x s, s.bist.running = true → inService s = true → s.bist.mailbox = false → s.bist.ref = some r → findDesc s r = some x →
     (copyAt x .host).isSome = true → s.mem.bad = [] → (bKind s.bist.body = 0 → sig = sigExpected s s.bist.body) →
     Completes (.bistRunEnd sig []) s fun t =>
       t.bist = { s.bist with running := false, result := 0, runs := s.bist.runs.add 1 } ∧ t.hw = s.hw ∧
         CopyDone t r .host (fun rep => rep.status = 0 ∧ rep.detail = 0) ∧
         t.mem = (store (some (r, .host)) false .iod (addressed (bResult s.bist.body) (bistHeader s s.bist.body 0 0 0 sig))
           { bistClear s.bist.body s with bist := t.bist }).mem) ∧
   (∀ sig r x s, s.bist.running = true → inService s = true → s.bist.mailbox = false → s.bist.ref = some r → findDesc s r = some x →
     (copyAt x .host).isSome = true → s.mem.bad = [] → bKind s.bist.body = 0 → sig ≠ sigExpected s s.bist.body →
     Completes (.bistRunEnd sig []) s fun t =>
       t.bist = { s.bist with running := false, result := 2, runs := s.bist.runs.add 1, fails := s.bist.fails.add 1 } ∧
         CopyDone t r .host (fun rep => rep.status = 0 ∧ rep.detail = 2)) ∧
   (∀ sig fs s, s.bist.running = false ∨ inService s = false → Completes (.bistRunEnd sig fs) s fun t => t = s)) ∧
  (∀ b f s, f.what = 1 →
     let c := f.core.toNat
     (s.hw.badRow.get 64 c = 64 → s.hw.pendingRow.get 0 c = 0 → bRepair b = true → fusesFree s (c / 96) ≠ 0 →
       judgeFinding b [f] f s = (1, 1, { s with hw := { s.hw with pendingRow := s.hw.pendingRow.put 0 c (f.index.toNat + 1),
                                                                  fuseUsed := s.hw.fuseUsed.upd 0 (c / 96) (· + 1) } })) ∧
     (s.hw.badRow.get 64 c = 64 → bRepair b = false → judgeFinding b [f] f s = (2, 0, s)) ∧
     (s.hw.badRow.get 64 c < 64 → judgeFinding b [f] f s = (3, 0, s)))

/-- R454 to R459, R462, R463, R466: posts, acknowledgements and takes of a mailbox complete, by the state of the mailbox and the sender.
R456, R459, R464: which request is refused: one of fewer than 4 bytes or of more than 256 is BAD_SIZE, an unknown code is NO_SERVICE, a secure
service on a mailbox that is not secure is DENIED, and so is a post from software to a secure mailbox once the lock is set. -/
def Obligations.MailboxCommandsComplete : Prop :=
  ((∀ m (v : Word) s, m < mailboxCount s → inService s = true →
     let s1 := writeLogged (0x1D0000 + 0x1000 * m + 0x200) v.toNat s
     let x := mailbox s1 m
     (x.state = .empty →
       Completes (.mbPost m v) s fun t =>
         t = setMailbox m { x with state := .posted, mctp := false, tag := (v >>> 16).setWidth 16, len := bitsOf v.toNat 0 9,
                                   slot := (mbStaging x).take (min (bitsOf v.toNat 0 9) 256), discard := false } s1) ∧
     (x.state = .posted →
       Completes (.mbPost m v) s fun t =>
         (mailbox t m).state = .posted ∧ (mailbox t m).mctp = false ∧ (mailbox t m).tag = (v >>> 16).setWidth 16 ∧
           (mailbox t m).collision = true ∧ (mailbox t m).collide = x.collide.add 1 ∧ (∀ k, k ≠ m → mailbox t k = mailbox s1 k) ∧
           (x.mctp = true → Output.mailboxReply m x.tag (mbReply 2 5 x.tag 0 []) ∈ t.out)) ∧
     (x.state = .serving → Completes (.mbPost m v) s fun t => t = raiseVector (80 + m) (setMailbox m { x with busy := true } s1)) ∧
     (x.state = .replied →
       Completes (.mbPost m v) s fun t =>
         (mailbox t m).state = .posted ∧ (mailbox t m).collision = true ∧ (mailbox t m).replyValid = false ∧
           (mailbox t m).collide = x.collide ∧ ∀ k, k ≠ m → mailbox t k = mailbox s1 k)) ∧
   (∀ m tag bytes s, mctpAnswers s = true → mailboxCount s ≤ m →
     Completes (.mctpMailboxRequest m tag bytes) s fun t =>
       t = sendMctp (.mailboxReply m tag (mbReply 4 0 tag 0 [])) s) ∧
   (∀ m tag bytes s, mctpAnswers s = true → m < mailboxCount s → (mailbox s m).state = .empty →
     Completes (.mctpMailboxRequest m tag bytes) s fun t =>
       t = setMailbox m { mailbox s m with state := .posted, mctp := true, tag := tag, len := bytes.length, slot := bytes.take (min bytes.length 256),
                                           discard := false } s) ∧
   (∀ m tag bytes s, mctpAnswers s = true → m < mailboxCount s → (mailbox s m).state = .serving →
     Completes (.mctpMailboxRequest m tag bytes) s fun t => t = sendMctp (.mailboxReply m tag (mbReply 1 0 tag 0 [])) s) ∧
   (∀ m (v : Word) s, m < mailboxCount s → inService s = true →
     let s1 := writeLogged (0x1D0000 + 0x1000 * m + 0x204) v.toNat s
     ((mailbox s1 m).state = .replied → v.getLsbD 0 = true →
       Completes (.mbAck m v) s fun t => t = setMailbox m { mailbox s1 m with state := .empty, replyValid := false } s1) ∧
     ((mailbox s1 m).state ≠ .replied ∨ v.getLsbD 0 = false → Completes (.mbAck m v) s fun t => t = s1)) ∧
   (∀ m s, (mailbox s m).state = .posted → mctpAnswers s = true → rejection s m (mailbox s m) = none →
     Completes (.kolnuTake m) s fun t => t = setMailbox m { mailbox s m with state := .serving } s) ∧
   (∀ m a b c s, (mailbox s m).state = .posted → mctpAnswers s = true → rejection s m (mailbox s m) = some (a, b, c) → (mailbox s m).mctp = true →
     (mailbox s m).discard = false →
     Completes (.kolnuTake m) s fun t =>
       t.out = s.out ++ announced s ++ [.mailboxReply m (mailbox s m).tag (mbReply a b (mailbox s m).tag c [])] ∧ (mailbox t m).state = .empty ∧
         ∀ k, k ≠ m → mailbox t k = mailbox s k) ∧
   (∀ m a b c s, (mailbox s m).state = .posted → mctpAnswers s = true → rejection s m (mailbox s m) = some (a, b, c) → (mailbox s m).mctp = false →
     Completes (.kolnuTake m) s fun t =>
       (mailbox t m).state = .replied ∧ (mailbox t m).replyValid = true ∧
         (List.range 8).map (fun i => (mailbox t m).reply.get 0 i) = mbReply a b (mailbox s m).tag c [] ∧
         (∀ i, 8 ≤ i → (mailbox t m).reply.get 0 i = (mailbox s m).reply.get 0 i) ∧ ∀ k, k ≠ m → mailbox t k = mailbox s k)) ∧
  (∀ m x s,
     (x.len < 4 ∨ 256 < x.len → rejection s m x = some (6, 0, 0)) ∧
     (4 ≤ x.len → x.len ≤ 256 → serviceOf x = none → rejection s m x = some (4, 0, 0)) ∧
     (∀ v, 4 ≤ x.len → x.len ≤ 256 → serviceOf x = some v → isSecure x v = true → bitOf s.trust.mask.toNat m = false →
       rejection s m x = some (5, 0, 0)) ∧
     (∀ v, 4 ≤ x.len → x.len ≤ 256 → serviceOf x = some v → bitOf s.trust.mask.toNat m = true → s.trust.lock = true → x.mctp = false →
       rejection s m x = some (5, 0, 0)))

/-- R440 to R447, R460, R461: the services of mailboxes complete with the reply that each gives.
R457, R462, R463: a reply goes over MCTP to a tray controller and empties the mailbox, or into MB_REPLY, REPLY_VALID and the mailbox's vector for
software; a discarded one goes nowhere. -/
def Obligations.MailboxServicesComplete : Prop :=
  ((∀ m s, (mailbox s m).state = .serving → serviceOf (mailbox s m) = some .info → mctpAnswers s = true →
     Completes (.info m) s fun t =>
       t = endService m 0 0 0 (leBytes 4 (iodState s) ++ leBytes 4 (iodCap s) ++ leBytes 4 (fwStatus s) ++ leBytes 8 (fwVersion s)) s) ∧
   (∀ m s, (mailbox s m).state = .serving → serviceOf (mailbox s m) = some .echo → mctpAnswers s = true →
     Completes (.echo m) s fun t => t = endService m 0 0 0 (((mailbox s m).slot.drop 4).take 248) s) ∧
   (∀ m s, (mailbox s m).state = .serving → serviceOf (mailbox s m) = some .measExtend → mctpAnswers s = true →
     let d := padTo 48 ((mailbox s m).slot.drop 4)
     Completes (.measExtend m) s fun t =>
       measOf t 6 = sha384 (measOf s 6 ++ d) ∧ (∀ i, i ≠ 6 → measOf t i = measOf s i) ∧
         t.trust.counts.get 0 6 = min 255 (s.trust.counts.get 0 6 + 1) ∧ t.trust.extendCount = s.trust.extendCount + 1 ∧
         t = endService m 0 0 (min 255 (s.trust.counts.get 0 6 + 1)) [] (extendMeas 6 d s)) ∧
   (∀ m s, (mailbox s m).state = .serving → serviceOf (mailbox s m) = some .measLog → mctpAnswers s = true →
     Completes (.measLog m) s fun t =>
       t = endService m 0 0 s.trust.extendCount.toNat
         ((measSelect s (BitVec.ofNat 32 ((mailbox s m).fld 4 0 32))).flatMap measEntryBytes) s) ∧
   (∀ m st det s, (mailbox s m).state = .serving → serviceOf (mailbox s m) = some .fwLoad → mctpAnswers s = true →
     fwRequestError s (mailbox s m) = some (st, det) → Completes (.fwLoad m) s fun t => t = endService m 0 st det [] s) ∧
   (∀ m off s, (mailbox s m).state = .serving → serviceOf (mailbox s m) = some .fwLoad → mctpAnswers s = true →
     fwRequestError s (mailbox s m) = none → unfilledAt s ((mailbox s m).fld 4 0 44) 1 = none →
     fwFormat s ((mailbox s m).fld 4 0 44) ((mailbox s m).fld 12 0 32) = some off →
     Completes (.fwLoad m) s fun t => t = endService m 0 9 off [] s) ∧
   (∀ a n (s0 : State), s0.mem.bad = [] → fwFormat s0 a n = fwImageError (readBytes s0 .bar2 a 1024) n) ∧
   (∀ m r s, (mailbox s m).state = .serving → serviceOf (mailbox s m) = some .fwLoad → mctpAnswers s = true →
     fwRequestError s (mailbox s m) = none → unfilledAt s ((mailbox s m).fld 4 0 44) 1 = none →
     fwFormat s ((mailbox s m).fld 4 0 44) ((mailbox s m).fld 12 0 32) = none →
     fwBad s ((mailbox s m).fld 4 0 44) ((mailbox s m).fld 12 0 32) = some r →
     Completes (.fwLoad m) s fun t => t = endService m 0 12 r.1 [] r.2) ∧
   (∀ m s, (mailbox s m).state = .serving → serviceOf (mailbox s m) = some .fwLoad → mctpAnswers s = true →
     fwRequestError s (mailbox s m) = none → unfilledAt s ((mailbox s m).fld 4 0 44) 1 = none → s.mem.bad = [] →
     fwImageError (readBytes s .bar2 ((mailbox s m).fld 4 0 44) 1024) ((mailbox s m).fld 12 0 32) = none →
     let b := readBytes s .bar2 ((mailbox s m).fld 4 0 44) ((mailbox s m).fld 12 0 32)
     let body := (b.drop 1024).take (fieldAt b 16 0 32)
     let cfg := b.drop (1024 + fieldAt b 16 0 32)
     Completes (.fwLoad m) s fun t =>
       t.trust.s2Loaded = true ∧ t.trust.s2SigOk = ecdsaVerify Config.fwKey (sha384 (b.take 64 ++ body ++ cfg)) (leNat ((b.drop 64).take 48)) (leNat ((b.drop 112).take 48)) ∧
         t.trust.s2Svn = BitVec.ofNat 8 (fieldAt b 12 0 8) ∧ t.trust.s2Version = BitVec.ofNat 32 (fieldAt b 8 0 32) ∧
         measOf t 3 = sha384 (measOf s 3 ++ sha384 (b.take 64 ++ body)) ∧ measOf t 4 = sha384 (measOf s 4 ++ sha384 cfg) ∧
         (∀ i, i ≠ 3 → i ≠ 4 → measOf t i = measOf s i) ∧ t.mem = s.mem) ∧
   (∀ m s, (mailbox s m).state = .serving → serviceOf (mailbox s m) = some .bist → mctpAnswers s = true → s.bist.running = true →
     Completes (.mbBist m) s fun t => t = endService m 1 0 0 [] s) ∧
   (∀ m s, (mailbox s m).state = .serving → serviceOf (mailbox s m) = some .bist → mctpAnswers s = true → s.bist.running = false →
     serviceState s .bist = true → (∀ n, dieOfAddr s .iod (bResult (mbBistBody (mailbox s m))) = some n → isFenced s n = false) →
     bistError s (mbBistBody (mailbox s m)) = none →
     Completes (.mbBist m) s fun t =>
       t = { s with bist := t.bist } ∧ t.bist.running = true ∧ t.bist.mailbox = true ∧ t.bist.mb = m ∧ t.bist.start = s.ft.ft) ∧
   (∀ m off s, (mailbox s m).state = .serving → serviceOf (mailbox s m) = some .bist → mctpAnswers s = true → s.bist.running = false →
     serviceState s .bist = true → (∀ n, dieOfAddr s .iod (bResult (mbBistBody (mailbox s m))) = some n → isFenced s n = false) →
     bistError s (mbBistBody (mailbox s m)) = some off →
     Completes (.mbBist m) s fun t => t = endService m 0 9 off [] s)) ∧
  (∀ m a b c data s, data.length ≤ 248 →
     let x := mailbox s m
     let t := endService m a b c data s
     (x.mctp = true → x.discard = false →
       t.out = s.out ++ announced s ++ [.mailboxReply m x.tag (mbReply a b x.tag c data)] ∧ (mailbox t m).state = .empty) ∧
     (x.mctp = true → x.discard = true → t.out = s.out ∧ (mailbox t m).state = .empty) ∧
     (x.mctp = false →
       (mailbox t m).state = .replied ∧ (mailbox t m).replyValid = true ∧
         (List.range (mbReply a b x.tag c data).length).map (fun i => (mailbox t m).reply.get 0 i) = mbReply a b x.tag c data) ∧
     (∀ k, k ≠ m → mailbox t k = mailbox s k) ∧ t = { s with trust := t.trust, host := t.host, out := t.out })

/-- R450 to R453: the requests of SPDM in their order, and the messages of DOE and MCTP, complete with the responses that they get. -/
def Obligations.ManagementMessagesComplete : Prop :=
  (∀ k s, transportAnswers s k = true →
    Completes (.getVersion k) s fun t =>
      spdmOf t k = { version := true, caps := false, algs := false, transcript := [(.getVersion, .version 1 3)] } ∧
        t = { s with trust := t.trust, out := s.out ++ (if k = .mctp then announced s else []) ++ [.spdm k (.version 1 3)] }) ∧
  (∀ k flags ct size room s, transportAnswers s k = true → (spdmOf s k).version = true →
    Completes (.getCapabilities ⟨k, flags, ct, size, room⟩) s fun t =>
      let r : SpdmReply := .capabilities true true 2 17 4096 4096
      spdmOf t k = { spdmOf s k with caps := true, transcript := (spdmOf s k).transcript ++ [(.getCapabilities flags ct size room, r)] } ∧
        t = { s with trust := t.trust, out := s.out ++ (if k = .mctp then announced s else []) ++ [.spdm k r] }) ∧
  (∀ k a b c s, transportAnswers s k = true → (spdmOf s k).caps = true →
    Completes (.negotiateAlgorithms k ⟨a, b⟩ c) s fun t =>
      (a = true ∧ b = true ∧ c = true →
        t = respond k (.negotiateAlgorithms true true true) (.algorithms spdmAlgs) (setSpdm k { spdmOf s k with algs := true } s)) ∧
        (a = false ∨ b = false ∨ c = false → t = sendSpdm k (.error .invalidRequest) s)) ∧
  (∀ k s, transportAnswers s k = true → (spdmOf s k).algs = true →
    Completes (.getDigests k) s fun t => t = respond k .getDigests (.digests 0 (sha384 (chainBytes s))) s) ∧
  (∀ k slot off len s, transportAnswers s k = true → (spdmOf s k).algs = true →
    Completes (.getCertificate k slot off len) s fun t =>
      let p := ((chainBytes s).drop off).take (min len (certRoom k))
      (slot = 0 → off ≤ (chainBytes s).length →
        t = respond k (.getCertificate 0 off len) (.certificate 0 p ((chainBytes s).length - off - p.length)) s) ∧
        (slot ≠ 0 ∨ (chainBytes s).length < off → t = sendSpdm k (.error .invalidRequest) s)) ∧
  (∀ k sm nonce s, transportAnswers s k = true → (spdmOf s k).algs = true →
    Completes (.challenge k 0 sm nonce) s fun t =>
      ∃ own sig, own.length = 32 ∧ sig.length = 96 ∧ ∃ u,
        t = respond k (.challenge 0 sm nonce) (.challengeAuth 0 (sha384 (chainBytes s)) own (summaryHash s sm) sig) u ∧
          u = { s with freeCtr := u.freeCtr }) ∧
  (∀ k slot sm nonce s, transportAnswers s k = true → (spdmOf s k).algs = true → slot ≠ 0 →
    Completes (.challenge k slot sm nonce) s fun t => t = sendSpdm k (.error .invalidRequest) s) ∧
  (∀ k op ix nonce s, transportAnswers s k = true → (spdmOf s k).algs = true → measOperation op = some ix →
    Completes (.getMeasurements k op false nonce) s fun t =>
      t = respond k (.getMeasurements op false nonce) (.measurements 7 (ix.map (measBlock s)) none) s) ∧
  (∀ k op ix nonce s, transportAnswers s k = true → (spdmOf s k).algs = true → measOperation op = some ix →
    Completes (.getMeasurements k op true nonce) s fun t =>
      ∃ own sig, own.length = 32 ∧ sig.length = 96 ∧ ∃ u,
        t = respond k (.getMeasurements op true nonce) (.measurements 7 (ix.map (measBlock s)) (some (own, sig))) u ∧
          u = { s with freeCtr := u.freeCtr }) ∧
  (∀ k op sg nonce s, transportAnswers s k = true → (spdmOf s k).algs = true → measOperation op = none →
    Completes (.getMeasurements k op sg nonce) s fun t => t = sendSpdm k (.error .invalidRequest) s) ∧
  (∀ k code s, transportAnswers s k = true →
    Completes (.spdmUnsupportedRequest k code) s fun t => t = sendSpdm k (.error .unsupportedRequest) s) ∧
  (∀ s, inService s = true → Completes .doeAbort s fun t => t = { s with trust := { s.trust with doe := .reset } }) ∧
  (∀ s, inService s = true → Completes (.doeDiscovery 0) s fun t => t = { s with out := s.out ++ [.doeDiscovery 1 0 1] }) ∧
  (∀ s, inService s = true → Completes (.doeDiscovery 1) s fun t => t = { s with out := s.out ++ [.doeDiscovery 1 1 0] }) ∧
  (∀ e s, mctpAnswers s = true → e ≠ 0 → e ≠ 0xFF →
    Completes (.setEndpointId e) s fun t =>
      t.trust.eid = e ∧ t.trust.mctp = .reset ∧ t.out = s.out ++ announced s ++ [.mctpControl (.setEid e true)] ∧
        (∀ m < 16, (mailbox s m).mctp = true → (mailbox s m).state = .posted → (mailbox t m).state = .empty) ∧
        (∀ m < 16, (mailbox s m).mctp = true → (mailbox s m).state = .serving → (mailbox t m).discard = true) ∧
        ∀ m, (mailbox s m).mctp = false → mailbox t m = mailbox s m) ∧
  (∀ s, mctpAnswers s = true → Completes .getEndpointId s fun t => t = sendMctp (.mctpControl (.getEid s.trust.eid)) s) ∧
  (∀ s, mctpAnswers s = true → Completes .getMctpVersionSupport s fun t => t = sendMctp (.mctpControl .versions) s) ∧
  (∀ s, mctpAnswers s = true →
    Completes .getMessageTypeSupport s fun t => t = sendMctp (.mctpControl (.messageTypes [0x05, 0x7E])) s) ∧
  (∀ o s, sendMctp o s = { s with out := s.out ++ announced s ++ [o] }) ∧
  (∀ s, s.trust.i3cAddr = none → announced s = []) ∧
  (∀ a s, s.trust.i3cAddr = some a → announced s = [.inBandInterrupt a 0xAE])

/-- R458, R464, R481, R482, R492: the commands of I3C, JTAG, the setup lock, the watchdog and the management controller's restart complete. -/
def Obligations.ManagementPinsComplete : Prop :=
  (∀ s, i3cAnswers s = true →
    Completes .i3cTargetReset s fun t =>
      t = { s with trust := t.trust } ∧
        (∀ m < 16, (mailbox s m).mctp = true → (mailbox s m).state = .posted → (mailbox t m).state = .empty) ∧
        ∀ m, (mailbox s m).mctp = false → mailbox t m = mailbox s m) ∧
  (∀ a s, i3cAnswers s = true → s.trust.i3cAddr = none →
    Completes (.setdasa ⟨0x2A, a⟩) s fun t => t = { s with trust := { s.trust with i3cAddr := some a } }) ∧
  (∀ static a s, static ≠ 0x2A → Completes (.setdasa ⟨static, a⟩) s fun t => t = s) ∧
  (∀ a s, i3cAnswers s = true → s.trust.i3cAddr = none →
    Completes (.entdaa a) s fun t => t = { s with trust := { s.trust with i3cAddr := some a } }) ∧
  (∀ static a b s, s.trust.i3cAddr = some b → Completes (.setdasa ⟨static, a⟩) s (fun t => t = s) ∧ Completes (.entdaa a) s (fun t => t = s)) ∧
  (∀ s, inService s = true → Completes .bypass s fun t => t = { s with jtag := { s.jtag with ir := .bypass } }) ∧
  (∀ a b s, inService s = true →
    Completes (.samplePreload a b) s fun t =>
      t = { s with jtag := { ir := .sample, preload := a, later := b }, out := s.out ++ [.tdo (boundaryCapture s)] }) ∧
  (∀ s, s.ms.mode = .kindling → s.trust.lock = false → s.jtag.later = [] →
    Completes .extest s fun t => t = { s with jtag := { s.jtag with ir := .extest } }) ∧
  (∀ s, s.ms.mode = .kindling → s.trust.lock = false → s.jtag.later ≠ [] →
    Completes .extest s fun t =>
      t = { s with jtag := { ir := .extest, preload := s.jtag.later.take 30, later := s.jtag.later.drop 30 },
                   out := s.out ++ [.tdo (boundaryCapture { s with jtag := { s.jtag with ir := .extest } })] }) ∧
  (∀ s, inService s = true → s.ms.mode ≠ .kindling ∨ s.trust.lock = true →
    Completes .extest s fun t => t = { s with jtag := { s.jtag with ir := .bypass } }) ∧
  (∀ s, inService s = true →
    Completes .idcode s fun t =>
      t = { s with jtag := { s.jtag with ir := .idcode },
                   out := s.out ++ [.tdo ((List.range 32).map (bitOf (if s.hw.iodGen.toNat = 1 then 0x1A7244B5 else 0x2A7244B5)))] }) ∧
  (∀ s, inService s = true → Completes .tapReset s fun t => t = { s with jtag := .reset }) ∧
  (∀ (v : Word) s, inService s = true →
    let s1 := writeLogged 0x160000 v.toNat s
    v.getLsbD 0 = true → s1.trust.lock = false →
    Completes (.secSetupLockWrite v) s fun t =>
      t = { s1 with trust := t.trust } ∧ t.trust.lock = true ∧
        measOf t 5 = sha384 (measOf s1 5 ++ sha384 (leBytes 4 s1.trust.mask.toNat)) ∧ (∀ i, i ≠ 5 → measOf t i = measOf s1 i) ∧
        t.trust.mask = s1.trust.mask) ∧
  (∀ (v : Word) s, inService s = true →
    let s1 := writeLogged 0x160000 v.toNat s
    v.getLsbD 0 = false ∨ s1.trust.lock = true → Completes (.secSetupLockWrite v) s fun t => t = s1) ∧
  (∀ s, s.wdog.en = true → s.trust.restarting = false →
    Completes .watchdogRestart s fun t => t = { s with wdog := { s.wdog with restart := s.clk } }) ∧
  (∀ s, s.wdog.en = true → s.trust.restarting = false → s.wdog.restart + 1000000 * s.wdog.timeoutMs.toNat < s.clk → s.ms.mode = .full →
    Completes .watchdogExpiry s fun t =>
      t.ms.mode = .fenced ∧ t.ms.cause = 12 ∧ t.trust.restarting = true ∧ t.mem = s.mem ∧
        (∀ m < 16, (mailbox s m).mctp = false → (mailbox s m).state = .posted → (mailbox t m).state = .replied ∧ (mailbox t m).aborted = true)) ∧
  (∀ s, s.wdog.en = true → s.trust.restarting = false → s.wdog.restart + 1000000 * s.wdog.timeoutMs.toNat < s.clk → s.ms.mode = .kindling →
    Completes .watchdogExpiry s fun t => t.ms = s.ms ∧ t.trust.restarting = true) ∧
  (∀ s, s.trust.restarting = true → s.ms.mode ≠ .off →
    Completes .managementRestartDone s fun t =>
      t = { s with trust := { s.trust with restarting := false, owed := [] }, pins := { s.pins with standbyReady := true },
                   wdog := { s.wdog with restart := s.clk },
                   out := s.out ++ s.trust.owed.flatMap fun r => announced s ++ [.mailboxReply r.1 r.2.1 r.2.2] })

/-- R10, R11, R308, R380, R419, R480, R489, R491, R494, R495: writes of BAR0 complete: those with a claim or a range of their own, those of a register
by its access code, and those that BAR0 does not accept. -/
def Obligations.RegisterWritesComplete : Prop :=
  (∀ (v : Word) s, inService s = true →
    let s1 := writeLogged 0x71000 v.toNat s
    let p := { s1.pins with oe0 := v.getLsbD 0, oe1 := v.getLsbD 1, out0 := v.getLsbD 2, out1 := v.getLsbD 3, ftpOut := v.getLsbD 7 }
    (v.getLsbD 6 = false → Completes (.iodGpioWrite v) s fun t => t = { s1 with pins := { p with ftpOe := false } }) ∧
    (v.getLsbD 6 = true → s1.ft.outEn = false → Completes (.iodGpioWrite v) s fun t => t = { s1 with pins := { p with ftpOe := true } }) ∧
    (v.getLsbD 6 = true → s1.pins.ftpOe = false → s1.ft.outEn = true →
      Completes (.iodGpioWrite v) s fun t => t = claimEvent 0 0 2 1 { s1 with pins := p })) ∧
  (∀ (v : Word) s, inService s = true →
    let s1 := writeLogged 0x30 v.toNat s
    let w := { s1.wdog with timeoutMs := BitVec.ofNat 8 (max 10 (bitsOf v.toNat 8 8)) }
    (v.getLsbD 0 = false → Completes (.iodWdogWrite v) s fun t => t = { s1 with wdog := { w with en := false } }) ∧
    (v.getLsbD 0 = true → s1.wdog.en = true → Completes (.iodWdogWrite v) s fun t => t = { s1 with wdog := w }) ∧
    (v.getLsbD 0 = true → s1.wdog.en = false → s1.pwr.seqEn = false →
      Completes (.iodWdogWrite v) s fun t => t = { s1 with wdog := { w with en := true, restart := s1.clk } }) ∧
    (v.getLsbD 0 = true → s1.wdog.en = false → s1.pwr.seqEn = true →
      Completes (.iodWdogWrite v) s fun t =>
        t.wdog = { w with en := true, restart := s1.clk } ∧ t.pwr.seqEn = false ∧ t.claims.conflict = true ∧
          (s1.claims.valid = false → t.claims.resource = 1 ∧ t.claims.kind = 1 ∧ t.claims.claimant = 2 ∧ t.claims.holder = 1) ∧
          ∀ n < 4, (pwrDie s1 n).walking = true → (pwrDie s1 n).stepped = false → (pwrDie t n).walking = false)) ∧
  (∀ (v : Word) s, inService s = true →
    let s1 := writeLogged 0x130800 v.toNat s
    let b := bitsOf v.toNat 0 20
    (s1.ms.mode ≠ .kindling ∨ 393216 < 16384 + reserveSum s1 + b → Completes (.poolResvWrite v) s fun t => t = s1) ∧
    (s1.ms.mode = .kindling → 16384 + reserveSum s1 + b ≤ 393216 → v.getLsbD 20 = false → v.getLsbD 21 = false →
      Completes (.poolResvWrite v) s fun t =>
        t = { s1 with link := { s1.link with pool := { s1.link.pool with blocks := BitVec.ofNat 20 b, linksEn := false, emberEn := false } } }) ∧
    (s1.ms.mode = .kindling → 16384 + reserveSum s1 + b ≤ 393216 → v.getLsbD 20 = true → v.getLsbD 21 = false → s1.link.pool.linksEn = false →
      Completes (.poolResvWrite v) s fun t =>
        t = { s1 with link := { s1.link with pool := { s1.link.pool with blocks := BitVec.ofNat 20 b, linksEn := true, emberEn := false } } }) ∧
    (s1.ms.mode = .kindling → 16384 + reserveSum s1 + b ≤ 393216 → v.getLsbD 20 = true → v.getLsbD 21 = true → s1.link.pool.emberEn = true →
      s1.link.pool.linksEn = false →
      Completes (.poolResvWrite v) s fun t =>
        t = claimEvent 3 0 2 1 { s1 with link := { s1.link with pool := { s1.link.pool with blocks := BitVec.ofNat 20 b } } })) ∧
  (∀ w off size s, inService s = true → bar0Access off size = false →
    Completes (.bar0UnsupportedAccess w off size) s fun t => t = { s with out := s.out ++ [.pcieUnsupported] }) ∧
  (∀ off size v s, inService s = false ∨ bar0Access off size = false → Completes (.registerWrite off size v) s fun t => t = s) ∧
  (∀ off v r s, inService s = true → bar0Access off 4 = true → regAt s off = some r → r.wide = false →
    Completes (.registerWrite off 4 v) s fun t => t = r.write ((v.setWidth 32).setWidth 64) (writeLogged off (v.toNat % 2 ^ 32) s)) ∧
  (∀ off v r s, inService s = true → bar0Access off 8 = true → regAt s off = some r → r.wide = true →
    Completes (.registerWrite off 8 v) s fun t => t = r.write v (writeLogged off v.toNat s)) ∧
  (∀ off v s, inService s = true → bar0Access off 4 = true → regAt s off = none → upperOf s off = none →
    Completes (.registerWrite off 4 v) s fun t => t = writeLogged off (v.toNat % 2 ^ 32) s) ∧
  (∀ off v n s, inService s = true → bar0Access off 4 = true → regAt s off = some (ro n) →
    Completes (.registerWrite off 4 v) s fun t => t = writeLogged off (v.toNat % 2 ^ 32) s) ∧
  (∀ v s, inService s = true →
    let s1 := writeLogged 0x150000 (v.toNat % 2 ^ 32) s
    let watts := if s1.hw.variant = .m4 then min 3600 (max 1800 (v.toNat % 2 ^ 13)) else min 1900 (max 950 (v.toNat % 2 ^ 13))
    Completes (.registerWrite 0x150000 4 v) s fun t => t = { s1 with pwr := { s1.pwr with cap := BitVec.ofNat 13 watts } })
end

