-- ==== Sys2Proof/Laws/Tab.lean ====
section
/-! SUPPORT. What a write to a table does: the key reads the new value, every other key reads as before, and the
canonical form is kept. -/

namespace Sys2Proof

variable {α : Type} {d v : α} {k j : Nat}

theorem Tab.get_erase_same (t : Tab α) : (t.erase k).get d k = d := by
  induction t with
  | nil => rfl
  | cons p t ih => obtain ⟨k', w⟩ := p; by_cases h : k' = k <;> simp [Tab.erase, Tab.get, h, ih]

theorem Tab.get_erase_other (t : Tab α) (h : j ≠ k) : (t.erase k).get d j = t.get d j := by
  induction t with
  | nil => rfl
  | cons p t ih =>
    obtain ⟨k', w⟩ := p
    by_cases h1 : k' = k
    · have : ¬ k' = j := fun e => h (e.symm.trans h1)
      simp [Tab.erase, Tab.get, h1, ih, h.symm]
    · simp [Tab.erase, Tab.get, h1, ih]

theorem Tab.get_insert_other (t : Tab α) (h : j ≠ k) : (t.insert k v).get d j = t.get d j := by
  induction t with
  | nil => simp [Tab.insert, Tab.get, h.symm]
  | cons p t ih =>
    obtain ⟨k', w⟩ := p
    by_cases h1 : k < k'
    · simp [Tab.insert, Tab.get, h1, h.symm]
    · simp [Tab.insert, Tab.get, h1, ih]

theorem Tab.get_insert_same (t : Tab α) (h : ∀ p ∈ t, p.1 ≠ k) : (t.insert k v).get d k = v := by
  induction t with
  | nil => simp [Tab.insert, Tab.get]
  | cons p t ih =>
    obtain ⟨k', w⟩ := p
    have hk : k' ≠ k := h (k', w) (by simp)
    have ht : ∀ p ∈ t, p.1 ≠ k := fun p hp => h p (by simp [hp])
    by_cases h1 : k < k'
    · simp [Tab.insert, Tab.get, h1]
    · simp [Tab.insert, Tab.get, h1, hk, ih ht]

theorem Tab.mem_erase_ne (t : Tab α) : ∀ p ∈ t.erase k, p.1 ≠ k := by
  induction t with
  | nil => simp [Tab.erase]
  | cons p t ih =>
    obtain ⟨k', w⟩ := p
    by_cases h1 : k' = k
    · simpa [Tab.erase, h1] using ih
    · intro q hq
      simp only [Tab.erase, h1, if_false, List.mem_cons] at hq
      rcases hq with rfl | hq
      · exact h1
      · exact ih q hq

theorem Tab.mem_erase_mem (t : Tab α) : ∀ p ∈ t.erase k, p ∈ t := by
  induction t with
  | nil => simp [Tab.erase]
  | cons p t ih =>
    intro q hq
    by_cases h1 : p.1 = k
    · simp only [Tab.erase, h1, if_true] at hq
      exact List.mem_cons_of_mem _ (ih q hq)
    · simp only [Tab.erase, h1, if_false, List.mem_cons] at hq
      rcases hq with rfl | hq
      · simp
      · exact List.mem_cons_of_mem _ (ih q hq)

theorem Tab.mem_insert (t : Tab α) : ∀ p ∈ t.insert k v, p = (k, v) ∨ p ∈ t := by
  induction t with
  | nil => intro p hp; simpa [Tab.insert] using hp
  | cons q t ih =>
    intro p hp
    by_cases h1 : k < q.1
    · simp only [Tab.insert, h1, if_true, List.mem_cons] at hp ⊢
      tauto
    · simp only [Tab.insert, h1, if_false, List.mem_cons] at hp ⊢
      rcases hp with rfl | hp
      · simp
      · rcases ih p hp with h | h <;> simp [h]

variable [DecidableEq α]

/-- A read after a write of the same key gives the value written. -/
@[simp] theorem Tab.get_put_same (t : Tab α) : (t.put d k v).get d k = v := by
  unfold Tab.put
  split
  · next h => rw [Tab.get_erase_same, h]
  · exact Tab.get_insert_same _ (Tab.mem_erase_ne t)

/-- A write leaves every other key alone. -/
theorem Tab.get_put_other (t : Tab α) (h : j ≠ k) : (t.put d k v).get d j = t.get d j := by
  unfold Tab.put
  split
  · exact Tab.get_erase_other t h
  · rw [Tab.get_insert_other _ h, Tab.get_erase_other t h]

theorem Tab.get_put (t : Tab α) : (t.put d k v).get d j = if j = k then v else t.get d j := by
  split
  · next h => rw [h, Tab.get_put_same]
  · next h => exact Tab.get_put_other t h

theorem Tab.wf_erase (t : Tab α) (h : Tab.wf d t = true) : Tab.wf d (t.erase k) = true := by
  induction t with
  | nil => rfl
  | cons p t ih =>
    obtain ⟨k', w⟩ := p
    simp only [Tab.wf, Bool.and_eq_true, decide_eq_true_eq, List.all_eq_true] at h
    by_cases h1 : k' = k
    · simp only [Tab.erase, h1, if_true]; exact ih h.2
    · simp only [Tab.erase, h1, if_false, Tab.wf, Bool.and_eq_true, decide_eq_true_eq, List.all_eq_true]
      exact ⟨⟨h.1.1, fun q hq => h.1.2 q (Tab.mem_erase_mem t q hq)⟩, ih h.2⟩

theorem Tab.wf_insert (t : Tab α) (hv : v ≠ d) (hk : ∀ p ∈ t, p.1 ≠ k) (h : Tab.wf d t = true) :
    Tab.wf d (t.insert k v) = true := by
  induction t with
  | nil => simp [Tab.insert, Tab.wf, hv]
  | cons q t ih =>
    obtain ⟨k', w⟩ := q
    have hk' : k' ≠ k := hk (k', w) (by simp)
    simp only [Tab.wf, Bool.and_eq_true, decide_eq_true_eq, List.all_eq_true] at h
    by_cases h1 : k < k'
    · rw [Tab.insert, if_pos h1]
      simp only [Tab.wf, Bool.and_eq_true, decide_eq_true_eq, List.all_eq_true, List.mem_cons, forall_eq_or_imp]
      exact ⟨⟨hv, h1, fun q hq => lt_trans h1 (h.1.2 q hq)⟩, ⟨h.1.1, h.1.2⟩, h.2⟩
    · simp only [Tab.insert, h1, if_false, Tab.wf, Bool.and_eq_true, decide_eq_true_eq, List.all_eq_true]
      refine ⟨⟨h.1.1, fun q hq => ?_⟩, ih (fun p hp => hk p (by simp [hp])) h.2⟩
      rcases Tab.mem_insert t q hq with rfl | hq
      · exact lt_of_le_of_ne (not_lt.mp h1) hk'
      · exact h.1.2 q hq

/-- A write keeps the canonical form. -/
theorem Tab.wf_put (t : Tab α) (h : Tab.wf d t = true) : Tab.wf d (t.put d k v) = true := by
  unfold Tab.put
  split
  · exact Tab.wf_erase t h
  · next hv => exact Tab.wf_insert _ hv (Tab.mem_erase_ne t) (Tab.wf_erase t h)

end Sys2Proof
end

