-- ==== Sys2Proof/Laws/State.lean ====
section
/-! SUPPORT. What each named update of State leaves as it was, one lemma for each field; what a read gives after a write of the
same kind; and that states with equal fields are equal. -/

namespace Sys2Proof.Machine

/-- States whose fields are equal are equal. -/
theorem State.eq_of_fields {s t : State}
    (h0 : s.hw = t.hw) (h1 : s.ms = t.ms) (h2 : s.pins = t.pins) (h3 : s.clk = t.clk) (h4 : s.host = t.host) (h5 : s.ft = t.ft)
    (h6 : s.wdog = t.wdog) (h7 : s.claims = t.claims) (h8 : s.pwr = t.pwr) (h9 : s.steer = t.steer) (h10 : s.link = t.link)
    (h11 : s.adm = t.adm) (h12 : s.ember = t.ember) (h13 : s.yoke = t.yoke) (h14 : s.lg = t.lg) (h15 : s.mem = t.mem)
    (h16 : s.cores = t.cores) (h17 : s.he = t.he) (h18 : s.sync = t.sync) (h19 : s.guard = t.guard) (h20 : s.lag = t.lag)
    (h21 : s.streams = t.streams) (h22 : s.coll = t.coll) (h23 : s.duest = t.duest) (h24 : s.bringup = t.bringup) (h25 : s.bist = t.bist)
    (h26 : s.trust = t.trust) (h27 : s.jtag = t.jtag) (h28 : s.descs = t.descs) (h29 : s.out = t.out) (h30 : s.freeCtr = t.freeCtr)
    (h31 : s.pending = t.pending) : s = t := by
  cases s; cases t; simp_all

/-! ### `awaitAck` -/

@[simp] theorem awaitAck_hw (a1) (s : State) : (awaitAck a1 s).hw = s.hw := rfl
@[simp] theorem awaitAck_ms (a1) (s : State) : (awaitAck a1 s).ms = s.ms := rfl
@[simp] theorem awaitAck_pins (a1) (s : State) : (awaitAck a1 s).pins = s.pins := rfl
@[simp] theorem awaitAck_clk (a1) (s : State) : (awaitAck a1 s).clk = s.clk := rfl
@[simp] theorem awaitAck_host (a1) (s : State) : (awaitAck a1 s).host = s.host := rfl
@[simp] theorem awaitAck_ft (a1) (s : State) : (awaitAck a1 s).ft = s.ft := rfl
@[simp] theorem awaitAck_wdog (a1) (s : State) : (awaitAck a1 s).wdog = s.wdog := rfl
@[simp] theorem awaitAck_claims (a1) (s : State) : (awaitAck a1 s).claims = s.claims := rfl
@[simp] theorem awaitAck_pwr (a1) (s : State) : (awaitAck a1 s).pwr = s.pwr := rfl
@[simp] theorem awaitAck_steer (a1) (s : State) : (awaitAck a1 s).steer = s.steer := rfl
@[simp] theorem awaitAck_link (a1) (s : State) : (awaitAck a1 s).link = s.link := rfl
@[simp] theorem awaitAck_adm (a1) (s : State) : (awaitAck a1 s).adm = s.adm := rfl
@[simp] theorem awaitAck_ember (a1) (s : State) : (awaitAck a1 s).ember = s.ember := rfl
@[simp] theorem awaitAck_lg (a1) (s : State) : (awaitAck a1 s).lg = s.lg := rfl
@[simp] theorem awaitAck_mem (a1) (s : State) : (awaitAck a1 s).mem = s.mem := rfl
@[simp] theorem awaitAck_cores (a1) (s : State) : (awaitAck a1 s).cores = s.cores := rfl
@[simp] theorem awaitAck_he (a1) (s : State) : (awaitAck a1 s).he = s.he := rfl
@[simp] theorem awaitAck_sync (a1) (s : State) : (awaitAck a1 s).sync = s.sync := rfl
@[simp] theorem awaitAck_guard (a1) (s : State) : (awaitAck a1 s).guard = s.guard := rfl
@[simp] theorem awaitAck_lag (a1) (s : State) : (awaitAck a1 s).lag = s.lag := rfl
@[simp] theorem awaitAck_streams (a1) (s : State) : (awaitAck a1 s).streams = s.streams := rfl
@[simp] theorem awaitAck_coll (a1) (s : State) : (awaitAck a1 s).coll = s.coll := rfl
@[simp] theorem awaitAck_duest (a1) (s : State) : (awaitAck a1 s).duest = s.duest := rfl
@[simp] theorem awaitAck_bringup (a1) (s : State) : (awaitAck a1 s).bringup = s.bringup := rfl
@[simp] theorem awaitAck_bist (a1) (s : State) : (awaitAck a1 s).bist = s.bist := rfl
@[simp] theorem awaitAck_trust (a1) (s : State) : (awaitAck a1 s).trust = s.trust := rfl
@[simp] theorem awaitAck_jtag (a1) (s : State) : (awaitAck a1 s).jtag = s.jtag := rfl
@[simp] theorem awaitAck_descs (a1) (s : State) : (awaitAck a1 s).descs = s.descs := rfl
@[simp] theorem awaitAck_out (a1) (s : State) : (awaitAck a1 s).out = s.out := rfl
@[simp] theorem awaitAck_freeCtr (a1) (s : State) : (awaitAck a1 s).freeCtr = s.freeCtr := rfl
@[simp] theorem awaitAck_pending (a1) (s : State) : (awaitAck a1 s).pending = s.pending := rfl

/-! ### `dropDesc` -/

@[simp] theorem dropDesc_hw (a1) (s : State) : (dropDesc a1 s).hw = s.hw := rfl
@[simp] theorem dropDesc_ms (a1) (s : State) : (dropDesc a1 s).ms = s.ms := rfl
@[simp] theorem dropDesc_pins (a1) (s : State) : (dropDesc a1 s).pins = s.pins := rfl
@[simp] theorem dropDesc_clk (a1) (s : State) : (dropDesc a1 s).clk = s.clk := rfl
@[simp] theorem dropDesc_host (a1) (s : State) : (dropDesc a1 s).host = s.host := rfl
@[simp] theorem dropDesc_ft (a1) (s : State) : (dropDesc a1 s).ft = s.ft := rfl
@[simp] theorem dropDesc_wdog (a1) (s : State) : (dropDesc a1 s).wdog = s.wdog := rfl
@[simp] theorem dropDesc_claims (a1) (s : State) : (dropDesc a1 s).claims = s.claims := rfl
@[simp] theorem dropDesc_pwr (a1) (s : State) : (dropDesc a1 s).pwr = s.pwr := rfl
@[simp] theorem dropDesc_steer (a1) (s : State) : (dropDesc a1 s).steer = s.steer := rfl
@[simp] theorem dropDesc_link (a1) (s : State) : (dropDesc a1 s).link = s.link := rfl
@[simp] theorem dropDesc_adm (a1) (s : State) : (dropDesc a1 s).adm = s.adm := rfl
@[simp] theorem dropDesc_ember (a1) (s : State) : (dropDesc a1 s).ember = s.ember := rfl
@[simp] theorem dropDesc_yoke (a1) (s : State) : (dropDesc a1 s).yoke = s.yoke := rfl
@[simp] theorem dropDesc_lg (a1) (s : State) : (dropDesc a1 s).lg = s.lg := rfl
@[simp] theorem dropDesc_mem (a1) (s : State) : (dropDesc a1 s).mem = s.mem := rfl
@[simp] theorem dropDesc_cores (a1) (s : State) : (dropDesc a1 s).cores = s.cores := rfl
@[simp] theorem dropDesc_he (a1) (s : State) : (dropDesc a1 s).he = s.he := rfl
@[simp] theorem dropDesc_sync (a1) (s : State) : (dropDesc a1 s).sync = s.sync := rfl
@[simp] theorem dropDesc_guard (a1) (s : State) : (dropDesc a1 s).guard = s.guard := rfl
@[simp] theorem dropDesc_lag (a1) (s : State) : (dropDesc a1 s).lag = s.lag := rfl
@[simp] theorem dropDesc_streams (a1) (s : State) : (dropDesc a1 s).streams = s.streams := rfl
@[simp] theorem dropDesc_coll (a1) (s : State) : (dropDesc a1 s).coll = s.coll := rfl
@[simp] theorem dropDesc_duest (a1) (s : State) : (dropDesc a1 s).duest = s.duest := rfl
@[simp] theorem dropDesc_bringup (a1) (s : State) : (dropDesc a1 s).bringup = s.bringup := rfl
@[simp] theorem dropDesc_bist (a1) (s : State) : (dropDesc a1 s).bist = s.bist := rfl
@[simp] theorem dropDesc_trust (a1) (s : State) : (dropDesc a1 s).trust = s.trust := rfl
@[simp] theorem dropDesc_jtag (a1) (s : State) : (dropDesc a1 s).jtag = s.jtag := rfl
@[simp] theorem dropDesc_out (a1) (s : State) : (dropDesc a1 s).out = s.out := rfl
@[simp] theorem dropDesc_freeCtr (a1) (s : State) : (dropDesc a1 s).freeCtr = s.freeCtr := rfl
@[simp] theorem dropDesc_pending (a1) (s : State) : (dropDesc a1 s).pending = s.pending := rfl

/-! ### `dropDrains` -/

@[simp] theorem dropDrains_hw (a1 a2) (s : State) : (dropDrains a1 a2 s).hw = s.hw := rfl
@[simp] theorem dropDrains_ms (a1 a2) (s : State) : (dropDrains a1 a2 s).ms = s.ms := rfl
@[simp] theorem dropDrains_pins (a1 a2) (s : State) : (dropDrains a1 a2 s).pins = s.pins := rfl
@[simp] theorem dropDrains_clk (a1 a2) (s : State) : (dropDrains a1 a2 s).clk = s.clk := rfl
@[simp] theorem dropDrains_host (a1 a2) (s : State) : (dropDrains a1 a2 s).host = s.host := rfl
@[simp] theorem dropDrains_ft (a1 a2) (s : State) : (dropDrains a1 a2 s).ft = s.ft := rfl
@[simp] theorem dropDrains_wdog (a1 a2) (s : State) : (dropDrains a1 a2 s).wdog = s.wdog := rfl
@[simp] theorem dropDrains_claims (a1 a2) (s : State) : (dropDrains a1 a2 s).claims = s.claims := rfl
@[simp] theorem dropDrains_pwr (a1 a2) (s : State) : (dropDrains a1 a2 s).pwr = s.pwr := rfl
@[simp] theorem dropDrains_steer (a1 a2) (s : State) : (dropDrains a1 a2 s).steer = s.steer := rfl
@[simp] theorem dropDrains_link (a1 a2) (s : State) : (dropDrains a1 a2 s).link = s.link := rfl
@[simp] theorem dropDrains_adm (a1 a2) (s : State) : (dropDrains a1 a2 s).adm = s.adm := rfl
@[simp] theorem dropDrains_ember (a1 a2) (s : State) : (dropDrains a1 a2 s).ember = s.ember := rfl
@[simp] theorem dropDrains_yoke (a1 a2) (s : State) : (dropDrains a1 a2 s).yoke = s.yoke := rfl
@[simp] theorem dropDrains_lg (a1 a2) (s : State) : (dropDrains a1 a2 s).lg = s.lg := rfl
@[simp] theorem dropDrains_mem (a1 a2) (s : State) : (dropDrains a1 a2 s).mem = s.mem := rfl
@[simp] theorem dropDrains_cores (a1 a2) (s : State) : (dropDrains a1 a2 s).cores = s.cores := rfl
@[simp] theorem dropDrains_he (a1 a2) (s : State) : (dropDrains a1 a2 s).he = s.he := rfl
@[simp] theorem dropDrains_sync (a1 a2) (s : State) : (dropDrains a1 a2 s).sync = s.sync := rfl
@[simp] theorem dropDrains_guard (a1 a2) (s : State) : (dropDrains a1 a2 s).guard = s.guard := rfl
@[simp] theorem dropDrains_lag (a1 a2) (s : State) : (dropDrains a1 a2 s).lag = s.lag := rfl
@[simp] theorem dropDrains_coll (a1 a2) (s : State) : (dropDrains a1 a2 s).coll = s.coll := rfl
@[simp] theorem dropDrains_duest (a1 a2) (s : State) : (dropDrains a1 a2 s).duest = s.duest := rfl
@[simp] theorem dropDrains_bringup (a1 a2) (s : State) : (dropDrains a1 a2 s).bringup = s.bringup := rfl
@[simp] theorem dropDrains_bist (a1 a2) (s : State) : (dropDrains a1 a2 s).bist = s.bist := rfl
@[simp] theorem dropDrains_trust (a1 a2) (s : State) : (dropDrains a1 a2 s).trust = s.trust := rfl
@[simp] theorem dropDrains_jtag (a1 a2) (s : State) : (dropDrains a1 a2 s).jtag = s.jtag := rfl
@[simp] theorem dropDrains_descs (a1 a2) (s : State) : (dropDrains a1 a2 s).descs = s.descs := rfl
@[simp] theorem dropDrains_out (a1 a2) (s : State) : (dropDrains a1 a2 s).out = s.out := rfl
@[simp] theorem dropDrains_freeCtr (a1 a2) (s : State) : (dropDrains a1 a2 s).freeCtr = s.freeCtr := rfl
@[simp] theorem dropDrains_pending (a1 a2) (s : State) : (dropDrains a1 a2 s).pending = s.pending := rfl

/-! ### `emit` -/

@[simp] theorem emit_hw (a1) (s : State) : (emit a1 s).hw = s.hw := rfl
@[simp] theorem emit_ms (a1) (s : State) : (emit a1 s).ms = s.ms := rfl
@[simp] theorem emit_pins (a1) (s : State) : (emit a1 s).pins = s.pins := rfl
@[simp] theorem emit_clk (a1) (s : State) : (emit a1 s).clk = s.clk := rfl
@[simp] theorem emit_host (a1) (s : State) : (emit a1 s).host = s.host := rfl
@[simp] theorem emit_ft (a1) (s : State) : (emit a1 s).ft = s.ft := rfl
@[simp] theorem emit_wdog (a1) (s : State) : (emit a1 s).wdog = s.wdog := rfl
@[simp] theorem emit_claims (a1) (s : State) : (emit a1 s).claims = s.claims := rfl
@[simp] theorem emit_pwr (a1) (s : State) : (emit a1 s).pwr = s.pwr := rfl
@[simp] theorem emit_steer (a1) (s : State) : (emit a1 s).steer = s.steer := rfl
@[simp] theorem emit_link (a1) (s : State) : (emit a1 s).link = s.link := rfl
@[simp] theorem emit_adm (a1) (s : State) : (emit a1 s).adm = s.adm := rfl
@[simp] theorem emit_ember (a1) (s : State) : (emit a1 s).ember = s.ember := rfl
@[simp] theorem emit_yoke (a1) (s : State) : (emit a1 s).yoke = s.yoke := rfl
@[simp] theorem emit_lg (a1) (s : State) : (emit a1 s).lg = s.lg := rfl
@[simp] theorem emit_mem (a1) (s : State) : (emit a1 s).mem = s.mem := rfl
@[simp] theorem emit_cores (a1) (s : State) : (emit a1 s).cores = s.cores := rfl
@[simp] theorem emit_he (a1) (s : State) : (emit a1 s).he = s.he := rfl
@[simp] theorem emit_sync (a1) (s : State) : (emit a1 s).sync = s.sync := rfl
@[simp] theorem emit_guard (a1) (s : State) : (emit a1 s).guard = s.guard := rfl
@[simp] theorem emit_lag (a1) (s : State) : (emit a1 s).lag = s.lag := rfl
@[simp] theorem emit_streams (a1) (s : State) : (emit a1 s).streams = s.streams := rfl
@[simp] theorem emit_coll (a1) (s : State) : (emit a1 s).coll = s.coll := rfl
@[simp] theorem emit_duest (a1) (s : State) : (emit a1 s).duest = s.duest := rfl
@[simp] theorem emit_bringup (a1) (s : State) : (emit a1 s).bringup = s.bringup := rfl
@[simp] theorem emit_bist (a1) (s : State) : (emit a1 s).bist = s.bist := rfl
@[simp] theorem emit_trust (a1) (s : State) : (emit a1 s).trust = s.trust := rfl
@[simp] theorem emit_jtag (a1) (s : State) : (emit a1 s).jtag = s.jtag := rfl
@[simp] theorem emit_descs (a1) (s : State) : (emit a1 s).descs = s.descs := rfl
@[simp] theorem emit_freeCtr (a1) (s : State) : (emit a1 s).freeCtr = s.freeCtr := rfl
@[simp] theorem emit_pending (a1) (s : State) : (emit a1 s).pending = s.pending := rfl

/-! ### `holdEarly` -/

@[simp] theorem holdEarly_hw (a1) (s : State) : (holdEarly a1 s).hw = s.hw := rfl
@[simp] theorem holdEarly_ms (a1) (s : State) : (holdEarly a1 s).ms = s.ms := rfl
@[simp] theorem holdEarly_pins (a1) (s : State) : (holdEarly a1 s).pins = s.pins := rfl
@[simp] theorem holdEarly_clk (a1) (s : State) : (holdEarly a1 s).clk = s.clk := rfl
@[simp] theorem holdEarly_host (a1) (s : State) : (holdEarly a1 s).host = s.host := rfl
@[simp] theorem holdEarly_ft (a1) (s : State) : (holdEarly a1 s).ft = s.ft := rfl
@[simp] theorem holdEarly_wdog (a1) (s : State) : (holdEarly a1 s).wdog = s.wdog := rfl
@[simp] theorem holdEarly_claims (a1) (s : State) : (holdEarly a1 s).claims = s.claims := rfl
@[simp] theorem holdEarly_pwr (a1) (s : State) : (holdEarly a1 s).pwr = s.pwr := rfl
@[simp] theorem holdEarly_steer (a1) (s : State) : (holdEarly a1 s).steer = s.steer := rfl
@[simp] theorem holdEarly_link (a1) (s : State) : (holdEarly a1 s).link = s.link := rfl
@[simp] theorem holdEarly_adm (a1) (s : State) : (holdEarly a1 s).adm = s.adm := rfl
@[simp] theorem holdEarly_ember (a1) (s : State) : (holdEarly a1 s).ember = s.ember := rfl
@[simp] theorem holdEarly_yoke (a1) (s : State) : (holdEarly a1 s).yoke = s.yoke := rfl
@[simp] theorem holdEarly_lg (a1) (s : State) : (holdEarly a1 s).lg = s.lg := rfl
@[simp] theorem holdEarly_mem (a1) (s : State) : (holdEarly a1 s).mem = s.mem := rfl
@[simp] theorem holdEarly_cores (a1) (s : State) : (holdEarly a1 s).cores = s.cores := rfl
@[simp] theorem holdEarly_he (a1) (s : State) : (holdEarly a1 s).he = s.he := rfl
@[simp] theorem holdEarly_sync (a1) (s : State) : (holdEarly a1 s).sync = s.sync := rfl
@[simp] theorem holdEarly_guard (a1) (s : State) : (holdEarly a1 s).guard = s.guard := rfl
@[simp] theorem holdEarly_lag (a1) (s : State) : (holdEarly a1 s).lag = s.lag := rfl
@[simp] theorem holdEarly_streams (a1) (s : State) : (holdEarly a1 s).streams = s.streams := rfl
@[simp] theorem holdEarly_duest (a1) (s : State) : (holdEarly a1 s).duest = s.duest := rfl
@[simp] theorem holdEarly_bringup (a1) (s : State) : (holdEarly a1 s).bringup = s.bringup := rfl
@[simp] theorem holdEarly_bist (a1) (s : State) : (holdEarly a1 s).bist = s.bist := rfl
@[simp] theorem holdEarly_trust (a1) (s : State) : (holdEarly a1 s).trust = s.trust := rfl
@[simp] theorem holdEarly_jtag (a1) (s : State) : (holdEarly a1 s).jtag = s.jtag := rfl
@[simp] theorem holdEarly_descs (a1) (s : State) : (holdEarly a1 s).descs = s.descs := rfl
@[simp] theorem holdEarly_out (a1) (s : State) : (holdEarly a1 s).out = s.out := rfl
@[simp] theorem holdEarly_freeCtr (a1) (s : State) : (holdEarly a1 s).freeCtr = s.freeCtr := rfl
@[simp] theorem holdEarly_pending (a1) (s : State) : (holdEarly a1 s).pending = s.pending := rfl

/-! ### `holdRemote` -/

@[simp] theorem holdRemote_hw (a1) (s : State) : (holdRemote a1 s).hw = s.hw := rfl
@[simp] theorem holdRemote_ms (a1) (s : State) : (holdRemote a1 s).ms = s.ms := rfl
@[simp] theorem holdRemote_pins (a1) (s : State) : (holdRemote a1 s).pins = s.pins := rfl
@[simp] theorem holdRemote_clk (a1) (s : State) : (holdRemote a1 s).clk = s.clk := rfl
@[simp] theorem holdRemote_host (a1) (s : State) : (holdRemote a1 s).host = s.host := rfl
@[simp] theorem holdRemote_ft (a1) (s : State) : (holdRemote a1 s).ft = s.ft := rfl
@[simp] theorem holdRemote_wdog (a1) (s : State) : (holdRemote a1 s).wdog = s.wdog := rfl
@[simp] theorem holdRemote_claims (a1) (s : State) : (holdRemote a1 s).claims = s.claims := rfl
@[simp] theorem holdRemote_pwr (a1) (s : State) : (holdRemote a1 s).pwr = s.pwr := rfl
@[simp] theorem holdRemote_steer (a1) (s : State) : (holdRemote a1 s).steer = s.steer := rfl
@[simp] theorem holdRemote_link (a1) (s : State) : (holdRemote a1 s).link = s.link := rfl
@[simp] theorem holdRemote_adm (a1) (s : State) : (holdRemote a1 s).adm = s.adm := rfl
@[simp] theorem holdRemote_ember (a1) (s : State) : (holdRemote a1 s).ember = s.ember := rfl
@[simp] theorem holdRemote_yoke (a1) (s : State) : (holdRemote a1 s).yoke = s.yoke := rfl
@[simp] theorem holdRemote_lg (a1) (s : State) : (holdRemote a1 s).lg = s.lg := rfl
@[simp] theorem holdRemote_mem (a1) (s : State) : (holdRemote a1 s).mem = s.mem := rfl
@[simp] theorem holdRemote_cores (a1) (s : State) : (holdRemote a1 s).cores = s.cores := rfl
@[simp] theorem holdRemote_he (a1) (s : State) : (holdRemote a1 s).he = s.he := rfl
@[simp] theorem holdRemote_sync (a1) (s : State) : (holdRemote a1 s).sync = s.sync := rfl
@[simp] theorem holdRemote_guard (a1) (s : State) : (holdRemote a1 s).guard = s.guard := rfl
@[simp] theorem holdRemote_lag (a1) (s : State) : (holdRemote a1 s).lag = s.lag := rfl
@[simp] theorem holdRemote_streams (a1) (s : State) : (holdRemote a1 s).streams = s.streams := rfl
@[simp] theorem holdRemote_duest (a1) (s : State) : (holdRemote a1 s).duest = s.duest := rfl
@[simp] theorem holdRemote_bringup (a1) (s : State) : (holdRemote a1 s).bringup = s.bringup := rfl
@[simp] theorem holdRemote_bist (a1) (s : State) : (holdRemote a1 s).bist = s.bist := rfl
@[simp] theorem holdRemote_trust (a1) (s : State) : (holdRemote a1 s).trust = s.trust := rfl
@[simp] theorem holdRemote_jtag (a1) (s : State) : (holdRemote a1 s).jtag = s.jtag := rfl
@[simp] theorem holdRemote_descs (a1) (s : State) : (holdRemote a1 s).descs = s.descs := rfl
@[simp] theorem holdRemote_out (a1) (s : State) : (holdRemote a1 s).out = s.out := rfl
@[simp] theorem holdRemote_freeCtr (a1) (s : State) : (holdRemote a1 s).freeCtr = s.freeCtr := rfl
@[simp] theorem holdRemote_pending (a1) (s : State) : (holdRemote a1 s).pending = s.pending := rfl

/-! ### `keepUnwritten` -/

@[simp] theorem keepUnwritten_hw (a1 a2) (s : State) : (keepUnwritten a1 a2 s).hw = s.hw := rfl
@[simp] theorem keepUnwritten_ms (a1 a2) (s : State) : (keepUnwritten a1 a2 s).ms = s.ms := rfl
@[simp] theorem keepUnwritten_pins (a1 a2) (s : State) : (keepUnwritten a1 a2 s).pins = s.pins := rfl
@[simp] theorem keepUnwritten_clk (a1 a2) (s : State) : (keepUnwritten a1 a2 s).clk = s.clk := rfl
@[simp] theorem keepUnwritten_host (a1 a2) (s : State) : (keepUnwritten a1 a2 s).host = s.host := rfl
@[simp] theorem keepUnwritten_ft (a1 a2) (s : State) : (keepUnwritten a1 a2 s).ft = s.ft := rfl
@[simp] theorem keepUnwritten_wdog (a1 a2) (s : State) : (keepUnwritten a1 a2 s).wdog = s.wdog := rfl
@[simp] theorem keepUnwritten_claims (a1 a2) (s : State) : (keepUnwritten a1 a2 s).claims = s.claims := rfl
@[simp] theorem keepUnwritten_pwr (a1 a2) (s : State) : (keepUnwritten a1 a2 s).pwr = s.pwr := rfl
@[simp] theorem keepUnwritten_steer (a1 a2) (s : State) : (keepUnwritten a1 a2 s).steer = s.steer := rfl
@[simp] theorem keepUnwritten_link (a1 a2) (s : State) : (keepUnwritten a1 a2 s).link = s.link := rfl
@[simp] theorem keepUnwritten_adm (a1 a2) (s : State) : (keepUnwritten a1 a2 s).adm = s.adm := rfl
@[simp] theorem keepUnwritten_ember (a1 a2) (s : State) : (keepUnwritten a1 a2 s).ember = s.ember := rfl
@[simp] theorem keepUnwritten_yoke (a1 a2) (s : State) : (keepUnwritten a1 a2 s).yoke = s.yoke := rfl
@[simp] theorem keepUnwritten_lg (a1 a2) (s : State) : (keepUnwritten a1 a2 s).lg = s.lg := rfl
@[simp] theorem keepUnwritten_mem (a1 a2) (s : State) : (keepUnwritten a1 a2 s).mem = s.mem := rfl
@[simp] theorem keepUnwritten_cores (a1 a2) (s : State) : (keepUnwritten a1 a2 s).cores = s.cores := rfl
@[simp] theorem keepUnwritten_he (a1 a2) (s : State) : (keepUnwritten a1 a2 s).he = s.he := rfl
@[simp] theorem keepUnwritten_guard (a1 a2) (s : State) : (keepUnwritten a1 a2 s).guard = s.guard := rfl
@[simp] theorem keepUnwritten_lag (a1 a2) (s : State) : (keepUnwritten a1 a2 s).lag = s.lag := rfl
@[simp] theorem keepUnwritten_streams (a1 a2) (s : State) : (keepUnwritten a1 a2 s).streams = s.streams := rfl
@[simp] theorem keepUnwritten_coll (a1 a2) (s : State) : (keepUnwritten a1 a2 s).coll = s.coll := rfl
@[simp] theorem keepUnwritten_duest (a1 a2) (s : State) : (keepUnwritten a1 a2 s).duest = s.duest := rfl
@[simp] theorem keepUnwritten_bringup (a1 a2) (s : State) : (keepUnwritten a1 a2 s).bringup = s.bringup := rfl
@[simp] theorem keepUnwritten_bist (a1 a2) (s : State) : (keepUnwritten a1 a2 s).bist = s.bist := rfl
@[simp] theorem keepUnwritten_trust (a1 a2) (s : State) : (keepUnwritten a1 a2 s).trust = s.trust := rfl
@[simp] theorem keepUnwritten_jtag (a1 a2) (s : State) : (keepUnwritten a1 a2 s).jtag = s.jtag := rfl
@[simp] theorem keepUnwritten_descs (a1 a2) (s : State) : (keepUnwritten a1 a2 s).descs = s.descs := rfl
@[simp] theorem keepUnwritten_out (a1 a2) (s : State) : (keepUnwritten a1 a2 s).out = s.out := rfl
@[simp] theorem keepUnwritten_freeCtr (a1 a2) (s : State) : (keepUnwritten a1 a2 s).freeCtr = s.freeCtr := rfl
@[simp] theorem keepUnwritten_pending (a1 a2) (s : State) : (keepUnwritten a1 a2 s).pending = s.pending := rfl

/-! ### `markBad` -/

@[simp] theorem markBad_hw (a1 a2) (s : State) : (markBad a1 a2 s).hw = s.hw := rfl
@[simp] theorem markBad_ms (a1 a2) (s : State) : (markBad a1 a2 s).ms = s.ms := rfl
@[simp] theorem markBad_pins (a1 a2) (s : State) : (markBad a1 a2 s).pins = s.pins := rfl
@[simp] theorem markBad_clk (a1 a2) (s : State) : (markBad a1 a2 s).clk = s.clk := rfl
@[simp] theorem markBad_host (a1 a2) (s : State) : (markBad a1 a2 s).host = s.host := rfl
@[simp] theorem markBad_ft (a1 a2) (s : State) : (markBad a1 a2 s).ft = s.ft := rfl
@[simp] theorem markBad_wdog (a1 a2) (s : State) : (markBad a1 a2 s).wdog = s.wdog := rfl
@[simp] theorem markBad_claims (a1 a2) (s : State) : (markBad a1 a2 s).claims = s.claims := rfl
@[simp] theorem markBad_pwr (a1 a2) (s : State) : (markBad a1 a2 s).pwr = s.pwr := rfl
@[simp] theorem markBad_steer (a1 a2) (s : State) : (markBad a1 a2 s).steer = s.steer := rfl
@[simp] theorem markBad_link (a1 a2) (s : State) : (markBad a1 a2 s).link = s.link := rfl
@[simp] theorem markBad_adm (a1 a2) (s : State) : (markBad a1 a2 s).adm = s.adm := rfl
@[simp] theorem markBad_ember (a1 a2) (s : State) : (markBad a1 a2 s).ember = s.ember := rfl
@[simp] theorem markBad_yoke (a1 a2) (s : State) : (markBad a1 a2 s).yoke = s.yoke := rfl
@[simp] theorem markBad_lg (a1 a2) (s : State) : (markBad a1 a2 s).lg = s.lg := rfl
@[simp] theorem markBad_cores (a1 a2) (s : State) : (markBad a1 a2 s).cores = s.cores := rfl
@[simp] theorem markBad_he (a1 a2) (s : State) : (markBad a1 a2 s).he = s.he := rfl
@[simp] theorem markBad_sync (a1 a2) (s : State) : (markBad a1 a2 s).sync = s.sync := rfl
@[simp] theorem markBad_guard (a1 a2) (s : State) : (markBad a1 a2 s).guard = s.guard := rfl
@[simp] theorem markBad_lag (a1 a2) (s : State) : (markBad a1 a2 s).lag = s.lag := rfl
@[simp] theorem markBad_streams (a1 a2) (s : State) : (markBad a1 a2 s).streams = s.streams := rfl
@[simp] theorem markBad_coll (a1 a2) (s : State) : (markBad a1 a2 s).coll = s.coll := rfl
@[simp] theorem markBad_duest (a1 a2) (s : State) : (markBad a1 a2 s).duest = s.duest := rfl
@[simp] theorem markBad_bringup (a1 a2) (s : State) : (markBad a1 a2 s).bringup = s.bringup := rfl
@[simp] theorem markBad_bist (a1 a2) (s : State) : (markBad a1 a2 s).bist = s.bist := rfl
@[simp] theorem markBad_trust (a1 a2) (s : State) : (markBad a1 a2 s).trust = s.trust := rfl
@[simp] theorem markBad_jtag (a1 a2) (s : State) : (markBad a1 a2 s).jtag = s.jtag := rfl
@[simp] theorem markBad_descs (a1 a2) (s : State) : (markBad a1 a2 s).descs = s.descs := rfl
@[simp] theorem markBad_out (a1 a2) (s : State) : (markBad a1 a2 s).out = s.out := rfl
@[simp] theorem markBad_freeCtr (a1 a2) (s : State) : (markBad a1 a2 s).freeCtr = s.freeCtr := rfl
@[simp] theorem markBad_pending (a1 a2) (s : State) : (markBad a1 a2 s).pending = s.pending := rfl

/-! ### `rejectReq` -/

@[simp] theorem rejectReq_hw (s : State) : (rejectReq s).hw = s.hw := rfl
@[simp] theorem rejectReq_pins (s : State) : (rejectReq s).pins = s.pins := rfl
@[simp] theorem rejectReq_clk (s : State) : (rejectReq s).clk = s.clk := rfl
@[simp] theorem rejectReq_host (s : State) : (rejectReq s).host = s.host := rfl
@[simp] theorem rejectReq_ft (s : State) : (rejectReq s).ft = s.ft := rfl
@[simp] theorem rejectReq_wdog (s : State) : (rejectReq s).wdog = s.wdog := rfl
@[simp] theorem rejectReq_claims (s : State) : (rejectReq s).claims = s.claims := rfl
@[simp] theorem rejectReq_pwr (s : State) : (rejectReq s).pwr = s.pwr := rfl
@[simp] theorem rejectReq_steer (s : State) : (rejectReq s).steer = s.steer := rfl
@[simp] theorem rejectReq_link (s : State) : (rejectReq s).link = s.link := rfl
@[simp] theorem rejectReq_adm (s : State) : (rejectReq s).adm = s.adm := rfl
@[simp] theorem rejectReq_ember (s : State) : (rejectReq s).ember = s.ember := rfl
@[simp] theorem rejectReq_yoke (s : State) : (rejectReq s).yoke = s.yoke := rfl
@[simp] theorem rejectReq_lg (s : State) : (rejectReq s).lg = s.lg := rfl
@[simp] theorem rejectReq_mem (s : State) : (rejectReq s).mem = s.mem := rfl
@[simp] theorem rejectReq_cores (s : State) : (rejectReq s).cores = s.cores := rfl
@[simp] theorem rejectReq_he (s : State) : (rejectReq s).he = s.he := rfl
@[simp] theorem rejectReq_sync (s : State) : (rejectReq s).sync = s.sync := rfl
@[simp] theorem rejectReq_guard (s : State) : (rejectReq s).guard = s.guard := rfl
@[simp] theorem rejectReq_lag (s : State) : (rejectReq s).lag = s.lag := rfl
@[simp] theorem rejectReq_streams (s : State) : (rejectReq s).streams = s.streams := rfl
@[simp] theorem rejectReq_coll (s : State) : (rejectReq s).coll = s.coll := rfl
@[simp] theorem rejectReq_duest (s : State) : (rejectReq s).duest = s.duest := rfl
@[simp] theorem rejectReq_bringup (s : State) : (rejectReq s).bringup = s.bringup := rfl
@[simp] theorem rejectReq_bist (s : State) : (rejectReq s).bist = s.bist := rfl
@[simp] theorem rejectReq_trust (s : State) : (rejectReq s).trust = s.trust := rfl
@[simp] theorem rejectReq_jtag (s : State) : (rejectReq s).jtag = s.jtag := rfl
@[simp] theorem rejectReq_descs (s : State) : (rejectReq s).descs = s.descs := rfl
@[simp] theorem rejectReq_out (s : State) : (rejectReq s).out = s.out := rfl
@[simp] theorem rejectReq_freeCtr (s : State) : (rejectReq s).freeCtr = s.freeCtr := rfl
@[simp] theorem rejectReq_pending (s : State) : (rejectReq s).pending = s.pending := rfl

/-! ### `release` -/

@[simp] theorem release_hw (a1) (s : State) : (release a1 s).hw = s.hw := rfl
@[simp] theorem release_ms (a1) (s : State) : (release a1 s).ms = s.ms := rfl
@[simp] theorem release_pins (a1) (s : State) : (release a1 s).pins = s.pins := rfl
@[simp] theorem release_clk (a1) (s : State) : (release a1 s).clk = s.clk := rfl
@[simp] theorem release_host (a1) (s : State) : (release a1 s).host = s.host := rfl
@[simp] theorem release_ft (a1) (s : State) : (release a1 s).ft = s.ft := rfl
@[simp] theorem release_wdog (a1) (s : State) : (release a1 s).wdog = s.wdog := rfl
@[simp] theorem release_claims (a1) (s : State) : (release a1 s).claims = s.claims := rfl
@[simp] theorem release_pwr (a1) (s : State) : (release a1 s).pwr = s.pwr := rfl
@[simp] theorem release_steer (a1) (s : State) : (release a1 s).steer = s.steer := rfl
@[simp] theorem release_adm (a1) (s : State) : (release a1 s).adm = s.adm := rfl
@[simp] theorem release_ember (a1) (s : State) : (release a1 s).ember = s.ember := rfl
@[simp] theorem release_yoke (a1) (s : State) : (release a1 s).yoke = s.yoke := rfl
@[simp] theorem release_lg (a1) (s : State) : (release a1 s).lg = s.lg := rfl
@[simp] theorem release_mem (a1) (s : State) : (release a1 s).mem = s.mem := rfl
@[simp] theorem release_cores (a1) (s : State) : (release a1 s).cores = s.cores := rfl
@[simp] theorem release_he (a1) (s : State) : (release a1 s).he = s.he := rfl
@[simp] theorem release_sync (a1) (s : State) : (release a1 s).sync = s.sync := rfl
@[simp] theorem release_guard (a1) (s : State) : (release a1 s).guard = s.guard := rfl
@[simp] theorem release_lag (a1) (s : State) : (release a1 s).lag = s.lag := rfl
@[simp] theorem release_streams (a1) (s : State) : (release a1 s).streams = s.streams := rfl
@[simp] theorem release_coll (a1) (s : State) : (release a1 s).coll = s.coll := rfl
@[simp] theorem release_duest (a1) (s : State) : (release a1 s).duest = s.duest := rfl
@[simp] theorem release_bringup (a1) (s : State) : (release a1 s).bringup = s.bringup := rfl
@[simp] theorem release_bist (a1) (s : State) : (release a1 s).bist = s.bist := rfl
@[simp] theorem release_trust (a1) (s : State) : (release a1 s).trust = s.trust := rfl
@[simp] theorem release_jtag (a1) (s : State) : (release a1 s).jtag = s.jtag := rfl
@[simp] theorem release_descs (a1) (s : State) : (release a1 s).descs = s.descs := rfl
@[simp] theorem release_out (a1) (s : State) : (release a1 s).out = s.out := rfl
@[simp] theorem release_freeCtr (a1) (s : State) : (release a1 s).freeCtr = s.freeCtr := rfl
@[simp] theorem release_pending (a1) (s : State) : (release a1 s).pending = s.pending := rfl

/-! ### `retain` -/

@[simp] theorem retain_hw (a1) (s : State) : (retain a1 s).hw = s.hw := rfl
@[simp] theorem retain_ms (a1) (s : State) : (retain a1 s).ms = s.ms := rfl
@[simp] theorem retain_pins (a1) (s : State) : (retain a1 s).pins = s.pins := rfl
@[simp] theorem retain_clk (a1) (s : State) : (retain a1 s).clk = s.clk := rfl
@[simp] theorem retain_host (a1) (s : State) : (retain a1 s).host = s.host := rfl
@[simp] theorem retain_ft (a1) (s : State) : (retain a1 s).ft = s.ft := rfl
@[simp] theorem retain_wdog (a1) (s : State) : (retain a1 s).wdog = s.wdog := rfl
@[simp] theorem retain_claims (a1) (s : State) : (retain a1 s).claims = s.claims := rfl
@[simp] theorem retain_pwr (a1) (s : State) : (retain a1 s).pwr = s.pwr := rfl
@[simp] theorem retain_steer (a1) (s : State) : (retain a1 s).steer = s.steer := rfl
@[simp] theorem retain_adm (a1) (s : State) : (retain a1 s).adm = s.adm := rfl
@[simp] theorem retain_ember (a1) (s : State) : (retain a1 s).ember = s.ember := rfl
@[simp] theorem retain_yoke (a1) (s : State) : (retain a1 s).yoke = s.yoke := rfl
@[simp] theorem retain_lg (a1) (s : State) : (retain a1 s).lg = s.lg := rfl
@[simp] theorem retain_mem (a1) (s : State) : (retain a1 s).mem = s.mem := rfl
@[simp] theorem retain_cores (a1) (s : State) : (retain a1 s).cores = s.cores := rfl
@[simp] theorem retain_he (a1) (s : State) : (retain a1 s).he = s.he := rfl
@[simp] theorem retain_sync (a1) (s : State) : (retain a1 s).sync = s.sync := rfl
@[simp] theorem retain_guard (a1) (s : State) : (retain a1 s).guard = s.guard := rfl
@[simp] theorem retain_lag (a1) (s : State) : (retain a1 s).lag = s.lag := rfl
@[simp] theorem retain_streams (a1) (s : State) : (retain a1 s).streams = s.streams := rfl
@[simp] theorem retain_coll (a1) (s : State) : (retain a1 s).coll = s.coll := rfl
@[simp] theorem retain_duest (a1) (s : State) : (retain a1 s).duest = s.duest := rfl
@[simp] theorem retain_bringup (a1) (s : State) : (retain a1 s).bringup = s.bringup := rfl
@[simp] theorem retain_bist (a1) (s : State) : (retain a1 s).bist = s.bist := rfl
@[simp] theorem retain_trust (a1) (s : State) : (retain a1 s).trust = s.trust := rfl
@[simp] theorem retain_jtag (a1) (s : State) : (retain a1 s).jtag = s.jtag := rfl
@[simp] theorem retain_descs (a1) (s : State) : (retain a1 s).descs = s.descs := rfl
@[simp] theorem retain_out (a1) (s : State) : (retain a1 s).out = s.out := rfl
@[simp] theorem retain_freeCtr (a1) (s : State) : (retain a1 s).freeCtr = s.freeCtr := rfl
@[simp] theorem retain_pending (a1) (s : State) : (retain a1 s).pending = s.pending := rfl

/-! ### `sendMctp` -/

@[simp] theorem sendMctp_hw (a1) (s : State) : (sendMctp a1 s).hw = s.hw := rfl
@[simp] theorem sendMctp_ms (a1) (s : State) : (sendMctp a1 s).ms = s.ms := rfl
@[simp] theorem sendMctp_pins (a1) (s : State) : (sendMctp a1 s).pins = s.pins := rfl
@[simp] theorem sendMctp_clk (a1) (s : State) : (sendMctp a1 s).clk = s.clk := rfl
@[simp] theorem sendMctp_host (a1) (s : State) : (sendMctp a1 s).host = s.host := rfl
@[simp] theorem sendMctp_ft (a1) (s : State) : (sendMctp a1 s).ft = s.ft := rfl
@[simp] theorem sendMctp_wdog (a1) (s : State) : (sendMctp a1 s).wdog = s.wdog := rfl
@[simp] theorem sendMctp_claims (a1) (s : State) : (sendMctp a1 s).claims = s.claims := rfl
@[simp] theorem sendMctp_pwr (a1) (s : State) : (sendMctp a1 s).pwr = s.pwr := rfl
@[simp] theorem sendMctp_steer (a1) (s : State) : (sendMctp a1 s).steer = s.steer := rfl
@[simp] theorem sendMctp_link (a1) (s : State) : (sendMctp a1 s).link = s.link := rfl
@[simp] theorem sendMctp_adm (a1) (s : State) : (sendMctp a1 s).adm = s.adm := rfl
@[simp] theorem sendMctp_ember (a1) (s : State) : (sendMctp a1 s).ember = s.ember := rfl
@[simp] theorem sendMctp_yoke (a1) (s : State) : (sendMctp a1 s).yoke = s.yoke := rfl
@[simp] theorem sendMctp_lg (a1) (s : State) : (sendMctp a1 s).lg = s.lg := rfl
@[simp] theorem sendMctp_mem (a1) (s : State) : (sendMctp a1 s).mem = s.mem := rfl
@[simp] theorem sendMctp_cores (a1) (s : State) : (sendMctp a1 s).cores = s.cores := rfl
@[simp] theorem sendMctp_he (a1) (s : State) : (sendMctp a1 s).he = s.he := rfl
@[simp] theorem sendMctp_sync (a1) (s : State) : (sendMctp a1 s).sync = s.sync := rfl
@[simp] theorem sendMctp_guard (a1) (s : State) : (sendMctp a1 s).guard = s.guard := rfl
@[simp] theorem sendMctp_lag (a1) (s : State) : (sendMctp a1 s).lag = s.lag := rfl
@[simp] theorem sendMctp_streams (a1) (s : State) : (sendMctp a1 s).streams = s.streams := rfl
@[simp] theorem sendMctp_coll (a1) (s : State) : (sendMctp a1 s).coll = s.coll := rfl
@[simp] theorem sendMctp_duest (a1) (s : State) : (sendMctp a1 s).duest = s.duest := rfl
@[simp] theorem sendMctp_bringup (a1) (s : State) : (sendMctp a1 s).bringup = s.bringup := rfl
@[simp] theorem sendMctp_bist (a1) (s : State) : (sendMctp a1 s).bist = s.bist := rfl
@[simp] theorem sendMctp_trust (a1) (s : State) : (sendMctp a1 s).trust = s.trust := rfl
@[simp] theorem sendMctp_jtag (a1) (s : State) : (sendMctp a1 s).jtag = s.jtag := rfl
@[simp] theorem sendMctp_descs (a1) (s : State) : (sendMctp a1 s).descs = s.descs := rfl
@[simp] theorem sendMctp_freeCtr (a1) (s : State) : (sendMctp a1 s).freeCtr = s.freeCtr := rfl
@[simp] theorem sendMctp_pending (a1) (s : State) : (sendMctp a1 s).pending = s.pending := rfl

/-! ### `setAdmit` -/

@[simp] theorem setAdmit_hw (a1) (s : State) : (setAdmit a1 s).hw = s.hw := rfl
@[simp] theorem setAdmit_ms (a1) (s : State) : (setAdmit a1 s).ms = s.ms := rfl
@[simp] theorem setAdmit_pins (a1) (s : State) : (setAdmit a1 s).pins = s.pins := rfl
@[simp] theorem setAdmit_clk (a1) (s : State) : (setAdmit a1 s).clk = s.clk := rfl
@[simp] theorem setAdmit_host (a1) (s : State) : (setAdmit a1 s).host = s.host := rfl
@[simp] theorem setAdmit_ft (a1) (s : State) : (setAdmit a1 s).ft = s.ft := rfl
@[simp] theorem setAdmit_wdog (a1) (s : State) : (setAdmit a1 s).wdog = s.wdog := rfl
@[simp] theorem setAdmit_claims (a1) (s : State) : (setAdmit a1 s).claims = s.claims := rfl
@[simp] theorem setAdmit_pwr (a1) (s : State) : (setAdmit a1 s).pwr = s.pwr := rfl
@[simp] theorem setAdmit_steer (a1) (s : State) : (setAdmit a1 s).steer = s.steer := rfl
@[simp] theorem setAdmit_link (a1) (s : State) : (setAdmit a1 s).link = s.link := rfl
@[simp] theorem setAdmit_ember (a1) (s : State) : (setAdmit a1 s).ember = s.ember := rfl
@[simp] theorem setAdmit_yoke (a1) (s : State) : (setAdmit a1 s).yoke = s.yoke := rfl
@[simp] theorem setAdmit_lg (a1) (s : State) : (setAdmit a1 s).lg = s.lg := rfl
@[simp] theorem setAdmit_mem (a1) (s : State) : (setAdmit a1 s).mem = s.mem := rfl
@[simp] theorem setAdmit_cores (a1) (s : State) : (setAdmit a1 s).cores = s.cores := rfl
@[simp] theorem setAdmit_he (a1) (s : State) : (setAdmit a1 s).he = s.he := rfl
@[simp] theorem setAdmit_sync (a1) (s : State) : (setAdmit a1 s).sync = s.sync := rfl
@[simp] theorem setAdmit_guard (a1) (s : State) : (setAdmit a1 s).guard = s.guard := rfl
@[simp] theorem setAdmit_lag (a1) (s : State) : (setAdmit a1 s).lag = s.lag := rfl
@[simp] theorem setAdmit_streams (a1) (s : State) : (setAdmit a1 s).streams = s.streams := rfl
@[simp] theorem setAdmit_coll (a1) (s : State) : (setAdmit a1 s).coll = s.coll := rfl
@[simp] theorem setAdmit_duest (a1) (s : State) : (setAdmit a1 s).duest = s.duest := rfl
@[simp] theorem setAdmit_bringup (a1) (s : State) : (setAdmit a1 s).bringup = s.bringup := rfl
@[simp] theorem setAdmit_bist (a1) (s : State) : (setAdmit a1 s).bist = s.bist := rfl
@[simp] theorem setAdmit_trust (a1) (s : State) : (setAdmit a1 s).trust = s.trust := rfl
@[simp] theorem setAdmit_jtag (a1) (s : State) : (setAdmit a1 s).jtag = s.jtag := rfl
@[simp] theorem setAdmit_descs (a1) (s : State) : (setAdmit a1 s).descs = s.descs := rfl
@[simp] theorem setAdmit_out (a1) (s : State) : (setAdmit a1 s).out = s.out := rfl
@[simp] theorem setAdmit_freeCtr (a1) (s : State) : (setAdmit a1 s).freeCtr = s.freeCtr := rfl
@[simp] theorem setAdmit_pending (a1) (s : State) : (setAdmit a1 s).pending = s.pending := rfl

/-! ### `setBist` -/

@[simp] theorem setBist_hw (a1) (s : State) : (setBist a1 s).hw = s.hw := rfl
@[simp] theorem setBist_ms (a1) (s : State) : (setBist a1 s).ms = s.ms := rfl
@[simp] theorem setBist_pins (a1) (s : State) : (setBist a1 s).pins = s.pins := rfl
@[simp] theorem setBist_clk (a1) (s : State) : (setBist a1 s).clk = s.clk := rfl
@[simp] theorem setBist_host (a1) (s : State) : (setBist a1 s).host = s.host := rfl
@[simp] theorem setBist_ft (a1) (s : State) : (setBist a1 s).ft = s.ft := rfl
@[simp] theorem setBist_wdog (a1) (s : State) : (setBist a1 s).wdog = s.wdog := rfl
@[simp] theorem setBist_claims (a1) (s : State) : (setBist a1 s).claims = s.claims := rfl
@[simp] theorem setBist_pwr (a1) (s : State) : (setBist a1 s).pwr = s.pwr := rfl
@[simp] theorem setBist_steer (a1) (s : State) : (setBist a1 s).steer = s.steer := rfl
@[simp] theorem setBist_link (a1) (s : State) : (setBist a1 s).link = s.link := rfl
@[simp] theorem setBist_adm (a1) (s : State) : (setBist a1 s).adm = s.adm := rfl
@[simp] theorem setBist_ember (a1) (s : State) : (setBist a1 s).ember = s.ember := rfl
@[simp] theorem setBist_yoke (a1) (s : State) : (setBist a1 s).yoke = s.yoke := rfl
@[simp] theorem setBist_lg (a1) (s : State) : (setBist a1 s).lg = s.lg := rfl
@[simp] theorem setBist_mem (a1) (s : State) : (setBist a1 s).mem = s.mem := rfl
@[simp] theorem setBist_cores (a1) (s : State) : (setBist a1 s).cores = s.cores := rfl
@[simp] theorem setBist_he (a1) (s : State) : (setBist a1 s).he = s.he := rfl
@[simp] theorem setBist_sync (a1) (s : State) : (setBist a1 s).sync = s.sync := rfl
@[simp] theorem setBist_guard (a1) (s : State) : (setBist a1 s).guard = s.guard := rfl
@[simp] theorem setBist_lag (a1) (s : State) : (setBist a1 s).lag = s.lag := rfl
@[simp] theorem setBist_streams (a1) (s : State) : (setBist a1 s).streams = s.streams := rfl
@[simp] theorem setBist_coll (a1) (s : State) : (setBist a1 s).coll = s.coll := rfl
@[simp] theorem setBist_duest (a1) (s : State) : (setBist a1 s).duest = s.duest := rfl
@[simp] theorem setBist_bringup (a1) (s : State) : (setBist a1 s).bringup = s.bringup := rfl
@[simp] theorem setBist_trust (a1) (s : State) : (setBist a1 s).trust = s.trust := rfl
@[simp] theorem setBist_jtag (a1) (s : State) : (setBist a1 s).jtag = s.jtag := rfl
@[simp] theorem setBist_descs (a1) (s : State) : (setBist a1 s).descs = s.descs := rfl
@[simp] theorem setBist_out (a1) (s : State) : (setBist a1 s).out = s.out := rfl
@[simp] theorem setBist_freeCtr (a1) (s : State) : (setBist a1 s).freeCtr = s.freeCtr := rfl
@[simp] theorem setBist_pending (a1) (s : State) : (setBist a1 s).pending = s.pending := rfl

/-! ### `setCring` -/

@[simp] theorem setCring_hw (a1 a2) (s : State) : (setCring a1 a2 s).hw = s.hw := rfl
@[simp] theorem setCring_ms (a1 a2) (s : State) : (setCring a1 a2 s).ms = s.ms := rfl
@[simp] theorem setCring_pins (a1 a2) (s : State) : (setCring a1 a2 s).pins = s.pins := rfl
@[simp] theorem setCring_clk (a1 a2) (s : State) : (setCring a1 a2 s).clk = s.clk := rfl
@[simp] theorem setCring_ft (a1 a2) (s : State) : (setCring a1 a2 s).ft = s.ft := rfl
@[simp] theorem setCring_wdog (a1 a2) (s : State) : (setCring a1 a2 s).wdog = s.wdog := rfl
@[simp] theorem setCring_claims (a1 a2) (s : State) : (setCring a1 a2 s).claims = s.claims := rfl
@[simp] theorem setCring_pwr (a1 a2) (s : State) : (setCring a1 a2 s).pwr = s.pwr := rfl
@[simp] theorem setCring_steer (a1 a2) (s : State) : (setCring a1 a2 s).steer = s.steer := rfl
@[simp] theorem setCring_link (a1 a2) (s : State) : (setCring a1 a2 s).link = s.link := rfl
@[simp] theorem setCring_adm (a1 a2) (s : State) : (setCring a1 a2 s).adm = s.adm := rfl
@[simp] theorem setCring_ember (a1 a2) (s : State) : (setCring a1 a2 s).ember = s.ember := rfl
@[simp] theorem setCring_yoke (a1 a2) (s : State) : (setCring a1 a2 s).yoke = s.yoke := rfl
@[simp] theorem setCring_lg (a1 a2) (s : State) : (setCring a1 a2 s).lg = s.lg := rfl
@[simp] theorem setCring_mem (a1 a2) (s : State) : (setCring a1 a2 s).mem = s.mem := rfl
@[simp] theorem setCring_cores (a1 a2) (s : State) : (setCring a1 a2 s).cores = s.cores := rfl
@[simp] theorem setCring_he (a1 a2) (s : State) : (setCring a1 a2 s).he = s.he := rfl
@[simp] theorem setCring_sync (a1 a2) (s : State) : (setCring a1 a2 s).sync = s.sync := rfl
@[simp] theorem setCring_guard (a1 a2) (s : State) : (setCring a1 a2 s).guard = s.guard := rfl
@[simp] theorem setCring_lag (a1 a2) (s : State) : (setCring a1 a2 s).lag = s.lag := rfl
@[simp] theorem setCring_streams (a1 a2) (s : State) : (setCring a1 a2 s).streams = s.streams := rfl
@[simp] theorem setCring_coll (a1 a2) (s : State) : (setCring a1 a2 s).coll = s.coll := rfl
@[simp] theorem setCring_duest (a1 a2) (s : State) : (setCring a1 a2 s).duest = s.duest := rfl
@[simp] theorem setCring_bringup (a1 a2) (s : State) : (setCring a1 a2 s).bringup = s.bringup := rfl
@[simp] theorem setCring_bist (a1 a2) (s : State) : (setCring a1 a2 s).bist = s.bist := rfl
@[simp] theorem setCring_trust (a1 a2) (s : State) : (setCring a1 a2 s).trust = s.trust := rfl
@[simp] theorem setCring_jtag (a1 a2) (s : State) : (setCring a1 a2 s).jtag = s.jtag := rfl
@[simp] theorem setCring_descs (a1 a2) (s : State) : (setCring a1 a2 s).descs = s.descs := rfl
@[simp] theorem setCring_out (a1 a2) (s : State) : (setCring a1 a2 s).out = s.out := rfl
@[simp] theorem setCring_freeCtr (a1 a2) (s : State) : (setCring a1 a2 s).freeCtr = s.freeCtr := rfl
@[simp] theorem setCring_pending (a1 a2) (s : State) : (setCring a1 a2 s).pending = s.pending := rfl

/-! ### `setCtx` -/

@[simp] theorem setCtx_hw (a1 a2) (s : State) : (setCtx a1 a2 s).hw = s.hw := rfl
@[simp] theorem setCtx_ms (a1 a2) (s : State) : (setCtx a1 a2 s).ms = s.ms := rfl
@[simp] theorem setCtx_pins (a1 a2) (s : State) : (setCtx a1 a2 s).pins = s.pins := rfl
@[simp] theorem setCtx_clk (a1 a2) (s : State) : (setCtx a1 a2 s).clk = s.clk := rfl
@[simp] theorem setCtx_ft (a1 a2) (s : State) : (setCtx a1 a2 s).ft = s.ft := rfl
@[simp] theorem setCtx_wdog (a1 a2) (s : State) : (setCtx a1 a2 s).wdog = s.wdog := rfl
@[simp] theorem setCtx_claims (a1 a2) (s : State) : (setCtx a1 a2 s).claims = s.claims := rfl
@[simp] theorem setCtx_pwr (a1 a2) (s : State) : (setCtx a1 a2 s).pwr = s.pwr := rfl
@[simp] theorem setCtx_steer (a1 a2) (s : State) : (setCtx a1 a2 s).steer = s.steer := rfl
@[simp] theorem setCtx_link (a1 a2) (s : State) : (setCtx a1 a2 s).link = s.link := rfl
@[simp] theorem setCtx_adm (a1 a2) (s : State) : (setCtx a1 a2 s).adm = s.adm := rfl
@[simp] theorem setCtx_ember (a1 a2) (s : State) : (setCtx a1 a2 s).ember = s.ember := rfl
@[simp] theorem setCtx_yoke (a1 a2) (s : State) : (setCtx a1 a2 s).yoke = s.yoke := rfl
@[simp] theorem setCtx_lg (a1 a2) (s : State) : (setCtx a1 a2 s).lg = s.lg := rfl
@[simp] theorem setCtx_mem (a1 a2) (s : State) : (setCtx a1 a2 s).mem = s.mem := rfl
@[simp] theorem setCtx_cores (a1 a2) (s : State) : (setCtx a1 a2 s).cores = s.cores := rfl
@[simp] theorem setCtx_he (a1 a2) (s : State) : (setCtx a1 a2 s).he = s.he := rfl
@[simp] theorem setCtx_sync (a1 a2) (s : State) : (setCtx a1 a2 s).sync = s.sync := rfl
@[simp] theorem setCtx_guard (a1 a2) (s : State) : (setCtx a1 a2 s).guard = s.guard := rfl
@[simp] theorem setCtx_lag (a1 a2) (s : State) : (setCtx a1 a2 s).lag = s.lag := rfl
@[simp] theorem setCtx_streams (a1 a2) (s : State) : (setCtx a1 a2 s).streams = s.streams := rfl
@[simp] theorem setCtx_coll (a1 a2) (s : State) : (setCtx a1 a2 s).coll = s.coll := rfl
@[simp] theorem setCtx_duest (a1 a2) (s : State) : (setCtx a1 a2 s).duest = s.duest := rfl
@[simp] theorem setCtx_bringup (a1 a2) (s : State) : (setCtx a1 a2 s).bringup = s.bringup := rfl
@[simp] theorem setCtx_bist (a1 a2) (s : State) : (setCtx a1 a2 s).bist = s.bist := rfl
@[simp] theorem setCtx_trust (a1 a2) (s : State) : (setCtx a1 a2 s).trust = s.trust := rfl
@[simp] theorem setCtx_jtag (a1 a2) (s : State) : (setCtx a1 a2 s).jtag = s.jtag := rfl
@[simp] theorem setCtx_descs (a1 a2) (s : State) : (setCtx a1 a2 s).descs = s.descs := rfl
@[simp] theorem setCtx_out (a1 a2) (s : State) : (setCtx a1 a2 s).out = s.out := rfl
@[simp] theorem setCtx_freeCtr (a1 a2) (s : State) : (setCtx a1 a2 s).freeCtr = s.freeCtr := rfl
@[simp] theorem setCtx_pending (a1 a2) (s : State) : (setCtx a1 a2 s).pending = s.pending := rfl

/-! ### `setDuest` -/

@[simp] theorem setDuest_hw (a1) (s : State) : (setDuest a1 s).hw = s.hw := rfl
@[simp] theorem setDuest_ms (a1) (s : State) : (setDuest a1 s).ms = s.ms := rfl
@[simp] theorem setDuest_pins (a1) (s : State) : (setDuest a1 s).pins = s.pins := rfl
@[simp] theorem setDuest_clk (a1) (s : State) : (setDuest a1 s).clk = s.clk := rfl
@[simp] theorem setDuest_host (a1) (s : State) : (setDuest a1 s).host = s.host := rfl
@[simp] theorem setDuest_ft (a1) (s : State) : (setDuest a1 s).ft = s.ft := rfl
@[simp] theorem setDuest_wdog (a1) (s : State) : (setDuest a1 s).wdog = s.wdog := rfl
@[simp] theorem setDuest_claims (a1) (s : State) : (setDuest a1 s).claims = s.claims := rfl
@[simp] theorem setDuest_pwr (a1) (s : State) : (setDuest a1 s).pwr = s.pwr := rfl
@[simp] theorem setDuest_steer (a1) (s : State) : (setDuest a1 s).steer = s.steer := rfl
@[simp] theorem setDuest_link (a1) (s : State) : (setDuest a1 s).link = s.link := rfl
@[simp] theorem setDuest_adm (a1) (s : State) : (setDuest a1 s).adm = s.adm := rfl
@[simp] theorem setDuest_ember (a1) (s : State) : (setDuest a1 s).ember = s.ember := rfl
@[simp] theorem setDuest_yoke (a1) (s : State) : (setDuest a1 s).yoke = s.yoke := rfl
@[simp] theorem setDuest_lg (a1) (s : State) : (setDuest a1 s).lg = s.lg := rfl
@[simp] theorem setDuest_mem (a1) (s : State) : (setDuest a1 s).mem = s.mem := rfl
@[simp] theorem setDuest_cores (a1) (s : State) : (setDuest a1 s).cores = s.cores := rfl
@[simp] theorem setDuest_he (a1) (s : State) : (setDuest a1 s).he = s.he := rfl
@[simp] theorem setDuest_sync (a1) (s : State) : (setDuest a1 s).sync = s.sync := rfl
@[simp] theorem setDuest_guard (a1) (s : State) : (setDuest a1 s).guard = s.guard := rfl
@[simp] theorem setDuest_lag (a1) (s : State) : (setDuest a1 s).lag = s.lag := rfl
@[simp] theorem setDuest_streams (a1) (s : State) : (setDuest a1 s).streams = s.streams := rfl
@[simp] theorem setDuest_coll (a1) (s : State) : (setDuest a1 s).coll = s.coll := rfl
@[simp] theorem setDuest_bringup (a1) (s : State) : (setDuest a1 s).bringup = s.bringup := rfl
@[simp] theorem setDuest_bist (a1) (s : State) : (setDuest a1 s).bist = s.bist := rfl
@[simp] theorem setDuest_trust (a1) (s : State) : (setDuest a1 s).trust = s.trust := rfl
@[simp] theorem setDuest_jtag (a1) (s : State) : (setDuest a1 s).jtag = s.jtag := rfl
@[simp] theorem setDuest_descs (a1) (s : State) : (setDuest a1 s).descs = s.descs := rfl
@[simp] theorem setDuest_out (a1) (s : State) : (setDuest a1 s).out = s.out := rfl
@[simp] theorem setDuest_freeCtr (a1) (s : State) : (setDuest a1 s).freeCtr = s.freeCtr := rfl
@[simp] theorem setDuest_pending (a1) (s : State) : (setDuest a1 s).pending = s.pending := rfl

/-! ### `setDuestLink` -/

@[simp] theorem setDuestLink_hw (a1 a2) (s : State) : (setDuestLink a1 a2 s).hw = s.hw := rfl
@[simp] theorem setDuestLink_ms (a1 a2) (s : State) : (setDuestLink a1 a2 s).ms = s.ms := rfl
@[simp] theorem setDuestLink_pins (a1 a2) (s : State) : (setDuestLink a1 a2 s).pins = s.pins := rfl
@[simp] theorem setDuestLink_clk (a1 a2) (s : State) : (setDuestLink a1 a2 s).clk = s.clk := rfl
@[simp] theorem setDuestLink_host (a1 a2) (s : State) : (setDuestLink a1 a2 s).host = s.host := rfl
@[simp] theorem setDuestLink_ft (a1 a2) (s : State) : (setDuestLink a1 a2 s).ft = s.ft := rfl
@[simp] theorem setDuestLink_wdog (a1 a2) (s : State) : (setDuestLink a1 a2 s).wdog = s.wdog := rfl
@[simp] theorem setDuestLink_claims (a1 a2) (s : State) : (setDuestLink a1 a2 s).claims = s.claims := rfl
@[simp] theorem setDuestLink_pwr (a1 a2) (s : State) : (setDuestLink a1 a2 s).pwr = s.pwr := rfl
@[simp] theorem setDuestLink_steer (a1 a2) (s : State) : (setDuestLink a1 a2 s).steer = s.steer := rfl
@[simp] theorem setDuestLink_link (a1 a2) (s : State) : (setDuestLink a1 a2 s).link = s.link := rfl
@[simp] theorem setDuestLink_adm (a1 a2) (s : State) : (setDuestLink a1 a2 s).adm = s.adm := rfl
@[simp] theorem setDuestLink_ember (a1 a2) (s : State) : (setDuestLink a1 a2 s).ember = s.ember := rfl
@[simp] theorem setDuestLink_yoke (a1 a2) (s : State) : (setDuestLink a1 a2 s).yoke = s.yoke := rfl
@[simp] theorem setDuestLink_lg (a1 a2) (s : State) : (setDuestLink a1 a2 s).lg = s.lg := rfl
@[simp] theorem setDuestLink_mem (a1 a2) (s : State) : (setDuestLink a1 a2 s).mem = s.mem := rfl
@[simp] theorem setDuestLink_cores (a1 a2) (s : State) : (setDuestLink a1 a2 s).cores = s.cores := rfl
@[simp] theorem setDuestLink_he (a1 a2) (s : State) : (setDuestLink a1 a2 s).he = s.he := rfl
@[simp] theorem setDuestLink_sync (a1 a2) (s : State) : (setDuestLink a1 a2 s).sync = s.sync := rfl
@[simp] theorem setDuestLink_guard (a1 a2) (s : State) : (setDuestLink a1 a2 s).guard = s.guard := rfl
@[simp] theorem setDuestLink_lag (a1 a2) (s : State) : (setDuestLink a1 a2 s).lag = s.lag := rfl
@[simp] theorem setDuestLink_streams (a1 a2) (s : State) : (setDuestLink a1 a2 s).streams = s.streams := rfl
@[simp] theorem setDuestLink_coll (a1 a2) (s : State) : (setDuestLink a1 a2 s).coll = s.coll := rfl
@[simp] theorem setDuestLink_bringup (a1 a2) (s : State) : (setDuestLink a1 a2 s).bringup = s.bringup := rfl
@[simp] theorem setDuestLink_bist (a1 a2) (s : State) : (setDuestLink a1 a2 s).bist = s.bist := rfl
@[simp] theorem setDuestLink_trust (a1 a2) (s : State) : (setDuestLink a1 a2 s).trust = s.trust := rfl
@[simp] theorem setDuestLink_jtag (a1 a2) (s : State) : (setDuestLink a1 a2 s).jtag = s.jtag := rfl
@[simp] theorem setDuestLink_descs (a1 a2) (s : State) : (setDuestLink a1 a2 s).descs = s.descs := rfl
@[simp] theorem setDuestLink_out (a1 a2) (s : State) : (setDuestLink a1 a2 s).out = s.out := rfl
@[simp] theorem setDuestLink_freeCtr (a1 a2) (s : State) : (setDuestLink a1 a2 s).freeCtr = s.freeCtr := rfl
@[simp] theorem setDuestLink_pending (a1 a2) (s : State) : (setDuestLink a1 a2 s).pending = s.pending := rfl

/-! ### `setEmber` -/

@[simp] theorem setEmber_hw (a1) (s : State) : (setEmber a1 s).hw = s.hw := rfl
@[simp] theorem setEmber_ms (a1) (s : State) : (setEmber a1 s).ms = s.ms := rfl
@[simp] theorem setEmber_pins (a1) (s : State) : (setEmber a1 s).pins = s.pins := rfl
@[simp] theorem setEmber_clk (a1) (s : State) : (setEmber a1 s).clk = s.clk := rfl
@[simp] theorem setEmber_host (a1) (s : State) : (setEmber a1 s).host = s.host := rfl
@[simp] theorem setEmber_ft (a1) (s : State) : (setEmber a1 s).ft = s.ft := rfl
@[simp] theorem setEmber_wdog (a1) (s : State) : (setEmber a1 s).wdog = s.wdog := rfl
@[simp] theorem setEmber_claims (a1) (s : State) : (setEmber a1 s).claims = s.claims := rfl
@[simp] theorem setEmber_pwr (a1) (s : State) : (setEmber a1 s).pwr = s.pwr := rfl
@[simp] theorem setEmber_steer (a1) (s : State) : (setEmber a1 s).steer = s.steer := rfl
@[simp] theorem setEmber_link (a1) (s : State) : (setEmber a1 s).link = s.link := rfl
@[simp] theorem setEmber_adm (a1) (s : State) : (setEmber a1 s).adm = s.adm := rfl
@[simp] theorem setEmber_yoke (a1) (s : State) : (setEmber a1 s).yoke = s.yoke := rfl
@[simp] theorem setEmber_lg (a1) (s : State) : (setEmber a1 s).lg = s.lg := rfl
@[simp] theorem setEmber_mem (a1) (s : State) : (setEmber a1 s).mem = s.mem := rfl
@[simp] theorem setEmber_cores (a1) (s : State) : (setEmber a1 s).cores = s.cores := rfl
@[simp] theorem setEmber_he (a1) (s : State) : (setEmber a1 s).he = s.he := rfl
@[simp] theorem setEmber_sync (a1) (s : State) : (setEmber a1 s).sync = s.sync := rfl
@[simp] theorem setEmber_guard (a1) (s : State) : (setEmber a1 s).guard = s.guard := rfl
@[simp] theorem setEmber_lag (a1) (s : State) : (setEmber a1 s).lag = s.lag := rfl
@[simp] theorem setEmber_streams (a1) (s : State) : (setEmber a1 s).streams = s.streams := rfl
@[simp] theorem setEmber_coll (a1) (s : State) : (setEmber a1 s).coll = s.coll := rfl
@[simp] theorem setEmber_duest (a1) (s : State) : (setEmber a1 s).duest = s.duest := rfl
@[simp] theorem setEmber_bringup (a1) (s : State) : (setEmber a1 s).bringup = s.bringup := rfl
@[simp] theorem setEmber_bist (a1) (s : State) : (setEmber a1 s).bist = s.bist := rfl
@[simp] theorem setEmber_trust (a1) (s : State) : (setEmber a1 s).trust = s.trust := rfl
@[simp] theorem setEmber_jtag (a1) (s : State) : (setEmber a1 s).jtag = s.jtag := rfl
@[simp] theorem setEmber_descs (a1) (s : State) : (setEmber a1 s).descs = s.descs := rfl
@[simp] theorem setEmber_out (a1) (s : State) : (setEmber a1 s).out = s.out := rfl
@[simp] theorem setEmber_freeCtr (a1) (s : State) : (setEmber a1 s).freeCtr = s.freeCtr := rfl
@[simp] theorem setEmber_pending (a1) (s : State) : (setEmber a1 s).pending = s.pending := rfl

/-! ### `setEmberPage` -/

@[simp] theorem setEmberPage_hw (a1 a2) (s : State) : (setEmberPage a1 a2 s).hw = s.hw := rfl
@[simp] theorem setEmberPage_ms (a1 a2) (s : State) : (setEmberPage a1 a2 s).ms = s.ms := rfl
@[simp] theorem setEmberPage_pins (a1 a2) (s : State) : (setEmberPage a1 a2 s).pins = s.pins := rfl
@[simp] theorem setEmberPage_clk (a1 a2) (s : State) : (setEmberPage a1 a2 s).clk = s.clk := rfl
@[simp] theorem setEmberPage_host (a1 a2) (s : State) : (setEmberPage a1 a2 s).host = s.host := rfl
@[simp] theorem setEmberPage_ft (a1 a2) (s : State) : (setEmberPage a1 a2 s).ft = s.ft := rfl
@[simp] theorem setEmberPage_wdog (a1 a2) (s : State) : (setEmberPage a1 a2 s).wdog = s.wdog := rfl
@[simp] theorem setEmberPage_claims (a1 a2) (s : State) : (setEmberPage a1 a2 s).claims = s.claims := rfl
@[simp] theorem setEmberPage_pwr (a1 a2) (s : State) : (setEmberPage a1 a2 s).pwr = s.pwr := rfl
@[simp] theorem setEmberPage_steer (a1 a2) (s : State) : (setEmberPage a1 a2 s).steer = s.steer := rfl
@[simp] theorem setEmberPage_link (a1 a2) (s : State) : (setEmberPage a1 a2 s).link = s.link := rfl
@[simp] theorem setEmberPage_adm (a1 a2) (s : State) : (setEmberPage a1 a2 s).adm = s.adm := rfl
@[simp] theorem setEmberPage_yoke (a1 a2) (s : State) : (setEmberPage a1 a2 s).yoke = s.yoke := rfl
@[simp] theorem setEmberPage_lg (a1 a2) (s : State) : (setEmberPage a1 a2 s).lg = s.lg := rfl
@[simp] theorem setEmberPage_mem (a1 a2) (s : State) : (setEmberPage a1 a2 s).mem = s.mem := rfl
@[simp] theorem setEmberPage_cores (a1 a2) (s : State) : (setEmberPage a1 a2 s).cores = s.cores := rfl
@[simp] theorem setEmberPage_he (a1 a2) (s : State) : (setEmberPage a1 a2 s).he = s.he := rfl
@[simp] theorem setEmberPage_sync (a1 a2) (s : State) : (setEmberPage a1 a2 s).sync = s.sync := rfl
@[simp] theorem setEmberPage_guard (a1 a2) (s : State) : (setEmberPage a1 a2 s).guard = s.guard := rfl
@[simp] theorem setEmberPage_lag (a1 a2) (s : State) : (setEmberPage a1 a2 s).lag = s.lag := rfl
@[simp] theorem setEmberPage_streams (a1 a2) (s : State) : (setEmberPage a1 a2 s).streams = s.streams := rfl
@[simp] theorem setEmberPage_coll (a1 a2) (s : State) : (setEmberPage a1 a2 s).coll = s.coll := rfl
@[simp] theorem setEmberPage_duest (a1 a2) (s : State) : (setEmberPage a1 a2 s).duest = s.duest := rfl
@[simp] theorem setEmberPage_bringup (a1 a2) (s : State) : (setEmberPage a1 a2 s).bringup = s.bringup := rfl
@[simp] theorem setEmberPage_bist (a1 a2) (s : State) : (setEmberPage a1 a2 s).bist = s.bist := rfl
@[simp] theorem setEmberPage_trust (a1 a2) (s : State) : (setEmberPage a1 a2 s).trust = s.trust := rfl
@[simp] theorem setEmberPage_jtag (a1 a2) (s : State) : (setEmberPage a1 a2 s).jtag = s.jtag := rfl
@[simp] theorem setEmberPage_descs (a1 a2) (s : State) : (setEmberPage a1 a2 s).descs = s.descs := rfl
@[simp] theorem setEmberPage_out (a1 a2) (s : State) : (setEmberPage a1 a2 s).out = s.out := rfl
@[simp] theorem setEmberPage_freeCtr (a1 a2) (s : State) : (setEmberPage a1 a2 s).freeCtr = s.freeCtr := rfl
@[simp] theorem setEmberPage_pending (a1 a2) (s : State) : (setEmberPage a1 a2 s).pending = s.pending := rfl

/-! ### `setFt` -/

@[simp] theorem setFt_hw (a1) (s : State) : (setFt a1 s).hw = s.hw := rfl
@[simp] theorem setFt_ms (a1) (s : State) : (setFt a1 s).ms = s.ms := rfl
@[simp] theorem setFt_pins (a1) (s : State) : (setFt a1 s).pins = s.pins := rfl
@[simp] theorem setFt_clk (a1) (s : State) : (setFt a1 s).clk = s.clk := rfl
@[simp] theorem setFt_host (a1) (s : State) : (setFt a1 s).host = s.host := rfl
@[simp] theorem setFt_wdog (a1) (s : State) : (setFt a1 s).wdog = s.wdog := rfl
@[simp] theorem setFt_claims (a1) (s : State) : (setFt a1 s).claims = s.claims := rfl
@[simp] theorem setFt_pwr (a1) (s : State) : (setFt a1 s).pwr = s.pwr := rfl
@[simp] theorem setFt_steer (a1) (s : State) : (setFt a1 s).steer = s.steer := rfl
@[simp] theorem setFt_link (a1) (s : State) : (setFt a1 s).link = s.link := rfl
@[simp] theorem setFt_adm (a1) (s : State) : (setFt a1 s).adm = s.adm := rfl
@[simp] theorem setFt_ember (a1) (s : State) : (setFt a1 s).ember = s.ember := rfl
@[simp] theorem setFt_yoke (a1) (s : State) : (setFt a1 s).yoke = s.yoke := rfl
@[simp] theorem setFt_lg (a1) (s : State) : (setFt a1 s).lg = s.lg := rfl
@[simp] theorem setFt_mem (a1) (s : State) : (setFt a1 s).mem = s.mem := rfl
@[simp] theorem setFt_cores (a1) (s : State) : (setFt a1 s).cores = s.cores := rfl
@[simp] theorem setFt_he (a1) (s : State) : (setFt a1 s).he = s.he := rfl
@[simp] theorem setFt_sync (a1) (s : State) : (setFt a1 s).sync = s.sync := rfl
@[simp] theorem setFt_guard (a1) (s : State) : (setFt a1 s).guard = s.guard := rfl
@[simp] theorem setFt_lag (a1) (s : State) : (setFt a1 s).lag = s.lag := rfl
@[simp] theorem setFt_streams (a1) (s : State) : (setFt a1 s).streams = s.streams := rfl
@[simp] theorem setFt_coll (a1) (s : State) : (setFt a1 s).coll = s.coll := rfl
@[simp] theorem setFt_duest (a1) (s : State) : (setFt a1 s).duest = s.duest := rfl
@[simp] theorem setFt_bringup (a1) (s : State) : (setFt a1 s).bringup = s.bringup := rfl
@[simp] theorem setFt_bist (a1) (s : State) : (setFt a1 s).bist = s.bist := rfl
@[simp] theorem setFt_trust (a1) (s : State) : (setFt a1 s).trust = s.trust := rfl
@[simp] theorem setFt_jtag (a1) (s : State) : (setFt a1 s).jtag = s.jtag := rfl
@[simp] theorem setFt_descs (a1) (s : State) : (setFt a1 s).descs = s.descs := rfl
@[simp] theorem setFt_out (a1) (s : State) : (setFt a1 s).out = s.out := rfl
@[simp] theorem setFt_freeCtr (a1) (s : State) : (setFt a1 s).freeCtr = s.freeCtr := rfl
@[simp] theorem setFt_pending (a1) (s : State) : (setFt a1 s).pending = s.pending := rfl

/-! ### `setGuard` -/

@[simp] theorem setGuard_hw (a1) (s : State) : (setGuard a1 s).hw = s.hw := rfl
@[simp] theorem setGuard_ms (a1) (s : State) : (setGuard a1 s).ms = s.ms := rfl
@[simp] theorem setGuard_pins (a1) (s : State) : (setGuard a1 s).pins = s.pins := rfl
@[simp] theorem setGuard_clk (a1) (s : State) : (setGuard a1 s).clk = s.clk := rfl
@[simp] theorem setGuard_host (a1) (s : State) : (setGuard a1 s).host = s.host := rfl
@[simp] theorem setGuard_ft (a1) (s : State) : (setGuard a1 s).ft = s.ft := rfl
@[simp] theorem setGuard_wdog (a1) (s : State) : (setGuard a1 s).wdog = s.wdog := rfl
@[simp] theorem setGuard_claims (a1) (s : State) : (setGuard a1 s).claims = s.claims := rfl
@[simp] theorem setGuard_pwr (a1) (s : State) : (setGuard a1 s).pwr = s.pwr := rfl
@[simp] theorem setGuard_steer (a1) (s : State) : (setGuard a1 s).steer = s.steer := rfl
@[simp] theorem setGuard_link (a1) (s : State) : (setGuard a1 s).link = s.link := rfl
@[simp] theorem setGuard_adm (a1) (s : State) : (setGuard a1 s).adm = s.adm := rfl
@[simp] theorem setGuard_ember (a1) (s : State) : (setGuard a1 s).ember = s.ember := rfl
@[simp] theorem setGuard_yoke (a1) (s : State) : (setGuard a1 s).yoke = s.yoke := rfl
@[simp] theorem setGuard_lg (a1) (s : State) : (setGuard a1 s).lg = s.lg := rfl
@[simp] theorem setGuard_mem (a1) (s : State) : (setGuard a1 s).mem = s.mem := rfl
@[simp] theorem setGuard_cores (a1) (s : State) : (setGuard a1 s).cores = s.cores := rfl
@[simp] theorem setGuard_he (a1) (s : State) : (setGuard a1 s).he = s.he := rfl
@[simp] theorem setGuard_sync (a1) (s : State) : (setGuard a1 s).sync = s.sync := rfl
@[simp] theorem setGuard_lag (a1) (s : State) : (setGuard a1 s).lag = s.lag := rfl
@[simp] theorem setGuard_streams (a1) (s : State) : (setGuard a1 s).streams = s.streams := rfl
@[simp] theorem setGuard_coll (a1) (s : State) : (setGuard a1 s).coll = s.coll := rfl
@[simp] theorem setGuard_duest (a1) (s : State) : (setGuard a1 s).duest = s.duest := rfl
@[simp] theorem setGuard_bringup (a1) (s : State) : (setGuard a1 s).bringup = s.bringup := rfl
@[simp] theorem setGuard_bist (a1) (s : State) : (setGuard a1 s).bist = s.bist := rfl
@[simp] theorem setGuard_trust (a1) (s : State) : (setGuard a1 s).trust = s.trust := rfl
@[simp] theorem setGuard_jtag (a1) (s : State) : (setGuard a1 s).jtag = s.jtag := rfl
@[simp] theorem setGuard_descs (a1) (s : State) : (setGuard a1 s).descs = s.descs := rfl
@[simp] theorem setGuard_out (a1) (s : State) : (setGuard a1 s).out = s.out := rfl
@[simp] theorem setGuard_freeCtr (a1) (s : State) : (setGuard a1 s).freeCtr = s.freeCtr := rfl
@[simp] theorem setGuard_pending (a1) (s : State) : (setGuard a1 s).pending = s.pending := rfl

/-! ### `setHe` -/

@[simp] theorem setHe_hw (a1 a2) (s : State) : (setHe a1 a2 s).hw = s.hw := rfl
@[simp] theorem setHe_ms (a1 a2) (s : State) : (setHe a1 a2 s).ms = s.ms := rfl
@[simp] theorem setHe_pins (a1 a2) (s : State) : (setHe a1 a2 s).pins = s.pins := rfl
@[simp] theorem setHe_clk (a1 a2) (s : State) : (setHe a1 a2 s).clk = s.clk := rfl
@[simp] theorem setHe_host (a1 a2) (s : State) : (setHe a1 a2 s).host = s.host := rfl
@[simp] theorem setHe_ft (a1 a2) (s : State) : (setHe a1 a2 s).ft = s.ft := rfl
@[simp] theorem setHe_wdog (a1 a2) (s : State) : (setHe a1 a2 s).wdog = s.wdog := rfl
@[simp] theorem setHe_claims (a1 a2) (s : State) : (setHe a1 a2 s).claims = s.claims := rfl
@[simp] theorem setHe_pwr (a1 a2) (s : State) : (setHe a1 a2 s).pwr = s.pwr := rfl
@[simp] theorem setHe_steer (a1 a2) (s : State) : (setHe a1 a2 s).steer = s.steer := rfl
@[simp] theorem setHe_link (a1 a2) (s : State) : (setHe a1 a2 s).link = s.link := rfl
@[simp] theorem setHe_adm (a1 a2) (s : State) : (setHe a1 a2 s).adm = s.adm := rfl
@[simp] theorem setHe_ember (a1 a2) (s : State) : (setHe a1 a2 s).ember = s.ember := rfl
@[simp] theorem setHe_yoke (a1 a2) (s : State) : (setHe a1 a2 s).yoke = s.yoke := rfl
@[simp] theorem setHe_lg (a1 a2) (s : State) : (setHe a1 a2 s).lg = s.lg := rfl
@[simp] theorem setHe_mem (a1 a2) (s : State) : (setHe a1 a2 s).mem = s.mem := rfl
@[simp] theorem setHe_cores (a1 a2) (s : State) : (setHe a1 a2 s).cores = s.cores := rfl
@[simp] theorem setHe_sync (a1 a2) (s : State) : (setHe a1 a2 s).sync = s.sync := rfl
@[simp] theorem setHe_guard (a1 a2) (s : State) : (setHe a1 a2 s).guard = s.guard := rfl
@[simp] theorem setHe_lag (a1 a2) (s : State) : (setHe a1 a2 s).lag = s.lag := rfl
@[simp] theorem setHe_streams (a1 a2) (s : State) : (setHe a1 a2 s).streams = s.streams := rfl
@[simp] theorem setHe_coll (a1 a2) (s : State) : (setHe a1 a2 s).coll = s.coll := rfl
@[simp] theorem setHe_duest (a1 a2) (s : State) : (setHe a1 a2 s).duest = s.duest := rfl
@[simp] theorem setHe_bringup (a1 a2) (s : State) : (setHe a1 a2 s).bringup = s.bringup := rfl
@[simp] theorem setHe_bist (a1 a2) (s : State) : (setHe a1 a2 s).bist = s.bist := rfl
@[simp] theorem setHe_trust (a1 a2) (s : State) : (setHe a1 a2 s).trust = s.trust := rfl
@[simp] theorem setHe_jtag (a1 a2) (s : State) : (setHe a1 a2 s).jtag = s.jtag := rfl
@[simp] theorem setHe_descs (a1 a2) (s : State) : (setHe a1 a2 s).descs = s.descs := rfl
@[simp] theorem setHe_out (a1 a2) (s : State) : (setHe a1 a2 s).out = s.out := rfl
@[simp] theorem setHe_freeCtr (a1 a2) (s : State) : (setHe a1 a2 s).freeCtr = s.freeCtr := rfl
@[simp] theorem setHe_pending (a1 a2) (s : State) : (setHe a1 a2 s).pending = s.pending := rfl

/-! ### `setJtag` -/

@[simp] theorem setJtag_hw (a1) (s : State) : (setJtag a1 s).hw = s.hw := rfl
@[simp] theorem setJtag_ms (a1) (s : State) : (setJtag a1 s).ms = s.ms := rfl
@[simp] theorem setJtag_pins (a1) (s : State) : (setJtag a1 s).pins = s.pins := rfl
@[simp] theorem setJtag_clk (a1) (s : State) : (setJtag a1 s).clk = s.clk := rfl
@[simp] theorem setJtag_host (a1) (s : State) : (setJtag a1 s).host = s.host := rfl
@[simp] theorem setJtag_ft (a1) (s : State) : (setJtag a1 s).ft = s.ft := rfl
@[simp] theorem setJtag_wdog (a1) (s : State) : (setJtag a1 s).wdog = s.wdog := rfl
@[simp] theorem setJtag_claims (a1) (s : State) : (setJtag a1 s).claims = s.claims := rfl
@[simp] theorem setJtag_pwr (a1) (s : State) : (setJtag a1 s).pwr = s.pwr := rfl
@[simp] theorem setJtag_steer (a1) (s : State) : (setJtag a1 s).steer = s.steer := rfl
@[simp] theorem setJtag_link (a1) (s : State) : (setJtag a1 s).link = s.link := rfl
@[simp] theorem setJtag_adm (a1) (s : State) : (setJtag a1 s).adm = s.adm := rfl
@[simp] theorem setJtag_ember (a1) (s : State) : (setJtag a1 s).ember = s.ember := rfl
@[simp] theorem setJtag_yoke (a1) (s : State) : (setJtag a1 s).yoke = s.yoke := rfl
@[simp] theorem setJtag_lg (a1) (s : State) : (setJtag a1 s).lg = s.lg := rfl
@[simp] theorem setJtag_mem (a1) (s : State) : (setJtag a1 s).mem = s.mem := rfl
@[simp] theorem setJtag_cores (a1) (s : State) : (setJtag a1 s).cores = s.cores := rfl
@[simp] theorem setJtag_he (a1) (s : State) : (setJtag a1 s).he = s.he := rfl
@[simp] theorem setJtag_sync (a1) (s : State) : (setJtag a1 s).sync = s.sync := rfl
@[simp] theorem setJtag_guard (a1) (s : State) : (setJtag a1 s).guard = s.guard := rfl
@[simp] theorem setJtag_lag (a1) (s : State) : (setJtag a1 s).lag = s.lag := rfl
@[simp] theorem setJtag_streams (a1) (s : State) : (setJtag a1 s).streams = s.streams := rfl
@[simp] theorem setJtag_coll (a1) (s : State) : (setJtag a1 s).coll = s.coll := rfl
@[simp] theorem setJtag_duest (a1) (s : State) : (setJtag a1 s).duest = s.duest := rfl
@[simp] theorem setJtag_bringup (a1) (s : State) : (setJtag a1 s).bringup = s.bringup := rfl
@[simp] theorem setJtag_bist (a1) (s : State) : (setJtag a1 s).bist = s.bist := rfl
@[simp] theorem setJtag_trust (a1) (s : State) : (setJtag a1 s).trust = s.trust := rfl
@[simp] theorem setJtag_descs (a1) (s : State) : (setJtag a1 s).descs = s.descs := rfl
@[simp] theorem setJtag_out (a1) (s : State) : (setJtag a1 s).out = s.out := rfl
@[simp] theorem setJtag_freeCtr (a1) (s : State) : (setJtag a1 s).freeCtr = s.freeCtr := rfl
@[simp] theorem setJtag_pending (a1) (s : State) : (setJtag a1 s).pending = s.pending := rfl

/-! ### `setLedger` -/

@[simp] theorem setLedger_hw (a1) (s : State) : (setLedger a1 s).hw = s.hw := rfl
@[simp] theorem setLedger_ms (a1) (s : State) : (setLedger a1 s).ms = s.ms := rfl
@[simp] theorem setLedger_pins (a1) (s : State) : (setLedger a1 s).pins = s.pins := rfl
@[simp] theorem setLedger_clk (a1) (s : State) : (setLedger a1 s).clk = s.clk := rfl
@[simp] theorem setLedger_host (a1) (s : State) : (setLedger a1 s).host = s.host := rfl
@[simp] theorem setLedger_ft (a1) (s : State) : (setLedger a1 s).ft = s.ft := rfl
@[simp] theorem setLedger_wdog (a1) (s : State) : (setLedger a1 s).wdog = s.wdog := rfl
@[simp] theorem setLedger_claims (a1) (s : State) : (setLedger a1 s).claims = s.claims := rfl
@[simp] theorem setLedger_pwr (a1) (s : State) : (setLedger a1 s).pwr = s.pwr := rfl
@[simp] theorem setLedger_steer (a1) (s : State) : (setLedger a1 s).steer = s.steer := rfl
@[simp] theorem setLedger_link (a1) (s : State) : (setLedger a1 s).link = s.link := rfl
@[simp] theorem setLedger_adm (a1) (s : State) : (setLedger a1 s).adm = s.adm := rfl
@[simp] theorem setLedger_ember (a1) (s : State) : (setLedger a1 s).ember = s.ember := rfl
@[simp] theorem setLedger_yoke (a1) (s : State) : (setLedger a1 s).yoke = s.yoke := rfl
@[simp] theorem setLedger_mem (a1) (s : State) : (setLedger a1 s).mem = s.mem := rfl
@[simp] theorem setLedger_cores (a1) (s : State) : (setLedger a1 s).cores = s.cores := rfl
@[simp] theorem setLedger_he (a1) (s : State) : (setLedger a1 s).he = s.he := rfl
@[simp] theorem setLedger_sync (a1) (s : State) : (setLedger a1 s).sync = s.sync := rfl
@[simp] theorem setLedger_guard (a1) (s : State) : (setLedger a1 s).guard = s.guard := rfl
@[simp] theorem setLedger_lag (a1) (s : State) : (setLedger a1 s).lag = s.lag := rfl
@[simp] theorem setLedger_streams (a1) (s : State) : (setLedger a1 s).streams = s.streams := rfl
@[simp] theorem setLedger_coll (a1) (s : State) : (setLedger a1 s).coll = s.coll := rfl
@[simp] theorem setLedger_duest (a1) (s : State) : (setLedger a1 s).duest = s.duest := rfl
@[simp] theorem setLedger_bringup (a1) (s : State) : (setLedger a1 s).bringup = s.bringup := rfl
@[simp] theorem setLedger_bist (a1) (s : State) : (setLedger a1 s).bist = s.bist := rfl
@[simp] theorem setLedger_trust (a1) (s : State) : (setLedger a1 s).trust = s.trust := rfl
@[simp] theorem setLedger_jtag (a1) (s : State) : (setLedger a1 s).jtag = s.jtag := rfl
@[simp] theorem setLedger_descs (a1) (s : State) : (setLedger a1 s).descs = s.descs := rfl
@[simp] theorem setLedger_out (a1) (s : State) : (setLedger a1 s).out = s.out := rfl
@[simp] theorem setLedger_freeCtr (a1) (s : State) : (setLedger a1 s).freeCtr = s.freeCtr := rfl
@[simp] theorem setLedger_pending (a1) (s : State) : (setLedger a1 s).pending = s.pending := rfl

/-! ### `setLgDom` -/

@[simp] theorem setLgDom_hw (a1 a2) (s : State) : (setLgDom a1 a2 s).hw = s.hw := rfl
@[simp] theorem setLgDom_ms (a1 a2) (s : State) : (setLgDom a1 a2 s).ms = s.ms := rfl
@[simp] theorem setLgDom_pins (a1 a2) (s : State) : (setLgDom a1 a2 s).pins = s.pins := rfl
@[simp] theorem setLgDom_clk (a1 a2) (s : State) : (setLgDom a1 a2 s).clk = s.clk := rfl
@[simp] theorem setLgDom_host (a1 a2) (s : State) : (setLgDom a1 a2 s).host = s.host := rfl
@[simp] theorem setLgDom_ft (a1 a2) (s : State) : (setLgDom a1 a2 s).ft = s.ft := rfl
@[simp] theorem setLgDom_wdog (a1 a2) (s : State) : (setLgDom a1 a2 s).wdog = s.wdog := rfl
@[simp] theorem setLgDom_claims (a1 a2) (s : State) : (setLgDom a1 a2 s).claims = s.claims := rfl
@[simp] theorem setLgDom_pwr (a1 a2) (s : State) : (setLgDom a1 a2 s).pwr = s.pwr := rfl
@[simp] theorem setLgDom_steer (a1 a2) (s : State) : (setLgDom a1 a2 s).steer = s.steer := rfl
@[simp] theorem setLgDom_link (a1 a2) (s : State) : (setLgDom a1 a2 s).link = s.link := rfl
@[simp] theorem setLgDom_adm (a1 a2) (s : State) : (setLgDom a1 a2 s).adm = s.adm := rfl
@[simp] theorem setLgDom_ember (a1 a2) (s : State) : (setLgDom a1 a2 s).ember = s.ember := rfl
@[simp] theorem setLgDom_yoke (a1 a2) (s : State) : (setLgDom a1 a2 s).yoke = s.yoke := rfl
@[simp] theorem setLgDom_mem (a1 a2) (s : State) : (setLgDom a1 a2 s).mem = s.mem := rfl
@[simp] theorem setLgDom_cores (a1 a2) (s : State) : (setLgDom a1 a2 s).cores = s.cores := rfl
@[simp] theorem setLgDom_he (a1 a2) (s : State) : (setLgDom a1 a2 s).he = s.he := rfl
@[simp] theorem setLgDom_sync (a1 a2) (s : State) : (setLgDom a1 a2 s).sync = s.sync := rfl
@[simp] theorem setLgDom_guard (a1 a2) (s : State) : (setLgDom a1 a2 s).guard = s.guard := rfl
@[simp] theorem setLgDom_lag (a1 a2) (s : State) : (setLgDom a1 a2 s).lag = s.lag := rfl
@[simp] theorem setLgDom_streams (a1 a2) (s : State) : (setLgDom a1 a2 s).streams = s.streams := rfl
@[simp] theorem setLgDom_coll (a1 a2) (s : State) : (setLgDom a1 a2 s).coll = s.coll := rfl
@[simp] theorem setLgDom_duest (a1 a2) (s : State) : (setLgDom a1 a2 s).duest = s.duest := rfl
@[simp] theorem setLgDom_bringup (a1 a2) (s : State) : (setLgDom a1 a2 s).bringup = s.bringup := rfl
@[simp] theorem setLgDom_bist (a1 a2) (s : State) : (setLgDom a1 a2 s).bist = s.bist := rfl
@[simp] theorem setLgDom_trust (a1 a2) (s : State) : (setLgDom a1 a2 s).trust = s.trust := rfl
@[simp] theorem setLgDom_jtag (a1 a2) (s : State) : (setLgDom a1 a2 s).jtag = s.jtag := rfl
@[simp] theorem setLgDom_descs (a1 a2) (s : State) : (setLgDom a1 a2 s).descs = s.descs := rfl
@[simp] theorem setLgDom_out (a1 a2) (s : State) : (setLgDom a1 a2 s).out = s.out := rfl
@[simp] theorem setLgDom_freeCtr (a1 a2) (s : State) : (setLgDom a1 a2 s).freeCtr = s.freeCtr := rfl
@[simp] theorem setLgDom_pending (a1 a2) (s : State) : (setLgDom a1 a2 s).pending = s.pending := rfl

/-! ### `setLine` -/

@[simp] theorem setLine_hw (a1 a2) (s : State) : (setLine a1 a2 s).hw = s.hw := rfl
@[simp] theorem setLine_ms (a1 a2) (s : State) : (setLine a1 a2 s).ms = s.ms := rfl
@[simp] theorem setLine_pins (a1 a2) (s : State) : (setLine a1 a2 s).pins = s.pins := rfl
@[simp] theorem setLine_clk (a1 a2) (s : State) : (setLine a1 a2 s).clk = s.clk := rfl
@[simp] theorem setLine_host (a1 a2) (s : State) : (setLine a1 a2 s).host = s.host := rfl
@[simp] theorem setLine_ft (a1 a2) (s : State) : (setLine a1 a2 s).ft = s.ft := rfl
@[simp] theorem setLine_wdog (a1 a2) (s : State) : (setLine a1 a2 s).wdog = s.wdog := rfl
@[simp] theorem setLine_claims (a1 a2) (s : State) : (setLine a1 a2 s).claims = s.claims := rfl
@[simp] theorem setLine_pwr (a1 a2) (s : State) : (setLine a1 a2 s).pwr = s.pwr := rfl
@[simp] theorem setLine_steer (a1 a2) (s : State) : (setLine a1 a2 s).steer = s.steer := rfl
@[simp] theorem setLine_link (a1 a2) (s : State) : (setLine a1 a2 s).link = s.link := rfl
@[simp] theorem setLine_adm (a1 a2) (s : State) : (setLine a1 a2 s).adm = s.adm := rfl
@[simp] theorem setLine_ember (a1 a2) (s : State) : (setLine a1 a2 s).ember = s.ember := rfl
@[simp] theorem setLine_yoke (a1 a2) (s : State) : (setLine a1 a2 s).yoke = s.yoke := rfl
@[simp] theorem setLine_lg (a1 a2) (s : State) : (setLine a1 a2 s).lg = s.lg := rfl
@[simp] theorem setLine_mem (a1 a2) (s : State) : (setLine a1 a2 s).mem = s.mem := rfl
@[simp] theorem setLine_cores (a1 a2) (s : State) : (setLine a1 a2 s).cores = s.cores := rfl
@[simp] theorem setLine_he (a1 a2) (s : State) : (setLine a1 a2 s).he = s.he := rfl
@[simp] theorem setLine_guard (a1 a2) (s : State) : (setLine a1 a2 s).guard = s.guard := rfl
@[simp] theorem setLine_lag (a1 a2) (s : State) : (setLine a1 a2 s).lag = s.lag := rfl
@[simp] theorem setLine_streams (a1 a2) (s : State) : (setLine a1 a2 s).streams = s.streams := rfl
@[simp] theorem setLine_coll (a1 a2) (s : State) : (setLine a1 a2 s).coll = s.coll := rfl
@[simp] theorem setLine_duest (a1 a2) (s : State) : (setLine a1 a2 s).duest = s.duest := rfl
@[simp] theorem setLine_bringup (a1 a2) (s : State) : (setLine a1 a2 s).bringup = s.bringup := rfl
@[simp] theorem setLine_bist (a1 a2) (s : State) : (setLine a1 a2 s).bist = s.bist := rfl
@[simp] theorem setLine_trust (a1 a2) (s : State) : (setLine a1 a2 s).trust = s.trust := rfl
@[simp] theorem setLine_jtag (a1 a2) (s : State) : (setLine a1 a2 s).jtag = s.jtag := rfl
@[simp] theorem setLine_descs (a1 a2) (s : State) : (setLine a1 a2 s).descs = s.descs := rfl
@[simp] theorem setLine_out (a1 a2) (s : State) : (setLine a1 a2 s).out = s.out := rfl
@[simp] theorem setLine_freeCtr (a1 a2) (s : State) : (setLine a1 a2 s).freeCtr = s.freeCtr := rfl
@[simp] theorem setLine_pending (a1 a2) (s : State) : (setLine a1 a2 s).pending = s.pending := rfl

/-! ### `setMailbox` -/

@[simp] theorem setMailbox_hw (a1 a2) (s : State) : (setMailbox a1 a2 s).hw = s.hw := rfl
@[simp] theorem setMailbox_ms (a1 a2) (s : State) : (setMailbox a1 a2 s).ms = s.ms := rfl
@[simp] theorem setMailbox_pins (a1 a2) (s : State) : (setMailbox a1 a2 s).pins = s.pins := rfl
@[simp] theorem setMailbox_clk (a1 a2) (s : State) : (setMailbox a1 a2 s).clk = s.clk := rfl
@[simp] theorem setMailbox_host (a1 a2) (s : State) : (setMailbox a1 a2 s).host = s.host := rfl
@[simp] theorem setMailbox_ft (a1 a2) (s : State) : (setMailbox a1 a2 s).ft = s.ft := rfl
@[simp] theorem setMailbox_wdog (a1 a2) (s : State) : (setMailbox a1 a2 s).wdog = s.wdog := rfl
@[simp] theorem setMailbox_claims (a1 a2) (s : State) : (setMailbox a1 a2 s).claims = s.claims := rfl
@[simp] theorem setMailbox_pwr (a1 a2) (s : State) : (setMailbox a1 a2 s).pwr = s.pwr := rfl
@[simp] theorem setMailbox_steer (a1 a2) (s : State) : (setMailbox a1 a2 s).steer = s.steer := rfl
@[simp] theorem setMailbox_link (a1 a2) (s : State) : (setMailbox a1 a2 s).link = s.link := rfl
@[simp] theorem setMailbox_adm (a1 a2) (s : State) : (setMailbox a1 a2 s).adm = s.adm := rfl
@[simp] theorem setMailbox_ember (a1 a2) (s : State) : (setMailbox a1 a2 s).ember = s.ember := rfl
@[simp] theorem setMailbox_yoke (a1 a2) (s : State) : (setMailbox a1 a2 s).yoke = s.yoke := rfl
@[simp] theorem setMailbox_lg (a1 a2) (s : State) : (setMailbox a1 a2 s).lg = s.lg := rfl
@[simp] theorem setMailbox_mem (a1 a2) (s : State) : (setMailbox a1 a2 s).mem = s.mem := rfl
@[simp] theorem setMailbox_cores (a1 a2) (s : State) : (setMailbox a1 a2 s).cores = s.cores := rfl
@[simp] theorem setMailbox_he (a1 a2) (s : State) : (setMailbox a1 a2 s).he = s.he := rfl
@[simp] theorem setMailbox_sync (a1 a2) (s : State) : (setMailbox a1 a2 s).sync = s.sync := rfl
@[simp] theorem setMailbox_guard (a1 a2) (s : State) : (setMailbox a1 a2 s).guard = s.guard := rfl
@[simp] theorem setMailbox_lag (a1 a2) (s : State) : (setMailbox a1 a2 s).lag = s.lag := rfl
@[simp] theorem setMailbox_streams (a1 a2) (s : State) : (setMailbox a1 a2 s).streams = s.streams := rfl
@[simp] theorem setMailbox_coll (a1 a2) (s : State) : (setMailbox a1 a2 s).coll = s.coll := rfl
@[simp] theorem setMailbox_duest (a1 a2) (s : State) : (setMailbox a1 a2 s).duest = s.duest := rfl
@[simp] theorem setMailbox_bringup (a1 a2) (s : State) : (setMailbox a1 a2 s).bringup = s.bringup := rfl
@[simp] theorem setMailbox_bist (a1 a2) (s : State) : (setMailbox a1 a2 s).bist = s.bist := rfl
@[simp] theorem setMailbox_jtag (a1 a2) (s : State) : (setMailbox a1 a2 s).jtag = s.jtag := rfl
@[simp] theorem setMailbox_descs (a1 a2) (s : State) : (setMailbox a1 a2 s).descs = s.descs := rfl
@[simp] theorem setMailbox_out (a1 a2) (s : State) : (setMailbox a1 a2 s).out = s.out := rfl
@[simp] theorem setMailbox_freeCtr (a1 a2) (s : State) : (setMailbox a1 a2 s).freeCtr = s.freeCtr := rfl
@[simp] theorem setMailbox_pending (a1 a2) (s : State) : (setMailbox a1 a2 s).pending = s.pending := rfl

/-! ### `setMsix` -/

@[simp] theorem setMsix_hw (a1 a2) (s : State) : (setMsix a1 a2 s).hw = s.hw := rfl
@[simp] theorem setMsix_ms (a1 a2) (s : State) : (setMsix a1 a2 s).ms = s.ms := rfl
@[simp] theorem setMsix_pins (a1 a2) (s : State) : (setMsix a1 a2 s).pins = s.pins := rfl
@[simp] theorem setMsix_clk (a1 a2) (s : State) : (setMsix a1 a2 s).clk = s.clk := rfl
@[simp] theorem setMsix_ft (a1 a2) (s : State) : (setMsix a1 a2 s).ft = s.ft := rfl
@[simp] theorem setMsix_wdog (a1 a2) (s : State) : (setMsix a1 a2 s).wdog = s.wdog := rfl
@[simp] theorem setMsix_claims (a1 a2) (s : State) : (setMsix a1 a2 s).claims = s.claims := rfl
@[simp] theorem setMsix_pwr (a1 a2) (s : State) : (setMsix a1 a2 s).pwr = s.pwr := rfl
@[simp] theorem setMsix_steer (a1 a2) (s : State) : (setMsix a1 a2 s).steer = s.steer := rfl
@[simp] theorem setMsix_link (a1 a2) (s : State) : (setMsix a1 a2 s).link = s.link := rfl
@[simp] theorem setMsix_adm (a1 a2) (s : State) : (setMsix a1 a2 s).adm = s.adm := rfl
@[simp] theorem setMsix_ember (a1 a2) (s : State) : (setMsix a1 a2 s).ember = s.ember := rfl
@[simp] theorem setMsix_yoke (a1 a2) (s : State) : (setMsix a1 a2 s).yoke = s.yoke := rfl
@[simp] theorem setMsix_lg (a1 a2) (s : State) : (setMsix a1 a2 s).lg = s.lg := rfl
@[simp] theorem setMsix_mem (a1 a2) (s : State) : (setMsix a1 a2 s).mem = s.mem := rfl
@[simp] theorem setMsix_cores (a1 a2) (s : State) : (setMsix a1 a2 s).cores = s.cores := rfl
@[simp] theorem setMsix_he (a1 a2) (s : State) : (setMsix a1 a2 s).he = s.he := rfl
@[simp] theorem setMsix_sync (a1 a2) (s : State) : (setMsix a1 a2 s).sync = s.sync := rfl
@[simp] theorem setMsix_guard (a1 a2) (s : State) : (setMsix a1 a2 s).guard = s.guard := rfl
@[simp] theorem setMsix_lag (a1 a2) (s : State) : (setMsix a1 a2 s).lag = s.lag := rfl
@[simp] theorem setMsix_streams (a1 a2) (s : State) : (setMsix a1 a2 s).streams = s.streams := rfl
@[simp] theorem setMsix_coll (a1 a2) (s : State) : (setMsix a1 a2 s).coll = s.coll := rfl
@[simp] theorem setMsix_duest (a1 a2) (s : State) : (setMsix a1 a2 s).duest = s.duest := rfl
@[simp] theorem setMsix_bringup (a1 a2) (s : State) : (setMsix a1 a2 s).bringup = s.bringup := rfl
@[simp] theorem setMsix_bist (a1 a2) (s : State) : (setMsix a1 a2 s).bist = s.bist := rfl
@[simp] theorem setMsix_trust (a1 a2) (s : State) : (setMsix a1 a2 s).trust = s.trust := rfl
@[simp] theorem setMsix_jtag (a1 a2) (s : State) : (setMsix a1 a2 s).jtag = s.jtag := rfl
@[simp] theorem setMsix_descs (a1 a2) (s : State) : (setMsix a1 a2 s).descs = s.descs := rfl
@[simp] theorem setMsix_out (a1 a2) (s : State) : (setMsix a1 a2 s).out = s.out := rfl
@[simp] theorem setMsix_freeCtr (a1 a2) (s : State) : (setMsix a1 a2 s).freeCtr = s.freeCtr := rfl
@[simp] theorem setMsix_pending (a1 a2) (s : State) : (setMsix a1 a2 s).pending = s.pending := rfl

/-! ### `setPath` -/

@[simp] theorem setPath_hw (a1 a2) (s : State) : (setPath a1 a2 s).hw = s.hw := rfl
@[simp] theorem setPath_ms (a1 a2) (s : State) : (setPath a1 a2 s).ms = s.ms := rfl
@[simp] theorem setPath_pins (a1 a2) (s : State) : (setPath a1 a2 s).pins = s.pins := rfl
@[simp] theorem setPath_clk (a1 a2) (s : State) : (setPath a1 a2 s).clk = s.clk := rfl
@[simp] theorem setPath_host (a1 a2) (s : State) : (setPath a1 a2 s).host = s.host := rfl
@[simp] theorem setPath_ft (a1 a2) (s : State) : (setPath a1 a2 s).ft = s.ft := rfl
@[simp] theorem setPath_wdog (a1 a2) (s : State) : (setPath a1 a2 s).wdog = s.wdog := rfl
@[simp] theorem setPath_claims (a1 a2) (s : State) : (setPath a1 a2 s).claims = s.claims := rfl
@[simp] theorem setPath_pwr (a1 a2) (s : State) : (setPath a1 a2 s).pwr = s.pwr := rfl
@[simp] theorem setPath_steer (a1 a2) (s : State) : (setPath a1 a2 s).steer = s.steer := rfl
@[simp] theorem setPath_adm (a1 a2) (s : State) : (setPath a1 a2 s).adm = s.adm := rfl
@[simp] theorem setPath_ember (a1 a2) (s : State) : (setPath a1 a2 s).ember = s.ember := rfl
@[simp] theorem setPath_yoke (a1 a2) (s : State) : (setPath a1 a2 s).yoke = s.yoke := rfl
@[simp] theorem setPath_lg (a1 a2) (s : State) : (setPath a1 a2 s).lg = s.lg := rfl
@[simp] theorem setPath_mem (a1 a2) (s : State) : (setPath a1 a2 s).mem = s.mem := rfl
@[simp] theorem setPath_cores (a1 a2) (s : State) : (setPath a1 a2 s).cores = s.cores := rfl
@[simp] theorem setPath_he (a1 a2) (s : State) : (setPath a1 a2 s).he = s.he := rfl
@[simp] theorem setPath_sync (a1 a2) (s : State) : (setPath a1 a2 s).sync = s.sync := rfl
@[simp] theorem setPath_guard (a1 a2) (s : State) : (setPath a1 a2 s).guard = s.guard := rfl
@[simp] theorem setPath_lag (a1 a2) (s : State) : (setPath a1 a2 s).lag = s.lag := rfl
@[simp] theorem setPath_streams (a1 a2) (s : State) : (setPath a1 a2 s).streams = s.streams := rfl
@[simp] theorem setPath_coll (a1 a2) (s : State) : (setPath a1 a2 s).coll = s.coll := rfl
@[simp] theorem setPath_duest (a1 a2) (s : State) : (setPath a1 a2 s).duest = s.duest := rfl
@[simp] theorem setPath_bringup (a1 a2) (s : State) : (setPath a1 a2 s).bringup = s.bringup := rfl
@[simp] theorem setPath_bist (a1 a2) (s : State) : (setPath a1 a2 s).bist = s.bist := rfl
@[simp] theorem setPath_trust (a1 a2) (s : State) : (setPath a1 a2 s).trust = s.trust := rfl
@[simp] theorem setPath_jtag (a1 a2) (s : State) : (setPath a1 a2 s).jtag = s.jtag := rfl
@[simp] theorem setPath_descs (a1 a2) (s : State) : (setPath a1 a2 s).descs = s.descs := rfl
@[simp] theorem setPath_out (a1 a2) (s : State) : (setPath a1 a2 s).out = s.out := rfl
@[simp] theorem setPath_freeCtr (a1 a2) (s : State) : (setPath a1 a2 s).freeCtr = s.freeCtr := rfl
@[simp] theorem setPath_pending (a1 a2) (s : State) : (setPath a1 a2 s).pending = s.pending := rfl

/-! ### `setPlan` -/

@[simp] theorem setPlan_hw (a1 a2) (s : State) : (setPlan a1 a2 s).hw = s.hw := rfl
@[simp] theorem setPlan_ms (a1 a2) (s : State) : (setPlan a1 a2 s).ms = s.ms := rfl
@[simp] theorem setPlan_pins (a1 a2) (s : State) : (setPlan a1 a2 s).pins = s.pins := rfl
@[simp] theorem setPlan_clk (a1 a2) (s : State) : (setPlan a1 a2 s).clk = s.clk := rfl
@[simp] theorem setPlan_host (a1 a2) (s : State) : (setPlan a1 a2 s).host = s.host := rfl
@[simp] theorem setPlan_wdog (a1 a2) (s : State) : (setPlan a1 a2 s).wdog = s.wdog := rfl
@[simp] theorem setPlan_claims (a1 a2) (s : State) : (setPlan a1 a2 s).claims = s.claims := rfl
@[simp] theorem setPlan_pwr (a1 a2) (s : State) : (setPlan a1 a2 s).pwr = s.pwr := rfl
@[simp] theorem setPlan_steer (a1 a2) (s : State) : (setPlan a1 a2 s).steer = s.steer := rfl
@[simp] theorem setPlan_link (a1 a2) (s : State) : (setPlan a1 a2 s).link = s.link := rfl
@[simp] theorem setPlan_adm (a1 a2) (s : State) : (setPlan a1 a2 s).adm = s.adm := rfl
@[simp] theorem setPlan_ember (a1 a2) (s : State) : (setPlan a1 a2 s).ember = s.ember := rfl
@[simp] theorem setPlan_yoke (a1 a2) (s : State) : (setPlan a1 a2 s).yoke = s.yoke := rfl
@[simp] theorem setPlan_lg (a1 a2) (s : State) : (setPlan a1 a2 s).lg = s.lg := rfl
@[simp] theorem setPlan_mem (a1 a2) (s : State) : (setPlan a1 a2 s).mem = s.mem := rfl
@[simp] theorem setPlan_cores (a1 a2) (s : State) : (setPlan a1 a2 s).cores = s.cores := rfl
@[simp] theorem setPlan_he (a1 a2) (s : State) : (setPlan a1 a2 s).he = s.he := rfl
@[simp] theorem setPlan_sync (a1 a2) (s : State) : (setPlan a1 a2 s).sync = s.sync := rfl
@[simp] theorem setPlan_guard (a1 a2) (s : State) : (setPlan a1 a2 s).guard = s.guard := rfl
@[simp] theorem setPlan_lag (a1 a2) (s : State) : (setPlan a1 a2 s).lag = s.lag := rfl
@[simp] theorem setPlan_streams (a1 a2) (s : State) : (setPlan a1 a2 s).streams = s.streams := rfl
@[simp] theorem setPlan_coll (a1 a2) (s : State) : (setPlan a1 a2 s).coll = s.coll := rfl
@[simp] theorem setPlan_duest (a1 a2) (s : State) : (setPlan a1 a2 s).duest = s.duest := rfl
@[simp] theorem setPlan_bringup (a1 a2) (s : State) : (setPlan a1 a2 s).bringup = s.bringup := rfl
@[simp] theorem setPlan_bist (a1 a2) (s : State) : (setPlan a1 a2 s).bist = s.bist := rfl
@[simp] theorem setPlan_trust (a1 a2) (s : State) : (setPlan a1 a2 s).trust = s.trust := rfl
@[simp] theorem setPlan_jtag (a1 a2) (s : State) : (setPlan a1 a2 s).jtag = s.jtag := rfl
@[simp] theorem setPlan_descs (a1 a2) (s : State) : (setPlan a1 a2 s).descs = s.descs := rfl
@[simp] theorem setPlan_out (a1 a2) (s : State) : (setPlan a1 a2 s).out = s.out := rfl
@[simp] theorem setPlan_freeCtr (a1 a2) (s : State) : (setPlan a1 a2 s).freeCtr = s.freeCtr := rfl
@[simp] theorem setPlan_pending (a1 a2) (s : State) : (setPlan a1 a2 s).pending = s.pending := rfl

/-! ### `setPoll` -/

@[simp] theorem setPoll_hw (a1) (s : State) : (setPoll a1 s).hw = s.hw := rfl
@[simp] theorem setPoll_ms (a1) (s : State) : (setPoll a1 s).ms = s.ms := rfl
@[simp] theorem setPoll_pins (a1) (s : State) : (setPoll a1 s).pins = s.pins := rfl
@[simp] theorem setPoll_clk (a1) (s : State) : (setPoll a1 s).clk = s.clk := rfl
@[simp] theorem setPoll_ft (a1) (s : State) : (setPoll a1 s).ft = s.ft := rfl
@[simp] theorem setPoll_wdog (a1) (s : State) : (setPoll a1 s).wdog = s.wdog := rfl
@[simp] theorem setPoll_claims (a1) (s : State) : (setPoll a1 s).claims = s.claims := rfl
@[simp] theorem setPoll_pwr (a1) (s : State) : (setPoll a1 s).pwr = s.pwr := rfl
@[simp] theorem setPoll_steer (a1) (s : State) : (setPoll a1 s).steer = s.steer := rfl
@[simp] theorem setPoll_link (a1) (s : State) : (setPoll a1 s).link = s.link := rfl
@[simp] theorem setPoll_adm (a1) (s : State) : (setPoll a1 s).adm = s.adm := rfl
@[simp] theorem setPoll_ember (a1) (s : State) : (setPoll a1 s).ember = s.ember := rfl
@[simp] theorem setPoll_yoke (a1) (s : State) : (setPoll a1 s).yoke = s.yoke := rfl
@[simp] theorem setPoll_lg (a1) (s : State) : (setPoll a1 s).lg = s.lg := rfl
@[simp] theorem setPoll_mem (a1) (s : State) : (setPoll a1 s).mem = s.mem := rfl
@[simp] theorem setPoll_cores (a1) (s : State) : (setPoll a1 s).cores = s.cores := rfl
@[simp] theorem setPoll_he (a1) (s : State) : (setPoll a1 s).he = s.he := rfl
@[simp] theorem setPoll_sync (a1) (s : State) : (setPoll a1 s).sync = s.sync := rfl
@[simp] theorem setPoll_guard (a1) (s : State) : (setPoll a1 s).guard = s.guard := rfl
@[simp] theorem setPoll_lag (a1) (s : State) : (setPoll a1 s).lag = s.lag := rfl
@[simp] theorem setPoll_streams (a1) (s : State) : (setPoll a1 s).streams = s.streams := rfl
@[simp] theorem setPoll_coll (a1) (s : State) : (setPoll a1 s).coll = s.coll := rfl
@[simp] theorem setPoll_duest (a1) (s : State) : (setPoll a1 s).duest = s.duest := rfl
@[simp] theorem setPoll_bringup (a1) (s : State) : (setPoll a1 s).bringup = s.bringup := rfl
@[simp] theorem setPoll_bist (a1) (s : State) : (setPoll a1 s).bist = s.bist := rfl
@[simp] theorem setPoll_trust (a1) (s : State) : (setPoll a1 s).trust = s.trust := rfl
@[simp] theorem setPoll_jtag (a1) (s : State) : (setPoll a1 s).jtag = s.jtag := rfl
@[simp] theorem setPoll_descs (a1) (s : State) : (setPoll a1 s).descs = s.descs := rfl
@[simp] theorem setPoll_out (a1) (s : State) : (setPoll a1 s).out = s.out := rfl
@[simp] theorem setPoll_freeCtr (a1) (s : State) : (setPoll a1 s).freeCtr = s.freeCtr := rfl
@[simp] theorem setPoll_pending (a1) (s : State) : (setPoll a1 s).pending = s.pending := rfl

/-! ### `setPoolCh` -/

@[simp] theorem setPoolCh_hw (a1 a2) (s : State) : (setPoolCh a1 a2 s).hw = s.hw := rfl
@[simp] theorem setPoolCh_ms (a1 a2) (s : State) : (setPoolCh a1 a2 s).ms = s.ms := rfl
@[simp] theorem setPoolCh_pins (a1 a2) (s : State) : (setPoolCh a1 a2 s).pins = s.pins := rfl
@[simp] theorem setPoolCh_clk (a1 a2) (s : State) : (setPoolCh a1 a2 s).clk = s.clk := rfl
@[simp] theorem setPoolCh_host (a1 a2) (s : State) : (setPoolCh a1 a2 s).host = s.host := rfl
@[simp] theorem setPoolCh_ft (a1 a2) (s : State) : (setPoolCh a1 a2 s).ft = s.ft := rfl
@[simp] theorem setPoolCh_wdog (a1 a2) (s : State) : (setPoolCh a1 a2 s).wdog = s.wdog := rfl
@[simp] theorem setPoolCh_claims (a1 a2) (s : State) : (setPoolCh a1 a2 s).claims = s.claims := rfl
@[simp] theorem setPoolCh_pwr (a1 a2) (s : State) : (setPoolCh a1 a2 s).pwr = s.pwr := rfl
@[simp] theorem setPoolCh_steer (a1 a2) (s : State) : (setPoolCh a1 a2 s).steer = s.steer := rfl
@[simp] theorem setPoolCh_adm (a1 a2) (s : State) : (setPoolCh a1 a2 s).adm = s.adm := rfl
@[simp] theorem setPoolCh_ember (a1 a2) (s : State) : (setPoolCh a1 a2 s).ember = s.ember := rfl
@[simp] theorem setPoolCh_yoke (a1 a2) (s : State) : (setPoolCh a1 a2 s).yoke = s.yoke := rfl
@[simp] theorem setPoolCh_lg (a1 a2) (s : State) : (setPoolCh a1 a2 s).lg = s.lg := rfl
@[simp] theorem setPoolCh_mem (a1 a2) (s : State) : (setPoolCh a1 a2 s).mem = s.mem := rfl
@[simp] theorem setPoolCh_cores (a1 a2) (s : State) : (setPoolCh a1 a2 s).cores = s.cores := rfl
@[simp] theorem setPoolCh_he (a1 a2) (s : State) : (setPoolCh a1 a2 s).he = s.he := rfl
@[simp] theorem setPoolCh_sync (a1 a2) (s : State) : (setPoolCh a1 a2 s).sync = s.sync := rfl
@[simp] theorem setPoolCh_guard (a1 a2) (s : State) : (setPoolCh a1 a2 s).guard = s.guard := rfl
@[simp] theorem setPoolCh_lag (a1 a2) (s : State) : (setPoolCh a1 a2 s).lag = s.lag := rfl
@[simp] theorem setPoolCh_streams (a1 a2) (s : State) : (setPoolCh a1 a2 s).streams = s.streams := rfl
@[simp] theorem setPoolCh_coll (a1 a2) (s : State) : (setPoolCh a1 a2 s).coll = s.coll := rfl
@[simp] theorem setPoolCh_duest (a1 a2) (s : State) : (setPoolCh a1 a2 s).duest = s.duest := rfl
@[simp] theorem setPoolCh_bringup (a1 a2) (s : State) : (setPoolCh a1 a2 s).bringup = s.bringup := rfl
@[simp] theorem setPoolCh_bist (a1 a2) (s : State) : (setPoolCh a1 a2 s).bist = s.bist := rfl
@[simp] theorem setPoolCh_trust (a1 a2) (s : State) : (setPoolCh a1 a2 s).trust = s.trust := rfl
@[simp] theorem setPoolCh_jtag (a1 a2) (s : State) : (setPoolCh a1 a2 s).jtag = s.jtag := rfl
@[simp] theorem setPoolCh_descs (a1 a2) (s : State) : (setPoolCh a1 a2 s).descs = s.descs := rfl
@[simp] theorem setPoolCh_out (a1 a2) (s : State) : (setPoolCh a1 a2 s).out = s.out := rfl
@[simp] theorem setPoolCh_freeCtr (a1 a2) (s : State) : (setPoolCh a1 a2 s).freeCtr = s.freeCtr := rfl
@[simp] theorem setPoolCh_pending (a1 a2) (s : State) : (setPoolCh a1 a2 s).pending = s.pending := rfl

/-! ### `setPort` -/

@[simp] theorem setPort_hw (a1 a2) (s : State) : (setPort a1 a2 s).hw = s.hw := rfl
@[simp] theorem setPort_ms (a1 a2) (s : State) : (setPort a1 a2 s).ms = s.ms := rfl
@[simp] theorem setPort_pins (a1 a2) (s : State) : (setPort a1 a2 s).pins = s.pins := rfl
@[simp] theorem setPort_clk (a1 a2) (s : State) : (setPort a1 a2 s).clk = s.clk := rfl
@[simp] theorem setPort_host (a1 a2) (s : State) : (setPort a1 a2 s).host = s.host := rfl
@[simp] theorem setPort_ft (a1 a2) (s : State) : (setPort a1 a2 s).ft = s.ft := rfl
@[simp] theorem setPort_wdog (a1 a2) (s : State) : (setPort a1 a2 s).wdog = s.wdog := rfl
@[simp] theorem setPort_claims (a1 a2) (s : State) : (setPort a1 a2 s).claims = s.claims := rfl
@[simp] theorem setPort_pwr (a1 a2) (s : State) : (setPort a1 a2 s).pwr = s.pwr := rfl
@[simp] theorem setPort_steer (a1 a2) (s : State) : (setPort a1 a2 s).steer = s.steer := rfl
@[simp] theorem setPort_adm (a1 a2) (s : State) : (setPort a1 a2 s).adm = s.adm := rfl
@[simp] theorem setPort_ember (a1 a2) (s : State) : (setPort a1 a2 s).ember = s.ember := rfl
@[simp] theorem setPort_yoke (a1 a2) (s : State) : (setPort a1 a2 s).yoke = s.yoke := rfl
@[simp] theorem setPort_lg (a1 a2) (s : State) : (setPort a1 a2 s).lg = s.lg := rfl
@[simp] theorem setPort_mem (a1 a2) (s : State) : (setPort a1 a2 s).mem = s.mem := rfl
@[simp] theorem setPort_cores (a1 a2) (s : State) : (setPort a1 a2 s).cores = s.cores := rfl
@[simp] theorem setPort_he (a1 a2) (s : State) : (setPort a1 a2 s).he = s.he := rfl
@[simp] theorem setPort_sync (a1 a2) (s : State) : (setPort a1 a2 s).sync = s.sync := rfl
@[simp] theorem setPort_guard (a1 a2) (s : State) : (setPort a1 a2 s).guard = s.guard := rfl
@[simp] theorem setPort_lag (a1 a2) (s : State) : (setPort a1 a2 s).lag = s.lag := rfl
@[simp] theorem setPort_streams (a1 a2) (s : State) : (setPort a1 a2 s).streams = s.streams := rfl
@[simp] theorem setPort_coll (a1 a2) (s : State) : (setPort a1 a2 s).coll = s.coll := rfl
@[simp] theorem setPort_duest (a1 a2) (s : State) : (setPort a1 a2 s).duest = s.duest := rfl
@[simp] theorem setPort_bringup (a1 a2) (s : State) : (setPort a1 a2 s).bringup = s.bringup := rfl
@[simp] theorem setPort_bist (a1 a2) (s : State) : (setPort a1 a2 s).bist = s.bist := rfl
@[simp] theorem setPort_trust (a1 a2) (s : State) : (setPort a1 a2 s).trust = s.trust := rfl
@[simp] theorem setPort_jtag (a1 a2) (s : State) : (setPort a1 a2 s).jtag = s.jtag := rfl
@[simp] theorem setPort_descs (a1 a2) (s : State) : (setPort a1 a2 s).descs = s.descs := rfl
@[simp] theorem setPort_out (a1 a2) (s : State) : (setPort a1 a2 s).out = s.out := rfl
@[simp] theorem setPort_freeCtr (a1 a2) (s : State) : (setPort a1 a2 s).freeCtr = s.freeCtr := rfl
@[simp] theorem setPort_pending (a1 a2) (s : State) : (setPort a1 a2 s).pending = s.pending := rfl

/-! ### `setPwr` -/

@[simp] theorem setPwr_hw (a1) (s : State) : (setPwr a1 s).hw = s.hw := rfl
@[simp] theorem setPwr_ms (a1) (s : State) : (setPwr a1 s).ms = s.ms := rfl
@[simp] theorem setPwr_pins (a1) (s : State) : (setPwr a1 s).pins = s.pins := rfl
@[simp] theorem setPwr_clk (a1) (s : State) : (setPwr a1 s).clk = s.clk := rfl
@[simp] theorem setPwr_host (a1) (s : State) : (setPwr a1 s).host = s.host := rfl
@[simp] theorem setPwr_ft (a1) (s : State) : (setPwr a1 s).ft = s.ft := rfl
@[simp] theorem setPwr_wdog (a1) (s : State) : (setPwr a1 s).wdog = s.wdog := rfl
@[simp] theorem setPwr_claims (a1) (s : State) : (setPwr a1 s).claims = s.claims := rfl
@[simp] theorem setPwr_steer (a1) (s : State) : (setPwr a1 s).steer = s.steer := rfl
@[simp] theorem setPwr_link (a1) (s : State) : (setPwr a1 s).link = s.link := rfl
@[simp] theorem setPwr_adm (a1) (s : State) : (setPwr a1 s).adm = s.adm := rfl
@[simp] theorem setPwr_ember (a1) (s : State) : (setPwr a1 s).ember = s.ember := rfl
@[simp] theorem setPwr_yoke (a1) (s : State) : (setPwr a1 s).yoke = s.yoke := rfl
@[simp] theorem setPwr_lg (a1) (s : State) : (setPwr a1 s).lg = s.lg := rfl
@[simp] theorem setPwr_mem (a1) (s : State) : (setPwr a1 s).mem = s.mem := rfl
@[simp] theorem setPwr_cores (a1) (s : State) : (setPwr a1 s).cores = s.cores := rfl
@[simp] theorem setPwr_he (a1) (s : State) : (setPwr a1 s).he = s.he := rfl
@[simp] theorem setPwr_sync (a1) (s : State) : (setPwr a1 s).sync = s.sync := rfl
@[simp] theorem setPwr_guard (a1) (s : State) : (setPwr a1 s).guard = s.guard := rfl
@[simp] theorem setPwr_lag (a1) (s : State) : (setPwr a1 s).lag = s.lag := rfl
@[simp] theorem setPwr_streams (a1) (s : State) : (setPwr a1 s).streams = s.streams := rfl
@[simp] theorem setPwr_coll (a1) (s : State) : (setPwr a1 s).coll = s.coll := rfl
@[simp] theorem setPwr_duest (a1) (s : State) : (setPwr a1 s).duest = s.duest := rfl
@[simp] theorem setPwr_bringup (a1) (s : State) : (setPwr a1 s).bringup = s.bringup := rfl
@[simp] theorem setPwr_bist (a1) (s : State) : (setPwr a1 s).bist = s.bist := rfl
@[simp] theorem setPwr_trust (a1) (s : State) : (setPwr a1 s).trust = s.trust := rfl
@[simp] theorem setPwr_jtag (a1) (s : State) : (setPwr a1 s).jtag = s.jtag := rfl
@[simp] theorem setPwr_descs (a1) (s : State) : (setPwr a1 s).descs = s.descs := rfl
@[simp] theorem setPwr_out (a1) (s : State) : (setPwr a1 s).out = s.out := rfl
@[simp] theorem setPwr_freeCtr (a1) (s : State) : (setPwr a1 s).freeCtr = s.freeCtr := rfl
@[simp] theorem setPwr_pending (a1) (s : State) : (setPwr a1 s).pending = s.pending := rfl

/-! ### `setPwrDie` -/

@[simp] theorem setPwrDie_hw (a1 a2) (s : State) : (setPwrDie a1 a2 s).hw = s.hw := rfl
@[simp] theorem setPwrDie_ms (a1 a2) (s : State) : (setPwrDie a1 a2 s).ms = s.ms := rfl
@[simp] theorem setPwrDie_pins (a1 a2) (s : State) : (setPwrDie a1 a2 s).pins = s.pins := rfl
@[simp] theorem setPwrDie_clk (a1 a2) (s : State) : (setPwrDie a1 a2 s).clk = s.clk := rfl
@[simp] theorem setPwrDie_host (a1 a2) (s : State) : (setPwrDie a1 a2 s).host = s.host := rfl
@[simp] theorem setPwrDie_ft (a1 a2) (s : State) : (setPwrDie a1 a2 s).ft = s.ft := rfl
@[simp] theorem setPwrDie_wdog (a1 a2) (s : State) : (setPwrDie a1 a2 s).wdog = s.wdog := rfl
@[simp] theorem setPwrDie_claims (a1 a2) (s : State) : (setPwrDie a1 a2 s).claims = s.claims := rfl
@[simp] theorem setPwrDie_steer (a1 a2) (s : State) : (setPwrDie a1 a2 s).steer = s.steer := rfl
@[simp] theorem setPwrDie_link (a1 a2) (s : State) : (setPwrDie a1 a2 s).link = s.link := rfl
@[simp] theorem setPwrDie_adm (a1 a2) (s : State) : (setPwrDie a1 a2 s).adm = s.adm := rfl
@[simp] theorem setPwrDie_ember (a1 a2) (s : State) : (setPwrDie a1 a2 s).ember = s.ember := rfl
@[simp] theorem setPwrDie_yoke (a1 a2) (s : State) : (setPwrDie a1 a2 s).yoke = s.yoke := rfl
@[simp] theorem setPwrDie_lg (a1 a2) (s : State) : (setPwrDie a1 a2 s).lg = s.lg := rfl
@[simp] theorem setPwrDie_mem (a1 a2) (s : State) : (setPwrDie a1 a2 s).mem = s.mem := rfl
@[simp] theorem setPwrDie_cores (a1 a2) (s : State) : (setPwrDie a1 a2 s).cores = s.cores := rfl
@[simp] theorem setPwrDie_he (a1 a2) (s : State) : (setPwrDie a1 a2 s).he = s.he := rfl
@[simp] theorem setPwrDie_sync (a1 a2) (s : State) : (setPwrDie a1 a2 s).sync = s.sync := rfl
@[simp] theorem setPwrDie_guard (a1 a2) (s : State) : (setPwrDie a1 a2 s).guard = s.guard := rfl
@[simp] theorem setPwrDie_lag (a1 a2) (s : State) : (setPwrDie a1 a2 s).lag = s.lag := rfl
@[simp] theorem setPwrDie_streams (a1 a2) (s : State) : (setPwrDie a1 a2 s).streams = s.streams := rfl
@[simp] theorem setPwrDie_coll (a1 a2) (s : State) : (setPwrDie a1 a2 s).coll = s.coll := rfl
@[simp] theorem setPwrDie_duest (a1 a2) (s : State) : (setPwrDie a1 a2 s).duest = s.duest := rfl
@[simp] theorem setPwrDie_bringup (a1 a2) (s : State) : (setPwrDie a1 a2 s).bringup = s.bringup := rfl
@[simp] theorem setPwrDie_bist (a1 a2) (s : State) : (setPwrDie a1 a2 s).bist = s.bist := rfl
@[simp] theorem setPwrDie_trust (a1 a2) (s : State) : (setPwrDie a1 a2 s).trust = s.trust := rfl
@[simp] theorem setPwrDie_jtag (a1 a2) (s : State) : (setPwrDie a1 a2 s).jtag = s.jtag := rfl
@[simp] theorem setPwrDie_descs (a1 a2) (s : State) : (setPwrDie a1 a2 s).descs = s.descs := rfl
@[simp] theorem setPwrDie_out (a1 a2) (s : State) : (setPwrDie a1 a2 s).out = s.out := rfl
@[simp] theorem setPwrDie_freeCtr (a1 a2) (s : State) : (setPwrDie a1 a2 s).freeCtr = s.freeCtr := rfl
@[simp] theorem setPwrDie_pending (a1 a2) (s : State) : (setPwrDie a1 a2 s).pending = s.pending := rfl

/-! ### `setRaw` -/

@[simp] theorem setRaw_hw (a1 a2) (s : State) : (setRaw a1 a2 s).hw = s.hw := rfl
@[simp] theorem setRaw_ms (a1 a2) (s : State) : (setRaw a1 a2 s).ms = s.ms := rfl
@[simp] theorem setRaw_pins (a1 a2) (s : State) : (setRaw a1 a2 s).pins = s.pins := rfl
@[simp] theorem setRaw_clk (a1 a2) (s : State) : (setRaw a1 a2 s).clk = s.clk := rfl
@[simp] theorem setRaw_host (a1 a2) (s : State) : (setRaw a1 a2 s).host = s.host := rfl
@[simp] theorem setRaw_ft (a1 a2) (s : State) : (setRaw a1 a2 s).ft = s.ft := rfl
@[simp] theorem setRaw_wdog (a1 a2) (s : State) : (setRaw a1 a2 s).wdog = s.wdog := rfl
@[simp] theorem setRaw_claims (a1 a2) (s : State) : (setRaw a1 a2 s).claims = s.claims := rfl
@[simp] theorem setRaw_pwr (a1 a2) (s : State) : (setRaw a1 a2 s).pwr = s.pwr := rfl
@[simp] theorem setRaw_steer (a1 a2) (s : State) : (setRaw a1 a2 s).steer = s.steer := rfl
@[simp] theorem setRaw_link (a1 a2) (s : State) : (setRaw a1 a2 s).link = s.link := rfl
@[simp] theorem setRaw_adm (a1 a2) (s : State) : (setRaw a1 a2 s).adm = s.adm := rfl
@[simp] theorem setRaw_ember (a1 a2) (s : State) : (setRaw a1 a2 s).ember = s.ember := rfl
@[simp] theorem setRaw_yoke (a1 a2) (s : State) : (setRaw a1 a2 s).yoke = s.yoke := rfl
@[simp] theorem setRaw_lg (a1 a2) (s : State) : (setRaw a1 a2 s).lg = s.lg := rfl
@[simp] theorem setRaw_mem (a1 a2) (s : State) : (setRaw a1 a2 s).mem = s.mem := rfl
@[simp] theorem setRaw_cores (a1 a2) (s : State) : (setRaw a1 a2 s).cores = s.cores := rfl
@[simp] theorem setRaw_he (a1 a2) (s : State) : (setRaw a1 a2 s).he = s.he := rfl
@[simp] theorem setRaw_sync (a1 a2) (s : State) : (setRaw a1 a2 s).sync = s.sync := rfl
@[simp] theorem setRaw_guard (a1 a2) (s : State) : (setRaw a1 a2 s).guard = s.guard := rfl
@[simp] theorem setRaw_lag (a1 a2) (s : State) : (setRaw a1 a2 s).lag = s.lag := rfl
@[simp] theorem setRaw_coll (a1 a2) (s : State) : (setRaw a1 a2 s).coll = s.coll := rfl
@[simp] theorem setRaw_duest (a1 a2) (s : State) : (setRaw a1 a2 s).duest = s.duest := rfl
@[simp] theorem setRaw_bringup (a1 a2) (s : State) : (setRaw a1 a2 s).bringup = s.bringup := rfl
@[simp] theorem setRaw_bist (a1 a2) (s : State) : (setRaw a1 a2 s).bist = s.bist := rfl
@[simp] theorem setRaw_trust (a1 a2) (s : State) : (setRaw a1 a2 s).trust = s.trust := rfl
@[simp] theorem setRaw_jtag (a1 a2) (s : State) : (setRaw a1 a2 s).jtag = s.jtag := rfl
@[simp] theorem setRaw_descs (a1 a2) (s : State) : (setRaw a1 a2 s).descs = s.descs := rfl
@[simp] theorem setRaw_out (a1 a2) (s : State) : (setRaw a1 a2 s).out = s.out := rfl
@[simp] theorem setRaw_freeCtr (a1 a2) (s : State) : (setRaw a1 a2 s).freeCtr = s.freeCtr := rfl
@[simp] theorem setRaw_pending (a1 a2) (s : State) : (setRaw a1 a2 s).pending = s.pending := rfl

/-! ### `setRun` -/

@[simp] theorem setRun_hw (a1) (s : State) : (setRun a1 s).hw = s.hw := rfl
@[simp] theorem setRun_ms (a1) (s : State) : (setRun a1 s).ms = s.ms := rfl
@[simp] theorem setRun_pins (a1) (s : State) : (setRun a1 s).pins = s.pins := rfl
@[simp] theorem setRun_clk (a1) (s : State) : (setRun a1 s).clk = s.clk := rfl
@[simp] theorem setRun_host (a1) (s : State) : (setRun a1 s).host = s.host := rfl
@[simp] theorem setRun_ft (a1) (s : State) : (setRun a1 s).ft = s.ft := rfl
@[simp] theorem setRun_wdog (a1) (s : State) : (setRun a1 s).wdog = s.wdog := rfl
@[simp] theorem setRun_claims (a1) (s : State) : (setRun a1 s).claims = s.claims := rfl
@[simp] theorem setRun_pwr (a1) (s : State) : (setRun a1 s).pwr = s.pwr := rfl
@[simp] theorem setRun_steer (a1) (s : State) : (setRun a1 s).steer = s.steer := rfl
@[simp] theorem setRun_link (a1) (s : State) : (setRun a1 s).link = s.link := rfl
@[simp] theorem setRun_adm (a1) (s : State) : (setRun a1 s).adm = s.adm := rfl
@[simp] theorem setRun_ember (a1) (s : State) : (setRun a1 s).ember = s.ember := rfl
@[simp] theorem setRun_yoke (a1) (s : State) : (setRun a1 s).yoke = s.yoke := rfl
@[simp] theorem setRun_lg (a1) (s : State) : (setRun a1 s).lg = s.lg := rfl
@[simp] theorem setRun_mem (a1) (s : State) : (setRun a1 s).mem = s.mem := rfl
@[simp] theorem setRun_cores (a1) (s : State) : (setRun a1 s).cores = s.cores := rfl
@[simp] theorem setRun_he (a1) (s : State) : (setRun a1 s).he = s.he := rfl
@[simp] theorem setRun_sync (a1) (s : State) : (setRun a1 s).sync = s.sync := rfl
@[simp] theorem setRun_guard (a1) (s : State) : (setRun a1 s).guard = s.guard := rfl
@[simp] theorem setRun_lag (a1) (s : State) : (setRun a1 s).lag = s.lag := rfl
@[simp] theorem setRun_streams (a1) (s : State) : (setRun a1 s).streams = s.streams := rfl
@[simp] theorem setRun_duest (a1) (s : State) : (setRun a1 s).duest = s.duest := rfl
@[simp] theorem setRun_bringup (a1) (s : State) : (setRun a1 s).bringup = s.bringup := rfl
@[simp] theorem setRun_bist (a1) (s : State) : (setRun a1 s).bist = s.bist := rfl
@[simp] theorem setRun_trust (a1) (s : State) : (setRun a1 s).trust = s.trust := rfl
@[simp] theorem setRun_jtag (a1) (s : State) : (setRun a1 s).jtag = s.jtag := rfl
@[simp] theorem setRun_descs (a1) (s : State) : (setRun a1 s).descs = s.descs := rfl
@[simp] theorem setRun_out (a1) (s : State) : (setRun a1 s).out = s.out := rfl
@[simp] theorem setRun_freeCtr (a1) (s : State) : (setRun a1 s).freeCtr = s.freeCtr := rfl
@[simp] theorem setRun_pending (a1) (s : State) : (setRun a1 s).pending = s.pending := rfl

/-! ### `setShared` -/

@[simp] theorem setShared_hw (a1) (s : State) : (setShared a1 s).hw = s.hw := rfl
@[simp] theorem setShared_ms (a1) (s : State) : (setShared a1 s).ms = s.ms := rfl
@[simp] theorem setShared_pins (a1) (s : State) : (setShared a1 s).pins = s.pins := rfl
@[simp] theorem setShared_clk (a1) (s : State) : (setShared a1 s).clk = s.clk := rfl
@[simp] theorem setShared_host (a1) (s : State) : (setShared a1 s).host = s.host := rfl
@[simp] theorem setShared_ft (a1) (s : State) : (setShared a1 s).ft = s.ft := rfl
@[simp] theorem setShared_wdog (a1) (s : State) : (setShared a1 s).wdog = s.wdog := rfl
@[simp] theorem setShared_claims (a1) (s : State) : (setShared a1 s).claims = s.claims := rfl
@[simp] theorem setShared_pwr (a1) (s : State) : (setShared a1 s).pwr = s.pwr := rfl
@[simp] theorem setShared_steer (a1) (s : State) : (setShared a1 s).steer = s.steer := rfl
@[simp] theorem setShared_adm (a1) (s : State) : (setShared a1 s).adm = s.adm := rfl
@[simp] theorem setShared_ember (a1) (s : State) : (setShared a1 s).ember = s.ember := rfl
@[simp] theorem setShared_yoke (a1) (s : State) : (setShared a1 s).yoke = s.yoke := rfl
@[simp] theorem setShared_lg (a1) (s : State) : (setShared a1 s).lg = s.lg := rfl
@[simp] theorem setShared_mem (a1) (s : State) : (setShared a1 s).mem = s.mem := rfl
@[simp] theorem setShared_cores (a1) (s : State) : (setShared a1 s).cores = s.cores := rfl
@[simp] theorem setShared_he (a1) (s : State) : (setShared a1 s).he = s.he := rfl
@[simp] theorem setShared_sync (a1) (s : State) : (setShared a1 s).sync = s.sync := rfl
@[simp] theorem setShared_guard (a1) (s : State) : (setShared a1 s).guard = s.guard := rfl
@[simp] theorem setShared_lag (a1) (s : State) : (setShared a1 s).lag = s.lag := rfl
@[simp] theorem setShared_streams (a1) (s : State) : (setShared a1 s).streams = s.streams := rfl
@[simp] theorem setShared_coll (a1) (s : State) : (setShared a1 s).coll = s.coll := rfl
@[simp] theorem setShared_duest (a1) (s : State) : (setShared a1 s).duest = s.duest := rfl
@[simp] theorem setShared_bringup (a1) (s : State) : (setShared a1 s).bringup = s.bringup := rfl
@[simp] theorem setShared_bist (a1) (s : State) : (setShared a1 s).bist = s.bist := rfl
@[simp] theorem setShared_trust (a1) (s : State) : (setShared a1 s).trust = s.trust := rfl
@[simp] theorem setShared_jtag (a1) (s : State) : (setShared a1 s).jtag = s.jtag := rfl
@[simp] theorem setShared_descs (a1) (s : State) : (setShared a1 s).descs = s.descs := rfl
@[simp] theorem setShared_out (a1) (s : State) : (setShared a1 s).out = s.out := rfl
@[simp] theorem setShared_freeCtr (a1) (s : State) : (setShared a1 s).freeCtr = s.freeCtr := rfl
@[simp] theorem setShared_pending (a1) (s : State) : (setShared a1 s).pending = s.pending := rfl

/-! ### `setSqRx` -/

@[simp] theorem setSqRx_hw (a1 a2) (s : State) : (setSqRx a1 a2 s).hw = s.hw := rfl
@[simp] theorem setSqRx_ms (a1 a2) (s : State) : (setSqRx a1 a2 s).ms = s.ms := rfl
@[simp] theorem setSqRx_pins (a1 a2) (s : State) : (setSqRx a1 a2 s).pins = s.pins := rfl
@[simp] theorem setSqRx_clk (a1 a2) (s : State) : (setSqRx a1 a2 s).clk = s.clk := rfl
@[simp] theorem setSqRx_host (a1 a2) (s : State) : (setSqRx a1 a2 s).host = s.host := rfl
@[simp] theorem setSqRx_ft (a1 a2) (s : State) : (setSqRx a1 a2 s).ft = s.ft := rfl
@[simp] theorem setSqRx_wdog (a1 a2) (s : State) : (setSqRx a1 a2 s).wdog = s.wdog := rfl
@[simp] theorem setSqRx_claims (a1 a2) (s : State) : (setSqRx a1 a2 s).claims = s.claims := rfl
@[simp] theorem setSqRx_pwr (a1 a2) (s : State) : (setSqRx a1 a2 s).pwr = s.pwr := rfl
@[simp] theorem setSqRx_steer (a1 a2) (s : State) : (setSqRx a1 a2 s).steer = s.steer := rfl
@[simp] theorem setSqRx_link (a1 a2) (s : State) : (setSqRx a1 a2 s).link = s.link := rfl
@[simp] theorem setSqRx_adm (a1 a2) (s : State) : (setSqRx a1 a2 s).adm = s.adm := rfl
@[simp] theorem setSqRx_ember (a1 a2) (s : State) : (setSqRx a1 a2 s).ember = s.ember := rfl
@[simp] theorem setSqRx_yoke (a1 a2) (s : State) : (setSqRx a1 a2 s).yoke = s.yoke := rfl
@[simp] theorem setSqRx_lg (a1 a2) (s : State) : (setSqRx a1 a2 s).lg = s.lg := rfl
@[simp] theorem setSqRx_mem (a1 a2) (s : State) : (setSqRx a1 a2 s).mem = s.mem := rfl
@[simp] theorem setSqRx_cores (a1 a2) (s : State) : (setSqRx a1 a2 s).cores = s.cores := rfl
@[simp] theorem setSqRx_he (a1 a2) (s : State) : (setSqRx a1 a2 s).he = s.he := rfl
@[simp] theorem setSqRx_guard (a1 a2) (s : State) : (setSqRx a1 a2 s).guard = s.guard := rfl
@[simp] theorem setSqRx_lag (a1 a2) (s : State) : (setSqRx a1 a2 s).lag = s.lag := rfl
@[simp] theorem setSqRx_streams (a1 a2) (s : State) : (setSqRx a1 a2 s).streams = s.streams := rfl
@[simp] theorem setSqRx_coll (a1 a2) (s : State) : (setSqRx a1 a2 s).coll = s.coll := rfl
@[simp] theorem setSqRx_duest (a1 a2) (s : State) : (setSqRx a1 a2 s).duest = s.duest := rfl
@[simp] theorem setSqRx_bringup (a1 a2) (s : State) : (setSqRx a1 a2 s).bringup = s.bringup := rfl
@[simp] theorem setSqRx_bist (a1 a2) (s : State) : (setSqRx a1 a2 s).bist = s.bist := rfl
@[simp] theorem setSqRx_trust (a1 a2) (s : State) : (setSqRx a1 a2 s).trust = s.trust := rfl
@[simp] theorem setSqRx_jtag (a1 a2) (s : State) : (setSqRx a1 a2 s).jtag = s.jtag := rfl
@[simp] theorem setSqRx_descs (a1 a2) (s : State) : (setSqRx a1 a2 s).descs = s.descs := rfl
@[simp] theorem setSqRx_out (a1 a2) (s : State) : (setSqRx a1 a2 s).out = s.out := rfl
@[simp] theorem setSqRx_freeCtr (a1 a2) (s : State) : (setSqRx a1 a2 s).freeCtr = s.freeCtr := rfl
@[simp] theorem setSqRx_pending (a1 a2) (s : State) : (setSqRx a1 a2 s).pending = s.pending := rfl

/-! ### `setSqTx` -/

@[simp] theorem setSqTx_hw (a1 a2) (s : State) : (setSqTx a1 a2 s).hw = s.hw := rfl
@[simp] theorem setSqTx_ms (a1 a2) (s : State) : (setSqTx a1 a2 s).ms = s.ms := rfl
@[simp] theorem setSqTx_pins (a1 a2) (s : State) : (setSqTx a1 a2 s).pins = s.pins := rfl
@[simp] theorem setSqTx_clk (a1 a2) (s : State) : (setSqTx a1 a2 s).clk = s.clk := rfl
@[simp] theorem setSqTx_host (a1 a2) (s : State) : (setSqTx a1 a2 s).host = s.host := rfl
@[simp] theorem setSqTx_ft (a1 a2) (s : State) : (setSqTx a1 a2 s).ft = s.ft := rfl
@[simp] theorem setSqTx_wdog (a1 a2) (s : State) : (setSqTx a1 a2 s).wdog = s.wdog := rfl
@[simp] theorem setSqTx_claims (a1 a2) (s : State) : (setSqTx a1 a2 s).claims = s.claims := rfl
@[simp] theorem setSqTx_pwr (a1 a2) (s : State) : (setSqTx a1 a2 s).pwr = s.pwr := rfl
@[simp] theorem setSqTx_steer (a1 a2) (s : State) : (setSqTx a1 a2 s).steer = s.steer := rfl
@[simp] theorem setSqTx_link (a1 a2) (s : State) : (setSqTx a1 a2 s).link = s.link := rfl
@[simp] theorem setSqTx_adm (a1 a2) (s : State) : (setSqTx a1 a2 s).adm = s.adm := rfl
@[simp] theorem setSqTx_ember (a1 a2) (s : State) : (setSqTx a1 a2 s).ember = s.ember := rfl
@[simp] theorem setSqTx_yoke (a1 a2) (s : State) : (setSqTx a1 a2 s).yoke = s.yoke := rfl
@[simp] theorem setSqTx_lg (a1 a2) (s : State) : (setSqTx a1 a2 s).lg = s.lg := rfl
@[simp] theorem setSqTx_mem (a1 a2) (s : State) : (setSqTx a1 a2 s).mem = s.mem := rfl
@[simp] theorem setSqTx_cores (a1 a2) (s : State) : (setSqTx a1 a2 s).cores = s.cores := rfl
@[simp] theorem setSqTx_he (a1 a2) (s : State) : (setSqTx a1 a2 s).he = s.he := rfl
@[simp] theorem setSqTx_guard (a1 a2) (s : State) : (setSqTx a1 a2 s).guard = s.guard := rfl
@[simp] theorem setSqTx_lag (a1 a2) (s : State) : (setSqTx a1 a2 s).lag = s.lag := rfl
@[simp] theorem setSqTx_streams (a1 a2) (s : State) : (setSqTx a1 a2 s).streams = s.streams := rfl
@[simp] theorem setSqTx_coll (a1 a2) (s : State) : (setSqTx a1 a2 s).coll = s.coll := rfl
@[simp] theorem setSqTx_duest (a1 a2) (s : State) : (setSqTx a1 a2 s).duest = s.duest := rfl
@[simp] theorem setSqTx_bringup (a1 a2) (s : State) : (setSqTx a1 a2 s).bringup = s.bringup := rfl
@[simp] theorem setSqTx_bist (a1 a2) (s : State) : (setSqTx a1 a2 s).bist = s.bist := rfl
@[simp] theorem setSqTx_trust (a1 a2) (s : State) : (setSqTx a1 a2 s).trust = s.trust := rfl
@[simp] theorem setSqTx_jtag (a1 a2) (s : State) : (setSqTx a1 a2 s).jtag = s.jtag := rfl
@[simp] theorem setSqTx_descs (a1 a2) (s : State) : (setSqTx a1 a2 s).descs = s.descs := rfl
@[simp] theorem setSqTx_out (a1 a2) (s : State) : (setSqTx a1 a2 s).out = s.out := rfl
@[simp] theorem setSqTx_freeCtr (a1 a2) (s : State) : (setSqTx a1 a2 s).freeCtr = s.freeCtr := rfl
@[simp] theorem setSqTx_pending (a1 a2) (s : State) : (setSqTx a1 a2 s).pending = s.pending := rfl

/-! ### `setSring` -/

@[simp] theorem setSring_hw (a1 a2) (s : State) : (setSring a1 a2 s).hw = s.hw := rfl
@[simp] theorem setSring_ms (a1 a2) (s : State) : (setSring a1 a2 s).ms = s.ms := rfl
@[simp] theorem setSring_pins (a1 a2) (s : State) : (setSring a1 a2 s).pins = s.pins := rfl
@[simp] theorem setSring_clk (a1 a2) (s : State) : (setSring a1 a2 s).clk = s.clk := rfl
@[simp] theorem setSring_ft (a1 a2) (s : State) : (setSring a1 a2 s).ft = s.ft := rfl
@[simp] theorem setSring_wdog (a1 a2) (s : State) : (setSring a1 a2 s).wdog = s.wdog := rfl
@[simp] theorem setSring_claims (a1 a2) (s : State) : (setSring a1 a2 s).claims = s.claims := rfl
@[simp] theorem setSring_pwr (a1 a2) (s : State) : (setSring a1 a2 s).pwr = s.pwr := rfl
@[simp] theorem setSring_steer (a1 a2) (s : State) : (setSring a1 a2 s).steer = s.steer := rfl
@[simp] theorem setSring_link (a1 a2) (s : State) : (setSring a1 a2 s).link = s.link := rfl
@[simp] theorem setSring_adm (a1 a2) (s : State) : (setSring a1 a2 s).adm = s.adm := rfl
@[simp] theorem setSring_ember (a1 a2) (s : State) : (setSring a1 a2 s).ember = s.ember := rfl
@[simp] theorem setSring_yoke (a1 a2) (s : State) : (setSring a1 a2 s).yoke = s.yoke := rfl
@[simp] theorem setSring_lg (a1 a2) (s : State) : (setSring a1 a2 s).lg = s.lg := rfl
@[simp] theorem setSring_mem (a1 a2) (s : State) : (setSring a1 a2 s).mem = s.mem := rfl
@[simp] theorem setSring_cores (a1 a2) (s : State) : (setSring a1 a2 s).cores = s.cores := rfl
@[simp] theorem setSring_he (a1 a2) (s : State) : (setSring a1 a2 s).he = s.he := rfl
@[simp] theorem setSring_sync (a1 a2) (s : State) : (setSring a1 a2 s).sync = s.sync := rfl
@[simp] theorem setSring_guard (a1 a2) (s : State) : (setSring a1 a2 s).guard = s.guard := rfl
@[simp] theorem setSring_lag (a1 a2) (s : State) : (setSring a1 a2 s).lag = s.lag := rfl
@[simp] theorem setSring_streams (a1 a2) (s : State) : (setSring a1 a2 s).streams = s.streams := rfl
@[simp] theorem setSring_coll (a1 a2) (s : State) : (setSring a1 a2 s).coll = s.coll := rfl
@[simp] theorem setSring_duest (a1 a2) (s : State) : (setSring a1 a2 s).duest = s.duest := rfl
@[simp] theorem setSring_bringup (a1 a2) (s : State) : (setSring a1 a2 s).bringup = s.bringup := rfl
@[simp] theorem setSring_bist (a1 a2) (s : State) : (setSring a1 a2 s).bist = s.bist := rfl
@[simp] theorem setSring_trust (a1 a2) (s : State) : (setSring a1 a2 s).trust = s.trust := rfl
@[simp] theorem setSring_jtag (a1 a2) (s : State) : (setSring a1 a2 s).jtag = s.jtag := rfl
@[simp] theorem setSring_descs (a1 a2) (s : State) : (setSring a1 a2 s).descs = s.descs := rfl
@[simp] theorem setSring_out (a1 a2) (s : State) : (setSring a1 a2 s).out = s.out := rfl
@[simp] theorem setSring_freeCtr (a1 a2) (s : State) : (setSring a1 a2 s).freeCtr = s.freeCtr := rfl
@[simp] theorem setSring_pending (a1 a2) (s : State) : (setSring a1 a2 s).pending = s.pending := rfl

/-! ### `setStream` -/

@[simp] theorem setStream_hw (a1 a2) (s : State) : (setStream a1 a2 s).hw = s.hw := rfl
@[simp] theorem setStream_ms (a1 a2) (s : State) : (setStream a1 a2 s).ms = s.ms := rfl
@[simp] theorem setStream_pins (a1 a2) (s : State) : (setStream a1 a2 s).pins = s.pins := rfl
@[simp] theorem setStream_clk (a1 a2) (s : State) : (setStream a1 a2 s).clk = s.clk := rfl
@[simp] theorem setStream_host (a1 a2) (s : State) : (setStream a1 a2 s).host = s.host := rfl
@[simp] theorem setStream_ft (a1 a2) (s : State) : (setStream a1 a2 s).ft = s.ft := rfl
@[simp] theorem setStream_wdog (a1 a2) (s : State) : (setStream a1 a2 s).wdog = s.wdog := rfl
@[simp] theorem setStream_claims (a1 a2) (s : State) : (setStream a1 a2 s).claims = s.claims := rfl
@[simp] theorem setStream_pwr (a1 a2) (s : State) : (setStream a1 a2 s).pwr = s.pwr := rfl
@[simp] theorem setStream_steer (a1 a2) (s : State) : (setStream a1 a2 s).steer = s.steer := rfl
@[simp] theorem setStream_adm (a1 a2) (s : State) : (setStream a1 a2 s).adm = s.adm := rfl
@[simp] theorem setStream_ember (a1 a2) (s : State) : (setStream a1 a2 s).ember = s.ember := rfl
@[simp] theorem setStream_yoke (a1 a2) (s : State) : (setStream a1 a2 s).yoke = s.yoke := rfl
@[simp] theorem setStream_lg (a1 a2) (s : State) : (setStream a1 a2 s).lg = s.lg := rfl
@[simp] theorem setStream_mem (a1 a2) (s : State) : (setStream a1 a2 s).mem = s.mem := rfl
@[simp] theorem setStream_cores (a1 a2) (s : State) : (setStream a1 a2 s).cores = s.cores := rfl
@[simp] theorem setStream_he (a1 a2) (s : State) : (setStream a1 a2 s).he = s.he := rfl
@[simp] theorem setStream_sync (a1 a2) (s : State) : (setStream a1 a2 s).sync = s.sync := rfl
@[simp] theorem setStream_guard (a1 a2) (s : State) : (setStream a1 a2 s).guard = s.guard := rfl
@[simp] theorem setStream_lag (a1 a2) (s : State) : (setStream a1 a2 s).lag = s.lag := rfl
@[simp] theorem setStream_streams (a1 a2) (s : State) : (setStream a1 a2 s).streams = s.streams := rfl
@[simp] theorem setStream_coll (a1 a2) (s : State) : (setStream a1 a2 s).coll = s.coll := rfl
@[simp] theorem setStream_duest (a1 a2) (s : State) : (setStream a1 a2 s).duest = s.duest := rfl
@[simp] theorem setStream_bringup (a1 a2) (s : State) : (setStream a1 a2 s).bringup = s.bringup := rfl
@[simp] theorem setStream_bist (a1 a2) (s : State) : (setStream a1 a2 s).bist = s.bist := rfl
@[simp] theorem setStream_trust (a1 a2) (s : State) : (setStream a1 a2 s).trust = s.trust := rfl
@[simp] theorem setStream_jtag (a1 a2) (s : State) : (setStream a1 a2 s).jtag = s.jtag := rfl
@[simp] theorem setStream_descs (a1 a2) (s : State) : (setStream a1 a2 s).descs = s.descs := rfl
@[simp] theorem setStream_out (a1 a2) (s : State) : (setStream a1 a2 s).out = s.out := rfl
@[simp] theorem setStream_freeCtr (a1 a2) (s : State) : (setStream a1 a2 s).freeCtr = s.freeCtr := rfl
@[simp] theorem setStream_pending (a1 a2) (s : State) : (setStream a1 a2 s).pending = s.pending := rfl

/-! ### `setTally` -/

@[simp] theorem setTally_hw (a1 a2) (s : State) : (setTally a1 a2 s).hw = s.hw := rfl
@[simp] theorem setTally_ms (a1 a2) (s : State) : (setTally a1 a2 s).ms = s.ms := rfl
@[simp] theorem setTally_pins (a1 a2) (s : State) : (setTally a1 a2 s).pins = s.pins := rfl
@[simp] theorem setTally_clk (a1 a2) (s : State) : (setTally a1 a2 s).clk = s.clk := rfl
@[simp] theorem setTally_host (a1 a2) (s : State) : (setTally a1 a2 s).host = s.host := rfl
@[simp] theorem setTally_ft (a1 a2) (s : State) : (setTally a1 a2 s).ft = s.ft := rfl
@[simp] theorem setTally_wdog (a1 a2) (s : State) : (setTally a1 a2 s).wdog = s.wdog := rfl
@[simp] theorem setTally_claims (a1 a2) (s : State) : (setTally a1 a2 s).claims = s.claims := rfl
@[simp] theorem setTally_pwr (a1 a2) (s : State) : (setTally a1 a2 s).pwr = s.pwr := rfl
@[simp] theorem setTally_steer (a1 a2) (s : State) : (setTally a1 a2 s).steer = s.steer := rfl
@[simp] theorem setTally_link (a1 a2) (s : State) : (setTally a1 a2 s).link = s.link := rfl
@[simp] theorem setTally_adm (a1 a2) (s : State) : (setTally a1 a2 s).adm = s.adm := rfl
@[simp] theorem setTally_ember (a1 a2) (s : State) : (setTally a1 a2 s).ember = s.ember := rfl
@[simp] theorem setTally_yoke (a1 a2) (s : State) : (setTally a1 a2 s).yoke = s.yoke := rfl
@[simp] theorem setTally_lg (a1 a2) (s : State) : (setTally a1 a2 s).lg = s.lg := rfl
@[simp] theorem setTally_mem (a1 a2) (s : State) : (setTally a1 a2 s).mem = s.mem := rfl
@[simp] theorem setTally_cores (a1 a2) (s : State) : (setTally a1 a2 s).cores = s.cores := rfl
@[simp] theorem setTally_he (a1 a2) (s : State) : (setTally a1 a2 s).he = s.he := rfl
@[simp] theorem setTally_guard (a1 a2) (s : State) : (setTally a1 a2 s).guard = s.guard := rfl
@[simp] theorem setTally_lag (a1 a2) (s : State) : (setTally a1 a2 s).lag = s.lag := rfl
@[simp] theorem setTally_streams (a1 a2) (s : State) : (setTally a1 a2 s).streams = s.streams := rfl
@[simp] theorem setTally_coll (a1 a2) (s : State) : (setTally a1 a2 s).coll = s.coll := rfl
@[simp] theorem setTally_duest (a1 a2) (s : State) : (setTally a1 a2 s).duest = s.duest := rfl
@[simp] theorem setTally_bringup (a1 a2) (s : State) : (setTally a1 a2 s).bringup = s.bringup := rfl
@[simp] theorem setTally_bist (a1 a2) (s : State) : (setTally a1 a2 s).bist = s.bist := rfl
@[simp] theorem setTally_trust (a1 a2) (s : State) : (setTally a1 a2 s).trust = s.trust := rfl
@[simp] theorem setTally_jtag (a1 a2) (s : State) : (setTally a1 a2 s).jtag = s.jtag := rfl
@[simp] theorem setTally_descs (a1 a2) (s : State) : (setTally a1 a2 s).descs = s.descs := rfl
@[simp] theorem setTally_out (a1 a2) (s : State) : (setTally a1 a2 s).out = s.out := rfl
@[simp] theorem setTally_freeCtr (a1 a2) (s : State) : (setTally a1 a2 s).freeCtr = s.freeCtr := rfl
@[simp] theorem setTally_pending (a1 a2) (s : State) : (setTally a1 a2 s).pending = s.pending := rfl

/-! ### `setTrust` -/

@[simp] theorem setTrust_hw (a1) (s : State) : (setTrust a1 s).hw = s.hw := rfl
@[simp] theorem setTrust_ms (a1) (s : State) : (setTrust a1 s).ms = s.ms := rfl
@[simp] theorem setTrust_pins (a1) (s : State) : (setTrust a1 s).pins = s.pins := rfl
@[simp] theorem setTrust_clk (a1) (s : State) : (setTrust a1 s).clk = s.clk := rfl
@[simp] theorem setTrust_host (a1) (s : State) : (setTrust a1 s).host = s.host := rfl
@[simp] theorem setTrust_ft (a1) (s : State) : (setTrust a1 s).ft = s.ft := rfl
@[simp] theorem setTrust_wdog (a1) (s : State) : (setTrust a1 s).wdog = s.wdog := rfl
@[simp] theorem setTrust_claims (a1) (s : State) : (setTrust a1 s).claims = s.claims := rfl
@[simp] theorem setTrust_pwr (a1) (s : State) : (setTrust a1 s).pwr = s.pwr := rfl
@[simp] theorem setTrust_steer (a1) (s : State) : (setTrust a1 s).steer = s.steer := rfl
@[simp] theorem setTrust_link (a1) (s : State) : (setTrust a1 s).link = s.link := rfl
@[simp] theorem setTrust_adm (a1) (s : State) : (setTrust a1 s).adm = s.adm := rfl
@[simp] theorem setTrust_ember (a1) (s : State) : (setTrust a1 s).ember = s.ember := rfl
@[simp] theorem setTrust_yoke (a1) (s : State) : (setTrust a1 s).yoke = s.yoke := rfl
@[simp] theorem setTrust_lg (a1) (s : State) : (setTrust a1 s).lg = s.lg := rfl
@[simp] theorem setTrust_mem (a1) (s : State) : (setTrust a1 s).mem = s.mem := rfl
@[simp] theorem setTrust_cores (a1) (s : State) : (setTrust a1 s).cores = s.cores := rfl
@[simp] theorem setTrust_he (a1) (s : State) : (setTrust a1 s).he = s.he := rfl
@[simp] theorem setTrust_sync (a1) (s : State) : (setTrust a1 s).sync = s.sync := rfl
@[simp] theorem setTrust_guard (a1) (s : State) : (setTrust a1 s).guard = s.guard := rfl
@[simp] theorem setTrust_lag (a1) (s : State) : (setTrust a1 s).lag = s.lag := rfl
@[simp] theorem setTrust_streams (a1) (s : State) : (setTrust a1 s).streams = s.streams := rfl
@[simp] theorem setTrust_coll (a1) (s : State) : (setTrust a1 s).coll = s.coll := rfl
@[simp] theorem setTrust_duest (a1) (s : State) : (setTrust a1 s).duest = s.duest := rfl
@[simp] theorem setTrust_bringup (a1) (s : State) : (setTrust a1 s).bringup = s.bringup := rfl
@[simp] theorem setTrust_bist (a1) (s : State) : (setTrust a1 s).bist = s.bist := rfl
@[simp] theorem setTrust_jtag (a1) (s : State) : (setTrust a1 s).jtag = s.jtag := rfl
@[simp] theorem setTrust_descs (a1) (s : State) : (setTrust a1 s).descs = s.descs := rfl
@[simp] theorem setTrust_out (a1) (s : State) : (setTrust a1 s).out = s.out := rfl
@[simp] theorem setTrust_freeCtr (a1) (s : State) : (setTrust a1 s).freeCtr = s.freeCtr := rfl
@[simp] theorem setTrust_pending (a1) (s : State) : (setTrust a1 s).pending = s.pending := rfl

/-! ### `setYoke` -/

@[simp] theorem setYoke_hw (a1) (s : State) : (setYoke a1 s).hw = s.hw := rfl
@[simp] theorem setYoke_ms (a1) (s : State) : (setYoke a1 s).ms = s.ms := rfl
@[simp] theorem setYoke_pins (a1) (s : State) : (setYoke a1 s).pins = s.pins := rfl
@[simp] theorem setYoke_clk (a1) (s : State) : (setYoke a1 s).clk = s.clk := rfl
@[simp] theorem setYoke_host (a1) (s : State) : (setYoke a1 s).host = s.host := rfl
@[simp] theorem setYoke_ft (a1) (s : State) : (setYoke a1 s).ft = s.ft := rfl
@[simp] theorem setYoke_wdog (a1) (s : State) : (setYoke a1 s).wdog = s.wdog := rfl
@[simp] theorem setYoke_claims (a1) (s : State) : (setYoke a1 s).claims = s.claims := rfl
@[simp] theorem setYoke_pwr (a1) (s : State) : (setYoke a1 s).pwr = s.pwr := rfl
@[simp] theorem setYoke_steer (a1) (s : State) : (setYoke a1 s).steer = s.steer := rfl
@[simp] theorem setYoke_link (a1) (s : State) : (setYoke a1 s).link = s.link := rfl
@[simp] theorem setYoke_adm (a1) (s : State) : (setYoke a1 s).adm = s.adm := rfl
@[simp] theorem setYoke_ember (a1) (s : State) : (setYoke a1 s).ember = s.ember := rfl
@[simp] theorem setYoke_lg (a1) (s : State) : (setYoke a1 s).lg = s.lg := rfl
@[simp] theorem setYoke_mem (a1) (s : State) : (setYoke a1 s).mem = s.mem := rfl
@[simp] theorem setYoke_cores (a1) (s : State) : (setYoke a1 s).cores = s.cores := rfl
@[simp] theorem setYoke_he (a1) (s : State) : (setYoke a1 s).he = s.he := rfl
@[simp] theorem setYoke_sync (a1) (s : State) : (setYoke a1 s).sync = s.sync := rfl
@[simp] theorem setYoke_guard (a1) (s : State) : (setYoke a1 s).guard = s.guard := rfl
@[simp] theorem setYoke_lag (a1) (s : State) : (setYoke a1 s).lag = s.lag := rfl
@[simp] theorem setYoke_streams (a1) (s : State) : (setYoke a1 s).streams = s.streams := rfl
@[simp] theorem setYoke_coll (a1) (s : State) : (setYoke a1 s).coll = s.coll := rfl
@[simp] theorem setYoke_duest (a1) (s : State) : (setYoke a1 s).duest = s.duest := rfl
@[simp] theorem setYoke_bringup (a1) (s : State) : (setYoke a1 s).bringup = s.bringup := rfl
@[simp] theorem setYoke_bist (a1) (s : State) : (setYoke a1 s).bist = s.bist := rfl
@[simp] theorem setYoke_trust (a1) (s : State) : (setYoke a1 s).trust = s.trust := rfl
@[simp] theorem setYoke_jtag (a1) (s : State) : (setYoke a1 s).jtag = s.jtag := rfl
@[simp] theorem setYoke_descs (a1) (s : State) : (setYoke a1 s).descs = s.descs := rfl
@[simp] theorem setYoke_out (a1) (s : State) : (setYoke a1 s).out = s.out := rfl
@[simp] theorem setYoke_freeCtr (a1) (s : State) : (setYoke a1 s).freeCtr = s.freeCtr := rfl
@[simp] theorem setYoke_pending (a1) (s : State) : (setYoke a1 s).pending = s.pending := rfl

/-! ### `updCore` -/

@[simp] theorem updCore_hw (a1 a2) (s : State) : (updCore a1 a2 s).hw = s.hw := rfl
@[simp] theorem updCore_ms (a1 a2) (s : State) : (updCore a1 a2 s).ms = s.ms := rfl
@[simp] theorem updCore_pins (a1 a2) (s : State) : (updCore a1 a2 s).pins = s.pins := rfl
@[simp] theorem updCore_clk (a1 a2) (s : State) : (updCore a1 a2 s).clk = s.clk := rfl
@[simp] theorem updCore_host (a1 a2) (s : State) : (updCore a1 a2 s).host = s.host := rfl
@[simp] theorem updCore_ft (a1 a2) (s : State) : (updCore a1 a2 s).ft = s.ft := rfl
@[simp] theorem updCore_wdog (a1 a2) (s : State) : (updCore a1 a2 s).wdog = s.wdog := rfl
@[simp] theorem updCore_claims (a1 a2) (s : State) : (updCore a1 a2 s).claims = s.claims := rfl
@[simp] theorem updCore_pwr (a1 a2) (s : State) : (updCore a1 a2 s).pwr = s.pwr := rfl
@[simp] theorem updCore_steer (a1 a2) (s : State) : (updCore a1 a2 s).steer = s.steer := rfl
@[simp] theorem updCore_link (a1 a2) (s : State) : (updCore a1 a2 s).link = s.link := rfl
@[simp] theorem updCore_adm (a1 a2) (s : State) : (updCore a1 a2 s).adm = s.adm := rfl
@[simp] theorem updCore_ember (a1 a2) (s : State) : (updCore a1 a2 s).ember = s.ember := rfl
@[simp] theorem updCore_yoke (a1 a2) (s : State) : (updCore a1 a2 s).yoke = s.yoke := rfl
@[simp] theorem updCore_lg (a1 a2) (s : State) : (updCore a1 a2 s).lg = s.lg := rfl
@[simp] theorem updCore_mem (a1 a2) (s : State) : (updCore a1 a2 s).mem = s.mem := rfl
@[simp] theorem updCore_he (a1 a2) (s : State) : (updCore a1 a2 s).he = s.he := rfl
@[simp] theorem updCore_sync (a1 a2) (s : State) : (updCore a1 a2 s).sync = s.sync := rfl
@[simp] theorem updCore_guard (a1 a2) (s : State) : (updCore a1 a2 s).guard = s.guard := rfl
@[simp] theorem updCore_lag (a1 a2) (s : State) : (updCore a1 a2 s).lag = s.lag := rfl
@[simp] theorem updCore_streams (a1 a2) (s : State) : (updCore a1 a2 s).streams = s.streams := rfl
@[simp] theorem updCore_coll (a1 a2) (s : State) : (updCore a1 a2 s).coll = s.coll := rfl
@[simp] theorem updCore_duest (a1 a2) (s : State) : (updCore a1 a2 s).duest = s.duest := rfl
@[simp] theorem updCore_bringup (a1 a2) (s : State) : (updCore a1 a2 s).bringup = s.bringup := rfl
@[simp] theorem updCore_bist (a1 a2) (s : State) : (updCore a1 a2 s).bist = s.bist := rfl
@[simp] theorem updCore_trust (a1 a2) (s : State) : (updCore a1 a2 s).trust = s.trust := rfl
@[simp] theorem updCore_jtag (a1 a2) (s : State) : (updCore a1 a2 s).jtag = s.jtag := rfl
@[simp] theorem updCore_descs (a1 a2) (s : State) : (updCore a1 a2 s).descs = s.descs := rfl
@[simp] theorem updCore_out (a1 a2) (s : State) : (updCore a1 a2 s).out = s.out := rfl
@[simp] theorem updCore_freeCtr (a1 a2) (s : State) : (updCore a1 a2 s).freeCtr = s.freeCtr := rfl
@[simp] theorem updCore_pending (a1 a2) (s : State) : (updCore a1 a2 s).pending = s.pending := rfl

/-! ### `updDesc` -/

@[simp] theorem updDesc_hw (a1 a2) (s : State) : (updDesc a1 a2 s).hw = s.hw := rfl
@[simp] theorem updDesc_ms (a1 a2) (s : State) : (updDesc a1 a2 s).ms = s.ms := rfl
@[simp] theorem updDesc_pins (a1 a2) (s : State) : (updDesc a1 a2 s).pins = s.pins := rfl
@[simp] theorem updDesc_clk (a1 a2) (s : State) : (updDesc a1 a2 s).clk = s.clk := rfl
@[simp] theorem updDesc_host (a1 a2) (s : State) : (updDesc a1 a2 s).host = s.host := rfl
@[simp] theorem updDesc_ft (a1 a2) (s : State) : (updDesc a1 a2 s).ft = s.ft := rfl
@[simp] theorem updDesc_wdog (a1 a2) (s : State) : (updDesc a1 a2 s).wdog = s.wdog := rfl
@[simp] theorem updDesc_claims (a1 a2) (s : State) : (updDesc a1 a2 s).claims = s.claims := rfl
@[simp] theorem updDesc_pwr (a1 a2) (s : State) : (updDesc a1 a2 s).pwr = s.pwr := rfl
@[simp] theorem updDesc_steer (a1 a2) (s : State) : (updDesc a1 a2 s).steer = s.steer := rfl
@[simp] theorem updDesc_link (a1 a2) (s : State) : (updDesc a1 a2 s).link = s.link := rfl
@[simp] theorem updDesc_adm (a1 a2) (s : State) : (updDesc a1 a2 s).adm = s.adm := rfl
@[simp] theorem updDesc_ember (a1 a2) (s : State) : (updDesc a1 a2 s).ember = s.ember := rfl
@[simp] theorem updDesc_yoke (a1 a2) (s : State) : (updDesc a1 a2 s).yoke = s.yoke := rfl
@[simp] theorem updDesc_lg (a1 a2) (s : State) : (updDesc a1 a2 s).lg = s.lg := rfl
@[simp] theorem updDesc_mem (a1 a2) (s : State) : (updDesc a1 a2 s).mem = s.mem := rfl
@[simp] theorem updDesc_cores (a1 a2) (s : State) : (updDesc a1 a2 s).cores = s.cores := rfl
@[simp] theorem updDesc_he (a1 a2) (s : State) : (updDesc a1 a2 s).he = s.he := rfl
@[simp] theorem updDesc_sync (a1 a2) (s : State) : (updDesc a1 a2 s).sync = s.sync := rfl
@[simp] theorem updDesc_guard (a1 a2) (s : State) : (updDesc a1 a2 s).guard = s.guard := rfl
@[simp] theorem updDesc_lag (a1 a2) (s : State) : (updDesc a1 a2 s).lag = s.lag := rfl
@[simp] theorem updDesc_streams (a1 a2) (s : State) : (updDesc a1 a2 s).streams = s.streams := rfl
@[simp] theorem updDesc_coll (a1 a2) (s : State) : (updDesc a1 a2 s).coll = s.coll := rfl
@[simp] theorem updDesc_duest (a1 a2) (s : State) : (updDesc a1 a2 s).duest = s.duest := rfl
@[simp] theorem updDesc_bringup (a1 a2) (s : State) : (updDesc a1 a2 s).bringup = s.bringup := rfl
@[simp] theorem updDesc_bist (a1 a2) (s : State) : (updDesc a1 a2 s).bist = s.bist := rfl
@[simp] theorem updDesc_trust (a1 a2) (s : State) : (updDesc a1 a2 s).trust = s.trust := rfl
@[simp] theorem updDesc_jtag (a1 a2) (s : State) : (updDesc a1 a2 s).jtag = s.jtag := rfl
@[simp] theorem updDesc_out (a1 a2) (s : State) : (updDesc a1 a2 s).out = s.out := rfl
@[simp] theorem updDesc_freeCtr (a1 a2) (s : State) : (updDesc a1 a2 s).freeCtr = s.freeCtr := rfl
@[simp] theorem updDesc_pending (a1 a2) (s : State) : (updDesc a1 a2 s).pending = s.pending := rfl

/-! ### `wakeCopies` -/

@[simp] theorem wakeCopies_hw (a1) (s : State) : (wakeCopies a1 s).hw = s.hw := rfl
@[simp] theorem wakeCopies_ms (a1) (s : State) : (wakeCopies a1 s).ms = s.ms := rfl
@[simp] theorem wakeCopies_pins (a1) (s : State) : (wakeCopies a1 s).pins = s.pins := rfl
@[simp] theorem wakeCopies_clk (a1) (s : State) : (wakeCopies a1 s).clk = s.clk := rfl
@[simp] theorem wakeCopies_host (a1) (s : State) : (wakeCopies a1 s).host = s.host := rfl
@[simp] theorem wakeCopies_ft (a1) (s : State) : (wakeCopies a1 s).ft = s.ft := rfl
@[simp] theorem wakeCopies_wdog (a1) (s : State) : (wakeCopies a1 s).wdog = s.wdog := rfl
@[simp] theorem wakeCopies_claims (a1) (s : State) : (wakeCopies a1 s).claims = s.claims := rfl
@[simp] theorem wakeCopies_pwr (a1) (s : State) : (wakeCopies a1 s).pwr = s.pwr := rfl
@[simp] theorem wakeCopies_steer (a1) (s : State) : (wakeCopies a1 s).steer = s.steer := rfl
@[simp] theorem wakeCopies_link (a1) (s : State) : (wakeCopies a1 s).link = s.link := rfl
@[simp] theorem wakeCopies_adm (a1) (s : State) : (wakeCopies a1 s).adm = s.adm := rfl
@[simp] theorem wakeCopies_ember (a1) (s : State) : (wakeCopies a1 s).ember = s.ember := rfl
@[simp] theorem wakeCopies_yoke (a1) (s : State) : (wakeCopies a1 s).yoke = s.yoke := rfl
@[simp] theorem wakeCopies_lg (a1) (s : State) : (wakeCopies a1 s).lg = s.lg := rfl
@[simp] theorem wakeCopies_mem (a1) (s : State) : (wakeCopies a1 s).mem = s.mem := rfl
@[simp] theorem wakeCopies_cores (a1) (s : State) : (wakeCopies a1 s).cores = s.cores := rfl
@[simp] theorem wakeCopies_he (a1) (s : State) : (wakeCopies a1 s).he = s.he := rfl
@[simp] theorem wakeCopies_sync (a1) (s : State) : (wakeCopies a1 s).sync = s.sync := rfl
@[simp] theorem wakeCopies_guard (a1) (s : State) : (wakeCopies a1 s).guard = s.guard := rfl
@[simp] theorem wakeCopies_lag (a1) (s : State) : (wakeCopies a1 s).lag = s.lag := rfl
@[simp] theorem wakeCopies_streams (a1) (s : State) : (wakeCopies a1 s).streams = s.streams := rfl
@[simp] theorem wakeCopies_coll (a1) (s : State) : (wakeCopies a1 s).coll = s.coll := rfl
@[simp] theorem wakeCopies_duest (a1) (s : State) : (wakeCopies a1 s).duest = s.duest := rfl
@[simp] theorem wakeCopies_bringup (a1) (s : State) : (wakeCopies a1 s).bringup = s.bringup := rfl
@[simp] theorem wakeCopies_bist (a1) (s : State) : (wakeCopies a1 s).bist = s.bist := rfl
@[simp] theorem wakeCopies_trust (a1) (s : State) : (wakeCopies a1 s).trust = s.trust := rfl
@[simp] theorem wakeCopies_jtag (a1) (s : State) : (wakeCopies a1 s).jtag = s.jtag := rfl
@[simp] theorem wakeCopies_out (a1) (s : State) : (wakeCopies a1 s).out = s.out := rfl
@[simp] theorem wakeCopies_freeCtr (a1) (s : State) : (wakeCopies a1 s).freeCtr = s.freeCtr := rfl
@[simp] theorem wakeCopies_pending (a1) (s : State) : (wakeCopies a1 s).pending = s.pending := rfl

/-! ### Reads after writes -/

@[simp] theorem sring_setSring_same (k : Nat) (x : SRing) (s : State) : sring (setSring k x s) k = x := Tab.get_put_same _

theorem sring_setSring_other {j k : Nat} (x : SRing) (s : State) (h : j ≠ k) : sring (setSring k x s) j = sring s j := Tab.get_put_other _ h

theorem sring_setSring (j k : Nat) (x : SRing) (s : State) : sring (setSring k x s) j = if j = k then x else sring s j := Tab.get_put _

@[simp] theorem cring_setCring_same (k : Nat) (x : CRing) (s : State) : cring (setCring k x s) k = x := Tab.get_put_same _

theorem cring_setCring_other {j k : Nat} (x : CRing) (s : State) (h : j ≠ k) : cring (setCring k x s) j = cring s j := Tab.get_put_other _ h

theorem cring_setCring (j k : Nat) (x : CRing) (s : State) : cring (setCring k x s) j = if j = k then x else cring s j := Tab.get_put _

@[simp] theorem ctxOf_setCtx_same (k : Nat) (x : Ctx) (s : State) : ctxOf (setCtx k x s) k = x := Tab.get_put_same _

theorem ctxOf_setCtx_other {j k : Nat} (x : Ctx) (s : State) (h : j ≠ k) : ctxOf (setCtx k x s) j = ctxOf s j := Tab.get_put_other _ h

theorem ctxOf_setCtx (j k : Nat) (x : Ctx) (s : State) : ctxOf (setCtx k x s) j = if j = k then x else ctxOf s j := Tab.get_put _

@[simp] theorem portOf_setPort_same (k : Nat) (x : Port) (s : State) : portOf (setPort k x s) k = x := Tab.get_put_same _

theorem portOf_setPort_other {j k : Nat} (x : Port) (s : State) (h : j ≠ k) : portOf (setPort k x s) j = portOf s j := Tab.get_put_other _ h

theorem portOf_setPort (j k : Nat) (x : Port) (s : State) : portOf (setPort k x s) j = if j = k then x else portOf s j := Tab.get_put _

@[simp] theorem poolCh_setPoolCh_same (k : Nat) (x : PoolCh) (s : State) : poolCh (setPoolCh k x s) k = x := Tab.get_put_same _

theorem poolCh_setPoolCh_other {j k : Nat} (x : PoolCh) (s : State) (h : j ≠ k) : poolCh (setPoolCh k x s) j = poolCh s j := Tab.get_put_other _ h

theorem poolCh_setPoolCh (j k : Nat) (x : PoolCh) (s : State) : poolCh (setPoolCh k x s) j = if j = k then x else poolCh s j := Tab.get_put _

@[simp] theorem pwrDie_setPwrDie_same (k : Nat) (x : PwrDie) (s : State) : pwrDie (setPwrDie k x s) k = x := Tab.get_put_same _

theorem pwrDie_setPwrDie_other {j k : Nat} (x : PwrDie) (s : State) (h : j ≠ k) : pwrDie (setPwrDie k x s) j = pwrDie s j := Tab.get_put_other _ h

theorem pwrDie_setPwrDie (j k : Nat) (x : PwrDie) (s : State) : pwrDie (setPwrDie k x s) j = if j = k then x else pwrDie s j := Tab.get_put _

@[simp] theorem mailbox_setMailbox_same (k : Nat) (x : Mailbox) (s : State) : mailbox (setMailbox k x s) k = x := Tab.get_put_same _

theorem mailbox_setMailbox_other {j k : Nat} (x : Mailbox) (s : State) (h : j ≠ k) : mailbox (setMailbox k x s) j = mailbox s j := Tab.get_put_other _ h

theorem mailbox_setMailbox (j k : Nat) (x : Mailbox) (s : State) : mailbox (setMailbox k x s) j = if j = k then x else mailbox s j := Tab.get_put _

@[simp] theorem sqTx_setSqTx_same (k : Nat) (x : SqTx) (s : State) : sqTx (setSqTx k x s) k = x := Tab.get_put_same _

theorem sqTx_setSqTx_other {j k : Nat} (x : SqTx) (s : State) (h : j ≠ k) : sqTx (setSqTx k x s) j = sqTx s j := Tab.get_put_other _ h

theorem sqTx_setSqTx (j k : Nat) (x : SqTx) (s : State) : sqTx (setSqTx k x s) j = if j = k then x else sqTx s j := Tab.get_put _

@[simp] theorem sqRx_setSqRx_same (k : Nat) (x : SqRx) (s : State) : sqRx (setSqRx k x s) k = x := Tab.get_put_same _

theorem sqRx_setSqRx_other {j k : Nat} (x : SqRx) (s : State) (h : j ≠ k) : sqRx (setSqRx k x s) j = sqRx s j := Tab.get_put_other _ h

theorem sqRx_setSqRx (j k : Nat) (x : SqRx) (s : State) : sqRx (setSqRx k x s) j = if j = k then x else sqRx s j := Tab.get_put _

@[simp] theorem tally_setTally_same (k : Nat) (x : Word) (s : State) : tally (setTally k x s) k = x := Tab.get_put_same _

theorem tally_setTally_other {j k : Nat} (x : Word) (s : State) (h : j ≠ k) : tally (setTally k x s) j = tally s j := Tab.get_put_other _ h

theorem tally_setTally (j k : Nat) (x : Word) (s : State) : tally (setTally k x s) j = if j = k then x else tally s j := Tab.get_put _

@[simp] theorem lineOf_setLine_same (k : Nat) (x : Line) (s : State) : lineOf (setLine k x s) k = x := Tab.get_put_same _

theorem lineOf_setLine_other {j k : Nat} (x : Line) (s : State) (h : j ≠ k) : lineOf (setLine k x s) j = lineOf s j := Tab.get_put_other _ h

theorem lineOf_setLine (j k : Nat) (x : Line) (s : State) : lineOf (setLine k x s) j = if j = k then x else lineOf s j := Tab.get_put _

@[simp] theorem lgDom_setLgDom_same (k : Nat) (x : LgDom) (s : State) : lgDom (setLgDom k x s) k = x := Tab.get_put_same _

theorem lgDom_setLgDom_other {j k : Nat} (x : LgDom) (s : State) (h : j ≠ k) : lgDom (setLgDom k x s) j = lgDom s j := Tab.get_put_other _ h

theorem lgDom_setLgDom (j k : Nat) (x : LgDom) (s : State) : lgDom (setLgDom k x s) j = if j = k then x else lgDom s j := Tab.get_put _

@[simp] theorem streamOf_setStream_same (k : Nat) (x : Stream) (s : State) : streamOf (setStream k x s) k = x := Tab.get_put_same _

theorem streamOf_setStream_other {j k : Nat} (x : Stream) (s : State) (h : j ≠ k) : streamOf (setStream k x s) j = streamOf s j := Tab.get_put_other _ h

theorem streamOf_setStream (j k : Nat) (x : Stream) (s : State) : streamOf (setStream k x s) j = if j = k then x else streamOf s j := Tab.get_put _

@[simp] theorem rawOf_setRaw_same (k : Nat) (x : RawStream) (s : State) : rawOf (setRaw k x s) k = x := Tab.get_put_same _

theorem rawOf_setRaw_other {j k : Nat} (x : RawStream) (s : State) (h : j ≠ k) : rawOf (setRaw k x s) j = rawOf s j := Tab.get_put_other _ h

theorem rawOf_setRaw (j k : Nat) (x : RawStream) (s : State) : rawOf (setRaw k x s) j = if j = k then x else rawOf s j := Tab.get_put _

@[simp] theorem emberPage_setEmberPage_same (k : Nat) (x : EmberPage) (s : State) : emberPage (setEmberPage k x s) k = x := Tab.get_put_same _

theorem emberPage_setEmberPage_other {j k : Nat} (x : EmberPage) (s : State) (h : j ≠ k) : emberPage (setEmberPage k x s) j = emberPage s j := Tab.get_put_other _ h

theorem emberPage_setEmberPage (j k : Nat) (x : EmberPage) (s : State) : emberPage (setEmberPage k x s) j = if j = k then x else emberPage s j := Tab.get_put _

@[simp] theorem planOf_setPlan_same (k : Nat) (x : Plan) (s : State) : planOf (setPlan k x s) k = x := Tab.get_put_same _

theorem planOf_setPlan_other {j k : Nat} (x : Plan) (s : State) (h : j ≠ k) : planOf (setPlan k x s) j = planOf s j := Tab.get_put_other _ h

theorem planOf_setPlan (j k : Nat) (x : Plan) (s : State) : planOf (setPlan k x s) j = if j = k then x else planOf s j := Tab.get_put _

@[simp] theorem duestLink_setDuestLink_same (k : Nat) (x : DuestLink) (s : State) : duestLink (setDuestLink k x s) k = x := Tab.get_put_same _

theorem duestLink_setDuestLink_other {j k : Nat} (x : DuestLink) (s : State) (h : j ≠ k) : duestLink (setDuestLink k x s) j = duestLink s j := Tab.get_put_other _ h

theorem duestLink_setDuestLink (j k : Nat) (x : DuestLink) (s : State) : duestLink (setDuestLink k x s) j = if j = k then x else duestLink s j := Tab.get_put _

@[simp] theorem heEng_setHe_same (k : Nat) (x : HeEng) (s : State) : heEng (setHe k x s) k = x := Tab.get_put_same _

theorem heEng_setHe_other {j k : Nat} (x : HeEng) (s : State) (h : j ≠ k) : heEng (setHe k x s) j = heEng s j := Tab.get_put_other _ h

theorem heEng_setHe (j k : Nat) (x : HeEng) (s : State) : heEng (setHe k x s) j = if j = k then x else heEng s j := Tab.get_put _

end Sys2Proof.Machine
end

