-- ==== Sys2Proof/Laws/Ledger.lean ====
section
/-! SUPPORT. Ledgers: what the tokens of memory accesses leave of a ledger. -/

namespace Sys2Proof.Machine

theorem LgDom.noteHigh_columns (x : LgDom) : x.noteHigh = { x with high := x.noteHigh.high } := by
  unfold LgDom.noteHigh
  dsimp only
  split <;> rfl

/-- R356, R368: tokens that are given back within one operation leave every column; only LG_HIGH may rise. -/
theorem LgDom.passed_columns (n : Nat) (x : LgDom) : x.passed n = { x with high := (x.passed n).high } := rfl

/-- R360: a domain without a parity error is checked without effect. -/
theorem parityCheck_good (d : Nat) (s : State) (h : (lgDom s d).parityBad = false) : parityCheck d s = s := by
  simp [parityCheck, h]

/-- R356, R357: the transactions of memory accesses change nothing but the ledgers, of which every column stays. -/
theorem useTokens_columns (dom most draw : Nat) (hs : List Nat) (s : State) (h : (lgDom s dom).parityBad = false) :
    useTokens dom most draw hs s = { s with lg := (useTokens dom most draw hs s).lg } ∧ ColumnsKept s (useTokens dom most draw hs s) := by
  unfold useTokens
  split
  · exact ⟨rfl, rfl, fun _ => rfl⟩
  · rw [parityCheck_good dom s h]
    refine ⟨rfl, rfl, fun n => ?_⟩
    rw [lgDom_setLgDom]
    split
    · next e => rw [e]; exact LgDom.passed_columns _ _
    · rfl

end Sys2Proof.Machine
end

