-- ==== Sys2Proof/Laws/Memory.lean ====
section
/-! SUPPORT. Memory: every operation keeps the canonical form, reset has it, and what a fold of writes leaves at a place. -/

namespace Sys2Proof.Machine

/-! ### Tables under folds and filters -/

theorem wf_filter {α : Type} [DecidableEq α] {d : α} (p : Nat × α → Bool) (t : Tab α) (h : Tab.wf d t = true) :
    Tab.wf d (t.filter p) = true := by
  induction t with
  | nil => rfl
  | cons c t ih =>
    obtain ⟨k, v⟩ := c
    simp only [Tab.wf, Bool.and_eq_true, decide_eq_true_eq, List.all_eq_true] at h
    rw [List.filter_cons]
    split
    · simp only [Tab.wf, Bool.and_eq_true, decide_eq_true_eq, List.all_eq_true]
      exact ⟨⟨h.1.1, fun x hx => h.1.2 x (List.mem_of_mem_filter hx)⟩, ih h.2⟩
    · exact ih h.2

theorem wf_foldl_put {α β : Type} [DecidableEq α] {d : α} (key : β → Nat) (val : β → α) (ws : List β) (t : Tab α)
    (h : Tab.wf d t = true) : Tab.wf d (ws.foldl (fun u w => u.put d (key w) (val w)) t) = true := by
  induction ws generalizing t with
  | nil => exact h
  | cons w ws ih => exact ih _ (Tab.wf_put _ h)

theorem get_foldl_put_other {β : Type} (key : β → Nat) (val : β → Byte) (ws : List β) (t : Tab Byte) (k : Nat)
    (h : ∀ w ∈ ws, key w ≠ k) : (ws.foldl (fun u w => u.put 0 (key w) (val w)) t).get 0 k = t.get 0 k := by
  induction ws generalizing t with
  | nil => rfl
  | cons w ws ih =>
    rw [List.foldl_cons, ih _ fun x hx => h x (List.mem_cons_of_mem _ hx), Tab.get_put_other _ (Ne.symm (h w List.mem_cons_self))]

/-! ### The canonical form -/

theorem memory_wf_iff (m : Mem) : Memory.wf m = true ↔ Tab.wf 0 m.bytes = true ∧ Tab.wf 0 m.bad = true := by
  simp [Memory.wf]

theorem memory_wf_empty : Memory.wf Mem.reset = true := rfl

/-- What leaves the bytes and the uncorrectable codewords leaves the form. -/
theorem memory_wf_of_eq {m n : Mem} (hb : n.bytes = m.bytes) (hc : n.bad = m.bad) (h : Memory.wf m = true) : Memory.wf n = true := by
  rw [memory_wf_iff, hb, hc]; exact (memory_wf_iff m).mp h

theorem memory_wf_putBytes (m : Mem) (ws : List (Nat × Byte)) (h : Memory.wf m = true) : Memory.wf (putBytes m ws) = true := by
  rw [memory_wf_iff] at h ⊢
  exact ⟨wf_foldl_put Prod.fst Prod.snd ws _ h.1, h.2⟩

theorem memory_wf_commit (m : Mem) (ws : List (Nat × Byte)) (h : Memory.wf m = true) : Memory.wf (commit m ws) = true := by
  apply memory_wf_putBytes
  rw [memory_wf_iff] at h ⊢
  exact ⟨h.1, wf_foldl_put id (fun _ => 0) (wholeBad m ws) _ h.2⟩

theorem memory_wf_clearPlaces (p : Nat → Bool) (m : Mem) (h : Memory.wf m = true) : Memory.wf (clearPlaces p m) = true := by
  rw [memory_wf_iff] at h ⊢
  exact ⟨wf_filter _ _ h.1, wf_filter _ _ h.2⟩

theorem memory_wf_clearSram (n : Nat) (m : Mem) (h : Memory.wf m = true) : Memory.wf (clearSram n m) = true :=
  memory_wf_clearPlaces _ _ h

theorem memory_wf_loseStacks (p : Nat → Bool) (m : Mem) (h : Memory.wf m = true) : Memory.wf (loseStacks p m) = true :=
  memory_wf_of_eq rfl rfl (memory_wf_clearPlaces (fun key => decide (key < sramBase) && p (key / 2 ^ 36)) m h)

theorem memory_wf_copyPage (n p q : Nat) (m : Mem) (h : Memory.wf m = true) : Memory.wf (copyPage n p q m) = true := by
  unfold copyPage
  split
  · exact h
  · rw [memory_wf_iff] at h ⊢
    exact ⟨wf_foldl_put _ _ _ _ (wf_filter _ _ h.1), wf_foldl_put _ _ _ _ (wf_filter _ _ h.2)⟩

theorem memory_wf_markBad (p : Place) (x : Byte) (s : State) (h : Memory.wf s.mem = true) : Memory.wf (markBad p x s).mem = true := by
  rw [memory_wf_iff] at h ⊢
  exact ⟨h.1, Tab.wf_put _ h.2⟩

theorem memory_wf_miscorrect (p : Place) (bs : List Byte) (s : State) (h : Memory.wf s.mem = true) :
    Memory.wf (miscorrect p bs s).mem = true := by
  have put : ∀ (q : Place) (u : State), (countCorrected q u).mem.bytes = u.mem.bytes ∧ (countCorrected q u).mem.bad = u.mem.bad := by
    intro q u; cases q <;> exact ⟨rfl, rfl⟩
  exact memory_wf_of_eq (put _ _).1 (put _ _).2 (memory_wf_putBytes _ _ h)

/-- An entry of the memory error log changes no byte and no mark of a codeword. -/
theorem logMemErr_bytes (a : Nat) (p : Place) (source unit core : Nat) (y : Byte) (s : State) :
    (logMemErr a p source unit core y s).2.mem.bytes = s.mem.bytes ∧ (logMemErr a p source unit core y s).2.mem.bad = s.mem.bad := by
  simp only [logMemErr]
  split <;> exact ⟨rfl, rfl⟩

theorem logDropped_bytes (cs : List Nat) (m : Mem) (s : State) :
    (logDropped cs m s).mem.bytes = s.mem.bytes ∧ (logDropped cs m s).mem.bad = s.mem.bad := by
  unfold logDropped
  induction cs generalizing s with
  | nil => exact ⟨rfl, rfl⟩
  | cons c cs ih =>
    rw [List.foldl_cons]
    have e := logMemErr_bytes (placeAddr s c) (keyPlace c) 1 7 0xFFFF (m.bad.get 0 c) s
    have g := ih (logMemErr (placeAddr s c) (keyPlace c) 1 7 0xFFFF (m.bad.get 0 c) s).2
    exact ⟨g.1.trans e.1, g.2.trans e.2⟩

theorem memory_wf_logDropped (cs : List Nat) (m : Mem) (s : State) (h : Memory.wf s.mem = true) :
    Memory.wf (logDropped cs m s).mem = true :=
  memory_wf_of_eq (logDropped_bytes cs m s).1 (logDropped_bytes cs m s).2 h

theorem memory_wf_commitNoted (ws : List (Nat × Byte)) (s : State) (h : Memory.wf s.mem = true) :
    Memory.wf (commitNoted ws s).mem = true := memory_wf_logDropped _ _ _ (memory_wf_commit _ _ h)

theorem memory_wf_putLog (o : Nat) (bs : List Byte) (s : State) (h : Memory.wf s.mem = true) : Memory.wf (putLog o bs s).mem = true :=
  memory_wf_commitNoted _ _ h

theorem memory_wf_putRecord (b : List Byte) (s : State) (h : Memory.wf s.mem = true) : Memory.wf (putRecord b s).mem = true :=
  memory_wf_commitNoted _ _ h

theorem memory_wf_orderedWrites (o : Option Ref) (adds : Bool) (ws : List (Nat × Byte)) (s : State) (h : Memory.wf s.mem = true) :
    Memory.wf (orderedWrites o adds ws s).2.mem = true := by
  unfold orderedWrites
  split
  · exact h
  · split <;> exact h

theorem memory_wf_store (o : Option (Ref × Target)) (adds : Bool) (rq : Requester) (xs : List (Nat × Byte)) (s : State)
    (h : Memory.wf s.mem = true) : Memory.wf (store o adds rq xs s).mem = true :=
  memory_wf_of_eq rfl rfl (memory_wf_commit _ _ (memory_wf_orderedWrites _ _ _ _ h))

theorem memory_wf_storeReceived (rq : Requester) (xs : List (Nat × Byte)) (s : State) (h : Memory.wf s.mem = true) :
    Memory.wf (storeReceived rq xs s).mem = true := memory_wf_logDropped _ _ _ (memory_wf_store _ _ _ _ _ h)

theorem memory_wf_asStarted (d : Desc) (t : Target) (s : State) (h : Memory.wf s.mem = true) :
    Memory.wf (asStarted d t s).mem = true := by
  unfold asStarted
  split
  · exact memory_wf_putBytes _ _ h
  · exact h

theorem memory_wf_withSnap (d : Desc) (s : State) (h : Memory.wf s.mem = true) : Memory.wf (withSnap d s).mem = true := by
  unfold withSnap
  split
  · exact memory_wf_asStarted _ _ _ h
  · exact h

theorem memory_wf_settled (s : State) (h : Memory.wf s.mem = true) : Memory.wf (settled s).mem = true := by
  unfold settled
  split
  · exact h
  · exact memory_wf_putBytes _ _ h

theorem memory_wf_bistClear (b : List Byte) (s : State) (h : Memory.wf s.mem = true) : Memory.wf (bistClear b s).mem = true := by
  unfold bistClear bistPowerDown
  split
  · exact memory_wf_loseStacks _ _ (memory_wf_clearPlaces _ _ h)
  · exact memory_wf_clearPlaces _ _ h

theorem memory_wf_foldl_putBytes {β : Type} (f : β → List (Nat × Byte)) (xs : List β) (m : Mem) (h : Memory.wf m = true) :
    Memory.wf (xs.foldl (fun m x => putBytes m (f x)) m) = true := by
  induction xs generalizing m with
  | nil => exact h
  | cons x xs ih => exact ih _ (memory_wf_putBytes _ _ h)

/-! ### Reads after writes -/

theorem byteAt_putBytes_other (m : Mem) (ws : List (Nat × Byte)) (k : Nat) (h : ∀ w ∈ ws, w.1 ≠ k) :
    byteAt (putBytes m ws) k = byteAt m k := get_foldl_put_other _ _ _ _ _ h

theorem byteAt_clearPlaces_other (p : Nat → Bool) (m : Mem) (k : Nat) (h : p k = false) :
    byteAt (clearPlaces p m) k = byteAt m k := by
  simp only [byteAt, clearPlaces]
  induction m.bytes with
  | nil => rfl
  | cons c t ih =>
    obtain ⟨j, v⟩ := c
    rw [List.filter_cons]
    by_cases e : j = k
    · subst e; simp [h, Tab.get]
    · split
      · simpa [Tab.get, e] using ih
      · simpa [Tab.get, e] using ih

end Sys2Proof.Machine
end

