-- ==== Sys2Proof/WellFormed.lean ====
section
/-! DEFINITION. The bounds that the spec gives a command's operands: which ports, rings, queues, dies and the like exist. A command
outside them names nothing that the block has; the meanings leave the state unchanged then (log 1). -/

namespace Sys2Proof

/-- R29, R498: rings have numbers 0 to 63. -/
def Ref.wf (r : Ref) : Bool := decide (r.ring < 64)

/-- R17, R265, R498: 96 logical cores of four compute dies, and the I/O die's engines. -/
def Target.wf : Target → Bool
  | .core die k => decide (die < 4) && decide (k < 96)
  | _ => true

/-- R401: dies 0 to 3, cores 0 to 95, STREAM_ID 0 to 127. -/
def StreamKey.wf (k : StreamKey) : Bool :=
  decide (k.srcDie < 4) && decide (k.dstDie < 4) && decide (k.dstCore < 96) && decide (k.streamId < 128)

/-- R300, R302: a virtual channel of 0 to 7 and at most 4,096 payload bytes. -/
def Packet.wf (p : Packet) : Bool := decide (p.vc < 8) && decide (p.payload.length ≤ 4096)

/-- R277, R279: a receive queue, a format code of 4 bits and a priority of 2. -/
def EntryIn.wf (e : EntryIn) : Bool := decide (e.queue < 64) && decide (e.fmt < 16) && decide (e.prio < 4)

/-- R179, R183: two or three symbols in error, or 0xFF for more than the code locates; at most the 64 data bytes of a codeword. -/
def Ecc.wf : Ecc → Bool
  | .uncorrectable n => n == 2 || n == 3 || n == 0xFF
  | .miscorrected bs => decide (bs.length ≤ 64)
  | _ => true

/-- R292: lanes 0 to 7. -/
def Flit.wf (f : Flit) : Bool := decide (f.laneField < 8) && decide (f.lane < 8) && f.codeword.wf

/-- R440: the values of WHAT in use have three bits. -/
def Finding.wf (f : Finding) : Bool := decide (f.what < 8)

/-- R482: a scan of the boundary register shifts one bit into each of its cells (log 93). -/
def shiftWf (shiftIn : List Bool) : Bool := shiftIn.length == 30

/-- The bounds of a command's operands. -/
def Instr.wf : Instr → Bool
  | .pcieLinkUp rate width => decide (1 ≤ rate ∧ rate ≤ 7) && decide (1 ≤ width ∧ width ≤ 16)
  | .zeroFillComplete st => decide (st < 12)
  | .thermalTrip n => decide (n < 32)
  | .entryStepFail st u => decide (1 ≤ st ∧ st ≤ 6) && decide (u < 16)
  | .doorbellPoll (some ws) => decide (ws.length ≤ 128)
  | .descFetch r b => decide (r < 64) && (match b with | some b => decide (b.length = 64) | none => true)
  | .descStart t | .descResume t => t.wf
  | .waitTimeout d | .descComplete d | .nop d | .waitHost d | .waitHostPoll d _ | .signalHost d => d.wf
  | .completionRecordWaitEnd c | .msixModerationEnd c | .cringEnable c _ => decide (c < 64)
  | .msixUnmask v => decide (v < 256)
  | .sringCfgWrite r _ _ => decide (r < 64)
  | .ctxBegin c | .ctxEnd c | .ctxAbort c | .ctxEndFinish c => decide (c < 16)
  | .mma d | .conv d | .bMma d | .wMmaAccumulate d | .wMmaFlush d | .streamCreditTimeout d => d.wf
  | .chainTensor d | .chainDrain d | .chainStream d | .streamWaitTimeout d => d.wf
  | .streamRow k | .streamEnd k | .streamFenced k | .streamCredit k => k.wf
  | .memReadReturn d core _ e => d.wf && (decide (core < 384) || core == 0xFFFF) && e.wf
  | .scrub _ e => e.wf
  | .bar2Read _ len errors _ => decide (1 ≤ len ∧ len ≤ 4096) && errors.all fun e => decide (e.1 < len) && e.2.wf
  | .bar2Write _ b => decide (1 ≤ b.length)
  | .copy d | .relayout d | .gather d | .scatterStore d | .scatterAdd d => d.wf
  | .heOpFill d | .heOpCopy d | .heOpCast d | .heOpReduceAdd d | .heOpScale d | .heOpNorm d | .heOpNormAcc d => d.wf
  | .optStep d | .gateTimeout d => d.wf
  | .timeReqSend p | .timeReqReceive p _ _ | .timeRspReceive p _ _ _ _ | .timeReplyTimeout p => decide (p < 16)
  | .ftNowRead o => o == 0 || o == 4
  | .ftPlanEnable p => decide (p < 2)
  | .tallyAdd d t | .tallySet d t | .tallyWait d t | .tallyWaitAdd d t | .tallyRead d t => d.wf && t.wf
  | .barrierArrive d t | .barrierWait d t | .barrierArriveWait d t => d.wf && t.wf
  | .barrierLatchRelease l => decide (l < 32)
  | .send d | .recv d => d.wf
  | .entryReceive e => e.wf
  | .sqrxEnable q _ | .grantRepeat q | .sqrxFlush q _ | .entryStale q _ | .sqtxCfgWrite q _ => decide (q < 64)
  | .grantReceive p | .grantAckReceive p | .qstateReceive p | .refuseReceive p | .resyncReceive p => p.wf
  | .portEnable p | .noSignalTimeout p | .signalCheck p _ | .trainingAttemptFail p _ | .helloSend p | .helloReceive p _ => decide (p < 16)
  | .zbRetrainWrite p | .retrainRelock p | .retrainFail p | .ackSend p | .ackReceive p _ _ | .nakReceive p _ _ => decide (p < 16)
  | .replayTimeout p | .nakRepeatTimeout p | .packetSend p | .portFailover p | .portReturn p | .peerHelloLapse p => decide (p < 16)
  | .laneSilence p l => decide (p < 16) && decide (l < 8)
  | .flitReceive p f => decide (p < 16) && f.wf
  | .creditReceive p vc _ => decide (p < 16) && decide (vc < 8)
  | .packetReceive p q | .chunkReceive p q | .mackReceive p q | .rwrReceive p q | .rrdReceive p q | .rrspReceive p q =>
    decide (p < 16) && q.wf
  | .blockFree c _ => decide (c < 128)
  | .allReduce d | .reduceScatter d | .allGather d | .broadcast d | .allToAll d | .put d | .get d => d.wf
  | .guardReport d | .guardVerdict d | .verdictForm d => d.wf
  | .emberOpen d | .emberAbandon d => d.wf
  | .emberLoad d _ b => d.wf && (match b with | some b => decide (b.length ≤ 2097152) | none => true)
  | .emberPacketReceive p | .logPacketReceive p => p.wf
  | .duestGroupReceive l _ _ _ | .duestNakReceive l _ | .duestReplayTimeout l => decide (l < 10)
  | .sidebandWord d _ _ _ _ => decide (d < 4)
  | .sidebandFault l => decide (6 ≤ l ∧ l < 10)
  | .opSet d | .railPreraise d => d.wf
  | .clockWalkStep d | .droop d | .railRecover d => decide (d < 4)
  | .tempSample rs => decide (rs.length ≤ 32)
  | .bistLogic d | .bistSram d | .bistStack d | .bistArray d => d.wf
  | .bistRunEnd _ fs => fs.all Finding.wf
  | .mbPost m _ | .mbAck m _ | .kolnuTake m | .info m | .echo m | .fwLoad m | .mbBist m | .measExtend m | .measLog m => decide (m < 16)
  | .mctpMailboxRequest m _ b => decide (m < 16) && decide (b.length ≤ 256)
  | .getCertificate _ slot off len => decide (slot < 8) && decide (off < 65536) && decide (len < 65536)
  | .challenge _ slot _ nonce => decide (slot < 8) && decide (nonce.length = 32)
  | .getMeasurements _ op _ nonce => decide (op < 256) && decide (nonce.length ≤ 32)
  | .samplePreload a b => shiftWf a && b.length % 30 == 0
  | .bar0UnsupportedAccess _ _ size => decide (1 ≤ size)
  | .registerWrite off size _ => decide (off < 33554432) && (size == 4 || size == 8) && off % size == 0
  | .doorbellPoll none | .inputInRange _ | .standbyReady | .inputLoss _ | .perstNDeassert _ _ | .perstNAssert | .coolantStop => true
  | .coolantOkNAssert | .enterFull | .fullServiceTrainingDone | .enterKindling _ | .enterBanked | .clearFence => true
  | .dieReturnDone _ | .descDispatch | .sownRelease | .statusPageWrite => true
  | .emberPageCopy _ | .emberCopyDone _ | .ftEpochPulse | .epochMissTimeout | .ftRefLoss | .ftRefReturn => true
  | .ftCtrlArm _ | .ftCtrlDisarm _ | .ftLoadWrite _ | .frameBoundary | .ftOutPulse | .ftOutCfgWrite _ => true
  | .admitReq | .admitCheckDone | .admitWithdraw | .guardCfgWrite _ | .guardDoneRoundWrite _ | .ledgerAudit => true
  | .lgSnapArm _ | .lgSnapDisarm _ | .ledgerSnapshot | .emberStream | .pageAckReceive _ _ | .sealAckReceive _ => true
  | .sealReceive _ | .logAckReceive _ | .forfeitReceive | .pairSend | .pairReceive _ _ _ | .heartbeatSend => true
  | .heartbeatReceive _ | .partnerLossTimeout | .faultReceive _ | .takeoverRestoreDone | .takeoverLive | .deposeSend => true
  | .deposeReceive | .dieLost _ _ | .dieCtrlReset _ _ | .powerSample _ _ | .capCeilingRaise => true
  | .steerTick | .thermalCeilingRaise | .inputLow | .inputHigh | .inputNormal | .getVersion _ | .getCapabilities _ => true
  | .negotiateAlgorithms _ _ _ | .getDigests _ | .spdmUnsupportedRequest _ _ | .doeAbort | .setEndpointId _ => true
  | .getEndpointId | .getMctpVersionSupport | .getMessageTypeSupport | .i3cTargetReset | .setdasa _ | .extest | .entdaa _ => true
  | .secSetupLockWrite _ | .watchdogExpiry | .bypass | .idcode | .tapReset | .yokeCfgWrite _ => true
  | .iodGpioWrite _ | .iodWdogWrite _ | .pwrCfgWrite _ | .poolResvWrite _ | .watchdogRestart | .managementRestartDone => true
  | .emberHostAckRead _ | .doeDiscovery _ => true

end Sys2Proof
end

