-- ==== Sys2Proof/Tests/Slice0.lean ====
section
/-! SUPPORT. The model's own tests: ill-formed commands that `Instr.wf` refuses, worked examples of the spec, and for each
statement with hypotheses a witness that meets them, one conjunct for each of its clauses. -/

namespace Sys2Proof.Tests

open Sys2Proof Sys2Proof.Machine

-- Each theorem is checked before the next is read, so that few threads wait at once.
set_option Elab.async false

/-! ### Small states and descriptors -/

def inMode (m : Mode) : State := { State.reset with ms := { ModState.reset with mode := m } }

def sK : State := inMode .kindling

def sF : State := inMode .full

def sX : State := inMode .fenced

def sB : State := inMode .banked

def sS : State := inMode .standby

def bytesOf (fs : List (Nat × Nat × Nat)) : List Byte :=
  fs.foldl (fun b f => b.take f.1 ++ leBytes f.2.1 f.2.2 ++ b.drop (f.1 + f.2.1)) (List.replicate 64 0)

def r0 : Ref := ⟨0, 0⟩

def dBytes (b : List Byte) (st : CopyState) (stage : Nat) : Desc :=
  { ref := r0, bytes := b, ctx := 0, prio := 0, dispatched := true, order := 0,
    copies := (targetsOf b).map fun t => { target := t, st := st, stage := stage, since := 0, report := none },
    start := some 0, lateness := 0, outcome := none, detailAll := none, collided := false, deps := 0, waiting := none, replayed := false,
    pair := none }

/-- op unit first count fields -/
def dsc (op unit first count : Nat) (fs : List (Nat × Nat × Nat)) : Desc :=
  dBytes (bytesOf ([(0, 1, op), (3, 1, unit), (4, 1, first), (5, 1, count)] ++ fs)) .running 0

def withD (s : State) (d : Desc) : State := { s with descs := [d] }

/-- a descriptor of ring 0 that is fetched and not dispatched -/
def ftd (i : Word) (op unit first count : Nat) (fs : List (Nat × Nat × Nat)) : Desc :=
  { dsc op unit first count fs with ref := ⟨0, i⟩, dispatched := false, copies := [], start := none }

def sR : State :=
  { sK with host := { HostIf.reset with srings := [(0, { SRing.reset with en := true, prod := some 1 })], crings := [(0, { CRing.reset with en := true })],
                                        ctxs := [(0, { Ctx.reset with state := .active })] } }

def sRF : State := { sR with ms := sF.ms }

def held (d : Desc) (st : CopyState) (k : Nat) : Desc := { d with copies := d.copies.map fun c => { c with st := st, stage := k } }

def sLg (d : Nat) (x : LgDom) (s : State) : State := setLgDom d x s

def tdRec (base fmt : Nat) (ext st : List Nat) : List Byte :=
  bytesOf ([(0, 7, base + fmt * 2 ^ 44 + ext.length * 2 ^ 48)] ++ (ext.zipIdx.map fun (e, d) => (12 + 3 * d, 3, e)) ++
    (st.zipIdx.map fun (e, d) => (30 + 5 * d, 5, e)))

def poke (a : Nat) (b : List Byte) (s : State) : State := { s with mem := putBytes s.mem (placeWrites s .iod a b) }

def sM : State :=
  poke 0x280 (tdRec 0x3000 0 [1, 1] [128]) (poke 0x240 (tdRec 0x2000 1 [1, 1] [128]) (poke 0x200 (tdRec 0x1000 1 [1, 1] [128]) sF))

def sC : State :=
  poke 0x280 (tdRec 0x3000 0 [1, 1, 1, 1] [128, 128, 128]) (poke 0x240 (tdRec 0x2000 1 [1, 1, 1, 1] [128, 128, 128])
    (poke 0x200 (tdRec 0x1000 1 [1, 1, 1, 1] [128, 128, 128]) sF))

/-- three tensors, and fields -/
def dm (op : Nat) (fs : List (Nat × Nat × Nat)) : Desc :=
  dsc op 0 0 1 ([(16, 8, 0x200), (24, 8, 0x240), (32, 8, 0x280), (44, 1, 1)] ++ fs)

def dV (fs : List (Nat × Nat × Nat)) : Desc := dsc 0x18 0 0 1 ([(16, 8, 0x200), (24, 8, 0x240), (32, 8, 0x300)] ++ fs)

def dMC : Desc := { dm 0x10 [(42, 1, 0x80)] with pair := some ⟨0, 1⟩ }

def dVC : Desc := { dV [(16, 8, 0), (40, 1, 0x40)] with ref := ⟨0, 1⟩, pair := some r0 }

def dVS (k : Nat) (n : Nat) : Desc := held (dV [(40, 1, 0x80), (60, 1, 1), (61, 1, 2 * n)]) .running k

def kS : StreamKey := { srcDie := 1, dstDie := 0, dstCore := 0, streamId := 0 }

def sRaw (x : RawStream) (s : State) : State := setRaw (keyOf kS) x s

def dSend : Desc := dm 0x10 [(42, 1, 0xC0), (46, 1, 1)]

def sFl (s : State) : State := { s with mem := { s.mem with filled := (List.range 12).map fun i => (i, true) } }

def sG : State :=
  poke 0x280 (tdRec 0x3000 1 [1, 1] [128]) (poke 0x240 (tdRec 0x2000 8 [1] []) (poke 0x200 (tdRec 0x1000 1 [1, 1] [128]) sF))

def dG (op : Nat) (fs : List (Nat × Nat × Nat)) : Desc := dsc op 0 0 1 ([(16, 8, 0x200), (24, 8, 0x240), (32, 8, 0x280), (40, 1, 1)] ++ fs)

def dCp (op : Nat) (fs : List (Nat × Nat × Nat)) : Desc := dsc op 0 0 1 ([(16, 8, 0x200), (24, 8, 0x240)] ++ fs)

def sH : State := poke 0x400 (bytesOf [(0, 8, 0x1000), (8, 8, 0x2000), (16, 8, 1)]) sF

def dH (w : Nat) : Desc := dsc 0x48 4 0 0 [(16, 8, 0x400), (24, 4, w), (48, 8, if w % 16 = 5 ∨ w % 16 = 6 then 0x3000 else 0)]

def sO : State := poke 0x440 (bytesOf [(0, 8, 0x1000), (8, 8, 0x2000), (32, 8, 1)]) (poke 0x400 (bytesOf [(0, 4, 0x115)]) sF)

def dO (g : Nat) : Desc := dsc 0x49 4 0 0 [(16, 8, 0x400), (40, 1, g)]

def dTy (op v : Nat) : Desc := dsc 0x30 0 0 1 [(16, 4, 0 + op * 2 ^ 16), (20, 4, v), (24, 4, 5)]

def sT (c : Nat) : State :=
  { sF with sync := { Sync.reset with tallies := if c = 0 then [] else [(0, BitVec.ofNat 32 c)] },
            host := { HostIf.reset with ctxs := [(0, { Ctx.reset with state := .active, count := 1 })] } }

def dBa (op : Nat) : Desc := dsc 0x31 0 0 1 [(16, 4, op * 2 ^ 8)]

/-- line 0 with two cores; flags and latches -/
def sL (a l : Tab Bool) : State :=
  { sF with sync := { Sync.reset with lines := [(0, { Line.reset with cores := [(0, 3)], arrived := a, latched := l })] },
            lg := { Ledger.reset with doms := [(6, { LgDom.full 4 with free := 4 - a.length - l.length, held := a.length + l.length, heldBy := if a.length + l.length = 0 then [] else [(0, a.length + l.length)] })] },
            host := { HostIf.reset with ctxs := [(0, { Ctx.reset with state := .active, lines := 1 })] } }

def pk (type stream : Nat) : Packet :=
  { type := BitVec.ofNat 4 type, vc := 0, last := true, dstSide := 0, srcSide := false, srcPos := 5, dstPos := 0, stream := BitVec.ofNat 16 stream,
    mseq := 7, offset := 0, arg0 := 0, arg1 := 0, payload := [] }

def txA : SqTx := { SqTx.reset with en := true, destQ := 3, destPos := 5 }

def sTx (x : SqTx) : State := { sM with sync := { Sync.reset with tx := [(0, x)] } }

def rxA : SqRx := { SqRx.reset with en := true, srcPos := 5, depth := 2, base := 0x4000 }

def sRx (x : SqRx) : State :=
  { sM with sync := { Sync.reset with rx := [(3, x)] },
            lg := { Ledger.reset with doms := [(4, { LgDom.full 2 with free := 0, lent := 2 - x.entries.length, held := x.entries.length, lentBy := if x.entries.length = 2 then [] else [(3, 2 - x.entries.length)], heldBy := if x.entries = [] then [] else [(3, x.entries.length)] })] } }

def entA : SqEntry := { seq := 0, fmt := 1, prio := 0, etag := 0, slot := 0, len := 2, since := 0, stale := false, collided := false, taken := none }

def enA (q : Word) : EntryIn := { srcPos := 5, queue := 3, seq := q, fmt := 1, prio := 0, etag := 0, payload := [1, 2], collided := false }

def dSq (op n : Nat) (extra : Nat) : Desc := dsc op 0 0 1 [(16, 8, 0x200), (24, 1, n + extra)]

def runA (x : Nat) : CollRun :=
  { ref := r0, exchange := false, slot := 0, inst := 0, op := x, want := [], sent := [], reply := false, waited := 0, bad := none, nf := none,
    heard := false, lastPos := 0, lastSide := false, lastAt := 0, lastSend := 0, collisions := 0, collPort := 0, reports := [] }

def sPt (st : PortState) : State := { sF with link := { Links.reset with ports := [(0, { Port.reset with state := st })] } }

def sPt15 : State := { sF with link := { Links.reset with ports := [(15, { Port.reset with state := .parked })] } }

/-- a plan record of one run, with VC_MASK -/
def sPl (m : Nat) : State :=
  let s := poke 0x1000 (bytesOf [(0, 4, m * 2 ^ 16)] ++ leBytes 8 (1 * 2 ^ 12)) sF
  { s with ft := { FieldTime.reset with plans := [(1, { Plan.reset with addr := 0x1000, len := 1 })] } }

/-- one port, in a state -/
def sP (p : Nat) (x : Port) (s : State) : State := { s with link := { s.link with ports := [(p, x)] } }

def pSt (st : PortState) : Port := { Port.reset with state := st }

def hel (proto port : Byte) : Hello :=
  { position := 5, side := false, yokeEn := false, port := port, kindDev := 0, role := 0, variant := false, iodGen := 2, state := 3, proto := proto }

/-- admitted, with port 0's peer position 5, port 0 -/
def mfA : Manifest :=
  { position := 0, yokeEn := false, required := 1, allowSkew := false, peers := [(5, false, true, 0, 0)], groups := [(0, 1)] }

def sAd (s : State) : State := { s with adm := { Admit.reset with state := 2, admitted := true, manifest := some mfA } }

def fl (fs open1 : BitVec 12) : Flit :=
  { fseq := fs, replay := false, idle := false, laneField := 0, lane := 0, codeword := .clean, crcFail := false, firstOpen := open1 }

def pUp (un : List (BitVec 12 × TxItem)) : Port := { pSt .up with tx := { PortTx.reset with unacked := un, next := 2, credits := [(0, 9)] } }

def fz (n : Nat) (s : State) : State := { s with clk := n }

/-- blocks lent to channel 0 of port 0 -/
def sBk (n : Nat) (s : State) : State :=
  { s with lg := { Ledger.reset with doms := [(5, { LgDom.full 100 with free := 100 - n, lent := n, lentBy := [(0, n)] })] },
           link := { s.link with pool := { Pool.reset with chans := [(0, { PoolCh.reset with adv := n, effReserve := 256, effMax := 2048 })], shared := 50 } } }

def sMf (req : Nat) : State :=
  { poke 0x1000 (leBytes 4 (req * 2 ^ 16) ++ leBytes 4 0) (sFl { sF with ft := { FieldTime.reset with aligned := true } }) with
    adm := { Admit.reset with state := 1, manifestAddr := 0x1000 } }

def planOne : Plan := { Plan.reset with en := true, len := 1, vcMask := 1, entries := [] }

/-- a member list of two and an owner table of two entries, their tensors, and the module admitted -/
def oTab : List Byte :=
  let e (o p td : Nat) : List Byte := bytesOf [(0, 3, o), (18, 3, 1), (36, 2, p), (40, 6, td)]
  bytesOf [(0, 4, 1 + 2 ^ 16 + 2 ^ 19), (8, 3, 2)] ++ e 0 0 0x200 ++ e 1 1 0x240

def sCo : State :=
  sAd (poke 0x800 oTab (poke 0x400 (leBytes 2 1 ++ leBytes 2 0 ++ leBytes 2 1)
    (poke 0x240 (tdRec 0x3000 1 [1] []) (poke 0x200 (tdRec 0x2800 1 [1] []) sF))))

def dCo (op : Nat) (fs : List (Nat × Nat × Nat)) : Desc :=
  dsc 0x40 4 0 0 ([(16, 3, op + 2 ^ 10), (24, 6, 0x2000), (48, 8, 2)] ++ (if op ≤ 4 then [(32, 8, 0x400)] else []) ++ fs)

def sUp : State := sAd (sP 0 (pSt .up) sF)

def pk0 (type stream : Nat) : Packet := { pk type stream with mseq := 0 }

def sRun (x : CollRun) (d : Desc) (s : State) : State := withD { s with coll := { Coll.reset with run := some x } } d

def asA (op : Nat) (q : Word) : Asked := { pos := 5, seq := q, ref := r0, far := 5 * 2 ^ 44, get := op == 6 }

def sAsk (op : Nat) (q : Word) (s : State) : State := { s with coll := { s.coll with asked := [asA op q] } }

def dGr (fs : List (Nat × Nat × Nat)) : Desc := dsc 0x58 4 0 0 fs

def dGv (fs : List (Nat × Nat × Nat)) : Desc := dsc 0x59 4 0 0 ([(16, 8, 0x400)] ++ fs)

def repA : List Byte := List.replicate 32 0

def cmA (w : FVal) : Combined :=
  { nfTotal := 0, wSum := w, mean := fzero, norm2 := fzero, amax := 0, nfRank := 0x7FFF, mismatch := false, forced := false }

def lgA : LgDom := { LgDom.full 8 with free := 3, held := 3, lent := 2, heldBy := [(2, 3)], lentBy := [(2, 2)] }

def embA (n : Nat) : EmberEntry := { base := 0x600000, pages := n, bank0 := 0x600000, bank1 := BitVec.ofNat 44 (0x600000 + 0x600000 * ((n + 2) / 3)) }

/-- an ember table of one entry of `n` pages at 0x400 -/
def sE (n : Nat) : State :=
  poke 0x400 (List.replicate 64 0 ++ leBytes 8 0x600000 ++ leBytes 8 n ++ leBytes 8 0x600000 ++ leBytes 8 (0x600000 + 0x600000 * ((n + 2) / 3))) sF

def dE (w : Nat) : Desc := dsc 0x60 4 0 0 [(16, 8, 0x400), (24, 1, w)]

def embS (n : Nat) : Ember := { Ember.reset with streaming := true, table := [embA n], current := 1, opened := true }

def sEm (e : Ember) : State := { sF with ember := e, lg := { Ledger.reset with doms := [(7, { LgDom.full 4 with free := 3, held := 1, heldBy := [(0, 1)] })] } }

def hwA : HeldWrite := { page := 0, owner := none, key := 0x600000, byte := 7 }

def pgA (st : PageState) : EmberPage := { EmberPage.reset with st := st }

def sY (y : Yoke) (s : State) : State := { s with yoke := { y with en := true } }

def yL : Yoke := { Yoke.reset with partner := 2, gotPair := true, gotBeat := true }

def sTk (st : TakeStage) (pos : Nat) : State :=
  { sB with ms := { sB.ms with trans := .takeover }, yoke := { yL with stage := st, replayPos := pos, logEnd := 16 }, ember := { Ember.reset with sealedEpoch := 1 } }

def sDl (l : Nat) (x : DuestLink) (s : State) : State := { s with duest := { Duest.reset with links := [(l, { x with state := 2 })] } }

def sKf : State := { sK with ms := { sK.ms with dieFenced := 1 } }

def dOp (w : Nat) : Desc := dsc 0x68 4 0 0 [(16, 4, w)]

def sSq (s : State) : State := { s with pwr := { s.pwr with seqEn := true } }

def pwOff (s : State) : State := { s with pwr := { s.pwr with seqEn := false } }

def dBi (k : Nat) : Desc := dsc 0x70 4 0 0 [(16, 2, k), (20, 2, 256), (32, 8, 64), (40, 8, 0x10000), (48, 8, 1)]

def biRun (b : List Byte) : Bist := { Bist.reset with running := true, mailbox := false, mb := 16, ref := some r0, body := b, kind := 0, die := 0 }

def walkA (mhz goal : Nat) (s : State) : State := setPwrDie 0 { PwrDie.reset with walking := true, mhz := mhz, goal := goal, rail := 3440 } s

def fi1 : Finding := { what := 1, core := 0, index := 3, spare := false, place := 0, data := 0 }

def sMb (m : Nat) (x : Mailbox) (s : State) : State := setMailbox m x { s with pins := { s.pins with standbyReady := true } }

def mbR (b : List Byte) (st : MbState) : Mailbox := { Mailbox.reset with state := st, len := b.length, tag := 9, slot := b }

/-- a second-stage image with a bad codeword after its header, and a request for it -/
def sFwBad : State :=
  let s := poke 0x1000 (leBytes 4 0x554E4C4B ++ [2, 0, 0, 0] ++ List.replicate 8 0 ++ leBytes 4 64)
    (sMb 3 (mbR ([0x10, 0, 0, 0] ++ leBytes 8 0x1000 ++ leBytes 4 1088) .serving) { sK with mem := { sK.mem with filled := [(0, true)] } })
  { s with mem := { s.mem with bad := [(0x1400, 1)] } }

def sPd (p : Spdm) : State := { sF with trust := { sF.trust with doe := p } }

theorem sMfBytes : readBytes (sMf 0) .iod (sMf 0).adm.manifestAddr.toNat 2240 = List.replicate 2240 0 := by decide +kernel

theorem someOfIsSome {α : Type} {o : Option α} (a : α) (h : o.isSome = true) : o = some (o.getD a) := by
  cases o with
  | none => cases h
  | some x => rfl

theorem fieldAtZeros (n off lo len : Nat) : fieldAt (List.replicate n 0#8) off lo len = 0 := by
  have h : ∀ k, leNat (List.replicate k 0#8) = 0 := by
    intro k; induction k with
    | zero => rfl
    | succ k ih => simp [List.replicate_succ, leNat, ih]
  simp [fieldAt, List.drop_replicate, List.take_replicate, h, bitsOf]

theorem zerosReserveNothing (n : Nat) : manifestReserved (List.replicate n 0#8) = false := by
  simp [manifestReserved, fieldAtZeros, anySet, List.drop_replicate, List.take_replicate]

theorem copyRuns {s : State} {r : Ref} {t : Target} {o : Op} {k : Nat} {x : Desc}
    (h : (decide (findDesc s r = some x ∧ x.op = some o ∧ x.outcome = none) &&
      (copyAt x t).any fun c => decide (c.st = .running ∧ c.stage = k)) = true) : CopyRunsAt s r t o k x := by
  simp only [Bool.and_eq_true, decide_eq_true_eq, Option.any_eq_true] at h
  obtain ⟨⟨a, b, d⟩, c, hc, e⟩ := h
  exact ⟨a, b, d, c, hc, e⟩


/-! ### Ill-formed commands are refused -/

theorem test_wf_refuses_refs_and_targets :
    [Instr.nop ⟨64, 0⟩, .descFetch 64 none, .descFetch 0 (some []), .descStart (.core 4 0), .descResume (.core 0 96),
     .completionRecordWaitEnd 64, .sringCfgWrite 64 .cfg 0, .ctxBegin 16, .ctxAbort 16, .msixUnmask 256,
     .tallyAdd ⟨0, 0⟩ (.core 0 96), .barrierArrive ⟨64, 0⟩ .host, .barrierLatchRelease 32,
     .memReadReturn ⟨0, 0⟩ 384 0 .clean].all (fun i => !i.wf) = true := by decide +kernel

theorem test_wf_refuses_links_and_packets :
    [Instr.streamRow { kS with srcDie := 4 }, .streamEnd { kS with dstCore := 96 }, .streamFenced { kS with streamId := 128 },
     .streamCredit { kS with dstDie := 4 }, .portEnable 16, .laneSilence 0 8, .laneSilence 16 0, .flitReceive 0 { fl 0 0 with lane := 8 },
     .flitReceive 0 { fl 0 0 with laneField := 8 }, .creditReceive 0 8 1, .creditReceive 16 0 1,
     .packetReceive 0 { pk 1 0 with vc := 8 }, .chunkReceive 16 (pk 2 0),
     .grantReceive { pk 3 0 with payload := List.replicate 4097 0 }, .entryReceive { enA 0 with queue := 64 },
     .entryReceive { enA 0 with fmt := 16 }, .entryReceive { enA 0 with prio := 4 }, .sqrxEnable 64 1, .blockFree 128 1,
     .duestNakReceive 10 0, .sidebandWord 4 0 false false false, .sidebandFault 5].all (fun i => !i.wf) = true := by decide +kernel

theorem test_wf_refuses_the_rest :
    [Instr.pcieLinkUp 0 16, .pcieLinkUp 6 17, .zeroFillComplete 12, .thermalTrip 32, .entryStepFail 7 0, .entryStepFail 1 16,
     .doorbellPoll (some (List.replicate 129 0)), .bar2Read 0 0 [] 0, .bar2Read 0 4097 [] 0, .bar2Read 0 64 [(64, .clean)] 0, .bar2Write 0 [], .timeReqSend 16, .ftNowRead 1,
     .ftPlanEnable 2, .clockWalkStep 4, .tempSample (List.replicate 33 0), .bistRunEnd 0 [{ fi1 with what := 8 }], .mbPost 16 0,
     .mctpMailboxRequest 0 0 (List.replicate 257 0), .getCertificate .doe 8 0 0, .getCertificate .doe 0 65536 0,
     .challenge .doe 0 .all [], .getMeasurements .doe 256 false [], .samplePreload [true] [], .bar0UnsupportedAccess true 0 0,
     .registerWrite 2 4 0, .registerWrite 0 2 0, .registerWrite 33554432 4 0].all (fun i => !i.wf) = true := by decide +kernel

theorem test_wf_accepts_the_bounds :
    [Instr.nop ⟨63, 0⟩, .descStart (.core 3 95), .ctxBegin 15, .memReadReturn ⟨0, 0⟩ 0xFFFF 0 .clean, .portEnable 15, .laneSilence 15 7,
     .packetReceive 15 { pk 1 0 with vc := 7, payload := List.replicate 4096 0 }, .blockFree 127 1, .zeroFillComplete 11, .pcieLinkUp 7 16,
     .bar2Read 0 4096 [(4095, .corrected)] 0, .registerWrite 33554424 8 0, .samplePreload (List.replicate 30 true) (List.replicate 60 false), .extest].all (fun i => i.wf) = true := by decide +kernel

/-! ### The opcode table gives no row bits -/

theorem test_no_word_spells_a_command : decodeTableWord 32 0x12345678 = none ∧ sF.withFetchWord 32 0 = sF := by
  exact ⟨rfl, rfl⟩

theorem test_empty_queue_ticks : step State.reset = .next (tick State.reset) := rfl

/-! ### Worked examples of the spec -/

/-- R12's example: a producer 32 entries ahead across the wrap, and a tally past its target by 0x7FFFFFF0. -/
theorem test_serial_example : serial 0xFFFFFFF0 0x10 = .ahead 32 ∧ serial 0 0x80000010 = .past 0x7FFFFFF0 := by decide +kernel

/-- The example of stochastic rounding in 03_number_formats: 1 + 2^-9 to BF16. -/
theorem test_stochastic_rounding_example :
    encodeF bf16 (.sr 0x2A71) 0 (decodeF fp32 0x3F804000) = 0x3F81 ∧ encodeF bf16 (.sr 0x9C02) 0 (decodeF fp32 0x3F804000) = 0x3F80 := by
  decide +kernel

/-- The example of E4M3 in 03_number_formats: 500.0 overflows, 460.0 does not. -/
theorem test_e4m3_example :
    encodeF e4m3 .rne 0 (ofInt 500 0 false) = 0x7E ∧ encodeF e4m3 .rne 2 (ofInt 500 0 false) = 0x7F ∧
      encodeF e4m3 .rne 0 (ofInt 460 0 false) = 0x7E := by decide +kernel

/-- The example of MXFP4 in 03_number_formats, by the FP32 codes of 13.0, 5.0, 1.3 and -0.2. -/
theorem test_mxfp4_example :
    let r := mxBlock 7 (([0x41500000, 0x40A00000, 0x3FA66666, 0xBE4CCCCD].map (decodeF fp32) ++ List.replicate 28 fzero).map fun x => (x, Rnd.rne))
    r.1 = 0x80 ∧ r.2.take 5 = [7, 4, 1, 8, 0] := by decide +kernel

/-- The example of interleaving in 07_memory_system: 0x4000005A40 lies in HE5 at byte 0x1A40. -/
theorem test_interleaving_example : placeOf sF 0x4000005A40 = some (.stack 5 0x1A40) := by decide +kernel

/-- The example of the straps in 21_module_interface: side B of a pair at group 300, slot 17. -/
theorem test_straps_example :
    let s := { sF with pins := { Pins.reset with straps := 0xE32C } }
    strapPos s = 300 * 32 + 17 ∧ strapYokeEn s = true ∧ strapSide s = true := by decide +kernel

/-! ### Witnesses -/

theorem wit_StepRunsFrontCommand :
    (∃ c : Instr, ∃ rest : List Instr, ∃ s : State, s.pending = c :: rest) ∧
    (∃ s : State, s.pending = []) :=
  ⟨⟨.tapReset, [], { State.reset with pending := [.tapReset] }, by decide +kernel⟩,
   ⟨State.reset, by decide +kernel⟩⟩

theorem wit_StepKeepsMemoryForm :
    (∃ s : State, ∃ t : State, Memory.wf s.mem = true ∧ step s = .next t) :=
  ⟨State.reset, tick State.reset, ⟨by decide +kernel, rfl⟩⟩

theorem wit_WritesReadBack :
    (∃ _m : Mem, ∃ ws : List (Nat × Byte), ∃ key : Nat, (∀ w ∈ ws, w.1 ≠ key)) ∧
    (∃ m : Mem, ∃ ws : List (Nat × Byte), ∃ key : Nat, codeword key ∈ partBad m ws) ∧
    (∃ m : Mem, ∃ ws : List (Nat × Byte), ∃ key : Nat, ∃ v : Byte, ∃ pre : List (Nat × Byte), ∃ post : List (Nat × Byte), codeword key ∉
      partBad m ws ∧ ws = pre ++ (key, v) :: post ∧ (∀ w ∈ post, w.1 ≠ key)) ∧
    (∃ m : Mem, ∃ ws : List (Nat × Byte), ∃ c : Nat, c ∈ wholeBad m ws) :=
  ⟨⟨{ Mem.reset with bytes := [(5, 7)] }, [(4, 9)], 5, by decide +kernel⟩,
   ⟨{ Mem.reset with bytes := [(5, 7)], bad := [(0, 1)] }, [(4, 9)], 5, by decide +kernel⟩,
   ⟨{ Mem.reset with bytes := [(5, 7)] }, [(4, 9)], 4, 9, [], [], by decide +kernel⟩,
   ⟨{ Mem.reset with bad := [(64, 1)] }, (List.range 64).map fun i => (64 + i, 3), 64, by decide +kernel⟩⟩

theorem wit_StepKeepsTheBuild :
    (∃ s : State, ∃ t : State, step s = .next t) :=
  ⟨State.reset, tick State.reset, rfl⟩

theorem wit_RegistersReadTheirResetValues :
    (∃ s : State, (s.ms.mode = .kindling ∨ s.ms.mode = .full ∨ s.ms.mode = .fenced ∨ s.ms.mode = .banked)) :=
  ⟨sK, by decide +kernel⟩

theorem wit_FormatsEncodeWhatTheyDecode :
    (∃ f : Fmt, f ∈ [fp32, bf16, fp16, e4m3, e5m2, e2m1] ∧ ∃ raw : Nat, ∃ _rnd : Rnd, ∃ _ovf : Nat, raw < 2 ^ f.bits ∧ ∃ neg : Bool, ∃ m :
      Nat, ∃ e : Int, decodeF f raw = .fin neg m e) ∧
    (∃ f : Fmt, f ∈ [fp32, bf16, fp16, e4m3, e5m2, e2m1] ∧ ∃ raw : Nat, ∃ _rnd : Rnd, ∃ ovf : Nat, raw < 2 ^ f.bits ∧ ∃ neg : Bool, decodeF
      f raw = .inf neg ∧ f.saturates ovf = false) ∧
    (∃ f : Fmt, f ∈ [fp32, bf16, fp16, e4m3, e5m2, e2m1] ∧ ∃ raw : Nat, ∃ _rnd : Rnd, ∃ _ovf : Nat, raw < 2 ^ f.bits ∧ decodeF f raw = .nan) :=
  ⟨⟨e4m3, by decide +kernel, 0x7E, .sr 65535, 2, by decide +kernel, false, 14, 5, by decide +kernel⟩,
   ⟨fp16, by decide +kernel, 0xFC00, .rz, 0, by decide +kernel, true, by decide +kernel⟩,
   ⟨bf16, by decide +kernel, 0xFFFF, .rne, 1, by decide +kernel⟩⟩

theorem wit_ScaledElementsRead :
    (∃ code : Nat, ∃ _raw : Nat, ∃ s : Nat, 5 ≤ code ∧ code ≤ 7 ∧ s = 0xFF) ∧
    (∃ code : Nat, ∃ raw : Nat, ∃ s : Nat, 5 ≤ code ∧ code ≤ 7 ∧ ∃ neg : Bool, ∃ m : Nat, ∃ e : Int, s ≤ 0xFE ∧ decodeF (fmtOf code) raw =
      .fin neg m e) ∧
    (∃ code : Nat, ∃ raw : Nat, ∃ s : Nat, 5 ≤ code ∧ code ≤ 7 ∧ s ≤ 0xFE ∧ decodeF (fmtOf code) raw = .nan) ∧
    (∃ code : Nat, ∃ raw : Nat, ∃ s : Nat, 5 ≤ code ∧ code ≤ 7 ∧ ∃ neg : Bool, s ≤ 0xFE ∧ decodeF (fmtOf code) raw = .inf neg) :=
  ⟨⟨7, 15, 255, by decide +kernel⟩,
   ⟨7, 15, 254, by decide +kernel, by decide +kernel, true, 3, 1, by decide +kernel⟩,
   ⟨5, 0xFF, 0, by decide +kernel⟩,
   ⟨6, 0xFC, 0, by decide +kernel, by decide +kernel, true, by decide +kernel⟩⟩

theorem wit_SerialComparison :
    (∃ c : Word, ∃ t : Word, ∃ d : Nat, (d : Int) = ((t.toNat : Int) - (c.toNat : Int)) % 2 ^ 32 ∧ d = 0) ∧
    (∃ c : Word, ∃ t : Word, ∃ d : Nat, (d : Int) = ((t.toNat : Int) - (c.toNat : Int)) % 2 ^ 32 ∧ 1 ≤ d ∧ d ≤ 2 ^ 31) ∧
    (∃ c : Word, ∃ t : Word, ∃ d : Nat, (d : Int) = ((t.toNat : Int) - (c.toNat : Int)) % 2 ^ 32 ∧ 1 ≤ d ∧ d ≤ 2 ^ 31) ∧
    (∃ c : Word, ∃ t : Word, ∃ d : Nat, (d : Int) = ((t.toNat : Int) - (c.toNat : Int)) % 2 ^ 32 ∧ 2 ^ 31 < d) :=
  ⟨⟨5, 5, 0, by decide +kernel⟩,
   ⟨5, 6, 1, by decide +kernel⟩,
   ⟨0, 0x80000000, 0x80000000, by decide +kernel⟩,
   ⟨0, 0x80000001, 0x80000001, by decide +kernel⟩⟩

theorem wit_StatisticsCountersWrap :
    (∃ c : Stat, c.count = 0xFFFFFFFFFFFFFFFF) ∧
    (∃ c : Stat, c.count = 0xFFFFFFFFFFFFFFFF) ∧
    (∃ c : Stat, c.count ≠ 0xFFFFFFFFFFFFFFFF) :=
  ⟨⟨{ count := 0xFFFFFFFFFFFFFFFF, wraps := 0xFFFF }, by decide +kernel⟩,
   ⟨{ count := 0xFFFFFFFFFFFFFFFF, wraps := 0xFFFE }, by decide +kernel⟩,
   ⟨{ count := 0, wraps := 1 }, by decide +kernel⟩⟩

theorem wit_PowerAndResetComplete :
    (∃ mv : Nat, ∃ s : State, 40000 ≤ mv ∧ mv ≤ 60000 ∧ s.ms.mode = .off) ∧
    (∃ s : State, s.ms.mode = .standby ∧ s.pins.standbyReady = false ∧ (s.pins.perstAsserted = true ∨ s.pins.coolantOk = false)) ∧
    (∃ mv : Nat, ∃ s : State, mv < 40000 ∧ s.ms.mode ≠ .off) ∧
    (∃ _straps : BitVec 18, ∃ _ftRef : Bool, ∃ s : State, s.ms.mode = .standby ∧ s.ms.trans = .none ∧ s.pins.standbyReady = true ∧
      s.pins.coolantOk = true) ∧
    (∃ rate : Nat, ∃ width : Nat, ∃ s : State, s.ms.mode = .standby ∧ s.ms.trans = .bringUp ∧ 1 ≤ rate ∧ rate ≤ 4 ∧ 1 ≤ width ∧ width ≤ 4) ∧
    (∃ s : State, (s.ms.mode = .kindling ∨ s.ms.mode = .full ∨ s.ms.mode = .fenced ∨ s.ms.mode = .banked)) ∧
    (∃ s : State, s.ms.mode ≠ .off ∧ s.ms.mode ≠ .stopped) ∧
    (∃ sensor : Nat, ∃ s : State, s.ms.mode ≠ .off ∧ s.ms.mode ≠ .stopped ∧ sensor ∈ sensors s) ∧
    (∃ s : State, s.ms.mode = .stopped ∧ s.pins.perstAsserted = true) ∧
    (∃ st : Nat, ∃ s : State, inService s = true ∧ st < stackCount s ∧ (kindlingMap s = false ∨ st = 0) ∧ s.mem.heldReads = []) ∧
    (∃ s : State, s.ms.mode = .standby ∧ s.ms.trans = .none ∧ s.pins.standbyReady = false ∧ s.pins.perstAsserted = false ∧ s.pins.coolantOk
      = true) ∧
    (∃ st : Nat, ∃ s : State, inService s = true ∧ st < stackCount s ∧ (kindlingMap s = false ∨ st = 0) ∧ s.coll.unwritten = []) :=
  ⟨⟨40000, State.reset, by decide +kernel⟩,
   ⟨sS, by decide +kernel⟩,
   ⟨39999, sF, by decide +kernel⟩,
   ⟨0, true, { sS with pins := { Pins.reset with standbyReady := true, coolantOk := true } }, by decide +kernel⟩,
   ⟨4, 1, { sS with ms := { sS.ms with trans := .bringUp } }, by decide +kernel⟩,
   ⟨sB, by decide +kernel⟩,
   ⟨sS, by decide +kernel⟩,
   ⟨0, sS, by decide +kernel⟩,
   ⟨{ inMode .stopped with pins := Pins.reset }, by decide +kernel⟩,
   ⟨0, sK, by decide +kernel⟩,
   ⟨{ sS with pins := { Pins.reset with standbyReady := false, perstAsserted := false, coolantOk := true, boardStraps := 0x4000 } }, by
     decide +kernel⟩,
   ⟨0, sK, by decide +kernel⟩⟩

theorem wit_StateRequestsComplete :
    (∃ s : State, s.ms.mode = .kindling ∧ s.ms.trans = .none ∧ s.trust.s2Loaded = true) ∧
    (∃ s : State, ∃ c : Nat, s.ms.mode = .kindling ∧ s.ms.trans = .training c ∧ s.clk ≤ c + 1000000000 ∧ portsSettled s = true) ∧
    (∃ step : Nat, ∃ unit : Nat, ∃ s : State, ∃ c : Nat, 1 ≤ step ∧ step ≤ 6 ∧ unit < 16 ∧ s.ms.mode = .kindling ∧ s.ms.trans = .training c) ∧
    (∃ _back : Bool, ∃ s : State, s.ms.trans = .none ∧ (s.ms.mode = .full ∧ anyCtxActive s = false ∨ s.ms.mode = .fenced) ∧ justFaulted s =
      false) ∧
    (∃ _back : Bool, ∃ s : State, s.ms.trans = .none ∧ s.ms.mode = .fenced ∧ s.ms.entered = s.clk ∧ (s.ms.prev = .full ∨ s.ms.prev =
      .banked)) ∧
    (∃ back : Bool, ∃ s : State, s.ms.trans = .toKindling back ∧ (isFenced s 0 = false ∨ back = true) ∧ ∃ l : Nat, l < 10 ∧ l ≠ 6) ∧
    (∃ back : Bool, ∃ s : State, s.ms.trans = .toKindling back ∧ (isFenced s 0 = false ∨ back = true)) ∧
    (∃ back : Bool, ∃ s : State, s.ms.trans = .toKindling back ∧ (isFenced s 0 = false ∨ back = true)) ∧
    (∃ s : State, s.ms.mode = .full ∧ s.ms.trans = .none ∧ strapYokeEn s = true ∧ anyCtxActive s = false) ∧
    (∃ s : State, s.ms.mode = .fenced ∧ s.ms.trans = .none ∧ anyCtxActive s = false ∧ s.ms.dieFenced ≠ 0) ∧
    (∃ s : State, s.ms.mode = .fenced ∧ s.ms.trans = .none ∧ anyCtxActive s = false ∧ s.ms.dieFenced = 0 ∧ IdlePorts s) ∧
    (∃ returned : BitVec 4, ∃ dies : BitVec 4, ∃ c : Nat, ∃ s : State, s.ms.mode = .fenced ∧ s.ms.trans = .dieReturn dies c ∧ s.ms.dieFenced
      = dies ∧ (if c + 250000000 < s.clk then dies else dies &&& ~~~returned) = 0 ∧ IdlePorts s) ∧
    (∃ returned : BitVec 4, ∃ dies : BitVec 4, ∃ c : Nat, ∃ s : State, s.ms.mode = .fenced ∧ s.ms.trans = .dieReturn dies c ∧ s.ms.dieFenced
      = dies ∧ (if c + 250000000 < s.clk then dies else dies &&& ~~~returned) ≠ 0) ∧
    (∃ returned : BitVec 4, ∃ dies : BitVec 4, ∃ c : Nat, ∃ s : State, s.ms.mode = .fenced ∧ s.ms.trans = .dieReturn dies c ∧ s.ms.dieFenced
      = dies ∧ (if c + 250000000 < s.clk then dies else dies &&& ~~~returned) ≠ 0) ∧
    (∃ s : State, ∃ c : Instr, isBusy s = true ∧ inService s = true ∧ s.ms.mode ≠ .full ∧ (c = .enterFull ∨ (∃ b, c = .enterKindling b) ∨ c
      = .enterBanked ∨ c = .clearFence)) :=
  ⟨⟨{ sK with trust := { Trust.reset with s2Loaded := true } }, by decide +kernel⟩,
   ⟨{ sK with ms := { sK.ms with trans := .training 0 }, clk := 1000000000, link := { Links.reset with ports := (List.range 16).map fun p => (p, pSt .noPeer) } },
     0, by decide +kernel⟩,
   ⟨6, 15, { sK with ms := { sK.ms with trans := .training 0 } }, 0, by decide +kernel⟩,
   ⟨false, sX, by decide +kernel⟩,
   ⟨false, { sX with ms := { sX.ms with prev := .full } }, by decide +kernel⟩,
   ⟨false, { sX with ms := { sX.ms with trans := .toKindling false } }, by decide +kernel, by decide +kernel, 9, by decide +kernel⟩,
   ⟨false, { sX with ms := { sX.ms with trans := .toKindling false } }, by decide +kernel⟩,
   ⟨false, { sX with ms := { sX.ms with trans := .toKindling false } }, by decide +kernel⟩,
   ⟨{ sF with pins := { Pins.reset with straps := 0x4000 } }, by decide +kernel⟩,
   ⟨{ sX with ms := { sX.ms with dieFenced := 4 } }, by decide +kernel⟩,
   ⟨sX, by decide +kernel⟩,
   ⟨4, 4, 0, { sX with ms := { sX.ms with dieFenced := 4, trans := .dieReturn 4 0 } }, by decide +kernel⟩,
   ⟨0, 4, 0, { sX with ms := { sX.ms with dieFenced := 4, trans := .dieReturn 4 0 } }, by decide +kernel⟩,
   ⟨4, 4, 0, { sX with ms := { sX.ms with dieFenced := 4, trans := .dieReturn 4 0 }, clk := 250000001 }, by decide +kernel⟩,
   ⟨{ sK with ms := { sK.ms with trans := .training 0 } }, .enterBanked, by decide +kernel⟩⟩

theorem wit_RingCommandsComplete :
    (∃ s : State, inService s = true) ∧
    (∃ _ws : List Word, ∃ s : State, inService s = true) ∧
    (∃ n : Nat, ∃ _b : List Byte, ∃ x : LgDom, ∃ s : State, n < 64 ∧ fetchMode s = true ∧ isFetching s n = true ∧ 0 < ringAhead (sring s n)
      ∧ ringAhead (sring s n) ≤ 2 ^ (sring s n).log2.toNat ∧ ringAhead (sring s n) ≤ 2 ^ 31 ∧ ringOpen s n < 256 ∧ (lgDom s
      dRingSlot).parityBad = false ∧ (lgDom s dRingSlot).take n 1 = some x) ∧
    (∃ n : Nat, ∃ s : State, n < 64 ∧ fetchMode s = true ∧ isFetching s n = true ∧ 0 < ringAhead (sring s n) ∧ ringAhead (sring s n) ≤ 2 ^
      (sring s n).log2.toNat ∧ ringAhead (sring s n) ≤ 2 ^ 31 ∧ ringOpen s n < 256 ∧ (lgDom s dRingSlot).free ≠ 0) ∧
    (∃ n : Nat, ∃ _b : Option (List Byte), ∃ s : State, n < 64 ∧ (256 ≤ ringOpen s n ∨ (lgDom s dRingSlot).free = 0)) ∧
    (∃ n : Nat, ∃ _b : Option (List Byte), ∃ s : State, n < 64 ∧ (256 ≤ ringOpen s n ∨ (lgDom s dRingSlot).free = 0)) ∧
    (∃ d : Desc, ∃ s : State, arbitrate s = some d ∧ (hSown d.bytes = false ∨ d.replayed = true) ∧ partnerOf s d = none ∧ fencedDeps s d =
      0) ∧
    (∃ d : Desc, ∃ e : Desc, ∃ s : State, arbitrate s = some d ∧ (hSown d.bytes = false ∨ d.replayed = true) ∧ partnerOf s d = some e ∧
      fencedDeps s d = 0 ∧ fencedDeps s e = 0) ∧
    (∃ d : Desc, ∃ s : State, arbitrate s = some d ∧ hSown d.bytes = true ∧ d.replayed = false ∧ partnerOf s d = none ∧ fencedDeps s d = 0 ∧
      s.ft.ft.toNat ≤ (hLaunch d.bytes).toNat) ∧
    (∃ d : Desc, ∃ s : State, arbitrate s = some d ∧ hSown d.bytes = true ∧ d.replayed = false ∧ partnerOf s d = none ∧ fencedDeps s d = 0 ∧
      (hLaunch d.bytes).toNat < s.ft.ft.toNat) ∧
    (∃ d : Desc, ∃ e : Desc, ∃ s : State, arbitrate s = some d ∧ hSown d.bytes = true ∧ d.replayed = false ∧ partnerOf s d = some e ∧
      fencedDeps s d = 0 ∧ fencedDeps s e = 0) ∧
    (∃ tg : Target, ∃ d : Desc, ∃ s : State, targetBusy s tg = false ∧ resumable s tg = false ∧ exchangeFirst s tg = false ∧ nextQueued s tg
      = some d ∧ waitsFill s d = false ∧ d.pair = none) ∧
    (∃ tg : Target, ∃ d : Desc, ∃ e : Ref, ∃ s : State, targetBusy s tg = false ∧ resumable s tg = false ∧ exchangeFirst s tg = false ∧
      nextQueued s tg = some d ∧ waitsFill s d = false ∧ d.pair = some e) ∧
    (∃ tg : Target, ∃ d : Desc, ∃ s : State, endedInPlace s tg = some d) ∧
    (∃ tg : Target, ∃ d : Desc, ∃ s : State, endedInPlace s tg = none ∧ targetBusy s tg = false ∧ nextParked s tg = some d) :=
  ⟨⟨sR, by decide +kernel⟩,
   ⟨[1], sR, by decide +kernel⟩,
   ⟨0, [], ((lgDom sR dRingSlot).take 0 1).getD .reset, sR, by decide +kernel⟩,
   ⟨0, sR, by decide +kernel⟩,
   ⟨0, none, (setLgDom dRingSlot { lgDom sR dRingSlot with free := 0 } sR), by decide +kernel⟩,
   ⟨0, some [], { sR with descs := List.replicate 256 (dsc 0 0 0 0 []) }, by decide +kernel⟩,
   ⟨ftd 0 0 4 0 0 [], withD sR (ftd 0 0 4 0 0 []), by decide +kernel⟩,
   ⟨ftd 0 0x10 0 0 1 [(42, 1, 0x80)], ftd 1 0x18 0 0 1 [(40, 1, 0x40)],
     { sRF with descs := [ftd 0 0x10 0 0 1 [(42, 1, 0x80)], ftd 1 0x18 0 0 1 [(40, 1, 0x40)]] }, by decide +kernel⟩,
   ⟨ftd 0 0 4 0 0 [(1, 1, 1), (8, 8, 100)],
     { withD sR (ftd 0 0 4 0 0 [(1, 1, 1), (8, 8, 100)]) with ft := { FieldTime.reset with ft := 100 } }, by decide +kernel⟩,
   ⟨ftd 0 0 4 0 0 [(1, 1, 1), (8, 8, 100)],
     { withD sR (ftd 0 0 4 0 0 [(1, 1, 1), (8, 8, 100)]) with ft := { FieldTime.reset with ft := 101 } }, by decide +kernel⟩,
   ⟨ftd 0 0x10 0 0 1 [(42, 1, 0x80), (1, 1, 1), (8, 8, 100)], ftd 1 0x18 0 0 1 [(40, 1, 0x40), (1, 1, 1), (8, 8, 100)],
     { sRF with descs := [ftd 0 0x10 0 0 1 [(42, 1, 0x80), (1, 1, 1), (8, 8, 100)], ftd 1 0x18 0 0 1 [(40, 1, 0x40), (1, 1, 1), (8, 8, 100)]], ft := { FieldTime.reset with ft := 100 } },
     by decide +kernel⟩,
   ⟨.host, held (dsc 0 4 0 0 []) .queued 0, withD sR (held (dsc 0 4 0 0 []) .queued 0), by decide +kernel⟩,
   ⟨.core 0 0, { held (dsc 0x10 0 0 1 []) .queued 0 with pair := some ⟨0, 1⟩ }, ⟨0, 1⟩, withD sRF
     { held (dsc 0x10 0 0 1 []) .queued 0 with pair := some ⟨0, 1⟩ }, by decide +kernel⟩,
   ⟨.host, held (dsc 0x50 4 0 0 []) (.inPlace true) 1, withD sR (held (dsc 0x50 4 0 0 []) (.inPlace true) 1), by decide +kernel⟩,
   ⟨.host, held (dsc 0x50 4 0 0 []) (.parked true 0) 1, withD sR (held (dsc 0x50 4 0 0 []) (.parked true 0) 1), by decide +kernel⟩⟩

theorem wit_CompletionCommandsComplete :
    (∃ r : Ref, ∃ d : Desc, ∃ off : Nat, ∃ stage : Nat, ∃ s : State, findDesc s r = some d ∧ limitOf d = some (off, stage) ∧ d.outcome =
      none ∧ (d.op = some .tally ∨ d.op = some .barrier ∨ d.op = some .waitHost)) ∧
    (∃ r : Ref, ∃ d : Desc, ∃ s : State, ∃ c : Nat, inService s = true ∧ ReadyToComplete s r d ∧ d.op = some .nop ∧ d.replayed = false ∧
      hSilent d.bytes = false ∧ recordRing s d = some c ∧ cringFull (cring s c) = false ∧ (∀ e ∈ s.descs, e.waiting = none ∨ recordRing s e
      ≠ some c)) ∧
    (∃ c : Nat, ∃ d : Desc, ∃ s : State, inService s = true ∧ cringFull (cring s c) = false ∧ firstWaiting s c = some d) ∧
    (∃ c : Nat, ∃ s : State, ∃ t0 : Nat, (cring s c).due = true ∧ (cring s c).lastRaise = some t0 ∧ t0 + 1000 * (cring s c).modUs.toNat ≤
      s.clk) ∧
    (∃ v : Nat, ∃ s : State, ∃ u : State, v < 256 ∧ inService s = true ∧ u = writeLogged (0x10000C + 0x10 * v) 0 s ∧ (msixEntry u v).masked
      = true ∧ (msixEntry u v).pending = false) ∧
    (∃ v : Nat, ∃ s : State, ∃ u : State, v < 256 ∧ inService s = true ∧ u = writeLogged (0x10000C + 0x10 * v) 0 s ∧ (msixEntry u v).masked
      = true ∧ (msixEntry u v).pending = true ∧ inService u = true) ∧
    (∃ s : State, pageMay s = true) ∧
    (∃ _c : Nat, ∃ _d : Desc, ∃ o : RecordFields, ∃ s : State, logging s = false ∧ o.nf = none) :=
  ⟨⟨r0, held (dsc 0x50 4 0 0 [(44, 4, 5)]) (.parked false 0) 1, 44, 1,
     { withD sR (held (dsc 0x50 4 0 0 [(44, 4, 5)]) (.parked false 0) 1) with clk := 5000 }, by decide +kernel⟩,
   ⟨r0, held (dsc 0 4 0 0 []) .done 0, withD sR (held (dsc 0 4 0 0 []) .done 0), 0, by decide +kernel⟩,
   ⟨0, { held (dsc 0 4 0 0 []) .done 0 with waiting := some 0, outcome := some (0, 0, none) }, withD sR
     { held (dsc 0 4 0 0 []) .done 0 with waiting := some 0, outcome := some (0, 0, none) }, by decide +kernel⟩,
   ⟨0,
     { sR with host := { sR.host with crings := [(0, { CRing.reset with en := true, due := true, modUs := 1, lastRaise := some 0 })] }, clk := 1000 },
     0, by decide +kernel⟩,
   ⟨255, sK, sK, by decide +kernel⟩,
   ⟨255, { sK with host := { HostIf.reset with msix := [(255, { MsixEntry.reset with pending := true })] } },
     { sK with host := { HostIf.reset with msix := [(255, { MsixEntry.reset with pending := true })] } }, by decide +kernel⟩,
   ⟨{ sK with host := { HostIf.reset with statusEn := true } }, by decide +kernel⟩,
   ⟨0, dsc 0 4 0 0 [], outcomeOf sR (dsc 0 4 0 0 []), sR, by decide +kernel⟩⟩

theorem wit_RingRegistersAndContextsComplete :
    (∃ c : Nat, ∃ _v : Word, ∃ s : State, c < 64 ∧ inService s = true) ∧
    (∃ c : Nat, ∃ v : Word, ∃ s : State, (cring s c).en = false ∧ v.getLsbD 0 = true ∧ 6 ≤ (v.toNat / 2 % 32) ∧ (v.toNat / 2 % 32) ≤ 20) ∧
    (∃ n : Nat, ∃ _reg : SringReg, ∃ _v : DWord, ∃ s : State, n < 64 ∧ inService s = true) ∧
    (∃ n : Nat, ∃ s : State, n < 16 ∧ inService s = true ∧ (ctxOf s n).state = .idle ∧ logging s = false ∧ ctxCfgBad s (ctxOf s n) = false ∧
      overlapsActive s n = false ∧ (ctxOf s n).carried = false) ∧
    (∃ n : Nat, ∃ s : State, n < 16 ∧ inService s = true ∧ (ctxOf s n).state = .idle ∧ logging s = false ∧ ctxCfgBad s (ctxOf s n) = false ∧
      overlapsActive s n = false ∧ (ctxOf s n).carried = true ∧ (ctxOf s n).restore = false) ∧
    (∃ n : Nat, ∃ s : State, n < 16 ∧ inService s = true ∧ (ctxOf s n).state = .idle ∧ logging s = false ∧ ctxCfgBad s (ctxOf s n) = false ∧
      overlapsActive s n = false ∧ (ctxOf s n).carried = true ∧ (ctxOf s n).restore = true ∧ firstBad s .bar2 (ctxOf s n).save.toNat
      (saveBytes (ctxOf s n)) = none ∧ saveMatches (ctxOf s n) (readBytes (settled s) .bar2 (ctxOf s n).save.toNat (saveBytes (ctxOf s n)))
      = true) ∧
    (∃ n : Nat, ∃ s : State, ∃ u : State, n < 16 ∧ inService s = true ∧ u = writeLogged 0x10018 (n + 32) s ∧ (ctxOf u n).state = .active) ∧
    (∃ n : Nat, ∃ s : State, ∃ u : State, n < 16 ∧ inService s = true ∧ u = writeLogged 0x10018 (n + 48) s ∧ ((ctxOf u n).state = .active ∨
      (ctxOf u n).state = .ending)) ∧
    (∃ n : Nat, ∃ s : State, (ctxOf s n).state = .ending ∧ (∀ d ∈ s.descs, d.ctx.toNat ≠ n) ∧ (ctxOf s n).carried = false ∧ tidyTally s
      (ctxOf s n) = none ∧ tidyLine s (ctxOf s n) = none) ∧
    (∃ n : Nat, ∃ s : State, ∃ i : Nat, (ctxOf s n).state = .ending ∧ (∀ d ∈ s.descs, d.ctx.toNat ≠ n) ∧ (ctxOf s n).carried = false ∧
      tidyTally s (ctxOf s n) = some i) ∧
    (∃ n : Nat, ∃ s : State, (ctxOf s n).state = .ending ∧ (∀ d ∈ s.descs, d.ctx.toNat ≠ n) ∧ (ctxOf s n).carried = true ∧ s.mem.bad = []) :=
  ⟨⟨63, 0, sK, by decide +kernel⟩,
   ⟨0, 0x29, sK, by decide +kernel⟩,
   ⟨63, .status, 0, sK, by decide +kernel⟩,
   ⟨15, sK, by decide +kernel⟩,
   ⟨15,
     { sF with mem := { Mem.reset with filled := [(0, true)] }, host := { HostIf.reset with ctxs := [(15, { Ctx.reset with carried := true, save := 4096 })] } },
     by decide +kernel⟩,
   ⟨15, { sF with host := { HostIf.reset with ctxs := [(15, { Ctx.reset with carried := true, restore := true })] } }, by decide +kernel⟩,
   ⟨15, { sK with host := { HostIf.reset with ctxs := [(15, { Ctx.reset with state := .active })] } }, writeLogged 0x10018 47
     { sK with host := { HostIf.reset with ctxs := [(15, { Ctx.reset with state := .active })] } }, by decide +kernel⟩,
   ⟨15, { sK with host := { HostIf.reset with ctxs := [(15, { Ctx.reset with state := .ending })] } }, writeLogged 0x10018 63
     { sK with host := { HostIf.reset with ctxs := [(15, { Ctx.reset with state := .ending })] } }, by decide +kernel⟩,
   ⟨15, { sK with host := { HostIf.reset with ctxs := [(15, { Ctx.reset with state := .ending })] } }, by decide +kernel⟩,
   ⟨15,
     { sK with sync := { Sync.reset with tallies := [(4095, 1)] }, host := { HostIf.reset with ctxs := [(15, { Ctx.reset with state := .ending, base := 4095, count := 1, recTallies := [0] })] } },
     4095, by decide +kernel⟩,
   ⟨15, { sK with host := { HostIf.reset with ctxs := [(15, { Ctx.reset with state := .ending, carried := true })] } }, by decide +kernel⟩⟩

theorem wit_HostUnitComplete :
    (∃ r : Ref, ∃ x : Desc, ∃ s : State, RunsAt s r .nop 0 x) ∧
    (∃ r : Ref, ∃ x : Desc, ∃ s : State, RunsAt s r .waitHost 0 x ∧ waitHostError x = none) ∧
    (∃ r : Ref, ∃ x : Desc, ∃ w : DWord, ∃ s : State, findDesc s r = some x ∧ x.op = some .waitHost ∧ x.outcome = none ∧ (∃ c ∈ x.copies,
      c.st.waits = true) ∧ hostWordHolds x w = true) ∧
    (∃ r : Ref, ∃ x : Desc, ∃ w : DWord, ∃ s : State, findDesc s r = some x ∧ x.op = some .waitHost ∧ x.outcome = none ∧ (∃ c ∈ x.copies,
      c.st.waits = true) ∧ hostWordHolds x w = false) ∧
    (∃ r : Ref, ∃ x : Desc, ∃ s : State, findDesc s r = some x ∧ x.op = some .waitHost ∧ x.outcome = none ∧ (∃ c ∈ x.copies, c.st.waits =
      true)) ∧
    (∃ r : Ref, ∃ x : Desc, ∃ s : State, RunsAt s r .signalHost 0 x ∧ signalHostError x = none ∧ x.fld 32 0 8 = 0) ∧
    (∃ r : Ref, ∃ x : Desc, ∃ s : State, RunsAt s r .signalHost 0 x ∧ signalHostError x = none ∧ x.fld 32 0 8 ≠ 0 ∧ x.replayed = false) :=
  ⟨⟨r0, dsc 0 4 0 0 [], withD sR (dsc 0 4 0 0 []), by decide +kernel⟩,
   ⟨r0, dsc 0x50 4 0 0 [(16, 8, 64)], withD sR (dsc 0x50 4 0 0 [(16, 8, 64)]), by decide +kernel⟩,
   ⟨r0, held (dsc 0x50 4 0 0 [(24, 8, 7), (32, 8, 0xFF)]) (.parked false 0) 1, 7, withD sR (held (dsc 0x50 4 0 0 [(24, 8, 7), (32, 8,
     0xFF)]) (.parked false 0) 1), by decide +kernel⟩,
   ⟨r0, held (dsc 0x50 4 0 0 [(24, 8, 7), (32, 8, 0xFF)]) (.parked false 0) 1, 6, withD sR (held (dsc 0x50 4 0 0 [(24, 8, 7), (32, 8,
     0xFF)]) (.parked false 0) 1), by decide +kernel⟩,
   ⟨r0, held (dsc 0x50 4 0 0 [(24, 8, 7), (32, 8, 0xFF)]) (.parked false 0) 1, withD sR (held (dsc 0x50 4 0 0 [(24, 8, 7), (32, 8, 0xFF)])
     (.parked false 0) 1), by decide +kernel⟩,
   ⟨r0, dsc 0x51 4 0 0 [(16, 8, 64), (24, 8, 9)], withD sR (dsc 0x51 4 0 0 [(16, 8, 64), (24, 8, 9)]), by decide +kernel⟩,
   ⟨r0, dsc 0x51 4 0 0 [(16, 8, 64), (24, 8, 9), (32, 1, 96)], withD sR (dsc 0x51 4 0 0 [(16, 8, 64), (24, 8, 9), (32, 1, 96)]), by
     decide +kernel⟩⟩

theorem wit_MatrixCommandsComplete :
    (∃ o : Op, ∃ c : Instr, ∃ r : Ref, ∃ x : Desc, ∃ s : State, (o = .mma ∧ c = .mma r ∨ o = .conv ∧ c = .conv r ∨ o = .bMma ∧ c = .bMma r)
      ∧ RunsAt s r o 0 x ∧ s.mem.bad = [] ∧ (lgDom s dAeTxn).parityBad = false ∧ PartnerPasses s x ∧ firstReport (mmaCopies s o x) = none ∧
      finalOf x < 2) ∧
    (∃ o : Op, ∃ c : Instr, ∃ r : Ref, ∃ x : Desc, ∃ s : State, (o = .mma ∧ c = .mma r ∨ o = .conv ∧ c = .conv r ∨ o = .bMma ∧ c = .bMma r)
      ∧ RunsAt s r o 0 x ∧ s.mem.bad = [] ∧ (lgDom s dAeTxn).parityBad = false ∧ PartnerPasses s x ∧ firstReport (mmaCopies s o x) = none ∧
      finalOf x < 2) ∧
    (∃ o : Op, ∃ c : Instr, ∃ r : Ref, ∃ x : Desc, ∃ s : State, (o = .mma ∧ c = .mma r ∨ o = .conv ∧ c = .conv r ∨ o = .bMma ∧ c = .bMma r)
      ∧ RunsAt s r o 0 x ∧ s.mem.bad = [] ∧ (lgDom s dAeTxn).parityBad = false ∧ PartnerPasses s x ∧ firstReport (mmaCopies s o x) = none ∧
      finalOf x < 2) ∧
    (∃ o : Op, ∃ c : Instr, ∃ r : Ref, ∃ x : Desc, ∃ s : State, (o = .mma ∧ c = .mma r ∨ o = .conv ∧ c = .conv r ∨ o = .bMma ∧ c = .bMma r)
      ∧ RunsAt s r o 0 x ∧ s.mem.bad = [] ∧ (lgDom s dAeTxn).parityBad = false ∧ PartnerPasses s x ∧ firstReport (mmaCopies s o x) = none ∧
      finalOf x = 2) ∧
    (∃ o : Op, ∃ c : Instr, ∃ r : Ref, ∃ x : Desc, ∃ s : State, (o = .mma ∧ c = .mma r ∨ o = .conv ∧ c = .conv r ∨ o = .bMma ∧ c = .bMma r)
      ∧ RunsAt s r o 0 x ∧ s.mem.bad = [] ∧ (lgDom s dAeTxn).parityBad = false ∧ PartnerPasses s x ∧ firstReport (mmaCopies s o x) = none ∧
      finalOf x = 3 ∧ isFenced s (x.fld 44 16 2) = false) ∧
    (∃ c : Instr, ∃ r : Ref, ∃ x : Desc, ∃ s : State, (c = .wMmaAccumulate r ∧ isFlush x = false ∨ c = .wMmaFlush r ∧ isFlush x = true) ∧
      RunsAt s r .wMma 0 x ∧ s.mem.bad = [] ∧ (lgDom s dAeTxn).parityBad = false ∧ firstReport (wMmaCopies s x) = none) ∧
    (∃ c : Instr, ∃ r : Ref, ∃ x : Desc, ∃ s : State, (c = .wMmaAccumulate r ∧ isFlush x = false ∨ c = .wMmaFlush r ∧ isFlush x = true) ∧
      RunsAt s r .wMma 0 x ∧ s.mem.bad = [] ∧ (lgDom s dAeTxn).parityBad = false ∧ firstReport (wMmaCopies s x) = none) ∧
    (∃ r : Ref, ∃ x : Desc, ∃ e : Sender, ∃ s : State, findDesc s r = some x ∧ e ∈ (rawOf s (sendKeyOf x)).senders ∧ e.ref = r ∧ senderLive
      s e = true ∧ 10000000 ≤ (s.ft.ft - e.since).toNat) ∧
    (∃ o : Op, ∃ c : Instr, ∃ r : Ref, ∃ x : Desc, ∃ rep : Report, ∃ s : State, (o = .mma ∧ c = .mma r ∨ o = .conv ∧ c = .conv r ∨ o = .bMma
      ∧ c = .bMma r) ∧ RunsAt s r o 0 x ∧ (∀ k ∈ x.copies, k.st ≠ .done) ∧ PartnerPasses s x ∧ firstReport (mmaCopies s o x) = some rep) ∧
    (∃ o : Op, ∃ c : Instr, ∃ r : Ref, ∃ x : Desc, ∃ rep : Report, ∃ s : State, (o = .mma ∧ c = .mma r ∨ o = .conv ∧ c = .conv r ∨ o = .bMma
      ∧ c = .bMma r) ∧ RunsAt s r o 0 x ∧ (∀ k ∈ x.copies, k.st ≠ .done) ∧ PartnerPasses s x ∧ firstReport (mmaCopies s o x) = some rep) ∧
    (∃ o : Op, ∃ c : Instr, ∃ r : Ref, ∃ x : Desc, ∃ rep : Report, ∃ s : State, (o = .mma ∧ c = .mma r ∨ o = .conv ∧ c = .conv r ∨ o = .bMma
      ∧ c = .bMma r) ∧ RunsAt s r o 0 x ∧ (∀ k ∈ x.copies, k.st ≠ .done) ∧ PartnerPasses s x ∧ firstReport (mmaCopies s o x) = some rep) :=
  ⟨⟨.mma, .mma r0, r0, dm 0x10 [], withD sM (dm 0x10 []), by decide +kernel⟩,
   ⟨.conv, .conv r0, r0, dm 0x11 [], withD sC (dm 0x11 []), by decide +kernel⟩,
   ⟨.bMma, .bMma r0, r0, dm 0x12 [], withD sM (dm 0x12 []), by decide +kernel⟩,
   ⟨.mma, .mma r0, r0, dMC, withD sM dMC, by decide +kernel⟩,
   ⟨.mma, .mma r0, r0, dSend, withD sM dSend, by decide +kernel⟩,
   ⟨.wMmaAccumulate r0, r0, dm 0x13 [], withD sM (dm 0x13 []), by decide +kernel⟩,
   ⟨.wMmaFlush r0, r0, dm 0x13 [(43, 1, 1)], withD sM (dm 0x13 [(43, 1, 1)]), by decide +kernel⟩,
   ⟨r0, dSend, { ref := r0, target := .core 0 0, rows := [], since := 0, rep := Report.of 0 0 },
     { withD sM dSend with ft := { FieldTime.reset with ft := 10000000 }, streams := { Streams.reset with raw := [(sendKeyOf dSend, { RawStream.reset with senders := [{ ref := r0, target := .core 0 0, rows := [], since := 0, rep := Report.of 0 0 }] })] } },
     by decide +kernel⟩,
   ⟨.mma, .mma r0, r0, dsc 0x10 0 0 1 [], Report.of 9 16, withD sF (dsc 0x10 0 0 1 []), by decide +kernel⟩,
   ⟨.mma, .mma r0, r0, dsc 0x10 0 0 1 [], Report.of 9 16, withD sF (dsc 0x10 0 0 1 []), by decide +kernel⟩,
   ⟨.conv, .conv r0, r0, dm 0x11 [(44, 1, 0)], Report.of 9 44, withD sC (dm 0x11 [(44, 1, 0)]), by decide +kernel⟩⟩

theorem wit_VectorCommandsComplete :
    (∃ r : Ref, ∃ x : Desc, ∃ s : State, RunsAt s r .chain 0 x ∧ chainSrc x = 0 ∧ s.mem.bad = [] ∧ (lgDom s dAeTxn).parityBad = false ∧
      (lgDom s dHeTxn).parityBad = false ∧ firstReport (plansMade chainPlan s x) = none) ∧
    (∃ r : Ref, ∃ x : Desc, ∃ s : State, RunsAt s r .chain 0 x ∧ chainSrc x = 1 ∧ s.mem.bad = [] ∧ (lgDom s dAeTxn).parityBad = false ∧
      (lgDom s dHeTxn).parityBad = false ∧ firstReport (pairedResults s x) = none ∧ firstReport (chainResults s x) = none) ∧
    (∃ r : Ref, ∃ x : Desc, ∃ s : State, RunsAt s r .chain 0 x ∧ chainSrc x = 2 ∧ s.mem.bad = [] ∧ isFenced s (x.fld 60 0 2) = false ∧
      firstReport (chainResults s x) = none) ∧
    (∃ k : StreamKey, ∃ x : Desc, ∃ n : Nat, ∃ w : StreamRow, ∃ rest : List StreamWord, ∃ s : State, (rawOf s (keyOf k)).fwd = .row n w ::
      rest ∧ receiverOf s k = some x ∧ s.mem.bad = [] ∧ (lgDom s dAeTxn).parityBad = false) ∧
    (∃ k : StreamKey, ∃ x : Desc, ∃ n : Nat, ∃ rest : List StreamWord, ∃ s : State, (rawOf s (keyOf k)).fwd = .fin n :: rest ∧ receiverOf s
      k = some x ∧ (rawOf s (keyOf k)).ends + 1 < x.fld 60 9 7) ∧
    (∃ k : StreamKey, ∃ x : Desc, ∃ n : Nat, ∃ rest : List StreamWord, ∃ s : State, (rawOf s (keyOf k)).fwd = .fin n :: rest ∧ receiverOf s
      k = some x ∧ x.fld 60 9 7 ≤ (rawOf s (keyOf k)).ends + 1 ∧ findDesc s x.ref = some x ∧ s.mem.bad = [] ∧ (lgDom s dAeTxn).parityBad =
      false) ∧
    (∃ k : StreamKey, ∃ x : Desc, ∃ rest : List StreamWord, ∃ s : State, (rawOf s (keyOf k)).fwd = .fenced :: rest ∧ receiverOf s k = some
      x) ∧
    (∃ k : StreamKey, ∃ n : Nat, ∃ close : Bool, ∃ rest : List (Nat × Bool), ∃ s : State, (rawOf s (keyOf k)).back = (n, close) :: rest) ∧
    (∃ k : StreamKey, ∃ n : Nat, ∃ close : Bool, ∃ rest : List (Nat × Bool), ∃ s : State, (rawOf s (keyOf k)).back = (n, close) :: rest) ∧
    (∃ r : Ref, ∃ x : Desc, ∃ c : Copy, ∃ s : State, findDesc s r = some x ∧ x.op = some .chain ∧ chainSrc x = 2 ∧ x.outcome = none ∧
      isFenced s (x.fld 60 0 2) = false ∧ c ∈ x.copies ∧ c.st = .running ∧ c.stage = 1 ∧ 10000000 ≤ (s.ft.ft - (rawOf s (recvKeyOf x
      c.target)).last).toNat) :=
  ⟨⟨r0, dV [], withD sM (dV []), by decide +kernel⟩,
   ⟨⟨0, 1⟩, dVC,
     { sM with descs := [dMC, dVC], streams := { Streams.reset with drains := [{ chain := ⟨0, 1⟩, target := .core 0 0, rows := [], rep := Report.of 0 0 }] } },
     by decide +kernel⟩,
   ⟨r0, dVS 0 1, withD sM (dVS 0 1), by decide +kernel⟩,
   ⟨kS, dVS 1 1, 0, { m := 0, ni := 0, vals := [] }, [], sRaw { RawStream.reset with fwd := [.row 0 { m := 0, ni := 0, vals := [] }] }
     (withD sM (dVS 1 1)), by decide +kernel⟩,
   ⟨kS, dVS 1 2, 0, [], sRaw { RawStream.reset with fwd := [.fin 0] } (withD sM (dVS 1 2)), by decide +kernel⟩,
   ⟨kS, dVS 1 1, 0, [], sRaw { RawStream.reset with fwd := [.fin 0] } (withD sM (dVS 1 1)), by decide +kernel⟩,
   ⟨kS, dVS 1 1, [], sRaw { RawStream.reset with fwd := [.fenced] } (withD sM (dVS 1 1)), by decide +kernel⟩,
   ⟨kS, 64, false, [], sRaw { RawStream.reset with back := [(64, false)] } sM, by decide +kernel⟩,
   ⟨kS, 0, true, [], sRaw { RawStream.reset with back := [(0, true)] } sM, by decide +kernel⟩,
   ⟨r0, dVS 1 1, { target := .core 0 0, st := .running, stage := 1, since := 0, report := none },
     { withD sM (dVS 1 1) with ft := { FieldTime.reset with ft := 10000000 } }, by decide +kernel⟩⟩

theorem wit_MemoryCommandsComplete :
    (∃ r : Ref, ∃ core : Nat, ∃ addr : BitVec 44, ∃ x : Desc, ∃ c : Copy, ∃ p : Place, ∃ s : State, findDesc s r = some x ∧ copyAt x
      (targetOfCore x core) = some c ∧ c.st.busy = true ∧ x.outcome = none ∧ (resolveAlias (rqOf (targetOfCore x core)) addr.toNat).bind
      (placeOf s) = some p ∧ isFenced s p.die = false ∧ symbolsAt s.mem p = 0) ∧
    (∃ addr : BitVec 44, ∃ p : Place, ∃ s : State, inService s = true ∧ placeOf s addr.toNat = some p ∧ isFenced s p.die = false ∧ (∀ st x,
      p = .stack st x → s.mem.filled.get false st = true) ∧ symbolsAt s.mem p = 0) ∧
    (∃ offset : BitVec 34, ∃ len : Nat, ∃ errors : List (Nat × Ecc), ∃ _tag : Nat, ∃ s : State, inService s = true ∧ unfilledAt s (bar2Addr
      s offset) len = none ∧ s.mem.bad = [] ∧ (∀ e ∈ errors, e.2 = .clean ∨ e.2 = .corrected)) ∧
    (∃ offset : BitVec 34, ∃ len : Nat, ∃ i : Nat, ∃ _sy : Byte, ∃ _tag : Nat, ∃ p : Place, ∃ s : State, inService s = true ∧ unfilledAt s
      (bar2Addr s offset) len = none ∧ s.mem.bad = [] ∧ i < len ∧ bar2Place s (bar2Addr s offset + i) = some p ∧ underTest s p = false) ∧
    (∃ offset : BitVec 34, ∃ len : Nat, ∃ _errors : List (Nat × Ecc), ∃ _tag : Nat, ∃ st : Nat, ∃ s : State, inService s = true ∧ unfilledAt
      s (bar2Addr s offset) len = some st) ∧
    (∃ _offset : BitVec 34, ∃ _bytes : List Byte, ∃ s : State, inService s = true ∧ logging s = false ∧ s.mem.bad = []) :=
  ⟨⟨r0, 0, 0x1000, dm 0x10 [], { target := .core 0 0, st := .running, stage := 0, since := 0, report := none }, (placeOf sF 0x1000).getD
     (.stack 0 0), withD sF (dm 0x10 []), by decide +kernel⟩,
   ⟨0, .stack 0 0, sFl sF, ⟨by decide +kernel, by decide +kernel, by decide +kernel,
     by intro st x h; cases h; decide +kernel, by decide +kernel⟩⟩,
   ⟨0, 4, [], 255, sFl sF, by decide +kernel⟩,
   ⟨0, 4, 3, 1, 255, .stack 0 3, sFl sF, by decide +kernel⟩,
   ⟨0, 4, [], 255, 0, sF, by decide +kernel⟩,
   ⟨0, [1, 2, 3, 4], sFl sF, by decide +kernel⟩⟩

theorem wit_MovesComplete :
    (∃ o : Op, ∃ c : Instr, ∃ pl : Planner, ∃ r : Ref, ∃ x : Desc, ∃ s : State, (o = .copy ∧ c = .copy r ∧ pl = copyPlan ∨ o = .relayout ∧ c
      = .relayout r ∧ pl = relayoutPlan ∨
    o = .gather ∧ c = .gather r ∧ pl = gatherPlan ∨
    o = .scatter ∧ pl = scatterPlan ∧ (c = .scatterStore r ∧ isScatterAdd x = false ∨ c = .scatterAdd r ∧ isScatterAdd x = true)) ∧ RunsAt s
      r o 0 x ∧ s.mem.bad = [] ∧ (lgDom s dAeTxn).parityBad = false ∧ (lgDom s dHeTxn).parityBad = false ∧ firstReport (plansMade pl s x) =
      none) ∧
    (∃ o : Op, ∃ c : Instr, ∃ pl : Planner, ∃ r : Ref, ∃ x : Desc, ∃ s : State, (o = .copy ∧ c = .copy r ∧ pl = copyPlan ∨ o = .relayout ∧ c
      = .relayout r ∧ pl = relayoutPlan ∨
    o = .gather ∧ c = .gather r ∧ pl = gatherPlan ∨
    o = .scatter ∧ pl = scatterPlan ∧ (c = .scatterStore r ∧ isScatterAdd x = false ∨ c = .scatterAdd r ∧ isScatterAdd x = true)) ∧ RunsAt s
      r o 0 x ∧ s.mem.bad = [] ∧ (lgDom s dAeTxn).parityBad = false ∧ (lgDom s dHeTxn).parityBad = false ∧ firstReport (plansMade pl s x) =
      none) ∧
    (∃ o : Op, ∃ c : Instr, ∃ pl : Planner, ∃ r : Ref, ∃ x : Desc, ∃ s : State, (o = .copy ∧ c = .copy r ∧ pl = copyPlan ∨ o = .relayout ∧ c
      = .relayout r ∧ pl = relayoutPlan ∨
    o = .gather ∧ c = .gather r ∧ pl = gatherPlan ∨
    o = .scatter ∧ pl = scatterPlan ∧ (c = .scatterStore r ∧ isScatterAdd x = false ∨ c = .scatterAdd r ∧ isScatterAdd x = true)) ∧ RunsAt s
      r o 0 x ∧ s.mem.bad = [] ∧ (lgDom s dAeTxn).parityBad = false ∧ (lgDom s dHeTxn).parityBad = false ∧ firstReport (plansMade pl s x) =
      none) ∧
    (∃ o : Op, ∃ c : Instr, ∃ pl : Planner, ∃ r : Ref, ∃ x : Desc, ∃ s : State, (o = .copy ∧ c = .copy r ∧ pl = copyPlan ∨ o = .relayout ∧ c
      = .relayout r ∧ pl = relayoutPlan ∨
    o = .gather ∧ c = .gather r ∧ pl = gatherPlan ∨
    o = .scatter ∧ pl = scatterPlan ∧ (c = .scatterStore r ∧ isScatterAdd x = false ∨ c = .scatterAdd r ∧ isScatterAdd x = true)) ∧ RunsAt s
      r o 0 x ∧ s.mem.bad = [] ∧ (lgDom s dAeTxn).parityBad = false ∧ (lgDom s dHeTxn).parityBad = false ∧ firstReport (plansMade pl s x) =
      none) ∧
    (∃ o : Op, ∃ c : Instr, ∃ pl : Planner, ∃ r : Ref, ∃ x : Desc, ∃ s : State, (o = .copy ∧ c = .copy r ∧ pl = copyPlan ∨ o = .relayout ∧ c
      = .relayout r ∧ pl = relayoutPlan ∨
    o = .gather ∧ c = .gather r ∧ pl = gatherPlan ∨
    o = .scatter ∧ pl = scatterPlan ∧ (c = .scatterStore r ∧ isScatterAdd x = false ∨ c = .scatterAdd r ∧ isScatterAdd x = true)) ∧ RunsAt s
      r o 0 x ∧ s.mem.bad = [] ∧ (lgDom s dAeTxn).parityBad = false ∧ (lgDom s dHeTxn).parityBad = false ∧ firstReport (plansMade pl s x) =
      none) :=
  ⟨⟨.copy, .copy r0, copyPlan, r0, dCp 0x22 [], withD sM (dCp 0x22 []), ⟨Or.inl ⟨rfl, rfl, rfl⟩, by decide +kernel⟩⟩,
   ⟨.relayout, .relayout r0, relayoutPlan, r0, dCp 0x23 [(32, 3, 0x2C688)], withD sM (dCp 0x23 [(32, 3, 0x2C688)]), ⟨Or.inr (Or.inl ⟨rfl,
     rfl, rfl⟩), by decide +kernel⟩⟩,
   ⟨.gather, .gather r0, gatherPlan, r0, dG 0x20 [], withD sG (dG 0x20 []), ⟨Or.inr (Or.inr (Or.inl ⟨rfl, rfl, rfl⟩)), by decide +kernel⟩⟩,
   ⟨.scatter, .scatterStore r0, scatterPlan, r0, dG 0x21 [], withD sG (dG 0x21 []), ⟨Or.inr (Or.inr (Or.inr ⟨rfl, rfl, Or.inl ⟨rfl, by
     decide +kernel⟩⟩)), by decide +kernel⟩⟩,
   ⟨.scatter, .scatterAdd r0, scatterPlan, r0, dG 0x21 [(40, 1, 0x21)], withD sG (dG 0x21 [(40, 1, 0x21)]), ⟨Or.inr (Or.inr (Or.inr ⟨rfl,
     rfl, Or.inr ⟨rfl, by decide +kernel⟩⟩)), by decide +kernel⟩⟩⟩

theorem wit_HearthCommandsComplete :
    (∃ k : Nat, ∃ c : Instr, ∃ r : Ref, ∃ x : Desc, ∃ s : State, (k = 0 ∧ c = .heOpFill r ∨ k = 1 ∧ c = .heOpCopy r ∨ k = 2 ∧ c = .heOpCast
      r ∨ k = 3 ∧ c = .heOpReduceAdd r ∨
    k = 4 ∧ c = .heOpScale r ∨ k = 5 ∧ c = .heOpNorm r ∨ k = 6 ∧ c = .heOpNormAcc r) ∧ RunsAt s r .heOp 0 x ∧ (∀ c ∈ x.copies, c.target =
      .hearth) ∧ heOp x = k ∧ firstError (heChecks (withSnap x s) x) = none ∧ s.mem.bad = [] ∧ (lgDom s dHeTxn).parityBad = false) ∧
    (∃ k : Nat, ∃ c : Instr, ∃ r : Ref, ∃ x : Desc, ∃ s : State, (k = 0 ∧ c = .heOpFill r ∨ k = 1 ∧ c = .heOpCopy r ∨ k = 2 ∧ c = .heOpCast
      r ∨ k = 3 ∧ c = .heOpReduceAdd r ∨
    k = 4 ∧ c = .heOpScale r ∨ k = 5 ∧ c = .heOpNorm r ∨ k = 6 ∧ c = .heOpNormAcc r) ∧ RunsAt s r .heOp 0 x ∧ (∀ c ∈ x.copies, c.target =
      .hearth) ∧ heOp x = k ∧ firstError (heChecks (withSnap x s) x) = none ∧ s.mem.bad = [] ∧ (lgDom s dHeTxn).parityBad = false) ∧
    (∃ k : Nat, ∃ c : Instr, ∃ r : Ref, ∃ x : Desc, ∃ s : State, (k = 0 ∧ c = .heOpFill r ∨ k = 1 ∧ c = .heOpCopy r ∨ k = 2 ∧ c = .heOpCast
      r ∨ k = 3 ∧ c = .heOpReduceAdd r ∨
    k = 4 ∧ c = .heOpScale r ∨ k = 5 ∧ c = .heOpNorm r ∨ k = 6 ∧ c = .heOpNormAcc r) ∧ RunsAt s r .heOp 0 x ∧ (∀ c ∈ x.copies, c.target =
      .hearth) ∧ heOp x = k ∧ firstError (heChecks (withSnap x s) x) = none ∧ s.mem.bad = [] ∧ (lgDom s dHeTxn).parityBad = false) ∧
    (∃ k : Nat, ∃ c : Instr, ∃ r : Ref, ∃ x : Desc, ∃ s : State, (k = 0 ∧ c = .heOpFill r ∨ k = 1 ∧ c = .heOpCopy r ∨ k = 2 ∧ c = .heOpCast
      r ∨ k = 3 ∧ c = .heOpReduceAdd r ∨
    k = 4 ∧ c = .heOpScale r ∨ k = 5 ∧ c = .heOpNorm r ∨ k = 6 ∧ c = .heOpNormAcc r) ∧ RunsAt s r .heOp 0 x ∧ (∀ c ∈ x.copies, c.target =
      .hearth) ∧ heOp x = k ∧ firstError (heChecks (withSnap x s) x) = none ∧ s.mem.bad = [] ∧ (lgDom s dHeTxn).parityBad = false) ∧
    (∃ k : Nat, ∃ c : Instr, ∃ r : Ref, ∃ x : Desc, ∃ s : State, (k = 0 ∧ c = .heOpFill r ∨ k = 1 ∧ c = .heOpCopy r ∨ k = 2 ∧ c = .heOpCast
      r ∨ k = 3 ∧ c = .heOpReduceAdd r ∨
    k = 4 ∧ c = .heOpScale r ∨ k = 5 ∧ c = .heOpNorm r ∨ k = 6 ∧ c = .heOpNormAcc r) ∧ RunsAt s r .heOp 0 x ∧ (∀ c ∈ x.copies, c.target =
      .hearth) ∧ heOp x = k ∧ firstError (heChecks (withSnap x s) x) = none ∧ s.mem.bad = [] ∧ (lgDom s dHeTxn).parityBad = false) ∧
    (∃ k : Nat, ∃ c : Instr, ∃ r : Ref, ∃ x : Desc, ∃ s : State, (k = 0 ∧ c = .heOpFill r ∨ k = 1 ∧ c = .heOpCopy r ∨ k = 2 ∧ c = .heOpCast
      r ∨ k = 3 ∧ c = .heOpReduceAdd r ∨
    k = 4 ∧ c = .heOpScale r ∨ k = 5 ∧ c = .heOpNorm r ∨ k = 6 ∧ c = .heOpNormAcc r) ∧ RunsAt s r .heOp 0 x ∧ (∀ c ∈ x.copies, c.target =
      .hearth) ∧ heOp x = k ∧ firstError (heChecks (withSnap x s) x) = none ∧ s.mem.bad = [] ∧ (lgDom s dHeTxn).parityBad = false) ∧
    (∃ k : Nat, ∃ c : Instr, ∃ r : Ref, ∃ x : Desc, ∃ s : State, (k = 0 ∧ c = .heOpFill r ∨ k = 1 ∧ c = .heOpCopy r ∨ k = 2 ∧ c = .heOpCast
      r ∨ k = 3 ∧ c = .heOpReduceAdd r ∨
    k = 4 ∧ c = .heOpScale r ∨ k = 5 ∧ c = .heOpNorm r ∨ k = 6 ∧ c = .heOpNormAcc r) ∧ RunsAt s r .heOp 0 x ∧ (∀ c ∈ x.copies, c.target =
      .hearth) ∧ heOp x = k ∧ firstError (heChecks (withSnap x s) x) = none ∧ s.mem.bad = [] ∧ (lgDom s dHeTxn).parityBad = false) ∧
    (∃ r : Ref, ∃ x : Desc, ∃ s : State, RunsAt s r .optStep 0 x ∧ (∀ c ∈ x.copies, c.target = .hearth) ∧ firstError (optChecks (withSnap x
      s) x) = none ∧ s.mem.bad = [] ∧ ∃ y : Desc, findDesc (optBegun r s) r = some y) ∧
    (∃ r : Ref, ∃ x : Desc, ∃ s : State, RunsAt s r .optStep 1 x ∧ (∀ c ∈ x.copies, c.target = .hearth) ∧ s.mem.bad = [] ∧ (lgDom s
      dHeTxn).parityBad = false ∧ (isGated x = false ∨ ∃ w, gateOf s (vround x) = .held w ∧ w.getLsbD 0 = false)) ∧
    (∃ r : Ref, ∃ x : Desc, ∃ s : State, RunsAt s r .optStep 1 x ∧ (∀ c ∈ x.copies, c.target = .hearth) ∧ isGated x = true ∧ gateOf s
      (vround x) = .ahead ∧ parkedOn s .hearth < 4) ∧
    (∃ r : Ref, ∃ x : Desc, ∃ w : DWord, ∃ s : State, RunsAt s r .optStep 1 x ∧ (∀ c ∈ x.copies, c.target = .hearth) ∧ isGated x = true ∧
      gateOf s (vround x) = .held w ∧ w.getLsbD 0 = true) ∧
    (∃ r : Ref, ∃ x : Desc, ∃ c : Copy, ∃ s : State, findDesc s r = some x ∧ waitingCopy x = some c ∧ x.op = some .optStep ∧ isGated x =
      true ∧ x.outcome = none ∧ c.since + 100000000 ≤ s.clk) :=
  ⟨⟨0, .heOpFill r0, r0, dH 0x10, withD sH (dH 0x10), by decide +kernel⟩,
   ⟨1, .heOpCopy r0, r0, dH 0x111, withD sH (dH 0x111), by decide +kernel⟩,
   ⟨2, .heOpCast r0, r0, dH 0x102, withD sH (dH 0x102), by decide +kernel⟩,
   ⟨3, .heOpReduceAdd r0, r0, dH 0x113, withD sH (dH 0x113), by decide +kernel⟩,
   ⟨4, .heOpScale r0, r0, dH 0x14, withD sH (dH 0x14), by decide +kernel⟩,
   ⟨5, .heOpNorm r0, r0, dH 0x105, withD sH (dH 0x105), by decide +kernel⟩,
   ⟨6, .heOpNormAcc r0, r0, dH 0x106, withD sH (dH 0x106), by decide +kernel⟩,
   ⟨r0, dO 0, withD sO (dO 0), by decide +kernel, by decide +kernel, by decide +kernel, by decide +kernel, ((findDesc (optBegun r0 (withD sO
     (dO 0))) r0).getD (dO 0)), by decide +kernel⟩,
   ⟨r0, held (dO 0) .running 1, withD sO (held (dO 0) .running 1), by decide +kernel⟩,
   ⟨r0, held (dO 1) .running 1, withD sO (held (dO 1) .running 1), by decide +kernel⟩,
   ⟨r0, held (dO 1) .running 1, 1,
     { withD sO (held (dO 1) .running 1) with guard := { Guard.reset with doneRound := 0, held := [(0, 1)] } }, by decide +kernel⟩,
   ⟨r0, held (dO 1) (.parked false 0) 1, { target := .hearth, st := .parked false 0, stage := 1, since := 0, report := none },
     { withD sO (held (dO 1) (.parked false 0) 1) with clk := 100000000 }, by decide +kernel⟩⟩

theorem wit_FieldTimeComplete :
    (∃ s : State, ftRuns s = true ∧ s.ft.arm = true) ∧
    (∃ s : State, ftRuns s = true ∧ s.ft.arm = false) ∧
    (∃ s : State, ftRuns s = true ∧ s.ft.arm = false) ∧
    (∃ s : State, ∃ c : Nat, ftRuns s = true ∧ s.ft.lastPulse = some c ∧ c + 10001000 ≤ s.clk) ∧
    (∃ s : State, ftRuns s = true) ∧
    (∃ s : State, ftRuns s = true) ∧
    (∃ v : Word, ∃ s : State, inService s = true ∧ v.getLsbD 0 = true ∧ v.getLsbD 1 = false) ∧
    (∃ v : Word, ∃ s : State, inService s = true ∧ v.getLsbD 0 = true ∧ v.getLsbD 1 = false) ∧
    (∃ v : Word, ∃ s : State, inService s = true ∧ v.getLsbD 1 = true) ∧
    (∃ v : DWord, ∃ s : State, inService s = true ∧ v.toNat % 10000000 = 0 ∧ s.ft.arm = false) ∧
    (∃ v : DWord, ∃ s : State, inService s = true ∧ (v.toNat % 10000000 ≠ 0 ∨ s.ft.arm = true)) ∧
    (∃ v : DWord, ∃ s : State, inService s = true ∧ (v.toNat % 10000000 ≠ 0 ∨ s.ft.arm = true)) ∧
    (∃ s : State, inService s = true) ∧
    (∃ s : State, inService s = true) ∧
    (∃ s : State, inService s = true ∧ s.ft.ft.toNat % 10000 = 0) ∧
    (∃ s : State, inService s = true ∧ s.ft.ft.toNat % 10000 = 0) ∧
    (∃ s : State, inService s = true ∧ s.ft.outEn = true ∧ s.ft.ft.toNat % (if s.ft.outSrc = true then 10000 else 10000000) = 0) ∧
    (∃ s : State, inService s = true ∧ s.ft.outEn = true ∧ s.ft.ft.toNat % (if s.ft.outSrc = true then 10000 else 10000000) = 0) ∧
    (∃ v : Word, ∃ s : State, inService s = true ∧ v.getLsbD 0 = true) ∧
    (∃ v : Word, ∃ s : State, inService s = true ∧ v.getLsbD 0 = true) ∧
    (∃ v : Word, ∃ s : State, inService s = true ∧ v.getLsbD 0 = false) :=
  ⟨⟨{ sF with ft := { FieldTime.reset with arm := true } }, by decide +kernel⟩,
   ⟨sF, by decide +kernel⟩,
   ⟨{ sF with ft := { FieldTime.reset with ft := 5000000 } }, by decide +kernel⟩,
   ⟨{ sF with ft := { FieldTime.reset with lastPulse := some 0 }, clk := 10001000 }, 0, by decide +kernel⟩,
   ⟨sF, by decide +kernel⟩,
   ⟨sF, by decide +kernel⟩,
   ⟨1, sF, by decide +kernel⟩,
   ⟨1, sRF, by decide +kernel⟩,
   ⟨3, sF, by decide +kernel⟩,
   ⟨10000000, sF, by decide +kernel⟩,
   ⟨10000001, sF, by decide +kernel⟩,
   ⟨0, { sF with ft := { FieldTime.reset with arm := true } }, by decide +kernel⟩,
   ⟨sF, by decide +kernel⟩,
   ⟨sF, by decide +kernel⟩,
   ⟨sF, by decide +kernel⟩,
   ⟨sK, by decide +kernel⟩,
   ⟨{ sF with ft := { FieldTime.reset with outEn := true, ft := 10000000 } }, by decide +kernel⟩,
   ⟨{ sF with ft := { FieldTime.reset with outEn := true, outSrc := true, ft := 10000 } }, by decide +kernel⟩,
   ⟨1, sF, by decide +kernel⟩,
   ⟨3, { sF with pins := { Pins.reset with ftpOe := true } }, by decide +kernel⟩,
   ⟨2, sF, by decide +kernel⟩⟩

theorem wit_TimeExchangesAndPlansComplete :
    (∃ p : Nat, ∃ s : State, timeMode s = true ∧ portTrained s p = true) ∧
    (∃ p : Nat, ∃ _t1 : DWord, ∃ s : State, timeMode s = true ∧ portTrained s p = true) ∧
    (∃ _p : Nat, ∃ _t1 : DWord, ∃ _replay : Bool, ∃ s : State, timeMode s = false) ∧
    (∃ p : Nat, ∃ t1 : DWord, ∃ _t2 : DWord, ∃ _turn : Word, ∃ s : State, timeMode s = true ∧ portTrained s p = true ∧ (portTime s p).sent =
      some t1 ∧ (s.ft.ft - t1).toNat ≤ 100000) ∧
    (∃ p : Nat, ∃ s : State, ∃ c : Nat, (portTime s p).valid = true ∧ (portTime s p).lastReply = some c ∧ c + 1000000 ≤ s.clk) ∧
    (∃ b : Nat, ∃ s : State, b < 2 ∧ inService s = true ∧ (let s1 := writeLogged (0x110218 + 0x40 * b) 1 s;
    (planOf s1 b).en = false ∧ ∃ m : Byte, ∃ es : List PlanEntry, planCheck s1 (planOf s1 b) = .ok (m, es) ∧ ((bitOf m.toNat 6 || bitOf
      m.toNat 7) = false ∨ claimHolder s1 2 ≠ 1))) ∧
    (∃ b : Nat, ∃ s : State, b < 2 ∧ inService s = true ∧ (let s1 := writeLogged (0x110218 + 0x40 * b) 1 s;
    (planOf s1 b).en = false ∧ ∃ m : Byte, ∃ es : List PlanEntry, planCheck s1 (planOf s1 b) = .ok (m, es) ∧ ((bitOf m.toNat 6 || bitOf
      m.toNat 7) = false ∨ claimHolder s1 2 ≠ 1))) ∧
    (∃ b : Nat, ∃ s : State, b < 2 ∧ inService s = true ∧ (let s1 := writeLogged (0x110218 + 0x40 * b) 1 s;
    (planOf s1 b).en = false ∧ ∃ m : Byte, ∃ es : List PlanEntry, planCheck s1 (planOf s1 b) = .ok (m, es) ∧ (bitOf m.toNat 6 || bitOf
      m.toNat 7) = true ∧ claimHolder s1 2 = 1)) ∧
    (∃ b : Nat, ∃ s : State, b < 2 ∧ inService s = true ∧ (let s1 := writeLogged (0x110218 + 0x40 * b) 1 s;
    (planOf s1 b).en = false ∧ ∃ e : Nat, ∃ i : Nat, planCheck s1 (planOf s1 b) = .error (e, i))) :=
  ⟨⟨0, sPt .up, by decide +kernel⟩,
   ⟨15, 9, sPt15, by decide +kernel⟩,
   ⟨0, 0, false, sK, by decide +kernel⟩,
   ⟨0, 100, 200, 5, { sPt .up with ft := { FieldTime.reset with ft := 100100, ports := [(0, { PortTime.reset with sent := some 100 })] } },
     by decide +kernel⟩,
   ⟨0,
     { sF with clk := 1000000, ft := { FieldTime.reset with ports := [(0, { PortTime.reset with valid := true, lastReply := some 0 })] } },
     0, by decide +kernel⟩,
   ⟨1, sPl 0x01, by decide +kernel, by decide +kernel, by decide +kernel, 0x01,
     [{ port := 0, rx := false, first := 0, count := 1, peer := 0 }], rfl, by decide +kernel⟩,
   ⟨1, sPl 0x40, by decide +kernel, by decide +kernel, by decide +kernel, 0x40,
     [{ port := 0, rx := false, first := 0, count := 1, peer := 0 }], rfl, by decide +kernel⟩,
   ⟨1, { sPl 0x40 with yoke := { Yoke.reset with en := true } }, by decide +kernel, by decide +kernel, by decide +kernel, 0x40,
     [{ port := 0, rx := false, first := 0, count := 1, peer := 0 }], rfl, by decide +kernel⟩,
   ⟨0, sF, by decide +kernel, by decide +kernel, by decide +kernel, 2, 0, rfl⟩⟩

theorem wit_TallyOperationsComplete :
    (∃ r : Ref, ∃ t : Target, ∃ x : Desc, ∃ s : State, CopyRunsAt s r t .tally 0 x ∧ tallyError s x = none ∧ tallyOp x = 0) ∧
    (∃ r : Ref, ∃ t : Target, ∃ x : Desc, ∃ s : State, CopyRunsAt s r t .tally 0 x ∧ tallyError s x = none ∧ tallyOp x = 1) ∧
    (∃ r : Ref, ∃ t : Target, ∃ x : Desc, ∃ s : State, CopyRunsAt s r t .tally 0 x ∧ tallyError s x = none ∧ (let n := tallyNo x;
    (let c := tally s n;
    tallyOp x = 2 ∧ serialDone c (tallyGoal x) = true))) ∧
    (∃ r : Ref, ∃ t : Target, ∃ x : Desc, ∃ s : State, CopyRunsAt s r t .tally 0 x ∧ tallyError s x = none ∧ (let n := tallyNo x;
    (let c := tally s n;
    tallyOp x = 2 ∧ serialDone c (tallyGoal x) = false))) ∧
    (∃ r : Ref, ∃ t : Target, ∃ x : Desc, ∃ s : State, CopyRunsAt s r t .tally 0 x ∧ tallyError s x = none ∧ (let n := tallyNo x;
    (let c := tally s n;
    tallyOp x = 3 ∧ serialDone c (tallyGoal x) = true))) ∧
    (∃ r : Ref, ∃ t : Target, ∃ x : Desc, ∃ s : State, CopyRunsAt s r t .tally 0 x ∧ tallyError s x = none ∧ (let n := tallyNo x;
    (let c := tally s n;
    tallyOp x = 3 ∧ serialDone c (tallyGoal x) = false))) ∧
    (∃ r : Ref, ∃ t : Target, ∃ x : Desc, ∃ s : State, CopyRunsAt s r t .tally 0 x ∧ tallyError s x = none ∧ tallyOp x = 4) ∧
    (∃ r : Ref, ∃ t : Target, ∃ x : Desc, ∃ s : State, CopyRunsAt s r t .tally 0 x ∧ 5 ≤ tallyOp x ∧ ∃ c : Instr, (c = .tallyAdd r t ∨ c =
      .tallySet r t ∨ c = .tallyWait r t ∨ c = .tallyWaitAdd r t ∨ c = .tallyRead r t)) ∧
    (∃ r : Ref, ∃ t : Target, ∃ x : Desc, ∃ s : State, CopyRunsAt s r t .tally 0 x ∧ 5 ≤ tallyOp x ∧ ∃ c : Instr, (c = .tallyAdd r t ∨ c =
      .tallySet r t ∨ c = .tallyWait r t ∨ c = .tallyWaitAdd r t ∨ c = .tallyRead r t)) ∧
    (∃ i : Nat, ∃ _v : Word, ∃ _s : State, ∃ j : Nat, j ≠ i) ∧
    (∃ i : Nat, ∃ v : Word, ∃ s : State, satisfiedOn (setTally i v s) i = []) :=
  ⟨⟨r0, .core 0 0, dTy 0 7, withD (sT 3) (dTy 0 7), ⟨copyRuns (by decide +kernel), by decide +kernel⟩⟩,
   ⟨r0, .core 0 0, dTy 1 7, withD (sT 3) (dTy 1 7), ⟨copyRuns (by decide +kernel), by decide +kernel⟩⟩,
   ⟨r0, .core 0 0, dTy 2 7, withD (sT 5) (dTy 2 7), ⟨copyRuns (by decide +kernel), by decide +kernel⟩⟩,
   ⟨r0, .core 0 0, dTy 2 7, withD (sT 4) (dTy 2 7), ⟨copyRuns (by decide +kernel), by decide +kernel⟩⟩,
   ⟨r0, .core 0 0, dTy 3 7, withD (sT 5) (dTy 3 7), ⟨copyRuns (by decide +kernel), by decide +kernel⟩⟩,
   ⟨r0, .core 0 0, dTy 3 7, withD (sT 4) (dTy 3 7), ⟨copyRuns (by decide +kernel), by decide +kernel⟩⟩,
   ⟨r0, .core 0 0, dTy 4 7, withD (sT 4) (dTy 4 7), ⟨copyRuns (by decide +kernel), by decide +kernel⟩⟩,
   ⟨r0, .core 0 0, dTy 5 7, withD (sT 4) (dTy 5 7), copyRuns (by decide +kernel), by decide +kernel, .tallyAdd r0 (.core 0 0), by
     decide +kernel⟩,
   ⟨r0, .core 0 0, dTy 5 7, withD (sT 4) (dTy 5 7), copyRuns (by decide +kernel), by decide +kernel, .tallyRead r0 (.core 0 0), by
     decide +kernel⟩,
   ⟨0, 1, sF, 1, by decide +kernel⟩,
   ⟨0, 1, sF, by decide +kernel⟩⟩

theorem wit_BarrierOperationsComplete :
    (∃ r : Ref, ∃ t : Target, ∃ x : Desc, ∃ y : LgDom, ∃ s : State, CopyRunsAt s r t .barrier 0 x ∧ barrierError s x = none ∧ (lgDom s
      dBarrier).parityBad = false ∧ (lgDom s dBarrier).take (barLine x) 1 = some y ∧ (let l := barLine x;
    (let p := partNo t;
    (lineOf s l).arrived.get false p = false ∧ barOp x = 0))) ∧
    (∃ r : Ref, ∃ t : Target, ∃ x : Desc, ∃ y : LgDom, ∃ s : State, CopyRunsAt s r t .barrier 0 x ∧ barrierError s x = none ∧ (lgDom s
      dBarrier).parityBad = false ∧ (lgDom s dBarrier).take (barLine x) 1 = some y ∧ (let l := barLine x;
    (let p := partNo t;
    (lineOf s l).arrived.get false p = false ∧ barOp x = 0))) ∧
    (∃ r : Ref, ∃ t : Target, ∃ x : Desc, ∃ y : LgDom, ∃ s : State, CopyRunsAt s r t .barrier 0 x ∧ barrierError s x = none ∧ (lgDom s
      dBarrier).parityBad = false ∧ (lgDom s dBarrier).take (barLine x) 1 = some y ∧ (let l := barLine x;
    (let p := partNo t;
    (lineOf s l).arrived.get false p = false ∧ barOp x = 2 ∧ fencedParts s (lineOf s l) = 0))) ∧
    (∃ r : Ref, ∃ t : Target, ∃ x : Desc, ∃ y : LgDom, ∃ s : State, CopyRunsAt s r t .barrier 0 x ∧ barrierError s x = none ∧ (lgDom s
      dBarrier).parityBad = false ∧ (lgDom s dBarrier).take (barLine x) 1 = some y ∧ (let l := barLine x;
    (let p := partNo t;
    (lineOf s l).arrived.get false p = false ∧ barOp x = 2 ∧ fencedParts s (lineOf s l) = 0))) ∧
    (∃ r : Ref, ∃ t : Target, ∃ x : Desc, ∃ y : LgDom, ∃ s : State, CopyRunsAt s r t .barrier 0 x ∧ barrierError s x = none ∧ (lgDom s
      dBarrier).parityBad = false ∧ (lgDom s dBarrier).take (barLine x) 1 = some y ∧ (let l := barLine x;
    (let p := partNo t;
    (lineOf s l).arrived.get false p = true ∧ (lineOf s l).latched.get false p = false ∧ barOp x = 0))) ∧
    (∃ r : Ref, ∃ t : Target, ∃ x : Desc, ∃ y : LgDom, ∃ s : State, CopyRunsAt s r t .barrier 0 x ∧ barrierError s x = none ∧ (lgDom s
      dBarrier).parityBad = false ∧ (lgDom s dBarrier).take (barLine x) 1 = some y ∧ (let l := barLine x;
    (let p := partNo t;
    (lineOf s l).arrived.get false p = true ∧ (lineOf s l).latched.get false p = false ∧ barOp x = 2 ∧ fencedParts s (lineOf s l) = 0))) ∧
    (∃ r : Ref, ∃ t : Target, ∃ x : Desc, ∃ s : State, CopyRunsAt s r t .barrier 0 x ∧ barrierError s x = none ∧ pendingOf (lineOf s
      (barLine x)) (partNo t) = 2 ∧ barOp x = 0) ∧
    (∃ r : Ref, ∃ t : Target, ∃ x : Desc, ∃ s : State, CopyRunsAt s r t .barrier 0 x ∧ barrierError s x = none ∧ pendingOf (lineOf s
      (barLine x)) (partNo t) = 2 ∧ barOp x = 2) ∧
    (∃ r : Ref, ∃ t : Target, ∃ x : Desc, ∃ s : State, CopyRunsAt s r t .barrier 0 x ∧ barrierError s x = none ∧ barOp x = 1 ∧ pendingOf
      (lineOf s (barLine x)) (partNo t) = 0) ∧
    (∃ r : Ref, ∃ t : Target, ∃ x : Desc, ∃ s : State, CopyRunsAt s r t .barrier 0 x ∧ barrierError s x = none ∧ barOp x = 1 ∧ pendingOf
      (lineOf s (barLine x)) (partNo t) ≠ 0 ∧ fencedParts s (lineOf s (barLine x)) = 0) ∧
    (∃ l : Nat, ∃ _s : State, l < 32) ∧
    (∃ l : Nat, ∃ s : State, lineReady s (lineOf s l) = false) ∧
    (∃ l : Nat, ∃ s : State, lineReady s (lineOf s l) = true ∧ ∃ j : Nat, j ≠ l) ∧
    (∃ l : Nat, ∃ s : State, lineReady s (lineOf s l) = true ∧ spinning s l = []) ∧
    (∃ l : Nat, ∃ s : State, lineReady s (lineOf s l) = true) :=
  ⟨⟨r0, .core 0 0, dBa 0, ((lgDom (sL [] []) dBarrier).take 0 1).getD .reset, withD (sL [] []) (dBa 0), ⟨copyRuns (by decide +kernel), by
     decide +kernel⟩⟩,
   ⟨r0, .core 0 0, dBa 0, ((lgDom (sL [(1, true)] []) dBarrier).take 0 1).getD .reset, withD (sL [(1, true)] []) (dBa 0), ⟨copyRuns (by
     decide +kernel), by decide +kernel⟩⟩,
   ⟨r0, .core 0 0, dBa 2, ((lgDom (sL [] []) dBarrier).take 0 1).getD .reset, withD (sL [] []) (dBa 2), ⟨copyRuns (by decide +kernel), by
     decide +kernel⟩⟩,
   ⟨r0, .core 0 0, dBa 2, ((lgDom (sL [(1, true)] []) dBarrier).take 0 1).getD .reset, withD (sL [(1, true)] []) (dBa 2), ⟨copyRuns (by
     decide +kernel), by decide +kernel⟩⟩,
   ⟨r0, .core 0 0, dBa 0, ((lgDom (sL [(0, true)] []) dBarrier).take 0 1).getD .reset, withD (sL [(0, true)] []) (dBa 0), ⟨copyRuns (by
     decide +kernel), by decide +kernel⟩⟩,
   ⟨r0, .core 0 0, dBa 2, ((lgDom (sL [(0, true)] []) dBarrier).take 0 1).getD .reset, withD (sL [(0, true)] []) (dBa 2), ⟨copyRuns (by
     decide +kernel), by decide +kernel⟩⟩,
   ⟨r0, .core 0 0, dBa 0, withD (sL [(0, true)] [(0, true)]) (dBa 0), ⟨copyRuns (by decide +kernel), by decide +kernel⟩⟩,
   ⟨r0, .core 0 0, dBa 2, withD (sL [(0, true)] [(0, true)]) (dBa 2), ⟨copyRuns (by decide +kernel), by decide +kernel⟩⟩,
   ⟨r0, .core 0 0, dBa 1, withD (sL [] []) (dBa 1), ⟨copyRuns (by decide +kernel), by decide +kernel⟩⟩,
   ⟨r0, .core 0 0, dBa 1, withD (sL [(0, true)] []) (dBa 1), ⟨copyRuns (by decide +kernel), by decide +kernel⟩⟩,
   ⟨31, sF, by decide +kernel⟩,
   ⟨0, sL [(0, true)] [], by decide +kernel⟩,
   ⟨0, sL [(0, true), (1, true)] [(0, true)], by decide +kernel, 1, by decide +kernel⟩,
   ⟨0, sL [(0, true), (1, true)] [(0, true)], by decide +kernel⟩,
   ⟨0, sL [(0, true), (1, true)] [], by decide +kernel⟩⟩

theorem wit_StageQueueDescriptorsComplete :
    (∃ r : Ref, ∃ x : Desc, ∃ s : State, RunsAt s r .send 0 x ∧ firstReport (queueErrors x (sendChecks s x)) = none ∧ ((sqTx s (sendTxq
      x)).granted = false ∨ (sqTx s (sendTxq x)).credits = 0)) ∧
    (∃ r : Ref, ∃ x : Desc, ∃ s : State, RunsAt s r .send 0 x ∧ firstReport (queueErrors x (sendChecks s x)) = none ∧ s.mem.bad = [] ∧ (sqTx
      s (sendTxq x)).granted = true ∧ 0 < (sqTx s (sendTxq x)).credits ∧ (∀ c ∈ x.copies, ∃ td, queueTd s x c.target = some td ∧ td.rows *
      td.cols * (td.w / 8) ≤ (sqTx s (sendTxq x)).units * 4096)) ∧
    (∃ r : Ref, ∃ x : Desc, ∃ e : SqEntry, ∃ s : State, RunsAt s r .recv 0 x ∧ firstReport (queueErrors x (recvChecks s x)) = none ∧
      s.mem.bad = [] ∧ bestEntry (sqRx s (recvRxq x)) = some e ∧ firstReport (misfits s x e) = none ∧ (∀ z ∈ (sqRx s (recvRxq x)).entries,
      z.taken ≠ some r ∧ (z.seq = e.seq → z = e))) ∧
    (∃ r : Ref, ∃ x : Desc, ∃ s : State, RunsAt s r .recv 0 x ∧ firstReport (queueErrors x (recvChecks s x)) = none ∧ bestEntry (sqRx s
      (recvRxq x)) = none ∧ x.fld 24 6 1 = 1) ∧
    (∃ r : Ref, ∃ x : Desc, ∃ s : State, RunsAt s r .recv 0 x ∧ firstReport (queueErrors x (recvChecks s x)) = none ∧ bestEntry (sqRx s
      (recvRxq x)) = none ∧ x.fld 24 6 1 = 0) :=
  ⟨⟨r0, dSq 0x28 0 0, withD (sTx txA) (dSq 0x28 0 0), by decide +kernel⟩,
   ⟨r0, dSq 0x28 0 0, withD (sTx { txA with granted := true, credits := 2, units := 1 }) (dSq 0x28 0 0), by decide +kernel⟩,
   ⟨r0, dSq 0x29 3 0, entA, withD (sRx { rxA with entries := [entA] }) (dSq 0x29 3 0), by decide +kernel⟩,
   ⟨r0, dSq 0x29 3 0x40, withD (sRx rxA) (dSq 0x29 3 0x40), by decide +kernel⟩,
   ⟨r0, dSq 0x29 3 0, withD (sRx rxA) (dSq 0x29 3 0), by decide +kernel⟩⟩

theorem wit_EntriesAndRefusalsComplete :
    (∃ e : EntryIn, ∃ y : LgDom, ∃ s : State, entryRefusal s e = none ∧ mustWait s e.queue = false ∧ e.seq = (sqRx s e.queue).expect ∧
      awaitingAck s e.queue = 0 ∧ logging s = false ∧ s.mem.bad = [] ∧ (lgDom s dCredit).parityBad = false ∧ (lgDom s dCredit).move false
      e.queue 1 .lent .held = .ok y ∧ (∃ k < (sqRx s e.queue).depth.toNat, ∀ z ∈ (sqRx s e.queue).entries, z.slot ≠ k) ∧ (∀ k < (sqRx s
      e.queue).depth.toNat, writeWaits s (slotAddr (sqRx s e.queue) k) e.payload.length = false)) ∧
    (∃ e : EntryIn, ∃ n : Nat, ∃ s : State, entryRefusal s e = none ∧ mustWait s e.queue = false ∧ awaitingAck s e.queue = 0 ∧ serial (sqRx
      s e.queue).expect e.seq = .past n) ∧
    (∃ q : Nat, ∃ sq : Word, ∃ e : SqEntry, ∃ s : State, (sqRx s q).entries.find? (fun e => e.seq == sq && e.taken.isNone && !e.stale) =
      some e ∧ (sqRx s q).staleUs ≠ 0 ∧ e.since + 1000 * (sqRx s q).staleUs.toNat ≤ s.clk) ∧
    (∃ p : Packet, ∃ n : Nat, ∃ s : State, p.type = 5 ∧ p.stream.toNat < 64 ∧ channelFor s p.srcPos.toNat p.stream.toNat = some n ∧ (∀ d ∈
      s.descs, d.op ≠ some .send)) ∧
    (∃ p : Packet, ∃ s : State, p.type = 5 ∧ p.stream.toNat < 64 ∧ channelFor s p.srcPos.toNat p.stream.toNat = none) ∧
    (∃ p : Packet, ∃ n : Nat, ∃ d : Desc, ∃ s : State, p.type = 5 ∧ p.stream.toNat < 64 ∧ channelFor s p.srcPos.toNat p.stream.toNat = some
      n ∧ s.descs = [d] ∧ d.op = some .send ∧ sendTxq d = n ∧ d.detailAll = some p.mseq ∧ d.finished = false ∧ d.pair = none ∧ (d.copies.any
      fun c => c.st.waits && c.stage == 3) = true) ∧
    (∃ p : Packet, ∃ n : Nat, ∃ d : Desc, ∃ c : Copy, ∃ s : State, p.type = 5 ∧ p.stream.toNat < 64 ∧ channelFor s p.srcPos.toNat
      p.stream.toNat = some n ∧ s.descs = [d] ∧ d.op = some .send ∧ sendTxq d = n ∧ d.detailAll = some p.mseq ∧ d.finished = false ∧ d.pair
      = none ∧ d.copies = [c] ∧ c.stage = 4 ∧ c.st ≠ .done) ∧
    (∃ p : Packet, ∃ a : Asked, ∃ x : CollRun, ∃ d : Desc, ∃ s : State, p.type = 5 ∧ p.stream = 0x300 ∧ liveRun s = some x ∧ findDesc s
      x.ref = some d ∧ (copyAt d .collective).isSome = true ∧ x.reply = true ∧ x.exchange = false ∧ (s.coll.asked.find? fun a => a.pos ==
      p.srcPos.toNat && a.seq == p.mseq) = some a ∧ a.ref = x.ref) ∧
    (∃ p : Packet, ∃ s : State, p.type = 5 ∧ p.stream = 0x300 ∧ (∀ a ∈ s.coll.asked, ¬ (a.pos = p.srcPos.toNat ∧ a.seq = p.mseq))) ∧
    (∃ p : Packet, ∃ x : CollRun, ∃ d : Desc, ∃ s : State, p.type = 5 ∧ 0x100 ≤ p.stream.toNat ∧ p.stream.toNat < 0x180 ∧ liveRun s = some x
      ∧ findDesc s x.ref = some d ∧ (copyAt d .collective).isSome = true ∧ x.exchange = false ∧ x.sent.contains (p.srcPos.toNat,
      p.stream.toNat, p.mseq) = true) ∧
    (∃ p : Packet, ∃ x : CollRun, ∃ d : Desc, ∃ s : State, p.type = 5 ∧ 0x100 ≤ p.stream.toNat ∧ p.stream.toNat < 0x180 ∧ liveRun s = some x
      ∧ findDesc s x.ref = some d ∧ (copyAt d .collective).isSome = true ∧ x.exchange = false ∧ x.sent.contains (p.srcPos.toNat,
      p.stream.toNat, p.mseq) = true) :=
  ⟨⟨enA 0, ((lgDom (sRx rxA) dCredit).move false 3 1 .lent .held).toOption.getD .reset, sRx rxA, ⟨by decide +kernel, by decide +kernel, by
     decide +kernel, by decide +kernel, by decide +kernel, by decide +kernel, by decide +kernel, rfl, by decide +kernel⟩⟩,
   ⟨enA 0, 1, sRx { rxA with expect := 1 }, by decide +kernel⟩,
   ⟨3, 0, entA, { sRx { rxA with entries := [entA], staleUs := 1 } with clk := 1000 }, by decide +kernel⟩,
   ⟨pk 5 3, 0, sTx txA, by decide +kernel⟩,
   ⟨pk 5 3, sF, by decide +kernel⟩,
   ⟨pk 5 3, 0, held { dSq 0x28 0 0 with detailAll := some 7 } (.parked false 0) 3, withD (sTx txA) (held
     { dSq 0x28 0 0 with detailAll := some 7 } (.parked false 0) 3), by decide +kernel⟩,
   ⟨pk 5 3, 0, held { dSq 0x28 0 0 with detailAll := some 7 } .running 4,
     { target := .core 0 0, st := .running, stage := 4, since := 0, report := none }, withD (sTx txA) (held
     { dSq 0x28 0 0 with detailAll := some 7 } .running 4), by decide +kernel⟩,
   ⟨pk 5 0x300, asA 6 7, { runA 6 with reply := true }, dsc 0x40 4 0 0 [(56, 8, 5 * 2 ^ 44)], withD
     { sF with coll := { Coll.reset with run := some { runA 6 with reply := true }, asked := [asA 6 7] } } (dsc 0x40 4 0 0 [(56, 8, 5 * 2 ^
     44)]), by decide +kernel⟩,
   ⟨pk 5 0x300, sF, by decide +kernel⟩,
   ⟨{ pk 5 0x100 with arg0 := 5 }, { runA 4 with sent := [(5, 0x100, 7)] }, dsc 0x40 4 0 0 [], withD
     { sF with coll := { Coll.reset with run := some { runA 4 with sent := [(5, 0x100, 7)] } } } (dsc 0x40 4 0 0 []), by decide +kernel⟩,
   ⟨pk 5 0x17F, { runA 0 with sent := [(5, 0x17F, 7)] }, dsc 0x40 4 0 0 [], withD
     { sF with coll := { Coll.reset with run := some { runA 0 with sent := [(5, 0x17F, 7)] } } } (dsc 0x40 4 0 0 []), by decide +kernel⟩⟩

theorem wit_GrantsAndCreditsComplete :
    (∃ n : Nat, ∃ v : Word, ∃ s : State, n < 64 ∧ inService s = true ∧ (let s1 := writeLogged (0x48000 + 0x20 * n) v.toNat s;
    ctxActive s1 (sqTx s1 n).ctx.toNat = false)) ∧
    (∃ n : Nat, ∃ v : Word, ∃ s : State, n < 64 ∧ inService s = true ∧ (let s1 := writeLogged (0x48000 + 0x20 * n) v.toNat s;
    ctxActive s1 (sqTx s1 n).ctx.toNat = false)) ∧
    (∃ q : Nat, ∃ v : Word, ∃ s : State, q < 64 ∧ inService s = true ∧ (let s1 := writeLogged (0x4A000 + 0x40 * q) v.toNat s;
    (let x : SqRx := { sqRx s1 q with ctx := (v >>> 4).setWidth 4, srcPos := (v >>> 16).setWidth 14 };
    ctxActive s1 (sqRx s1 q).ctx.toNat = false ∧ (sqRx s1 q).en = false ∧ v.getLsbD 0 = true ∧ queueCfgOk s1 x = true))) ∧
    (∃ q : Nat, ∃ v : Word, ∃ s : State, q < 64 ∧ inService s = true ∧ (let s1 := writeLogged (0x4A000 + 0x40 * q) v.toNat s;
    (let x := sqRx s1 q;
    ctxActive s1 x.ctx.toNat = false ∧ x.en = true ∧ v.getLsbD 0 = true ∧ v.getLsbD 1 = true ∧ (v >>> 4).setWidth 4 = x.ctx ∧ (v >>>
      16).setWidth 14 = x.srcPos))) ∧
    (∃ q : Nat, ∃ s : State, (sqRx s q).en = true ∧ (sqRx s q).granting = true) ∧
    (∃ p : Packet, ∃ n : Nat, ∃ s : State, channelFor s p.srcPos.toNat p.stream.toNat = some n ∧ (sqTx s n).granted = false ∧ creditWaiters
      s n = []) ∧
    (∃ p : Packet, ∃ s : State, (sqRx s p.stream.toNat).en = true ∧ (sqRx s p.stream.toNat).srcPos = p.srcPos) ∧
    (∃ p : Packet, ∃ n : Nat, ∃ m : Nat, ∃ s : State, channelFor s p.srcPos.toNat p.stream.toNat = some n ∧ (sqTx s n).granted = true ∧
      serial (sqTx s n).returned p.arg0 = .ahead m ∧ creditWaiters s n = []) :=
  ⟨⟨63, 0x50003001, sF, by decide +kernel⟩,
   ⟨0, 0, sTx { txA with granted := true, credits := 3 }, by decide +kernel⟩,
   ⟨3, 0x50001, sRx { rxA with en := false }, by decide +kernel⟩,
   ⟨3, 0x50003, sRx { rxA with entries := [entA] }, by decide +kernel⟩,
   ⟨3, sRx { rxA with granting := true }, by decide +kernel⟩,
   ⟨{ pk 2 3 with arg0 := 0x10002 }, 0, sTx txA, by decide +kernel⟩,
   ⟨pk 3 3, sRx { rxA with granting := true }, by decide +kernel⟩,
   ⟨{ pk 4 3 with arg0 := 2 }, 0, 1, sTx { txA with granted := true, returned := 1 }, by decide +kernel⟩⟩

theorem wit_PortTrainingCompletes :
    (∃ p : Nat, ∃ s : State, p < 16 ∧ inService s = true ∧ (let s1 := writeLogged (0x120000 + 0x200 * p) 1 s;
    (portOf s1 p).state = .off ∧ portsRun s1 = true)) ∧
    (∃ p : Nat, ∃ s : State, p < 16 ∧ inService s = true ∧ (let s1 := writeLogged (0x120000 + 0x200 * p) 1 s;
    ((portOf s1 p).state ≠ .off ∨ portsRun s1 = false))) ∧
    (∃ p : Nat, ∃ s : State, p < 16 ∧ inService s = true ∧ (let s1 := writeLogged (0x120000 + 0x200 * p) 1 s;
    ((portOf s1 p).state ≠ .off ∨ portsRun s1 = false))) ∧
    (∃ p : Nat, ∃ s : State, (portOf s p).state = .training ∧ (portOf s p).start + 10000000 ≤ s.clk) ∧
    (∃ p : Nat, ∃ s : State, (portOf s p).state = .noPeer) ∧
    (∃ p : Nat, ∃ s : State, (portOf s p).state = .noPeer) ∧
    (∃ p : Nat, ∃ cause : Nat, ∃ s : State, (portOf s p).state = .training ∧ 2 ≤ cause ∧ cause ≤ 5 ∧ (portOf s p).attempts < 2) ∧
    (∃ p : Nat, ∃ cause : Nat, ∃ s : State, (portOf s p).state = .training ∧ 2 ≤ cause ∧ cause ≤ 5 ∧ 2 ≤ (portOf s p).attempts) :=
  ⟨⟨15, sF, by decide +kernel⟩,
   ⟨0, sP 0 (pSt .up) sF, by decide +kernel⟩,
   ⟨0, sK, by decide +kernel⟩,
   ⟨0, sP 0 (pSt .training) (fz 10000000 sF), by decide +kernel⟩,
   ⟨0, sP 0 (pSt .noPeer) sF, by decide +kernel⟩,
   ⟨0, sP 0 (pSt .noPeer) sF, by decide +kernel⟩,
   ⟨0, 2, sP 0 { pSt .training with attempts := 1 } sF, by decide +kernel⟩,
   ⟨0, 5, sP 0 { pSt .training with attempts := 2 } sF, by decide +kernel⟩⟩

theorem wit_PoolAndRetryBufferMove :
    (∃ p : Nat, ∃ _s : State, p < 16 ∧ ∃ v : Nat, v < 8) ∧
    (∃ p : Nat, ∃ _s : State, p < 16 ∧ ∃ c : Nat, (c < 8 * p ∨ 8 * p + 8 ≤ c)) ∧
    (∃ p : Nat, ∃ s : State, p < 16 ∧ (let x := portOf s p;
    x.state = .up ∧ x.downAt = none)) ∧
    (∃ p : Nat, ∃ s : State, p < 16 ∧ (let x := portOf s p;
    x.state = .up)) ∧
    (∃ p : Nat, ∃ _s : State, p < 16) ∧
    (∃ p : Nat, ∃ v : Nat, ∃ b : Nat, ∃ y : LgDom, ∃ s : State, (lgDom s dBlock).parityBad = false ∧ (lgDom s dBlock).move true (8 * p + v)
      b .lent .held = .ok y ∧ b ≤ (poolCh s (8 * p + v)).adv) :=
  ⟨⟨15, sF, by decide +kernel, 7, by decide +kernel⟩,
   ⟨0, sBk 3 sF, by decide +kernel, 8, by decide +kernel⟩,
   ⟨0, sP 0 (pSt .up) sF, by decide +kernel⟩,
   ⟨0, sP 0 (pSt .up) sF, by decide +kernel⟩,
   ⟨0, sP 0 (pUp [(1, .packet (pk 1 0))]) sF, by decide +kernel⟩,
   ⟨0, 0, 2, ((lgDom (sBk 3 sF) dBlock).move true 0 2 .lent .held).toOption.getD .reset, sBk 3 sF, by decide +kernel, rfl, by
     decide +kernel⟩⟩

theorem wit_HelloCommandsComplete :
    (∃ p : Nat, ∃ s : State, helloState (portOf s p).state = true) ∧
    (∃ p : Nat, ∃ h : Hello, ∃ s : State, (portOf s p).state = .training ∧ h.proto = 1 ∧ s.clk ≤ (portOf s p).start + 250000000 ∧
      s.adm.admitted = false) ∧
    (∃ p : Nat, ∃ h : Hello, ∃ s : State, (portOf s p).state = .training ∧ (h.proto ≠ 1 ∨ (portOf s p).start + 250000000 < s.clk)) ∧
    (∃ p : Nat, ∃ h : Hello, ∃ s : State, (portOf s p).state = .training ∧ (h.proto ≠ 1 ∨ (portOf s p).start + 250000000 < s.clk)) ∧
    (∃ p : Nat, ∃ _h : Hello, ∃ s : State, (portOf s p).state = .parked) ∧
    (∃ p : Nat, ∃ h : Hello, ∃ g : Hello, ∃ s : State, (portOf s p).state = .up ∧ (portOf s p).parkHello = some g ∧ sameDevice g h = true) ∧
    (∃ p : Nat, ∃ h : Hello, ∃ g : Hello, ∃ s : State, (portOf s p).state = .up ∧ (portOf s p).parkHello = some g ∧ sameDevice g h = false) ∧
    (∃ p : Nat, ∃ s : State, (portOf s p).peerValid = true ∧ (portOf s p).peerAt + 1000000 ≤ s.clk) :=
  ⟨⟨0, sP 0 (pSt .training) sF, by decide +kernel⟩,
   ⟨0, hel 1 0, sP 0 (pSt .training) (fz 250000000 sF), by decide +kernel⟩,
   ⟨0, hel 2 0, sP 0 (pSt .training) sF, by decide +kernel⟩,
   ⟨0, hel 1 0, sP 0 (pSt .training) (fz 250000001 sF), by decide +kernel⟩,
   ⟨0, hel 1 0, sP 0 (pSt .parked) sF, by decide +kernel⟩,
   ⟨0, hel 1 0, hel 2 0, sP 0 { pSt .up with parkHello := some (hel 2 0) } sF, by decide +kernel⟩,
   ⟨0, hel 1 1, hel 1 0, sP 0 { pSt .up with parkHello := some (hel 1 0) } (sAd sF), by decide +kernel⟩,
   ⟨0, sP 0 { pSt .up with peerValid := true } (fz 1000000 sF), by decide +kernel⟩⟩

theorem wit_RetrainCommandsComplete :
    (∃ p : Nat, ∃ s : State, p < 16 ∧ inService s = true ∧ (let s1 := writeLogged (0x120000 + 0x200 * p) 3 s;
    ((portOf s1 p).state = .parked ∨ (portOf s1 p).state = .up))) ∧
    (∃ p : Nat, ∃ s : State, p < 16 ∧ inService s = true ∧ (let s1 := writeLogged (0x120000 + 0x200 * p) 3 s;
    ((portOf s1 p).state = .parked ∨ (portOf s1 p).state = .up))) ∧
    (∃ p : Nat, ∃ s : State, p < 16 ∧ inService s = true ∧ (let s1 := writeLogged (0x120000 + 0x200 * p) 3 s;
    (portOf s1 p).state = .failed)) ∧
    (∃ p : Nat, ∃ lane : Nat, ∃ s : State, lane < 8 ∧ ((portOf s p).state = .parked ∨ (portOf s p).state = .up)) ∧
    (∃ p : Nat, ∃ s : State, (portOf s p).state = .retrain ∧ (portOf s p).start + 20000 ≤ s.clk ∧ s.clk ≤ (portOf s p).start + 2000000 ∧
      (portOf s p).back = .parked ∧ (portOf s p).tx.unacked = [] ∧ s.adm.admitted = false) ∧
    (∃ p : Nat, ∃ s : State, (portOf s p).state = .retrain ∧ (portOf s p).start + 20000 ≤ s.clk ∧ s.clk ≤ (portOf s p).start + 2000000 ∧
      (portOf s p).back = .parked ∧ (portOf s p).tx.unacked = [] ∧ s.link.backlog = [] ∧ (∀ q, (portOf s q).failover = false) ∧
      s.adm.admitted = true ∧ matchesNow (setPort p { portOf s p with state := .parked, laneLock := 0xFF } s) p = true) ∧
    (∃ p : Nat, ∃ s : State, (portOf s p).state = .retrain ∧ (portOf s p).start + 20000 ≤ s.clk ∧ s.clk ≤ (portOf s p).start + 2000000 ∧
      (portOf s p).back = .up ∧ (portOf s p).tx.unacked = [] ∧ s.link.backlog = [] ∧ (∀ q, (portOf s q).failover = false)) ∧
    (∃ p : Nat, ∃ f : BitVec 12, ∃ i : TxItem, ∃ rest : List (BitVec 12 × TxItem), ∃ s : State, (portOf s p).state = .retrain ∧ (portOf s
      p).start + 20000 ≤ s.clk ∧ s.clk ≤ (portOf s p).start + 2000000 ∧ (portOf s p).back = .parked ∧ s.adm.admitted = false ∧ (portOf s
      p).tx.unacked = (f, i) :: rest) ∧
    (∃ p : Nat, ∃ s : State, (portOf s p).state = .retrain ∧ (portOf s p).start + 2000000 ≤ s.clk) :=
  ⟨⟨15, sP 15 (pSt .up) sF, by decide +kernel⟩,
   ⟨0, sP 0 (pSt .parked) sF, by decide +kernel⟩,
   ⟨0, sP 0 { pSt .failed with attempts := 3 } sF, by decide +kernel⟩,
   ⟨0, 7, sP 0 (pSt .up) sF, by decide +kernel⟩,
   ⟨0, sP 0 { pSt .retrain with back := .parked } (fz 20000 sF), by decide +kernel⟩,
   ⟨0, sP 0 { pSt .retrain with back := .parked, downAt := some 0, peer := some (hel 1 0), peerValid := true } (fz 20000 (sAd sF)),
     by refine ⟨by decide +kernel, by decide +kernel, by decide +kernel, by decide +kernel, by decide +kernel, by decide +kernel, ?_, by decide +kernel, by decide +kernel⟩; intro q; simp only [portOf, sP, Tab.get]; split <;> rfl⟩,
   ⟨0, sP 0 { pSt .retrain with back := .up, downAt := some 0 } (fz 2000000 sF),
     by refine ⟨by decide +kernel, by decide +kernel, by decide +kernel, by decide +kernel, by decide +kernel, by decide +kernel, ?_⟩; intro q; simp only [portOf, sP, Tab.get]; split <;> rfl⟩,
   ⟨0, 5, .part, [(6, .packet (pk 1 0))], sP 0 { pUp [(5, .part), (6, .packet (pk 1 0))] with state := .retrain, back := .parked } (fz 20000
     sF), by decide +kernel⟩,
   ⟨0, sP 0 { pSt .retrain with back := .up } (fz 2000000 sF), by decide +kernel⟩⟩

theorem wit_FlitsComplete :
    (∃ p : Nat, ∃ f : Flit, ∃ s : State, flitState s p = true ∧ (portOf s p).rx.nak = none ∧ Ecc.bad f.codeword = false ∧ f.idle = false ∧
      f.laneField = f.lane ∧ f.fseq = (portOf s p).rx.expect ∧ f.crcFail = false) ∧
    (∃ p : Nat, ∃ f : Flit, ∃ s : State, flitState s p = true ∧ (portOf s p).rx.nak = none ∧ Ecc.bad f.codeword = false ∧ f.idle = false ∧
      f.laneField = f.lane ∧ f.fseq = (portOf s p).rx.expect ∧ f.crcFail = false) ∧
    (∃ p : Nat, ∃ f : Flit, ∃ s : State, flitState s p = true ∧ (portOf s p).rx.nak = none ∧ Ecc.bad f.codeword = false ∧ f.idle = false ∧
      f.laneField = f.lane ∧ f.fseq = (portOf s p).rx.expect ∧ f.crcFail = true) ∧
    (∃ p : Nat, ∃ f : Flit, ∃ s : State, flitState s p = true ∧ (portOf s p).rx.nak = none ∧ (Ecc.bad f.codeword = true ∨ f.laneField ≠
      f.lane ∨
    f.fseq ≠ (portOf s p).rx.expect ∧ (f.replay = false ∨ 2047 < ((portOf s p).rx.expect - f.fseq).toNat))) ∧
    (∃ p : Nat, ∃ f : Flit, ∃ s : State, flitState s p = true ∧ (portOf s p).rx.nak = none ∧ (Ecc.bad f.codeword = true ∨ f.laneField ≠
      f.lane ∨
    f.fseq ≠ (portOf s p).rx.expect ∧ (f.replay = false ∨ 2047 < ((portOf s p).rx.expect - f.fseq).toNat))) ∧
    (∃ p : Nat, ∃ f : Flit, ∃ s : State, flitState s p = true ∧ (portOf s p).rx.nak = none ∧ (Ecc.bad f.codeword = true ∨ f.laneField ≠
      f.lane ∨
    f.fseq ≠ (portOf s p).rx.expect ∧ (f.replay = false ∨ 2047 < ((portOf s p).rx.expect - f.fseq).toNat))) ∧
    (∃ p : Nat, ∃ f : Flit, ∃ s : State, flitState s p = true ∧ (portOf s p).rx.nak = none ∧ (Ecc.bad f.codeword = true ∨ f.laneField ≠
      f.lane ∨
    f.fseq ≠ (portOf s p).rx.expect ∧ (f.replay = false ∨ 2047 < ((portOf s p).rx.expect - f.fseq).toNat))) ∧
    (∃ p : Nat, ∃ f : Flit, ∃ s : State, flitState s p = true ∧ (portOf s p).rx.nak = none ∧ (Ecc.bad f.codeword = true ∨ f.laneField ≠
      f.lane ∨
    f.fseq ≠ (portOf s p).rx.expect ∧ (f.replay = false ∨ 2047 < ((portOf s p).rx.expect - f.fseq).toNat))) ∧
    (∃ p : Nat, ∃ f : Flit, ∃ s : State, flitState s p = true ∧ (portOf s p).rx.nak = none ∧ Ecc.bad f.codeword = false ∧ f.laneField =
      f.lane ∧ (f.idle = true ∧ f.fseq = (portOf s p).rx.expect ∨ f.fseq ≠ (portOf s p).rx.expect ∧ f.replay = true ∧
    ((portOf s p).rx.expect - f.fseq).toNat ≤ 2047)) ∧
    (∃ p : Nat, ∃ f : Flit, ∃ s : State, flitState s p = true ∧ (portOf s p).rx.nak = none ∧ Ecc.bad f.codeword = false ∧ f.laneField =
      f.lane ∧ (f.idle = true ∧ f.fseq = (portOf s p).rx.expect ∨ f.fseq ≠ (portOf s p).rx.expect ∧ f.replay = true ∧
    ((portOf s p).rx.expect - f.fseq).toNat ≤ 2047)) ∧
    (∃ p : Nat, ∃ f : Flit, ∃ n : BitVec 12, ∃ s : State, flitState s p = true ∧ (portOf s p).rx.nak = some n ∧ (Ecc.bad f.codeword = true ∨
      f.idle = true ∨ f.laneField ≠ f.lane ∨ f.replay = false ∨ f.fseq ≠ n)) ∧
    (∃ p : Nat, ∃ f : Flit, ∃ n : BitVec 12, ∃ s : State, flitState s p = true ∧ (portOf s p).rx.nak = some n ∧ (Ecc.bad f.codeword = true ∨
      f.idle = true ∨ f.laneField ≠ f.lane ∨ f.replay = false ∨ f.fseq ≠ n)) ∧
    (∃ p : Nat, ∃ f : Flit, ∃ n : BitVec 12, ∃ s : State, flitState s p = true ∧ (portOf s p).rx.nak = some n ∧ Ecc.bad f.codeword = false ∧
      f.idle = false ∧ f.laneField = f.lane ∧ f.replay = true ∧ f.fseq = n ∧ f.crcFail = false) ∧
    (∃ p : Nat, ∃ _f : Flit, ∃ s : State, flitState s p = false ∧ (portOf s p).state ≠ .training) ∧
    (∃ p : Nat, ∃ s : State, flitState s p = true ∧ (portOf s p).rx.ackable ≠ (portOf s p).rx.acked ∧ (64 ≤ (portOf s p).rx.sinceAck ∨
      (portOf s p).rx.ackAt + 200 ≤ s.clk)) ∧
    (∃ p : Nat, ∃ s : State, flitState s p = true ∧ (portOf s p).rx.ackable ≠ (portOf s p).rx.acked ∧ (64 ≤ (portOf s p).rx.sinceAck ∨
      (portOf s p).rx.ackAt + 200 ≤ s.clk)) ∧
    (∃ p : Nat, ∃ n : BitVec 12, ∃ s : State, flitState s p = true ∧ (portOf s p).rx.nak = some n ∧ (portOf s p).rx.nakAt + 2000 ≤ s.clk) :=
  ⟨⟨0, fl 0 1, sP 0 (pSt .up) sF, by decide +kernel⟩,
   ⟨0, { fl 0 0 with codeword := .corrected, replay := true }, sP 0 { pSt .training with deskewed := true } sF, by decide +kernel⟩,
   ⟨0, { fl 0 0 with crcFail := true }, sP 0 (pSt .up) sF, by decide +kernel⟩,
   ⟨0, { fl 0 0 with codeword := .uncorrectable 3, idle := true }, sP 0 (pSt .up) sF, by decide +kernel⟩,
   ⟨0, { fl 0 0 with laneField := 1 }, sP 0 (pSt .up) sF, by decide +kernel⟩,
   ⟨0, fl 1 0, sP 0 (pSt .up) sF, by decide +kernel⟩,
   ⟨0, { fl 2048 0 with replay := true }, sP 0 (pSt .up) sF, by decide +kernel⟩,
   ⟨0, { fl 3 0 with idle := true }, sP 0 (pSt .parked) sF, by decide +kernel⟩,
   ⟨0, { fl 0 0 with idle := true }, sP 0 (pSt .up) sF, by decide +kernel⟩,
   ⟨0, { fl 2049 0 with replay := true }, sP 0 (pSt .up) sF, by decide +kernel⟩,
   ⟨0, fl 0 0, 0, sP 0 { pSt .up with rx := { PortRx.reset with nak := some 0 } } sF, by decide +kernel⟩,
   ⟨0, { fl 9 0 with replay := true, idle := true }, 9, sP 0 { pSt .up with rx := { PortRx.reset with nak := some 9 } } sF, by
     decide +kernel⟩,
   ⟨0, { fl 0 0 with replay := true }, 0, sP 0 { pSt .up with rx := { PortRx.reset with nak := some 0 } } sF, by decide +kernel⟩,
   ⟨0, fl 0 0, sP 0 (pSt .retrain) sF, by decide +kernel⟩,
   ⟨0, sP 0 { pSt .parked with rx := { PortRx.reset with sinceAck := 64, ackable := 63 } } sF, by decide +kernel⟩,
   ⟨0, sP 0 { pSt .parked with rx := { PortRx.reset with sinceAck := 1, ackable := 0 } } (fz 200 sF), by decide +kernel⟩,
   ⟨0, 9, sP 0 { pSt .up with rx := { PortRx.reset with nak := some 9 } } (fz 2000 sF), by decide +kernel⟩⟩

theorem wit_AcksAndReplaysComplete :
    (∃ p : Nat, ∃ f : BitVec 12, ∃ i : TxItem, ∃ before : List (BitVec 12 × TxItem), ∃ after : List (BitVec 12 × TxItem), ∃ y : LgDom, ∃ s :
      State, flitState s p = true ∧ (portOf s p).tx.unacked = before ++ (f, i) :: after ∧ (∀ u ∈ before ++ after, u.1 ≠ f) ∧ s.link.backlog
      = [] ∧ (lgDom s dLinkPacket).parityBad = false ∧
      (let n := ((before ++ [(f, i)]).filter fun u => match u.2 with | .packet _ => true | _ => false).length;
    (lgDom s dLinkPacket).move false p n .held .free = .ok y)) ∧
    (∃ p : Nat, ∃ f : BitVec 12, ∃ s : State, flitState s p = true ∧ (∀ u ∈ (portOf s p).tx.unacked, u.1 ≠ f)) ∧
    (∃ p : Nat, ∃ f : BitVec 12, ∃ i : TxItem, ∃ before : List (BitVec 12 × TxItem), ∃ after : List (BitVec 12 × TxItem), ∃ s : State,
      flitState s p = true ∧ (portOf s p).tx.unacked = before ++ (f, i) :: after ∧ (∀ u ∈ before, u.1 ≠ f) ∧ (portOf s p).tx.replays.get 0
      f.toNat < 7) ∧
    (∃ p : Nat, ∃ f : BitVec 12, ∃ i : TxItem, ∃ before : List (BitVec 12 × TxItem), ∃ after : List (BitVec 12 × TxItem), ∃ s : State,
      (portOf s p).state = .up ∧ (portOf s p).tx.unacked = before ++ (f, i) :: after ∧ (∀ u ∈ before, u.1 ≠ f) ∧ 7 ≤ (portOf s
      p).tx.replays.get 0 f.toNat) ∧
    (∃ p : Nat, ∃ f : BitVec 12, ∃ i : TxItem, ∃ rest : List (BitVec 12 × TxItem), ∃ s : State, flitState s p = true ∧ (portOf s
      p).tx.unacked = (f, i) :: rest ∧ (portOf s p).tx.moved + 2000 ≤ s.clk) ∧
    (∃ p : Nat, ∃ _w : CtlWord, ∃ s : State, (portOf s p).tx.words = [] ∧ (portOf s p).tx.unacked.length < 512) ∧
    (∃ p : Nat, ∃ _w : CtlWord, ∃ s : State, ((portOf s p).tx.words ≠ [] ∨ 512 ≤ (portOf s p).tx.unacked.length)) ∧
    (∃ p : Nat, ∃ _w : CtlWord, ∃ s : State, ((portOf s p).tx.words ≠ [] ∨ 512 ≤ (portOf s p).tx.unacked.length)) ∧
    (∃ p : Nat, ∃ _w : CtlWord, ∃ _s : State, ∃ q : Nat, q ≠ p) :=
  ⟨⟨0, 1, .packet (pk 1 0), [(0, .part)], [(2, .part)], { LgDom.full 1 with high := 0 }, sP 0 (pUp [(0, .part), (1, .packet (pk 1 0)), (2,
     .part)]) { sF with lg := { Ledger.reset with doms := [(3, { LgDom.full 1 with free := 0, held := 1, heldBy := [(0, 1)] })] } }, ⟨by
     decide +kernel, by decide +kernel, by decide +kernel, by decide +kernel, by decide +kernel, rfl⟩⟩,
   ⟨0, 3, sP 0 (pUp [(0, .part)]) sF, by decide +kernel⟩,
   ⟨0, 1, .part, [(0, .part)], [], sP 0 (pUp [(0, .part), (1, .part)]) sF, by decide +kernel⟩,
   ⟨0, 1, .part, [(0, .part)], [], sP 0
     { pUp [(0, .part), (1, .part)] with tx := { (pUp [(0, .part), (1, .part)]).tx with replays := [(1, 7)] } } sF, by decide +kernel⟩,
   ⟨0, 0, .part, [(1, .part)], sP 0 (pUp [(0, .part), (1, .part)]) (fz 2000 sF), by decide +kernel⟩,
   ⟨0, .timeReq 0, sP 0 (pSt .up) { sF with ft := { FieldTime.reset with ft := 77 } }, by decide +kernel⟩,
   ⟨0, .ack 3, sP 0 { pSt .up with tx := { PortTx.reset with words := [.nak 1] } } sF, by decide +kernel⟩,
   ⟨0, .ack 3, sP 0 (pUp (List.replicate 512 (0, .part))) sF, by decide +kernel⟩,
   ⟨0, .ack 3, sP 0 (pSt .up) sF, 1, by decide +kernel⟩⟩

theorem wit_CreditsAndPacketsComplete :
    (∃ p : Nat, ∃ vc : Nat, ∃ total : Word, ∃ n : Nat, ∃ s : State, flitState s p = true ∧ vc < 8 ∧ serial ((portOf s p).tx.totals.get 0 vc)
      total = .ahead n) ∧
    (∃ p : Nat, ∃ q : Packet, ∃ s : State, (portOf s p).state = .up ∧ (portOf s p).tx.words = [] ∧ s.link.backlog = [] ∧ nextPacket s p =
      some q) ∧
    (∃ p : Nat, ∃ q : Packet, ∃ s : State, (portOf s p).state = .up ∧ (portOf s p).tx.words = [] ∧ s.link.backlog = [] ∧ nextPacket s p =
      some q ∧ q.type ≠ 1) ∧
    (∃ p : Nat, ∃ s : State, (portOf s p).state = .up ∧ (portOf s p).tx.words = [] ∧ s.link.backlog = [] ∧ nextPacket s p = none) ∧
    (∃ p : Nat, ∃ w : CtlWord, ∃ s : State, flitState s p = true ∧ firstWord (portOf s p) = some w ∧ (portOf s p).tx.unacked.length < 512) ∧
    (∃ p : Nat, ∃ w : CtlWord, ∃ s : State, flitState s p = true ∧ firstWord (portOf s p) = some w ∧ 512 ≤ (portOf s p).tx.unacked.length) ∧
    (∃ p : Nat, ∃ q : Packet, ∃ s : State, flitState s p = true ∧ q.vc < 8 ∧
      (let s1 := setPort p { portOf s p with stats := { (portOf s p).stats with rxBytes := (portOf s p).stats.rxBytes.add (packetBytes q) } } s;
    (portOf s p).state ≠ .training ∧ (poolArrive p q.vc (packetBlocks q) s1).1 = false)) ∧
    (∃ p : Nat, ∃ q : Packet, ∃ s : State, flitState s p = true ∧ q.vc < 8 ∧
      (let s1 := setPort p { portOf s p with stats := { (portOf s p).stats with rxBytes := (portOf s p).stats.rxBytes.add (packetBytes q) } } s;
    (portOf s p).state ≠ .training ∧ (poolArrive p q.vc (packetBlocks q) s1).1 = true)) ∧
    (∃ p : Nat, ∃ q : Packet, ∃ s : State, flitState s p = true ∧ q.vc < 8 ∧ (portOf s p).state = .training) ∧
    (∃ c : Nat, ∃ _n : Nat, ∃ _s : State, c < 128) ∧
    (∃ p : Nat, ∃ c : Nat, ∃ s : State, (portOf s p).downAt = some c ∧ (portOf s p).state ≠ .up ∧ c + 2000000 ≤ s.clk ∧ (portOf s
      p).failover = false) ∧
    (∃ p : Nat, ∃ c : Nat, ∃ s : State, (portOf s p).upAt = some c ∧ (portOf s p).state = .up ∧ c + 10000000 ≤ s.clk) :=
  ⟨⟨0, 7, 5, 5, sP 0 (pSt .up) sF, by decide +kernel⟩,
   ⟨0, pk 1 0, sP 0 { pUp [] with tx := { (pUp []).tx with queue := [pk 1 0] } } sF, by decide +kernel⟩,
   ⟨0, pk 6 0, sP 0 { pUp [] with tx := { (pUp []).tx with queue := [pk 6 0] } } sF, by decide +kernel⟩,
   ⟨0, sP 0 (pSt .up) sF, by decide +kernel⟩,
   ⟨0, .ack 1, sP 0 { pSt .parked with tx := { PortTx.reset with words := [.nak 5, .ack 1] } } sF, by decide +kernel⟩,
   ⟨0, .nak 5, sP 0 { pSt .up with tx := { PortTx.reset with words := [.nak 5], unacked := List.replicate 512 (0, .part) } } sF, by
     decide +kernel⟩,
   ⟨0, pk 1 0, sP 0 (pSt .up) sF, by decide +kernel⟩,
   ⟨0, pk 1 0, sBk 3 (sP 0 (pSt .up) sF), by decide +kernel⟩,
   ⟨0, pk 1 0, sP 0 { pSt .training with deskewed := true } sF, by decide +kernel⟩,
   ⟨127, 3, { sF with link := { Links.reset with pool := { Pool.reset with chans := [(127, { PoolCh.reset with held := 2 })] } } }, by
     decide +kernel⟩,
   ⟨0, 0, sP 0 { pSt .failed with downAt := some 0 } (fz 2000000 sF), by decide +kernel⟩,
   ⟨0, 0,
     { sP 0 { pSt .up with upAt := some 0 } (fz 10000000 (sAd sF)) with link := { (sP 0 { pSt .up with upAt := some 0 } sF).link with paths := [(5 * 2 ^ 18, { port := 3, mid := false, alt := none })] } },
     by decide +kernel⟩⟩

theorem wit_AdmissionCommandsComplete :
    (∃ s : State, inService s = true ∧ (let s1 := writeLogged 0x123008 1 s;
    s1.adm.state ≠ 1 ∧ (s1.ms.mode = .full ∨ s1.ms.mode = .banked))) ∧
    (∃ s : State, inService s = true ∧ (let s1 := writeLogged 0x123008 1 s;
    s1.adm.state ≠ 1 ∧ (s1.ms.mode = .full ∨ s1.ms.mode = .banked))) ∧
    (∃ s : State, inService s = true ∧ (let s1 := writeLogged 0x123008 1 s;
    s1.adm.state ≠ 1 ∧ s1.ms.mode ≠ .full ∧ s1.ms.mode ≠ .banked)) ∧
    (∃ s : State, inService s = true ∧ (let s1 := writeLogged 0x123008 1 s;
    s1.adm.state = 1)) ∧
    (∃ s : State, s.adm.state = 1 ∧ recordOk s .iod s.adm.manifestAddr.toNat 2240 64 = false) ∧
    (∃ r : Nat, ∃ p : Nat, ∃ s : State, s.adm.state = 1 ∧ recordOk s .iod s.adm.manifestAddr.toNat 2240 64 = true ∧ unfilled s
      s.adm.manifestAddr.toNat 2240 = false ∧ s.mem.bad = [] ∧ (let b := readBytes s .iod s.adm.manifestAddr.toNat 2240;
    manifestReserved b = false ∧ admitFailure s (manifestOf b) = some (r, p))) ∧
    (∃ s : State, s.adm.state = 1 ∧ recordOk s .iod s.adm.manifestAddr.toNat 2240 64 = true ∧ unfilled s s.adm.manifestAddr.toNat 2240 =
      false ∧ s.mem.bad = [] ∧ (let b := readBytes s .iod s.adm.manifestAddr.toNat 2240;
    manifestReserved b = false ∧ admitFailure s (manifestOf b) = none)) ∧
    (∃ s : State, s.adm.state = 1 ∧ recordOk s .iod s.adm.manifestAddr.toNat 2240 64 = true ∧ unfilled s s.adm.manifestAddr.toNat 2240 =
      true) ∧
    (∃ s : State, inService s = true ∧ anyCtxActive s = false) ∧
    (∃ s : State, inService s = true ∧ anyCtxActive s = true) :=
  ⟨⟨sF, by decide +kernel⟩,
   ⟨sB, by decide +kernel⟩,
   ⟨sK, by decide +kernel⟩,
   ⟨{ sF with adm := { Admit.reset with state := 1 } }, by decide +kernel⟩,
   ⟨{ sF with adm := { Admit.reset with state := 1, manifestAddr := 1 } }, by decide +kernel⟩,
   ⟨3, 0, { sMf 0 with ft := FieldTime.reset },
     by refine ⟨by decide +kernel, by decide +kernel, by decide +kernel, by decide +kernel, ?_⟩; simp only [show readBytes { sMf 0 with ft := FieldTime.reset } .iod (sMf 0).adm.manifestAddr.toNat 2240 = List.replicate 2240 0 from sMfBytes]; exact ⟨zerosReserveNothing 2240, by decide +kernel⟩⟩,
   ⟨sMf 0,
     by refine ⟨by decide +kernel, by decide +kernel, by decide +kernel, by decide +kernel, ?_⟩; simp only [sMfBytes]; exact ⟨zerosReserveNothing 2240, by decide +kernel⟩⟩,
   ⟨{ sMf 0 with mem := { (sMf 0).mem with filled := [] } }, by decide +kernel⟩,
   ⟨sP 0 (pSt .up) (sAd sF), by decide +kernel⟩,
   ⟨{ sAd sF with host := { HostIf.reset with ctxs := [(0, { Ctx.reset with state := .active })] } }, by decide +kernel⟩⟩

theorem wit_CollectivesComplete :
    (∃ r : Ref, ∃ x : Desc, ∃ s : State, RunsAt s r .collective 0 x ∧ firstError (collChecks (withSnap x s) x) = none ∧ collVc x < 6 ∧
      collOp x = 0) ∧
    (∃ r : Ref, ∃ x : Desc, ∃ s : State, RunsAt s r .collective 0 x ∧ firstError (collChecks (withSnap x s) x) = none ∧ collVc x < 6 ∧
      collOp x = 1) ∧
    (∃ r : Ref, ∃ x : Desc, ∃ s : State, RunsAt s r .collective 0 x ∧ firstError (collChecks (withSnap x s) x) = none ∧ collVc x < 6 ∧
      collOp x = 2) ∧
    (∃ r : Ref, ∃ x : Desc, ∃ s : State, RunsAt s r .collective 0 x ∧ firstError (collChecks (withSnap x s) x) = none ∧ collVc x < 6 ∧
      collOp x = 3) ∧
    (∃ r : Ref, ∃ x : Desc, ∃ s : State, RunsAt s r .collective 0 x ∧ firstError (collChecks (withSnap x s) x) = none ∧ collVc x < 6 ∧
      collOp x = 4) ∧
    (∃ r : Ref, ∃ x : Desc, ∃ s : State, RunsAt s r .collective 0 x ∧ firstError (collChecks (withSnap x s) x) = none ∧ collVc x < 6 ∧
      collOp x = 5) ∧
    (∃ r : Ref, ∃ x : Desc, ∃ s : State, RunsAt s r .collective 0 x ∧ firstError (collChecks (withSnap x s) x) = none ∧ collVc x < 6 ∧
      collOp x = 6) ∧
    (∃ r : Ref, ∃ x : Desc, ∃ off : Nat, ∃ s : State, RunsAt s r .collective 0 x ∧ firstError (collChecks (withSnap x s) x) = some off) ∧
    (∃ r : Ref, ∃ x : Desc, ∃ s : State, RunsAt s r .collective 0 x ∧ firstError (collChecks (withSnap x s) x) = none ∧ 6 ≤ collVc x ∧
      claimHolder s 2 ≠ 2 ∧ collOp x = 0) :=
  ⟨⟨r0, dCo 0 [], withD sCo (dCo 0 []), by decide +kernel⟩,
   ⟨r0, dCo 1 [(40, 8, 0x800)], withD sCo (dCo 1 [(40, 8, 0x800)]), by decide +kernel⟩,
   ⟨r0, dCo 0x12 [(32, 8, 0x400)], withD sCo (dCo 0x12 [(32, 8, 0x400)]), by decide +kernel⟩,
   ⟨r0, dCo 3 [], withD sCo (dCo 3 []), by decide +kernel⟩,
   ⟨r0, dCo 4 [(40, 8, 0x800), (56, 8, 0x800)], withD sCo (dCo 4 [(40, 8, 0x800), (56, 8, 0x800)]), by decide +kernel⟩,
   ⟨r0, dCo 5 [(56, 8, 0x3000)], withD sCo (dCo 5 [(56, 8, 0x3000)]), by decide +kernel⟩,
   ⟨r0, dCo 6 [(56, 8, 2 ^ 44 + 0x3000)], withD sCo (dCo 6 [(56, 8, 2 ^ 44 + 0x3000)]), by decide +kernel⟩,
   ⟨r0, dCo 7 [], 16, withD sCo (dCo 7 []), by decide +kernel⟩,
   ⟨r0, dCo 0 [(18, 1, 0xC)], { withD sCo (dCo 0 [(18, 1, 0xC)]) with yoke := { Yoke.reset with en := true } }, by decide +kernel⟩⟩

theorem wit_CollectivesBegin :
    (∃ d : Desc, ∃ _s : State, ∃ k : Nat, k ≠ collSlot d) ∧
    (∃ d : Desc, ∃ np : Nat, ∃ me : Nat, ∃ _bs : List CBlock, ∃ _r : Nat, ∃ _ph : Bool, ∃ _b : CBlock, collOp d ≤ 3 ∧ me < np) ∧
    (∃ d : Desc, ∃ np : Nat, ∃ me : Nat, ∃ _bs : List CBlock, ∃ _r : Nat, ∃ _ph : Bool, ∃ _b : CBlock, collOp d ≤ 3 ∧ me < np) ∧
    (∃ d : Desc, ∃ s : State, collOp d = 5 ∧ collFar d / 2 ^ 44 ≠ strapPos s ∧ s.mem.bad = []) ∧
    (∃ d : Desc, ∃ s : State, collOp d = 6 ∧ collFar d / 2 ^ 44 ≠ strapPos s) ∧
    (∃ d : Desc, ∃ s : State, collFar d / 2 ^ 44 = strapPos s ∧ farReach s (collFar d % 2 ^ 44) (collCount d * collWidth d) = true) ∧
    (∃ d : Desc, ∃ x : Desc, ∃ s : State, collFar d / 2 ^ 44 = strapPos s ∧ farReach s (collFar d % 2 ^ 44) (collCount d * collWidth d) =
      true ∧ s.mem.bad = [] ∧ findDesc s d.ref = some x ∧ x.outcome = none ∧ (∃ c, copyAt x .collective = some c ∧ c.st = .running ∧
      c.report = none)) ∧
    (∃ d : Desc, ∃ s : State, collFar d / 2 ^ 44 = strapPos s ∧ farReach s (collFar d % 2 ^ 44) (collCount d * collWidth d) = false) :=
  ⟨⟨dCo 0 [], withD sCo (dCo 0 []), 1, by decide +kernel⟩,
   ⟨dCo 0 [], 2, 1, [{ entry := 0, owner := 0, origin := 0, len := 1 }], 0, false, { entry := 0, owner := 0, origin := 0, len := 1 }, by
     decide +kernel⟩,
   ⟨dCo 0 [], 2, 1, [{ entry := 0, owner := 0, origin := 0, len := 1 }], 0, false, { entry := 0, owner := 0, origin := 0, len := 1 }, by
     decide +kernel⟩,
   ⟨dCo 5 [(56, 8, 2 ^ 44 + 0x3000)], withD sCo (dCo 5 [(56, 8, 2 ^ 44 + 0x3000)]), by decide +kernel⟩,
   ⟨dCo 6 [(56, 8, 2 ^ 44 + 0x3000)], withD sCo (dCo 6 [(56, 8, 2 ^ 44 + 0x3000)]), by decide +kernel⟩,
   ⟨dCo 5 [(56, 8, 0x3000)], withD sCo (dCo 5 [(56, 8, 0x3000)]), by decide +kernel⟩,
   ⟨dCo 5 [(56, 8, 0x3000)], dCo 5 [(56, 8, 0x3000)], withD sCo (dCo 5 [(56, 8, 0x3000)]), by decide +kernel⟩,
   ⟨dCo 5 [(56, 8, 2 ^ 42)], withD sCo (dCo 5 [(56, 8, 2 ^ 42)]), by decide +kernel⟩⟩

theorem wit_CollectivePacketsComplete :
    (∃ port : Nat, ∃ p : Packet, ∃ s : State, p.type = 6 ∧ InOrder s port p) ∧
    (∃ port : Nat, ∃ p : Packet, ∃ s : State, p.type = 6 ∧ InOrder s port p ∧ liveRun s = none) ∧
    (∃ port : Nat, ∃ p : Packet, ∃ s : State, p.type = 13 ∧ undeliveredWhy s port 0 p = none ∧ 0x100 ≤ p.stream.toNat ∧ p.stream.toNat <
      0x180) ∧
    (∃ port : Nat, ∃ p : Packet, ∃ x : CollRun, ∃ d : Desc, ∃ c : Copy, ∃ s : State, p.type = 13 ∧ undeliveredWhy s port 0 p = none ∧ 0x100
      ≤ p.stream.toNat ∧ p.stream.toNat < 0x180 ∧ s.coll.run = some x ∧ x.want = [] ∧ x.reply = false ∧ x.exchange = false ∧ x.bad = none ∧
      findDesc s x.ref = some d ∧ d.outcome = none ∧ copyAt d .collective = some c ∧ c.st = .running ∧ c.report = none ∧ (∀ m ∈ x.sent, m.1
      = p.srcPos.toNat ∧ m.2.1 = p.stream.toNat ∧ serialDone p.mseq m.2.2 = true)) :=
  ⟨⟨0, { pk0 6 0x100 with payload := [1, 2] }, sUp, by decide +kernel⟩,
   ⟨0, { pk0 6 0x17F with payload := [1, 2] }, sUp, by decide +kernel⟩,
   ⟨0, pk0 13 0x100, sUp, by decide +kernel⟩,
   ⟨0, pk 13 0x100, { runA 0 with sent := [(5, 0x100, 7)] }, dCo 0 [],
     { target := .collective, st := .running, stage := 0, since := 0, report := none }, sRun { runA 0 with sent := [(5, 0x100, 7)] } (dCo 0
     []) sUp, by decide +kernel⟩⟩

theorem wit_RemotePacketsComplete :
    (∃ port : Nat, ∃ p : Packet, ∃ s : State, p.type = 10 ∧ InOrder s port p ∧ p.offset = 0 ∧ p.last = true ∧ inReach s .iod (p.arg1.toNat %
      2 ^ 44) p.payload.length = true ∧ writeHeld s (p.arg1.toNat % 2 ^ 44) p.payload.length = false ∧ logging s = false) ∧
    (∃ port : Nat, ∃ p : Packet, ∃ s : State, p.type = 10 ∧ InOrder s port p ∧ p.offset = 0 ∧ p.last = true ∧ inReach s .iod (p.arg1.toNat %
      2 ^ 44) p.payload.length = true ∧ writeHeld s (p.arg1.toNat % 2 ^ 44) p.payload.length = true) ∧
    (∃ port : Nat, ∃ p : Packet, ∃ s : State, p.type = 10 ∧ InOrder s port p ∧ p.offset = 0 ∧ p.last = true ∧ inReach s .iod (p.arg1.toNat %
      2 ^ 44) p.payload.length = false) ∧
    (∃ port : Nat, ∃ p : Packet, ∃ s : State, p.type = 11 ∧ InOrder s port p ∧ p.offset = 0 ∧ p.last = true ∧ farReach s (p.arg1.toNat % 2 ^
      44) (p.arg0.toNat + 1) = true ∧ unfilled s (p.arg1.toNat % 2 ^ 44) (p.arg0.toNat + 1) = true) ∧
    (∃ port : Nat, ∃ p : Packet, ∃ s : State, p.type = 11 ∧ InOrder s port p ∧ p.offset = 0 ∧ p.last = true ∧ farReach s (p.arg1.toNat % 2 ^
      44) (p.arg0.toNat + 1) = true ∧ unfilled s (p.arg1.toNat % 2 ^ 44) (p.arg0.toNat + 1) = false ∧ s.mem.bad = []) ∧
    (∃ port : Nat, ∃ p : Packet, ∃ s : State, p.type = 11 ∧ InOrder s port p ∧ p.offset = 0 ∧ p.last = true ∧ farReach s (p.arg1.toNat % 2 ^
      44) (p.arg0.toNat + 1) = false) ∧
    (∃ port : Nat, ∃ p : Packet, ∃ x : CollRun, ∃ d : Desc, ∃ a : Asked, ∃ s : State, p.type = 12 ∧ InOrder s port p ∧ p.last = true ∧
      liveRun s = some x ∧ findDesc s x.ref = some d ∧ (copyAt d .collective).isSome = true ∧ x.op = 5 ∧ x.reply = true ∧ x.exchange = false
      ∧ x.want = [] ∧ x.sent = [] ∧ x.bad = none ∧ Answers s p a ∧ a.ref = x.ref ∧ p.arg0 = 0 ∧ logging s = false) ∧
    (∃ port : Nat, ∃ p : Packet, ∃ x : CollRun, ∃ d : Desc, ∃ a : Asked, ∃ s : State, p.type = 12 ∧ InOrder s port p ∧ p.last = true ∧
      liveRun s = some x ∧ findDesc s x.ref = some d ∧ (copyAt d .collective).isSome = true ∧ x.op = 6 ∧ x.reply = true ∧ x.exchange = false
      ∧ x.want = [] ∧ x.sent = [] ∧ x.bad = none ∧ Answers s p a ∧ a.ref = x.ref ∧ p.arg0 = 0 ∧ logging s = false ∧ s.mem.bad = [] ∧
      collides s port p = false) ∧
    (∃ port : Nat, ∃ p : Packet, ∃ x : CollRun, ∃ d : Desc, ∃ a : Asked, ∃ s : State, p.type = 12 ∧ InOrder s port p ∧ liveRun s = some x ∧
      findDesc s x.ref = some d ∧ (copyAt d .collective).isSome = true ∧ x.reply = true ∧ x.exchange = false ∧ Answers s p a ∧ a.ref = x.ref
      ∧ p.arg0 = 1 ∧ logging s = false) ∧
    (∃ port : Nat, ∃ p : Packet, ∃ s : State, p.type = 12 ∧ InOrder s port p ∧ answered s p = none) :=
  ⟨⟨0, { pk0 10 0x300 with arg1 := 0x3000, payload := [1, 2, 3] }, sUp, by decide +kernel⟩,
   ⟨0, { pk0 10 0x300 with arg1 := 0x600000, payload := [1, 2, 3] }, { sUp with ember := embS 1 }, by decide +kernel⟩,
   ⟨0, { pk0 10 0x300 with arg1 := 0x40000000000, payload := [1, 2, 3] }, sUp, by decide +kernel⟩,
   ⟨0, { pk0 11 0x300 with arg1 := 0x3000, arg0 := 7 }, { sUp with mem := { sUp.mem with filled := [] } }, by decide +kernel⟩,
   ⟨0, { pk0 11 0x300 with arg1 := 0x3000, arg0 := 7 }, sFl sUp, by decide +kernel⟩,
   ⟨0, { pk0 11 0x300 with arg1 := 0x40000000000, arg0 := 7 }, sUp, by decide +kernel⟩,
   ⟨0, { pk0 12 0x300 with arg1 := 5 * 2 ^ 44 }, { runA 5 with reply := true }, dCo 5 [(56, 8, 5 * 2 ^ 44)], asA 5 7, sAsk 5 7 (sRun
     { runA 5 with reply := true } (dCo 5 [(56, 8, 5 * 2 ^ 44)]) sUp), by decide +kernel⟩,
   ⟨0, { pk0 12 0x300 with arg1 := 5 * 2 ^ 44, payload := [1, 2, 3, 4] }, { runA 6 with reply := true }, dCo 6 [(56, 8, 5 * 2 ^ 44)], asA 6
     7, sAsk 6 7 (sRun { runA 6 with reply := true } (dCo 6 [(56, 8, 5 * 2 ^ 44)]) sUp), by decide +kernel⟩,
   ⟨0, { pk0 12 0x300 with arg1 := 5 * 2 ^ 44, arg0 := 1 }, { runA 6 with reply := true }, dCo 6 [(56, 8, 5 * 2 ^ 44)], asA 6 7, sAsk 6 7
     (sRun { runA 6 with reply := true } (dCo 6 [(56, 8, 5 * 2 ^ 44)]) sUp), by decide +kernel⟩,
   ⟨0, pk0 12 0x300, sUp, by decide +kernel⟩⟩

theorem wit_GuardCommandsComplete :
    (∃ r : Ref, ∃ x : Desc, ∃ s : State, RunsAlone s r .guardReport .guard 0 x ∧ firstError (reportChecks s x) = none ∧ s.mem.bad = [] ∧
      s.guard.recent = []) ∧
    (∃ r : Ref, ∃ x : Desc, ∃ a : Nat, ∃ p : Place, ∃ s : State, RunsAlone s r .guardReport .guard 0 x ∧ firstError (reportChecks s x) =
      none ∧ badRead s .iod ((if greLoss x = 0 then [] else (List.range 8).map (greLoss x + ·)) ++
    (greNorms x).flatMap fun a => (List.range 32).map (a + ·)) = some (a, p)) ∧
    (∃ r : Ref, ∃ x : Desc, ∃ off : Nat, ∃ s : State, RunsAlone s r .guardReport .guard 0 x ∧ firstError (reportChecks s x) = some off) ∧
    (∃ r : Ref, ∃ x : Desc, ∃ s : State, RunsAlone s r .guardVerdict .guard 0 x ∧ firstError (verdictChecks s x) = none ∧ s.mem.bad = [] ∧
      (memberList s (x.fld 16 0 44)).length = 1) ∧
    (∃ r : Ref, ∃ x : Desc, ∃ s : State, RunsAlone s r .guardVerdict .guard 0 x ∧ firstError (verdictChecks s x) = none ∧ s.mem.bad = [] ∧ 2
      ≤ (memberList s (x.fld 16 0 44)).length ∧ targetBusy s .collective = true) ∧
    (∃ r : Ref, ∃ x : Desc, ∃ s : State, RunsAlone s r .guardVerdict .guard 0 x ∧ firstError (verdictChecks s x) = none ∧ s.mem.bad = [] ∧ 2
      ≤ (memberList s (x.fld 16 0 44)).length ∧ targetBusy s .collective = false ∧ liveRun s = none ∧ s.ms.mode ≠ .fenced ∧ s.coll.waiting =
      []) ∧
    (∃ v : Word, ∃ s : State, inService s = true ∧ (let s1 := writeLogged 0x190000 v.toNat s;
    verdictRuns s1 = false)) ∧
    (∃ v : Word, ∃ s : State, inService s = true ∧ (let s1 := writeLogged 0x190000 v.toNat s;
    verdictRuns s1 = false)) ∧
    (∃ v : Word, ∃ s : State, inService s = true ∧ (let s1 := writeLogged 0x190000 v.toNat s;
    verdictRuns s1 = true)) ∧
    (∃ v : Word, ∃ s : State, inService s = true ∧ (let s1 := writeLogged 0x190020 v.toNat s;
    verdictRuns s1 = false ∧ s1.guard.posted = none ∧ gatedParked s1 = false)) ∧
    (∃ v : Word, ∃ s : State, inService s = true ∧ (let s1 := writeLogged 0x190020 v.toNat s;
    (verdictRuns s1 || s1.guard.posted.isSome || gatedParked s1) = true)) :=
  ⟨⟨r0, dGr [(16, 8, 0x500), (24, 8, 0x520)], withD (poke 0x520 (leBytes 4 0x3F800000 ++ leBytes 4 0x40000000 ++ leBytes 8 0 ++ leBytes 8 3)
     sF) (dGr [(16, 8, 0x500), (24, 8, 0x520)]), by decide +kernel⟩,
   ⟨r0, dGr [(16, 8, 0x500)], 0x500, .stack 0 0x500, withD { sF with mem := { sF.mem with bad := [(0x500, 1)] } } (dGr [(16, 8, 0x500)]), by
     decide +kernel⟩,
   ⟨r0, dGr [(40, 4, 1)], 40, withD sF (dGr [(40, 4, 1)]), by decide +kernel⟩,
   ⟨r0, dGv [], withD { sF with guard := { Guard.reset with posted := some repA } } (dGv []), by decide +kernel⟩,
   ⟨r0, dGv [],
     { withD { sCo with guard := { Guard.reset with posted := some repA } } (dGv []) with descs := [dGv [], { dCo 0 [] with ref := ⟨0, 1⟩ }] },
     by decide +kernel⟩,
   ⟨r0, dGv [], withD { sCo with guard := { Guard.reset with posted := some repA } } (dGv []), by decide +kernel⟩,
   ⟨1, sF, by decide +kernel⟩,
   ⟨0, { sF with guard := { Guard.reset with en := true } }, by decide +kernel⟩,
   ⟨1, withD sF (dGv []), by decide +kernel⟩,
   ⟨5, { sF with guard := { Guard.reset with held := [(1, 1)] } }, by decide +kernel⟩,
   ⟨5, { sF with guard := { Guard.reset with posted := some repA } }, by decide +kernel⟩⟩

theorem wit_VerdictsAreFormed :
    (∃ r : Ref, ∃ x : Desc, ∃ c : Copy, ∃ b : List Byte, ∃ s : State, findDesc s r = some x ∧ x.op = some .guardVerdict ∧ x.outcome = none ∧
      x.replayed = false ∧ copyAt x .guard = some c ∧ c.st = .running ∧ c.stage = 1 ∧ s.guard.posted = some b ∧ (verdictMembers s x).length
      = 1 ∧ gvRound x = s.guard.doneRound + 1) ∧
    (∃ r : Ref, ∃ x : Desc, ∃ c : Copy, ∃ s : State, findDesc s r = some x ∧ x.op = some .guardVerdict ∧ x.outcome = none ∧ copyAt x .guard
      = some c ∧ c.st = .running ∧ c.stage = 1 ∧ (verdictMembers s x).length = 1 ∧ gvRound x ≠ s.guard.doneRound + 1) ∧
    (∃ _g : Guard, ∃ k : Combined, ∃ _round : Word, k.wSum.isZero = true) ∧
    (∃ g : Guard, ∃ k : Combined, ∃ _round : Word, k.wSum.isZero = false ∧ g.seen = 0) ∧
    (∃ g : Guard, ∃ k : Combined, ∃ _round : Word, k.wSum.isZero = false ∧ g.seen ≠ 0) :=
  ⟨⟨r0, held (dGv []) .running 1, { target := .guard, st := .running, stage := 1, since := 0, report := none }, repA, withD
     { sF with guard := { Guard.reset with posted := some repA } } (held (dGv []) .running 1), by decide +kernel⟩,
   ⟨r0, held (dGv [(32, 4, 5)]) .running 1, { target := .guard, st := .running, stage := 1, since := 0, report := none }, withD sF (held
     (dGv [(32, 4, 5)]) .running 1), by decide +kernel⟩,
   ⟨Guard.reset, cmA fzero, 3, by decide +kernel⟩,
   ⟨Guard.reset, cmA (.fin false 1 0), 3, by decide +kernel⟩,
   ⟨{ Guard.reset with seen := 1 }, cmA (.fin false 1 0), 3, by decide +kernel⟩⟩

theorem wit_LedgerCommandsComplete :
    (∃ s : State, inService s = true ∧ (∀ d < 8, inBalance s d (lgBefore s d) = true ∧ (lgDom s d).parityBad = false)) ∧
    (∃ s : State, inService s = true ∧ s.ms.mode = .full ∧ (∃ d < 8, inBalance s d (lgBefore s d) = false)) ∧
    (∃ s : State, inService s = true ∧ s.ms.mode = .full ∧ (∃ d < 8, inBalance s d (lgBefore s d) = false)) ∧
    (∃ v : Word, ∃ s : State, inService s = true ∧ v.getLsbD 0 = true ∧ v.getLsbD 1 = false ∧ (let s1 := writeLogged 0x140250 v.toNat s;
    recordOk s1 .iod s1.lg.snapAddr.toNat 320 64 = true ∧ s1.ft.ft.toNat ≤ s1.lg.snapTick.toNat)) ∧
    (∃ v : Word, ∃ s : State, inService s = true ∧ v.getLsbD 0 = true ∧ v.getLsbD 1 = false ∧ (let s1 := writeLogged 0x140250 v.toNat s;
    recordOk s1 .iod s1.lg.snapAddr.toNat 320 64 = true ∧ s1.lg.snapTick.toNat < s1.ft.ft.toNat)) ∧
    (∃ v : Word, ∃ s : State, inService s = true ∧ v.getLsbD 1 = true) ∧
    (∃ v : Word, ∃ s : State, inService s = true ∧ v.getLsbD 1 = true) ∧
    (∃ s : State, inService s = true ∧ s.lg.snapArm = true ∧ s.lg.snapTick.toNat ≤ s.ft.ft.toNat ∧ (∀ d < 8, inBalance s d (lgBefore s d) =
      true)) :=
  ⟨⟨sF, by decide +kernel⟩,
   ⟨{ sF with lg := { Ledger.reset with doms := [(7, { LgDom.reset with total := 1 })], stamp := 5 } }, by decide +kernel⟩,
   ⟨{ sF with lg := { Ledger.reset with doms := [(1, { LgDom.full 600 with free := 0, held := 600, heldBy := [(3, 600)] })], stamp := 5 } },
     by decide +kernel⟩,
   ⟨1, { sF with lg := { Ledger.reset with snapTick := 5, snapAddr := 0x1000 } }, by decide +kernel⟩,
   ⟨5, { sF with lg := { Ledger.reset with snapTick := 5, snapAddr := 0x1000 }, ft := { FieldTime.reset with ft := 6 } }, by decide +kernel⟩,
   ⟨2, { sF with lg := { Ledger.reset with snapArm := true } }, by decide +kernel⟩,
   ⟨7, sF, by decide +kernel⟩,
   ⟨{ sF with lg := { Ledger.reset with snapArm := true, snapTick := 5, snapAddr := 0x1000 }, ft := { FieldTime.reset with ft := 5 } }, by
     decide +kernel⟩⟩

theorem wit_LedgerTransfersConserve :
    (∃ block : Bool, ∃ h : Nat, ∃ n : Nat, ∃ src : Column, ∃ dst : Column, ∃ x : LgDom, ∃ y : LgDom, x.movedTo.get 0 h = 0 ∧ LgDom.move
      block h n src dst x = .ok y ∧ (∀ k, x.heldBy.get 0 k ≤ x.held) ∧ (∀ k, x.lentBy.get 0 k ≤ x.lent)) ∧
    (∃ block : Bool, ∃ h : Nat, ∃ n : Nat, ∃ src : Column, ∃ dst : Column, ∃ x : LgDom, ∃ y : LgDom, x.movedTo.get 0 h = 0 ∧ LgDom.move
      block h n src dst x = .ok y ∧ (∀ k, x.heldBy.get 0 k ≤ x.held) ∧ (∀ k, x.lentBy.get 0 k ≤ x.lent)) ∧
    (∃ h : Nat, ∃ n : Nat, ∃ x : LgDom, ∃ y : LgDom, LgDom.take h n x = some y) ∧
    (∃ _block : Bool, ∃ h : Nat, ∃ n : Nat, ∃ src : Column, ∃ _dst : Column, ∃ x : LgDom, x.movedTo.get 0 h = 0 ∧ x.has src h < n) ∧
    (∃ _block : Bool, ∃ h : Nat, ∃ n : Nat, ∃ src : Column, ∃ _dst : Column, ∃ x : LgDom, x.movedTo.get 0 h = 0 ∧ x.has src h < n) ∧
    (∃ d : Nat, ∃ h : Nat, ∃ n : Nat, ∃ src : Column, ∃ dst : Column, ∃ _r : Option Ref, ∃ k : Nat, ∃ s : State, n ≠ 0 ∧ (lgDom s
      d).parityBad = false ∧ (lgDom s d).move (d == 5) h n src dst = .error k ∧ s.ms.mode = .full) ∧
    (∃ d : Nat, ∃ h : Nat, ∃ n : Nat, ∃ src : Column, ∃ dst : Column, ∃ _r : Option Ref, ∃ k : Nat, ∃ s : State, n ≠ 0 ∧ (lgDom s
      d).parityBad = false ∧ (lgDom s d).move (d == 5) h n src dst = .error k) ∧
    (∃ d : Nat, ∃ h : Nat, ∃ n : Nat, ∃ src : Column, ∃ dst : Column, ∃ _r : Option Ref, ∃ k : Nat, ∃ s : State, n ≠ 0 ∧ (lgDom s
      d).parityBad = false ∧ (lgDom s d).move (d == 5) h n src dst = .error k ∧ s.lg.faultValid = false) ∧
    (∃ d : Nat, ∃ h : Nat, ∃ n : Nat, ∃ src : Column, ∃ dst : Column, ∃ _r : Option Ref, ∃ k : Nat, ∃ s : State, n ≠ 0 ∧ (lgDom s
      d).parityBad = false ∧ (lgDom s d).move (d == 5) h n src dst = .error k) :=
  ⟨⟨false, 2, 2, .held, .free, lgA, ((lgA.move false 2 2 .held .free).toOption).getD .reset,
     by refine ⟨by decide, rfl, ?_, ?_⟩ <;> (intro k; simp only [lgA, Tab.get, LgDom.full]; split <;> decide)⟩,
   ⟨true, 2, 2, .lent, .held, lgA, ((lgA.move true 2 2 .lent .held).toOption).getD .reset,
     by refine ⟨by decide, rfl, ?_, ?_⟩ <;> (intro k; simp only [lgA, Tab.get, LgDom.full]; split <;> decide)⟩,
   ⟨2, 3, lgA, (lgA.take 2 3).getD .reset, by decide +kernel⟩,
   ⟨true, 2, 3, .lent, .held, lgA, by decide +kernel⟩,
   ⟨false, 2, 4, .free, .held, lgA, by decide +kernel⟩,
   ⟨5, 0, 1, .lent, .held, none, 3, sF, ⟨by decide +kernel, by decide +kernel, rfl, by decide +kernel⟩⟩,
   ⟨5, 0, 1, .lent, .held, none, 3, sF, ⟨by decide +kernel, by decide +kernel, rfl⟩⟩,
   ⟨5, 0, 1, .held, .free, none, 2, sF, ⟨by decide +kernel, by decide +kernel, rfl, by decide +kernel⟩⟩,
   ⟨5, 0, 1, .held, .free, none, 2, sF, ⟨by decide +kernel, by decide +kernel, rfl⟩⟩⟩

theorem wit_EmberDescriptorsComplete :
    (∃ r : Ref, ∃ x : Desc, ∃ s : State, RunsAlone s r .ember .ember 0 x ∧ embOp x = 0 ∧ s.mem.bad = [] ∧ emberError s x = none) ∧
    (∃ r : Ref, ∃ x : Desc, ∃ off : Nat, ∃ s : State, RunsAlone s r .ember .ember 0 x ∧ s.mem.bad = [] ∧ emberError s x = some off ∧ (embOp
      x = 0 ∨ embOp x = 3)) ∧
    (∃ r : Ref, ∃ x : Desc, ∃ off : Nat, ∃ s : State, RunsAlone s r .ember .ember 0 x ∧ s.mem.bad = [] ∧ emberError s x = some off ∧ (embOp
      x = 0 ∨ embOp x = 3)) ∧
    (∃ r : Ref, ∃ x : Desc, ∃ off : Nat, ∃ s : State, RunsAlone s r .ember .ember 0 x ∧ s.mem.bad = [] ∧ emberError s x = some off ∧ embOp x
      = 1) ∧
    (∃ r : Ref, ∃ x : Desc, ∃ off : Nat, ∃ s : State, RunsAlone s r .ember .ember 0 x ∧ s.mem.bad = [] ∧ emberError s x = some off ∧ embOp x
      = 2) ∧
    (∃ r : Ref, ∃ x : Desc, ∃ s : State, RunsAlone s r .ember .ember 0 x ∧ embOp x = 1 ∧ s.mem.bad = [] ∧ emberError s x = none ∧
      s.ember.streaming = true) ∧
    (∃ r : Ref, ∃ x : Desc, ∃ s : State, RunsAlone s r .ember .ember 0 x ∧ embOp x = 1 ∧ s.mem.bad = [] ∧ emberError s x = none ∧
      s.ember.streaming = false) ∧
    (∃ r : Ref, ∃ x : Desc, ∃ _b : List Byte, ∃ s : State, RunsAlone s r .ember .ember 0 x ∧ embOp x = 2 ∧ s.mem.bad = [] ∧ emberError s x =
      none ∧ emberPages (emberTable s (embTable x)) = 1) ∧
    (∃ r : Ref, ∃ x : Desc, ∃ _b : List Byte, ∃ s : State, RunsAlone s r .ember .ember 0 x ∧ embOp x = 2 ∧ s.mem.bad = [] ∧ emberError s x =
      none ∧ 1 < emberPages (emberTable s (embTable x))) ∧
    (∃ r : Ref, ∃ x : Desc, ∃ k : Nat, ∃ _b : List Byte, ∃ s : State, RunsAlone s r .ember .ember k x ∧ 0 < k ∧ k + 1 = emberPages
      (emberTable s (embTable x)) ∧ s.mem.bad = []) ∧
    (∃ r : Ref, ∃ x : Desc, ∃ k : Nat, ∃ s : State, RunsAlone s r .ember .ember k x ∧ 0 < k ∧ s.mem.bad = []) :=
  ⟨⟨r0, dE 4, withD (sE 1) (dE 4), by decide +kernel⟩,
   ⟨r0, dE 3, 24, withD (sE 1) (dE 3), by decide +kernel⟩,
   ⟨r0, dE 0, 24, withD (sE 1) (dE 0), by decide +kernel⟩,
   ⟨r0, dE 1, 16, withD sF (dE 1), by decide +kernel⟩,
   ⟨r0, dE 2, 16, withD sF (dE 2), by decide +kernel⟩,
   ⟨r0, dE 1, { withD (sE 1) (dE 1) with ember := embS 1 }, by decide +kernel⟩,
   ⟨r0, dE 1, withD (sE 1) (dE 1), by decide +kernel⟩,
   ⟨r0, dE 2, [1, 2], withD (sE 1) (dE 2), by decide +kernel⟩,
   ⟨r0, dE 2, [1, 2], withD (sE 2) (dE 2), by decide +kernel⟩,
   ⟨r0, held (dE 2) .running 1, 1, [1, 2], withD (sE 2) (held (dE 2) .running 1), by decide +kernel⟩,
   ⟨r0, held (dE 2) .running 1, 1, withD (sE 2) (held (dE 2) .running 1), by decide +kernel⟩⟩

theorem wit_EmberStreamingCompletes :
    (∃ i : Nat, ∃ n : Nat, ∃ p : Nat, ∃ x : LgDom, ∃ s : State, s.ember.streaming = true ∧ (emberPage s i).st = .clean ∧ touched s i = true
      ∧ homePage s.ember.table i = some (n, p) ∧ freePool s n p ≠ [] ∧ isFenced s n = false ∧ (lgDom s dEmberPage).parityBad = false ∧
      (lgDom s dEmberPage).take n 1 = some x) ∧
    (∃ i : Nat, ∃ n : Nat, ∃ p : Nat, ∃ q : Nat, ∃ s : State, s.ember.streaming = true ∧ (emberPage s i).st = .copying q ∧ homePage
      s.ember.table i = some (n, p) ∧ isFenced s n = false ∧ s.mem.bad = [] ∧ s.sync.unwritten = [] ∧ s.coll.unwritten = [] ∧ (lgDom s
      dHeTxn).parityBad = false) ∧
    (∃ s : State, s.ember.streaming = true ∧ s.ember.recordSent = false ∧ s.ember.sinkHost = true) ∧
    (∃ s : State, s.ember.streaming = true ∧ s.ember.recordSent = false ∧ s.ember.sinkHost = false) ∧
    (∃ i : Nat, ∃ s : State, s.ember.streaming = true ∧ s.ember.recordSent = true ∧ readingPage s = none ∧ nextPage s = some i ∧ (emberPage
      s i).st = .clean) ∧
    (∃ i : Nat, ∃ n : Nat, ∃ p : Nat, ∃ s : State, s.ember.streaming = true ∧ s.ember.recordSent = true ∧ s.ember.sinkHost = true ∧
      readingPage s = some i ∧ homePage s.ember.table i = some (n, p) ∧ (emberPage s i).st = .reading ∧ NoneWaits s ∧ (∀ w ∈
      s.ember.heldWrites, w.page ≠ i)) ∧
    (∃ i : Nat, ∃ n : Nat, ∃ p : Nat, ∃ s : State, s.ember.streaming = true ∧ s.ember.recordSent = true ∧ s.ember.sinkHost = true ∧
      readingPage s = some i ∧ homePage s.ember.table i = some (n, p) ∧ (emberPage s i).st = .reading ∧ NoneWaits s ∧ s.mem.bad = []) ∧
    (∃ i : Nat, ∃ n : Nat, ∃ p : Nat, ∃ q : Nat, ∃ k : Nat, ∃ s : State, s.ember.streaming = true ∧ s.ember.recordSent = true ∧
      s.ember.sinkHost = true ∧ readingPage s = none ∧ nextPage s = some i ∧ homePage s.ember.table i = some (n, p) ∧ (emberPage s i).st =
      .copied q k ∧ NoneWaits s ∧ (∀ w ∈ s.ember.heldWrites, w.page ≠ i)) ∧
    (∃ s : State, s.ember.streaming = true ∧ s.ember.recordSent = true ∧ readingPage s = none ∧ nextPage s = none) ∧
    (∃ epoch : Word, ∃ _pages : Word, ∃ s : State, s.ember.streaming = true ∧ s.ember.sinkHost = false ∧ epoch = s.ember.current ∧
      s.ember.recordSent = true ∧ allAcked s = false) ∧
    (∃ epoch : Word, ∃ _pages : Word, ∃ s : State, epoch ≠ s.ember.current) ∧
    (∃ epoch : Word, ∃ s : State, s.ember.streaming = true ∧ s.ember.sinkHost = false ∧ epoch = s.ember.current ∧ allAcked s = true ∧
      s.ember.heldWrites = [] ∧ NoneWaits s) ∧
    (∃ epoch : Word, ∃ s : State, (epoch ≠ s.ember.current ∨ allAcked s = false)) ∧
    (∃ i : Nat, ∃ s : State, s.ember.streaming = true ∧ s.ember.sinkHost = true ∧ (emberPage s i).sent = true ∧ (∃ j < emberPages
      s.ember.table, j ≠ i ∧ (emberPage s j).acked = false)) ∧
    (∃ i : Nat, ∃ s : State, s.ember.streaming = true ∧ s.ember.sinkHost = true ∧ (emberPage s i).sent = true ∧ (∀ j < emberPages
      s.ember.table, j ≠ i → (emberPage s j).acked = true)) :=
  ⟨⟨0, 0, 3, ((lgDom (sEm { embS 1 with heldWrites := [hwA] }) dEmberPage).take 0 1).getD .reset, sEm { embS 1 with heldWrites := [hwA] },
     by decide +kernel⟩,
   ⟨0, 0, 3, 91548, sEm { embS 1 with heldWrites := [hwA], pages := [(0, pgA (.copying 91548))] }, by decide +kernel⟩,
   ⟨sEm { embS 1 with sinkHost := true }, by decide +kernel⟩,
   ⟨sEm (embS 1), by decide +kernel⟩,
   ⟨0, sEm { embS 1 with sinkHost := true, recordSent := true }, by decide +kernel⟩,
   ⟨0, 0, 3, sEm { embS 1 with sinkHost := true, recordSent := true, pages := [(0, pgA .reading)] }, by decide +kernel⟩,
   ⟨0, 0, 3, sEm { embS 1 with sinkHost := true, recordSent := true, pages := [(0, pgA .reading)], heldWrites := [hwA] }, by decide +kernel⟩,
   ⟨0, 0, 3, 91548, 0, sEm { embS 1 with sinkHost := true, recordSent := true, pages := [(0, pgA (.copied 91548 0))] }, by decide +kernel⟩,
   ⟨sEm { embS 1 with recordSent := true, pages := [(0, pgA .done)] }, by decide +kernel⟩,
   ⟨1, 1, sEm
     { embS 2 with recordSent := true, sentOrder := [0, 1], pages := [(0, { pgA .done with sent := true }), (1, { pgA .done with sent := true })] },
     by decide +kernel⟩,
   ⟨2, 1, sEm (embS 1), by decide +kernel⟩,
   ⟨1, sEm { embS 1 with recordSent := true, recordAcked := true, pages := [(0, { pgA .done with sent := true, acked := true })] }, by
     decide +kernel⟩,
   ⟨2, sEm (embS 1), by decide +kernel⟩,
   ⟨0, sEm { embS 2 with sinkHost := true, recordSent := true, pages := [(0, { pgA .done with sent := true })] }, by decide +kernel⟩,
   ⟨0, sEm { embS 1 with sinkHost := true, recordSent := true, pages := [(0, { pgA .done with sent := true })] }, by decide +kernel⟩⟩

theorem wit_YokeMessagesComplete :
    (∃ s : State, yokeRuns s = true ∧ linked s = false) ∧
    (∃ s : State, linked s = true) ∧
    (∃ l : BitVec 16, ∃ e : BitVec 9, ∃ v : Bool, ∃ s : State, yokeRuns s = true ∧ pairFigures s = (l.toNat, e.toNat, v) ∧ s.yoke.gotBeat =
      false) ∧
    (∃ l : BitVec 16, ∃ e : BitVec 9, ∃ v : Bool, ∃ s : State, yokeRuns s = true ∧ pairFigures s = (l.toNat, e.toNat, v) ∧ s.yoke.gotBeat =
      true ∧ s.yoke.partner ≠ 2) ∧
    (∃ l : BitVec 16, ∃ e : BitVec 9, ∃ v : Bool, ∃ s : State, yokeRuns s = true ∧ pairFigures s ≠ (l.toNat, e.toNat, v) ∧ s.yoke.err ≠ 1) ∧
    (∃ s : State, yokeRuns s = true) ∧
    (∃ _z : BitVec 4, ∃ s : State, yokeRuns s = true ∧ s.yoke.gotPair = false) ∧
    (∃ _z : BitVec 4, ∃ s : State, yokeRuns s = true ∧ s.yoke.gotPair = true ∧ s.yoke.partner ≠ 2) ∧
    (∃ p : Packet, ∃ s : State, p.type = 7 ∧ InOrder s 16 p ∧ p.offset = 0 ∧ p.last = true) ∧
    (∃ p : Packet, ∃ s : State, p.type = 7 ∧ InOrder s 16 p ∧ p.last = false) ∧
    (∃ p : Packet, ∃ s : State, p.type = 8 ∧ InOrder s 16 p ∧ receives s = true) ∧
    (∃ p : Packet, ∃ s : State, p.type = 8 ∧ InOrder s 16 p ∧ receives s = false) ∧
    (∃ epoch : Word, ∃ s : State, receives s = true ∧ s.yoke.rxEpoch = epoch ∧ rxWhole s = true) ∧
    (∃ epoch : Word, ∃ s : State, (receives s && s.yoke.rxEpoch == epoch && rxWhole s) = false) ∧
    (∃ bytes : DWord, ∃ s : State, (∀ a ∈ s.yoke.pendingAccept, bytes.toNat < a.1)) ∧
    (∃ bytes : DWord, ∃ n : Nat, ∃ a : Accept, ∃ s : State, s.yoke.pendingAccept = [(n, a)] ∧ n ≤ bytes.toNat) ∧
    (∃ s : State, s.ms.mode = .banked) ∧
    (∃ s : State, s.ms.mode ≠ .banked) :=
  ⟨⟨sY Yoke.reset sF, by decide +kernel⟩,
   ⟨sY yL sF, by decide +kernel⟩,
   ⟨954, 1, false, sY Yoke.reset sF, by decide +kernel⟩,
   ⟨954, 1, false, sY { Yoke.reset with gotBeat := true, partner := 1 } sF, by decide +kernel⟩,
   ⟨953, 1, false, sY Yoke.reset sF, by decide +kernel⟩,
   ⟨sY Yoke.reset sX, by decide +kernel⟩,
   ⟨3, sY Yoke.reset sF, by decide +kernel⟩,
   ⟨3, sY { Yoke.reset with gotPair := true, partner := 1 } sB, by decide +kernel⟩,
   ⟨{ pk0 7 0x200 with srcPos := 0, srcSide := true, arg0 := 0xFFFFFFFF, arg1 := 1, payload := [1, 2] }, sY yL sB, by decide +kernel⟩,
   ⟨{ pk0 7 0x200 with srcPos := 0, srcSide := true, last := false, payload := List.replicate 4096 1 }, sY yL sB, by decide +kernel⟩,
   ⟨{ pk0 8 0x201 with srcPos := 0, srcSide := true, payload := [1, 2] }, sY yL sB, by decide +kernel⟩,
   ⟨{ pk0 8 0x201 with srcPos := 0, srcSide := true, payload := [1, 2] }, sY Yoke.reset sB, by decide +kernel⟩,
   ⟨1, sY { yL with rxEpoch := 1, rxRecord := true } sB, by decide +kernel⟩,
   ⟨2, sY { yL with rxEpoch := 1, rxRecord := true } sB, by decide +kernel⟩,
   ⟨5, sY { yL with pendingAccept := [(6, .entry (enA 0))] } sF, by decide +kernel⟩,
   ⟨6, 6, .chunk (pk 13 0x100), sY { yL with pendingAccept := [(6, .chunk (pk 13 0x100))] } sF, by decide +kernel⟩,
   ⟨sB, by decide +kernel⟩,
   ⟨sF, by decide +kernel⟩⟩

theorem wit_PartnerLossCompletes :
    (∃ c : Nat, ∃ s : State, linked s = true ∧ s.yoke.heard = some c ∧ c + 250000 ≤ s.clk ∧ s.ms.mode = .full ∧ (s.ember.streaming = false ∨
      s.ember.sinkHost = true) ∧ s.yoke.pendingAccept = []) ∧
    (∃ c : Nat, ∃ s : State, linked s = true ∧ s.yoke.heard = some c ∧ c + 250000 ≤ s.clk ∧ s.ms.mode = .full ∧ s.ember.streaming = true ∧
      s.ember.sinkHost = false ∧ s.yoke.pendingAccept = []) ∧
    (∃ c : Nat, ∃ s : State, linked s = true ∧ s.yoke.heard = some c ∧ c + 250000 ≤ s.clk ∧ s.ms.mode = .banked ∧ s.ms.trans = .none ∧
      s.ember.sealedEpoch ≠ 0 ∧ s.ember.forfeit = false ∧ (lgDom s dLinkPacket).parityBad = false) ∧
    (∃ c : Nat, ∃ s : State, linked s = true ∧ s.yoke.heard = some c ∧ c + 250000 ≤ s.clk ∧ s.ms.mode = .banked ∧ s.ms.trans = .none ∧
      (s.ember.sealedEpoch = 0 ∨ s.ember.forfeit = true)) ∧
    (∃ c : Nat, ∃ s : State, linked s = true ∧ s.yoke.heard = some c ∧ c + 250000 ≤ s.clk ∧ s.ms.mode = .banked ∧ s.ms.trans = .none ∧
      (s.ember.sealedEpoch = 0 ∨ s.ember.forfeit = true)) ∧
    (∃ _cause : Nat, ∃ s : State, linked s = true ∧ s.ms.mode = .banked ∧ s.ms.trans = .none ∧ s.ember.sealedEpoch ≠ 0 ∧ s.ember.forfeit =
      false ∧ (lgDom s dLinkPacket).parityBad = false) ∧
    (∃ _cause : Nat, ∃ s : State, linked s = true ∧ s.ms.mode = .full ∧ (s.ember.streaming = false ∨ s.ember.sinkHost = true) ∧
      s.yoke.pendingAccept = []) :=
  ⟨⟨0, fz 250000 (sY { yL with heard := some 0 } sF), by decide +kernel⟩,
   ⟨0, { fz 250000 (sY { yL with heard := some 0 } sF) with ember := embS 1 }, by decide +kernel⟩,
   ⟨0, { fz 250000 (sY { yL with heard := some 0, logEnd := 16 } sB) with ember := { Ember.reset with sealedEpoch := 1 } }, by
     decide +kernel⟩,
   ⟨0, fz 250000 (sY { yL with heard := some 0 } sB), by decide +kernel⟩,
   ⟨0, { fz 250000 (sY { yL with heard := some 0 } sB) with ember := { Ember.reset with sealedEpoch := 1, forfeit := true } }, by
     decide +kernel⟩,
   ⟨3, { sY { yL with logEnd := 16 } sB with ember := { Ember.reset with sealedEpoch := 1 } }, by decide +kernel⟩,
   ⟨3, sY yL sF, by decide +kernel⟩⟩

theorem wit_TakeoverCompletes :
    (∃ s : State, s.ms.trans = .takeover ∧ s.yoke.stage = .restoring) ∧
    (∃ s : State, s.ms.trans = .takeover ∧ s.yoke.stage = .replaying ∧ (replayEntries s).length ≤ s.yoke.replayPos ∧ replayDispatched s =
      true ∧ s.yoke.waiting = []) ∧
    (∃ s : State, s.ms.trans = .takeover ∧ s.yoke.stage = .replaying ∧ (replayEntries s).length ≤ s.yoke.replayPos ∧ replayDispatched s =
      false) ∧
    (∃ s : State, 0 < s.yoke.deposeLeft) ∧
    (∃ s : State, s.yoke.deposeLeft = 0) ∧
    (∃ s : State, ownRole s = 1) ∧
    (∃ s : State, ownRole s ≠ 1) ∧
    (∃ p : Packet, ∃ s : State, inService s = true ∧ p.srcPos.toNat ≠ strapPos s) ∧
    (∃ pos : Nat, ∃ side : Bool, ∃ st : Nat, ∃ s : State, Tab.wf Stream.reset s.link.streams = true ∧ st < 2 ^ 16 ∧ (st < 0x200 ∨ 0x202 <
      st) ∧ (streamOf s (streamKey pos (!side) st)) ≠ .reset) ∧
    (∃ v : Word, ∃ s : State, inService s = true ∧ (let s1 := writeLogged 0x1B0000 v.toNat s;
    s1.ms.trans ≠ .takeover ∧ strapYokeEn s1 = true ∧ v.getLsbD 0 = true ∧ s1.yoke.en = false)) ∧
    (∃ v : Word, ∃ s : State, inService s = true ∧ (let s1 := writeLogged 0x1B0000 v.toNat s;
    s1.ms.trans ≠ .takeover ∧ (strapYokeEn s1 = false ∨ v.getLsbD 0 = s1.yoke.en))) ∧
    (∃ v : Word, ∃ s : State, inService s = true ∧ (let s1 := writeLogged 0x1B0000 v.toNat s;
    s1.ms.trans ≠ .takeover ∧ (strapYokeEn s1 = false ∨ v.getLsbD 0 = s1.yoke.en))) ∧
    (∃ v : Word, ∃ s : State, inService s = true ∧ (let s1 := writeLogged 0x1B0000 v.toNat s;
    s1.ms.trans = .takeover)) ∧
    (∃ _s : State, ∃ n : Nat, n < 64) ∧
    (∃ _s : State, ∃ n : Nat, n < 64) ∧
    (∃ _s : State, ∃ l : Nat, l < 32) ∧
    (∃ _s : State, ∃ n : Nat, n < 64) ∧
    (∃ _s : State, ∃ q : Nat, q < 64) ∧
    (∃ _s : State, ∃ k : Nat, k < 8) ∧
    (∃ _s : State, ∃ i : Nat, i < 4096) :=
  ⟨⟨sTk .restoring 0, by decide +kernel⟩,
   ⟨sTk .replaying 1, by decide +kernel⟩,
   ⟨withD (sTk .replaying 1) { ftd 0 0 4 0 0 [] with replayed := true }, by decide +kernel⟩,
   ⟨sY { yL with deposeLeft := 1 } sF, by decide +kernel⟩,
   ⟨sF, by decide +kernel⟩,
   ⟨{ sF with pins := { Pins.reset with straps := 0x4000 } }, by decide +kernel⟩,
   ⟨sF, by decide +kernel⟩,
   ⟨{ pk0 9 0x202 with arg0 := 9 }, { sF with link := { Links.reset with retained := [{ pk 1 3 with dstPos := 5 }] } }, by decide +kernel⟩,
   ⟨5, false, 3, { sF with link := { Links.reset with streams := [(streamKey 5 true 3, { Stream.reset with isOpen := true })] } }, by
     decide +kernel⟩,
   ⟨1, { sF with pins := { Pins.reset with straps := 0x4000 } }, by decide +kernel⟩,
   ⟨0x531, sF, by decide +kernel⟩,
   ⟨0x530, { sF with pins := { Pins.reset with straps := 0x4000 } }, by decide +kernel⟩,
   ⟨1, sTk .replaying 1, by decide +kernel⟩,
   ⟨sTk .restoring 0, 63, by decide +kernel⟩,
   ⟨sTk .restoring 0, 63, by decide +kernel⟩,
   ⟨sTk .restoring 0, 31, by decide +kernel⟩,
   ⟨sTk .restoring 0, 63, by decide +kernel⟩,
   ⟨sTk .restoring 0, 63, by decide +kernel⟩,
   ⟨sTk .restoring 0, 7, by decide +kernel⟩,
   ⟨sTk .restoring 0, 4095, by decide +kernel⟩⟩

theorem wit_DuestLinksComplete :
    (∃ l : Nat, ∃ g : Byte, ∃ replay : Bool, ∃ s : State, linkRuns s l = true ∧ (∀ z, (duestLink s l).nak = some z → replay = true ∧ g = z)
      ∧ g = (duestLink s l).expect) ∧
    (∃ l : Nat, ∃ g : Byte, ∃ replay : Bool, ∃ s : State, linkRuns s l = true ∧ (∀ z, (duestLink s l).nak = some z → replay = true ∧ g = z)
      ∧ g = (duestLink s l).expect) ∧
    (∃ l : Nat, ∃ g : Byte, ∃ _replay : Bool, ∃ s : State, linkRuns s l = true ∧ (duestLink s l).nak = none ∧ g ≠ (duestLink s l).expect ∧
      (duestLink s l).times.get 0 (duestLink s l).expect.toNat < 16) ∧
    (∃ l : Nat, ∃ g : Byte, ∃ replay : Bool, ∃ z : Byte, ∃ s : State, linkRuns s l = true ∧ (duestLink s l).nak = some z ∧ (replay = false ∨
      g ≠ z)) ∧
    (∃ l : Nat, ∃ _g : Byte, ∃ _replay : Bool, ∃ s : State, linkRuns s l = true ∧ (duestLink s l).nak = none ∧ (duestLink s l).times.get 0
      (duestLink s l).expect.toNat < 16) ∧
    (∃ l : Nat, ∃ g : Byte, ∃ s : State, linkRuns s l = true ∧ g = (duestLink s l).expect ∧ groupsTo (duestLink s l).oldest g < retryDepth s
      l ∧ (duestLink s l).kept ≤ retryDepth s l ∧ (duestLink s l).times.get 0 g.toNat < 16) ∧
    (∃ l : Nat, ∃ g : Byte, ∃ s : State, linkRuns s l = true ∧ g = (duestLink s l).expect ∧ 16 ≤ (duestLink s l).times.get 0 g.toNat) ∧
    (∃ l : Nat, ∃ s : State, linkRuns s l = true ∧ (duestLink s l).ackAt + 200 ≤ s.clk) ∧
    (∃ l : Nat, ∃ s : State, s.clk < (duestLink s l).ackAt + 200) ∧
    (∃ n : Nat, ∃ _w : Word, ∃ _hb : Bool, ∃ _ok : Bool, ∃ s : State, dieRuns s n = true) ∧
    (∃ n : Nat, ∃ _w : Word, ∃ _hb : Bool, ∃ _ok : Bool, ∃ s : State, dieRuns s n = true) ∧
    (∃ n : Nat, ∃ c : Nat, ∃ s : State, n < dieCount s ∧ dieRuns s n = true ∧ s.ms.mode = .full ∧ (dieLoss s n).badSince = some c ∧ c + 1000
      ≤ s.clk ∧ (∀ d < 8, (lgDom s d).parityBad = false)) ∧
    (∃ n : Nat, ∃ s : State, (∀ c, (dieLoss s n).badSince = some c → s.clk < c + 1000)) :=
  ⟨⟨9, 0, false, sDl 9 DuestLink.reset sF, by decide +kernel⟩,
   ⟨0, 5, true, sDl 0 { DuestLink.reset with expect := 5, nak := some 5 } sF, by decide +kernel⟩,
   ⟨0, 1, false, sDl 0 DuestLink.reset sF, by decide +kernel⟩,
   ⟨0, 1, true, 0, sDl 0 { DuestLink.reset with nak := some 0 } sF, by decide +kernel⟩,
   ⟨0, 0, false, sDl 0 DuestLink.reset sF, by decide +kernel⟩,
   ⟨0, 3, sDl 0 { DuestLink.reset with expect := 3, kept := 4, times := [(3, 15)] } sF, by decide +kernel⟩,
   ⟨6, 3, sDl 6 { DuestLink.reset with oldest := 3, expect := 3, times := [(3, 16)] } sF, by decide +kernel⟩,
   ⟨0, sDl 0 DuestLink.reset (fz 200 sF), by decide +kernel⟩,
   ⟨0, sDl 0 DuestLink.reset (fz 199 sF), by decide +kernel⟩,
   ⟨0, 7, true, true, sK, by decide +kernel⟩,
   ⟨0, 7, true, true, sK, by decide +kernel⟩,
   ⟨3, 0, setDieLoss 3 { DieLoss.reset with badSince := some 0 } (fz 1000 sF), by decide +kernel⟩,
   ⟨3, setDieLoss 3 { DieLoss.reset with badSince := some 1 } (fz 1000 sF), by decide +kernel⟩⟩

theorem wit_DieCommandsComplete :
    (∃ dies : BitVec 4, ∃ _noClock : BitVec 4, ∃ s : State, s.ms.mode = .full ∧ (∃ n < 4, bitOf dies.toNat n = true ∧ heartbeatGone s n =
      true)) ∧
    (∃ dies : BitVec 4, ∃ _noClock : BitVec 4, ∃ s : State, (∀ n < 4, bitOf dies.toNat n = true → heartbeatGone s n = false)) ∧
    (∃ v : Word, ∃ _back : Bool, ∃ s : State, inService s = true ∧ (let s1 := writeLogged 0x60408 v.toNat s;
    s1.ms.mode = .kindling ∧ s1.ms.trans = .none ∧ v.getLsbD 0 = true ∧ isFenced s1 0 = false)) ∧
    (∃ v : Word, ∃ s : State, inService s = true ∧ (let s1 := writeLogged 0x60408 v.toNat s;
    s1.ms.mode = .kindling ∧ s1.ms.trans = .none ∧ v.getLsbD 0 = true ∧ isFenced s1 0 = true)) ∧
    (∃ v : Word, ∃ s : State, inService s = true ∧ (let s1 := writeLogged 0x60408 v.toNat s;
    s1.ms.mode = .kindling ∧ s1.ms.trans = .none ∧ v.getLsbD 0 = true ∧ isFenced s1 0 = true)) ∧
    (∃ v : Word, ∃ _back : Bool, ∃ s : State, inService s = true ∧ (let s1 := writeLogged 0x60408 v.toNat s;
    (s1.ms.mode ≠ .kindling ∨ s1.ms.trans ≠ .none ∨ v.getLsbD 0 = false))) ∧
    (∃ v : Word, ∃ _back : Bool, ∃ s : State, inService s = true ∧ (let s1 := writeLogged 0x60408 v.toNat s;
    (s1.ms.mode ≠ .kindling ∨ s1.ms.trans ≠ .none ∨ v.getLsbD 0 = false))) :=
  ⟨⟨0xA, 8, fz 30000 sF, by decide +kernel⟩,
   ⟨0xF, 0, fz 29999 sF, by decide +kernel⟩,
   ⟨1, false, sK, by decide +kernel⟩,
   ⟨1, sKf, by decide +kernel⟩,
   ⟨1, sKf, by decide +kernel⟩,
   ⟨0, true, sK, by decide +kernel⟩,
   ⟨1, true, sF, by decide +kernel⟩⟩

theorem wit_FenceEndsDependents :
    (∃ n : Nat, ∃ _cause : Nat, ∃ _why : Nat → Nat × Nat, ∃ d : Desc, ∃ s : State, n < dieCount s ∧ isFenced s n = false ∧ s.ms.dieFenced =
      0 ∧ s.ms.mode = .full ∧ s.descs = [d] ∧ d.finished = false ∧ d.started = false) ∧
    (∃ n : Nat, ∃ _cause : Nat, ∃ _why : Nat → Nat × Nat, ∃ d : Desc, ∃ s : State, n < dieCount s ∧ isFenced s n = false ∧ s.ms.dieFenced =
      0 ∧ s.ms.mode = .full ∧ s.descs = [d] ∧ d.finished = false ∧ d.started = true ∧ dependsOn s d n = true ∧ (d.op ≠ some .chain)) ∧
    (∃ n : Nat, ∃ _cause : Nat, ∃ _why : Nat → Nat × Nat, ∃ d : Desc, ∃ s : State, n < dieCount s ∧ isFenced s n = false ∧ s.ms.dieFenced =
      0 ∧ s.ms.mode = .full ∧ s.descs = [d] ∧ d.finished = false ∧ d.started = true ∧ dependsOn s d n = false ∧ d.op ≠ some .barrier) :=
  ⟨⟨3, 3, fun _ => (2, 15), ftd 0 0x10 0 0 1 [], withD sF (ftd 0 0x10 0 0 1 []), by decide +kernel⟩,
   ⟨0, 3, fun _ => (2, 15), dm 0x10 [], withD sM (dm 0x10 []), by decide +kernel⟩,
   ⟨3, 3, fun _ => (2, 15), dm 0x10 [], withD sM (dm 0x10 []), by decide +kernel⟩⟩

theorem wit_PowerCommandsComplete :
    (∃ r : Ref, ∃ x : Desc, ∃ s : State, RunsAlone s r .opSet .host 0 x ∧ opSetBad s x = true) ∧
    (∃ r : Ref, ∃ x : Desc, ∃ s : State, RunsAlone s r .opSet .host 0 x ∧ opSetBad s x = false ∧ sequencerHolds s = false) ∧
    (∃ r : Ref, ∃ x : Desc, ∃ s : State, RunsAlone s r .opSet .host 0 x ∧ opSetBad s x = false ∧ sequencerHolds s = true ∧ s.ms.mode ≠
      .kindling) ∧
    (∃ r : Ref, ∃ x : Desc, ∃ s : State, findDesc s r = some x ∧ x.op = some .opSet ∧ hSown x.bytes = true ∧ x.dispatched = false ∧
      x.outcome = none ∧ opSetBad s x = false ∧ sequencerHolds s = true ∧ (hLaunch x.bytes).toNat ≤ s.ft.ft.toNat + 15000) ∧
    (∃ n : Nat, ∃ s : State, (∀ c, s.pwr.lastStep = some c → c + 250 ≤ s.clk) ∧ stepTurn s = some n ∧ (pwrDie s n).mhz < (pwrDie s n).goal) ∧
    (∃ n : Nat, ∃ s : State, (∀ c, s.pwr.lastStep = some c → c + 250 ≤ s.clk) ∧ stepTurn s = some n ∧ (pwrDie s n).mhz < (pwrDie s n).goal) ∧
    (∃ n : Nat, ∃ s : State, (∀ c, s.pwr.lastStep = some c → c + 250 ≤ s.clk) ∧ stepTurn s = some n ∧ (pwrDie s n).goal ≤ (pwrDie s n).mhz) ∧
    (∃ _mv : Nat, ∃ _w : Nat, ∃ s : State, inService s = true) ∧
    (∃ _mv : Nat, ∃ _w : Nat, ∃ s : State, inService s = true) ∧
    (∃ c : Nat, ∃ s : State, inService s = true ∧ s.pwr.capCeil < 5 ∧ ceilingFits s (s.pwr.capCeil + 1) = true ∧ s.pwr.capFits = some c ∧ c
      + 100000000 ≤ s.clk) ∧
    (∃ a : Nat, ∃ b : Nat, ∃ s : State, inService s = true ∧ s.ms.mode ≠ .kindling ∧ s.pwr.steerEn = true ∧ oneOp s = true ∧
      (let seen (n : Nat) : Nat := (s.lag.dieLate.get .reset n).count.toNat;
    (let l (n : Nat) : Nat := (seen n + 2 ^ 64 - s.steer.late.get 0 n) % 2 ^ 64;
    steerPair s l = some (a, b)))) ∧
    (∃ s : State, inService s = true ∧ s.ms.mode ≠ .kindling ∧ s.pwr.steerEn = true ∧ oneOp s = true ∧
      (let seen (n : Nat) : Nat := (s.lag.dieLate.get .reset n).count.toNat;
    (let l (n : Nat) : Nat := (seen n + 2 ^ 64 - s.steer.late.get 0 n) % 2 ^ 64;
    steerPair s l = none))) ∧
    (∃ s : State, inService s = true ∧ s.ms.mode ≠ .kindling ∧ s.pwr.steerEn = true ∧ oneOp s = true ∧
      (let seen (n : Nat) : Nat := (s.lag.dieLate.get .reset n).count.toNat;
    (let l (n : Nat) : Nat := (seen n + 2 ^ 64 - s.steer.late.get 0 n) % 2 ^ 64;
    steerPair s l = none))) ∧
    (∃ s : State, (inService s && s.ms.mode != .kindling && s.pwr.steerEn && oneOp s) = false) ∧
    (∃ n : Nat, ∃ s : State, inService s = true ∧ n < dieCount s) ∧
    (∃ n : Nat, ∃ s : State, (pwrDie s n).drooping = true) ∧
    (∃ _rs : List (BitVec 16), ∃ s : State, inService s = true) ∧
    (∃ _rs : List (BitVec 16), ∃ s : State, inService s = true) ∧
    (∃ c : Nat, ∃ s : State, inService s = true ∧ s.pwr.thermCeil < 5 ∧ (∀ i ∈ sensors s, tempOf s i + 48 ≤ (tempLimits i).2.1) ∧
      s.pwr.coolSince = some c ∧ c + 100000000 ≤ s.clk) ∧
    (∃ s : State, inService s = true) ∧
    (∃ s : State, inService s = true) ∧
    (∃ s : State, s.ms.mode ≠ .off ∧ inService s = false) ∧
    (∃ s : State, s.ms.mode = .off) ∧
    (∃ s : State, s.ms.mode ≠ .off) ∧
    (∃ v : Word, ∃ s : State, inService s = true ∧ (let s1 := writeLogged 0x150004 v.toNat s;
    v.getLsbD 1 = true ∧ s1.pwr.seqEn = false ∧ s1.wdog.en = false)) ∧
    (∃ v : Word, ∃ s : State, inService s = true ∧ (let s1 := writeLogged 0x150004 v.toNat s;
    v.getLsbD 1 = true ∧ s1.pwr.seqEn = false ∧ s1.wdog.en = true)) ∧
    (∃ v : Word, ∃ s : State, inService s = true ∧ v.getLsbD 1 = false) :=
  ⟨⟨r0, dOp 6, withD sF (dOp 6), by decide +kernel⟩,
   ⟨r0, dOp 3, withD (pwOff sF) (dOp 3), by decide +kernel⟩,
   ⟨r0, dOp 3, withD sF (dOp 3), by decide +kernel⟩,
   ⟨⟨0, 0⟩, { ftd 0 0x68 4 0 0 [(1, 1, 1), (8, 8, 10000), (16, 4, 5)] with outcome := none }, withD sF (ftd 0 0x68 4 0 0 [(1, 1, 1), (8, 8,
     10000), (16, 4, 5)]), by decide +kernel⟩,
   ⟨0, walkA 1200 1350 (fz 1000 sF), by decide +kernel⟩,
   ⟨0, walkA 1340 1350 (fz 1000 { sF with pwr := { sF.pwr with lastStep := some 750 } }), by decide +kernel⟩,
   ⟨0, walkA 1200 400 (fz 1000 sF), by decide +kernel⟩,
   ⟨12000, 5000, fz 2000000 sF, by decide +kernel⟩,
   ⟨12000, 100, fz 2000000 sF, by decide +kernel⟩,
   ⟨0, { sF with pwr := { sF.pwr with capCeil := 4, capFits := some 0 }, clk := 100000000 }, by decide +kernel⟩,
   ⟨0, 1, { sF with lag := { sF.lag with dieLate := [(0, { Stat.reset with count := 20000 })] } }, by decide +kernel⟩,
   ⟨{ sF with steer := { sF.steer with quietMs := 9 } }, by decide +kernel⟩,
   ⟨sF, by decide +kernel⟩,
   ⟨pwOff { sK with steer := { late := [], quietMs := 3 } }, by decide +kernel⟩,
   ⟨3, sF, by decide +kernel⟩,
   ⟨2, setPwrDie 2 { PwrDie.reset with drooping := true } sF, by decide +kernel⟩,
   ⟨[1600, 1600, 16, 16, 16], fz 2000000 sF, by decide +kernel⟩,
   ⟨[16], sF, by decide +kernel⟩,
   ⟨0, { sF with pwr := { sF.pwr with thermCeil := 4, coolSince := some 0 }, clk := 100000000 }, by decide +kernel⟩,
   ⟨sF, by decide +kernel⟩,
   ⟨sF, by decide +kernel⟩,
   ⟨sS, by decide +kernel⟩,
   ⟨inMode .off, by decide +kernel⟩,
   ⟨sF, by decide +kernel⟩,
   ⟨0x20000003, pwOff sF, by decide +kernel⟩,
   ⟨0x20000002, { pwOff sF with wdog := { sF.wdog with en := true } }, by decide +kernel⟩,
   ⟨0x20000001, sF, by decide +kernel⟩⟩

theorem wit_PowerPolicySetsTheClock :
    (∃ s : State, ∃ o : Nat, o ≤ 5 ∧ ceilingFits s o = true ∧ (∀ k, o < k → k ≤ 5 → ceilingFits s k = false)) ∧
    (∃ s : State, (∀ k ≤ 5, ceilingFits s k = false)) ∧
    (∃ eff : Nat, ∃ share : Int, ∃ f : Nat, share ≠ 0 ∧ clockFor eff share = f ∧ f ≠ 400) :=
  ⟨⟨sF, 5, by refine ⟨by decide, by decide +kernel, ?_⟩; intro k h1 h2; omega⟩,
   ⟨{ sF with pwr := { sF.pwr with watts := 9000 } }, by decide +kernel⟩,
   ⟨4, 3, 1275, by decide +kernel⟩⟩

theorem wit_SelfTestsComplete :
    (∃ r : Ref, ∃ x : Desc, ∃ k : Nat, ∃ s : State, CopyRunsAt s r .host .bist 0 x ∧ bistError s x.bytes = none ∧ bKind x.bytes = k ∧
      s.bist.running = false ∧ k = 0) ∧
    (∃ r : Ref, ∃ x : Desc, ∃ k : Nat, ∃ s : State, CopyRunsAt s r .host .bist 0 x ∧ bistError s x.bytes = none ∧ bKind x.bytes = k ∧
      s.bist.running = false ∧ k = 1) ∧
    (∃ r : Ref, ∃ x : Desc, ∃ k : Nat, ∃ s : State, CopyRunsAt s r .host .bist 0 x ∧ bistError s x.bytes = none ∧ bKind x.bytes = k ∧
      s.bist.running = false ∧ k = 2) ∧
    (∃ r : Ref, ∃ x : Desc, ∃ k : Nat, ∃ s : State, CopyRunsAt s r .host .bist 0 x ∧ bistError s x.bytes = none ∧ bKind x.bytes = k ∧
      s.bist.running = false ∧ k = 3) ∧
    (∃ r : Ref, ∃ x : Desc, ∃ k : Nat, ∃ s : State, CopyRunsAt s r .host .bist 0 x ∧ bistError s x.bytes = none ∧ bKind x.bytes = k ∧
      s.bist.running = true ∧ k = 0) ∧
    (∃ r : Ref, ∃ x : Desc, ∃ k : Nat, ∃ s : State, CopyRunsAt s r .host .bist 0 x ∧ bistError s x.bytes = none ∧ bKind x.bytes = k ∧
      s.bist.running = true ∧ k = 1) ∧
    (∃ r : Ref, ∃ x : Desc, ∃ k : Nat, ∃ s : State, CopyRunsAt s r .host .bist 0 x ∧ bistError s x.bytes = none ∧ bKind x.bytes = k ∧
      s.bist.running = true ∧ k = 2) ∧
    (∃ r : Ref, ∃ x : Desc, ∃ k : Nat, ∃ s : State, CopyRunsAt s r .host .bist 0 x ∧ bistError s x.bytes = none ∧ bKind x.bytes = k ∧
      s.bist.running = true ∧ k = 3) ∧
    (∃ r : Ref, ∃ x : Desc, ∃ off : Nat, ∃ s : State, CopyRunsAt s r .host .bist 0 x ∧ bistError s x.bytes = some off) ∧
    (∃ sig : DWord, ∃ r : Ref, ∃ x : Desc, ∃ s : State, s.bist.running = true ∧ inService s = true ∧ s.bist.mailbox = false ∧ s.bist.ref =
      some r ∧ findDesc s r = some x ∧ (copyAt x .host).isSome = true ∧ s.mem.bad = [] ∧ (bKind s.bist.body = 0 → sig = sigExpected s
      s.bist.body)) ∧
    (∃ sig : DWord, ∃ r : Ref, ∃ x : Desc, ∃ s : State, s.bist.running = true ∧ inService s = true ∧ s.bist.mailbox = false ∧ s.bist.ref =
      some r ∧ findDesc s r = some x ∧ (copyAt x .host).isSome = true ∧ s.mem.bad = [] ∧ bKind s.bist.body = 0 ∧ sig ≠ sigExpected s
      s.bist.body) ∧
    (∃ _sig : DWord, ∃ _fs : List Finding, ∃ s : State, (s.bist.running = false ∨ inService s = false)) ∧
    (∃ b : List Byte, ∃ f : Finding, ∃ s : State, f.what = 1 ∧ (let c := f.core.toNat;
    s.hw.badRow.get 64 c = 64 ∧ s.hw.pendingRow.get 0 c = 0 ∧ bRepair b = true ∧ fusesFree s (c / 96) ≠ 0)) ∧
    (∃ b : List Byte, ∃ f : Finding, ∃ s : State, f.what = 1 ∧ (let c := f.core.toNat;
    s.hw.badRow.get 64 c = 64 ∧ bRepair b = false)) ∧
    (∃ _b : List Byte, ∃ f : Finding, ∃ s : State, f.what = 1 ∧ (let c := f.core.toNat;
    s.hw.badRow.get 64 c < 64)) :=
  ⟨⟨r0, dBi 0, 0, withD sK (dBi 0), ⟨copyRuns (by decide +kernel), by decide +kernel⟩⟩,
   ⟨r0, dBi 1, 1, withD sK (dBi 1), ⟨copyRuns (by decide +kernel), by decide +kernel⟩⟩,
   ⟨r0, dBi 2, 2, withD sK (dBi 2), ⟨copyRuns (by decide +kernel), by decide +kernel⟩⟩,
   ⟨r0, dBi 3, 3, withD sK (dBi 3), ⟨copyRuns (by decide +kernel), by decide +kernel⟩⟩,
   ⟨r0, dBi 0, 0, withD { sK with bist := biRun [] } (dBi 0), ⟨copyRuns (by decide +kernel), by decide +kernel⟩⟩,
   ⟨r0, dBi 1, 1, withD { sK with bist := biRun [] } (dBi 1), ⟨copyRuns (by decide +kernel), by decide +kernel⟩⟩,
   ⟨r0, dBi 2, 2, withD { sK with bist := biRun [] } (dBi 2), ⟨copyRuns (by decide +kernel), by decide +kernel⟩⟩,
   ⟨r0, dBi 3, 3, withD { sK with bist := biRun [] } (dBi 3), ⟨copyRuns (by decide +kernel), by decide +kernel⟩⟩,
   ⟨r0, dBi 4, 16, withD sK (dBi 4), ⟨copyRuns (by decide +kernel), by decide +kernel⟩⟩,
   ⟨0x8E6F13A709DCB254, r0, held (dBi 0) .running 2, withD { sK with bist := biRun (dBi 0).bytes } (held (dBi 0) .running 2), by
     decide +kernel⟩,
   ⟨1, r0, held (dBi 0) .running 2, withD { sK with bist := biRun (dBi 0).bytes } (held (dBi 0) .running 2), by decide +kernel⟩,
   ⟨1, [], sK, by decide +kernel⟩,
   ⟨(dsc 0x70 4 0 0 [(16, 2, 3 + 2 ^ 14)]).bytes, fi1, sK, by decide +kernel⟩,
   ⟨(dsc 0x70 4 0 0 [(16, 2, 3)]).bytes, fi1, sK, by decide +kernel⟩,
   ⟨(dsc 0x70 4 0 0 [(16, 2, 3)]).bytes, fi1, { sK with hw := { sK.hw with badRow := [(0, 5)] } }, by decide +kernel⟩⟩

theorem wit_MailboxCommandsComplete :
    (∃ m : Nat, ∃ v : Word, ∃ s : State, m < mailboxCount s ∧ inService s = true ∧
      (let s1 := writeLogged (0x1D0000 + 0x1000 * m + 0x200) v.toNat s;
    (let x := mailbox s1 m;
    x.state = .empty))) ∧
    (∃ m : Nat, ∃ v : Word, ∃ s : State, m < mailboxCount s ∧ inService s = true ∧
      (let s1 := writeLogged (0x1D0000 + 0x1000 * m + 0x200) v.toNat s;
    (let x := mailbox s1 m;
    x.state = .posted))) ∧
    (∃ m : Nat, ∃ v : Word, ∃ s : State, m < mailboxCount s ∧ inService s = true ∧
      (let s1 := writeLogged (0x1D0000 + 0x1000 * m + 0x200) v.toNat s;
    (let x := mailbox s1 m;
    x.state = .serving))) ∧
    (∃ m : Nat, ∃ v : Word, ∃ s : State, m < mailboxCount s ∧ inService s = true ∧
      (let s1 := writeLogged (0x1D0000 + 0x1000 * m + 0x200) v.toNat s;
    (let x := mailbox s1 m;
    x.state = .replied))) ∧
    (∃ m : Nat, ∃ _tag : BitVec 16, ∃ _bytes : List Byte, ∃ s : State, mctpAnswers s = true ∧ mailboxCount s ≤ m) ∧
    (∃ m : Nat, ∃ _tag : BitVec 16, ∃ _bytes : List Byte, ∃ s : State, mctpAnswers s = true ∧ m < mailboxCount s ∧ (mailbox s m).state =
      .empty) ∧
    (∃ m : Nat, ∃ _tag : BitVec 16, ∃ _bytes : List Byte, ∃ s : State, mctpAnswers s = true ∧ m < mailboxCount s ∧ (mailbox s m).state =
      .serving) ∧
    (∃ m : Nat, ∃ v : Word, ∃ s : State, m < mailboxCount s ∧ inService s = true ∧
      (let s1 := writeLogged (0x1D0000 + 0x1000 * m + 0x204) v.toNat s;
    (mailbox s1 m).state = .replied ∧ v.getLsbD 0 = true)) ∧
    (∃ m : Nat, ∃ v : Word, ∃ s : State, m < mailboxCount s ∧ inService s = true ∧
      (let s1 := writeLogged (0x1D0000 + 0x1000 * m + 0x204) v.toNat s;
    ((mailbox s1 m).state ≠ .replied ∨ v.getLsbD 0 = false))) ∧
    (∃ m : Nat, ∃ s : State, (mailbox s m).state = .posted ∧ mctpAnswers s = true ∧ rejection s m (mailbox s m) = none) ∧
    (∃ m : Nat, ∃ a : Nat, ∃ b : Nat, ∃ c : Nat, ∃ s : State, (mailbox s m).state = .posted ∧ mctpAnswers s = true ∧ rejection s m (mailbox
      s m) = some (a, b, c) ∧ (mailbox s m).mctp = true ∧ (mailbox s m).discard = false) ∧
    (∃ m : Nat, ∃ a : Nat, ∃ b : Nat, ∃ c : Nat, ∃ s : State, (mailbox s m).state = .posted ∧ mctpAnswers s = true ∧ rejection s m (mailbox
      s m) = some (a, b, c) ∧ (mailbox s m).mctp = false) ∧
    (∃ _m : Nat, ∃ x : Mailbox, ∃ _s : State, (x.len < 4 ∨ 256 < x.len)) ∧
    (∃ _m : Nat, ∃ x : Mailbox, ∃ _s : State, 4 ≤ x.len ∧ x.len ≤ 256 ∧ serviceOf x = none) ∧
    (∃ m : Nat, ∃ x : Mailbox, ∃ s : State, ∃ v : Service, 4 ≤ x.len ∧ x.len ≤ 256 ∧ serviceOf x = some v ∧ isSecure x v = true ∧ bitOf
      s.trust.mask.toNat m = false) ∧
    (∃ m : Nat, ∃ x : Mailbox, ∃ s : State, ∃ v : Service, 4 ≤ x.len ∧ x.len ≤ 256 ∧ serviceOf x = some v ∧ bitOf s.trust.mask.toNat m =
      true ∧ s.trust.lock = true ∧ x.mctp = false) :=
  ⟨⟨3, 0x00090004, sMb 3 (mbR [] .empty) sF, by decide +kernel⟩,
   ⟨3, 0x00090004, sMb 3 (mbR [] .posted) sF, by decide +kernel⟩,
   ⟨3, 0x00090004, sMb 3 (mbR [] .serving) sF, by decide +kernel⟩,
   ⟨3, 0x00090004, sMb 3 (mbR [] .replied) sF, by decide +kernel⟩,
   ⟨16, 9, [1, 0, 0, 0], sMb 3 (mbR [] .empty) sF, by decide +kernel⟩,
   ⟨3, 9, [1, 0, 0, 0], sMb 3 (mbR [] .empty) sF, by decide +kernel⟩,
   ⟨3, 9, [1, 0, 0, 0], sMb 3 (mbR [] .serving) sF, by decide +kernel⟩,
   ⟨3, 1, sMb 3 { mbR [] .replied with replyValid := true } sF, by decide +kernel⟩,
   ⟨3, 1, sF, by decide +kernel⟩,
   ⟨3, sMb 3 (mbR [1, 0, 0, 0] .posted) sF, by decide +kernel⟩,
   ⟨3, 4, 0, 0, sMb 3 { mbR [99, 0, 0, 0] .posted with mctp := true } sF, by decide +kernel⟩,
   ⟨3, 4, 0, 0, sMb 3 (mbR [99, 0, 0, 0] .posted) sF, by decide +kernel⟩,
   ⟨3, mbR [1, 0, 0] .posted, sF, by decide +kernel⟩,
   ⟨3, mbR [99, 0, 0, 0] .posted, sF, by decide +kernel⟩,
   ⟨3, mbR [0x30, 0, 0, 0] .posted, { sF with trust := { sF.trust with mask := 0 } }, .measExtend, by decide +kernel⟩,
   ⟨3, mbR [0x30, 0, 0, 0] .posted, { sF with trust := { sF.trust with mask := 8, lock := true } }, .measExtend, by decide +kernel⟩⟩

theorem wit_MailboxServicesComplete :
    (∃ m : Nat, ∃ s : State, (mailbox s m).state = .serving ∧ serviceOf (mailbox s m) = some .info ∧ mctpAnswers s = true) ∧
    (∃ m : Nat, ∃ s : State, (mailbox s m).state = .serving ∧ serviceOf (mailbox s m) = some .echo ∧ mctpAnswers s = true) ∧
    (∃ m : Nat, ∃ s : State, (mailbox s m).state = .serving ∧ serviceOf (mailbox s m) = some .measExtend ∧ mctpAnswers s = true) ∧
    (∃ m : Nat, ∃ s : State, (mailbox s m).state = .serving ∧ serviceOf (mailbox s m) = some .measLog ∧ mctpAnswers s = true) ∧
    (∃ m : Nat, ∃ st : Nat, ∃ det : Nat, ∃ s : State, (mailbox s m).state = .serving ∧ serviceOf (mailbox s m) = some .fwLoad ∧ mctpAnswers
      s = true ∧ fwRequestError s (mailbox s m) = some (st, det)) ∧
    (∃ m : Nat, ∃ off : Nat, ∃ s : State, (mailbox s m).state = .serving ∧ serviceOf (mailbox s m) = some .fwLoad ∧ mctpAnswers s = true ∧
      fwRequestError s (mailbox s m) = none ∧ unfilledAt s ((mailbox s m).fld 4 0 44) 1 = none ∧ fwFormat s ((mailbox s m).fld 4 0 44)
      ((mailbox s m).fld 12 0 32) = some off) ∧
    (∃ _a : Nat, ∃ _n : Nat, ∃ s0 : State, s0.mem.bad = []) ∧
    (∃ m : Nat, ∃ r : Nat × State, ∃ s : State, (mailbox s m).state = .serving ∧ serviceOf (mailbox s m) = some .fwLoad ∧ mctpAnswers s =
      true ∧ fwRequestError s (mailbox s m) = none ∧ unfilledAt s ((mailbox s m).fld 4 0 44) 1 = none ∧ fwFormat s ((mailbox s m).fld 4 0
      44) ((mailbox s m).fld 12 0 32) = none ∧ fwBad s ((mailbox s m).fld 4 0 44) ((mailbox s m).fld 12 0 32) = some r) ∧
    (∃ m : Nat, ∃ s : State, (mailbox s m).state = .serving ∧ serviceOf (mailbox s m) = some .fwLoad ∧ mctpAnswers s = true ∧ fwRequestError
      s (mailbox s m) = none ∧ unfilledAt s ((mailbox s m).fld 4 0 44) 1 = none ∧ s.mem.bad = [] ∧ fwImageError (readBytes s .bar2 ((mailbox
      s m).fld 4 0 44) 1024) ((mailbox s m).fld 12 0 32) = none) ∧
    (∃ m : Nat, ∃ s : State, (mailbox s m).state = .serving ∧ serviceOf (mailbox s m) = some .bist ∧ mctpAnswers s = true ∧ s.bist.running =
      true) ∧
    (∃ m : Nat, ∃ s : State, (mailbox s m).state = .serving ∧ serviceOf (mailbox s m) = some .bist ∧ mctpAnswers s = true ∧ s.bist.running =
      false ∧ serviceState s .bist = true ∧ (∀ n, dieOfAddr s .iod (bResult (mbBistBody (mailbox s m))) = some n → isFenced s n = false) ∧
      bistError s (mbBistBody (mailbox s m)) = none) ∧
    (∃ m : Nat, ∃ off : Nat, ∃ s : State, (mailbox s m).state = .serving ∧ serviceOf (mailbox s m) = some .bist ∧ mctpAnswers s = true ∧
      s.bist.running = false ∧ serviceState s .bist = true ∧ (∀ n, dieOfAddr s .iod (bResult (mbBistBody (mailbox s m))) = some n → isFenced
      s n = false) ∧ bistError s (mbBistBody (mailbox s m)) = some off) ∧
    (∃ m : Nat, ∃ _a : Nat, ∃ _b : Nat, ∃ _c : Nat, ∃ data : List Byte, ∃ s : State, data.length ≤ 248 ∧ (let x := mailbox s m;
    x.mctp = true ∧ x.discard = false)) ∧
    (∃ m : Nat, ∃ _a : Nat, ∃ _b : Nat, ∃ _c : Nat, ∃ data : List Byte, ∃ s : State, data.length ≤ 248 ∧ (let x := mailbox s m;
    x.mctp = true ∧ x.discard = true)) ∧
    (∃ m : Nat, ∃ _a : Nat, ∃ _b : Nat, ∃ _c : Nat, ∃ data : List Byte, ∃ s : State, data.length ≤ 248 ∧ (let x := mailbox s m;
    x.mctp = false)) ∧
    (∃ m : Nat, ∃ _a : Nat, ∃ _b : Nat, ∃ _c : Nat, ∃ data : List Byte, ∃ _s : State, data.length ≤ 248 ∧ ∃ k : Nat, k ≠ m) ∧
    (∃ _m : Nat, ∃ _a : Nat, ∃ _b : Nat, ∃ _c : Nat, ∃ data : List Byte, ∃ _s : State, data.length ≤ 248) :=
  ⟨⟨3, sMb 3 (mbR [1, 0, 0, 0] .serving) sF, by decide +kernel⟩,
   ⟨3, sMb 3 (mbR [2, 0, 0, 0, 5, 6] .serving) sF, by decide +kernel⟩,
   ⟨3, sMb 3 (mbR ([0x30, 0, 0, 0] ++ List.replicate 48 1) .serving) sF, by decide +kernel⟩,
   ⟨3, sMb 3 (mbR [0x31, 0, 0, 0, 0, 0, 0, 0] .serving) sF, by decide +kernel⟩,
   ⟨3, stNotAvailable, Mode.full.code, sMb 3 (mbR ([0x10, 0, 0, 0] ++ leBytes 8 0x1000 ++ leBytes 4 1088) .serving) sF, by decide +kernel⟩,
   ⟨3, 0, sMb 3 (mbR ([0x10, 0, 0, 0] ++ leBytes 8 0x1000 ++ leBytes 4 1088) .serving)
     { sK with mem := { sK.mem with filled := [(0, true)] } }, by decide +kernel⟩,
   ⟨0x1000, 1088, sK, by decide +kernel⟩,
   ⟨3, (fwBad sFwBad ((mailbox sFwBad 3).fld 4 0 44) ((mailbox sFwBad 3).fld 12 0 32)).getD (0, sFwBad), sFwBad,
     by refine ⟨by decide +kernel, by decide +kernel, by decide +kernel, by decide +kernel, by decide +kernel, by decide +kernel, ?_⟩; exact someOfIsSome _ (by decide +kernel)⟩,
   ⟨3, poke 0x1000 (leBytes 4 0x554E4C4B ++ [2, 0, 0, 0] ++ List.replicate 8 0 ++ leBytes 4 64) (sMb 3 (mbR ([0x10, 0, 0, 0] ++ leBytes 8
     0x1000 ++ leBytes 4 1088) .serving) { sK with mem := { sK.mem with filled := [(0, true)] } }), by decide +kernel⟩,
   ⟨3, sMb 3 (mbR ([0x20, 0, 0, 0] ++ List.replicate 48 0) .serving) { sK with bist := biRun [] }, by decide +kernel⟩,
   ⟨3, sMb 3 (mbR ([0x20, 0, 0, 0] ++ (dBi 0).bytes.drop 16) .serving) sK, by decide +kernel⟩,
   ⟨3, 16, sMb 3 (mbR ([0x20, 0, 0, 0] ++ (dBi 4).bytes.drop 16) .serving) sK, by decide +kernel⟩,
   ⟨3, 0, 0, 0, [1, 2], sMb 3 { mbR [1, 0, 0, 0] .serving with mctp := true } sF, by decide +kernel⟩,
   ⟨3, 0, 0, 0, [1, 2], sMb 3 { mbR [1, 0, 0, 0] .serving with mctp := true, discard := true } sF, by decide +kernel⟩,
   ⟨3, 0, 0, 0, [1, 2], sMb 3 (mbR [1, 0, 0, 0] .serving) sF, by decide +kernel⟩,
   ⟨3, 0, 0, 0, [1, 2], sMb 3 (mbR [1, 0, 0, 0] .serving) sF, by decide +kernel, 4, by decide +kernel⟩,
   ⟨3, 0, 0, 0, [1, 2], sMb 3 (mbR [1, 0, 0, 0] .serving) sF, by decide +kernel⟩⟩

theorem wit_ManagementMessagesComplete :
    (∃ k : Transport, ∃ s : State, transportAnswers s k = true) ∧
    (∃ k : Transport, ∃ s : State, transportAnswers s k = true) ∧
    (∃ k : Transport, ∃ _flags : Word, ∃ _ct : Byte, ∃ _size : Word, ∃ _room : Word, ∃ s : State, transportAnswers s k = true ∧ (spdmOf s
      k).version = true) ∧
    (∃ k : Transport, ∃ _a : Bool, ∃ _b : Bool, ∃ _c : Bool, ∃ s : State, transportAnswers s k = true ∧ (spdmOf s k).caps = true) ∧
    (∃ k : Transport, ∃ _a : Bool, ∃ _b : Bool, ∃ _c : Bool, ∃ s : State, transportAnswers s k = true ∧ (spdmOf s k).caps = true) ∧
    (∃ k : Transport, ∃ s : State, transportAnswers s k = true ∧ (spdmOf s k).algs = true) ∧
    (∃ k : Transport, ∃ _slot : Nat, ∃ _off : Nat, ∃ _len : Nat, ∃ s : State, transportAnswers s k = true ∧ (spdmOf s k).algs = true) ∧
    (∃ k : Transport, ∃ _sm : Summary, ∃ _nonce : List Byte, ∃ s : State, transportAnswers s k = true ∧ (spdmOf s k).algs = true) ∧
    (∃ k : Transport, ∃ slot : Nat, ∃ _sm : Summary, ∃ _nonce : List Byte, ∃ s : State, transportAnswers s k = true ∧ (spdmOf s k).algs =
      true ∧ slot ≠ 0) ∧
    (∃ k : Transport, ∃ op : Nat, ∃ ix : List Nat, ∃ _nonce : List Byte, ∃ s : State, transportAnswers s k = true ∧ (spdmOf s k).algs = true
      ∧ measOperation op = some ix) ∧
    (∃ k : Transport, ∃ op : Nat, ∃ ix : List Nat, ∃ _nonce : List Byte, ∃ s : State, transportAnswers s k = true ∧ (spdmOf s k).algs = true
      ∧ measOperation op = some ix) ∧
    (∃ k : Transport, ∃ op : Nat, ∃ _sg : Bool, ∃ _nonce : List Byte, ∃ s : State, transportAnswers s k = true ∧ (spdmOf s k).algs = true ∧
      measOperation op = none) ∧
    (∃ k : Transport, ∃ _code : Byte, ∃ s : State, transportAnswers s k = true) ∧
    (∃ s : State, inService s = true) ∧
    (∃ s : State, inService s = true) ∧
    (∃ s : State, inService s = true) ∧
    (∃ e : Byte, ∃ s : State, mctpAnswers s = true ∧ e ≠ 0 ∧ e ≠ 0xFF) ∧
    (∃ s : State, mctpAnswers s = true) ∧
    (∃ s : State, mctpAnswers s = true) ∧
    (∃ s : State, mctpAnswers s = true) ∧
    (∃ s : State, s.trust.i3cAddr = none) ∧
    (∃ a : BitVec 7, ∃ s : State, s.trust.i3cAddr = some a) :=
  ⟨⟨.doe, sF, by decide +kernel⟩,
   ⟨.mctp, sMb 3 (mbR [] .empty) sS, by decide +kernel⟩,
   ⟨.doe, 0, 0, 0, 0, sPd ⟨true, false, false, []⟩, by decide +kernel⟩,
   ⟨.doe, true, true, true, sPd ⟨true, true, false, []⟩, by decide +kernel⟩,
   ⟨.doe, true, false, true, sPd ⟨true, true, false, []⟩, by decide +kernel⟩,
   ⟨.doe, sPd ⟨true, true, true, []⟩, by decide +kernel⟩,
   ⟨.doe, 0, 0, 100, sPd ⟨true, true, true, []⟩, by decide +kernel⟩,
   ⟨.doe, .tcb, [], sPd ⟨true, true, true, []⟩, by decide +kernel⟩,
   ⟨.doe, 1, .all, [], sPd ⟨true, true, true, []⟩, by decide +kernel⟩,
   ⟨.doe, 0xFF, [0, 1, 2, 3, 4, 5, 6], [], sPd ⟨true, true, true, []⟩, by decide +kernel⟩,
   ⟨.doe, 0, [], [], sPd ⟨true, true, true, []⟩, by decide +kernel⟩,
   ⟨.doe, 8, true, [], sPd ⟨true, true, true, []⟩, by decide +kernel⟩,
   ⟨.doe, 0x65, sF, by decide +kernel⟩,
   ⟨sF, by decide +kernel⟩,
   ⟨sF, by decide +kernel⟩,
   ⟨sF, by decide +kernel⟩,
   ⟨0x20, sMb 3 (mbR [] .empty) sF, by decide +kernel⟩,
   ⟨sMb 3 (mbR [] .empty) sF, by decide +kernel⟩,
   ⟨sMb 3 (mbR [] .empty) sF, by decide +kernel⟩,
   ⟨sMb 3 (mbR [] .empty) sF, by decide +kernel⟩,
   ⟨sF, by decide +kernel⟩,
   ⟨0x20, { sF with trust := { sF.trust with i3cAddr := some 0x20 } }, by decide +kernel⟩⟩

theorem wit_ManagementPinsComplete :
    (∃ s : State, i3cAnswers s = true) ∧
    (∃ _a : BitVec 7, ∃ s : State, i3cAnswers s = true ∧ s.trust.i3cAddr = none) ∧
    (∃ static : BitVec 7, ∃ _a : BitVec 7, ∃ _s : State, static ≠ 0x2A) ∧
    (∃ _a : BitVec 7, ∃ s : State, i3cAnswers s = true ∧ s.trust.i3cAddr = none) ∧
    (∃ _static : BitVec 7, ∃ _a : BitVec 7, ∃ b : BitVec 7, ∃ s : State, s.trust.i3cAddr = some b) ∧
    (∃ s : State, inService s = true) ∧
    (∃ _a : List Bool, ∃ _b : List Bool, ∃ s : State, inService s = true) ∧
    (∃ s : State, s.ms.mode = .kindling ∧ s.trust.lock = false ∧ s.jtag.later = []) ∧
    (∃ s : State, s.ms.mode = .kindling ∧ s.trust.lock = false ∧ s.jtag.later ≠ []) ∧
    (∃ s : State, inService s = true ∧ (s.ms.mode ≠ .kindling ∨ s.trust.lock = true)) ∧
    (∃ s : State, inService s = true) ∧
    (∃ s : State, inService s = true) ∧
    (∃ v : Word, ∃ s : State, inService s = true ∧ (let s1 := writeLogged 0x160000 v.toNat s;
    v.getLsbD 0 = true ∧ s1.trust.lock = false)) ∧
    (∃ v : Word, ∃ s : State, inService s = true ∧ (let s1 := writeLogged 0x160000 v.toNat s;
    (v.getLsbD 0 = false ∨ s1.trust.lock = true))) ∧
    (∃ s : State, s.wdog.en = true ∧ s.trust.restarting = false) ∧
    (∃ s : State, s.wdog.en = true ∧ s.trust.restarting = false ∧ s.wdog.restart + 1000000 * s.wdog.timeoutMs.toNat < s.clk ∧ s.ms.mode =
      .full) ∧
    (∃ s : State, s.wdog.en = true ∧ s.trust.restarting = false ∧ s.wdog.restart + 1000000 * s.wdog.timeoutMs.toNat < s.clk ∧ s.ms.mode =
      .kindling) ∧
    (∃ s : State, s.trust.restarting = true ∧ s.ms.mode ≠ .off) :=
  ⟨⟨sMb 3 (mbR [] .empty) sF, by decide +kernel⟩,
   ⟨0x20, sMb 3 (mbR [] .empty) sF, by decide +kernel⟩,
   ⟨0x2B, 0x20, sMb 3 (mbR [] .empty) sF, by decide +kernel⟩,
   ⟨0x21, sMb 3 (mbR [] .empty) sF, by decide +kernel⟩,
   ⟨0x2A, 0x22, 0x20, { sF with trust := { sF.trust with i3cAddr := some 0x20 } }, by decide +kernel⟩,
   ⟨sF, by decide +kernel⟩,
   ⟨[true], [], sF, by decide +kernel⟩,
   ⟨sK, by decide +kernel⟩,
   ⟨{ sK with jtag := { Jtag.reset with later := [true] } }, by decide +kernel⟩,
   ⟨sF, by decide +kernel⟩,
   ⟨sF, by decide +kernel⟩,
   ⟨sF, by decide +kernel⟩,
   ⟨1, sK, by decide +kernel⟩,
   ⟨0, sK, by decide +kernel⟩,
   ⟨{ sF with wdog := { sF.wdog with en := true } }, by decide +kernel⟩,
   ⟨fz 200000000 { sF with wdog := { sF.wdog with en := true, timeoutMs := 100 } }, by decide +kernel⟩,
   ⟨fz 200000000 { sK with wdog := { sF.wdog with en := true, timeoutMs := 100 } }, by decide +kernel⟩,
   ⟨{ sF with trust := { sF.trust with restarting := true } }, by decide +kernel⟩⟩

theorem wit_RegisterWritesComplete :
    (∃ v : Word, ∃ s : State, inService s = true ∧ v.getLsbD 6 = false) ∧
    (∃ v : Word, ∃ s : State, inService s = true ∧ (let s1 := writeLogged 0x71000 v.toNat s;
    v.getLsbD 6 = true ∧ s1.ft.outEn = false)) ∧
    (∃ v : Word, ∃ s : State, inService s = true ∧ (let s1 := writeLogged 0x71000 v.toNat s;
    v.getLsbD 6 = true ∧ s1.pins.ftpOe = false ∧ s1.ft.outEn = true)) ∧
    (∃ v : Word, ∃ s : State, inService s = true ∧ v.getLsbD 0 = false) ∧
    (∃ v : Word, ∃ s : State, inService s = true ∧ (let s1 := writeLogged 0x30 v.toNat s;
    v.getLsbD 0 = true ∧ s1.wdog.en = true)) ∧
    (∃ v : Word, ∃ s : State, inService s = true ∧ (let s1 := writeLogged 0x30 v.toNat s;
    v.getLsbD 0 = true ∧ s1.wdog.en = false ∧ s1.pwr.seqEn = false)) ∧
    (∃ v : Word, ∃ s : State, inService s = true ∧ (let s1 := writeLogged 0x30 v.toNat s;
    v.getLsbD 0 = true ∧ s1.wdog.en = false ∧ s1.pwr.seqEn = true)) ∧
    (∃ v : Word, ∃ s : State, inService s = true ∧ (let s1 := writeLogged 0x130800 v.toNat s;
    (let b := bitsOf v.toNat 0 20;
    (s1.ms.mode ≠ .kindling ∨ 393216 < 16384 + reserveSum s1 + b)))) ∧
    (∃ v : Word, ∃ s : State, inService s = true ∧ (let s1 := writeLogged 0x130800 v.toNat s;
    (let b := bitsOf v.toNat 0 20;
    (s1.ms.mode ≠ .kindling ∨ 393216 < 16384 + reserveSum s1 + b)))) ∧
    (∃ v : Word, ∃ s : State, inService s = true ∧ (let s1 := writeLogged 0x130800 v.toNat s;
    (let b := bitsOf v.toNat 0 20;
    s1.ms.mode = .kindling ∧ 16384 + reserveSum s1 + b ≤ 393216 ∧ v.getLsbD 20 = false ∧ v.getLsbD 21 = false))) ∧
    (∃ v : Word, ∃ s : State, inService s = true ∧ (let s1 := writeLogged 0x130800 v.toNat s;
    (let b := bitsOf v.toNat 0 20;
    s1.ms.mode = .kindling ∧ 16384 + reserveSum s1 + b ≤ 393216 ∧ v.getLsbD 20 = true ∧ v.getLsbD 21 = false ∧ s1.link.pool.linksEn =
      false))) ∧
    (∃ v : Word, ∃ s : State, inService s = true ∧ (let s1 := writeLogged 0x130800 v.toNat s;
    (let b := bitsOf v.toNat 0 20;
    s1.ms.mode = .kindling ∧ 16384 + reserveSum s1 + b ≤ 393216 ∧ v.getLsbD 20 = true ∧ v.getLsbD 21 = true ∧ s1.link.pool.emberEn = true ∧
      s1.link.pool.linksEn = false))) ∧
    (∃ _w : Bool, ∃ off : Nat, ∃ size : Nat, ∃ s : State, inService s = true ∧ bar0Access off size = false) ∧
    (∃ off : Nat, ∃ size : Nat, ∃ _v : DWord, ∃ s : State, (inService s = false ∨ bar0Access off size = false)) ∧
    (∃ off : Nat, ∃ _v : DWord, ∃ r : Reg, ∃ s : State, inService s = true ∧ bar0Access off 4 = true ∧ regAt s off = some r ∧ r.wide =
      false) ∧
    (∃ off : Nat, ∃ _v : DWord, ∃ r : Reg, ∃ s : State, inService s = true ∧ bar0Access off 8 = true ∧ regAt s off = some r ∧ r.wide = true) ∧
    (∃ off : Nat, ∃ _v : DWord, ∃ s : State, inService s = true ∧ bar0Access off 4 = true ∧ regAt s off = none ∧ upperOf s off = none) ∧
    (∃ off : Nat, ∃ _v : DWord, ∃ n : Nat, ∃ s : State, inService s = true ∧ bar0Access off 4 = true ∧ regAt s off = some (ro n)) ∧
    (∃ _v : DWord, ∃ s : State, inService s = true) :=
  ⟨⟨0x0F, sF, by decide +kernel⟩,
   ⟨0xC0, sF, by decide +kernel⟩,
   ⟨0x40, { sF with ft := { sF.ft with outEn := true } }, by decide +kernel⟩,
   ⟨0x1400, sF, by decide +kernel⟩,
   ⟨0x1401, { sF with wdog := { sF.wdog with en := true } }, by decide +kernel⟩,
   ⟨0x1401, pwOff sF, by decide +kernel⟩,
   ⟨0x1401, sF, by decide +kernel⟩,
   ⟨0x100, sF, by decide +kernel⟩,
   ⟨0xFFFFF, sK, by decide +kernel⟩,
   ⟨0x1000, sK, by decide +kernel⟩,
   ⟨0x101000, { sK with link := { sK.link with pool := { Pool.reset with linksEn := false } } }, by decide +kernel⟩,
   ⟨0x301000, { sK with link := { sK.link with pool := { Pool.reset with linksEn := false, emberEn := true } } }, by decide +kernel⟩,
   ⟨true, 6, 4, sF, by decide +kernel⟩,
   ⟨0x24, 4, 1, sS, by decide +kernel⟩,
   ⟨0x30, 1, rw (bit sF.wdog.en + at' sF.wdog.timeoutMs.toNat 8) writeWdog, sF, ⟨by decide +kernel, by decide +kernel, rfl, rfl⟩⟩,
   ⟨0x10000, 0x12345678,
     { wide := true, value := 0, clears := 0, write := fun v s => { s with host := { s.host with dbAddr := v &&& ~~~0x1FF } } }, sF, ⟨by
     decide +kernel, by decide +kernel, rfl, rfl⟩⟩,
   ⟨0x34, 5, sF, by decide +kernel⟩,
   ⟨0x00, 5, iodCap sF, sF, ⟨by decide +kernel, by decide +kernel, rfl⟩⟩,
   ⟨5000, sF, by decide +kernel⟩⟩

end Sys2Proof.Tests
end

section
/-! PROOFS. The serial comparison of wrapping values (R12) and the statistics counters with their wrap counts (R14). -/

namespace Sys2Proof.Machine

/-! ### The serial comparison -/

/-- R12: the distance (t − c) mod 2^32 is the difference of the two words. -/
theorem sub_toNat_eq_of_emod {c t : Word} {d : Nat} (h : (d : Int) = ((t.toNat : Int) - (c.toNat : Int)) % 2 ^ 32) :
    (t - c).toNat = d := by
  bv_omega

theorem serial_eq_reached {c t : Word} (h : (t - c).toNat = 0) : serial c t = .reached := by
  simp [serial, h]

theorem serial_eq_ahead {c t : Word} {d : Nat} (h : (t - c).toNat = d) (hpos : 1 ≤ d) (hle : d ≤ 2 ^ 31) :
    serial c t = .ahead d := by
  have hne : d ≠ 0 := by omega
  simp only [serial, h, if_neg hne, if_pos hle]

theorem serial_eq_past {c t : Word} {d : Nat} (h : (t - c).toNat = d) (hlt : 2 ^ 31 < d) :
    serial c t = .past (2 ^ 32 - d) := by
  have hne : d ≠ 0 := by omega
  simp only [serial, h, if_neg hne, if_neg (Nat.not_le.mpr hlt)]

/-! ### Statistics counters -/

@[simp] theorem Stat.count_add (c : Stat) (n : Nat) : (c.add n).count = c.count + BitVec.ofNat 64 n := by
  simp [Stat.add, BitVec.ofNat_add]

/-- The wrap count of a counter that passes 2^64 `k` times in one advance. -/
theorem Stat.wraps_add {c : Stat} {n k : Nat} (h : (c.count.toNat + n) / 2 ^ 64 = k) :
    (c.add n).wraps = BitVec.ofNat 16 (hold 0xFFFF (c.wraps.toNat + k)) := by
  simp only [Stat.add, h]

theorem Stat.wraps_add_of_lt {c : Stat} {n : Nat} (h : c.count.toNat + n < 2 ^ 64) : (c.add n).wraps = c.wraps := by
  have hw : c.wraps.toNat ≤ 0xFFFF := by omega
  rw [Stat.wraps_add (Nat.div_eq_of_lt h), Nat.add_zero, hold, Nat.min_eq_right hw, BitVec.ofNat_toNat, BitVec.setWidth_eq]

/-- R14: one more wrap in a wrap count that holds at its largest value. -/
theorem ofNat_hold_succ (w : BitVec 16) :
    BitVec.ofNat 16 (hold 0xFFFF (w.toNat + 1)) = if w = 0xFFFF then 0xFFFF else w + 1 := by
  split
  case isTrue h => subst h; rfl
  case isFalse h =>
    have hle : w.toNat + 1 ≤ 0xFFFF := by bv_omega
    rw [hold, Nat.min_eq_right hle, BitVec.ofNat_add, BitVec.ofNat_toNat, BitVec.setWidth_eq]
    rfl

theorem Stat.wraps_add_one_of_max {c : Stat} (h : c.count = 0xFFFFFFFFFFFFFFFF) :
    (c.add 1).wraps = if c.wraps = 0xFFFF then 0xFFFF else c.wraps + 1 := by
  have hwrap : (c.count.toNat + 1) / 2 ^ 64 = 1 := by rw [h]; rfl
  rw [Stat.wraps_add hwrap, ofNat_hold_succ]

theorem Stat.wraps_add_one_of_ne_max {c : Stat} (h : c.count ≠ 0xFFFFFFFFFFFFFFFF) : (c.add 1).wraps = c.wraps :=
  Stat.wraps_add_of_lt (by bv_omega)

/-! ### The statements -/

/-- Settles O9: the distance is the difference of the words, on which the comparison branches. -/
theorem serialComparison : Obligations.SerialComparison := by
  intro c t d hd
  have hsub : (t - c).toNat = d := sub_toNat_eq_of_emod hd
  exact ⟨fun h0 => serial_eq_reached (hsub.trans h0), serial_eq_ahead hsub, serial_eq_past hsub⟩

/-- Settles O10: an advance by one passes 2^64 exactly from the largest count. -/
theorem statisticsCountersWrap : Obligations.StatisticsCountersWrap :=
  fun c => ⟨c.count_add 1, Stat.wraps_add_one_of_max, Stat.wraps_add_one_of_ne_max⟩

end Sys2Proof.Machine
end

section
/-! PROOFS. What an element of a block-scaled tensor reads as (R66, R70). -/

namespace Sys2Proof.Machine

/-! ### Scaling a value by a power of two -/

@[simp] theorem FVal.scale_nan (k : Int) : FVal.nan.scale k = .nan := rfl

@[simp] theorem FVal.scale_inf (neg : Bool) (k : Int) : (FVal.inf neg).scale k = .inf neg := rfl

@[simp] theorem FVal.scale_fin (neg : Bool) (m : Nat) (e k : Int) : (FVal.fin neg m e).scale k = .fin neg m (e + k) := rfl

/-! ### The scale of a block -/

/-- R66: the code 0xFF is NaN. -/
@[simp] theorem mxValue_nan_scale (code raw : Nat) : mxValue code 0xFF raw = .nan := if_pos rfl

/-- R66: a code s up to 0xFE stands for 2^(s − 127). -/
theorem mxValue_of_le {s : Nat} (code raw : Nat) (hs : s ≤ 0xFE) :
    mxValue code s raw = (decodeF (fmtOf code) raw).scale ((s : Int) - 127) :=
  if_neg (by omega)

/-- R63: the codes 5 to 7 are the block-scaled ones. -/
theorem elemValue_eq_mxValue {code : Nat} (hlo : 5 ≤ code) (hhi : code ≤ 7) (s raw : Nat) :
    elemValue code s raw = mxValue code s raw := by
  have hmx : isMx code = true := decide_eq_true ⟨hlo, hhi⟩
  have hint : code ≠ 8 := by omega
  rw [elemValue, if_neg hint, if_pos hmx]

/-! ### The statement -/

/-- Settles O8: an element of a block-scaled code is its own value scaled by the block's code, unless that code is NaN; only a
finite value is changed by scaling. -/
theorem scaledElementsRead : Obligations.ScaledElementsRead := by
  intro code raw s hlo hhi
  rw [elemValue_eq_mxValue hlo hhi]
  refine ⟨?nanScale, ?finite, ?nan, ?infinite⟩
  case nanScale =>
    rintro rfl
    exact mxValue_nan_scale code raw
  case finite =>
    intro neg m e hs hraw
    rw [mxValue_of_le code raw hs, hraw, FVal.scale_fin]
  case nan =>
    intro hs hraw
    rw [mxValue_of_le code raw hs, hraw, FVal.scale_nan]
  case infinite =>
    intro neg hs hraw
    rw [mxValue_of_le code raw hs, hraw, FVal.scale_inf]

end Sys2Proof.Machine
end

section
/-! PROOFS. A step takes the front command, every command has a next state, and memory as reset and writes leave it (R172, R182). -/

namespace Sys2Proof.Machine

/-! ### Steps -/

theorem step_of_cons {s : State} {c : Instr} {rest : List Instr} (h : s.pending = c :: rest) :
    step s = exec c { s with pending := rest } := by
  rw [step, h]

theorem step_of_nil {s : State} (h : s.pending = []) : step s = .next (tick s) := by
  rw [step, h]

/-- Log 1: no command faults or is refused. -/
theorem exec_isNext (c : Instr) (s : State) : ∃ t, exec c s = .next t := by
  cases c <;> exact ⟨_, rfl⟩

/-- Settles O1: `step` branches on the queue, and every arm of `exec` is a next state. -/
theorem stepRunsFrontCommand : Obligations.StepRunsFrontCommand :=
  ⟨fun _ _ _ => step_of_cons, fun _ => step_of_nil, fun c s =>
    let ⟨t, ht⟩ := exec_isNext c s
    ⟨t, ht, trivial⟩⟩

/-- Settles O2: the table of bytes after reset is empty. -/
theorem memoryFormAtReset : Obligations.MemoryFormAtReset :=
  ⟨memory_wf_empty, fun _ => rfl⟩

/-! ### What writes leave of a place -/

theorem get_foldl_put_last {α β : Type} [DecidableEq α] {d : α} (key : β → Nat) (val : β → α) {pre post : List β} {w : β}
    (t : Tab α) (h : ∀ x ∈ post, key x ≠ key w) :
    ((pre ++ w :: post).foldl (fun u x => u.put d (key x) (val x)) t).get d (key w) = val w := by
  rw [List.foldl_append, List.foldl_cons]
  generalize pre.foldl _ t = u
  suffices hpost : ∀ u : Tab α, u.get d (key w) = val w →
      (post.foldl (fun u x => u.put d (key x) (val x)) u).get d (key w) = val w from hpost _ (Tab.get_put_same u)
  intro u hu
  induction post generalizing u with
  | nil => exact hu
  | cons x post ih =>
    refine ih (fun y hy => h y (List.mem_cons_of_mem _ hy)) _ ?_
    rw [Tab.get_put_other u (h x List.mem_cons_self).symm, hu]

/-- R182: the writes that reach memory: those to codewords that are not covered in part while uncorrectable. -/
def heededWrites (m : Mem) (ws : List (Nat × Byte)) : List (Nat × Byte) :=
  ws.filter fun w => !(partBad m ws).contains (codeword w.1)

theorem commit_bytes (m : Mem) (ws : List (Nat × Byte)) : (commit m ws).bytes = (putBytes m (heededWrites m ws)).bytes := by
  simp only [commit, putBytes, heededWrites]
  split
  case isTrue h => simp [List.isEmpty_iff.mp h]
  case isFalse h => rfl

theorem byteAt_commit (m : Mem) (ws : List (Nat × Byte)) (k : Nat) :
    byteAt (commit m ws) k = byteAt (putBytes m (heededWrites m ws)) k := by
  rw [byteAt, commit_bytes, byteAt]

theorem mem_heededWrites {m : Mem} {ws : List (Nat × Byte)} {w : Nat × Byte} :
    w ∈ heededWrites m ws ↔ w ∈ ws ∧ codeword w.1 ∉ partBad m ws := by
  simp [heededWrites]

theorem byteAt_commit_of_unnamed (m : Mem) (ws : List (Nat × Byte)) (k : Nat) (h : ∀ w ∈ ws, w.1 ≠ k) :
    byteAt (commit m ws) k = byteAt m k := by
  rw [byteAt_commit]
  exact byteAt_putBytes_other _ _ _ fun w hw => h w (mem_heededWrites.mp hw).1

theorem byteAt_commit_of_partBad (m : Mem) (ws : List (Nat × Byte)) (k : Nat) (h : codeword k ∈ partBad m ws) :
    byteAt (commit m ws) k = byteAt m k := by
  rw [byteAt_commit]
  refine byteAt_putBytes_other _ _ _ fun w hw hk => ?_
  exact (mem_heededWrites.mp hw).2 (hk ▸ h)

theorem byteAt_commit_last (m : Mem) {ws pre post : List (Nat × Byte)} {k : Nat} {v : Byte} (hgood : codeword k ∉ partBad m ws)
    (hws : ws = pre ++ (k, v) :: post) (hlast : ∀ w ∈ post, w.1 ≠ k) : byteAt (commit m ws) k = v := by
  have hsplit : heededWrites m ws = pre.filter (fun w => !(partBad m ws).contains (codeword w.1)) ++
      (k, v) :: post.filter (fun w => !(partBad m ws).contains (codeword w.1)) := by
    have hkeep : (!(partBad m ws).contains (codeword k)) = true := by simpa using hgood
    conv_lhs => rw [heededWrites]; arg 2; rw [hws]
    rw [List.filter_append, List.filter_cons, if_pos hkeep]
  rw [byteAt_commit, hsplit]
  exact get_foldl_put_last Prod.fst Prod.snd m.bytes fun w hw => hlast w (List.mem_of_mem_filter hw)

/-- R182: a codeword that writes cover in part is not one that they cover whole. -/
theorem ne_of_mem_wholeBad_of_mem_partBad {m : Mem} {ws : List (Nat × Byte)} {c d : Nat} (hc : c ∈ partBad m ws)
    (hd : d ∈ wholeBad m ws) : d ≠ c := by
  rintro rfl
  simp only [partBad, wholeBad, List.mem_filter, Bool.and_eq_true, Bool.not_eq_true'] at hc hd
  exact absurd hd.2 (by rw [hc.2.2]; exact Bool.false_ne_true)

theorem bad_commit_of_partBad (m : Mem) (ws : List (Nat × Byte)) (c : Nat) (h : c ∈ partBad m ws) :
    (commit m ws).bad.get 0 c = m.bad.get 0 c :=
  get_foldl_put_other id (fun _ => 0) _ _ _ fun _ hd => ne_of_mem_wholeBad_of_mem_partBad h hd

theorem get_foldl_erase {l : List Nat} {c : Nat} (t : Tab Byte) (h : t.get 0 c = 0 ∨ c ∈ l) :
    (l.foldl (fun t c => t.put 0 c 0) t).get 0 c = 0 := by
  induction l generalizing t with
  | nil => simpa using h
  | cons d l ih =>
    refine ih _ ?_
    by_cases hc : c = d
    · exact .inl (hc ▸ Tab.get_put_same t)
    · rw [Tab.get_put_other t hc]
      exact h.imp_right fun h => (List.mem_cons.mp h).resolve_left hc

theorem bad_commit_of_wholeBad (m : Mem) (ws : List (Nat × Byte)) (c : Nat) (h : c ∈ wholeBad m ws) :
    (commit m ws).bad.get 0 c = 0 :=
  get_foldl_erase m.bad (.inr h)

/-- Settles O4: of the writes, those to codewords covered in part are dropped, the last of the others counts, and the codewords covered
whole lose their marks. -/
theorem writesReadBack : Obligations.WritesReadBack := fun m ws =>
  ⟨byteAt_commit_of_unnamed m ws, fun k h => ⟨byteAt_commit_of_partBad m ws k h, bad_commit_of_partBad m ws _ h⟩,
    fun _ _ _ _ hgood hws hlast => byteAt_commit_last m hgood hws hlast, bad_commit_of_wholeBad m ws⟩

end Sys2Proof.Machine
end

section
/-! PROOFS. The cap ceiling that an OP_SET predicts (R417, R419) and the clock of a share (R420). -/

namespace Sys2Proof.Machine

/-! ### The last element of a sorted list that a test picks -/

theorem lt_of_getLast?_filter {α : Type} [LinearOrder α] {p : α → Bool} {l : List α} {a b : α} (hl : l.Pairwise (· < ·))
    (ha : (l.filter p).getLast? = some a) (hb : b ∈ l) (hab : a < b) : p b = false := by
  by_contra hp
  have hmem : b ∈ l.filter p := List.mem_filter.mpr ⟨hb, by simpa using hp⟩
  obtain ⟨front, hfront⟩ := List.getLast?_eq_some_iff.mp ha
  have hsorted : (front ++ [a]).Pairwise (· < ·) := hfront ▸ hl.filter p
  rw [hfront, List.mem_append, List.mem_singleton] at hmem
  rcases hmem with hmem | rfl
  · exact absurd (List.pairwise_append.mp hsorted |>.2.2 b hmem a (List.mem_singleton.mpr rfl)) (not_lt.mpr hab.le)
  · exact lt_irrefl _ hab

/-! ### The cap ceiling -/

theorem getLast?_filter_eq_some {α : Type} [LinearOrder α] {p : α → Bool} {l : List α} {a : α} (hl : l.Pairwise (· < ·)) (ha : a ∈ l)
    (hp : p a = true) (habove : ∀ b ∈ l, a < b → p b = false) : (l.filter p).getLast? = some a := by
  have hmem : a ∈ l.filter p := List.mem_filter.mpr ⟨ha, hp⟩
  obtain ⟨c, hc⟩ : ∃ c, (l.filter p).getLast? = some c := ⟨_, List.getLast?_eq_some_getLast (List.ne_nil_of_mem hmem)⟩
  obtain ⟨hcl, hpc⟩ := List.mem_filter.mp (List.mem_of_getLast? hc)
  rcases lt_trichotomy a c with hac | rfl | hca
  · exact absurd hpc (by simp [habove c hcl hac])
  · exact hc
  · exact absurd hp (by simp [lt_of_getLast?_filter hl hc ha hca])

theorem predictCeiling_of_fits {s : State} {o : Nat} (ho : o ≤ 5) (hfit : ceilingFits s o = true)
    (habove : ∀ k, o < k → k ≤ 5 → ceilingFits s k = false) :
    predictCeiling s = { s with pwr := { s.pwr with capCeil := o, capFits := none } } := by
  have hlast : ((List.range 6).filter (ceilingFits s)).getLast? = some o :=
    getLast?_filter_eq_some List.pairwise_lt_range (List.mem_range.mpr (by omega)) hfit fun b hb hob =>
      habove b hob (by have := List.mem_range.mp hb; omega)
  rw [predictCeiling, hlast]
  rfl

theorem predictCeiling_of_none_fits {s : State} (h : ∀ k ≤ 5, ceilingFits s k = false) :
    predictCeiling s = { s with pwr := { s.pwr with capCeil := 0, capUnmet := true, capFits := none } } := by
  have hnone : (List.range 6).filter (ceilingFits s) = [] := by
    simp only [List.filter_eq_nil_iff, List.mem_range]
    exact fun k hk => by simp [h k (by omega)]
  rw [predictCeiling, hnone]
  rfl

/-! ### The clock of a share -/

/-- R420: the draw of a clock of `f` MHz fits the budget of a die at an effective OP with a share. -/
def budgetFits (eff : Nat) (share : Int) (f : Nat) : Bool :=
  decide (20 * draw600 f ≤ (20 + share).toNat * (600 * opDraw eff))

/-- R420: the steps of 25 MHz from 400 MHz to 1,350 MHz. -/
def clockSteps : List Nat := (List.range 39).map fun i => 400 + 25 * i

theorem mem_clockSteps {f : Nat} : f ∈ clockSteps ↔ f % 25 = 0 ∧ 400 ≤ f ∧ f ≤ 1350 := by
  simp only [clockSteps, List.mem_map, List.mem_range]
  constructor
  · rintro ⟨i, hi, rfl⟩
    omega
  · rintro ⟨hmod, hlo, hhi⟩
    exact ⟨(f - 400) / 25, by omega, by omega⟩

theorem clockSteps_sorted : clockSteps.Pairwise (· < ·) :=
  List.pairwise_lt_range.map _ fun _ _ h => by omega

theorem clockFor_of_share_ne {share : Int} (eff : Nat) (h : share ≠ 0) :
    clockFor eff share = (clockSteps.filter (budgetFits eff share)).getLast?.getD 400 := if_neg h

/-- R420: a clock above 400 MHz is the last of the steps that fit the budget. -/
theorem clockFor_above {eff f : Nat} {share : Int} (hshare : share ≠ 0) (hf : clockFor eff share = f) (hne : f ≠ 400) :
    (clockSteps.filter (budgetFits eff share)).getLast? = some f := by
  rw [clockFor_of_share_ne eff hshare] at hf
  cases hlast : (clockSteps.filter (budgetFits eff share)).getLast? <;> rw [hlast] at hf
  case none => exact absurd hf.symm hne
  case some g => exact congrArg some hf

/-- Settles O54: the list of OPs and the list of clock steps rise, so that the last one that fits is the highest. -/
theorem powerPolicySetsTheClock : Obligations.PowerPolicySetsTheClock := by
  refine ⟨⟨fun s o => predictCeiling_of_fits, fun s => predictCeiling_of_none_fits⟩, ?clock, by decide, by decide, fun _ => rfl⟩
  intro eff share f hshare hf hne
  have hlast := clockFor_above hshare hf hne
  obtain ⟨hstep, hfit⟩ := List.mem_filter.mp (List.mem_of_getLast? hlast)
  obtain ⟨hmod, hlo, hhi⟩ := mem_clockSteps.mp hstep
  refine ⟨hmod, by omega, hhi, of_decide_eq_true hfit, fun g hfg hg hgmod => ?_⟩
  have hnot := lt_of_getLast?_filter clockSteps_sorted hlast (mem_clockSteps.mpr ⟨hgmod, by omega, hg⟩) hfg
  exact not_le.mp (of_decide_eq_false hnot)

end Sys2Proof.Machine
end

section
/-! PROOFS. What an operation leaves of a state beside the fields it may change: `outside fs s` forgets the fields `fs` of `s`, so that
`outside fs (f s) = outside fs s` says that `f` changes no other field. -/

namespace Sys2Proof.Machine

/-- The fields of `State`, and the repaired and pending rows within `hw`, which a reset of a die changes. -/
inductive Field where
  | hw | rows | ms | pins | clk | host | ft | wdog | claims
  | pwr | steer | link | adm | ember | yoke | lg | mem
  | cores | he | sync | guard | lag | streams | coll | duest
  | bringup | bist | trust | jtag | descs | out | freeCtr | pending
deriving DecidableEq

/-- What a module is built as and the field fuses it has used: the rows that these repair are forgotten. -/
def Hw.withoutRows (x : Hw) : Hw := { x with badRow := State.reset.hw.badRow, pendingRow := State.reset.hw.pendingRow }

/-- A state with some fields forgotten: they stand as after reset. -/
def outside (fs : List Field) (s : State) : State :=
  let r := State.reset
  { hw := bif fs.contains .hw then r.hw else bif fs.contains .rows then s.hw.withoutRows else s.hw,
    ms := bif fs.contains .ms then r.ms else s.ms,
    pins := bif fs.contains .pins then r.pins else s.pins,
    clk := bif fs.contains .clk then r.clk else s.clk,
    host := bif fs.contains .host then r.host else s.host,
    ft := bif fs.contains .ft then r.ft else s.ft,
    wdog := bif fs.contains .wdog then r.wdog else s.wdog,
    claims := bif fs.contains .claims then r.claims else s.claims,
    pwr := bif fs.contains .pwr then r.pwr else s.pwr,
    steer := bif fs.contains .steer then r.steer else s.steer,
    link := bif fs.contains .link then r.link else s.link,
    adm := bif fs.contains .adm then r.adm else s.adm,
    ember := bif fs.contains .ember then r.ember else s.ember,
    yoke := bif fs.contains .yoke then r.yoke else s.yoke,
    lg := bif fs.contains .lg then r.lg else s.lg,
    mem := bif fs.contains .mem then r.mem else s.mem,
    cores := bif fs.contains .cores then r.cores else s.cores,
    he := bif fs.contains .he then r.he else s.he,
    sync := bif fs.contains .sync then r.sync else s.sync,
    guard := bif fs.contains .guard then r.guard else s.guard,
    lag := bif fs.contains .lag then r.lag else s.lag,
    streams := bif fs.contains .streams then r.streams else s.streams,
    coll := bif fs.contains .coll then r.coll else s.coll,
    duest := bif fs.contains .duest then r.duest else s.duest,
    bringup := bif fs.contains .bringup then r.bringup else s.bringup,
    bist := bif fs.contains .bist then r.bist else s.bist,
    trust := bif fs.contains .trust then r.trust else s.trust,
    jtag := bif fs.contains .jtag then r.jtag else s.jtag,
    descs := bif fs.contains .descs then r.descs else s.descs,
    out := bif fs.contains .out then r.out else s.out,
    freeCtr := bif fs.contains .freeCtr then r.freeCtr else s.freeCtr,
    pending := bif fs.contains .pending then r.pending else s.pending }

variable {fs gs : List Field} {s t : State}

/-! ### What an equation of this form gives -/

theorem outside_eq_iff : outside fs s = outside fs t ↔
    ((.hw ∉ fs → s.hw.withoutRows = t.hw.withoutRows) ∧ (.hw ∉ fs → .rows ∉ fs → s.hw = t.hw)) ∧ (.ms ∉ fs → s.ms = t.ms) ∧
    (.pins ∉ fs → s.pins = t.pins) ∧ (.clk ∉ fs → s.clk = t.clk) ∧
    (.host ∉ fs → s.host = t.host) ∧ (.ft ∉ fs → s.ft = t.ft) ∧
    (.wdog ∉ fs → s.wdog = t.wdog) ∧ (.claims ∉ fs → s.claims = t.claims) ∧
    (.pwr ∉ fs → s.pwr = t.pwr) ∧ (.steer ∉ fs → s.steer = t.steer) ∧
    (.link ∉ fs → s.link = t.link) ∧ (.adm ∉ fs → s.adm = t.adm) ∧
    (.ember ∉ fs → s.ember = t.ember) ∧ (.yoke ∉ fs → s.yoke = t.yoke) ∧
    (.lg ∉ fs → s.lg = t.lg) ∧ (.mem ∉ fs → s.mem = t.mem) ∧
    (.cores ∉ fs → s.cores = t.cores) ∧ (.he ∉ fs → s.he = t.he) ∧
    (.sync ∉ fs → s.sync = t.sync) ∧ (.guard ∉ fs → s.guard = t.guard) ∧
    (.lag ∉ fs → s.lag = t.lag) ∧ (.streams ∉ fs → s.streams = t.streams) ∧
    (.coll ∉ fs → s.coll = t.coll) ∧ (.duest ∉ fs → s.duest = t.duest) ∧
    (.bringup ∉ fs → s.bringup = t.bringup) ∧ (.bist ∉ fs → s.bist = t.bist) ∧
    (.trust ∉ fs → s.trust = t.trust) ∧ (.jtag ∉ fs → s.jtag = t.jtag) ∧
    (.descs ∉ fs → s.descs = t.descs) ∧ (.out ∉ fs → s.out = t.out) ∧
    (.freeCtr ∉ fs → s.freeCtr = t.freeCtr) ∧ (.pending ∉ fs → s.pending = t.pending) := by
  have keep {α : Type} (f : Field) (d a b : α) :
      ((bif fs.contains f then d else a) = (bif fs.contains f then d else b)) ↔ (f ∉ fs → a = b) := by
    by_cases h : f ∈ fs <;> simp [h]
  have hrows : ((bif fs.contains .rows then s.hw.withoutRows else s.hw) = (bif fs.contains .rows then t.hw.withoutRows else t.hw)) ↔
      s.hw.withoutRows = t.hw.withoutRows ∧ (.rows ∉ fs → s.hw = t.hw) := by
    by_cases h : .rows ∈ fs
    · simp [h]
    · simp only [h, List.contains_eq_mem, decide_false, cond_false, not_false_eq_true, true_implies]
      exact ⟨fun heq => ⟨congrArg _ heq, heq⟩, And.right⟩
  simp only [outside, State.mk.injEq, keep, hrows, imp_and]

/-- A state that differs in some fields differs in more at most. -/
theorem outside_mono (hsub : fs ⊆ gs) (h : outside fs s = outside fs t) : outside gs s = outside gs t := by
  have weaken {f : Field} {p : Prop} (hp : f ∉ fs → p) (hf : f ∉ gs) : p := hp fun hfs => hf (hsub hfs)
  rw [outside_eq_iff] at h ⊢
  obtain ⟨⟨h0, h0'⟩, h1, h2, h3, h4, h5, h6, h7, h8, h9, h10, h11, h12, h13, h14, h15, h16, h17, h18, h19, h20, h21, h22, h23, h24, h25, h26, h27, h28, h29, h30, h31⟩ := h
  exact ⟨⟨weaken h0, fun hhw => weaken (fun hrows => weaken (fun hhw => h0' hhw hrows) hhw)⟩, weaken h1, weaken h2, weaken h3, weaken h4, weaken h5, weaken h6, weaken h7, weaken h8, weaken h9, weaken h10, weaken h11, weaken h12, weaken h13, weaken h14, weaken h15, weaken h16, weaken h17, weaken h18, weaken h19, weaken h20, weaken h21, weaken h22, weaken h23, weaken h24, weaken h25, weaken h26, weaken h27, weaken h28, weaken h29, weaken h30, weaken h31⟩

/-! ### One field written -/

@[simp] theorem outside_with_hw (h : .hw ∈ fs) (s : State) (x) : outside fs { s with hw := x } = outside fs s := by
  simp [outside, h]

@[simp] theorem outside_with_rows (h : .rows ∈ fs) (s : State) (x y) :
    outside fs { s with hw := { s.hw with badRow := x, pendingRow := y } } = outside fs s := by
  simp [outside, h, Hw.withoutRows]

@[simp] theorem outside_with_ms (h : .ms ∈ fs) (s : State) (x) : outside fs { s with ms := x } = outside fs s := by
  simp [outside, h]

@[simp] theorem outside_with_pins (h : .pins ∈ fs) (s : State) (x) : outside fs { s with pins := x } = outside fs s := by
  simp [outside, h]

@[simp] theorem outside_with_clk (h : .clk ∈ fs) (s : State) (x) : outside fs { s with clk := x } = outside fs s := by
  simp [outside, h]

@[simp] theorem outside_with_host (h : .host ∈ fs) (s : State) (x) : outside fs { s with host := x } = outside fs s := by
  simp [outside, h]

@[simp] theorem outside_with_ft (h : .ft ∈ fs) (s : State) (x) : outside fs { s with ft := x } = outside fs s := by
  simp [outside, h]

@[simp] theorem outside_with_wdog (h : .wdog ∈ fs) (s : State) (x) : outside fs { s with wdog := x } = outside fs s := by
  simp [outside, h]

@[simp] theorem outside_with_claims (h : .claims ∈ fs) (s : State) (x) : outside fs { s with claims := x } = outside fs s := by
  simp [outside, h]

@[simp] theorem outside_with_pwr (h : .pwr ∈ fs) (s : State) (x) : outside fs { s with pwr := x } = outside fs s := by
  simp [outside, h]

@[simp] theorem outside_with_steer (h : .steer ∈ fs) (s : State) (x) : outside fs { s with steer := x } = outside fs s := by
  simp [outside, h]

@[simp] theorem outside_with_link (h : .link ∈ fs) (s : State) (x) : outside fs { s with link := x } = outside fs s := by
  simp [outside, h]

@[simp] theorem outside_with_adm (h : .adm ∈ fs) (s : State) (x) : outside fs { s with adm := x } = outside fs s := by
  simp [outside, h]

@[simp] theorem outside_with_ember (h : .ember ∈ fs) (s : State) (x) : outside fs { s with ember := x } = outside fs s := by
  simp [outside, h]

@[simp] theorem outside_with_yoke (h : .yoke ∈ fs) (s : State) (x) : outside fs { s with yoke := x } = outside fs s := by
  simp [outside, h]

@[simp] theorem outside_with_lg (h : .lg ∈ fs) (s : State) (x) : outside fs { s with lg := x } = outside fs s := by
  simp [outside, h]

@[simp] theorem outside_with_mem (h : .mem ∈ fs) (s : State) (x) : outside fs { s with mem := x } = outside fs s := by
  simp [outside, h]

@[simp] theorem outside_with_cores (h : .cores ∈ fs) (s : State) (x) : outside fs { s with cores := x } = outside fs s := by
  simp [outside, h]

@[simp] theorem outside_with_he (h : .he ∈ fs) (s : State) (x) : outside fs { s with he := x } = outside fs s := by
  simp [outside, h]

@[simp] theorem outside_with_sync (h : .sync ∈ fs) (s : State) (x) : outside fs { s with sync := x } = outside fs s := by
  simp [outside, h]

@[simp] theorem outside_with_guard (h : .guard ∈ fs) (s : State) (x) : outside fs { s with guard := x } = outside fs s := by
  simp [outside, h]

@[simp] theorem outside_with_lag (h : .lag ∈ fs) (s : State) (x) : outside fs { s with lag := x } = outside fs s := by
  simp [outside, h]

@[simp] theorem outside_with_streams (h : .streams ∈ fs) (s : State) (x) : outside fs { s with streams := x } = outside fs s := by
  simp [outside, h]

@[simp] theorem outside_with_coll (h : .coll ∈ fs) (s : State) (x) : outside fs { s with coll := x } = outside fs s := by
  simp [outside, h]

@[simp] theorem outside_with_duest (h : .duest ∈ fs) (s : State) (x) : outside fs { s with duest := x } = outside fs s := by
  simp [outside, h]

@[simp] theorem outside_with_bringup (h : .bringup ∈ fs) (s : State) (x) : outside fs { s with bringup := x } = outside fs s := by
  simp [outside, h]

@[simp] theorem outside_with_bist (h : .bist ∈ fs) (s : State) (x) : outside fs { s with bist := x } = outside fs s := by
  simp [outside, h]

@[simp] theorem outside_with_trust (h : .trust ∈ fs) (s : State) (x) : outside fs { s with trust := x } = outside fs s := by
  simp [outside, h]

@[simp] theorem outside_with_jtag (h : .jtag ∈ fs) (s : State) (x) : outside fs { s with jtag := x } = outside fs s := by
  simp [outside, h]

@[simp] theorem outside_with_descs (h : .descs ∈ fs) (s : State) (x) : outside fs { s with descs := x } = outside fs s := by
  simp [outside, h]

@[simp] theorem outside_with_out (h : .out ∈ fs) (s : State) (x) : outside fs { s with out := x } = outside fs s := by
  simp [outside, h]

@[simp] theorem outside_with_freeCtr (h : .freeCtr ∈ fs) (s : State) (x) : outside fs { s with freeCtr := x } = outside fs s := by
  simp [outside, h]

@[simp] theorem outside_with_pending (h : .pending ∈ fs) (s : State) (x) : outside fs { s with pending := x } = outside fs s := by
  simp [outside, h]

/-! ### Several fields written -/

@[simp] theorem outside_with_ember_yoke (h : [.ember, .yoke] ⊆ fs) (s : State) (x y) :
    outside fs { s with ember := x, yoke := y } = outside fs s := outside_mono h rfl

@[simp] theorem outside_with_ember_mem (h : [.ember, .mem] ⊆ fs) (s : State) (x y) :
    outside fs { s with ember := x, mem := y } = outside fs s := outside_mono h rfl

@[simp] theorem outside_with_link_yoke (h : [.link, .yoke] ⊆ fs) (s : State) (x y) :
    outside fs { s with link := x, yoke := y } = outside fs s := outside_mono h rfl

@[simp] theorem outside_with_link_yoke_freeCtr (h : [.link, .yoke, .freeCtr] ⊆ fs) (s : State) (x y z) :
    outside fs { s with link := x, yoke := y, freeCtr := z } = outside fs s := outside_mono h rfl

@[simp] theorem outside_with_ms_ft (h : [.ms, .ft] ⊆ fs) (s : State) (x y) :
    outside fs { s with ms := x, ft := y } = outside fs s := outside_mono h rfl

@[simp] theorem outside_with_ms_pwr (h : [.ms, .pwr] ⊆ fs) (s : State) (x y) :
    outside fs { s with ms := x, pwr := y } = outside fs s := outside_mono h rfl

@[simp] theorem outside_with_ms_pwr_bist (h : [.ms, .pwr, .bist] ⊆ fs) (s : State) (x y z) :
    outside fs { s with ms := x, pwr := y, bist := z } = outside fs s := outside_mono h rfl

@[simp] theorem outside_with_ms_pins_pwr_trust (h : [.ms, .pins, .pwr, .trust] ⊆ fs) (s : State) (x y z u) :
    outside fs { s with ms := x, pins := y, pwr := z, trust := u } = outside fs s := outside_mono h rfl

@[simp] theorem outside_with_ms_pins_ft_pwr (h : [.ms, .pins, .ft, .pwr] ⊆ fs) (s : State) (x y z u) :
    outside fs { s with ms := x, pins := y, ft := z, pwr := u } = outside fs s := outside_mono h rfl

@[simp] theorem outside_with_ms_bringup_jtag (h : [.ms, .bringup, .jtag] ⊆ fs) (s : State) (x y z) :
    outside fs { s with ms := x, bringup := y, jtag := z } = outside fs s := outside_mono h rfl

@[simp] theorem outside_with_pwr_steer (h : [.pwr, .steer] ⊆ fs) (s : State) (x y) :
    outside fs { s with pwr := x, steer := y } = outside fs s := outside_mono h rfl

@[simp] theorem outside_with_pwr_ember_mem (h : [.pwr, .ember, .mem] ⊆ fs) (s : State) (x y z) :
    outside fs { s with pwr := x, ember := y, mem := z } = outside fs s := outside_mono h rfl

@[simp] theorem outside_with_yoke_streams_bringup (h : [.yoke, .streams, .bringup] ⊆ fs) (s : State) (x y z) :
    outside fs { s with yoke := x, streams := y, bringup := z } = outside fs s := outside_mono h rfl

@[simp] theorem outside_with_mem_freeCtr (h : [.mem, .freeCtr] ⊆ fs) (s : State) (x y) :
    outside fs { s with mem := x, freeCtr := y } = outside fs s := outside_mono h rfl

@[simp] theorem outside_with_ft_lag (h : [.ft, .lag] ⊆ fs) (s : State) (x y) :
    outside fs { s with ft := x, lag := y } = outside fs s := outside_mono h rfl

@[simp] theorem outside_with_ft_guard (h : [.ft, .guard] ⊆ fs) (s : State) (x y) :
    outside fs { s with ft := x, guard := y } = outside fs s := outside_mono h rfl

/-! ### Branches and folds -/

@[simp] theorem outside_ite (c : Prop) [Decidable c] (s t : State) :
    outside fs (if c then s else t) = if c then outside fs s else outside fs t := apply_ite ..

@[simp] theorem outside_foldl {α : Type} (f : State → α → State) (h : ∀ s a, outside fs (f s a) = outside fs s) (l : List α) (s : State) :
    outside fs (l.foldl f s) = outside fs s := by
  induction l generalizing s with
  | nil => rfl
  | cons a l ih => rw [List.foldl_cons, ih, h]

@[simp] theorem outside_foldl_snd {α β : Type} (f : β × State → α → β × State) (h : ∀ x a, outside fs (f x a).2 = outside fs x.2)
    (l : List α) (x : β × State) : outside fs (l.foldl f x).2 = outside fs x.2 := by
  induction l generalizing x with
  | nil => rfl
  | cons a l ih => rw [List.foldl_cons, ih, h]

end Sys2Proof.Machine
end

section
/-! PROOFS. Which fields the operations may change that every unit shares, and those of rings, contexts, the host unit and Field Time. -/

namespace Sys2Proof.Machine

variable {fs : List Field}

@[simp] theorem drawFree_outside (h : [.freeCtr] ⊆ fs) (s : State) :
    outside fs (drawFree s).2 = outside fs s := outside_mono h (by simp [drawFree])

@[simp] theorem choose_outside (h : [.freeCtr] ⊆ fs) (n) (s : State) :
    outside fs (choose n s).2 = outside fs s := outside_mono h (by simp [choose])

@[simp] theorem pickOrder_outside {α : Type} (h : [.freeCtr] ⊆ fs) (n : Nat) (acc rest : List α) (s : State) :
    outside fs (pickOrder n acc rest s).2 = outside fs s := by
  induction n generalizing acc rest s with
  | zero => rfl
  | succ n ih =>
    match rest with
    | [] => rfl
    | [x] => rfl
    | y :: z :: ys => simp [pickOrder, ih, h]

@[simp] theorem shuffle_outside {α : Type} (h : [.freeCtr] ⊆ fs) (xs : List α) (s : State) :
    outside fs (shuffle xs s).2 = outside fs s := pickOrder_outside h _ _ _ s

@[simp] theorem emit_outside (h : [.out] ⊆ fs) (o) (s : State) :
    outside fs (emit o s) = outside fs s := outside_mono h (by simp [emit])

@[simp] theorem setMsix_outside (h : [.host] ⊆ fs) (v e) (s : State) :
    outside fs (setMsix v e s) = outside fs s := outside_mono h (by simp [setMsix])

@[simp] theorem raiseVector_outside (h : [.host, .out] ⊆ fs) (v) (s : State) :
    outside fs (raiseVector v s) = outside fs s := outside_mono h (by simp [raiseVector])

@[simp] theorem setSring_outside (h : [.host] ⊆ fs) (n r) (s : State) :
    outside fs (setSring n r s) = outside fs s := outside_mono h (by simp [setSring])

@[simp] theorem setCring_outside (h : [.host] ⊆ fs) (n r) (s : State) :
    outside fs (setCring n r s) = outside fs s := outside_mono h (by simp [setCring])

@[simp] theorem setCtx_outside (h : [.host] ⊆ fs) (n c) (s : State) :
    outside fs (setCtx n c s) = outside fs s := outside_mono h (by simp [setCtx])

@[simp] theorem setPort_outside (h : [.link] ⊆ fs) (p x) (s : State) :
    outside fs (setPort p x s) = outside fs s := outside_mono h (by simp [setPort])

@[simp] theorem setPlan_outside (h : [.ft] ⊆ fs) (b x) (s : State) :
    outside fs (setPlan b x s) = outside fs s := outside_mono h (by simp [setPlan])

@[simp] theorem setPwrDie_outside (h : [.pwr] ⊆ fs) (n x) (s : State) :
    outside fs (setPwrDie n x s) = outside fs s := outside_mono h (by simp [setPwrDie])

@[simp] theorem claimEvent_outside (h : [.host, .claims, .out] ⊆ fs) (resource kind claimant holder) (s : State) :
    outside fs (claimEvent resource kind claimant holder s) = outside fs s := outside_mono h (by simp [claimEvent])

@[simp] theorem claimDrop_outside (h : [.pins, .ft, .pwr, .link] ⊆ fs) (r) (s : State) :
    outside fs (claimDrop r s) = outside fs s := by
  refine outside_mono h ?_
  unfold claimDrop
  split <;> simp

@[simp] theorem claimTake_outside (h : [.ft, .wdog, .link, .yoke] ⊆ fs) (r) (s : State) :
    outside fs (claimTake r s) = outside fs s := by
  refine outside_mono h ?_
  unfold claimTake
  split <;> simp

@[simp] theorem claimHigh_outside (h : [.pins, .host, .ft, .wdog, .claims, .pwr, .link, .yoke, .out] ⊆ fs) (r) (s : State) :
    outside fs (claimHigh r s) = outside fs s := outside_mono h (by simp [claimHigh])

@[simp] theorem claimLow_outside (h : [.host, .claims, .out] ⊆ fs) (r grant) (s : State) (hgrant : ∀ s, outside fs (grant s) = outside fs s) :
    outside fs (claimLow r grant s) = outside fs s := by
  rw [List.cons_subset] at h
  unfold claimLow; split <;> simp_all

@[simp] theorem updDesc_outside (h : [.descs] ⊆ fs) (r f) (s : State) :
    outside fs (updDesc r f s) = outside fs s := outside_mono h (by simp [updDesc])

@[simp] theorem dropDesc_outside (h : [.descs] ⊆ fs) (r) (s : State) :
    outside fs (dropDesc r s) = outside fs s := outside_mono h (by simp [dropDesc])

@[simp] theorem finishCopy_outside (h : [.descs] ⊆ fs) (r t rep) (s : State) :
    outside fs (finishCopy r t rep s) = outside fs s := outside_mono h (by simp [finishCopy])

@[simp] theorem finishAll_outside (h : [.descs] ⊆ fs) (r rep) (s : State) :
    outside fs (finishAll r rep s) = outside fs s := outside_mono h (by simp [finishAll])

@[simp] theorem setOne_outside (h : [.descs] ⊆ fs) (r status detail core) (s : State) :
    outside fs (setOne r status detail core s) = outside fs s := outside_mono h (by simp [setOne])

@[simp] theorem setOutcome_outside (h : [.descs] ⊆ fs) (r status detail core) (s : State) :
    outside fs (setOutcome r status detail core s) = outside fs s := by
  refine outside_mono h ?_
  unfold setOutcome
  split <;> simp

@[simp] theorem invalid_outside (h : [.descs] ⊆ fs) (r off) (s : State) :
    outside fs (invalid r off s) = outside fs s := outside_mono h (by simp [invalid])

@[simp] theorem parkCopy_outside (h : [.host, .descs] ⊆ fs) (r t stage) (s : State) :
    outside fs (parkCopy r t stage s) = outside fs s := outside_mono h (by simp [parkCopy])

@[simp] theorem wakeCopies_outside (h : [.descs] ⊆ fs) (p) (s : State) :
    outside fs (wakeCopies p s) = outside fs s := outside_mono h (by simp [wakeCopies])

@[simp] theorem addMemErr_outside (h : [.mem] ⊆ fs) (e) (s : State) :
    outside fs (addMemErr e s).2 = outside fs s := outside_mono h (by simp [addMemErr])

@[simp] theorem logMemErr_outside (h : [.mem] ⊆ fs) (a p source unit core symbols) (s : State) :
    outside fs (logMemErr a p source unit core symbols s).2 = outside fs s := by
  refine outside_mono h ?_
  simp only [logMemErr]
  split <;> simp

@[simp] theorem logDropped_outside (h : [.mem] ⊆ fs) (cs m) (s : State) :
    outside fs (logDropped cs m s) = outside fs s := outside_mono h (by simp [logDropped])

@[simp] theorem commitNoted_outside (h : [.mem] ⊆ fs) (ws) (s : State) :
    outside fs (commitNoted ws s) = outside fs s := outside_mono h (by simp [commitNoted])

@[simp] theorem updCore_outside (h : [.cores] ⊆ fs) (c f) (s : State) :
    outside fs (updCore c f s) = outside fs s := outside_mono h (by simp [updCore])

@[simp] theorem setStream_outside (h : [.link] ⊆ fs) (k x) (s : State) :
    outside fs (setStream k x s) = outside fs s := outside_mono h (by simp [setStream])

@[simp] theorem takeSeq_outside (h : [.link] ⊆ fs) (k) (s : State) :
    outside fs (takeSeq k s).2 = outside fs s := outside_mono h (by simp [takeSeq])

@[simp] theorem asStarted_outside (h : [.mem] ⊆ fs) (d t) (s : State) :
    outside fs (asStarted d t s) = outside fs s := by
  refine outside_mono h ?_
  unfold asStarted
  split <;> simp

@[simp] theorem withSnap_outside (h : [.mem] ⊆ fs) (d) (s : State) :
    outside fs (withSnap d s) = outside fs s := by
  refine outside_mono h ?_
  unfold withSnap
  split <;> simp

@[simp] theorem sendFault_outside (h : [.link] ⊆ fs) (cause) (s : State) :
    outside fs (sendFault cause s) = outside fs s := outside_mono h (by simp [sendFault])

@[simp] theorem setMode_outside (h : [.ms, .host, .link, .out] ⊆ fs) (m cause) (s : State) :
    outside fs (setMode m cause s) = outside fs s := outside_mono h (by simp [setMode])

@[simp] theorem fenceDescs_outside (h : [.descs] ⊆ fs) (s : State) :
    outside fs (fenceDescs s) = outside fs s := outside_mono h (by simp [fenceDescs])

@[simp] theorem joinFault_outside (h : [.ms] ⊆ fs) (cause) (s : State) :
    outside fs (joinFault cause s) = outside fs s := outside_mono h (by simp [joinFault])

@[simp] theorem jobFault_outside (h : [.ms, .host, .link, .yoke, .descs, .out] ⊆ fs) (cause) (s : State) :
    outside fs (jobFault cause s) = outside fs s := by
  refine outside_mono h ?_
  unfold jobFault
  split <;> simp

@[simp] theorem memUncorrectable_outside (h : [.ms, .host, .link, .yoke, .mem, .descs, .out] ⊆ fs) (r t a p source symbols) (s : State) :
    outside fs (memUncorrectable r t a p source symbols s) = outside fs s := by
  refine outside_mono h ?_
  unfold memUncorrectable
  split <;> simp

@[simp] theorem setLgDom_outside (h : [.lg] ⊆ fs) (d x) (s : State) :
    outside fs (setLgDom d x s) = outside fs s := outside_mono h (by simp [setLgDom])

@[simp] theorem ledgerFault_outside (h : [.ms, .host, .link, .yoke, .lg, .descs, .out] ⊆ fs) (d kind holder r) (s : State) :
    outside fs (ledgerFault d kind holder r s) = outside fs s := by
  refine outside_mono h ?_
  unfold ledgerFault
  split <;> simp

@[simp] theorem parityCheck_outside (h : [.ms, .host, .link, .yoke, .lg, .descs, .out] ⊆ fs) (d) (s : State) :
    outside fs (parityCheck d s) = outside fs s := outside_mono h (by simp [parityCheck])

@[simp] theorem updLgDom_outside (h : [.ms, .host, .link, .yoke, .lg, .descs, .out] ⊆ fs) (d f) (s : State) :
    outside fs (updLgDom d f s) = outside fs s := outside_mono h (by simp [updLgDom])

@[simp] theorem ledgerTake_outside (h : [.ms, .host, .link, .yoke, .lg, .descs, .out] ⊆ fs) (d h' n) (s : State) :
    outside fs (ledgerTake d h' n s).2 = outside fs s := by
  refine outside_mono h ?_
  simp only [ledgerTake]
  split <;> simp

@[simp] theorem ledgerMove_outside (h : [.ms, .host, .link, .yoke, .lg, .descs, .out] ⊆ fs) (d h' n src dst r) (s : State) :
    outside fs (ledgerMove d h' n src dst r s).2 = outside fs s := by
  refine outside_mono h ?_
  simp only [ledgerMove]
  (repeat' split) <;> simp

@[simp] theorem setTotal_outside (h : [.ms, .host, .link, .yoke, .lg, .descs, .out] ⊆ fs) (d n) (s : State) :
    outside fs (setTotal d n s) = outside fs s := outside_mono h (by simp [setTotal])

@[simp] theorem ledgersFull_outside (h : [.ms, .host, .link, .yoke, .lg, .descs, .out] ⊆ fs) (pages) (s : State) :
    outside fs (ledgersFull pages s) = outside fs s := outside_mono h (by simp [ledgersFull])

@[simp] theorem ledgersKindling_outside (h : [.ms, .host, .link, .yoke, .lg, .descs, .out] ⊆ fs) (s : State) :
    outside fs (ledgersKindling s) = outside fs s := outside_mono h (by simp [ledgersKindling])

@[simp] theorem holdTokens_outside (h : [.ms, .host, .link, .yoke, .lg, .descs, .out] ⊆ fs) (d most draw h') (s : State) :
    outside fs (holdTokens d most draw h' s) = outside fs s := outside_mono h (by simp [holdTokens])

@[simp] theorem returnTokens_outside (h : [.ms, .host, .link, .yoke, .lg, .descs, .out] ⊆ fs) (d h') (s : State) :
    outside fs (returnTokens d h' s) = outside fs s := outside_mono h (by simp [returnTokens])

@[simp] theorem useTokens_outside (h : [.ms, .host, .link, .yoke, .lg, .descs, .out] ⊆ fs) (d most draw hs) (s : State) :
    outside fs (useTokens d most draw hs s) = outside fs s := outside_mono h (by simp [useTokens])

@[simp] theorem setPoolCh_outside (h : [.link] ⊆ fs) (c x) (s : State) :
    outside fs (setPoolCh c x s) = outside fs s := outside_mono h (by simp [setPoolCh])

@[simp] theorem setShared_outside (h : [.link] ⊆ fs) (n) (s : State) :
    outside fs (setShared n s) = outside fs s := outside_mono h (by simp [setShared])

@[simp] theorem poolTakeEffect_outside (h : [.link] ⊆ fs) (s : State) :
    outside fs (poolTakeEffect s) = outside fs s := outside_mono h (by simp [poolTakeEffect])

@[simp] theorem noteStamp_outside (h : [.ft] ⊆ fs) (p w) (s : State) :
    outside fs (noteStamp p w s) = outside fs s := by
  refine outside_mono h ?_
  unfold noteStamp
  split <;> simp

@[simp] theorem sendNow_outside (h : [.ft, .link, .out] ⊆ fs) (p w) (s : State) :
    outside fs (sendNow p w s) = outside fs s := outside_mono h (by simp [sendNow])

@[simp] theorem sendWord_outside (h : [.ft, .link, .out] ⊆ fs) (p w) (s : State) :
    outside fs (sendWord p w s) = outside fs s := outside_mono h (by simp [sendWord])

@[simp] theorem giveCredits_outside (h : [.ft, .link, .out] ⊆ fs) (p v n) (s : State) :
    outside fs (giveCredits p v n s) = outside fs s := outside_mono h (by simp [giveCredits])

@[simp] theorem poolOffer_outside (h : [.ms, .host, .ft, .link, .yoke, .lg, .descs, .out] ⊆ fs) (p) (s : State) :
    outside fs (poolOffer p s) = outside fs s := outside_mono h (by simp [poolOffer])

@[simp] theorem poolTraining_outside (h : [.ms, .host, .ft, .link, .yoke, .lg, .descs, .out] ⊆ fs) (p) (s : State) :
    outside fs (poolTraining p s) = outside fs s := by
  refine outside_mono h ?_
  unfold poolTraining
  split <;> simp

@[simp] theorem poolLeave_outside (h : [.ms, .host, .link, .yoke, .lg, .descs, .out] ⊆ fs) (p) (s : State) :
    outside fs (poolLeave p s) = outside fs s := outside_mono h (by simp [poolLeave])

@[simp] theorem poolArrive_outside (h : [.ms, .host, .ft, .link, .yoke, .lg, .descs, .out] ⊆ fs) (p v b) (s : State) :
    outside fs (poolArrive p v b s).2 = outside fs s := by
  refine outside_mono h ?_
  simp only [poolArrive]
  split <;> simp

@[simp] theorem poolFree_outside (h : [.ms, .host, .ft, .link, .yoke, .lg, .descs, .out] ⊆ fs) (p v n) (s : State) :
    outside fs (poolFree p v n s) = outside fs s := outside_mono h (by simp [poolFree])

@[simp] theorem setPath_outside (h : [.link] ⊆ fs) (k x) (s : State) :
    outside fs (setPath k x s) = outside fs s := outside_mono h (by simp [setPath])

@[simp] theorem noteRoute_outside (h : [.link] ⊆ fs) (p q) (s : State) :
    outside fs (noteRoute p q s) = outside fs s := outside_mono h (by simp [noteRoute])

@[simp] theorem enterPort_outside (h : [.ms, .host, .link, .yoke, .lg, .descs, .out] ⊆ fs) (p q) (s : State) :
    outside fs (enterPort p q s).2 = outside fs s := by
  refine outside_mono h ?_
  simp only [enterPort]
  split <;> simp

@[simp] theorem enqueue_outside (h : [.ms, .host, .link, .yoke, .lg, .descs, .out] ⊆ fs) (q) (s : State) :
    outside fs (enqueue q s) = outside fs s := by
  refine outside_mono h ?_
  simp only [enqueue]
  split <;> simp

@[simp] theorem sendAll_outside (h : [.ms, .host, .link, .yoke, .lg, .descs, .out] ⊆ fs) (ps) (s : State) :
    outside fs (sendAll ps s) = outside fs s := outside_mono h (by simp [sendAll])

@[simp] theorem drainBacklog_outside (h : [.ms, .host, .link, .yoke, .lg, .descs, .out] ⊆ fs) (s : State) :
    outside fs (drainBacklog s) = outside fs s := outside_mono h (by simp [drainBacklog])

@[simp] theorem retain_outside (h : [.link] ⊆ fs) (ps) (s : State) :
    outside fs (retain ps s) = outside fs s := outside_mono h (by simp [retain])

@[simp] theorem release_outside (h : [.link] ⊆ fs) (p) (s : State) :
    outside fs (release p s) = outside fs s := outside_mono h (by simp [release])

@[simp] theorem noteDegraded_outside (h : [.adm] ⊆ fs) (s : State) :
    outside fs (noteDegraded s) = outside fs s := by
  refine outside_mono h ?_
  unfold noteDegraded
  split <;> simp

@[simp] theorem movePacket_outside (h : [.ms, .host, .link, .yoke, .lg, .descs, .out] ⊆ fs) (q) (s : State) :
    outside fs (movePacket q s) = outside fs s := by
  refine outside_mono h ?_
  unfold movePacket
  split <;> simp

@[simp] theorem movePackets_outside (h : [.ms, .host, .link, .yoke, .lg, .descs, .out] ⊆ fs) (p) (s : State) :
    outside fs (movePackets p s) = outside fs s := outside_mono h (by simp [movePackets])

@[simp] theorem raisePort_outside (h : [.link] ⊆ fs) (p) (s : State) :
    outside fs (raisePort p s) = outside fs s := outside_mono h (by simp [raisePort])

@[simp] theorem sendHeld_outside (h : [.ms, .host, .link, .yoke, .lg, .descs, .out] ⊆ fs) (s : State) :
    outside fs (sendHeld s) = outside fs s := outside_mono h (by simp [sendHeld])

@[simp] theorem portUpNow_outside (h : [.ms, .host, .link, .yoke, .lg, .descs, .out] ⊆ fs) (p) (s : State) :
    outside fs (portUpNow p s) = outside fs s := outside_mono h (by simp [portUpNow])

@[simp] theorem reevaluate_outside (h : [.ms, .host, .link, .adm, .yoke, .lg, .descs, .out] ⊆ fs) (p) (s : State) :
    outside fs (reevaluate p s) = outside fs s := outside_mono h (by simp [reevaluate])

@[simp] theorem lanesLocking_outside (h : [.link, .freeCtr] ⊆ fs) (p) (s : State) :
    outside fs (lanesLocking p s) = outside fs s := outside_mono h (by simp [lanesLocking])

@[simp] theorem enterTraining_outside (h : [.ms, .host, .link, .adm, .yoke, .lg, .descs, .out, .freeCtr] ⊆ fs) (p) (s : State) :
    outside fs (enterTraining p s) = outside fs s := outside_mono h (by simp [enterTraining])

@[simp] theorem enterOff_outside (h : [.ms, .host, .link, .adm, .yoke, .lg, .descs, .out] ⊆ fs) (p) (s : State) :
    outside fs (enterOff p s) = outside fs s := outside_mono h (by simp [enterOff])

@[simp] theorem enterParked_outside (h : [.ms, .host, .ft, .link, .adm, .yoke, .lg, .descs, .out] ⊆ fs) (p h') (s : State) :
    outside fs (enterParked p h' s) = outside fs s := outside_mono h (by simp [enterParked])

@[simp] theorem enterRetrain_outside (h : [.link, .adm, .freeCtr] ⊆ fs) (p cause) (s : State) :
    outside fs (enterRetrain p cause s) = outside fs s := outside_mono h (by simp [enterRetrain])

@[simp] theorem portsStart_outside (h : [.ms, .host, .link, .adm, .yoke, .lg, .descs, .out, .freeCtr] ⊆ fs) (s : State) :
    outside fs (portsStart s) = outside fs s := outside_mono h (by simp [portsStart])

@[simp] theorem portsStop_outside (h : [.ms, .host, .link, .adm, .yoke, .lg, .descs, .out] ⊆ fs) (s : State) :
    outside fs (portsStop s) = outside fs s := outside_mono h (by simp [portsStop])

@[simp] theorem park_outside (h : [.link] ⊆ fs) (p) (s : State) :
    outside fs (park p s) = outside fs s := by
  refine outside_mono h ?_
  simp only [park]
  split <;> simp

@[simp] theorem withdraw_outside (h : [.link, .adm] ⊆ fs) (s : State) :
    outside fs (withdraw s) = outside fs s := outside_mono h (by simp [withdraw])

@[simp] theorem setEmberPage_outside (h : [.ember] ⊆ fs) (i x) (s : State) :
    outside fs (setEmberPage i x s) = outside fs s := outside_mono h (by simp [setEmberPage])

@[simp] theorem orderedWrites_outside (h : [.freeCtr] ⊆ fs) (owner adds ws) (s : State) :
    outside fs (orderedWrites owner adds ws s).2 = outside fs s := by
  refine outside_mono h ?_
  simp only [orderedWrites]
  (repeat' split) <;> simp

@[simp] theorem store_outside (h : [.ember, .mem, .freeCtr] ⊆ fs) (owner adds rq xs) (s : State) :
    outside fs (store owner adds rq xs s) = outside fs s := outside_mono h <|
  (rfl : _ = outside [.ember, .mem, .freeCtr] (orderedWrites _ _ _ s).2).trans (by simp)

@[simp] theorem settled_outside (h : [.mem] ⊆ fs) (s : State) :
    outside fs (settled s) = outside fs s := outside_mono h (by simp [settled])

@[simp] theorem storeReceived_outside (h : [.ember, .mem, .freeCtr] ⊆ fs) (rq xs) (s : State) :
    outside fs (storeReceived rq xs s) = outside fs s := outside_mono h (by simp [storeReceived])

@[simp] theorem storePiece_outside (h : [.ember, .mem, .freeCtr] ⊆ fs) (adds r t xs) (s : State) :
    outside fs (storePiece adds r t xs s) = outside fs s := outside_mono h (by simp [storePiece])

@[simp] theorem storeAs_outside (h : [.ms, .host, .link, .ember, .yoke, .mem, .descs, .out, .freeCtr] ⊆ fs) (adds r t rq xs) (s : State) :
    outside fs (storeAs adds r t rq xs s) = outside fs s := by
  refine outside_mono h ?_
  simp only [storeAs]
  split <;> simp

@[simp] theorem storeBy_outside (h : [.ms, .host, .link, .ember, .yoke, .mem, .descs, .out, .freeCtr] ⊆ fs) (r t rq xs) (s : State) :
    outside fs (storeBy r t rq xs s) = outside fs s := outside_mono h (by simp [storeBy])

@[simp] theorem notePageErrors_outside (h : [.mem] ⊆ fs) (n p) (s : State) :
    outside fs (notePageErrors n p s) = outside fs s := outside_mono h (by simp [notePageErrors])

@[simp] theorem yokeMessage_outside (h : [.ms, .host, .link, .yoke, .lg, .descs, .out] ⊆ fs) (type vc stream arg0 arg1 payload) (s : State) :
    outside fs (yokeMessage type vc stream arg0 arg1 payload s) = outside fs s := outside_mono h (by simp [yokeMessage])

@[simp] theorem yokeSend_outside (h : [.ms, .host, .link, .yoke, .lg, .descs, .out] ⊆ fs) (kind arg1) (s : State) :
    outside fs (yokeSend kind arg1 s) = outside fs s := outside_mono h (by simp [yokeSend])

@[simp] theorem setPartner_outside (h : [.host, .yoke, .out] ⊆ fs) (v) (s : State) :
    outside fs (setPartner v s) = outside fs s := outside_mono h (by simp [setPartner])

@[simp] theorem putLog_outside (h : [.mem] ⊆ fs) (o bs) (s : State) :
    outside fs (putLog o bs s) = outside fs s := outside_mono h (by simp [putLog])

@[simp] theorem appendRaw_outside (h : [.ms, .host, .link, .ember, .yoke, .lg, .mem, .descs, .out] ⊆ fs) (bs) (s : State) :
    outside fs (appendRaw bs s) = outside fs s := outside_mono h (by simp [appendRaw])

@[simp] theorem appendEntry_outside (h : [.ms, .host, .link, .ember, .yoke, .lg, .mem, .descs, .out] ⊆ fs) (kind payload) (s : State) :
    outside fs (appendEntry kind payload s) = outside fs s := outside_mono h (by simp [appendEntry])

@[simp] theorem logEvent_outside (h : [.ms, .host, .link, .ember, .yoke, .lg, .mem, .descs, .out] ⊆ fs) (kind payload) (s : State) :
    outside fs (logEvent kind payload s) = outside fs s := outside_mono h (by simp [logEvent])

@[simp] theorem bar0Write_outside (h : [.ms, .host, .link, .ember, .yoke, .lg, .mem, .descs, .out] ⊆ fs) (off v f) (s : State) (hf : ∀ s, outside fs (f s) = outside fs s) :
    outside fs (bar0Write off v f s) = outside fs s := by
  rw [bar0Write]
  split
  · rw [hf]; split <;> simp [h]
  · rfl

@[simp] theorem stopRing_outside (h : [.host, .out] ⊆ fs) (n code) (s : State) :
    outside fs (stopRing n code s) = outside fs s := outside_mono h (by simp [stopRing])

@[simp] theorem judgeRing_outside (h : [.host, .out] ⊆ fs) (n) (s : State) :
    outside fs (judgeRing n s) = outside fs s := outside_mono h (by simp [judgeRing])

@[simp] theorem takeCons_outside (h : [.host, .out] ⊆ fs) (n v fresh) (s : State) :
    outside fs (takeCons n v fresh s) = outside fs s := by
  refine outside_mono h ?_
  simp only [takeCons]
  (repeat' split) <;> simp

@[simp] theorem takeField_outside (h : [.host, .out] ⊆ fs) (i v) (s : State) :
    outside fs (takeField i v s).2 = outside fs s := outside_mono h (by simp [takeField])

@[simp] theorem setPoll_outside (h : [.host] ⊆ fs) (n) (s : State) :
    outside fs (setPoll n s) = outside fs s := outside_mono h (by simp [setPoll])

@[simp] theorem readRecords_outside (h : [.out] ⊆ fs) (ms) (s : State) :
    outside fs (readRecords ms s) = outside fs s := by
  refine outside_mono h ?_
  unfold readRecords
  split <;> simp

@[simp] theorem readEntry_outside (h : [.out] ⊆ fs) (n) (s : State) :
    outside fs (readEntry n s) = outside fs s := outside_mono h (by simp [readEntry])

@[simp] theorem enqueueDesc_outside (h : [.host, .descs] ⊆ fs) (d late) (s : State) :
    outside fs (enqueueDesc d late s) = outside fs s := outside_mono h (by simp [enqueueDesc])

@[simp] theorem noteLateness_outside (h : [.descs] ⊆ fs) (d late) (s : State) :
    outside fs (noteLateness d late s) = outside fs s := outside_mono h (by simp [noteLateness])

@[simp] theorem dispatchDesc_outside (h : [.host, .descs] ⊆ fs) (d) (s : State) :
    outside fs (dispatchDesc d s) = outside fs s := by
  refine outside_mono h ?_
  unfold dispatchDesc
  split <;> simp

@[simp] theorem countLate_outside (h : [.ft, .lag] ⊆ fs) (d late) (s : State) :
    outside fs (countLate d late s) = outside fs s := outside_mono h (by unfold countLate; split <;> rfl)

@[simp] theorem releaseDesc_outside (h : [.host, .ft, .lag, .descs] ⊆ fs) (d) (s : State) :
    outside fs (releaseDesc d s) = outside fs s := by
  refine outside_mono h ?_
  unfold releaseDesc
  split <;> simp

@[simp] theorem dropOlds_outside (h : [.mem] ⊆ fs) (s : State) :
    outside fs (dropOlds s) = outside fs s := outside_mono h (by simp [dropOlds])

@[simp] theorem startCopy_outside (h : [.mem, .descs] ⊆ fs) (t r) (s : State) :
    outside fs (startCopy t r s) = outside fs s := outside_mono h (by simp [startCopy])

@[simp] theorem recordsMet_outside (h : [.ms, .host, .link, .yoke, .mem, .descs, .out] ⊆ fs) (t r) (s : State) :
    outside fs (recordsMet t r s) = outside fs s := by
  refine outside_mono h ?_
  unfold recordsMet
  (repeat' split) <;> simp

@[simp] theorem openTxns_outside (h : [.ms, .host, .link, .yoke, .lg, .descs, .out, .freeCtr] ⊆ fs) (t r) (s : State) :
    outside fs (openTxns t r s) = outside fs s := by
  refine outside_mono h ?_
  unfold openTxns
  split <;> simp

@[simp] theorem closeTxns_outside (h : [.ms, .host, .link, .yoke, .lg, .descs, .out] ⊆ fs) (t) (s : State) :
    outside fs (closeTxns t s) = outside fs s := by
  refine outside_mono h ?_
  unfold closeTxns
  (repeat' split) <;> simp

@[simp] theorem ringVector_outside (h : [.host, .out] ⊆ fs) (c) (s : State) :
    outside fs (ringVector c s) = outside fs s := outside_mono h (by simp [ringVector])

@[simp] theorem guardHeadland_outside (h : [.ft, .guard] ⊆ fs) (s : State) :
    outside fs (guardHeadland s) = outside fs s := outside_mono h rfl

@[simp] theorem countNonFinite_outside (h : [.ft, .guard] ⊆ fs) (ctx) (s : State) :
    outside fs (countNonFinite ctx s) = outside fs s := outside_mono h (by simp [countNonFinite])

@[simp] theorem writeRecord_outside (h : [.ms, .host, .ft, .link, .ember, .yoke, .lg, .mem, .guard, .descs, .out] ⊆ fs) (c d o) (s : State) :
    outside fs (writeRecord c d o s) = outside fs s := outside_mono h (by simp [writeRecord])

@[simp] theorem retire_outside (h : [.ms, .host, .link, .yoke, .lg, .descs, .out] ⊆ fs) (r) (s : State) :
    outside fs (retire r s) = outside fs s := outside_mono h (by simp [retire])

@[simp] theorem takeoverFail_outside (h : [.ms, .host, .link, .yoke, .descs, .out] ⊆ fs) (result) (s : State) :
    outside fs (takeoverFail result s) = outside fs s := outside_mono h (by simp [takeoverFail])

@[simp] theorem completeDesc_outside (h : [.ms, .host, .ft, .link, .ember, .yoke, .lg, .mem, .guard, .descs, .out] ⊆ fs) (d) (s : State) :
    outside fs (completeDesc d s) = outside fs s := by
  refine outside_mono h ?_
  unfold completeDesc
  (repeat' split) <;> simp

@[simp] theorem unmask_outside (h : [.host, .out] ⊆ fs) (v) (s : State) :
    outside fs (unmask v s) = outside fs s := outside_mono h (by simp [unmask])

@[simp] theorem writeCringCfg_outside (h : [.host] ⊆ fs) (n v) (s : State) :
    outside fs (writeCringCfg n v s) = outside fs s := outside_mono h (by simp [writeCringCfg])

@[simp] theorem writeSring_outside (h : [.host] ⊆ fs) (n reg v) (s : State) :
    outside fs (writeSring n reg v s) = outside fs s := by
  refine outside_mono h ?_
  unfold writeSring
  split <;> simp

@[simp] theorem setTally_outside (h : [.sync] ⊆ fs) (i v) (s : State) :
    outside fs (setTally i v s) = outside fs s := outside_mono h (by simp [setTally])

@[simp] theorem setLine_outside (h : [.sync] ⊆ fs) (l x) (s : State) :
    outside fs (setLine l x s) = outside fs s := outside_mono h (by simp [setLine])

@[simp] theorem clearLine_outside (h : [.ms, .host, .link, .yoke, .lg, .sync, .descs, .out] ⊆ fs) (l) (s : State) :
    outside fs (clearLine l s) = outside fs s := outside_mono h (by simp [clearLine])

@[simp] theorem clearLines_outside (h : [.ms, .host, .link, .yoke, .lg, .sync, .descs, .out] ⊆ fs) (mask) (s : State) :
    outside fs (clearLines mask s) = outside fs s := outside_mono h (by simp [clearLines])

@[simp] theorem ctxDone_outside (h : [.host, .out] ⊆ fs) (n st result) (s : State) :
    outside fs (ctxDone n st result s) = outside fs s := outside_mono h (by simp [ctxDone])

@[simp] theorem badCmd_outside (h : [.host, .out] ⊆ fs) (n) (s : State) :
    outside fs (badCmd n s) = outside fs s := outside_mono h (by simp [badCmd])

@[simp] theorem logCtx_outside (h : [.ms, .host, .link, .ember, .yoke, .lg, .mem, .descs, .out] ⊆ fs) (n cmd) (s : State) :
    outside fs (logCtx n cmd s) = outside fs s := outside_mono h (by simp [logCtx])

@[simp] theorem beginRings_outside (h : [.host, .out] ⊆ fs) (n) (s : State) :
    outside fs (beginRings n s) = outside fs s := outside_mono h (by
  rw [beginRings]
  refine outside_foldl _ (fun s a => ?_) _ _
  dsimp only
  (repeat' split) <;> simp)

@[simp] theorem ctxStart_outside (h : [.host, .out] ⊆ fs) (n) (s : State) :
    outside fs (ctxStart n s) = outside fs s := outside_mono h (by simp [ctxStart])

@[simp] theorem ctxRecord_outside (h : [.host] ⊆ fs) (n) (s : State) :
    outside fs (ctxRecord n s) = outside fs s := outside_mono h (by simp [ctxRecord])

@[simp] theorem loadSave_outside (h : [.sync] ⊆ fs) (c b) (s : State) :
    outside fs (loadSave c b s) = outside fs s := outside_mono h (by simp [loadSave])

@[simp] theorem ctxRestore_outside (h : [.host, .mem, .sync, .out] ⊆ fs) (n) (s : State) :
    outside fs (ctxRestore n s) = outside fs s := by
  refine outside_mono h ?_
  simp only [ctxRestore]
  (repeat' split) <;> simp

@[simp] theorem ctxBegin_outside (h : [.ms, .host, .link, .ember, .yoke, .lg, .mem, .sync, .descs, .out] ⊆ fs) (ctx) (s : State) :
    outside fs (ctxBegin ctx s) = outside fs s := outside_mono h (by simp [ctxBegin])

@[simp] theorem ctxWrite_outside (h : [.ms, .host, .link, .ember, .yoke, .lg, .mem, .descs, .out] ⊆ fs) (ctx cmd f) (s : State) (hf : ∀ a s, outside fs (f a s) = outside fs s) :
    outside fs (ctxWrite ctx cmd f s) = outside fs s := by
  unfold ctxWrite; split <;> simp [h, hf]

@[simp] theorem ctxEnd_outside (h : [.ms, .host, .link, .ember, .yoke, .lg, .mem, .descs, .out] ⊆ fs) (ctx) (s : State) :
    outside fs (ctxEnd ctx s) = outside fs s := outside_mono h (by simp [ctxEnd])

@[simp] theorem abortDescs_outside (h : [.descs] ⊆ fs) (ctx) (s : State) :
    outside fs (abortDescs ctx s) = outside fs s := outside_mono h (by simp [abortDescs])

@[simp] theorem ctxAbort_outside (h : [.ms, .host, .link, .ember, .yoke, .lg, .mem, .descs, .out] ⊆ fs) (ctx) (s : State) :
    outside fs (ctxAbort ctx s) = outside fs s := outside_mono h (by simp [ctxAbort])

@[simp] theorem writeCtxCmd_outside (h : [.ms, .host, .link, .ember, .yoke, .lg, .mem, .sync, .descs, .out] ⊆ fs) (v) (s : State) :
    outside fs (writeCtxCmd v s) = outside fs s := by
  refine outside_mono h ?_
  unfold writeCtxCmd
  split <;> simp

@[simp] theorem ctxSave_outside (h : [.ember, .mem, .freeCtr] ⊆ fs) (c) (s : State) :
    outside fs (ctxSave s c).2 = outside fs s := outside_mono h (by simp [ctxSave])

@[simp] theorem writeCtxCfg_outside (h : [.host] ⊆ fs) (n v) (s : State) :
    outside fs (writeCtxCfg n v s) = outside fs s := outside_mono h (by simp [writeCtxCfg])

@[simp] theorem writeCtxBar_outside (h : [.host] ⊆ fs) (n v) (s : State) :
    outside fs (writeCtxBar n v s) = outside fs s := outside_mono h (by simp [writeCtxBar])

@[simp] theorem writeCtxSave_outside (h : [.host] ⊆ fs) (n v) (s : State) :
    outside fs (writeCtxSave n v s) = outside fs s := outside_mono h (by simp [writeCtxSave])

@[simp] theorem atStage_outside (r o stage f) (s : State) (hf : ∀ a s, outside fs (f a s) = outside fs s) :
    outside fs (atStage r o stage f s) = outside fs s := by unfold atStage; split <;> simp [hf]

@[simp] theorem copyAtStage_outside (r t o stage f) (s : State) (hf : ∀ a s, outside fs (f a s) = outside fs s) :
    outside fs (copyAtStage r t o stage f s) = outside fs s := by unfold copyAtStage; (repeat' split) <;> simp [hf]

@[simp] theorem endWait_outside (h : [.descs] ⊆ fs) (r t rep) (s : State) :
    outside fs (endWait r t rep s) = outside fs s := outside_mono h (by simp [endWait])

@[simp] theorem setFt_outside (h : [.ft] ⊆ fs) (f) (s : State) :
    outside fs (setFt f s) = outside fs s := outside_mono h (by simp [setFt])

@[simp] theorem writeFtCtrl_outside (h : [.ft] ⊆ fs) (v) (s : State) :
    outside fs (writeFtCtrl v s) = outside fs s := outside_mono h (by simp [writeFtCtrl])

@[simp] theorem writeFtLoad_outside (h : [.ft] ⊆ fs) (v) (s : State) :
    outside fs (writeFtLoad v s) = outside fs s := outside_mono h (by simp [writeFtLoad])

@[simp] theorem setPortTime_outside (h : [.ft] ⊆ fs) (p x) (s : State) :
    outside fs (setPortTime p x s) = outside fs s := outside_mono h (by simp [setPortTime])

@[simp] theorem freeQuot_outside (h : [.freeCtr] ⊆ fs) (n d) (s : State) :
    outside fs (freeQuot n d s).2 = outside fs s := by
  refine outside_mono h ?_
  unfold freeQuot
  split <;> simp

@[simp] theorem reportTime_outside (h : [.ft, .freeCtr] ⊆ fs) (p) (s : State) :
    outside fs (reportTime p s) = outside fs s := outside_mono h (by simp [reportTime])

@[simp] theorem rejudgeSkew_outside (h : [.ft] ⊆ fs) (s : State) :
    outside fs (rejudgeSkew s) = outside fs s := outside_mono h (by simp [rejudgeSkew])

@[simp] theorem enablePlan_outside (h : [.host, .ft, .claims, .out] ⊆ fs) (b) (s : State) :
    outside fs (enablePlan b s) = outside fs s := by
  refine outside_mono h ?_
  simp only [enablePlan]
  (repeat' split) <;> simp

@[simp] theorem writePlanCtrl_outside (h : [.host, .ft, .claims, .out] ⊆ fs) (b v) (s : State) :
    outside fs (writePlanCtrl b v s) = outside fs s := outside_mono h (by simp [writePlanCtrl])

@[simp] theorem noteArrival_outside (h : [.ft] ⊆ fs) (port q) (s : State) :
    outside fs (noteArrival port q s).2 = outside fs s := outside_mono h (by simp [noteArrival])

@[simp] theorem noteSomewhere_outside (h : [.ft, .freeCtr] ⊆ fs) (q) (s : State) :
    outside fs (noteSomewhere q s).2 = outside fs s := outside_mono h (by simp [noteSomewhere])

@[simp] theorem writeFtOutCfg_outside (h : [.pins, .host, .ft, .wdog, .claims, .pwr, .link, .yoke, .out] ⊆ fs) (v) (s : State) :
    outside fs (writeFtOutCfg v s) = outside fs s := outside_mono h (by simp [writeFtOutCfg])

end Sys2Proof.Machine
end

section
/-! PROOFS. Which fields the works of a descriptor's copies may change, and that works under way are those that were begun (log 12, log 33). -/

namespace Sys2Proof.Machine

variable {fs : List Field}

@[simp] theorem haltAll_outside (put : Put) (v i gs) (s : State) (hput : ∀ t ws s, outside fs (put t ws s) = outside fs s) :
    outside fs (haltAll put v i gs s).2 = outside fs s := by
  refine outside_foldl_snd _ (fun x a => ?_) _ _
  dsimp only
  split <;> simp [hput]

@[simp] theorem pickCopy_outside (h : [.freeCtr] ⊆ fs) (able) (s : State) :
    outside fs (pickCopy able s).2 = outside fs s := by
  refine outside_mono h ?_
  unfold pickCopy
  split <;> simp

@[simp] theorem runSteps_outside (h : [.freeCtr] ⊆ fs) (put : Put) (ended draw keys n past gs) (s : State)
    (hput : ∀ t ws s, outside fs (put t ws s) = outside fs s) : outside fs (runSteps put ended draw keys n past gs s).2 = outside fs s := by
  induction n generalizing past gs s with
  | zero => rfl
  | succ n ih => simp only [runSteps]; (repeat' split) <;> simp [*]

@[simp] theorem closeCopy_outside (put : Put) (draw halted x g) (hput : ∀ t ws s, outside fs (put t ws s) = outside fs s) :
    outside fs (closeCopy put draw halted x g).2 = outside fs x.2 := by simp [closeCopy, hput]

@[simp] theorem carryOutUntil_outside (h : [.freeCtr] ⊆ fs) (put : Put) (ended past ws) (s : State)
    (hput : ∀ t ws s, outside fs (put t ws s) = outside fs s) : outside fs (carryOutUntil put ended past ws s).2 = outside fs s := by
  simp [carryOutUntil, h, hput]

@[simp] theorem putPlain_outside (h : [.mem] ⊆ fs) (t ws) (s : State) : outside fs (putPlain t ws s) = outside fs s :=
  outside_mono h rfl

@[simp] theorem putFor_outside (h : [.ms, .host, .link, .ember, .yoke, .mem, .descs, .out, .freeCtr] ⊆ fs) (r adds t ws) (s : State) :
    outside fs (putFor r adds t ws s) = outside fs s := by
  refine outside_mono h ?_
  unfold putFor; split <;> simp

@[simp] theorem putBy_outside (h : [.ms, .host, .link, .ember, .yoke, .mem, .descs, .out, .freeCtr] ⊆ fs) (r t ws) (s : State) :
    outside fs (putBy r t ws s) = outside fs s := putFor_outside h ..

/-! The works of copies under way are those that were begun. -/

theorem work_mem_of_set {gs : List Going} {i : Nat} {g : Going} {P : Work → Prop} (hgs : ∀ g ∈ gs, P g.work) (hg : P g.work) :
    ∀ x ∈ gs.set i g, P x.work := fun x hx => by
  rcases List.mem_or_eq_of_mem_set hx with hx | rfl
  · exact hgs x hx
  · exact hg

theorem foldl_next_work (ms : List Made) (g : Going) : (ms.foldl Going.next g).work = g.work := by
  induction ms generalizing g with
  | nil => rfl
  | cons m ms ih => rw [List.foldl_cons, ih]; rfl

theorem haltAll_work (put : Put) (v i) {gs : List Going} (s : State) {P : Work → Prop} (hgs : ∀ g ∈ gs, P g.work) :
    ∀ g ∈ (haltAll put v i gs s).1, P g.work := by
  rw [haltAll]
  refine List.foldlRecOn (motive := fun x : List Going × State => ∀ g ∈ x.1, P g.work) _ _ (by simp) fun x hx a ha g hg => ?_
  obtain ⟨g0, j⟩ := a
  have h0 : P g0.work := hgs g0 (List.fst_mem_of_mem_zipIdx ha)
  dsimp only at hg
  split at hg
  · rcases List.mem_append.mp hg with hg | hg
    · exact hx g hg
    · rw [List.mem_singleton.mp hg]; exact h0
  · rcases List.mem_append.mp hg with hg | hg
    · exact hx g hg
    · rw [List.mem_singleton.mp hg]
      simpa [Going.halt, foldl_next_work] using h0

theorem runSteps_work (put : Put) (ended draw keys n past) {gs : List Going} (s : State) {P : Work → Prop} (hgs : ∀ g ∈ gs, P g.work) :
    ∀ g ∈ (runSteps put ended draw keys n past gs s).1, P g.work := by
  induction n generalizing past gs s with
  | zero => exact hgs
  | succ n ih =>
    have hset (g : Going) (hg : g ∈ gs) (i : Nat) (m : Made) : ∀ x ∈ gs.set i (g.next m), P x.work :=
      work_mem_of_set hgs (hgs g hg)
    simp only [runSteps]
    split
    · exact hgs
    · split
      · exact hgs
      · next g hg =>
        have hg := List.mem_of_getElem? hg
        split
        · exact hgs
        · split
          · exact haltAll_work _ _ _ _ (hset g hg _ _)
          · exact ih _ _ (hset g hg _ _)

theorem carryOutUntil_work (put : Put) (ended past) {ws : List Work} (s : State) {P : Work → Prop} (hws : ∀ w ∈ ws, P w) :
    ∀ g ∈ (carryOutUntil put ended past ws s).1, P g.work := by
  let gs : List Going := ws.map fun w => { work := w, left := w.parts, made := [], size := 0 }
  have hrun := runSteps_work put ended (drawFree s).1 (ws.flatMap (·.watch)) (gs.map fun g => g.left.length).sum past
    (gs := gs) (drawFree s).2 (P := P) (by simpa [gs] using hws)
  rw [carryOutUntil]
  refine List.foldlRecOn (motive := fun x : List Going × State => ∀ g ∈ x.1, P g.work) _ _ (by simp) fun x hx g hg y hy => ?_
  rcases List.mem_append.mp hy with hy | hy
  · exact hx y hy
  · rw [List.mem_singleton.mp hy]
    exact hrun g hg

@[simp] theorem carryOut_outside (h : [.mem, .freeCtr] ⊆ fs) (past ws) (s : State) :
    outside fs (carryOut past ws s).2 = outside fs s := carryOutUntil_outside (by simp_all) _ _ _ _ _ (putPlain_outside (by simp_all))

@[simp] theorem carryOutFor_outside (h : [.ms, .host, .link, .ember, .yoke, .mem, .descs, .out, .freeCtr] ⊆ fs) (r adds past ws) (s : State) :
    outside fs (carryOutFor r adds past ws s).2 = outside fs s := carryOutUntil_outside (by simp_all) _ _ _ _ _ (putFor_outside h r adds)

@[simp] theorem countBytes_outside (h : [.cores] ⊆ fs) (draw t reads rd ws) (s : State) :
    outside fs (countBytes draw t reads rd ws s) = outside fs s := by
  refine outside_mono h ?_
  unfold countBytes
  split <;> simp

@[simp] theorem countAccess_outside (h : [.cores] ⊆ fs) (draw g) (s : State) :
    outside fs (countAccess draw g s) = outside fs s := outside_mono h (by simp [countAccess])

@[simp] theorem setDetailAll_outside (h : [.descs] ⊆ fs) (r n) (s : State) :
    outside fs (setDetailAll r n s) = outside fs s := outside_mono h (by simp [setDetailAll])

@[simp] theorem endRest_outside (h : [.descs] ⊆ fs) (r) (s : State) :
    outside fs (endRest r s) = outside fs s := outside_mono h (by simp [endRest])

@[simp] theorem noteStopped_outside (h : [.descs] ⊆ fs) (r t nf idx) (s : State) :
    outside fs (noteStopped r t nf idx s) = outside fs s := by
  refine outside_mono h ?_
  unfold noteStopped
  split <;> simp

@[simp] theorem failCopies_outside {α : Type} (h : [.descs] ⊆ fs) (r) (rs : List (Target × Except Report α)) (s : State) :
    outside fs (failCopies r rs s) = outside fs s := outside_mono h rfl

/-- What a work counts at its end, or where it stops, changes no other field than some. -/
def Work.Within (fs : List Field) (w : Work) : Prop :=
  (∀ s, outside fs (w.whole s) = outside fs s) ∧ ∀ s, outside fs (w.partly s) = outside fs s

/-- The works of a planner change no other field than some by what they count. -/
def Planner.Within (fs : List Field) (pl : Planner) : Prop :=
  ∀ s d draw t i n w, pl s d draw t i n = .ok w → w.Within fs

theorem outside_foldl_mem {α : Type} (f : State → α → State) (l : List α) (h : ∀ a ∈ l, ∀ s, outside fs (f s a) = outside fs s) (s : State) :
    outside fs (l.foldl f s) = outside fs s := by
  induction l generalizing s with
  | nil => rfl
  | cons a l ih =>
    rw [List.foldl_cons, ih (fun b hb => h b (List.mem_cons_of_mem _ hb)), h a List.mem_cons_self]

theorem finishWorks_outside (h : [.ms, .host, .link, .yoke, .lg, .cores, .descs, .out] ⊆ fs) (d draw) {gs : List Going} (s : State)
    (hgs : ∀ g ∈ gs, g.work.Within fs) : outside fs (finishWorks d draw gs s) = outside fs s := by
  have hfold : ∀ total, outside fs (gs.foldl (fun s g => g.work.whole (countAccess draw g (finishCopy d.ref g.work.target (g.report total) s))) s)
      = outside fs s := fun total =>
    outside_foldl_mem _ _ (fun g hg s => by rw [(hgs g hg).1]; simp_all) s
  rw [finishWorks]
  split <;> simp_all

theorem runWorks_outside (h : [.ms, .host, .link, .ember, .yoke, .lg, .mem, .cores, .descs, .out, .freeCtr] ⊆ fs) (d draw) {ws : List Work} (s : State) (hws : ∀ w ∈ ws, w.Within fs) :
    outside fs (runWorks d draw ws s) = outside fs s := by
  have hfin : [.ms, .host, .link, .yoke, .lg, .cores, .descs, .out] ⊆ fs := by simp_all
  have hrun : [.ms, .host, .link, .ember, .yoke, .mem, .descs, .out, .freeCtr] ⊆ fs := by simp_all
  rw [runWorks]
  split
  · simp_all
  · exact (finishWorks_outside hfin d draw _ (carryOutUntil_work _ _ _ _ hws)).trans (carryOutFor_outside hrun ..)

theorem worksOf_within {pl : Planner} (hpl : pl.Within fs) {s d draw} : ∀ w ∈ worksOf (plansOf pl s d draw), w.Within fs := by
  intro w hw
  simp only [worksOf, plansOf, List.mem_filterMap, List.mem_map] at hw
  obtain ⟨_, ⟨⟨t, i⟩, -, rfl⟩, hok⟩ := hw
  cases hplan : pl s d draw t i d.copies.length with
  | error => simp [hplan, Except.toOption] at hok
  | ok y =>
    obtain rfl : y = w := by simpa [hplan, Except.toOption] using hok
    exact hpl s d draw t i _ y hplan

theorem runOpOn_outside (h : [.ms, .host, .link, .ember, .yoke, .lg, .mem, .cores, .descs, .out, .freeCtr] ⊆ fs) (pick) {pl : Planner} (hpl : pl.Within fs) (d) (s : State) :
    outside fs (runOpOn pick pl d s) = outside fs s := by
  have hfree : [Field.freeCtr] ⊆ fs ∧ [Field.descs] ⊆ fs := by simp_all
  simp only [runOpOn]
  split
  · simp_all
  · rw [runWorks_outside h _ _ _ fun w hw => worksOf_within hpl w (List.mem_of_mem_filter hw)]
    exact drawFree_outside hfree.1 s

theorem runOp_outside (h : [.ms, .host, .link, .ember, .yoke, .lg, .mem, .cores, .descs, .out, .freeCtr] ⊆ fs) {pl : Planner} (hpl : pl.Within fs) (d) (s : State) :
    outside fs (runOp pl d s) = outside fs s := runOpOn_outside h _ hpl d s

theorem writeSome_outside (h : [.ms, .host, .link, .ember, .yoke, .mem, .cores, .descs, .out, .freeCtr] ⊆ fs) (d) {ws : List Work} (s : State) (hws : ∀ w ∈ ws, w.Within fs) :
    outside fs (writeSome d ws s) = outside fs s := by
  simp only [writeSome]
  rw [outside_foldl_mem]
  · simp_all
  · rintro ⟨⟨w, g⟩, i⟩ hmem s1
    have hg : g.work.Within fs := by
      refine carryOutUntil_work _ _ _ _ (fun w hw => ?_) g (List.of_mem_zip (List.fst_mem_of_mem_zipIdx hmem)).2
      obtain ⟨w0, hw0, rfl⟩ := List.mem_map.mp hw
      exact hws w0 (List.mem_of_mem_filter hw0)
    have hpart := hg.2
    simp_all

theorem stopOp_outside (h : [.ms, .host, .link, .ember, .yoke, .mem, .cores, .descs, .out, .freeCtr] ⊆ fs) {pl : Planner} (hpl : pl.Within fs) (d) (s : State) :
    outside fs (stopOp pl d s) = outside fs s := by
  have hfree : [Field.freeCtr] ⊆ fs := by simp_all
  simp only [stopOp]
  split
  · split
    · exact drawFree_outside hfree s
    · rw [writeSome_outside h _ _ (worksOf_within hpl)]
      exact drawFree_outside hfree s
  · rfl

end Sys2Proof.Machine
end

section
/-! PROOFS. Which fields the operations of the engines, of tallies, lines and stage queues may change. -/

namespace Sys2Proof.Machine

variable {fs : List Field}

theorem copyPlan_within : copyPlan.Within fs := by
  intro s d draw t i n w hw
  simp only [copyPlan] at hw
  split at hw
  · cases hw
  · cases hw
    exact ⟨fun _ => rfl, fun _ => rfl⟩
  · cases hw

theorem relayoutPlan_within : relayoutPlan.Within fs := by
  intro s d draw t i n w hw
  simp only [relayoutPlan] at hw
  split at hw
  · cases hw
  · cases hw
    exact ⟨fun _ => rfl, fun _ => rfl⟩
  · cases hw

theorem gatherPlan_within : gatherPlan.Within fs := by
  intro s d draw t i n w hw
  simp only [gatherPlan] at hw
  split at hw
  · cases hw
  · cases hw
    exact ⟨fun _ => rfl, fun _ => rfl⟩
  · cases hw

theorem scatterPlan_within : scatterPlan.Within fs := by
  intro s d draw t i n w hw
  simp only [scatterPlan] at hw
  split at hw
  · cases hw
  · cases hw
    exact ⟨fun _ => rfl, fun _ => rfl⟩

@[simp] theorem runScatterStore_outside (h : [.ms, .host, .link, .ember, .yoke, .lg, .mem, .cores, .descs, .out, .freeCtr] ⊆ fs) (d) (s : State) : outside fs (runScatterStore d s) = outside fs s :=
  runOp_outside h scatterPlan_within d s

@[simp] theorem runScatterAdd_outside (h : [.ms, .host, .link, .ember, .yoke, .lg, .mem, .cores, .descs, .out, .freeCtr] ⊆ fs) (d) (s : State) : outside fs (runScatterAdd d s) = outside fs s :=
  runOp_outside h scatterPlan_within d s

@[simp] theorem stopScatterAdd_outside (h : [.ms, .host, .link, .ember, .yoke, .mem, .cores, .descs, .out, .freeCtr] ⊆ fs) (d) (s : State) :
    outside fs (stopScatterAdd d s) = outside fs s := outside_mono h (by simp [stopScatterAdd])

@[simp] theorem setHe_outside (h : [.he] ⊆ fs) (e x) (s : State) :
    outside fs (setHe e x s) = outside fs s := outside_mono h (by simp [setHe])

@[simp] theorem countHearth_outside (h : [.ms, .host, .link, .yoke, .lg, .he, .descs, .out] ⊆ fs) (draw rate whole segs) (s : State) :
    outside fs (countHearth draw rate whole segs s) = outside fs s := outside_mono h (by simp [countHearth])

@[simp] theorem noteNorm_outside (h : [.mem] ⊆ fs) (d x) (s : State) :
    outside fs (noteNorm d x s) = outside fs s := by
  refine outside_mono h ?_
  unfold noteNorm
  split <;> simp

theorem hePlan_within (h : [.ms, .host, .link, .yoke, .lg, .mem, .he, .descs, .out] ⊆ fs) : hePlan.Within fs := by
  intro s d draw t i n w hw
  simp only [hePlan] at hw
  split at hw
  · cases hw
  · cases hw
    refine ⟨fun s => ?_, fun s => ?_⟩
    · dsimp only
      split <;> simp_all
    · simp_all

@[simp] theorem runHeOp_outside (h : [.ms, .host, .link, .ember, .yoke, .lg, .mem, .cores, .he, .descs, .out, .freeCtr] ⊆ fs) (d) (s : State) : outside fs (runHeOp d s) = outside fs s :=
  runOp_outside (by simp_all) (hePlan_within (by simp_all)) d s

@[simp] theorem heOpRow_outside (h : [.ms, .host, .link, .ember, .yoke, .lg, .mem, .cores, .he, .descs, .out, .freeCtr] ⊆ fs) (op r) (s : State) : outside fs (heOpRow op r s) = outside fs s := by
  refine atStage_outside _ _ _ _ _ fun d s => ?_
  split
  · exact runHeOp_outside h d s
  · rfl

@[simp] theorem stopHeOp_outside (h : [.ms, .host, .link, .ember, .yoke, .lg, .mem, .cores, .he, .descs, .out, .freeCtr] ⊆ fs) (d) (s : State) : outside fs (stopHeOp d s) = outside fs s := by
  unfold stopHeOp
  split
  · rfl
  · exact stopOp_outside (by simp_all) (hePlan_within (by simp_all)) d s

theorem optPlan_within (h : [.ms, .host, .link, .yoke, .lg, .he, .descs, .out] ⊆ fs) : optPlan.Within fs := by
  intro s d draw t i n w hw
  cases hw
  exact ⟨fun s => by simp_all, fun s => by simp_all⟩

@[simp] theorem runOptStep_outside (h : [.ms, .host, .link, .ember, .yoke, .lg, .mem, .cores, .he, .descs, .out, .freeCtr] ⊆ fs) (d) (s : State) : outside fs (runOptStep d s) = outside fs s :=
  runOpOn_outside (by simp_all) _ (optPlan_within (by simp_all)) d s

@[simp] theorem stopOptStep_outside (h : [.ms, .host, .link, .ember, .yoke, .lg, .mem, .cores, .he, .descs, .out, .freeCtr] ⊆ fs) (d) (s : State) : outside fs (stopOptStep d s) = outside fs s := by
  have hw : [.ms, .host, .link, .ember, .yoke, .mem, .cores, .descs, .out, .freeCtr] ⊆ fs := by simp_all
  have hpl : optPlan.Within fs := optPlan_within (by simp_all)
  simp [stopOptStep, stopOp_outside hw hpl]

@[simp] theorem decideGate_outside (h : [.ms, .host, .link, .ember, .yoke, .lg, .mem, .cores, .he, .descs, .out, .freeCtr] ⊆ fs) (d) (s : State) :
    outside fs (decideGate d s) = outside fs s := by
  refine outside_mono h ?_
  unfold decideGate
  split
  · simp
  · split
    · simp
    · split
      · simp
      · simp
    · simp

@[simp] theorem satisfyTally_outside (h : [.sync] ⊆ fs) (d) (s : State) :
    outside fs (satisfyTally d s).2 = outside fs s := by
  refine outside_mono h ?_
  unfold satisfyTally
  split <;> simp

@[simp] theorem settleTally_outside (h : [.sync, .descs, .freeCtr] ⊆ fs) (i a) (s : State) :
    outside fs (settleTally i a s) = outside fs s := by
  refine outside_mono h ?_
  induction a generalizing s with
  | zero => rfl
  | succ k ih => simp only [settleTally]; (repeat' split) <;> simp [ih]

@[simp] theorem changeTally_outside (h : [.sync, .descs, .freeCtr] ⊆ fs) (i v) (s : State) :
    outside fs (changeTally i v s) = outside fs s := outside_mono h (by simp [changeTally])

@[simp] theorem tallyRow_outside (h : [.descs] ⊆ fs) (r t o f) (s : State) (hf : ∀ a s, outside fs (f a s) = outside fs s) :
    outside fs (tallyRow r t o f s) = outside fs s := by
  refine copyAtStage_outside _ _ _ _ _ _ fun d s => ?_
  (repeat' split) <;> simp [h, hf]

@[simp] theorem putArrival_outside (h : [.ms, .host, .link, .yoke, .lg, .sync, .descs, .out] ⊆ fs) (l p) (s : State) :
    outside fs (putArrival l p s).2 = outside fs s := by
  refine outside_mono h ?_
  simp only [putArrival]
  (repeat' split) <;> simp

@[simp] theorem beginBarrierWait_outside (h : [.host, .descs] ⊆ fs) (r t l) (s : State) :
    outside fs (beginBarrierWait r t l s) = outside fs s := outside_mono h (by simp [beginBarrierWait])

@[simp] theorem unspin_outside (h : [.ms, .host, .link, .yoke, .lg, .sync, .descs, .out] ⊆ fs) (l x) (s : State) :
    outside fs (unspin l x s) = outside fs s := outside_mono h (by simp [unspin])

@[simp] theorem wakeLine_outside (h : [.descs] ⊆ fs) (l) (s : State) :
    outside fs (wakeLine l s) = outside fs s := outside_mono h (by simp [wakeLine])

@[simp] theorem releaseLine_outside (h : [.ms, .host, .link, .yoke, .lg, .sync, .descs, .out] ⊆ fs) (l) (s : State) :
    outside fs (releaseLine l s) = outside fs s := outside_mono h (by simp [releaseLine])

@[simp] theorem barrierRow_outside (h : [.descs] ⊆ fs) (r t o f) (s : State) (hf : ∀ a s, outside fs (f a s) = outside fs s) :
    outside fs (barrierRow r t o f s) = outside fs s := by
  refine copyAtStage_outside _ _ _ _ _ _ fun d s => ?_
  (repeat' split) <;> simp [h, hf]

@[simp] theorem spinCopy_outside (h : [.descs] ⊆ fs) (r t) (s : State) :
    outside fs (spinCopy r t s) = outside fs s := outside_mono h (by simp [spinCopy])

@[simp] theorem fenceLines_outside (h : [.descs] ⊆ fs) (s : State) :
    outside fs (fenceLines s) = outside fs s := outside_mono h (by simp [fenceLines])

theorem changeTotalOf_outside (h : [.ms, .host, .link, .yoke, .lg, .descs, .out] ⊆ fs) {d f delta} {s t : State}
    (ht : changeTotalOf d f delta s = some t) : outside fs t = outside fs s := by
  refine outside_mono h ?_
  obtain ⟨y, -, rfl⟩ := Option.map_eq_some_iff.mp ht
  simp

@[simp] theorem setParticipants_outside (h : [.ms, .host, .link, .yoke, .lg, .sync, .descs, .out] ⊆ fs) (l x) (s : State) :
    outside fs (setParticipants l x s) = outside fs s := by
  refine outside_mono h ?_
  simp only [setParticipants]
  split
  · next ht => exact (setLine_outside (by simp) ..).trans (changeTotalOf_outside (by simp) ht)
  · rfl

@[simp] theorem writeIodBarPart_outside (h : [.ms, .host, .link, .yoke, .lg, .sync, .descs, .out] ⊆ fs) (l v) (s : State) :
    outside fs (writeIodBarPart l v s) = outside fs s := outside_mono h (by simp [writeIodBarPart])

@[simp] theorem writeCdBarPart_outside (h : [.ms, .host, .link, .yoke, .lg, .sync, .descs, .out] ⊆ fs) (die l w v) (s : State) :
    outside fs (writeCdBarPart die l w v s) = outside fs s := outside_mono h (by simp [writeCdBarPart])

@[simp] theorem noteUndelivered_outside (h : [.link] ⊆ fs) (type srcPos srcSide stream n reason) (s : State) :
    outside fs (noteUndelivered type srcPos srcSide stream n reason s) = outside fs s := outside_mono h (by simp [noteUndelivered])

@[simp] theorem refundCredit_outside (h : [.ms, .host, .link, .yoke, .lg, .descs, .out] ⊆ fs) (srcPos q reason) (s : State) :
    outside fs (refundCredit srcPos q reason s) = outside fs s := outside_mono h (by simp [refundCredit])

@[simp] theorem undeliverable_outside (h : [.ms, .host, .link, .yoke, .lg, .descs, .out] ⊆ fs) (type srcPos srcSide stream mseq n reason) (s : State) :
    outside fs (undeliverable type srcPos srcSide stream mseq n reason s) = outside fs s := outside_mono h (by simp [undeliverable])

@[simp] theorem setSqTx_outside (h : [.sync] ⊆ fs) (n x) (s : State) :
    outside fs (setSqTx n x s) = outside fs s := outside_mono h (by simp [setSqTx])

@[simp] theorem setSqRx_outside (h : [.sync] ⊆ fs) (q x) (s : State) :
    outside fs (setSqRx q x s) = outside fs s := outside_mono h (by simp [setSqRx])

@[simp] theorem wakeAll_outside (h : [.descs] ⊆ fs) (r stage rep) (s : State) :
    outside fs (wakeAll r stage rep s) = outside fs s := outside_mono h (by simp [wakeAll])

@[simp] theorem endUnstarted_outside (h : [.descs] ⊆ fs) (r) (s : State) :
    outside fs (endUnstarted r s) = outside fs s := outside_mono h (by simp [endUnstarted])

@[simp] theorem setStage_outside (h : [.descs] ⊆ fs) (r stage) (s : State) :
    outside fs (setStage r stage s) = outside fs s := outside_mono h (by simp [setStage])

@[simp] theorem parkStarted_outside (h : [.host, .descs] ⊆ fs) (d) (s : State) :
    outside fs (parkStarted d s) = outside fs s := outside_mono h (by simp [parkStarted])

@[simp] theorem assignCredits_outside (h : [.sync, .descs, .freeCtr] ⊆ fs) (n a) (s : State) :
    outside fs (assignCredits n a s) = outside fs s := by
  refine outside_mono h ?_
  induction a generalizing s with
  | zero => rfl
  | succ k ih => simp only [assignCredits]; (repeat' split) <;> simp [ih]

@[simp] theorem takeQstate_outside (h : [.link, .sync, .descs, .freeCtr] ⊆ fs) (pos q last count) (s : State) :
    outside fs (takeQstate pos q last count s) = outside fs s := by
  refine outside_mono h ?_
  simp only [takeQstate]
  split
  · simp
  · rw [assignCredits_outside (by simp), outside_with_descs (by simp)]
    (repeat' split) <;> simp

@[simp] theorem takeGrantAck_outside (h : [.sync] ⊆ fs) (pos q) (s : State) :
    outside fs (takeGrantAck pos q s) = outside fs s := outside_mono h (by simp [takeGrantAck])

@[simp] theorem takeGrant_outside (h : [.ms, .host, .link, .yoke, .lg, .sync, .descs, .out, .freeCtr] ⊆ fs) (pos q expect count units) (s : State) :
    outside fs (takeGrant pos q expect count units s) = outside fs s := by
  refine outside_mono h ?_
  simp only [takeGrant]
  (repeat' split) <;> simp

@[simp] theorem sendGrant_outside (h : [.ms, .host, .link, .yoke, .lg, .sync, .descs, .out, .freeCtr] ⊆ fs) (q) (s : State) :
    outside fs (sendGrant q s) = outside fs s := outside_mono h (by simp [sendGrant])

@[simp] theorem sendQstate_outside (h : [.ms, .host, .link, .yoke, .lg, .sync, .descs, .out, .freeCtr] ⊆ fs) (q) (s : State) :
    outside fs (sendQstate q s) = outside fs s := outside_mono h (by simp [sendQstate])

@[simp] theorem returnCredits_outside (h : [.ms, .host, .link, .yoke, .lg, .sync, .descs, .out, .freeCtr] ⊆ fs) (q n r) (s : State) :
    outside fs (returnCredits q n r s) = outside fs s := outside_mono h (by simp [returnCredits])

@[simp] theorem freeSlot_outside (h : [.freeCtr] ⊆ fs) (x) (s : State) :
    outside fs (freeSlot x s).2 = outside fs s := by
  refine outside_mono h ?_
  simp only [freeSlot]
  split <;> simp

@[simp] theorem markEntry_outside (h : [.sync] ⊆ fs) (q sq r) (s : State) :
    outside fs (markEntry q sq r s) = outside fs s := outside_mono h (by simp [markEntry])

@[simp] theorem assignEntries_outside (h : [.sync, .descs, .freeCtr] ⊆ fs) (q a) (s : State) :
    outside fs (assignEntries q a s) = outside fs s := by
  refine outside_mono h ?_
  induction a generalizing s with
  | zero => rfl
  | succ k ih => simp only [assignEntries]; (repeat' split) <;> simp [ih]

@[simp] theorem offerEntries_outside (h : [.sync, .descs, .freeCtr] ⊆ fs) (q) (s : State) :
    outside fs (offerEntries q s) = outside fs s := outside_mono h (by simp [offerEntries])

@[simp] theorem keepUnwritten_outside (h : [.sync] ⊆ fs) (judged e) (s : State) :
    outside fs (keepUnwritten judged e s) = outside fs s := outside_mono h (by simp [keepUnwritten])

@[simp] theorem writeEntry_outside (h : [.ms, .host, .link, .ember, .yoke, .lg, .mem, .sync, .descs, .out, .freeCtr] ⊆ fs) (e k) (s : State) :
    outside fs (writeEntry e k s) = outside fs s := outside_mono h (by simp [writeEntry])

@[simp] theorem acceptEntry_outside (h : [.ms, .host, .link, .ember, .yoke, .lg, .mem, .sync, .descs, .out, .freeCtr] ⊆ fs) (e) (s : State) :
    outside fs (acceptEntry e s) = outside fs s := by
  have htaken {x : Option Nat × State} (hx : (if (ledgerMove dCredit e.queue 1 .lent .held none s).1 = true then
        freeSlot (sqRx (ledgerMove dCredit e.queue 1 .lent .held none s).2 e.queue) (ledgerMove dCredit e.queue 1 .lent .held none s).2
      else (none, (ledgerMove dCredit e.queue 1 .lent .held none s).2)) = x) : outside fs x.2 = outside fs s := by
    subst hx; split <;> simp_all
  simp only [acceptEntry]
  split
  · simp_all
  · split
    · next heq => exact htaken heq
    · next heq =>
      have hs := htaken heq
      split <;> simp_all

@[simp] theorem logEntry_outside (h : [.ms, .host, .link, .ember, .yoke, .lg, .mem, .descs, .out] ⊆ fs) (e) (s : State) :
    outside fs (logEntry e s) = outside fs s := outside_mono h (by simp [logEntry])

@[simp] theorem awaitAck_outside (h : [.yoke] ⊆ fs) (a) (s : State) :
    outside fs (awaitAck a s) = outside fs s := outside_mono h (by simp [awaitAck])

@[simp] theorem duplicateEntry_outside (h : [.ms, .host, .link, .yoke, .lg, .sync, .descs, .out, .freeCtr] ⊆ fs) (e) (s : State) :
    outside fs (duplicateEntry e s) = outside fs s := by
  refine outside_mono h ?_
  rw [duplicateEntry, sendQstate_outside (by simp), outside_with_link (by simp), setSqRx_outside (by simp)]

@[simp] theorem entryGap_outside (h : [.ms, .host, .link, .yoke, .lg, .sync, .descs, .out] ⊆ fs) (q) (s : State) :
    outside fs (entryGap q s) = outside fs s := outside_mono h (by simp [entryGap])

@[simp] theorem judgeEntry_outside (h : [.ms, .host, .link, .ember, .yoke, .lg, .mem, .sync, .descs, .out, .freeCtr] ⊆ fs) (e) (s : State) :
    outside fs (judgeEntry e s) = outside fs s := by
  refine outside_mono h ?_
  simp only [judgeEntry]
  split <;> simp

@[simp] theorem enterQueue_outside (h : [.ms, .host, .link, .ember, .yoke, .lg, .mem, .sync, .descs, .out, .freeCtr] ⊆ fs) (e) (s : State) :
    outside fs (enterQueue e s) = outside fs s := outside_mono h (by simp [enterQueue])

@[simp] theorem judgeUnwritten_outside (h : [.ms, .host, .link, .ember, .yoke, .lg, .mem, .sync, .descs, .out, .freeCtr] ⊆ fs) (q) (s : State) :
    outside fs (judgeUnwritten q s) = outside fs s := outside_mono h (by simp [judgeUnwritten])

@[simp] theorem receiveEntry_outside (h : [.ms, .host, .link, .ember, .yoke, .lg, .mem, .sync, .descs, .out, .freeCtr] ⊆ fs) (side e) (s : State) :
    outside fs (receiveEntry side e s) = outside fs s := by
  refine outside_mono h ?_
  unfold receiveEntry
  split <;> simp

@[simp] theorem noteEntry_outside (h : [.ft, .freeCtr] ⊆ fs) (e) (s : State) :
    outside fs (noteEntry e s) = outside fs s := outside_mono h (by simp [noteEntry])

@[simp] theorem dropPackets_outside (h : [.ms, .host, .link, .yoke, .lg, .descs, .out] ⊆ fs) (mine) (s : State) :
    outside fs (dropPackets mine s) = outside fs s := outside_mono h (by simp [dropPackets])

@[simp] theorem dropEntry_outside (h : [.ms, .host, .link, .yoke, .lg, .sync, .descs, .out] ⊆ fs) (n seq) (s : State) :
    outside fs (dropEntry n seq s) = outside fs s := outside_mono h (by simp [dropEntry])

@[simp] theorem endRefused_outside (h : [.ms, .host, .link, .yoke, .lg, .sync, .descs, .out] ⊆ fs) (n mseq d) (s : State) :
    outside fs (endRefused n mseq d s) = outside fs s := outside_mono h (by simp [endRefused])

@[simp] theorem refuseSend_outside (h : [.ms, .host, .link, .yoke, .lg, .sync, .descs, .out] ⊆ fs) (pos q mseq) (s : State) :
    outside fs (refuseSend pos q mseq s) = outside fs s := by
  refine outside_mono h ?_
  unfold refuseSend
  split <;> simp

@[simp] theorem receiveOwn_outside (h : [.ms, .host, .link, .ember, .yoke, .lg, .mem, .sync, .descs, .out, .freeCtr] ⊆ fs) (e) (s : State) :
    outside fs (receiveOwn e s) = outside fs s := by
  refine outside_mono h ?_
  unfold receiveOwn
  split <;> simp

@[simp] theorem parkWritten_outside (h : [.host, .descs] ⊆ fs) (n) (s : State) :
    outside fs (parkWritten n s) = outside fs s := by
  refine outside_mono h ?_
  rw [parkWritten]
  refine outside_foldl _ (fun s a => ?_) _ _
  split <;> simp

@[simp] theorem feedWindow_outside (h : [.ms, .host, .link, .yoke, .lg, .sync, .descs, .out] ⊆ fs) (n a) (s : State) :
    outside fs (feedWindow n a s) = outside fs s := by
  refine outside_mono h ?_
  induction a generalizing s with
  | zero => rfl
  | succ k ih => simp only [feedWindow]; (repeat' split) <;> simp [ih]

@[simp] theorem leaveWindow_outside (h : [.ms, .host, .link, .yoke, .lg, .sync, .descs, .out] ⊆ fs) (q) (s : State) :
    outside fs (leaveWindow q s) = outside fs s := outside_mono h (by simp [leaveWindow])

@[simp] theorem giveBack_outside (h : [.sync, .descs, .freeCtr] ⊆ fs) (n r) (s : State) :
    outside fs (giveBack n r s) = outside fs s := outside_mono h (by simp [giveBack])

@[simp] theorem handOver_outside (h : [.ms, .host, .link, .ember, .yoke, .lg, .mem, .sync, .descs, .out, .freeCtr] ⊆ fs) (d n e) (s : State) :
    outside fs (handOver d n e s) = outside fs s := outside_mono h (by simp [handOver])

@[simp] theorem countShares_outside (h : [.ms, .host, .link, .yoke, .lg, .cores, .descs, .out] ⊆ fs) (draw shares) (s : State) :
    outside fs (countShares draw shares s) = outside fs s := outside_mono h (by simp [countShares])

@[simp] theorem runSend_outside (h : [.ms, .host, .link, .ember, .yoke, .lg, .mem, .cores, .sync, .descs, .out, .freeCtr] ⊆ fs) (d) (s : State) :
    outside fs (runSend d s) = outside fs s := by
  refine outside_mono h ?_
  simp only [runSend]
  (repeat' split) <;> simp

@[simp] theorem startSend_outside (h : [.host, .sync, .descs] ⊆ fs) (d) (s : State) :
    outside fs (startSend d s) = outside fs s := outside_mono h (by simp [startSend])

@[simp] theorem stopSend_outside (h : [.ms, .host, .link, .yoke, .lg, .sync, .descs, .out, .freeCtr] ⊆ fs) (d) (s : State) :
    outside fs (stopSend d s) = outside fs s := by
  refine outside_mono h ?_
  unfold stopSend
  (repeat' split) <;> simp

@[simp] theorem freeEntry_outside (h : [.ms, .host, .link, .yoke, .lg, .sync, .descs, .out, .freeCtr] ⊆ fs) (d e) (s : State) :
    outside fs (freeEntry d e s) = outside fs s := by
  refine outside_mono h ?_
  unfold freeEntry
  split <;> simp

theorem recvPlan_within (x e) : (recvPlan x e).Within fs := by
  intro s d draw t i n w hw
  simp only [recvPlan] at hw
  split at hw
  · cases hw
  · cases hw
    exact ⟨fun _ => rfl, fun _ => rfl⟩

@[simp] theorem runRecv_outside (h : [.ms, .host, .link, .ember, .yoke, .lg, .mem, .cores, .sync, .descs, .out, .freeCtr] ⊆ fs) (d) (s : State) : outside fs (runRecv d s) = outside fs s := by
  have hw : [.ms, .host, .link, .ember, .yoke, .lg, .mem, .cores, .descs, .out, .freeCtr] ⊆ fs := by simp_all
  simp only [runRecv]
  split
  · rfl
  · split
    · simp_all
    · rw [freeEntry_outside (by simp_all), runOpOn_outside hw _ (recvPlan_within _ _)]
      simp_all

@[simp] theorem awaitEntry_outside (h : [.host, .descs] ⊆ fs) (d) (s : State) :
    outside fs (awaitEntry d s) = outside fs s := outside_mono h (by simp [awaitEntry])

@[simp] theorem endLooks_outside (h : [.descs] ⊆ fs) (s : State) :
    outside fs (endLooks s) = outside fs s := outside_mono h (by simp [endLooks])

@[simp] theorem startRecv_outside (h : [.host, .sync, .descs] ⊆ fs) (d) (s : State) :
    outside fs (startRecv d s) = outside fs s := by
  refine outside_mono h ?_
  unfold startRecv
  (repeat' split) <;> simp

@[simp] theorem stopRecv_outside (h : [.ms, .host, .link, .ember, .yoke, .mem, .cores, .sync, .descs, .out, .freeCtr] ⊆ fs) (d) (s : State) : outside fs (stopRecv d s) = outside fs s := by
  have hw : [.ms, .host, .link, .ember, .yoke, .mem, .cores, .descs, .out, .freeCtr] ⊆ fs := by simp_all
  simp only [stopRecv]
  split
  · rfl
  · rw [offerEntries_outside (by simp_all), markEntry_outside (by simp_all)]
    split
    · exact stopOp_outside hw (recvPlan_within _ _) d s
    · rfl

@[simp] theorem doneTally_outside (h : [.sync, .descs, .freeCtr] ⊆ fs) (d status detail) (s : State) :
    outside fs (doneTally d status detail s) = outside fs s := outside_mono h (by simp [doneTally])

@[simp] theorem enableQueue_outside (h : [.ms, .host, .link, .yoke, .lg, .sync, .descs, .out, .freeCtr] ⊆ fs) (q x) (s : State) :
    outside fs (enableQueue q x s) = outside fs s := by
  refine outside_mono h ?_
  simp only [enableQueue]
  split
  · rfl
  · next ht =>
    refine Eq.trans ?_ (changeTotalOf_outside (by simp) ht)
    split <;> simp

@[simp] theorem disableQueue_outside (h : [.ms, .host, .link, .yoke, .lg, .sync, .descs, .out] ⊆ fs) (q x) (s : State) :
    outside fs (disableQueue q x s) = outside fs s := by
  refine outside_mono h ?_
  simp only [disableQueue]
  split
  · rfl
  · next ht => exact (setSqRx_outside (by simp) ..).trans (changeTotalOf_outside (by simp) ht)

@[simp] theorem flushQueue_outside (h : [.ms, .host, .link, .yoke, .lg, .sync, .descs, .out, .freeCtr] ⊆ fs) (q) (s : State) :
    outside fs (flushQueue q s) = outside fs s := outside_mono h (by simp [flushQueue])

@[simp] theorem writeSqrxCfg_outside (h : [.ms, .host, .link, .yoke, .lg, .sync, .descs, .out, .freeCtr] ⊆ fs) (q v) (s : State) :
    outside fs (writeSqrxCfg q v s) = outside fs s := outside_mono h (by simp [writeSqrxCfg])

@[simp] theorem writeSqrxGeom_outside (h : [.sync] ⊆ fs) (q v) (s : State) :
    outside fs (writeSqrxGeom q v s) = outside fs s := outside_mono h (by simp [writeSqrxGeom])

@[simp] theorem writeSqrxBase_outside (h : [.sync] ⊆ fs) (q v) (s : State) :
    outside fs (writeSqrxBase q v s) = outside fs s := outside_mono h (by simp [writeSqrxBase])

end Sys2Proof.Machine
end

section
/-! PROOFS. Which fields the operations of the ports, of admission and of collectives may change. -/

namespace Sys2Proof.Machine

variable {fs : List Field}

@[simp] theorem writeSqrxStale_outside (h : [.sync] ⊆ fs) (q v) (s : State) :
    outside fs (writeSqrxStale q v s) = outside fs s := outside_mono h (by simp [writeSqrxStale])

@[simp] theorem writeSqtxCfg_outside (h : [.sync] ⊆ fs) (n v) (s : State) :
    outside fs (writeSqtxCfg n v s) = outside fs s := outside_mono h (by simp [writeSqtxCfg])

@[simp] theorem enablePort_outside (h : [.ms, .host, .link, .adm, .yoke, .lg, .descs, .out, .freeCtr] ⊆ fs) (p) (s : State) :
    outside fs (enablePort p s) = outside fs s := outside_mono h (by simp [enablePort])

@[simp] theorem disablePort_outside (h : [.ms, .host, .link, .adm, .yoke, .lg, .descs, .out] ⊆ fs) (p) (s : State) :
    outside fs (disablePort p s) = outside fs s := outside_mono h (by simp [disablePort])

@[simp] theorem deskew_outside (h : [.link] ⊆ fs) (p) (s : State) :
    outside fs (deskew p s) = outside fs s := outside_mono h (by simp [deskew])

@[simp] theorem depose_outside (h : [.host, .yoke, .out] ⊆ fs) (s : State) :
    outside fs (depose s) = outside fs s := outside_mono h (by simp [depose])

@[simp] theorem dualActive_outside (h : [.host, .yoke, .out] ⊆ fs) (h') (s : State) :
    outside fs (dualActive h' s) = outside fs s := outside_mono h (by simp [dualActive])

@[simp] theorem takeHello_outside (h : [.ms, .host, .ft, .link, .adm, .yoke, .lg, .descs, .out] ⊆ fs) (p h') (s : State) :
    outside fs (takeHello p h' s) = outside fs s := by
  refine outside_mono h ?_
  simp only [takeHello]
  split <;> simp

@[simp] theorem retrainPort_outside (h : [.ms, .host, .link, .adm, .yoke, .lg, .descs, .out, .freeCtr] ⊆ fs) (p) (s : State) :
    outside fs (retrainPort p s) = outside fs s := outside_mono h (by simp [retrainPort])

@[simp] theorem replayFrom_outside (h : [.link, .adm, .out, .freeCtr] ⊆ fs) (p f) (s : State) :
    outside fs (replayFrom p f s) = outside fs s := outside_mono h (by simp [replayFrom])

@[simp] theorem sendNak_outside (h : [.ft, .link, .out] ⊆ fs) (p) (s : State) :
    outside fs (sendNak p s) = outside fs s := outside_mono h (by simp [sendNak])

@[simp] theorem acceptFlit_outside (h : [.ft, .link, .out] ⊆ fs) (p f) (s : State) :
    outside fs (acceptFlit p f s) = outside fs s := outside_mono h (by simp [acceptFlit])

@[simp] theorem maybeDeskew_outside (h : [.link, .freeCtr] ⊆ fs) (p) (s : State) :
    outside fs (maybeDeskew p s) = outside fs s := outside_mono h (by simp [maybeDeskew])

@[simp] theorem takeAck_outside (h : [.ms, .host, .link, .yoke, .lg, .descs, .out] ⊆ fs) (p f) (s : State) :
    outside fs (takeAck p f s) = outside fs s := outside_mono h (by simp [takeAck])

@[simp] theorem transmit_outside (h : [.link, .out] ⊆ fs) (p q) (s : State) :
    outside fs (transmit p q s) = outside fs s := outside_mono h (by simp [transmit])

@[simp] theorem sendIdle_outside (h : [.link, .out] ⊆ fs) (p) (s : State) :
    outside fs (sendIdle p s) = outside fs s := outside_mono h (by simp [sendIdle])

@[simp] theorem sendWaiting_outside (h : [.ft, .link, .out] ⊆ fs) (p w) (s : State) :
    outside fs (sendWaiting p w s) = outside fs s := outside_mono h (by simp [sendWaiting])

@[simp] theorem returnStreams_outside (h : [.link] ⊆ fs) (p) (s : State) :
    outside fs (returnStreams p s) = outside fs s := outside_mono h (by simp [returnStreams])

@[simp] theorem setAdmit_outside (h : [.adm] ⊆ fs) (a) (s : State) :
    outside fs (setAdmit a s) = outside fs s := outside_mono h (by simp [setAdmit])

@[simp] theorem refuseAdmission_outside (h : [.adm] ⊆ fs) (reason port) (s : State) :
    outside fs (refuseAdmission reason port s) = outside fs s := outside_mono h (by simp [refuseAdmission])

@[simp] theorem admitRequest_outside (h : [.adm] ⊆ fs) (s : State) :
    outside fs (admitRequest s) = outside fs s := outside_mono h (by simp [admitRequest])

@[simp] theorem admitPort_outside (h : [.link] ⊆ fs) (p) (s : State) :
    outside fs (admitPort p s) = outside fs s := outside_mono h (by simp [admitPort])

@[simp] theorem admitNow_outside (h : [.ms, .host, .link, .adm, .yoke, .lg, .descs, .out] ⊆ fs) (m) (s : State) :
    outside fs (admitNow m s) = outside fs s := outside_mono h (by simp [admitNow])

@[simp] theorem admitCheck_outside (h : [.ms, .host, .link, .adm, .yoke, .lg, .mem, .descs, .out] ⊆ fs) (s : State) :
    outside fs (admitCheck s) = outside fs s := by
  refine outside_mono h ?_
  simp only [admitCheck]
  (repeat' split) <;> simp

@[simp] theorem admitWithdrawal_outside (h : [.link, .adm] ⊆ fs) (s : State) :
    outside fs (admitWithdrawal s) = outside fs s := outside_mono h (by simp [admitWithdrawal])

@[simp] theorem writeAdmit_outside (h : [.link, .adm, .freeCtr] ⊆ fs) (v) (s : State) :
    outside fs (writeAdmit v s) = outside fs s := outside_mono h (by simp [writeAdmit])

@[simp] theorem countCorrected_outside (h : [.mem] ⊆ fs) (p) (s : State) :
    outside fs (countCorrected p s) = outside fs s := by
  refine outside_mono h ?_
  unfold countCorrected
  split <;> simp

@[simp] theorem markBad_outside (h : [.mem] ⊆ fs) (p symbols) (s : State) :
    outside fs (markBad p symbols s) = outside fs s := outside_mono h (by simp [markBad])

@[simp] theorem miscorrect_outside (h : [.mem] ⊆ fs) (p bs) (s : State) :
    outside fs (miscorrect p bs s) = outside fs s := outside_mono h (by simp [miscorrect])

@[simp] theorem checkBar2_outside (h : [.mem] ⊆ fs) (a n errors) (s : State) :
    outside fs (checkBar2 a n errors s) = outside fs s := by
  refine outside_mono h ?_
  rw [checkBar2]
  refine outside_foldl _ (fun s a => ?_) _ _
  (repeat' split) <;> simp

@[simp] theorem afterWrites_outside (h : [.mem] ⊆ fs) (s : State) :
    outside fs (afterWrites s) = outside fs s := outside_mono h (by simp [afterWrites])

@[simp] theorem serveBar2_outside (h : [.mem, .out] ⊆ fs) (a n errors tag) (s : State) :
    outside fs (serveBar2 a n errors tag s) = outside fs s := by
  refine outside_mono h ?_
  simp only [serveBar2]
  split <;> simp

@[simp] theorem readBar2_outside (h : [.mem, .out] ⊆ fs) (a n errors tag) (s : State) :
    outside fs (readBar2 a n errors tag s) = outside fs s := by
  refine outside_mono h ?_
  unfold readBar2
  split <;> simp

@[simp] theorem writeBar2_outside (h : [.ember, .mem, .freeCtr] ⊆ fs) (a bs) (s : State) :
    outside fs (writeBar2 a bs s) = outside fs s := outside_mono h (by simp [writeBar2])

@[simp] theorem setRun_outside (h : [.coll] ⊆ fs) (x) (s : State) :
    outside fs (setRun x s) = outside fs s := outside_mono h (by simp [setRun])

@[simp] theorem takeInst_outside (h : [.coll] ⊆ fs) (slot) (s : State) :
    outside fs (takeInst slot s).2 = outside fs s := outside_mono h (by simp [takeInst])

@[simp] theorem setLast_outside (h : [.lag, .freeCtr] ⊆ fs) (x) (s : State) :
    outside fs (setLast x s) = outside fs s := by
  refine outside_mono h ?_
  simp only [setLast]
  split <;> simp

@[simp] theorem stopRun_outside (h : [.coll, .descs] ⊆ fs) (x rep) (s : State) :
    outside fs (stopRun x rep s) = outside fs s := outside_mono h (by simp [stopRun])

@[simp] theorem endColl_outside (h : [.lag, .coll, .descs, .freeCtr] ⊆ fs) (s : State) :
    outside fs (endColl s) = outside fs s := by
  refine outside_mono h ?_
  unfold endColl
  (repeat' split) <;> simp

@[simp] theorem sendChunk_outside (h : [.ms, .host, .link, .yoke, .lg, .coll, .descs, .out] ⊆ fs) (slot inst op vc dst block phase i n data) (s : State) :
    outside fs (sendChunk slot inst op vc dst block phase i n data s) = outside fs s := by
  refine outside_mono h ?_
  simp only [sendChunk]
  (repeat' split) <;> simp

@[simp] theorem sendPiece_outside (h : [.ms, .host, .link, .yoke, .lg, .mem, .coll, .descs, .out] ⊆ fs) (d x ps rank phase b i) (s : State) :
    outside fs (sendPiece d x ps rank phase b i s) = outside fs s := by
  refine outside_mono h ?_
  simp only [sendPiece]
  split <;> simp

@[simp] theorem sendRegion_outside (h : [.ms, .host, .link, .yoke, .lg, .mem, .coll, .descs, .out] ⊆ fs) (d x ps rank phase b) (s : State) :
    outside fs (sendRegion d x ps rank phase b s) = outside fs s := outside_mono h (by simp [sendRegion])

@[simp] theorem noteWrites_outside (h : [.coll] ⊆ fs) (ws) (s : State) :
    outside fs (noteWrites ws s) = outside fs s := by
  refine outside_mono h ?_
  unfold noteWrites
  split <;> simp

@[simp] theorem storeArrived_outside (h : [.ember, .mem, .coll, .freeCtr] ⊆ fs) (d ws) (s : State) :
    outside fs (storeArrived d ws s) = outside fs s := outside_mono h (by simp [storeArrived])

@[simp] theorem storeOwn_outside (h : [.ms, .host, .link, .ember, .yoke, .mem, .coll, .descs, .out, .freeCtr] ⊆ fs) (d reads ws) (s : State) :
    outside fs (storeOwn d reads ws s) = outside fs s := by
  refine outside_mono h ?_
  unfold storeOwn
  split <;> simp

@[simp] theorem reducePiece_outside (h : [.ms, .host, .link, .ember, .yoke, .lg, .mem, .he, .coll, .descs, .out, .freeCtr] ⊆ fs) (d a data ws) (s : State) :
    outside fs (reducePiece d a data ws s) = outside fs s := by
  refine outside_mono h ?_
  unfold reducePiece
  split <;> simp

@[simp] theorem sendMack_outside (h : [.ms, .host, .link, .yoke, .lg, .descs, .out] ⊆ fs) (pos stream vc q) (s : State) :
    outside fs (sendMack pos stream vc q s) = outside fs s := outside_mono h (by simp [sendMack])

@[simp] theorem holdEarly_outside (h : [.coll] ⊆ fs) (c) (s : State) :
    outside fs (holdEarly c s) = outside fs s := outside_mono h (by simp [holdEarly])

@[simp] theorem acceptChunk_outside (h : [.ms, .host, .link, .yoke, .lg, .descs, .out] ⊆ fs) (c) (s : State) :
    outside fs (acceptChunk c s) = outside fs s := outside_mono h (by simp [acceptChunk])

@[simp] theorem countReplayed_outside (h : [.link] ⊆ fs) (c last) (s : State) :
    outside fs (countReplayed c last s) = outside fs s := outside_mono h (by simp [countReplayed])

@[simp] theorem logChunk_outside (h : [.ms, .host, .link, .ember, .yoke, .lg, .mem, .descs, .out] ⊆ fs) (c off) (s : State) :
    outside fs (logChunk c off s) = outside fs s := outside_mono h (by simp [logChunk])

@[simp] theorem mismatch_outside (h : [.coll] ⊆ fs) (s : State) :
    outside fs (mismatch s) = outside fs s := by
  refine outside_mono h ?_
  unfold mismatch
  split <;> simp

@[simp] theorem misfit_outside (h : [.ms, .host, .link, .yoke, .lg, .coll, .descs, .out] ⊆ fs) (c) (s : State) :
    outside fs (misfit c s) = outside fs s := by
  refine outside_mono h ?_
  unfold misfit
  split <;> simp

@[simp] theorem takePiece_outside (h : [.ms, .host, .link, .ember, .yoke, .lg, .mem, .he, .coll, .descs, .out, .freeCtr] ⊆ fs) (d x ps me src bs b c) (s : State) :
    outside fs (takePiece d x ps me src bs b c s) = outside fs s := by
  refine outside_mono h ?_
  simp only [takePiece]
  split
  · split
    · simp
    · (repeat' split) <;> simp
  · rw [outside_foldl _ fun s a => by split <;> simp]
    (repeat' split) <;> simp

@[simp] theorem takeReport_outside (h : [.ms, .host, .link, .ember, .yoke, .lg, .mem, .coll, .descs, .out] ⊆ fs) (x src c) (s : State) :
    outside fs (takeReport x src c s) = outside fs s := outside_mono h (by simp [takeReport])

@[simp] theorem judgePiece_outside (h : [.ms, .host, .link, .ember, .yoke, .lg, .mem, .he, .coll, .descs, .out, .freeCtr] ⊆ fs) (x d c) (s : State) :
    outside fs (judgePiece x d c s) = outside fs s := by
  refine outside_mono h ?_
  simp only [judgePiece]
  (repeat' split) <;> simp

@[simp] theorem applyChunk_outside (h : [.ms, .host, .link, .ember, .yoke, .lg, .mem, .he, .lag, .coll, .descs, .out, .freeCtr] ⊆ fs) (c) (s : State) :
    outside fs (applyChunk c s) = outside fs s := by
  refine outside_mono h ?_
  unfold applyChunk
  (repeat' split) <;> simp

@[simp] theorem replayEarly_outside (h : [.ms, .host, .link, .ember, .yoke, .lg, .mem, .he, .lag, .coll, .descs, .out, .freeCtr] ⊆ fs) (slot inst) (s : State) :
    outside fs (replayEarly slot inst s) = outside fs s := outside_mono h (by simp [replayEarly])

@[simp] theorem takeHeld_outside (h : [.ms, .host, .link, .ember, .yoke, .lg, .mem, .he, .lag, .coll, .descs, .out, .freeCtr] ⊆ fs) (s : State) :
    outside fs (takeHeld s) = outside fs s := by
  refine outside_mono h ?_
  unfold takeHeld
  split <;> simp

@[simp] theorem startColl_outside (h : [.ms, .host, .link, .ember, .yoke, .lg, .mem, .he, .lag, .coll, .descs, .out, .freeCtr] ⊆ fs) (d) (s : State) :
    outside fs (startColl d s) = outside fs s := by
  refine outside_mono h ?_
  simp only [startColl]
  rw [endColl_outside (by simp), replayEarly_outside (by simp)]
  split
  · rw [outside_foldl _ fun s b => by (repeat' split) <;> simp]
    simp
  · simp

@[simp] theorem withBuf_outside (h : [.ms, .host, .link, .yoke, .mem, .descs, .out] ⊆ fs) (d a f) (s : State) (hf : ∀ a s, outside fs (f a s) = outside fs s) :
    outside fs (withBuf d a f s) = outside fs s := by
  unfold withBuf
  split
  · simp [h]
  · exact hf _ s

@[simp] theorem copyRun_outside (h : [.ms, .host, .link, .ember, .yoke, .mem, .lag, .coll, .descs, .out, .freeCtr] ⊆ fs) (d op src dst) (s : State) :
    outside fs (copyRun d op src dst s) = outside fs s := outside_mono h (by simp [copyRun])

@[simp] theorem ask_outside (h : [.coll] ⊆ fs) (pos q d nf) (s : State) :
    outside fs (ask pos q d nf s) = outside fs s := outside_mono h (by simp [ask])

@[simp] theorem takeVc_outside (h : [.link] ⊆ fs) (pos vc) (s : State) :
    outside fs (takeVc pos vc s).2 = outside fs s := by
  refine outside_mono h ?_
  simp only [takeVc]
  split <;> simp

@[simp] theorem startPut_outside (h : [.ms, .host, .link, .ember, .yoke, .lg, .mem, .lag, .coll, .descs, .out, .freeCtr] ⊆ fs) (d) (s : State) :
    outside fs (startPut d s) = outside fs s := outside_mono h (by simp [startPut])

@[simp] theorem startGet_outside (h : [.ms, .host, .link, .ember, .yoke, .lg, .mem, .lag, .coll, .descs, .out, .freeCtr] ⊆ fs) (d) (s : State) :
    outside fs (startGet d s) = outside fs s := outside_mono h (by simp [startGet])

@[simp] theorem collRow_outside (h : [.host, .claims, .descs, .out] ⊆ fs) (r op f) (s : State) (hf : ∀ a s, outside fs (f a s) = outside fs s) :
    outside fs (collRow r op f s) = outside fs s := by
  have hd : [.descs] ⊆ fs ∧ [.host, .claims, .out] ⊆ fs := by simp_all
  refine atStage_outside _ _ _ _ _ fun d s => ?_
  (repeat' split) <;> simp [hd, hf]

@[simp] theorem takeMack_outside (h : [.link, .lag, .coll, .descs, .freeCtr] ⊆ fs) (pos stream q) (s : State) :
    outside fs (takeMack pos stream q s) = outside fs s := by
  refine outside_mono h ?_
  simp only [takeMack]
  split <;> simp

@[simp] theorem stopSending_outside (h : [.ms, .host, .link, .yoke, .lg, .descs, .out] ⊆ fs) (x refused) (s : State) :
    outside fs (stopSending x refused s) = outside fs s := by
  refine outside_mono h ?_
  rw [stopSending, outside_foldl _ fun s a => by dsimp only; split <;> simp]
  simp

@[simp] theorem refuseChunk_outside (h : [.ms, .host, .link, .yoke, .lg, .coll, .descs, .out] ⊆ fs) (pos stream q reason) (s : State) :
    outside fs (refuseChunk pos stream q reason s) = outside fs s := by
  refine outside_mono h ?_
  unfold refuseChunk
  split <;> simp

@[simp] theorem refuseRemote_outside (h : [.ms, .host, .link, .yoke, .lg, .coll, .descs, .out] ⊆ fs) (pos q) (s : State) :
    outside fs (refuseRemote pos q s) = outside fs s := by
  refine outside_mono h ?_
  simp only [refuseRemote]
  (repeat' split) <;> simp

@[simp] theorem sendResponse_outside (h : [.ms, .host, .link, .yoke, .lg, .descs, .out] ⊆ fs) (dst vc status far data) (s : State) :
    outside fs (sendResponse dst vc status far data s) = outside fs s := outside_mono h (by simp [sendResponse])

@[simp] theorem holdRemote_outside (h : [.coll] ⊆ fs) (p) (s : State) :
    outside fs (holdRemote p s) = outside fs s := outside_mono h (by simp [holdRemote])

@[simp] theorem serveRead_outside (h : [.ms, .host, .link, .yoke, .lg, .mem, .coll, .descs, .out] ⊆ fs) (p) (s : State) :
    outside fs (serveRead p s) = outside fs s := by
  refine outside_mono h ?_
  simp only [serveRead]
  (repeat' split) <;> simp

@[simp] theorem writeRemote_outside (h : [.ms, .host, .link, .ember, .yoke, .lg, .mem, .descs, .out, .freeCtr] ⊆ fs) (p data) (s : State) :
    outside fs (writeRemote p data s) = outside fs s := outside_mono h (by simp [writeRemote])

@[simp] theorem serveWrite_outside (h : [.ms, .host, .link, .ember, .yoke, .lg, .mem, .coll, .descs, .out, .freeCtr] ⊆ fs) (p data) (s : State) :
    outside fs (serveWrite p data s) = outside fs s := outside_mono h (by simp [serveWrite])

@[simp] theorem serveUnwritten_outside (h : [.ms, .host, .link, .ember, .yoke, .lg, .mem, .coll, .descs, .out, .freeCtr] ⊆ fs) (s : State) :
    outside fs (serveUnwritten s) = outside fs s := outside_mono h (by simp [serveUnwritten])

@[simp] theorem logRemoteErr_outside (h : [.mem, .freeCtr] ⊆ fs) (a) (s : State) :
    outside fs (logRemoteErr a s).2 = outside fs s := outside_mono h (by simp [logRemoteErr])

@[simp] theorem endReply_outside (h : [.ms, .host, .link, .yoke, .mem, .lag, .coll, .descs, .out, .freeCtr] ⊆ fs) (r status) (s : State) :
    outside fs (endReply r status s) = outside fs s := by
  refine outside_mono h ?_
  unfold endReply
  split <;> simp

@[simp] theorem applyResponse_outside (h : [.ms, .host, .link, .ember, .yoke, .lg, .mem, .lag, .coll, .descs, .out, .freeCtr] ⊆ fs) (x d p) (s : State) :
    outside fs (applyResponse x d p s) = outside fs s := outside_mono h (by simp [applyResponse])

end Sys2Proof.Machine
end

section
/-! PROOFS. Which fields the operations of remote accesses, run guards, ledgers and embers may change. -/

namespace Sys2Proof.Machine

variable {fs : List Field}

@[simp] theorem takeResponse_outside (h : [.ms, .host, .link, .ember, .yoke, .lg, .mem, .lag, .coll, .descs, .out, .freeCtr] ⊆ fs) (p) (s : State) :
    outside fs (takeResponse p s) = outside fs s := by
  refine outside_mono h ?_
  simp only [takeResponse]
  (repeat' split) <;> simp

@[simp] theorem collTimeout_outside (h : [.coll, .descs] ⊆ fs) (d) (s : State) :
    outside fs (collTimeout d s) = outside fs s := by
  refine outside_mono h ?_
  unfold collTimeout
  (repeat' split) <;> simp

@[simp] theorem setGuard_outside (h : [.guard] ⊆ fs) (g) (s : State) :
    outside fs (setGuard g s) = outside fs s := outside_mono h (by simp [setGuard])

@[simp] theorem closeWindow_outside (h : [.ft, .guard] ⊆ fs) (now) (s : State) :
    outside fs (closeWindow now s).2 = outside fs s := outside_mono h (by simp [closeWindow])

@[simp] theorem largerOf_outside (h : [.freeCtr] ⊆ fs) (a b) (s : State) :
    outside fs (largerOf a b s).2 = outside fs s := by
  refine outside_mono h ?_
  simp only [largerOf]
  split <;> simp

@[simp] theorem postReport_outside (h : [.guard, .descs, .freeCtr] ⊆ fs) (d count) (s : State) :
    outside fs (postReport d count s) = outside fs s := outside_mono h (by simp [postReport])

@[simp] theorem beginExchange_outside (h : [.ms, .host, .link, .ember, .yoke, .lg, .mem, .he, .lag, .coll, .descs, .out, .freeCtr] ⊆ fs) (d) (s : State) :
    outside fs (beginExchange d s) = outside fs s := outside_mono h (by simp [beginExchange])

@[simp] theorem serviceExchange_outside (h : [.ms, .host, .link, .ember, .yoke, .lg, .mem, .he, .lag, .coll, .descs, .out, .freeCtr] ⊆ fs) (s : State) :
    outside fs (serviceExchange s) = outside fs s := by
  refine outside_mono h ?_
  simp only [serviceExchange]
  split <;> simp

@[simp] theorem combineReports_outside (h : [.freeCtr] ⊆ fs) (round rs) (s : State) :
    outside fs (combineReports round rs s).2 = outside fs s := outside_mono h (by simp [combineReports])

@[simp] theorem resumeGated_outside (h : [.descs] ⊆ fs) (round) (s : State) :
    outside fs (resumeGated round s) = outside fs s := outside_mono h (by simp [resumeGated])

@[simp] theorem settleVerdict_outside (h : [.ms, .host, .link, .ember, .yoke, .lg, .mem, .guard, .descs, .out] ⊆ fs) (g round word) (s : State) :
    outside fs (settleVerdict g round word s) = outside fs s := outside_mono h (by simp [settleVerdict])

@[simp] theorem endVerdict_outside (h : [.descs] ⊆ fs) (d word) (s : State) :
    outside fs (endVerdict d word s) = outside fs s := by
  refine outside_mono h ?_
  unfold endVerdict
  split <;> simp

@[simp] theorem missRound_outside (h : [.coll, .descs] ⊆ fs) (d) (s : State) :
    outside fs (missRound d s) = outside fs s := by
  refine outside_mono h ?_
  simp only [missRound]
  split <;> simp

@[simp] theorem formVerdict_outside (h : [.ms, .host, .link, .ember, .yoke, .lg, .mem, .guard, .coll, .descs, .out, .freeCtr] ⊆ fs) (d rs) (s : State) :
    outside fs (formVerdict d rs s) = outside fs s := outside_mono h (by simp [formVerdict])

@[simp] theorem verdictTimeout_outside (h : [.coll, .descs] ⊆ fs) (d) (s : State) :
    outside fs (verdictTimeout d s) = outside fs s := by
  refine outside_mono h ?_
  unfold verdictTimeout
  split <;> simp

@[simp] theorem guardWrite_outside (h : [.guard] ⊆ fs) (f) (s : State) :
    outside fs (guardWrite f s) = outside fs s := outside_mono h (by simp [guardWrite])

@[simp] theorem writeGuardCfg_outside (h : [.guard] ⊆ fs) (v) (s : State) :
    outside fs (writeGuardCfg v s) = outside fs s := outside_mono h (by simp [writeGuardCfg])

@[simp] theorem writeDoneRound_outside (h : [.guard] ⊆ fs) (v) (s : State) :
    outside fs (writeDoneRound v s) = outside fs s := outside_mono h (by simp [writeDoneRound])

@[simp] theorem writeGuardCtx_outside (h : [.guard] ⊆ fs) (v) (s : State) :
    outside fs (writeGuardCtx v s) = outside fs s := outside_mono h (by simp [writeGuardCtx])

@[simp] theorem writeNfLimit_outside (h : [.guard] ⊆ fs) (v) (s : State) :
    outside fs (writeNfLimit v s) = outside fs s := outside_mono h (by simp [writeNfLimit])

@[simp] theorem writeSpike_outside (h : [.guard] ⊆ fs) (v) (s : State) :
    outside fs (writeSpike v s) = outside fs s := outside_mono h (by simp [writeSpike])

@[simp] theorem writeNormLimit_outside (h : [.guard] ⊆ fs) (v) (s : State) :
    outside fs (writeNormLimit v s) = outside fs s := outside_mono h (by simp [writeNormLimit])

@[simp] theorem writeAvg_outside (h : [.guard] ⊆ fs) (v) (s : State) :
    outside fs (writeAvg v s) = outside fs s := outside_mono h (by simp [writeAvg])

@[simp] theorem writeGuardState_outside (h : [.guard] ⊆ fs) (v) (s : State) :
    outside fs (writeGuardState v s) = outside fs s := outside_mono h (by simp [writeGuardState])

@[simp] theorem auditDomain_outside (h : [.ms, .host, .link, .yoke, .lg, .descs, .out] ⊆ fs) (d) (s : State) :
    outside fs (auditDomain s d) = outside fs s := outside_mono h (by simp [auditDomain])

@[simp] theorem snapAudit_outside (h : [.ms, .host, .link, .yoke, .lg, .descs, .out] ⊆ fs) (s : State) :
    outside fs (snapAudit s) = outside fs s := outside_mono h (by simp [snapAudit])

@[simp] theorem takeSnapshot_outside (h : [.ms, .host, .link, .ember, .yoke, .lg, .mem, .descs, .out, .freeCtr] ⊆ fs) (s : State) :
    outside fs (takeSnapshot s) = outside fs s := outside_mono h (by simp [takeSnapshot])

@[simp] theorem writeSnapCtrl_outside (h : [.ms, .host, .link, .ember, .yoke, .lg, .mem, .descs, .out, .freeCtr] ⊆ fs) (v) (s : State) :
    outside fs (writeSnapCtrl v s) = outside fs s := outside_mono h (by simp [writeSnapCtrl])

@[simp] theorem setYoke_outside (h : [.yoke] ⊆ fs) (y) (s : State) :
    outside fs (setYoke y s) = outside fs s := outside_mono h (by simp [setYoke])

@[simp] theorem heardPartner_outside (h : [.yoke] ⊆ fs) (s : State) :
    outside fs (heardPartner s) = outside fs s := outside_mono h (by simp [heardPartner])

@[simp] theorem setEmber_outside (h : [.ember] ⊆ fs) (e) (s : State) :
    outside fs (setEmber e s) = outside fs s := outside_mono h (by simp [setEmber])

@[simp] theorem emberRow_outside (h : [.ms, .host, .link, .yoke, .mem, .descs, .out] ⊆ fs) (r op f) (s : State) (hf : ∀ a s, outside fs (f a s) = outside fs s) :
    outside fs (emberRow r op f s) = outside fs s := by
  have hd : [.descs] ⊆ fs ∧ [.ms, .host, .link, .yoke, .mem, .descs, .out] ⊆ fs := by simp_all
  refine atStage_outside _ _ _ _ _ fun d s => ?_
  (repeat' split) <;> simp [hd, hf]

@[simp] theorem putRecord_outside (h : [.mem] ⊆ fs) (b) (s : State) :
    outside fs (putRecord b s) = outside fs s := outside_mono h (by simp [putRecord])

@[simp] theorem relogDescs_outside (h : [.ms, .host, .link, .ember, .yoke, .lg, .mem, .descs, .out] ⊆ fs) (s : State) :
    outside fs (relogDescs s) = outside fs s := outside_mono h (by simp [relogDescs])

@[simp] theorem openEpoch_outside (h : [.ms, .host, .link, .ember, .yoke, .lg, .mem, .descs, .out] ⊆ fs) (d) (s : State) :
    outside fs (openEpoch d s) = outside fs s := outside_mono h (by simp [openEpoch])

@[simp] theorem makeHeld_outside (h : [.ms, .host, .link, .yoke, .mem, .descs, .out] ⊆ fs) (ws) (s : State) :
    outside fs (makeHeld ws s) = outside fs s := by
  refine outside_mono h ?_
  simp only [makeHeld]
  rw [outside_foldl _ fun s c => by split <;> simp]
  simp

@[simp] theorem releaseReceived_outside (h : [.ms, .host, .link, .ember, .yoke, .lg, .mem, .he, .sync, .lag, .coll, .descs, .out, .freeCtr] ⊆ fs) (s : State) :
    outside fs (releaseReceived s) = outside fs s := outside_mono h (by simp [releaseReceived])

@[simp] theorem releaseHeld_outside (h : [.ms, .host, .link, .ember, .yoke, .lg, .mem, .he, .sync, .lag, .coll, .descs, .out, .freeCtr] ⊆ fs) (i) (s : State) :
    outside fs (releaseHeld i s) = outside fs s := outside_mono h (by simp [releaseHeld])

@[simp] theorem releaseAllHeld_outside (h : [.ms, .host, .link, .ember, .yoke, .lg, .mem, .he, .sync, .lag, .coll, .descs, .out, .freeCtr] ⊆ fs) (s : State) :
    outside fs (releaseAllHeld s) = outside fs s := outside_mono h (by simp [releaseAllHeld])

@[simp] theorem abandonEpoch_outside (h : [.ms, .host, .link, .ember, .yoke, .lg, .mem, .he, .sync, .lag, .coll, .descs, .out, .freeCtr] ⊆ fs) (s : State) :
    outside fs (abandonEpoch s) = outside fs s := by
  refine outside_mono h ?_
  simp only [abandonEpoch]
  rw [releaseAllHeld_outside (by simp), setEmber_outside (by simp), outside_foldl _ fun s c => by (repeat' split) <;> simp]

@[simp] theorem runOpen_outside (h : [.ms, .host, .link, .ember, .yoke, .lg, .mem, .he, .sync, .lag, .coll, .descs, .out, .freeCtr] ⊆ fs) (d) (s : State) :
    outside fs (runOpen d s) = outside fs s := outside_mono h (by simp [runOpen])

@[simp] theorem runAbandon_outside (h : [.ms, .host, .link, .ember, .yoke, .lg, .mem, .he, .sync, .lag, .coll, .descs, .out, .freeCtr] ⊆ fs) (d) (s : State) :
    outside fs (runAbandon d s) = outside fs s := outside_mono h (by simp [runAbandon])

@[simp] theorem writeHome_outside (h : [.ms, .host, .link, .ember, .yoke, .mem, .descs, .out, .freeCtr] ⊆ fs) (d n p b) (s : State) :
    outside fs (writeHome d n p b s) = outside fs s := outside_mono h (by simp [writeHome])

@[simp] theorem loadPage_outside (h : [.ms, .host, .link, .ember, .yoke, .mem, .descs, .out, .freeCtr] ⊆ fs) (d i b) (s : State) :
    outside fs (loadPage d i b s) = outside fs s := by
  refine outside_mono h ?_
  unfold loadPage
  split <;> simp

@[simp] theorem loadFailed_outside (h : [.ms, .host, .link, .ember, .yoke, .mem, .descs, .out, .freeCtr] ⊆ fs) (d) (s : State) :
    outside fs (loadFailed d s) = outside fs s := outside_mono h (by simp [loadFailed])

@[simp] theorem takeLoad_outside (h : [.ms, .host, .link, .ember, .yoke, .mem, .descs, .out, .freeCtr] ⊆ fs) (page bytes d) (s : State) :
    outside fs (takeLoad page bytes d s) = outside fs s := by
  refine outside_mono h ?_
  unfold takeLoad
  (repeat' split) <;> simp

@[simp] theorem startPageCopy_outside (h : [.ms, .host, .link, .ember, .yoke, .lg, .descs, .out, .freeCtr] ⊆ fs) (i) (s : State) :
    outside fs (startPageCopy i s) = outside fs s := by
  refine outside_mono h ?_
  unfold startPageCopy
  split <;> simp

@[simp] theorem countGranules_outside (h : [.ms, .host, .link, .yoke, .lg, .he, .descs, .out, .freeCtr] ⊆ fs) (n p) (s : State) :
    outside fs (countGranules n p s) = outside fs s := outside_mono h (by simp [countGranules])

@[simp] theorem streamRecord_outside (h : [.ms, .host, .link, .ember, .yoke, .lg, .descs, .out] ⊆ fs) (s : State) :
    outside fs (streamRecord s) = outside fs s := outside_mono h (by simp [streamRecord])

@[simp] theorem streamPage_outside (h : [.ms, .host, .link, .ember, .yoke, .lg, .mem, .he, .sync, .lag, .coll, .descs, .out, .freeCtr] ⊆ fs) (i) (s : State) :
    outside fs (streamPage i s) = outside fs s := by
  refine outside_mono h ?_
  simp only [streamPage]
  (repeat' split) <;> simp

@[simp] theorem beginPage_outside (h : [.ms, .host, .link, .ember, .yoke, .lg, .mem, .he, .sync, .lag, .coll, .descs, .out, .freeCtr] ⊆ fs) (i) (s : State) :
    outside fs (beginPage i s) = outside fs s := outside_mono h (by simp [beginPage])

@[simp] theorem ackPage_outside (h : [.ms, .host, .link, .ember, .yoke, .lg, .descs, .out] ⊆ fs) (i) (s : State) :
    outside fs (ackPage i s) = outside fs s := by
  refine outside_mono h ?_
  simp only [ackPage]
  (repeat' split) <;> simp

@[simp] theorem sealEpoch_outside (h : [.ms, .host, .link, .ember, .yoke, .lg, .mem, .he, .sync, .lag, .coll, .descs, .out, .freeCtr] ⊆ fs) (s : State) :
    outside fs (sealEpoch s) = outside fs s := outside_mono h (by simp [sealEpoch])

@[simp] theorem sealIfAcked_outside (h : [.ms, .host, .link, .ember, .yoke, .lg, .mem, .he, .sync, .lag, .coll, .descs, .out, .freeCtr] ⊆ fs) (s : State) :
    outside fs (sealIfAcked s) = outside fs s := outside_mono h (by simp [sealIfAcked])

@[simp] theorem takePageAck_outside (h : [.ms, .host, .link, .ember, .yoke, .lg, .mem, .he, .sync, .lag, .coll, .descs, .out, .freeCtr] ⊆ fs) (epoch pages) (s : State) :
    outside fs (takePageAck epoch pages s) = outside fs s := outside_mono h (by simp [takePageAck])

@[simp] theorem takeSealAck_outside (h : [.ms, .host, .link, .ember, .yoke, .lg, .mem, .he, .sync, .lag, .coll, .descs, .out, .freeCtr] ⊆ fs) (epoch) (s : State) :
    outside fs (takeSealAck epoch s) = outside fs s := outside_mono h (by simp [takeSealAck])

@[simp] theorem setYokeErr_outside (h : [.host, .yoke, .out] ⊆ fs) (v) (s : State) :
    outside fs (setYokeErr v s) = outside fs s := outside_mono h (by simp [setYokeErr])

@[simp] theorem linkIfReady_outside (h : [.host, .ember, .yoke, .out] ⊆ fs) (s : State) :
    outside fs (linkIfReady s) = outside fs s := outside_mono h (by simp [linkIfReady])

@[simp] theorem takePair_outside (h : [.host, .ember, .yoke, .out] ⊆ fs) (logPages entries variant) (s : State) :
    outside fs (takePair logPages entries variant s) = outside fs s := outside_mono h (by simp [takePair])

@[simp] theorem takeHeartbeat_outside (h : [.host, .ember, .yoke, .out] ⊆ fs) (s : State) :
    outside fs (takeHeartbeat s) = outside fs s := outside_mono h (by simp [takeHeartbeat])

@[simp] theorem rxBegin_outside (h : [.yoke] ⊆ fs) (epoch) (s : State) :
    outside fs (rxBegin epoch s) = outside fs s := outside_mono h (by simp [rxBegin])

@[simp] theorem sendPageAck_outside (h : [.ms, .host, .link, .yoke, .lg, .descs, .out] ⊆ fs) (s : State) :
    outside fs (sendPageAck s) = outside fs s := outside_mono h (by simp [sendPageAck])

@[simp] theorem takePage_outside (h : [.ms, .host, .link, .yoke, .lg, .mem, .descs, .out] ⊆ fs) (e j b) (s : State) :
    outside fs (takePage e j b s) = outside fs s := by
  refine outside_mono h ?_
  simp only [takePage]
  split <;> simp

@[simp] theorem takeEmber_outside (h : [.ms, .host, .link, .yoke, .lg, .mem, .descs, .out] ⊆ fs) (arg0 arg1 b) (s : State) :
    outside fs (takeEmber arg0 arg1 b s) = outside fs s := outside_mono h (by simp [takeEmber])

@[simp] theorem takeLog_outside (h : [.ms, .host, .link, .ember, .yoke, .lg, .mem, .descs, .out] ⊆ fs) (o b) (s : State) :
    outside fs (takeLog o b s) = outside fs s := outside_mono h (by simp [takeLog])

@[simp] theorem takeSeal_outside (h : [.ms, .host, .link, .ember, .yoke, .lg, .descs, .out] ⊆ fs) (epoch) (s : State) :
    outside fs (takeSeal epoch s) = outside fs s := outside_mono h (by simp [takeSeal])

@[simp] theorem takeForfeit_outside (h : [.ember] ⊆ fs) (s : State) :
    outside fs (takeForfeit s) = outside fs s := outside_mono h (by simp [takeForfeit])

@[simp] theorem acceptNow_outside (h : [.ms, .host, .link, .ember, .yoke, .lg, .mem, .sync, .lag, .coll, .descs, .out, .freeCtr] ⊆ fs) (a) (s : State) :
    outside fs (acceptNow a s) = outside fs s := by
  refine outside_mono h ?_
  unfold acceptNow
  split <;> simp

@[simp] theorem acceptUpTo_outside (h : [.ms, .host, .link, .ember, .yoke, .lg, .mem, .sync, .lag, .coll, .descs, .out, .freeCtr] ⊆ fs) (covered) (s : State) :
    outside fs (acceptUpTo covered s) = outside fs s := outside_mono h (by simp [acceptUpTo])

@[simp] theorem takeLogAck_outside (h : [.ms, .host, .link, .ember, .yoke, .lg, .mem, .sync, .lag, .coll, .descs, .out, .freeCtr] ⊆ fs) (bytes) (s : State) :
    outside fs (takeLogAck bytes s) = outside fs s := outside_mono h (by simp [takeLogAck])

@[simp] theorem acceptAll_outside (h : [.ms, .host, .link, .ember, .yoke, .lg, .mem, .sync, .lag, .coll, .descs, .out, .freeCtr] ⊆ fs) (s : State) :
    outside fs (acceptAll s) = outside fs s := outside_mono h (by simp [acceptAll])

@[simp] theorem sendResync_outside (h : [.ms, .host, .link, .yoke, .lg, .descs, .out] ⊆ fs) (pos) (s : State) :
    outside fs (sendResync pos s) = outside fs s := outside_mono h (by simp [sendResync])

@[simp] theorem continueLog_outside (h : [.ember] ⊆ fs) (s : State) :
    outside fs (continueLog s) = outside fs s := outside_mono h (by rw [continueLog, setEmber_outside (by simp)])

@[simp] theorem startTakeover_outside (h : [.ms, .host, .link, .ember, .yoke, .lg, .descs, .out] ⊆ fs) (cause) (s : State) :
    outside fs (startTakeover cause s) = outside fs s := by
  refine outside_mono h ?_
  simp only [startTakeover]
  split
  · simp
  · split
    · simp
    · rw [outside_foldl _ fun s p => by simp, setYoke_outside (by simp), continueLog_outside (by simp), outside_with_ms (by simp),
        setYoke_outside (by simp)]

@[simp] theorem partnerLost_outside (h : [.ms, .host, .link, .ember, .yoke, .lg, .mem, .he, .sync, .lag, .coll, .descs, .out, .freeCtr] ⊆ fs) (s : State) :
    outside fs (partnerLost s) = outside fs s := outside_mono h (by simp [partnerLost])

@[simp] theorem rekey_outside (h : [.link] ⊆ fs) (pos side) (s : State) :
    outside fs (rekey pos side s) = outside fs s := outside_mono h (by simp [rekey])

@[simp] theorem takeResync_outside (h : [.ms, .host, .link, .yoke, .lg, .descs, .out] ⊆ fs) (p) (s : State) :
    outside fs (takeResync p s) = outside fs s := outside_mono h (by simp [takeResync])

@[simp] theorem takeYoke_outside (h : [.ms, .host, .link, .ember, .yoke, .lg, .mem, .he, .sync, .lag, .coll, .descs, .out, .freeCtr] ⊆ fs) (p) (s : State) :
    outside fs (takeYoke p s) = outside fs s := outside_mono h (by simp [takeYoke])

@[simp] theorem writeYokeCfg_outside (h : [.ms, .pins, .host, .ft, .wdog, .claims, .pwr, .link, .ember, .yoke, .lg, .mem, .sync, .lag, .coll, .descs, .out, .freeCtr] ⊆ fs) (v) (s : State) :
    outside fs (writeYokeCfg v s) = outside fs s := outside_mono h (by simp [writeYokeCfg])

@[simp] theorem handle_outside (h : [.ms, .host, .link, .ember, .yoke, .lg, .mem, .he, .sync, .lag, .coll, .descs, .out, .freeCtr] ⊆ fs) (port collided p x) (s : State) :
    outside fs (handle port collided p x s) = outside fs s := by
  refine outside_mono h ?_
  unfold handle
  (repeat' split) <;> simp

end Sys2Proof.Machine
end

section
/-! PROOFS. Which fields the operations of the yoke, of power and of the Duest links may change. -/

namespace Sys2Proof.Machine

variable {fs : List Field}

@[simp] theorem takeControl_outside (h : [.ms, .host, .link, .yoke, .lg, .sync, .lag, .coll, .descs, .out, .freeCtr] ⊆ fs) (p) (s : State) :
    outside fs (takeControl p s) = outside fs s := by
  refine outside_mono h ?_
  unfold takeControl
  split <;> simp

@[simp] theorem discardBlocks_outside (h : [.ms, .host, .ft, .link, .yoke, .lg, .descs, .out] ⊆ fs) (port blocks p) (s : State) :
    outside fs (discardBlocks port blocks p s) = outside fs s := outside_mono h (by simp [discardBlocks])

@[simp] theorem takeDuplicate_outside (h : [.ms, .host, .link, .yoke, .lg, .sync, .descs, .out, .freeCtr] ⊆ fs) (past p) (s : State) :
    outside fs (takeDuplicate past p s) = outside fs s := outside_mono h (by simp [takeDuplicate])

@[simp] theorem takeGap_outside (h : [.ms, .host, .link, .yoke, .lg, .sync, .descs, .out] ⊆ fs) (port p) (s : State) :
    outside fs (takeGap port p s) = outside fs s := outside_mono h (by simp [takeGap])

@[simp] theorem takeInOrder_outside (h : [.ms, .host, .link, .ember, .yoke, .lg, .mem, .he, .sync, .lag, .coll, .descs, .out, .freeCtr] ⊆ fs) (port collided k p x) (s : State) :
    outside fs (takeInOrder port collided k p x s) = outside fs s := outside_mono h (by simp [takeInOrder])

@[simp] theorem takeData_outside (h : [.ms, .host, .ft, .link, .ember, .yoke, .lg, .mem, .he, .sync, .lag, .coll, .descs, .out, .freeCtr] ⊆ fs) (port blocks collided p) (s : State) :
    outside fs (takeData port blocks collided p s) = outside fs s := by
  refine outside_mono h ?_
  simp only [takeData]
  split <;> simp

@[simp] theorem deliver_outside (h : [.ms, .host, .ft, .link, .ember, .yoke, .lg, .mem, .he, .sync, .lag, .coll, .descs, .out, .freeCtr] ⊆ fs) (port blocks collided p) (s : State) :
    outside fs (deliver port blocks collided p s) = outside fs s := by
  refine outside_mono h ?_
  simp only [deliver]
  (repeat' split) <;> simp

@[simp] theorem receivePacket_outside (h : [.ms, .host, .ft, .link, .ember, .yoke, .lg, .mem, .he, .sync, .lag, .coll, .descs, .out, .freeCtr] ⊆ fs) (port p) (s : State) :
    outside fs (receivePacket port p s) = outside fs s := by
  refine outside_mono h ?_
  simp only [receivePacket]
  (repeat' split) <;> simp

@[simp] theorem deliverType_outside (h : [.ms, .host, .ft, .link, .ember, .yoke, .lg, .mem, .he, .sync, .lag, .coll, .descs, .out, .freeCtr] ⊆ fs) (t port p) (s : State) :
    outside fs (deliverType t port p s) = outside fs s := outside_mono h (by simp [deliverType])

@[simp] theorem deliverYoke_outside (h : [.ms, .host, .ft, .link, .ember, .yoke, .lg, .mem, .he, .sync, .lag, .coll, .descs, .out, .freeCtr] ⊆ fs) (t p) (s : State) :
    outside fs (deliverYoke t p s) = outside fs s := outside_mono h (by simp [deliverYoke])

@[simp] theorem setPwr_outside (h : [.pwr] ⊆ fs) (p) (s : State) :
    outside fs (setPwr p s) = outside fs s := outside_mono h (by simp [setPwr])

@[simp] theorem throttleFlags_outside (h : [.pwr] ⊆ fs) (s : State) :
    outside fs (throttleFlags s) = outside fs s := outside_mono h (by simp [throttleFlags])

@[simp] theorem noteWarnings_outside (h : [.host, .out] ⊆ fs) (s0 s : State) : outside fs (noteWarnings s0 s) = outside fs s := by
  refine outside_mono h ?_
  unfold noteWarnings
  split <;> simp

@[simp] theorem moveRail_outside (h : [.pwr] ⊆ fs) (n q) (s : State) :
    outside fs (moveRail n q s) = outside fs s := outside_mono h (by simp [moveRail])

@[simp] theorem raiseRail_outside (h : [.pwr] ⊆ fs) (n f) (s : State) :
    outside fs (raiseRail n f s) = outside fs s := outside_mono h (by simp [raiseRail])

@[simp] theorem dropRail_outside (h : [.pwr] ⊆ fs) (n) (s : State) :
    outside fs (dropRail n s) = outside fs s := outside_mono h (by simp [dropRail])

@[simp] theorem walkTo_outside (h : [.pwr] ⊆ fs) (n) (s : State) :
    outside fs (walkTo n s) = outside fs s := outside_mono h (by simp [walkTo])

@[simp] theorem clearShares_outside (h : [.pwr] ⊆ fs) (s : State) :
    outside fs (clearShares s) = outside fs s := outside_mono h (by simp [clearShares])

@[simp] theorem settleOpSets_outside (h : [.descs] ⊆ fs) (s : State) :
    outside fs (settleOpSets s) = outside fs s := by
  refine outside_mono h ?_
  rw [settleOpSets]
  refine outside_foldl _ (fun s a => ?_) _ _
  split <;> simp

@[simp] theorem retarget_outside (h : [.pwr, .descs] ⊆ fs) (s : State) :
    outside fs (retarget s) = outside fs s := outside_mono h (by simp [retarget])

@[simp] theorem predictCeiling_outside (h : [.pwr] ⊆ fs) (s : State) :
    outside fs (predictCeiling s) = outside fs s := by
  refine outside_mono h ?_
  unfold predictCeiling
  split <;> simp

@[simp] theorem startOpSet_outside (h : [.host, .claims, .pwr, .descs, .out] ⊆ fs) (d) (s : State) :
    outside fs (startOpSet d s) = outside fs s := outside_mono h (by simp [startOpSet])

@[simp] theorem takeStep_outside (h : [.pwr, .descs] ⊆ fs) (n) (s : State) :
    outside fs (takeStep n s) = outside fs s := outside_mono h (by simp [takeStep])

@[simp] theorem lowerCap_outside (h : [.pwr, .descs] ⊆ fs) (s : State) :
    outside fs (lowerCap s) = outside fs s := outside_mono h (by simp [lowerCap])

@[simp] theorem takeSample_outside (h : [.pwr, .descs, .freeCtr] ⊆ fs) (mv w) (s : State) :
    outside fs (takeSample mv w s) = outside fs s := outside_mono h (by simp [takeSample])

@[simp] theorem noteFit_outside (h : [.pwr] ⊆ fs) (s : State) :
    outside fs (noteFit s) = outside fs s := outside_mono h (by simp [noteFit])

@[simp] theorem writePwrCap_outside (h : [.pwr] ⊆ fs) (v) (s : State) :
    outside fs (writePwrCap v s) = outside fs s := outside_mono h (by simp [writePwrCap])

@[simp] theorem addShare_outside (h : [.pwr] ⊆ fs) (n k) (s : State) :
    outside fs (addShare n k s) = outside fs s := outside_mono h (by simp [addShare])

@[simp] theorem decayShares_outside (h : [.pwr] ⊆ fs) (s : State) :
    outside fs (decayShares s) = outside fs s := by
  refine outside_mono h ?_
  simp only [decayShares]
  (repeat' split) <;> simp

@[simp] theorem steer_outside (h : [.pwr, .steer, .descs] ⊆ fs) (s : State) :
    outside fs (steer s) = outside fs s := by
  refine outside_mono h ?_
  simp only [steer]
  split <;> simp

@[simp] theorem lowerTherm_outside (h : [.pwr, .descs] ⊆ fs) (s : State) :
    outside fs (lowerTherm s) = outside fs s := outside_mono h (by simp [lowerTherm])

@[simp] theorem takeTemps_outside (h : [.pwr, .descs] ⊆ fs) (rs) (s : State) :
    outside fs (takeTemps rs s) = outside fs s := outside_mono h (by simp [takeTemps])

@[simp] theorem setInputFlags_outside (h : [.host, .pwr, .out] ⊆ fs) (f) (s : State) :
    outside fs (setInputFlags f s) = outside fs s := outside_mono h (by simp [setInputFlags])

@[simp] theorem writePwrCfg_outside (h : [.host, .claims, .pwr, .descs, .out] ⊆ fs) (v) (s : State) :
    outside fs (writePwrCfg v s) = outside fs s := outside_mono h (by simp [writePwrCfg])

@[simp] theorem timerDisplaced_outside (h : [.host, .claims, .pwr, .descs, .out] ⊆ fs) (s : State) :
    outside fs (timerDisplaced s) = outside fs s := by
  refine outside_mono h ?_
  simp only [timerDisplaced]
  rw [outside_foldl _ fun s n => by split <;> simp, outside_foldl _ fun s d => by (repeat' split) <;> simp]

@[simp] theorem countMatrix_outside (h : [.cores] ⊆ fs) (t draw passes mr load) (s : State) :
    outside fs (countMatrix t draw passes mr load s) = outside fs s := outside_mono h (by simp [countMatrix])

@[simp] theorem setRaw_outside (h : [.streams] ⊆ fs) (k x) (s : State) :
    outside fs (setRaw k x s) = outside fs s := outside_mono h (by simp [setRaw])

@[simp] theorem countMatCopy_outside (h : [.cores] ⊆ fs) (draw j passes) (s : State) :
    outside fs (countMatCopy draw j passes s) = outside fs s := outside_mono h (by simp [countMatCopy])

@[simp] theorem countDelivered_outside (h : [.cores, .freeCtr] ⊆ fs) (r t left) (s : State) :
    outside fs (countDelivered r t left s) = outside fs s := by
  refine outside_mono h ?_
  simp only [countDelivered]
  (repeat' split) <;> simp

@[simp] theorem sendOn_outside (h : [.streams, .out] ⊆ fs) (k w) (s : State) :
    outside fs (sendOn k w s) = outside fs s := outside_mono h (by simp [sendOn])

@[simp] theorem pump_outside (h : [.cores, .streams, .descs, .out, .freeCtr] ⊆ fs) (k a) (s : State) :
    outside fs (pump k a s) = outside fs s := by
  refine outside_mono h ?_
  induction a generalizing s with
  | zero => rfl
  | succ k ih => simp only [pump]; (repeat' split) <;> simp [ih]

@[simp] theorem pumpAll_outside (h : [.cores, .streams, .descs, .out, .freeCtr] ⊆ fs) (k) (s : State) :
    outside fs (pumpAll k s) = outside fs s := outside_mono h (by simp [pumpAll])

@[simp] theorem startSending_outside (h : [.streams, .descs] ⊆ fs) (x t rows rep) (s : State) :
    outside fs (startSending x t rows rep s) = outside fs s := outside_mono h (by simp [startSending])

@[simp] theorem finishMat_outside (h : [.cores, .streams, .descs] ⊆ fs) (x draw jg) (s : State) :
    outside fs (finishMat x draw s jg) = outside fs s := by
  refine outside_mono h ?_
  simp only [finishMat]
  split <;> simp

@[simp] theorem failPair_outside {α : Type} (h : [.descs] ⊆ fs) (x) (rs : List (Target × Except Report α)) (s : State) :
    outside fs (failPair x rs s) = outside fs s := by
  refine outside_mono h ?_
  unfold failPair
  split <;> simp

@[simp] theorem runMma_outside (h : [.ms, .host, .link, .ember, .yoke, .lg, .mem, .cores, .streams, .descs, .out, .freeCtr] ⊆ fs) (o x) (s : State) :
    outside fs (runMma o x s) = outside fs s := by
  refine outside_mono h ?_
  simp only [runMma]
  split
  · simp
  · split
    · simp
    · split
      · split <;> simp [outside_foldl_mem]
      · simp

@[simp] theorem stopDelivery_outside (h : [.cores, .descs, .freeCtr] ⊆ fs) (x c) (s : State) :
    outside fs (stopDelivery x s c) = outside fs s := by
  refine outside_mono h ?_
  simp only [stopDelivery]
  (repeat' split) <;> simp

@[simp] theorem stopped_outside (h : [.ms, .host, .link, .ember, .yoke, .mem, .descs, .out, .freeCtr] ⊆ fs) (x) (j : MatCopy)
    (draw staging acc g) (s : State) : outside fs (j.stopped x draw staging acc g s) = outside fs s := by
  refine outside_mono h ?_
  simp only [MatCopy.stopped]
  simp

@[simp] theorem stopMma_outside (h : [.ms, .host, .link, .ember, .yoke, .mem, .cores, .descs, .out, .freeCtr] ⊆ fs) (o x) (s : State) :
    outside fs (stopMma o x s) = outside fs s := by
  refine outside_mono h ?_
  simp only [stopMma]
  split
  · split
    · simp
    · rw [outside_foldl _ fun s g => by simp]
      simp
  · simp

@[simp] theorem countWMma_outside (h : [.cores] ⊆ fs) (x draw kc j) (s : State) :
    outside fs (countWMma x draw kc j s) = outside fs s := outside_mono h (by simp [countWMma])

@[simp] theorem runWMma_outside (h : [.ms, .host, .link, .ember, .yoke, .lg, .mem, .cores, .descs, .out, .freeCtr] ⊆ fs) (x) (s : State) :
    outside fs (runWMma x s) = outside fs s := by
  refine outside_mono h ?_
  simp only [runWMma]
  (repeat' split) <;> simp

@[simp] theorem stopWMma_outside (h : [.ms, .host, .link, .ember, .yoke, .mem, .cores, .descs, .out, .freeCtr] ⊆ fs) (x) (s : State) :
    outside fs (stopWMma x s) = outside fs s := by
  refine outside_mono h ?_
  simp only [stopWMma]
  split
  · split
    · simp
    · rw [outside_foldl _ fun s g => by simp]
      simp
  · rfl

@[simp] theorem countVector_outside (h : [.cores] ⊆ fs) (t draw busy drain stream vl) (s : State) :
    outside fs (countVector t draw busy drain stream vl s) = outside fs s := outside_mono h (by simp [countVector])

@[simp] theorem countStopped_outside (h : [.cores] ⊆ fs) (t draw p j two drain stream) (s : State) :
    outside fs (countStopped t draw p j two drain stream s) = outside fs s := outside_mono h (by simp [countStopped])

theorem chainPlan_within (h : [.cores] ⊆ fs) : chainPlan.Within fs := by
  intro s d draw t i n w hw
  simp only [chainPlan] at hw
  split at hw
  · cases hw
  · split at hw
    · cases hw
    · cases hw
      exact ⟨fun _ => countVector_outside h .., fun _ => countStopped_outside h ..⟩

@[simp] theorem runChainTensor_outside (h : [.ms, .host, .link, .ember, .yoke, .lg, .mem, .cores, .descs, .out, .freeCtr] ⊆ fs) (x) (s : State) : outside fs (runChainTensor x s) = outside fs s :=
  runOp_outside h (chainPlan_within (by simp_all)) x s

@[simp] theorem countDrained_outside (h : [.cores] ⊆ fs) (t x j draw n) (s : State) :
    outside fs (countDrained t x j draw n s) = outside fs s := outside_mono h (by simp [countDrained])

@[simp] theorem countDrainStopped_outside (h : [.cores] ⊆ fs) (t x j draw n) (s : State) :
    outside fs (countDrainStopped t x j draw n s) = outside fs s := outside_mono h (by simp [countDrainStopped])

@[simp] theorem dropDrains_outside (h : [.streams] ⊆ fs) (r gone) (s : State) :
    outside fs (dropDrains r gone s) = outside fs s := outside_mono h (by simp [dropDrains])

@[simp] theorem finishPartner_outside (h : [.cores, .descs, .freeCtr] ⊆ fs) (p t rep) (s : State) :
    outside fs (finishPartner p t rep s) = outside fs s := outside_mono h (by simp [finishPartner])

theorem pairedPlan_within (h : [.cores] ⊆ fs) (ds r) : (pairedPlan ds r).Within fs := by
  intro s d draw t i n w hw
  simp only [pairedPlan, drainPlan] at hw
  split at hw
  · cases hw
  · cases hw
    exact ⟨fun _ => countDrained_outside h .., fun _ => countDrainStopped_outside h ..⟩

@[simp] theorem takeDrains_outside (h : [.ms, .host, .link, .ember, .yoke, .lg, .mem, .cores, .streams, .descs, .out, .freeCtr] ⊆ fs) (x batch) (s : State) :
    outside fs (takeDrains x batch s) = outside fs s := by
  have hrun := runOpOn_outside (fs := fs) (by simp_all) (fun t => batch.any fun e => e.target == t)
    (pairedPlan_within (by simp_all) batch x.ref) x s
  simp only [takeDrains]
  split
  · exact hrun
  · rw [dropDrains_outside (by simp_all), ← hrun]
    split
    · simp_all
    · rfl

@[simp] theorem runChainDrain_outside (h : [.ms, .host, .link, .ember, .yoke, .lg, .mem, .cores, .streams, .descs, .out, .freeCtr] ⊆ fs) (x) (s : State) :
    outside fs (runChainDrain x s) = outside fs s := by
  refine outside_mono h ?_
  simp only [runChainDrain]
  (repeat' split) <;> simp

@[simp] theorem runMatrix_outside (h : [.ms, .host, .link, .ember, .yoke, .lg, .mem, .cores, .streams, .descs, .out, .freeCtr] ⊆ fs) (o x) (s : State) :
    outside fs (runMatrix o x s) = outside fs s := by
  refine outside_mono h ?_
  unfold runMatrix
  split <;> simp

@[simp] theorem sendCredit_outside (h : [.streams, .out] ⊆ fs) (k n close) (s : State) :
    outside fs (sendCredit k n close s) = outside fs s := outside_mono h (by simp [sendCredit])

@[simp] theorem runChainStream_outside (h : [.streams, .descs, .out] ⊆ fs) (x) (s : State) :
    outside fs (runChainStream x s) = outside fs s := outside_mono h (by simp [runChainStream])

@[simp] theorem takeRow_outside (h : [.ms, .host, .link, .ember, .yoke, .lg, .mem, .cores, .streams, .descs, .out, .freeCtr] ⊆ fs) (x t k w) (s : State) :
    outside fs (takeRow x t k w s) = outside fs s := by
  refine outside_mono h ?_
  simp only [takeRow]
  split <;> simp

@[simp] theorem endStream_outside (h : [.ms, .host, .link, .ember, .yoke, .lg, .mem, .cores, .streams, .descs, .out, .freeCtr] ⊆ fs) (x t k) (s : State) :
    outside fs (endStream x t k s) = outside fs s := outside_mono h (by simp [endStream])

@[simp] theorem countStreamWait_outside (h : [.cores, .freeCtr] ⊆ fs) (t) (s : State) :
    outside fs (countStreamWait t s) = outside fs s := outside_mono h (by simp [countStreamWait])

@[simp] theorem countStreamWaits_outside (h : [.cores, .freeCtr] ⊆ fs) (x) (s : State) :
    outside fs (countStreamWaits x s) = outside fs s := outside_mono h (by simp [countStreamWaits])

@[simp] theorem stopChain_outside (h : [.ms, .host, .link, .ember, .yoke, .mem, .cores, .streams, .descs, .out, .freeCtr] ⊆ fs) (x) (s : State) :
    outside fs (stopChain x s) = outside fs s := by
  have hw : [.ms, .host, .link, .ember, .yoke, .mem, .cores, .descs, .out, .freeCtr] ⊆ fs := by simp_all
  unfold stopChain
  split
  · rw [stopOp_outside hw (pairedPlan_within (by simp_all) _ _), drawFree_outside (by simp_all)]
  · refine outside_foldl _ (fun s c => ?_) _ _
    split <;> simp_all
  · exact stopOp_outside hw (chainPlan_within (by simp_all)) x s

@[simp] theorem stopPartner_outside (h : [.ms, .host, .link, .ember, .yoke, .mem, .cores, .streams, .descs, .out, .freeCtr] ⊆ fs) (x) (s : State) :
    outside fs (stopPartner x s) = outside fs s := by
  refine outside_mono h ?_
  unfold stopPartner
  split <;> simp

@[simp] theorem stopMatrix_outside (h : [.ms, .host, .link, .ember, .yoke, .mem, .cores, .streams, .descs, .out, .freeCtr] ⊆ fs) (o x) (s : State) :
    outside fs (stopMatrix o x s) = outside fs s := by
  refine outside_mono h ?_
  unfold stopMatrix
  split <;> simp

@[simp] theorem setDuest_outside (h : [.duest] ⊆ fs) (d) (s : State) :
    outside fs (setDuest d s) = outside fs s := outside_mono h (by simp [setDuest])

@[simp] theorem setDuestLink_outside (h : [.duest] ⊆ fs) (l x) (s : State) :
    outside fs (setDuestLink l x s) = outside fs s := outside_mono h (by simp [setDuestLink])

@[simp] theorem setDieLoss_outside (h : [.duest] ⊆ fs) (n x) (s : State) :
    outside fs (setDieLoss n x s) = outside fs s := outside_mono h (by simp [setDieLoss])

@[simp] theorem linkUp_outside (h : [.duest] ⊆ fs) (l) (s : State) :
    outside fs (linkUp l s) = outside fs s := outside_mono h (by simp [linkUp])

@[simp] theorem linkIn_outside (h : [.duest] ⊆ fs) (l state) (s : State) :
    outside fs (linkIn l state s) = outside fs s := outside_mono h (by simp [linkIn])

@[simp] theorem reclaimBlocks_outside (h : [.ms, .host, .link, .yoke, .lg, .descs, .out] ⊆ fs) (n cb) (s : State) :
    outside fs (reclaimBlocks n cb s) = outside fs s := outside_mono h (by simp [reclaimBlocks])

@[simp] theorem reclaimDie_outside (h : [.ms, .host, .link, .yoke, .lg, .descs, .out] ⊆ fs) (n) (s : State) :
    outside fs (reclaimDie n s) = outside fs s := outside_mono h (by simp [reclaimDie])

@[simp] theorem dropStreams_outside (h : [.streams] ⊆ fs) (n) (s : State) :
    outside fs (dropStreams n s) = outside fs s := outside_mono h (by simp [dropStreams])

@[simp] theorem fenceStreams_outside (h : [.streams, .out] ⊆ fs) (n) (s : State) :
    outside fs (fenceStreams n s) = outside fs s := outside_mono h (by simp [fenceStreams])

@[simp] theorem fenceKindling_outside (h : [.descs] ⊆ fs) (s : State) :
    outside fs (fenceKindling s) = outside fs s := outside_mono h (by simp [fenceKindling])

end Sys2Proof.Machine
end

section
/-! PROOFS. Which fields the operations of mailboxes, self-tests and the module state may change. -/

namespace Sys2Proof.Machine

variable {fs : List Field}

@[simp] theorem fenceState_outside (h : [.ms, .host, .link, .yoke, .descs, .out] ⊆ fs) (cause) (s : State) :
    outside fs (fenceState cause s) = outside fs s := by
  refine outside_mono h ?_
  unfold fenceState
  (repeat' split) <;> simp

@[simp] theorem fenceDies_outside (h : [.ms, .host, .ft, .pwr, .link, .yoke, .lg, .streams, .duest, .descs, .out] ⊆ fs) (ns cause why) (s : State) :
    outside fs (fenceDies ns cause why s) = outside fs s := outside_mono h (by simp [fenceDies])

@[simp] theorem permanentFault_outside (h : [.ms, .host, .ft, .pwr, .link, .yoke, .lg, .streams, .duest, .descs, .out] ⊆ fs) (l) (s : State) :
    outside fs (permanentFault l s) = outside fs s := by
  refine outside_mono h ?_
  simp only [permanentFault]
  (repeat' split) <;> simp

@[simp] theorem duestReply_outside (h : [.out, .freeCtr] ⊆ fs) (l nak g) (s : State) :
    outside fs (duestReply l nak g s) = outside fs s := outside_mono h (by simp [duestReply])

@[simp] theorem linkTraffic_outside (h : [.duest, .freeCtr] ⊆ fs) (l acks least) (s : State) :
    outside fs (linkTraffic l acks least s) = outside fs s := outside_mono h (by simp [linkTraffic])

@[simp] theorem groupFails_outside (h : [.ms, .host, .ft, .pwr, .link, .yoke, .lg, .streams, .duest, .descs, .out, .freeCtr] ⊆ fs) (l) (s : State) :
    outside fs (groupFails l s) = outside fs s := outside_mono h (by simp [groupFails])

@[simp] theorem acceptGroup_outside (h : [.duest, .out, .freeCtr] ⊆ fs) (l) (s : State) :
    outside fs (acceptGroup l s) = outside fs s := outside_mono h (by simp [acceptGroup])

@[simp] theorem replayGroups_outside (h : [.ms, .host, .ft, .pwr, .link, .yoke, .lg, .streams, .duest, .descs, .out, .freeCtr] ⊆ fs) (l g) (s : State) :
    outside fs (replayGroups l g s) = outside fs s := outside_mono h (by simp [replayGroups])

@[simp] theorem retakeQueue_outside (h : [.ms, .host, .link, .yoke, .lg, .descs, .out] ⊆ fs) (q) (s : State) :
    outside fs (retakeQueue q s) = outside fs s := outside_mono h (by simp [retakeQueue])

@[simp] theorem retakePages_outside (h : [.ms, .host, .link, .yoke, .lg, .descs, .out] ⊆ fs) (n) (s : State) :
    outside fs (retakePages n s) = outside fs s := outside_mono h (by simp [retakePages])

@[simp] theorem flushShelf_outside (h : [.ms, .host, .link, .yoke, .lg, .sync, .descs, .out, .freeCtr] ⊆ fs) (q) (s : State) :
    outside fs (flushShelf q s) = outside fs s := by
  refine outside_mono h ?_
  unfold flushShelf
  split <;> simp

@[simp] theorem clearFlags_outside (h : [.sync] ⊆ fs) (n l) (s : State) :
    outside fs (clearFlags n l s) = outside fs s := outside_mono h (by simp [clearFlags])

@[simp] theorem applyFuses_outside (h : [.rows] ⊆ fs) (n) (s : State) :
    outside fs (applyFuses n s) = outside fs s := outside_mono h (by simp [applyFuses])

@[simp] theorem resetDie_outside (h : [.rows, .mem, .streams] ⊆ fs) (n) (s : State) :
    outside fs (resetDie n s) = outside fs s := outside_mono h (by simp [resetDie])

@[simp] theorem returnDie_outside (h : [.rows, .ms, .host, .ft, .link, .ember, .yoke, .lg, .mem, .sync, .streams, .coll, .duest, .descs, .out, .freeCtr] ⊆ fs) (n) (s : State) :
    outside fs (returnDie n s) = outside fs s := outside_mono h (by simp [returnDie])

@[simp] theorem resetCd0_outside (h : [.rows, .ms, .host, .ft, .link, .ember, .yoke, .lg, .mem, .sync, .streams, .coll, .duest, .descs, .out, .freeCtr] ⊆ fs) (returns) (s : State) :
    outside fs (resetCd0 returns s) = outside fs s := outside_mono h (by simp [resetCd0])

@[simp] theorem writeDieCtrl_outside (h : [.rows, .ms, .host, .ft, .link, .ember, .yoke, .lg, .mem, .sync, .streams, .coll, .duest, .descs, .out, .freeCtr] ⊆ fs) (v returns) (s : State) :
    outside fs (writeDieCtrl v returns s) = outside fs s := outside_mono h (by simp [writeDieCtrl])

@[simp] theorem writeDuestCfg_outside (h : [.duest] ⊆ fs) (v) (s : State) :
    outside fs (writeDuestCfg v s) = outside fs s := outside_mono h (by simp [writeDuestCfg])

@[simp] theorem setTrust_outside (h : [.trust] ⊆ fs) (t) (s : State) :
    outside fs (setTrust t s) = outside fs s := outside_mono h (by simp [setTrust])

@[simp] theorem extendMeas_outside (h : [.trust] ⊆ fs) (i d) (s : State) :
    outside fs (extendMeas i d s) = outside fs s := outside_mono h (by simp [extendMeas])

@[simp] theorem bootMeasure_outside (h : [.trust] ⊆ fs) (s : State) :
    outside fs (bootMeasure s) = outside fs s := outside_mono h (by simp [bootMeasure])

@[simp] theorem restartMeasure_outside (h : [.trust] ⊆ fs) (s : State) :
    outside fs (restartMeasure s) = outside fs s := outside_mono h (by simp [restartMeasure])

@[simp] theorem writeLock_outside (h : [.trust] ⊆ fs) (v) (s : State) :
    outside fs (writeLock v s) = outside fs s := outside_mono h (by simp [writeLock])

@[simp] theorem writeMbCfg_outside (h : [.trust] ⊆ fs) (v) (s : State) :
    outside fs (writeMbCfg v s) = outside fs s := outside_mono h (by simp [writeMbCfg])

@[simp] theorem setMailbox_outside (h : [.trust] ⊆ fs) (m x) (s : State) :
    outside fs (setMailbox m x s) = outside fs s := outside_mono h (by simp [setMailbox])

@[simp] theorem sendMctp_outside (h : [.out] ⊆ fs) (o) (s : State) :
    outside fs (sendMctp o s) = outside fs s := outside_mono h (by simp [sendMctp])

@[simp] theorem mbVector_outside (h : [.host, .out] ⊆ fs) (m) (s : State) :
    outside fs (mbVector m s) = outside fs s := outside_mono h (by simp [mbVector])

@[simp] theorem overwritten_outside (h : [.out] ⊆ fs) (m x) (s : State) :
    outside fs (overwritten m x s) = outside fs s := outside_mono h (by simp [overwritten])

@[simp] theorem postMailbox_outside (h : [.host, .trust, .out] ⊆ fs) (m mctp tag len bytes) (s : State) :
    outside fs (postMailbox m mctp tag len bytes s) = outside fs s := by
  refine outside_mono h ?_
  simp only [postMailbox]
  split <;> simp

@[simp] theorem writeMbPost_outside (h : [.host, .trust, .out] ⊆ fs) (m v) (s : State) :
    outside fs (writeMbPost m v s) = outside fs s := outside_mono h (by simp [writeMbPost])

@[simp] theorem writeMbAck_outside (h : [.trust] ⊆ fs) (m v) (s : State) :
    outside fs (writeMbAck m v s) = outside fs s := outside_mono h (by simp [writeMbAck])

@[simp] theorem endService_outside (h : [.host, .trust, .out] ⊆ fs) (m result status detail data) (s : State) :
    outside fs (endService m result status detail data s) = outside fs s := outside_mono h (by simp [endService])

@[simp] theorem serve_outside (m v f) (s : State) (hf : ∀ a s, outside fs (f a s) = outside fs s) :
    outside fs (serve m v f s) = outside fs s := by
  simp only [serve]; split <;> simp [hf]

@[simp] theorem fwStart_outside (h : [.trust] ⊆ fs) (b) (s : State) :
    outside fs (fwStart b s).2 = outside fs s := outside_mono h (by simp [fwStart])

@[simp] theorem abortMailbox_outside (h : [.host, .trust, .out] ⊆ fs) (m) (s : State) :
    outside fs (abortMailbox m s) = outside fs s := outside_mono h (by simp [abortMailbox])

@[simp] theorem restartKolnu_outside (h : [.host, .bist, .trust, .out] ⊆ fs) (s : State) :
    outside fs (restartKolnu s) = outside fs s := by
  refine outside_mono h ?_
  rw [restartKolnu, outside_with_bist (by simp), setTrust_outside (by simp), outside_foldl _ fun s m => by simp]

@[simp] theorem withdrawMctp_outside (h : [.trust] ⊆ fs) (s : State) :
    outside fs (withdrawMctp s) = outside fs s := outside_mono h (by simp [withdrawMctp])

@[simp] theorem writeWdog_outside (h : [.pins, .host, .ft, .wdog, .claims, .pwr, .link, .yoke, .descs, .out] ⊆ fs) (v) (s : State) :
    outside fs (writeWdog v s) = outside fs s := outside_mono h (by simp [writeWdog])

@[simp] theorem aliasSign_outside (h : [.freeCtr] ⊆ fs) (m) (s : State) :
    outside fs (aliasSign m s).2 = outside fs s := outside_mono h (by simp [aliasSign])

@[simp] theorem setSpdm_outside (h : [.trust] ⊆ fs) (t x) (s : State) :
    outside fs (setSpdm t x s) = outside fs s := by
  refine outside_mono h ?_
  unfold setSpdm
  split <;> simp

@[simp] theorem sendSpdm_outside (h : [.out] ⊆ fs) (t r) (s : State) :
    outside fs (sendSpdm t r s) = outside fs s := by
  refine outside_mono h ?_
  unfold sendSpdm
  split <;> simp

@[simp] theorem respond_outside (h : [.trust, .out] ⊆ fs) (t q r) (s : State) :
    outside fs (respond t q r s) = outside fs s := outside_mono h (by simp [respond])

@[simp] theorem inOrder_outside (h : [.out, .freeCtr] ⊆ fs) (t ok f) (s : State) (hf : ∀ s, outside fs (f s) = outside fs s) :
    outside fs (inOrder t ok f s) = outside fs s := by
  have hd : [.freeCtr] ⊆ fs ∧ [.out] ⊆ fs := by simp_all
  simp only [inOrder]
  split
  · rfl
  · split
    · exact hf s
    · split <;> simp [hd, hf]

@[simp] theorem freeBytes_outside (h : [.freeCtr] ⊆ fs) (n) (s : State) :
    outside fs (freeBytes n s).2 = outside fs s := outside_mono h (by simp [freeBytes])

@[simp] theorem signTranscript_outside (h : [.freeCtr] ⊆ fs) (t q r) (s : State) :
    outside fs (signTranscript t q r s).2 = outside fs s := outside_mono h (by simp [signTranscript])

@[simp] theorem setJtag_outside (h : [.jtag] ⊆ fs) (j) (s : State) :
    outside fs (setJtag j s) = outside fs s := outside_mono h (by simp [setJtag])

@[simp] theorem writeGpio_outside (h : [.pins, .host, .claims, .out] ⊆ fs) (v) (s : State) :
    outside fs (writeGpio v s) = outside fs s := outside_mono h (by simp [writeGpio])

@[simp] theorem setBist_outside (h : [.bist] ⊆ fs) (b) (s : State) :
    outside fs (setBist b s) = outside fs s := outside_mono h (by simp [setBist])

@[simp] theorem bistStart_outside (h : [.bist] ⊆ fs) (byMailbox m r b) (s : State) :
    outside fs (bistStart byMailbox m r b s) = outside fs s := outside_mono h (by simp [bistStart])

@[simp] theorem bistDescriptor_outside (h : [.host, .bist, .descs] ⊆ fs) (r kind) (s : State) :
    outside fs (bistDescriptor r kind s) = outside fs s := by
  refine outside_mono h ?_
  unfold bistDescriptor
  (repeat' split) <;> simp

@[simp] theorem judgeFinding_outside (h : [.hw] ⊆ fs) (b all f) (s : State) :
    outside fs (judgeFinding b all f s).2.2 = outside fs s := by
  refine outside_mono h ?_
  simp only [judgeFinding]
  (repeat' split) <;> simp

@[simp] theorem judgeFindings_outside (h : [.hw] ⊆ fs) (b xs) (s : State) :
    outside fs (judgeFindings b xs s).2.2 = outside fs s := by
  rw [judgeFindings]
  refine List.foldlRecOn (motive := fun acc : List (Finding × Nat) × Nat × State => outside fs acc.2.2 = outside fs s) _ _ rfl
    fun acc hacc x _ => ?_
  simp_all

@[simp] theorem bistPowerDown_outside (h : [.mem] ⊆ fs) (b) (s : State) :
    outside fs (bistPowerDown b s) = outside fs s := outside_mono h (by simp [bistPowerDown])

@[simp] theorem bistClear_outside (h : [.mem] ⊆ fs) (b) (s : State) :
    outside fs (bistClear b s) = outside fs s := outside_mono h (by simp [bistClear])

@[simp] theorem bistReport_outside (h : [.host, .trust, .descs, .out] ⊆ fs) (x status detail) (s : State) :
    outside fs (bistReport x status detail s) = outside fs s := by
  refine outside_mono h ?_
  unfold bistReport
  (repeat' split) <;> simp

@[simp] theorem bistEnd_outside (h : [.hw, .host, .ember, .mem, .bist, .trust, .descs, .out, .freeCtr] ⊆ fs) (sigObs findings) (s : State) :
    outside fs (bistEnd sigObs findings s) = outside fs s := by
  refine outside_mono h ?_
  simp only [bistEnd]
  split <;> simp

@[simp] theorem stopBist_outside (h : [.mem, .bist, .freeCtr] ⊆ fs) (s : State) :
    outside fs (stopBist s) = outside fs s := by
  refine outside_mono h ?_
  simp only [stopBist]
  (repeat' split)
  · rfl
  · rw [bistPowerDown_outside (by simp), outside_with_mem_freeCtr (by simp), setBist_outside (by simp)]
  · simp

@[simp] theorem unpower_outside (h : [.host, .ft, .wdog, .claims, .pwr, .steer, .link, .adm, .ember, .yoke, .lg, .mem, .cores, .he, .sync, .guard, .lag, .streams, .coll, .duest, .bringup, .bist, .jtag, .descs] ⊆ fs) (s : State) :
    outside fs (unpower s) = outside fs s := outside_mono h rfl

@[simp] theorem perstPins_outside (h : [.pins, .trust] ⊆ fs) (s : State) :
    outside fs (perstPins s) = outside fs s := outside_mono h (by simp [perstPins])

@[simp] theorem abortMctp_outside (h : [.host, .trust, .out] ⊆ fs) (s : State) :
    outside fs (abortMctp s) = outside fs s := outside_mono h (by simp [abortMctp])

@[simp] theorem toStandby_outside (h : [.ms, .pins, .host, .ft, .wdog, .claims, .pwr, .steer, .link, .adm, .ember, .yoke, .lg, .mem, .cores, .he, .sync, .guard, .lag, .streams, .coll, .duest, .bringup, .bist, .trust, .jtag, .descs, .out] ⊆ fs) (s : State) :
    outside fs (toStandby s) = outside fs s := outside_mono h (by simp [toStandby])

@[simp] theorem toStopped_outside (h : [.ms, .host, .ft, .wdog, .claims, .pwr, .steer, .link, .adm, .ember, .yoke, .lg, .mem, .cores, .he, .sync, .guard, .lag, .streams, .coll, .duest, .bringup, .bist, .jtag, .descs, .out] ⊆ fs) (cause sensor) (s : State) :
    outside fs (toStopped cause sensor s) = outside fs s := by
  refine outside_mono h ?_
  simp only [toStopped]
  (repeat' split) <;> simp

@[simp] theorem toOff_outside (h : [.ms, .pins, .host, .ft, .wdog, .claims, .pwr, .steer, .link, .adm, .ember, .yoke, .lg, .mem, .cores, .he, .sync, .guard, .lag, .streams, .coll, .duest, .bringup, .bist, .trust, .jtag, .descs] ⊆ fs) (s : State) :
    outside fs (toOff s) = outside fs s := outside_mono h (by simp [toOff])

@[simp] theorem leaveStandby_outside (h : [.rows, .ms, .pins, .ft, .pwr] ⊆ fs) (s : State) :
    outside fs (leaveStandby s) = outside fs s := outside_mono h (by simp [leaveStandby])

@[simp] theorem leaveIfReady_outside (h : [.rows, .ms, .pins, .ft, .pwr] ⊆ fs) (s : State) :
    outside fs (leaveIfReady s) = outside fs s := outside_mono h (by simp [leaveIfReady])

@[simp] theorem kindlingClocks_outside (h : [.pwr, .steer] ⊆ fs) (s : State) :
    outside fs (kindlingClocks s) = outside fs s := outside_mono h (by simp [kindlingClocks])

@[simp] theorem startDie_outside (h : [.duest] ⊆ fs) (n) (s : State) :
    outside fs (startDie n s) = outside fs s := outside_mono h (by simp [startDie])

@[simp] theorem perstOnly_outside (h : [.pins, .host, .trust, .out] ⊆ fs) (s : State) :
    outside fs (perstOnly s) = outside fs s := outside_mono h (by simp [perstOnly])

@[simp] theorem rejectReq_outside (h : [.ms] ⊆ fs) (s : State) :
    outside fs (rejectReq s) = outside fs s := outside_mono h (by simp [rejectReq])

@[simp] theorem abortForEntry_outside (h : [.descs] ⊆ fs) (s : State) :
    outside fs (abortForEntry s) = outside fs s := outside_mono h (by simp [abortForEntry])

@[simp] theorem stopMailboxBist_outside (h : [.host, .mem, .bist, .trust, .descs, .out, .freeCtr] ⊆ fs) (s : State) :
    outside fs (stopMailboxBist s) = outside fs s := outside_mono h (by simp [stopMailboxBist])

@[simp] theorem beginTraining_outside (h : [.ms, .host, .link, .adm, .yoke, .lg, .mem, .bist, .trust, .descs, .out, .freeCtr] ⊆ fs) (s : State) :
    outside fs (beginTraining s) = outside fs s := outside_mono h (by simp [beginTraining])

@[simp] theorem reqFull_outside (h : [.ms, .host, .pwr, .link, .adm, .ember, .yoke, .lg, .mem, .bist, .trust, .descs, .out, .freeCtr] ⊆ fs) (s : State) :
    outside fs (reqFull s) = outside fs s := by
  refine outside_mono h ?_
  unfold reqFull
  (repeat' split) <;> simp

@[simp] theorem powerDown_outside (h : [.mem] ⊆ fs) (s : State) :
    outside fs (powerDown s) = outside fs s := outside_mono h (by simp [powerDown])

@[simp] theorem trainingFails_outside (h : [.rows, .ms, .host, .ft, .link, .adm, .ember, .yoke, .lg, .mem, .sync, .streams, .coll, .duest, .bringup, .descs, .out, .freeCtr] ⊆ fs) (start step unit) (s : State) :
    outside fs (trainingFails start step unit s) = outside fs s := outside_mono h (by simp [trainingFails])

@[simp] theorem fullClocks_outside (h : [.pwr, .steer] ⊆ fs) (s : State) :
    outside fs (fullClocks s) = outside fs s := outside_mono h (by simp [fullClocks])

@[simp] theorem trainUnits_outside (h : [.rows, .ms, .host, .ft, .link, .ember, .yoke, .lg, .mem, .sync, .streams, .coll, .duest, .descs, .out, .freeCtr] ⊆ fs) (s : State) :
    outside fs (trainUnits s) = outside fs s := by
  refine outside_mono h ?_
  simp only [trainUnits]
  rw [outside_foldl _ fun s p => by split <;> simp, ledgersFull_outside (by simp), poolTakeEffect_outside (by simp),
    outside_with_ember_mem (by simp), outside_foldl _ fun s n => by simp, outside_foldl _ fun s l => by simp,
    outside_foldl _ fun s n => by split <;> simp]

@[simp] theorem trainingDone_outside (h : [.rows, .ms, .host, .ft, .pwr, .steer, .link, .ember, .yoke, .lg, .mem, .sync, .streams, .coll, .duest, .bringup, .descs, .out, .freeCtr] ⊆ fs) (start) (s : State) :
    outside fs (trainingDone start s) = outside fs s := outside_mono h (by simp [trainingDone])

@[simp] theorem abortForKindling_outside (h : [.descs] ⊆ fs) (s : State) :
    outside fs (abortForKindling s) = outside fs s := outside_mono h (by simp [abortForKindling])

end Sys2Proof.Machine
end

section
/-! PROOFS. Which fields requests to the state, the ends of fences, replays and the tick may change. -/

namespace Sys2Proof.Machine

variable {fs : List Field}

@[simp] theorem poolEmpty_outside (h : [.link] ⊆ fs) (s : State) :
    outside fs (poolEmpty s) = outside fs s := outside_mono h (by simp [poolEmpty])

@[simp] theorem endFences_outside (h : [.ms, .host, .ft, .link, .ember, .yoke, .lg, .mem, .sync, .coll, .descs, .out, .freeCtr] ⊆ fs) (s : State) :
    outside fs (endFences s) = outside fs s := by
  have hc : [.sync] ⊆ fs ∧ [.ms] ⊆ fs ∧ [.ft] ⊆ fs := by simp_all
  have hq : [.ms, .host, .link, .yoke, .lg, .descs, .out] ⊆ fs ∧ [.ms, .host, .link, .yoke, .lg, .sync, .descs, .out, .freeCtr] ⊆ fs := by simp_all
  have hj : [.ms, .host, .link, .ember, .yoke, .lg, .mem, .sync, .descs, .out, .freeCtr] ⊆ fs := by simp_all
  have hclear (l : List Nat) (s : State) :
      outside fs (l.foldl (fun s n => (List.range 32).foldl (fun s l => clearFlags n l s) s) s) = outside fs s :=
    outside_foldl _ (fun s n => outside_foldl _ (fun s l => clearFlags_outside hc.1 ..) _ _) _ _
  have hretake (qs : List Nat) (s : State) : outside fs (qs.foldl (fun s q => retakeQueue q s) s) = outside fs s :=
    outside_foldl _ (fun s q => retakeQueue_outside hq.1 ..) _ _
  have hjudge (qs : List Nat) (s : State) : outside fs (qs.foldl (fun s q => judgeUnwritten q (flushShelf q s)) s) = outside fs s :=
    outside_foldl _ (fun s q => (judgeUnwritten_outside hj ..).trans (flushShelf_outside hq.2 ..)) _ _
  simp only [endFences]
  split
  · rw [hretake, outside_with_ms_ft (by simp_all), hclear]
  · rw [serveUnwritten_outside (by simp_all), hjudge, hretake, outside_with_ms_ft (by simp_all), hclear]

@[simp] theorem kindlingLinks_outside (h : [.host, .yoke, .streams, .duest, .bringup] ⊆ fs) (s : State) :
    outside fs (kindlingLinks s) = outside fs s := outside_mono h (by simp [kindlingLinks])

@[simp] theorem enterKindling_outside (h : [.rows, .ms, .host, .ft, .pwr, .steer, .link, .adm, .ember, .yoke, .lg, .mem, .he, .sync, .lag, .streams, .coll, .duest, .bringup, .descs, .out, .freeCtr] ⊆ fs) (cd0Returns) (s : State) :
    outside fs (enterKindling cd0Returns s) = outside fs s := outside_mono h (by simp [enterKindling])

@[simp] theorem reqKindling_outside (h : [.ms] ⊆ fs) (cd0Returns) (s : State) :
    outside fs (reqKindling cd0Returns s) = outside fs s := by
  refine outside_mono h ?_
  unfold reqKindling
  (repeat' split) <;> simp

@[simp] theorem endRequest_outside (h : [.rows, .ms, .host, .ft, .pwr, .steer, .link, .adm, .ember, .yoke, .lg, .mem, .he, .sync, .lag, .streams, .coll, .duest, .bringup, .descs, .out, .freeCtr] ⊆ fs) (s : State) :
    outside fs (endRequest s) = outside fs s := by
  refine outside_mono h ?_
  unfold endRequest
  split <;> simp

@[simp] theorem reqBanked_outside (h : [.ms, .host, .link, .yoke, .out] ⊆ fs) (s : State) :
    outside fs (reqBanked s) = outside fs s := outside_mono h (by simp [reqBanked])

@[simp] theorem reqClearFence_outside (h : [.ms, .host, .pwr, .link, .adm, .yoke, .lg, .duest, .descs, .out, .freeCtr] ⊆ fs) (s : State) :
    outside fs (reqClearFence s) = outside fs s := outside_mono h (by simp [reqClearFence])

@[simp] theorem linkLeft_outside (h : [.duest, .freeCtr] ⊆ fs) (l) (s : State) :
    outside fs (linkLeft l s) = outside fs s := outside_mono h (by simp [linkLeft])

@[simp] theorem diesReturn_outside (h : [.rows, .ms, .host, .ft, .pwr, .link, .adm, .ember, .yoke, .lg, .mem, .sync, .streams, .coll, .duest, .descs, .out, .freeCtr] ⊆ fs) (dies returned) (s : State) :
    outside fs (diesReturn dies returned s) = outside fs s := outside_mono h (by simp [diesReturn])

@[simp] theorem writeStateReq_outside (h : [.ms, .host, .pwr, .link, .adm, .ember, .yoke, .lg, .mem, .duest, .bist, .trust, .descs, .out, .freeCtr] ⊆ fs) (v cd0Returns) (s : State) :
    outside fs (writeStateReq v cd0Returns s) = outside fs s := by
  refine outside_mono h ?_
  unfold writeStateReq
  split <;> simp

@[simp] theorem writePoll_outside (h : [.host] ⊆ fs) (v) (s : State) :
    outside fs (writePoll v s) = outside fs s := outside_mono h (by simp [writePoll])

@[simp] theorem writeStatusCfg_outside (h : [.host] ⊆ fs) (v) (s : State) :
    outside fs (writeStatusCfg v s) = outside fs s := outside_mono h (by simp [writeStatusCfg])

@[simp] theorem writeMemResv_outside (h : [.mem] ⊆ fs) (v) (s : State) :
    outside fs (writeMemResv v s) = outside fs s := outside_mono h (by simp [writeMemResv])

@[simp] theorem writeFtCfg_outside (h : [.ft] ⊆ fs) (v) (s : State) :
    outside fs (writeFtCfg v s) = outside fs s := outside_mono h (by simp [writeFtCfg])

@[simp] theorem writeFtStatus_outside (h : [.ft] ⊆ fs) (v) (s : State) :
    outside fs (writeFtStatus v s) = outside fs s := outside_mono h (by simp [writeFtStatus])

@[simp] theorem planWrite_outside (h : [.ft] ⊆ fs) (b f) (s : State) :
    outside fs (planWrite b f s) = outside fs s := outside_mono h (by simp [planWrite])

@[simp] theorem writePortCfg_outside (h : [.ms, .host, .link, .adm, .yoke, .lg, .descs, .out, .freeCtr] ⊆ fs) (p v) (s : State) :
    outside fs (writePortCfg p v s) = outside fs s := outside_mono h (by simp [writePortCfg])

@[simp] theorem writePoolCh_outside (h : [.link] ⊆ fs) (c v) (s : State) :
    outside fs (writePoolCh c v s) = outside fs s := outside_mono h (by simp [writePoolCh])

@[simp] theorem writePoolResv_outside (h : [.pins, .host, .ft, .wdog, .claims, .pwr, .link, .yoke, .out] ⊆ fs) (v) (s : State) :
    outside fs (writePoolResv v s) = outside fs s := outside_mono h (by simp [writePoolResv])

@[simp] theorem setLedger_outside (h : [.lg] ⊆ fs) (l) (s : State) :
    outside fs (setLedger l s) = outside fs s := outside_mono h (by simp [setLedger])

@[simp] theorem writeShare_outside (h : [.he] ⊆ fs) (n v) (s : State) :
    outside fs (writeShare n v s) = outside fs s := outside_mono h (by simp [writeShare])

@[simp] theorem writeEmbCfg_outside (h : [.ember] ⊆ fs) (v) (s : State) :
    outside fs (writeEmbCfg v s) = outside fs s := outside_mono h (by simp [writeEmbCfg])

@[simp] theorem writeMbReq_outside (h : [.trust] ⊆ fs) (m w v) (s : State) :
    outside fs (writeMbReq m w v s) = outside fs s := outside_mono h (by simp [writeMbReq])

@[simp] theorem writeMbStatus_outside (h : [.trust] ⊆ fs) (m v) (s : State) :
    outside fs (writeMbStatus m v s) = outside fs s := outside_mono h (by simp [writeMbStatus])

@[simp] theorem writePage_outside (h : [.host, .out] ⊆ fs) (s : State) :
    outside fs (writePage s) = outside fs s := by
  have hx : .host ∈ fs ∧ [.out] ⊆ fs := by simp_all
  simp only [writePage]
  rw [outside_with_host hx.1, emit_outside hx.2, outside_foldl _ fun s l => emit_outside hx.2 .., emit_outside hx.2, outside_with_host hx.1]

@[simp] theorem restorePage_outside (h : [.ms, .host, .link, .yoke, .lg, .mem, .he, .descs, .out, .freeCtr] ⊆ fs) (n bank home) (s : State) :
    outside fs (restorePage n bank home s) = outside fs s := outside_mono h (by simp [restorePage])

@[simp] theorem restorePages_outside (h : [.ms, .host, .link, .yoke, .lg, .mem, .he, .descs, .out, .freeCtr] ⊆ fs) (s : State) :
    outside fs (restorePages s) = outside fs s := by
  refine outside_mono h ?_
  rw [restorePages]
  refine outside_foldl _ (fun s a => ?_) _ _
  split <;> simp

@[simp] theorem loadCtx_outside (h : [.host, .freeCtr] ⊆ fs) (b n) (s : State) :
    outside fs (loadCtx b n s) = outside fs s := outside_mono h (by simp [loadCtx])

@[simp] theorem loadSqtx_outside (h : [.sync, .freeCtr] ⊆ fs) (b n) (s : State) :
    outside fs (loadSqtx b n s) = outside fs s := outside_mono h (by simp [loadSqtx])

@[simp] theorem loadEntries_outside (h : [.sync, .freeCtr] ⊆ fs) (q a a1) (s : State) :
    outside fs (loadEntries q a a1 s) = outside fs s := by
  refine outside_mono h ?_
  induction a generalizing a1 s with
  | zero => rfl
  | succ k ih => simp only [loadEntries]; rw [ih, setSqRx_outside (by simp), outside_with_freeCtr (by simp), freeSlot_outside (by simp)]

@[simp] theorem loadSqrx_outside (h : [.ms, .host, .link, .yoke, .lg, .sync, .descs, .out, .freeCtr] ⊆ fs) (b q) (s : State) :
    outside fs (loadSqrx b q s) = outside fs s := outside_mono h (by simp [loadSqrx])

@[simp] theorem loadGuard_outside (h : [.guard, .freeCtr] ⊆ fs) (b) (s : State) :
    outside fs (loadGuard b s) = outside fs s := outside_mono h (by simp [loadGuard])

@[simp] theorem loadStreams_outside (h : [.link, .freeCtr] ⊆ fs) (b) (s : State) :
    outside fs (loadStreams b s) = outside fs s := outside_mono h (by simp [loadStreams])

@[simp] theorem loadRecord_outside (h : [.ms, .host, .link, .yoke, .lg, .sync, .guard, .coll, .descs, .out, .freeCtr] ⊆ fs) (s : State) :
    outside fs (loadRecord s) = outside fs s := outside_mono h (by simp [loadRecord])

@[simp] theorem replayDesc_outside (h : [.ms, .host, .link, .yoke, .lg, .descs, .out] ⊆ fs) (b) (s : State) :
    outside fs (replayDesc b s) = outside fs s := outside_mono h (by simp [replayDesc])

@[simp] theorem replayComplete_outside (h : [.host] ⊆ fs) (b) (s : State) :
    outside fs (replayComplete b s) = outside fs s := by
  refine outside_mono h ?_
  simp only [replayComplete]
  split <;> simp

@[simp] theorem replayEntry_outside (h : [.ms, .host, .link, .ember, .yoke, .lg, .mem, .sync, .descs, .out, .freeCtr] ⊆ fs) (rest b) (s : State) :
    outside fs (replayEntry rest b s) = outside fs s := outside_mono h (by simp [replayEntry])

@[simp] theorem replayChunk_outside (h : [.ms, .host, .link, .ember, .yoke, .lg, .mem, .he, .lag, .coll, .descs, .out, .freeCtr] ⊆ fs) (b) (s : State) :
    outside fs (replayChunk b s) = outside fs s := by
  refine outside_mono h ?_
  unfold replayChunk
  split <;> simp

@[simp] theorem replayRrsp_outside (h : [.ms, .host, .link, .ember, .yoke, .lg, .mem, .lag, .coll, .descs, .out, .freeCtr] ⊆ fs) (b) (s : State) :
    outside fs (replayRrsp b s) = outside fs s := by
  refine outside_mono h ?_
  unfold replayRrsp
  split <;> simp

@[simp] theorem replayHostWord_outside (h : [.descs] ⊆ fs) (b) (s : State) :
    outside fs (replayHostWord b s) = outside fs s := by
  refine outside_mono h ?_
  unfold replayHostWord
  split <;> simp

@[simp] theorem handleWaiting_outside (h : [.ms, .host, .ft, .link, .ember, .yoke, .lg, .mem, .he, .sync, .lag, .coll, .descs, .out, .freeCtr] ⊆ fs) (s : State) :
    outside fs (handleWaiting s) = outside fs s := outside_mono h (by simp [handleWaiting])

@[simp] theorem goLive_outside (h : [.ms, .host, .ft, .link, .ember, .yoke, .lg, .mem, .he, .sync, .lag, .coll, .descs, .out, .freeCtr] ⊆ fs) (s : State) :
    outside fs (goLive s) = outside fs s := outside_mono h (by simp [goLive])

@[simp] theorem stopEffects_outside (h : [.ms, .host, .link, .ember, .yoke, .lg, .mem, .cores, .he, .streams, .bist, .descs, .out, .freeCtr] ⊆ fs) (d) (s : State) :
    outside fs (stopEffects d s) = outside fs s := by
  have hw : [.ms, .host, .link, .ember, .yoke, .mem, .cores, .descs, .out, .freeCtr] ⊆ fs := by simp_all
  unfold stopEffects
  split
  · exact stopOp_outside hw copyPlan_within d s
  · exact stopOp_outside hw relayoutPlan_within d s
  · exact stopOp_outside hw gatherPlan_within d s
  · split
    · exact stopScatterAdd_outside hw d s
    · exact stopOp_outside hw scatterPlan_within d s
  all_goals (repeat' split) <;> simp_all

@[simp] theorem leaveEngine_outside (h : [.coll, .descs] ⊆ fs) (r) (s : State) :
    outside fs (leaveEngine r s) = outside fs s := by
  refine outside_mono h ?_
  unfold leaveEngine
  split <;> simp

@[simp] theorem discardHeld_outside (h : [.ms, .host, .link, .yoke, .lg, .descs, .out] ⊆ fs) (d) (s : State) :
    outside fs (discardHeld d s) = outside fs s := outside_mono h (by simp [discardHeld])

@[simp] theorem releaseHolds_outside (h : [.ms, .host, .link, .ember, .yoke, .lg, .mem, .cores, .sync, .coll, .descs, .out, .freeCtr] ⊆ fs) (d) (s : State) :
    outside fs (releaseHolds d s) = outside fs s := by
  refine outside_mono h ?_
  simp only [releaseHolds]
  split <;> simp

@[simp] theorem settleStopped_outside (h : [.descs] ⊆ fs) (r) (s : State) :
    outside fs (settleStopped r s) = outside fs s := outside_mono h (by simp [settleStopped])

@[simp] theorem freeStream_outside (h : [.cores, .streams, .descs, .out, .freeCtr] ⊆ fs) (d) (s : State) :
    outside fs (freeStream d s) = outside fs s := by
  refine outside_mono h ?_
  unfold freeStream
  split <;> simp

@[simp] theorem makeEffects_outside (h : [.ms, .host, .link, .ember, .yoke, .lg, .mem, .cores, .he, .sync, .streams, .coll, .bist, .descs, .out, .freeCtr] ⊆ fs) (d) (s : State) :
    outside fs (makeEffects d s) = outside fs s := outside_mono h (by simp [makeEffects])

@[simp] theorem finishDesc_outside (h : [.ms, .host, .ft, .link, .ember, .yoke, .lg, .mem, .cores, .he, .sync, .guard, .lag, .streams, .coll, .bist, .descs, .out, .freeCtr] ⊆ fs) (r) (s : State) :
    outside fs (finishDesc r s) = outside fs s := by
  refine outside_mono h ?_
  simp only [finishDesc]
  (repeat' split) <;> simp

@[simp] theorem resumeOn_outside (h : [.descs] ⊆ fs) (t) (s : State) :
    outside fs (resumeOn t s) = outside fs s := by
  refine outside_mono h ?_
  unfold resumeOn
  (repeat' split) <;> simp

@[simp] theorem waitTimeout_outside (h : [.coll, .descs] ⊆ fs) (d) (s : State) :
    outside fs (waitTimeout d s) = outside fs s := by
  refine outside_mono h ?_
  unfold waitTimeout
  split <;> simp

@[simp] theorem tickTime_outside (h : [.clk, .ft] ⊆ fs) (s : State) :
    outside fs (tickTime s) = outside fs s := by
  have hx : .clk ∈ fs ∧ .ft ∈ fs := by simp_all
  unfold tickTime
  split
  · exact (outside_with_ft hx.2 _ _).trans (outside_with_clk hx.1 ..)
  · exact outside_with_clk hx.1 ..

@[simp] theorem tickQueues_outside (h : [.sync] ⊆ fs) (s : State) :
    outside fs (tickQueues s) = outside fs s := outside_mono h (by simp [tickQueues])

@[simp] theorem tickPorts_outside (h : [.link] ⊆ fs) (s : State) :
    outside fs (tickPorts s) = outside fs s := outside_mono h (by simp [tickPorts])

@[simp] theorem tickColl_outside (h : [.lag, .coll] ⊆ fs) (s : State) :
    outside fs (tickColl s) = outside fs s := by
  have hx : [.coll] ⊆ fs ∧ .lag ∈ fs := by simp_all
  unfold tickColl
  split
  · rfl
  · split
    · rfl
    · exact (outside_with_lag hx.2 _ _).trans (setRun_outside hx.1 ..)

@[simp] theorem tickEmber_outside (h : [.ember] ⊆ fs) (s : State) :
    outside fs (tickEmber s) = outside fs s := outside_mono h (by simp [tickEmber])

@[simp] theorem tickDroop_outside (h : [.pwr] ⊆ fs) (s : State) :
    outside fs (tickDroop s) = outside fs s := outside_mono h (by simp [tickDroop])

@[simp] theorem tickPower_outside (h : [.pwr] ⊆ fs) (s : State) :
    outside fs (tickPower s) = outside fs s := outside_mono h (by simp [tickPower])

end Sys2Proof.Machine
end

section
/-! PROOFS. One field of what an operation leaves; and what keeps the canonical form of memory. -/

namespace Sys2Proof.Machine

/-- All fields but some. -/
def allBut (gs : List Field) : List Field :=
  [.hw, .rows, .ms, .pins, .clk, .host, .ft, .wdog, .claims, .pwr, .steer, .link, .adm, .ember, .yoke, .lg, .mem, .cores, .he, .sync, .guard,
    .lag, .streams, .coll, .duest, .bringup, .bist, .trust, .jtag, .descs, .out, .freeCtr, .pending].filter (!gs.contains ·)

@[simp] theorem mem_allBut {f : Field} {gs : List Field} : f ∈ allBut gs ↔ f ∉ gs := by
  rw [allBut, List.mem_filter, and_iff_right (by cases f <;> decide)]
  simp

/-! ### One field of states that agree but for the others -/

section

variable {s t : State}

theorem hw_of_outside (h : outside (allBut [.hw, .rows]) s = outside (allBut [.hw, .rows]) t) : s.hw = t.hw := by
  have heq := congrArg State.hw h
  exact heq
theorem ms_of_outside (h : outside (allBut [.ms]) s = outside (allBut [.ms]) t) : s.ms = t.ms := by
  have heq := congrArg State.ms h
  exact heq
theorem pins_of_outside (h : outside (allBut [.pins]) s = outside (allBut [.pins]) t) : s.pins = t.pins := by
  have heq := congrArg State.pins h
  exact heq
theorem clk_of_outside (h : outside (allBut [.clk]) s = outside (allBut [.clk]) t) : s.clk = t.clk := by
  have heq := congrArg State.clk h
  exact heq
theorem host_of_outside (h : outside (allBut [.host]) s = outside (allBut [.host]) t) : s.host = t.host := by
  have heq := congrArg State.host h
  exact heq
theorem ft_of_outside (h : outside (allBut [.ft]) s = outside (allBut [.ft]) t) : s.ft = t.ft := by
  have heq := congrArg State.ft h
  exact heq
theorem wdog_of_outside (h : outside (allBut [.wdog]) s = outside (allBut [.wdog]) t) : s.wdog = t.wdog := by
  have heq := congrArg State.wdog h
  exact heq
theorem claims_of_outside (h : outside (allBut [.claims]) s = outside (allBut [.claims]) t) : s.claims = t.claims := by
  have heq := congrArg State.claims h
  exact heq
theorem pwr_of_outside (h : outside (allBut [.pwr]) s = outside (allBut [.pwr]) t) : s.pwr = t.pwr := by
  have heq := congrArg State.pwr h
  exact heq
theorem steer_of_outside (h : outside (allBut [.steer]) s = outside (allBut [.steer]) t) : s.steer = t.steer := by
  have heq := congrArg State.steer h
  exact heq
theorem link_of_outside (h : outside (allBut [.link]) s = outside (allBut [.link]) t) : s.link = t.link := by
  have heq := congrArg State.link h
  exact heq
theorem adm_of_outside (h : outside (allBut [.adm]) s = outside (allBut [.adm]) t) : s.adm = t.adm := by
  have heq := congrArg State.adm h
  exact heq
theorem ember_of_outside (h : outside (allBut [.ember]) s = outside (allBut [.ember]) t) : s.ember = t.ember := by
  have heq := congrArg State.ember h
  exact heq
theorem yoke_of_outside (h : outside (allBut [.yoke]) s = outside (allBut [.yoke]) t) : s.yoke = t.yoke := by
  have heq := congrArg State.yoke h
  exact heq
theorem lg_of_outside (h : outside (allBut [.lg]) s = outside (allBut [.lg]) t) : s.lg = t.lg := by
  have heq := congrArg State.lg h
  exact heq
theorem mem_of_outside (h : outside (allBut [.mem]) s = outside (allBut [.mem]) t) : s.mem = t.mem := by
  have heq := congrArg State.mem h
  exact heq
theorem cores_of_outside (h : outside (allBut [.cores]) s = outside (allBut [.cores]) t) : s.cores = t.cores := by
  have heq := congrArg State.cores h
  exact heq
theorem he_of_outside (h : outside (allBut [.he]) s = outside (allBut [.he]) t) : s.he = t.he := by
  have heq := congrArg State.he h
  exact heq
theorem sync_of_outside (h : outside (allBut [.sync]) s = outside (allBut [.sync]) t) : s.sync = t.sync := by
  have heq := congrArg State.sync h
  exact heq
theorem guard_of_outside (h : outside (allBut [.guard]) s = outside (allBut [.guard]) t) : s.guard = t.guard := by
  have heq := congrArg State.guard h
  exact heq
theorem lag_of_outside (h : outside (allBut [.lag]) s = outside (allBut [.lag]) t) : s.lag = t.lag := by
  have heq := congrArg State.lag h
  exact heq
theorem streams_of_outside (h : outside (allBut [.streams]) s = outside (allBut [.streams]) t) : s.streams = t.streams := by
  have heq := congrArg State.streams h
  exact heq
theorem coll_of_outside (h : outside (allBut [.coll]) s = outside (allBut [.coll]) t) : s.coll = t.coll := by
  have heq := congrArg State.coll h
  exact heq
theorem duest_of_outside (h : outside (allBut [.duest]) s = outside (allBut [.duest]) t) : s.duest = t.duest := by
  have heq := congrArg State.duest h
  exact heq
theorem bringup_of_outside (h : outside (allBut [.bringup]) s = outside (allBut [.bringup]) t) : s.bringup = t.bringup := by
  have heq := congrArg State.bringup h
  exact heq
theorem bist_of_outside (h : outside (allBut [.bist]) s = outside (allBut [.bist]) t) : s.bist = t.bist := by
  have heq := congrArg State.bist h
  exact heq
theorem trust_of_outside (h : outside (allBut [.trust]) s = outside (allBut [.trust]) t) : s.trust = t.trust := by
  have heq := congrArg State.trust h
  exact heq
theorem jtag_of_outside (h : outside (allBut [.jtag]) s = outside (allBut [.jtag]) t) : s.jtag = t.jtag := by
  have heq := congrArg State.jtag h
  exact heq
theorem descs_of_outside (h : outside (allBut [.descs]) s = outside (allBut [.descs]) t) : s.descs = t.descs := by
  have heq := congrArg State.descs h
  exact heq
theorem out_of_outside (h : outside (allBut [.out]) s = outside (allBut [.out]) t) : s.out = t.out := by
  have heq := congrArg State.out h
  exact heq
theorem freeCtr_of_outside (h : outside (allBut [.freeCtr]) s = outside (allBut [.freeCtr]) t) : s.freeCtr = t.freeCtr := by
  have heq := congrArg State.freeCtr h
  exact heq
theorem pending_of_outside (h : outside (allBut [.pending]) s = outside (allBut [.pending]) t) : s.pending = t.pending := by
  have heq := congrArg State.pending h
  exact heq

end

/-- A state with its memory alone. -/
abbrev memPart (s : State) : State := outside (allBut [.mem]) s

/-- The memory of a state has the canonical form. -/
def Formed (s : State) : Prop := Memory.wf s.mem = true

theorem formed_memPart {s : State} : Formed (memPart s) ↔ Formed s := Iff.rfl

theorem formed_with_mem {s : State} {m : Mem} (h : Memory.wf m = true) : Formed (memPart { s with mem := m }) := h

theorem formed_foldl {α : Type} (f : State → α → State) (hf : ∀ s a, Formed (memPart s) → Formed (memPart (f s a))) (l : List α) (s : State)
    (h : Formed (memPart s)) : Formed (memPart (l.foldl f s)) := by
  induction l generalizing s with
  | nil => exact h
  | cons a l ih => exact ih _ (hf s a h)

@[simp] theorem formed_ite {p : Prop} [Decidable p] {s t : State} : Formed (if p then s else t) ↔ if p then Formed s else Formed t := by
  split <;> rfl

theorem formed_ite_of {p : Prop} [Decidable p] {s t : State} (hs : Formed (memPart s)) (ht : Formed (memPart t)) :
    Formed (memPart (if p then s else t)) := by
  split <;> assumption

end Sys2Proof.Machine
end

section
/-! PROOFS. Stores, works and the records of a descriptor keep the form of memory. -/

namespace Sys2Proof.Machine

@[simp] theorem addMemErr_formed (e) (s : State) (h : Formed (memPart s)) :
    Formed (memPart (addMemErr e s).2) := h

@[simp] theorem logMemErr_formed (a p source unit core symbols) (s : State) (h : Formed (memPart s)) :
    Formed (memPart (logMemErr a p source unit core symbols s).2) := by
  simp only [logMemErr]
  split <;> simp [h]

@[simp] theorem logDropped_formed (cs m) (s : State) (h : Formed (memPart s)) :
    Formed (memPart (logDropped cs m s)) :=
  memory_wf_logDropped _ _ _ h

@[simp] theorem commitNoted_formed (ws) (s : State) (h : Formed (memPart s)) :
    Formed (memPart (commitNoted ws s)) :=
  memory_wf_commitNoted _ _ h

@[simp] theorem asStarted_formed (d t) (s : State) (h : Formed (memPart s)) :
    Formed (memPart (asStarted d t s)) :=
  memory_wf_asStarted _ _ _ h

@[simp] theorem withSnap_formed (d) (s : State) (h : Formed (memPart s)) :
    Formed (memPart (withSnap d s)) :=
  memory_wf_withSnap _ _ h

@[simp] theorem memUncorrectable_formed (r t a p source symbols) (s : State) (h : Formed (memPart s)) :
    Formed (memPart (memUncorrectable r t a p source symbols s)) := by
  unfold memUncorrectable
  split <;> simp [h]

@[simp] theorem store_formed (owner adds rq xs) (s : State) (h : Formed (memPart s)) :
    Formed (memPart (store owner adds rq xs s)) :=
  memory_wf_store _ _ _ _ _ h

@[simp] theorem settled_formed (s : State) (h : Formed (memPart s)) :
    Formed (memPart (settled s)) :=
  memory_wf_settled _ h

@[simp] theorem storeReceived_formed (rq xs) (s : State) (h : Formed (memPart s)) :
    Formed (memPart (storeReceived rq xs s)) :=
  memory_wf_storeReceived _ _ _ h

@[simp] theorem storePiece_formed (adds r t xs) (s : State) (h : Formed (memPart s)) :
    Formed (memPart (storePiece adds r t xs s)) := by
  simp [storePiece, h]

@[simp] theorem storeAs_formed (adds r t rq xs) (s : State) (h : Formed (memPart s)) :
    Formed (memPart (storeAs adds r t rq xs s)) := by
  simp only [storeAs]
  split <;> simp [h]

@[simp] theorem storeBy_formed (r t rq xs) (s : State) (h : Formed (memPart s)) :
    Formed (memPart (storeBy r t rq xs s)) := by
  simp [storeBy, h]

@[simp] theorem notePageErrors_formed (n p) (s : State) (h : Formed (memPart s)) :
    Formed (memPart (notePageErrors n p s)) := by
  rw [notePageErrors]
  refine formed_foldl _ (fun s a h => ?_) _ _ h
  (repeat' split) <;> simp [h]

@[simp] theorem putLog_formed (o bs) (s : State) (h : Formed (memPart s)) :
    Formed (memPart (putLog o bs s)) :=
  memory_wf_putLog _ _ _ h

@[simp] theorem appendRaw_formed (bs) (s : State) (h : Formed (memPart s)) :
    Formed (memPart (appendRaw bs s)) := by
  simp [appendRaw, h]

@[simp] theorem appendEntry_formed (kind payload) (s : State) (h : Formed (memPart s)) :
    Formed (memPart (appendEntry kind payload s)) := by
  have happend (bs : List Byte) (s : State) (hs : Formed (memPart s)) :
      Formed (memPart (appendRaw bs { s with ember := { s.ember with lseq := s.ember.lseq + 1 } })) :=
    appendRaw_formed _ _ (by simpa using hs)
  simp only [appendEntry]
  refine happend _ _ ?_
  split
  · exact happend _ _ h
  · exact h

@[simp] theorem logEvent_formed (kind payload) (s : State) (h : Formed (memPart s)) :
    Formed (memPart (logEvent kind payload s)) := by
  simp [logEvent, h]

@[simp] theorem bar0Write_formed (off v f) (s : State) (h : Formed (memPart s)) (hf : ∀ s, Formed (memPart s) → Formed (memPart (f s))) :
    Formed (memPart (bar0Write off v f s)) := by
  unfold bar0Write
  split
  · exact hf _ (by split <;> simp [h])
  · exact h

@[simp] theorem dropOlds_formed (s : State) (h : Formed (memPart s)) :
    Formed (memPart (dropOlds s)) := by
  unfold dropOlds
  split <;> exact h

@[simp] theorem startCopy_formed (t r) (s : State) (h : Formed (memPart s)) :
    Formed (memPart (startCopy t r s)) := by
  simp [startCopy, h]

@[simp] theorem recordsMet_formed (t r) (s : State) (h : Formed (memPart s)) :
    Formed (memPart (recordsMet t r s)) := by
  unfold recordsMet
  (repeat' split) <;> simp [h]

@[simp] theorem writeRecord_formed (c d o) (s : State) (h : Formed (memPart s)) :
    Formed (memPart (writeRecord c d o s)) := by
  simp [writeRecord, h]

@[simp] theorem completeDesc_formed (d) (s : State) (h : Formed (memPart s)) :
    Formed (memPart (completeDesc d s)) := by
  unfold completeDesc
  (repeat' split) <;> simp [h]

@[simp] theorem logCtx_formed (n cmd) (s : State) (h : Formed (memPart s)) :
    Formed (memPart (logCtx n cmd s)) := by
  simp [logCtx, h]

@[simp] theorem ctxRestore_formed (n) (s : State) (h : Formed (memPart s)) :
    Formed (memPart (ctxRestore n s)) := by
  simp only [ctxRestore]
  (repeat' split) <;> simp [h]

@[simp] theorem ctxBegin_formed (ctx) (s : State) (h : Formed (memPart s)) :
    Formed (memPart (ctxBegin ctx s)) := by
  simp [ctxBegin, h]

@[simp] theorem ctxWrite_formed (ctx cmd f) (s : State) (h : Formed (memPart s)) (hf : ∀ a s, Formed (memPart s) → Formed (memPart (f a s))) :
    Formed (memPart (ctxWrite ctx cmd f s)) := by
  unfold ctxWrite
  split
  · exact bar0Write_formed _ _ _ _ h (hf _)
  · exact h

@[simp] theorem ctxEnd_formed (ctx) (s : State) (h : Formed (memPart s)) :
    Formed (memPart (ctxEnd ctx s)) := by
  simp [ctxEnd, h]

@[simp] theorem ctxAbort_formed (ctx) (s : State) (h : Formed (memPart s)) :
    Formed (memPart (ctxAbort ctx s)) := by
  simp [ctxAbort, h]

@[simp] theorem writeCtxCmd_formed (v) (s : State) (h : Formed (memPart s)) :
    Formed (memPart (writeCtxCmd v s)) := by
  unfold writeCtxCmd
  split <;> simp [h]

@[simp] theorem ctxSave_formed (c) (s : State) (h : Formed (memPart s)) :
    Formed (memPart (ctxSave s c).2) := by
  simp [ctxSave, h]

@[simp] theorem putPlain_formed (t ws) (s : State) (h : Formed (memPart s)) : Formed (memPart (putPlain t ws s)) := memory_wf_putBytes _ _ h

@[simp] theorem putFor_formed (r adds t ws) (s : State) (h : Formed (memPart s)) : Formed (memPart (putFor r adds t ws s)) := by
  unfold putFor
  split
  · exact h
  · exact storeAs_formed _ _ _ _ _ _ h

@[simp] theorem putBy_formed (r t ws) (s : State) (h : Formed (memPart s)) : Formed (memPart (putBy r t ws s)) := putFor_formed _ _ _ _ _ h

theorem foldl_put_formed {put : Put} (hput : ∀ t ws s, Formed (memPart s) → Formed (memPart (put t ws s))) (t) (ms : List Made) (s : State)
    (h : Formed (memPart s)) : Formed (memPart (ms.foldl (fun s m => put t m.writes s) s)) :=
  formed_foldl _ (fun s m hs => hput t m.writes s hs) ms s h

theorem haltAll_formed {put : Put} (v i gs) (s : State) (hput : ∀ t ws s, Formed (memPart s) → Formed (memPart (put t ws s)))
    (h : Formed (memPart s)) : Formed (memPart (haltAll put v i gs s).2) := by
  rw [haltAll]
  refine List.foldlRecOn (motive := fun x : List Going × State => Formed (memPart x.2)) _ _ h fun x hx a _ => ?_
  dsimp only
  split
  · exact hx
  · exact foldl_put_formed hput _ _ _ hx

theorem runSteps_formed {put : Put} (ended draw keys n past gs) (s : State) (hput : ∀ t ws s, Formed (memPart s) → Formed (memPart (put t ws s)))
    (h : Formed (memPart s)) : Formed (memPart (runSteps put ended draw keys n past gs s).2) := by
  induction n generalizing past gs s with
  | zero => exact h
  | succ n ih =>
    have hpick : Formed (memPart (pickCopy (openCopies gs) s).2) := by simp [h]
    simp only [runSteps]
    split
    · exact h
    · split
      · exact hpick
      · split
        · exact hpick
        · split
          · exact haltAll_formed _ _ _ _ hput (hput _ _ _ hpick)
          · exact ih _ _ _ (hput _ _ _ hpick)

theorem carryOutUntil_formed {put : Put} (ended past ws) (s : State) (hput : ∀ t ws s, Formed (memPart s) → Formed (memPart (put t ws s)))
    (h : Formed (memPart s)) : Formed (memPart (carryOutUntil put ended past ws s).2) := by
  rw [carryOutUntil]
  refine List.foldlRecOn (motive := fun x : List Going × State => Formed (memPart x.2)) _ _ ?_ fun x hx g _ => hput _ _ _ hx
  exact runSteps_formed _ _ _ _ _ _ _ hput (show Formed (memPart (drawFree s).2) by simp [h])

@[simp] theorem carryOut_formed (past ws) (s : State) (h : Formed (memPart s)) :
    Formed (memPart (carryOut past ws s).2) := carryOutUntil_formed _ _ _ _ (fun _ _ _ hs => putPlain_formed _ _ _ hs) h

@[simp] theorem carryOutFor_formed (r adds past ws) (s : State) (h : Formed (memPart s)) :
    Formed (memPart (carryOutFor r adds past ws s).2) := carryOutUntil_formed _ _ _ _ (fun _ _ _ hs => putFor_formed _ _ _ _ _ hs) h

/-- What a work counts at its end, or where it stops, keeps the form of memory. -/
def Work.Forms (w : Work) : Prop :=
  (∀ s, Formed (memPart s) → Formed (memPart (w.whole s))) ∧ ∀ s, Formed (memPart s) → Formed (memPart (w.partly s))

/-- The works of a planner keep the form of memory by what they count. -/
def Planner.Forms (pl : Planner) : Prop := ∀ s d draw t i n w, pl s d draw t i n = .ok w → w.Forms

theorem Planner.Within.forms {pl : Planner} (hpl : pl.Within (allBut [.mem])) : pl.Forms := fun s d draw t i n w hw => by
  obtain ⟨hwhole, hpart⟩ := hpl s d draw t i n w hw
  exact ⟨fun s hs => by rwa [memPart, hwhole], fun s hs => by rwa [memPart, hpart]⟩

theorem formed_foldl_mem {α : Type} (f : State → α → State) (l : List α) (hf : ∀ a ∈ l, ∀ s, Formed (memPart s) → Formed (memPart (f s a)))
    (s : State) (h : Formed (memPart s)) : Formed (memPart (l.foldl f s)) :=
  List.foldlRecOn (motive := fun s => Formed (memPart s)) _ _ h fun s hs a ha => hf a ha s hs

theorem finishWorks_formed (d draw) {gs : List Going} (s : State) (hgs : ∀ g ∈ gs, g.work.Forms) (h : Formed (memPart s)) :
    Formed (memPart (finishWorks d draw gs s)) := by
  have hfold : ∀ total, Formed (memPart
      (gs.foldl (fun s g => g.work.whole (countAccess draw g (finishCopy d.ref g.work.target (g.report total) s))) s)) := fun total =>
    formed_foldl_mem _ _ (fun g hg s hs => (hgs g hg).1 _ (by simp [hs])) s h
  rw [finishWorks]
  split <;> simp [hfold]

theorem runWorks_formed (d draw) {ws : List Work} (s : State) (hws : ∀ w ∈ ws, w.Forms) (h : Formed (memPart s)) :
    Formed (memPart (runWorks d draw ws s)) := by
  rw [runWorks]
  split
  · simp [h]
  · exact finishWorks_formed d draw _ (carryOutUntil_work _ _ _ _ hws) (carryOutFor_formed _ _ _ _ _ h)

theorem worksOf_forms {pl : Planner} (hpl : pl.Forms) {s d draw} : ∀ w ∈ worksOf (plansOf pl s d draw), w.Forms := by
  intro w hw
  simp only [worksOf, plansOf, List.mem_filterMap, List.mem_map] at hw
  obtain ⟨_, ⟨⟨t, i⟩, -, rfl⟩, hok⟩ := hw
  cases hplan : pl s d draw t i d.copies.length with
  | error => simp [hplan, Except.toOption] at hok
  | ok y =>
    obtain rfl : y = w := by simpa [hplan, Except.toOption] using hok
    exact hpl s d draw t i _ y hplan

theorem runOpOn_formed (pick) {pl : Planner} (hpl : pl.Forms) (d) (s : State) (h : Formed (memPart s)) :
    Formed (memPart (runOpOn pick pl d s)) := by
  simp only [runOpOn]
  split
  · simp [h]
  · exact runWorks_formed _ _ _ (fun w hw => worksOf_forms hpl w (List.mem_of_mem_filter hw)) (by simp [h])

theorem runOp_formed {pl : Planner} (hpl : pl.Forms) (d) (s : State) (h : Formed (memPart s)) : Formed (memPart (runOp pl d s)) :=
  runOpOn_formed _ hpl d s h

theorem writeSome_formed (d) {ws : List Work} (s : State) (hws : ∀ w ∈ ws, w.Forms) (h : Formed (memPart s)) :
    Formed (memPart (writeSome d ws s)) := by
  simp only [writeSome]
  refine formed_foldl_mem _ _ ?_ _ (by simp [h])
  rintro ⟨⟨w, g⟩, i⟩ hmem s1 hs
  have hg : g.work.Forms := by
    refine carryOutUntil_work _ _ _ _ (fun w hw => ?_) g (List.of_mem_zip (List.fst_mem_of_mem_zipIdx hmem)).2
    obtain ⟨w0, hw0, rfl⟩ := List.mem_map.mp hw
    exact hws w0 (List.mem_of_mem_filter hw0)
  have hpart := hg.2 _ (show Formed (memPart (countAccess (drawFree s).1 g (putBy d.ref w.target (someOf ((drawFree s).1 + 2 ^ 40 * i) g.writes) s1))) by
    simp [hs])
  simpa using hpart

theorem stopOp_formed {pl : Planner} (hpl : pl.Forms) (d) (s : State) (h : Formed (memPart s)) : Formed (memPart (stopOp pl d s)) := by
  simp only [stopOp]
  split
  · split
    · simp [h]
    · exact writeSome_formed _ _ (worksOf_forms hpl) (by simp [h])
  · exact h

@[simp] theorem runScatterStore_formed (d) (s : State) (h : Formed (memPart s)) :
    Formed (memPart (runScatterStore d s)) := runOp_formed scatterPlan_within.forms d s h

@[simp] theorem runScatterAdd_formed (d) (s : State) (h : Formed (memPart s)) :
    Formed (memPart (runScatterAdd d s)) := runOp_formed scatterPlan_within.forms d s h

@[simp] theorem stopScatterAdd_formed (d) (s : State) (h : Formed (memPart s)) :
    Formed (memPart (stopScatterAdd d s)) := by
  simp only [stopScatterAdd]
  split
  · split
    · simp [h]
    · exact formed_foldl _ (fun s a hs => by simp [hs]) _ _ (carryOutFor_formed _ _ _ _ _ (by simp [h]))
  · exact h

end Sys2Proof.Machine
end

section
/-! PROOFS. The engines, stage queues, collectives and remote accesses keep the form of memory. -/

namespace Sys2Proof.Machine

@[simp] theorem noteNorm_formed (d x) (s : State) (h : Formed (memPart s)) :
    Formed (memPart (noteNorm d x s)) := by
  unfold noteNorm
  split <;> exact h

theorem atStage_formed (d op k) {f : Desc → State → State} (s : State) (hf : ∀ d s, Formed (memPart s) → Formed (memPart (f d s)))
    (h : Formed (memPart s)) : Formed (memPart (atStage d op k f s)) := by
  unfold atStage
  split
  · exact h
  · split
    · exact hf _ s h
    · exact h

theorem hePlan_forms : hePlan.Forms := by
  intro s d draw t i n w hw
  simp only [hePlan] at hw
  split at hw
  · cases hw
  · cases hw
    refine ⟨fun s hs => ?_, fun s hs => ?_⟩
    · dsimp only
      split <;> simp [hs]
    · simp [hs]

@[simp] theorem runHeOp_formed (d) (s : State) (h : Formed (memPart s)) : Formed (memPart (runHeOp d s)) := runOp_formed hePlan_forms d s h

@[simp] theorem heOpRow_formed (op d) (s : State) (h : Formed (memPart s)) :
    Formed (memPart (heOpRow op d s)) := by
  refine atStage_formed _ _ _ _ (fun d s hs => ?_) h
  split
  · exact runHeOp_formed d s hs
  · exact hs

@[simp] theorem stopHeOp_formed (d) (s : State) (h : Formed (memPart s)) :
    Formed (memPart (stopHeOp d s)) := by
  unfold stopHeOp
  split
  · exact h
  · exact stopOp_formed hePlan_forms d s h

@[simp] theorem runOptStep_formed (d) (s : State) (h : Formed (memPart s)) :
    Formed (memPart (runOptStep d s)) := runOpOn_formed _ (optPlan_within (by simp)).forms d s h

@[simp] theorem stopOptStep_formed (d) (s : State) (h : Formed (memPart s)) :
    Formed (memPart (stopOptStep d s)) := by
  unfold stopOptStep
  exact formed_ite_of (stopOp_formed (optPlan_within (by simp)).forms d s h) h

@[simp] theorem decideGate_formed (d) (s : State) (h : Formed (memPart s)) :
    Formed (memPart (decideGate d s)) := by
  unfold decideGate
  (repeat' split) <;> simp [h]

@[simp] theorem writeEntry_formed (e k) (s : State) (h : Formed (memPart s)) :
    Formed (memPart (writeEntry e k s)) := by
  simp [writeEntry, h]

@[simp] theorem acceptEntry_formed (e) (s : State) (h : Formed (memPart s)) :
    Formed (memPart (acceptEntry e s)) := by
  have htaken {x : Option Nat × State} (hx : (if (ledgerMove dCredit e.queue 1 .lent .held none s).1 = true then
        freeSlot (sqRx (ledgerMove dCredit e.queue 1 .lent .held none s).2 e.queue) (ledgerMove dCredit e.queue 1 .lent .held none s).2
      else (none, (ledgerMove dCredit e.queue 1 .lent .held none s).2)) = x) : Formed (memPart x.2) := by
    subst hx
    split <;> simp [h]
  simp only [acceptEntry]
  split
  · simp [h]
  · split
    · next heq => exact htaken heq
    · next heq =>
      have hs := htaken heq
      split
      · simp [h]
      · simp [hs]

@[simp] theorem logEntry_formed (e) (s : State) (h : Formed (memPart s)) :
    Formed (memPart (logEntry e s)) := by
  rw [logEntry]
  refine formed_foldl _ (fun s a h => ?_) _ _ h
  (repeat' split) <;> simp [h]

@[simp] theorem judgeEntry_formed (e) (s : State) (h : Formed (memPart s)) :
    Formed (memPart (judgeEntry e s)) := by
  simp only [judgeEntry]
  split <;> simp [h]

@[simp] theorem enterQueue_formed (e) (s : State) (h : Formed (memPart s)) :
    Formed (memPart (enterQueue e s)) := by
  simp [enterQueue, h]

@[simp] theorem judgeUnwritten_formed (q) (s : State) (h : Formed (memPart s)) :
    Formed (memPart (judgeUnwritten q s)) := by
  rw [judgeUnwritten]
  refine formed_foldl _ (fun s a h => ?_) _ _ h
  (repeat' split) <;> simp [h]

@[simp] theorem receiveEntry_formed (side e) (s : State) (h : Formed (memPart s)) :
    Formed (memPart (receiveEntry side e s)) := by
  unfold receiveEntry
  split <;> simp [h]

@[simp] theorem receiveOwn_formed (e) (s : State) (h : Formed (memPart s)) :
    Formed (memPart (receiveOwn e s)) := by
  unfold receiveOwn
  split <;> simp [h]

@[simp] theorem handOver_formed (d n e) (s : State) (h : Formed (memPart s)) :
    Formed (memPart (handOver d n e s)) := by
  simp only [handOver]
  split
  · exact receiveOwn_formed _ _ (formed_foldl _ (fun s c hs => by simp [hs]) _ _ h)
  · simp [h]

@[simp] theorem runSend_formed (d) (s : State) (h : Formed (memPart s)) :
    Formed (memPart (runSend d s)) := by
  simp only [runSend]
  (repeat' split) <;> simp [h]

@[simp] theorem runRecv_formed (d) (s : State) (h : Formed (memPart s)) :
    Formed (memPart (runRecv d s)) := by
  simp only [runRecv]
  split
  · exact h
  · split
    · simp [h]
    · rw [memPart, freeEntry_outside (by simp)]
      exact runOpOn_formed _ (recvPlan_within _ _).forms _ _ (by simp [h])

@[simp] theorem stopRecv_formed (d) (s : State) (h : Formed (memPart s)) :
    Formed (memPart (stopRecv d s)) := by
  simp only [stopRecv]
  split
  · exact h
  · next e _ =>
    have hstop := stopOp_formed (recvPlan_within (sqRx s (recvRxq d)) e).forms d s h
    split <;> simp [h, hstop]

@[simp] theorem admitCheck_formed (s : State) (h : Formed (memPart s)) :
    Formed (memPart (admitCheck s)) := by
  simp only [admitCheck]
  (repeat' split) <;> simp [h]

@[simp] theorem countCorrected_formed (p) (s : State) (h : Formed (memPart s)) :
    Formed (memPart (countCorrected p s)) := by
  unfold countCorrected
  split <;> exact h

@[simp] theorem markBad_formed (p symbols) (s : State) (h : Formed (memPart s)) :
    Formed (memPart (markBad p symbols s)) :=
  memory_wf_markBad _ _ _ h

@[simp] theorem miscorrect_formed (p bs) (s : State) (h : Formed (memPart s)) :
    Formed (memPart (miscorrect p bs s)) :=
  memory_wf_miscorrect _ _ _ h

@[simp] theorem checkBar2_formed (a n errors) (s : State) (h : Formed (memPart s)) :
    Formed (memPart (checkBar2 a n errors s)) := by
  rw [checkBar2]
  refine formed_foldl _ (fun s a h => ?_) _ _ h
  (repeat' split) <;> simp [h]

@[simp] theorem afterWrites_formed (s : State) (h : Formed (memPart s)) :
    Formed (memPart (afterWrites s)) := by
  unfold afterWrites
  split
  · exact h
  · exact memory_wf_putBytes _ _ h

@[simp] theorem serveBar2_formed (a n errors tag) (s : State) (h : Formed (memPart s)) :
    Formed (memPart (serveBar2 a n errors tag s)) := by
  simp only [serveBar2]
  split <;> simp [h]

@[simp] theorem readBar2_formed (a n errors tag) (s : State) (h : Formed (memPart s)) :
    Formed (memPart (readBar2 a n errors tag s)) := by
  unfold readBar2
  split
  · exact h
  · simp [h]

@[simp] theorem writeBar2_formed (a bs) (s : State) (h : Formed (memPart s)) :
    Formed (memPart (writeBar2 a bs s)) := by
  simp [writeBar2, h]

@[simp] theorem sendPiece_formed (d x ps rank phase b i) (s : State) (h : Formed (memPart s)) :
    Formed (memPart (sendPiece d x ps rank phase b i s)) := by
  simp only [sendPiece]
  split <;> simp [h]

@[simp] theorem sendRegion_formed (d x ps rank phase b) (s : State) (h : Formed (memPart s)) :
    Formed (memPart (sendRegion d x ps rank phase b s)) := by
  rw [sendRegion]
  refine formed_foldl _ (fun s a h => ?_) _ _ h
  simp [h]

@[simp] theorem storeArrived_formed (d ws) (s : State) (h : Formed (memPart s)) :
    Formed (memPart (storeArrived d ws s)) := by
  simp [storeArrived, h]

@[simp] theorem storeOwn_formed (d reads ws) (s : State) (h : Formed (memPart s)) :
    Formed (memPart (storeOwn d reads ws s)) := by
  unfold storeOwn
  split <;> simp [h]

@[simp] theorem reducePiece_formed (d a data ws) (s : State) (h : Formed (memPart s)) :
    Formed (memPart (reducePiece d a data ws s)) := by
  unfold reducePiece
  split <;> simp [h]

@[simp] theorem logChunk_formed (c off) (s : State) (h : Formed (memPart s)) :
    Formed (memPart (logChunk c off s)) := by
  simp [logChunk, h]

@[simp] theorem takePiece_formed (d x ps me src bs b c) (s : State) (h : Formed (memPart s)) :
    Formed (memPart (takePiece d x ps me src bs b c s)) := by
  have hforward (ps : List Nat) (s : State) (hs : Formed (memPart s)) (l : List (Nat × Bool × Nat)) :
      Formed (memPart (l.foldl (fun s (r, ph, k) => match s.coll.run with
        | some x => sendPiece d x ps r ph b k s
        | none => s) s)) :=
    formed_foldl _ (fun s a hs => by dsimp only; split <;> simp [hs]) _ _ hs
  have hcount (x : CollRun) (last : Bool) : Formed (memPart (countReplayed c last (setRun (some x) s))) := by simp [h]
  have hstored (p : Prop) [Decidable p] (ws s k) (hs : Formed (memPart s)) :
      Formed (memPart (storeArrived d ws (if p then (drawFree s).2 else logChunk c k (drawFree s).2))) :=
    storeArrived_formed _ _ _ (formed_ite_of (by simp [hs]) (by simp [hs]))
  simp only [takePiece]
  split
  · split
    · exact hcount _ _
    · refine formed_ite_of ?_ (formed_ite_of ?_ (hstored _ _ _ _ (hcount _ _)))
      · rw [memPart, misfit_outside (by simp)]
        exact hstored _ _ _ _ (hcount _ _)
      · rw [memPart, acceptChunk_outside (by simp)]
        exact hstored _ _ _ _ (hcount _ _)
  · refine hforward _ _ ?_ _
    (repeat' split) <;> simp [hcount]

@[simp] theorem takeReport_formed (x src c) (s : State) (h : Formed (memPart s)) :
    Formed (memPart (takeReport x src c s)) := by
  simp [takeReport, h]

@[simp] theorem judgePiece_formed (x d c) (s : State) (h : Formed (memPart s)) :
    Formed (memPart (judgePiece x d c s)) := by
  simp only [judgePiece]
  (repeat' split) <;> simp [h]

@[simp] theorem applyChunk_formed (c) (s : State) (h : Formed (memPart s)) :
    Formed (memPart (applyChunk c s)) := by
  unfold applyChunk
  (repeat' split) <;> simp [h]

@[simp] theorem replayEarly_formed (slot inst) (s : State) (h : Formed (memPart s)) :
    Formed (memPart (replayEarly slot inst s)) := by
  rw [replayEarly]
  refine formed_foldl _ (fun s a h => ?_) _ _ h
  simp [h]

@[simp] theorem takeHeld_formed (s : State) (h : Formed (memPart s)) :
    Formed (memPart (takeHeld s)) := by
  unfold takeHeld
  split <;> simp [h]

@[simp] theorem startColl_formed (d) (s : State) (h : Formed (memPart s)) :
    Formed (memPart (startColl d s)) := by
  have hsent (x : CollRun) (ps : List Nat) (l : List (Nat × Bool × CBlock)) :
      Formed (memPart (l.foldl (fun s (r, ph, b) => sendRegion d x ps r ph b s) (setRun (some x) (takeInst (collSlot d) s).2))) :=
    formed_foldl _ (fun s a hs => by simp [hs]) _ _ (by simp [h])
  simp only [startColl]
  rw [memPart, endColl_outside (by simp)]
  refine replayEarly_formed _ _ _ (formed_ite_of (formed_foldl _ (fun s b hs => ?_) _ _ (hsent ..)) (hsent ..))
  split
  · exact hs
  · refine storeOwn_formed _ _ _ _ (formed_ite_of hs ?_)
    split <;> simp [hs]

@[simp] theorem withBuf_formed (d a f) (s : State) (h : Formed (memPart s)) (hf : ∀ a s, Formed (memPart s) → Formed (memPart (f a s))) :
    Formed (memPart (withBuf d a f s)) := by
  unfold withBuf
  split
  · simp [h]
  · exact hf _ s h

@[simp] theorem copyRun_formed (d op src dst) (s : State) (h : Formed (memPart s)) :
    Formed (memPart (copyRun d op src dst s)) := by
  simp [copyRun, h]

@[simp] theorem startPut_formed (d) (s : State) (h : Formed (memPart s)) :
    Formed (memPart (startPut d s)) := by
  simp [startPut, h]

@[simp] theorem startGet_formed (d) (s : State) (h : Formed (memPart s)) :
    Formed (memPart (startGet d s)) := by
  simp [startGet, h]

@[simp] theorem serveRead_formed (p) (s : State) (h : Formed (memPart s)) :
    Formed (memPart (serveRead p s)) := by
  simp only [serveRead]
  (repeat' split) <;> simp [h]

@[simp] theorem writeRemote_formed (p data) (s : State) (h : Formed (memPart s)) :
    Formed (memPart (writeRemote p data s)) := by
  have hlog (a : Nat) (l : List (List Byte × Nat)) :
      Formed (memPart (l.foldl (fun s (b, i) => logEvent lkRwr (leBytes 8 (a + 4096 * i) ++ b) s) s)) :=
    formed_foldl _ (fun s a hs => by simp [hs]) _ _ h
  simp only [writeRemote]
  split <;> simp [hlog]

@[simp] theorem serveWrite_formed (p data) (s : State) (h : Formed (memPart s)) :
    Formed (memPart (serveWrite p data s)) := by
  simp [serveWrite, h]

@[simp] theorem serveUnwritten_formed (s : State) (h : Formed (memPart s)) :
    Formed (memPart (serveUnwritten s)) := by
  rw [serveUnwritten]
  refine formed_foldl _ (fun s a h => ?_) _ _ h
  (repeat' split) <;> simp [h]

@[simp] theorem logRemoteErr_formed (a) (s : State) (h : Formed (memPart s)) :
    Formed (memPart (logRemoteErr a s).2) := by
  simp [logRemoteErr, h]

@[simp] theorem endReply_formed (r status) (s : State) (h : Formed (memPart s)) :
    Formed (memPart (endReply r status s)) := by
  unfold endReply
  split <;> simp [h]

@[simp] theorem applyResponse_formed (x d p) (s : State) (h : Formed (memPart s)) :
    Formed (memPart (applyResponse x d p s)) := by
  have hlog (bs : List Byte) : Formed (memPart (logEvent lkRrsp bs (setRun (some { x with
      heard := true, lastPos := p.srcPos, lastSide := p.srcSide, lastAt := s.ft.ft }) s))) := logEvent_formed _ _ _ (by simp [h])
  simp only [applyResponse]
  (repeat' split) <;> simp [hlog]

@[simp] theorem takeResponse_formed (p) (s : State) (h : Formed (memPart s)) :
    Formed (memPart (takeResponse p s)) := by
  simp only [takeResponse]
  (repeat' split) <;> simp [h]

@[simp] theorem beginExchange_formed (d) (s : State) (h : Formed (memPart s)) :
    Formed (memPart (beginExchange d s)) := by
  simp only [beginExchange]
  exact replayEarly_formed _ _ _ (formed_foldl _ (fun s a hs => by simp [hs]) _ _ (by simp [h]))

@[simp] theorem serviceExchange_formed (s : State) (h : Formed (memPart s)) :
    Formed (memPart (serviceExchange s)) := by
  simp only [serviceExchange]
  split <;> simp [h]

end Sys2Proof.Machine
end

section
/-! PROOFS. Run guards, ledgers, embers, the yoke and the matrix and vector engines keep the form of memory. -/

namespace Sys2Proof.Machine

@[simp] theorem settleVerdict_formed (g round word) (s : State) (h : Formed (memPart s)) :
    Formed (memPart (settleVerdict g round word s)) := by
  simp [settleVerdict, h]

@[simp] theorem formVerdict_formed (d rs) (s : State) (h : Formed (memPart s)) :
    Formed (memPart (formVerdict d rs s)) := by
  unfold formVerdict
  split
  · simp [h]
  · have hsettled (g r w run) : Formed (memPart (settleVerdict g r w (setRun run (combineReports (gvRound d) rs s).2))) :=
      settleVerdict_formed _ _ _ _ (by simp [h])
    dsimp only
    rw [memPart, endVerdict_outside (by simp)]
    exact formed_ite_of (hsettled ..) (storeBy_formed _ _ _ _ _ (hsettled ..))

@[simp] theorem takeSnapshot_formed (s : State) (h : Formed (memPart s)) :
    Formed (memPart (takeSnapshot s)) := by
  simp [takeSnapshot, h]

@[simp] theorem writeSnapCtrl_formed (v) (s : State) (h : Formed (memPart s)) :
    Formed (memPart (writeSnapCtrl v s)) := by
  simp [writeSnapCtrl, h]

@[simp] theorem emberRow_formed (r op f) (s : State) (h : Formed (memPart s)) (hf : ∀ a s, Formed (memPart s) → Formed (memPart (f a s))) :
    Formed (memPart (emberRow r op f s)) := by
  refine atStage_formed _ _ _ _ (fun d s hs => ?_) h
  split
  · exact hs
  · (repeat' split) <;> simp [hs, hf]

@[simp] theorem putRecord_formed (b) (s : State) (h : Formed (memPart s)) :
    Formed (memPart (putRecord b s)) :=
  memory_wf_putRecord _ _ h

@[simp] theorem relogDescs_formed (s : State) (h : Formed (memPart s)) :
    Formed (memPart (relogDescs s)) := by
  rw [relogDescs]
  refine formed_foldl _ (fun s a h => ?_) _ _ h
  simp [h]

@[simp] theorem openEpoch_formed (d) (s : State) (h : Formed (memPart s)) :
    Formed (memPart (openEpoch d s)) := by
  simp only [openEpoch]
  rw [memPart, finishCopy_outside (by simp)]
  exact relogDescs_formed _ (logEvent_formed _ _ _ (putRecord_formed _ _ (by simp [h])))

@[simp] theorem makeHeld_formed (ws) (s : State) (h : Formed (memPart s)) :
    Formed (memPart (makeHeld ws s)) := by
  simp only [makeHeld]
  refine formed_foldl _ (fun s c hs => ?_) _ _ (memory_wf_commit _ _ h)
  split <;> simp [hs]

@[simp] theorem releaseReceived_formed (s : State) (h : Formed (memPart s)) :
    Formed (memPart (releaseReceived s)) := by
  rw [releaseReceived]
  exact takeHeld_formed _ (serveUnwritten_formed _ (formed_foldl _ (fun s q hs => judgeUnwritten_formed _ _ hs) _ _ h))

@[simp] theorem releaseHeld_formed (i) (s : State) (h : Formed (memPart s)) :
    Formed (memPart (releaseHeld i s)) := releaseReceived_formed _ (makeHeld_formed _ _ (by simp [h]))

@[simp] theorem releaseAllHeld_formed (s : State) (h : Formed (memPart s)) :
    Formed (memPart (releaseAllHeld s)) := releaseReceived_formed _ (makeHeld_formed _ _ (by simp [h]))

@[simp] theorem abandonEpoch_formed (s : State) (h : Formed (memPart s)) :
    Formed (memPart (abandonEpoch s)) := by
  simp only [abandonEpoch]
  refine releaseAllHeld_formed _ ?_
  rw [memPart, setEmber_outside (by simp)]
  refine formed_foldl _ (fun s c hs => ?_) _ _ h
  (repeat' split) <;> simp [hs]

@[simp] theorem runOpen_formed (d) (s : State) (h : Formed (memPart s)) :
    Formed (memPart (runOpen d s)) := by
  simp [runOpen, h]

@[simp] theorem runAbandon_formed (d) (s : State) (h : Formed (memPart s)) :
    Formed (memPart (runAbandon d s)) := by
  simp [runAbandon, h]

@[simp] theorem writeHome_formed (d n p b) (s : State) (h : Formed (memPart s)) :
    Formed (memPart (writeHome d n p b s)) := by
  simp [writeHome, h]

@[simp] theorem loadPage_formed (d i b) (s : State) (h : Formed (memPart s)) :
    Formed (memPart (loadPage d i b s)) := by
  unfold loadPage
  split <;> simp [h]

@[simp] theorem loadFailed_formed (d) (s : State) (h : Formed (memPart s)) :
    Formed (memPart (loadFailed d s)) := by
  rw [loadFailed]
  refine formed_foldl _ (fun s a h => ?_) _ _ h
  (repeat' split) <;> simp [h]

@[simp] theorem takeLoad_formed (page bytes d) (s : State) (h : Formed (memPart s)) :
    Formed (memPart (takeLoad page bytes d s)) := by
  unfold takeLoad
  (repeat' split) <;> simp [h]

@[simp] theorem streamPage_formed (i) (s : State) (h : Formed (memPart s)) :
    Formed (memPart (streamPage i s)) := by
  simp only [streamPage]
  (repeat' split) <;> simp [h]

@[simp] theorem beginPage_formed (i) (s : State) (h : Formed (memPart s)) :
    Formed (memPart (beginPage i s)) := by
  simp [beginPage, h]

@[simp] theorem sealEpoch_formed (s : State) (h : Formed (memPart s)) :
    Formed (memPart (sealEpoch s)) := by
  simp [sealEpoch, h]

@[simp] theorem sealIfAcked_formed (s : State) (h : Formed (memPart s)) :
    Formed (memPart (sealIfAcked s)) := by
  simp [sealIfAcked, h]

@[simp] theorem takePageAck_formed (epoch pages) (s : State) (h : Formed (memPart s)) :
    Formed (memPart (takePageAck epoch pages s)) := by
  unfold takePageAck
  refine formed_ite_of (sealIfAcked_formed _ (formed_foldl _ (fun s i hs => by simp [hs]) _ _ (by simp [h]))) h

@[simp] theorem takeSealAck_formed (epoch) (s : State) (h : Formed (memPart s)) :
    Formed (memPart (takeSealAck epoch s)) := by
  simp [takeSealAck, h]

@[simp] theorem takePage_formed (e j b) (s : State) (h : Formed (memPart s)) :
    Formed (memPart (takePage e j b s)) := by
  simp only [takePage]
  split <;> simp [h]

@[simp] theorem takeEmber_formed (arg0 arg1 b) (s : State) (h : Formed (memPart s)) :
    Formed (memPart (takeEmber arg0 arg1 b s)) := by
  simp [takeEmber, h]

@[simp] theorem takeLog_formed (o b) (s : State) (h : Formed (memPart s)) :
    Formed (memPart (takeLog o b s)) := by
  simp [takeLog, h]

@[simp] theorem acceptNow_formed (a) (s : State) (h : Formed (memPart s)) :
    Formed (memPart (acceptNow a s)) := by
  unfold acceptNow
  split <;> simp [h]

@[simp] theorem acceptUpTo_formed (covered) (s : State) (h : Formed (memPart s)) :
    Formed (memPart (acceptUpTo covered s)) := by
  rw [acceptUpTo]
  refine formed_foldl _ (fun s a h => ?_) _ _ h
  simp [h]

@[simp] theorem takeLogAck_formed (bytes) (s : State) (h : Formed (memPart s)) :
    Formed (memPart (takeLogAck bytes s)) := by
  simp [takeLogAck, h]

@[simp] theorem acceptAll_formed (s : State) (h : Formed (memPart s)) :
    Formed (memPart (acceptAll s)) := by
  rw [acceptAll]
  refine formed_foldl _ (fun s a h => ?_) _ _ h
  simp [h]

@[simp] theorem partnerLost_formed (s : State) (h : Formed (memPart s)) :
    Formed (memPart (partnerLost s)) := by
  have hlost : Formed (memPart (setPartner 3 (setYoke { s.yoke with gotPair := false, gotBeat := false } s))) := by simp [h]
  simp only [partnerLost]
  refine formed_ite_of h (formed_ite_of (formed_ite_of ?_ hlost) (acceptAll_formed _ (formed_ite_of (abandonEpoch_formed _ hlost) hlost)))
  rw [memPart, startTakeover_outside (by simp)]
  exact hlost

@[simp] theorem takeYoke_formed (p) (s : State) (h : Formed (memPart s)) :
    Formed (memPart (takeYoke p s)) := by
  simp [takeYoke, h]

@[simp] theorem writeYokeCfg_formed (v) (s : State) (h : Formed (memPart s)) :
    Formed (memPart (writeYokeCfg v s)) := by
  simp [writeYokeCfg, h]

@[simp] theorem handle_formed (port collided p x) (s : State) (h : Formed (memPart s)) :
    Formed (memPart (handle port collided p x s)) := by
  unfold handle
  (repeat' split) <;> simp [h]

@[simp] theorem takeInOrder_formed (port collided k p x) (s : State) (h : Formed (memPart s)) :
    Formed (memPart (takeInOrder port collided k p x s)) := by
  simp [takeInOrder, h]

@[simp] theorem takeData_formed (port blocks collided p) (s : State) (h : Formed (memPart s)) :
    Formed (memPart (takeData port blocks collided p s)) := by
  simp only [takeData]
  split <;> simp [h]

@[simp] theorem deliver_formed (port blocks collided p) (s : State) (h : Formed (memPart s)) :
    Formed (memPart (deliver port blocks collided p s)) := by
  simp only [deliver]
  (repeat' split) <;> simp [h]

@[simp] theorem receivePacket_formed (port p) (s : State) (h : Formed (memPart s)) :
    Formed (memPart (receivePacket port p s)) := by
  simp only [receivePacket]
  (repeat' split) <;> simp [h]

@[simp] theorem deliverType_formed (t port p) (s : State) (h : Formed (memPart s)) :
    Formed (memPart (deliverType t port p s)) := by
  simp [deliverType, h]

@[simp] theorem deliverYoke_formed (t p) (s : State) (h : Formed (memPart s)) :
    Formed (memPart (deliverYoke t p s)) := by
  simp [deliverYoke, h]

@[simp] theorem runMma_formed (o x) (s : State) (h : Formed (memPart s)) :
    Formed (memPart (runMma o x s)) := by
  simp only [runMma]
  (repeat' split) <;> simp [h]

@[simp] theorem stopped_formed (x) (j : MatCopy) (draw staging acc g) (s : State) (h : Formed (memPart s)) :
    Formed (memPart (j.stopped x draw staging acc g s)) := by
  simp only [MatCopy.stopped]
  rw [memPart, noteStopped_outside (by simp)]
  exact putBy_formed _ _ _ _ (putBy_formed _ _ _ _ (putBy_formed _ _ _ _ h))

@[simp] theorem stopMma_formed (o x) (s : State) (h : Formed (memPart s)) : Formed (memPart (stopMma o x s)) := by
  have hstop : Formed (memPart (x.copies.foldl (stopDelivery x) s)) := by simp [h]
  simp only [stopMma]
  refine formed_ite_of (formed_ite_of (by simp [h]) (formed_foldl _ (fun s g hs => ?_) _ _ ?_)) hstop
  · rw [memPart, countAccess_outside (by simp), countMatCopy_outside (by simp)]
    exact stopped_formed _ _ _ _ _ _ _ hs
  · simp [h]

@[simp] theorem runWMma_formed (x) (s : State) (h : Formed (memPart s)) :
    Formed (memPart (runWMma x s)) := by
  simp only [runWMma]
  (repeat' split) <;> simp [h]

@[simp] theorem stopWMma_formed (x) (s : State) (h : Formed (memPart s)) :
    Formed (memPart (stopWMma x s)) := by
  simp only [stopWMma]
  refine formed_ite_of (formed_ite_of (by simp [h]) (formed_foldl _ (fun s g hs => ?_) _ _ ?_)) h
  · rw [memPart, countAccess_outside (by simp), countWMma_outside (by simp)]
    exact stopped_formed _ _ _ _ _ _ _ hs
  · simp [h]

@[simp] theorem runChainTensor_formed (x) (s : State) (h : Formed (memPart s)) :
    Formed (memPart (runChainTensor x s)) := runOp_formed (chainPlan_within (by simp)).forms x s h

@[simp] theorem takeDrains_formed (x batch) (s : State) (h : Formed (memPart s)) :
    Formed (memPart (takeDrains x batch s)) := by
  have hrun := runOpOn_formed (fun t => batch.any fun e => e.target == t) (pairedPlan_within (by simp) batch x.ref).forms x s h
  simp only [takeDrains]
  refine formed_ite_of hrun ?_
  rw [memPart, dropDrains_outside (by simp)]
  split
  · exact formed_foldl _ (fun s e hs => by simp [hs]) _ _ hrun
  · exact hrun

@[simp] theorem runChainDrain_formed (x) (s : State) (h : Formed (memPart s)) :
    Formed (memPart (runChainDrain x s)) := by
  simp [runChainDrain, h]

@[simp] theorem runMatrix_formed (o x) (s : State) (h : Formed (memPart s)) :
    Formed (memPart (runMatrix o x s)) := by
  unfold runMatrix
  split <;> simp [h]

end Sys2Proof.Machine
end

section
/-! PROOFS. Dies, self-tests, the module state and replays keep the form of memory. -/

namespace Sys2Proof.Machine

@[simp] theorem takeRow_formed (x t k w) (s : State) (h : Formed (memPart s)) :
    Formed (memPart (takeRow x t k w s)) := by
  simp only [takeRow]
  split <;> simp [h]

@[simp] theorem endStream_formed (x t k) (s : State) (h : Formed (memPart s)) :
    Formed (memPart (endStream x t k s)) := by
  simp [endStream, h]

@[simp] theorem stopChain_formed (x) (s : State) (h : Formed (memPart s)) :
    Formed (memPart (stopChain x s)) := by
  unfold stopChain
  split
  · exact stopOp_formed (pairedPlan_within (by simp) _ _).forms _ _ (by simp [h])
  · refine formed_foldl _ (fun s c hs => ?_) _ _ h
    split <;> simp [hs]
  · exact stopOp_formed (chainPlan_within (by simp)).forms _ _ h

@[simp] theorem stopPartner_formed (x) (s : State) (h : Formed (memPart s)) :
    Formed (memPart (stopPartner x s)) := by
  unfold stopPartner
  split <;> simp [h]

@[simp] theorem stopMatrix_formed (o x) (s : State) (h : Formed (memPart s)) :
    Formed (memPart (stopMatrix o x s)) := by
  unfold stopMatrix
  split <;> simp [h]

@[simp] theorem resetDie_formed (n) (s : State) (h : Formed (memPart s)) :
    Formed (memPart (resetDie n s)) := by
  rw [resetDie, memPart, applyFuses_outside (by simp), dropStreams_outside (by simp)]
  exact memory_wf_clearSram _ _ h

@[simp] theorem returnDie_formed (n) (s : State) (h : Formed (memPart s)) :
    Formed (memPart (returnDie n s)) := by
  have hreset : Formed (memPart (resetDie n s)) := resetDie_formed n s h
  simp only [returnDie]
  refine serveUnwritten_formed _ (formed_foldl _ (fun s q hs => ?_) _ _ ?_)
  · rw [memPart, sendQstate_outside (by simp)]
    exact judgeUnwritten_formed _ _ (by simp [hs])
  · rw [memPart, outside_foldl _ fun s l => linkUp_outside (by simp) .., setDieLoss_outside (by simp), outside_with_ms_ft (by simp),
      retakePages_outside (by simp), outside_foldl _ fun s q => retakeQueue_outside (by simp) .., setShared_outside (by simp),
      outside_with_link (by simp)]
    refine formed_foldl _ (fun s d hs => ?_) _ _ (formed_foldl _ (fun s l hs => ?_) _ _ hreset) <;> simp [hs]

@[simp] theorem resetCd0_formed (returns) (s : State) (h : Formed (memPart s)) :
    Formed (memPart (resetCd0 returns s)) := by
  simp [resetCd0, h]

@[simp] theorem writeDieCtrl_formed (v returns) (s : State) (h : Formed (memPart s)) :
    Formed (memPart (writeDieCtrl v returns s)) := by
  simp [writeDieCtrl, h]

@[simp] theorem bistPowerDown_formed (b) (s : State) (h : Formed (memPart s)) :
    Formed (memPart (bistPowerDown b s)) := by
  unfold bistPowerDown
  split
  · exact formed_with_mem (memory_wf_loseStacks _ _ (formed_memPart.mp h))
  · exact h

@[simp] theorem bistClear_formed (b) (s : State) (h : Formed (memPart s)) :
    Formed (memPart (bistClear b s)) :=
  memory_wf_bistClear _ _ h

@[simp] theorem bistEnd_formed (sigObs findings) (s : State) (h : Formed (memPart s)) :
    Formed (memPart (bistEnd sigObs findings s)) := by
  have hclear (b b' : List Byte) (x : Bist) (xs) : Formed (memPart (setBist x (bistClear b (judgeFindings b' xs s).2.2))) := by
    rw [memPart, setBist_outside (by simp)]
    exact bistClear_formed _ _ (by simp [h])
  have hstore (o ws) (b b' : List Byte) (x : Bist) (xs) :
      Formed (memPart (store o false .iod ws (setBist x (bistClear b (judgeFindings b' xs s).2.2)))) := store_formed _ _ _ _ _ (hclear ..)
  simp only [bistEnd]
  rw [memPart, wakeCopies_outside (by simp)]
  split
  · rw [bistReport_outside (by simp)]
    exact logMemErr_formed _ _ _ _ _ _ _ (hstore ..)
  · rw [bistReport_outside (by simp)]
    exact hstore ..

@[simp] theorem stopBist_formed (s : State) (h : Formed (memPart s)) :
    Formed (memPart (stopBist s)) := by
  have hfill (base k : Nat) (l : List Nat) (m : Mem) (hm : Memory.wf m = true) :
      Memory.wf (l.foldl (fun m i => putBytes m [(base + i, BitVec.ofNat 8 (Config.freeAt k i))]) m) = true :=
    memory_wf_foldl_putBytes (fun i => [(base + i, BitVec.ofNat 8 (Config.freeAt k i))]) l m hm
  simp only [stopBist]
  refine formed_ite_of h (formed_ite_of (bistPowerDown_formed _ _ (hfill _ _ _ _ h)) (bistPowerDown_formed _ _ (by simp [h])))

@[simp] theorem unpower_formed (s : State) (h : Formed (memPart s)) :
    Formed (memPart (unpower s)) := memory_wf_of_eq (m := Mem.reset) rfl rfl memory_wf_empty

@[simp] theorem toStandby_formed (s : State) (h : Formed (memPart s)) :
    Formed (memPart (toStandby s)) := by
  simp [toStandby, h]

@[simp] theorem toStopped_formed (cause sensor) (s : State) (h : Formed (memPart s)) :
    Formed (memPart (toStopped cause sensor s)) := by
  simp only [toStopped]
  (repeat' split) <;> simp [h]

@[simp] theorem toOff_formed (s : State) (h : Formed (memPart s)) :
    Formed (memPart (toOff s)) := by
  simp [toOff, h]

@[simp] theorem stopMailboxBist_formed (s : State) (h : Formed (memPart s)) :
    Formed (memPart (stopMailboxBist s)) := by
  simp [stopMailboxBist, h]

@[simp] theorem beginTraining_formed (s : State) (h : Formed (memPart s)) :
    Formed (memPart (beginTraining s)) := by
  simp [beginTraining, h]

@[simp] theorem reqFull_formed (s : State) (h : Formed (memPart s)) :
    Formed (memPart (reqFull s)) := by
  unfold reqFull
  (repeat' split) <;> simp [h]

@[simp] theorem powerDown_formed (s : State) (h : Formed (memPart s)) :
    Formed (memPart (powerDown s)) := formed_with_mem (memory_wf_loseStacks _ _ (List.foldlRecOn (motive := fun m => Memory.wf m = true) _ _ (formed_memPart.mp h)
    fun m hm n _ => memory_wf_clearSram n m hm))

@[simp] theorem trainingFails_formed (start step unit) (s : State) (h : Formed (memPart s)) :
    Formed (memPart (trainingFails start step unit s)) := by
  simp only [trainingFails]
  rw [memPart, setPoll_outside (by simp), setMode_outside (by simp), outside_with_bringup (by simp)]
  refine powerDown_formed _ ?_
  rw [memPart, portsStop_outside (by simp)]
  refine formed_foldl _ (fun s n hs => ?_) _ _ h
  split <;> simp [hs]

@[simp] theorem trainUnits_formed (s : State) (h : Formed (memPart s)) :
    Formed (memPart (trainUnits s)) := by
  have hreset (l : List Nat) : Formed (memPart (l.foldl (fun s n => if n = 0 then resetCd0 true s else resetDie n s) s)) :=
    formed_foldl _ (fun s n hs => by split <;> simp [hs]) _ _ h
  have hstart (ns ls : List Nat) (s : State) (hs : Formed (memPart s)) :
      Formed (memPart (ns.foldl (fun s n => startDie n s) (ls.foldl (fun s l => linkUp l s) s))) :=
    formed_foldl _ (fun s n hs => by simp [hs]) _ _ (formed_foldl _ (fun s n hs => by simp [hs]) _ _ hs)
  simp only [trainUnits]
  refine formed_foldl _ (fun s p hs => by split <;> simp [hs]) _ _ ?_
  rw [memPart, ledgersFull_outside (by simp), poolTakeEffect_outside (by simp)]
  exact hstart _ _ _ (hreset _)

@[simp] theorem trainingDone_formed (start) (s : State) (h : Formed (memPart s)) :
    Formed (memPart (trainingDone start s)) := by
  simp [trainingDone, h]

@[simp] theorem endFences_formed (s : State) (h : Formed (memPart s)) :
    Formed (memPart (endFences s)) := by
  have hclear (l : List Nat) : Formed (memPart (l.foldl (fun s n => (List.range 32).foldl (fun s l => clearFlags n l s) s) s)) :=
    formed_foldl _ (fun s n hs => formed_foldl _ (fun s l hs => by simp [hs]) _ _ hs) _ _ h
  have hretake (qs : List Nat) (s : State) (hs : Formed (memPart s)) : Formed (memPart (qs.foldl (fun s q => retakeQueue q s) s)) :=
    formed_foldl _ (fun s q hs => by simp [hs]) _ _ hs
  have hjudge (qs : List Nat) (s : State) (hs : Formed (memPart s)) :
      Formed (memPart (qs.foldl (fun s q => judgeUnwritten q (flushShelf q s)) s)) :=
    formed_foldl _ (fun s q hs => judgeUnwritten_formed _ _ (by simp [hs])) _ _ hs
  simp only [endFences]
  exact formed_ite_of (hretake _ _ (hclear _)) (serveUnwritten_formed _ (hjudge _ _ (hretake _ _ (hclear _))))

@[simp] theorem enterKindling_formed (cd0Returns) (s : State) (h : Formed (memPart s)) :
    Formed (memPart (enterKindling cd0Returns s)) := by
  have hleft : Formed (memPart (withdraw (portsStop (abortForKindling s)))) := by simp [h]
  have hended (p : Bool) (s) (hs : Formed (memPart s)) :
      Formed (memPart (endFences (poolEmpty (ledgersKindling (if p then abandonEpoch s else s))))) := by
    refine endFences_formed _ ?_
    rw [memPart, poolEmpty_outside (by simp), ledgersKindling_outside (by simp)]
    exact formed_ite_of (abandonEpoch_formed _ hs) hs
  have hdown (s) (hs : Formed (memPart s)) :
      Formed (memPart (kindlingLinks (retarget (setMode .kindling causeHostRequest (kindlingClocks (powerDown s)))))) := by
    rw [memPart, kindlingLinks_outside (by simp), retarget_outside (by simp), setMode_outside (by simp), kindlingClocks_outside (by simp)]
    exact powerDown_formed _ hs
  have hstart (p : Bool) (s) (hs : Formed (memPart s)) :
      Formed (memPart (startDie 0 (linkUp 6 (if p then resetDie 0 s else s)))) := by
    rw [memPart, startDie_outside (by simp), linkUp_outside (by simp)]
    exact formed_ite_of (resetDie_formed _ _ hs) hs
  have hin := hstart (isFenced s 0) _ (hdown _ (hended (withdraw (portsStop (abortForKindling s))).ember.streaming _ hleft))
  simp only [enterKindling]
  refine formed_ite_of ?_ hin
  rw [memPart, fenceDies_outside (by simp)]
  exact hin

@[simp] theorem endRequest_formed (s : State) (h : Formed (memPart s)) :
    Formed (memPart (endRequest s)) := by
  unfold endRequest
  split <;> simp [h]

@[simp] theorem diesReturn_formed (dies returned) (s : State) (h : Formed (memPart s)) :
    Formed (memPart (diesReturn dies returned s)) := by
  have hback (left back : List Nat) : Formed (memPart
      (left.foldl (fun s l => linkLeft l s) (back.foldl (fun s n => returnDie n (setPwrDie n .reset s)) s))) :=
    formed_foldl _ (fun s l hs => by simp [hs]) _ _ (formed_foldl _ (fun s n hs => returnDie_formed _ _ (by simp [hs])) _ _ h)
  simp only [diesReturn]
  refine formed_ite_of ?_ ?_
  · rw [memPart, portsStart_outside (by simp), noteWarnings_outside (by simp), retarget_outside (by simp), setMode_outside (by simp)]
    exact hback ..
  · rw [memPart, setMode_outside (by simp)]
    exact hback ..

@[simp] theorem writeStateReq_formed (v cd0Returns) (s : State) (h : Formed (memPart s)) :
    Formed (memPart (writeStateReq v cd0Returns s)) := by
  unfold writeStateReq
  split <;> simp [h]

@[simp] theorem writeMemResv_formed (v) (s : State) (h : Formed (memPart s)) :
    Formed (memPart (writeMemResv v s)) := by
  simp only [writeMemResv]
  exact formed_ite_of h h

@[simp] theorem restorePage_formed (n bank home) (s : State) (h : Formed (memPart s)) :
    Formed (memPart (restorePage n bank home s)) := by
  have hnote : Formed (memPart (notePageErrors n bank s)) := notePageErrors_formed _ _ _ h
  simp only [restorePage]
  rw [memPart, countGranules_outside (by simp)]
  exact memory_wf_copyPage _ _ _ _ hnote

@[simp] theorem restorePages_formed (s : State) (h : Formed (memPart s)) :
    Formed (memPart (restorePages s)) := by
  unfold restorePages
  refine formed_foldl _ (fun s x hs => ?_) _ _ h
  exact formed_ite_of hs (formed_foldl _ (fun s j hs => restorePage_formed _ _ _ _ hs) _ _ hs)

@[simp] theorem replayEntry_formed (rest b) (s : State) (h : Formed (memPart s)) :
    Formed (memPart (replayEntry rest b s)) := by
  simp [replayEntry, h]

@[simp] theorem replayChunk_formed (b) (s : State) (h : Formed (memPart s)) :
    Formed (memPart (replayChunk b s)) := by
  unfold replayChunk
  split <;> simp [h]

@[simp] theorem replayRrsp_formed (b) (s : State) (h : Formed (memPart s)) :
    Formed (memPart (replayRrsp b s)) := by
  unfold replayRrsp
  split <;> simp [h]

@[simp] theorem handleWaiting_formed (s : State) (h : Formed (memPart s)) :
    Formed (memPart (handleWaiting s)) := by
  rw [handleWaiting]
  refine formed_foldl _ (fun s a h => ?_) _ _ h
  simp [h]

@[simp] theorem goLive_formed (s : State) (h : Formed (memPart s)) :
    Formed (memPart (goLive s)) := by
  simp [goLive, h]

@[simp] theorem stopEffects_formed (d) (s : State) (h : Formed (memPart s)) :
    Formed (memPart (stopEffects d s)) := by
  unfold stopEffects
  split
  · exact stopOp_formed copyPlan_within.forms d s h
  · exact stopOp_formed relayoutPlan_within.forms d s h
  · exact stopOp_formed gatherPlan_within.forms d s h
  · exact formed_ite_of (stopScatterAdd_formed _ _ h) (stopOp_formed scatterPlan_within.forms d s h)
  all_goals (repeat' split) <;> simp [h]

@[simp] theorem releaseHolds_formed (d) (s : State) (h : Formed (memPart s)) :
    Formed (memPart (releaseHolds d s)) := by
  have hheld (p : Bool) :
      Formed (memPart (d.copies.foldl (fun s c => closeTxns c.target s) (if p then discardHeld d s else s))) :=
    formed_foldl _ (fun s c hs => by simp [hs]) _ _ (formed_ite_of (by simp [h]) h)
  simp only [releaseHolds]
  split
  · refine formed_ite_of ?_ (hheld _)
    rw [memPart, stopSend_outside (by simp)]
    exact hheld _
  · exact stopRecv_formed _ _ (hheld _)
  · rw [memPart, leaveEngine_outside (by simp)]
    exact hheld _
  · rw [memPart, leaveEngine_outside (by simp)]
    exact hheld _
  · exact hheld _

@[simp] theorem makeEffects_formed (d) (s : State) (h : Formed (memPart s)) :
    Formed (memPart (makeEffects d s)) := by
  simp [makeEffects, h]

@[simp] theorem finishDesc_formed (r) (s : State) (h : Formed (memPart s)) :
    Formed (memPart (finishDesc r s)) := by
  have hmade (d) : Formed (memPart (makeEffects d s)) := makeEffects_formed _ _ h
  unfold finishDesc
  split
  · exact h
  · refine formed_ite_of h (formed_ite_of (hmade _) ?_)
    split
    · exact hmade _
    · refine serviceExchange_formed _ ?_
      rw [memPart, freeStream_outside (by simp)]
      exact completeDesc_formed _ _ (by simp [hmade])

end Sys2Proof.Machine
end

section
/-! PROOFS. What every command keeps but the end of a self-test and the tick: what the module is built as, the fuses it has used, the clock, the queue
and the form of memory; the writes of the registers of BAR0 keep it too. -/

namespace Sys2Proof.Machine

/-- What a state is built as, its clock and its queue. -/
abbrev buildPart (s : State) : State := outside (allBut [.hw, .clk, .pending]) s

/-- A state keeps what another is built as, its clock, its queue, and the form of its memory. -/
structure Keeps (s t : State) : Prop where
  build : buildPart t = buildPart s
  form : Formed (memPart s) → Formed (memPart t)

@[simp] theorem keeps_iff {s t : State} : Keeps s t ↔ buildPart t = buildPart s ∧ (Formed (memPart s) → Formed (memPart t)) :=
  ⟨fun h => ⟨h.build, h.form⟩, fun h => ⟨h.1, h.2⟩⟩

theorem Keeps.refl (s : State) : Keeps s s := ⟨rfl, id⟩

theorem Keeps.trans {s t u : State} (h : Keeps s t) (h' : Keeps t u) : Keeps s u :=
  ⟨h'.build.trans h.build, fun hs => h'.form (h.form hs)⟩

theorem keeps_foldl {α : Type} (f : State → α → State) (hf : ∀ s a, Keeps s (f s a)) (l : List α) (s : State) : Keeps s (l.foldl f s) := by
  induction l generalizing s with
  | nil => exact .refl s
  | cons a l ih => exact (hf s a).trans (ih _)

/-- The write of a register keeps what a command keeps. -/
def Reg.Keeps (r : Reg) : Prop := ∀ v s, Machine.Keeps s (r.write v s)

/-- So does the register that may stand at an offset. -/
def RegKeeps (o : Option Reg) : Prop := ∀ r, o = some r → r.Keeps

@[simp] theorem regKeeps_none : RegKeeps none := fun _ h => nomatch h
@[simp] theorem regKeeps_some {r : Reg} : RegKeeps (some r) ↔ r.Keeps := ⟨fun h => h r rfl, fun h _ hr => Option.some.inj hr ▸ h⟩
@[simp] theorem keeps_ro (n : Nat) : (ro n).Keeps := fun _ s => .refl s
@[simp] theorem keeps_ro64 (n : Nat) : (ro64 n).Keeps := fun _ s => .refl s
@[simp] theorem keeps_statReg (c : Stat) : (statReg c).Keeps := fun _ s => .refl s
@[simp] theorem keeps_wrapsReg (cs : List Stat) : (wrapsReg cs).Keeps := fun _ s => .refl s
@[simp] theorem keeps_rw {n : Nat} {f : Word → State → State} : (rw n f).Keeps ↔ ∀ v s, Keeps s (f v s) :=
  ⟨fun h v s => by simpa [rw] using h (v.setWidth 64) s, fun h _ s => h _ s⟩
@[simp] theorem keeps_rw64 {n : Nat} {f : DWord → State → State} : (rw64 n f).Keeps ↔ ∀ v s, Keeps s (f v s) := Iff.rfl
@[simp] theorem keeps_ite {p : Prop} [Decidable p] {s t u : State} : Keeps s (if p then t else u) ↔ (p → Keeps s t) ∧ (¬p → Keeps s u) := by
  split <;> simp [*]

@[simp] theorem regKeeps_idReg (s : State) (o : Nat) : RegKeeps (idReg s o) := by
  unfold idReg
  (repeat' split)
  case h_5 =>
    refine regKeeps_some.mpr (keeps_rw.mpr fun v s => ?_)
    exact ⟨by simp, fun h => by dsimp only; split <;> simp [h]⟩
  all_goals simp

@[simp] theorem regKeeps_sringReg (s : State) (n o : Nat) : RegKeeps (sringReg s n o) := by
  unfold sringReg
  (repeat' split) <;> simp

@[simp] theorem regKeeps_cringReg (s : State) (n o : Nat) : RegKeeps (cringReg s n o) := by
  unfold cringReg
  (repeat' split) <;> simp

@[simp] theorem regKeeps_ctxReg (s : State) (n o : Nat) : RegKeeps (ctxReg s n o) := by
  unfold ctxReg
  (repeat' split) <;> simp

@[simp] theorem regKeeps_hostReg (s : State) (o : Nat) : RegKeeps (hostReg s o) := by
  unfold hostReg
  (repeat' split)
  case h_5 =>
    refine regKeeps_some.mpr (keeps_rw.mpr fun v s => ?_)
    exact ⟨by simp, fun h => by simp [h]⟩
  all_goals simp

@[simp] theorem regKeeps_memErrReg (e : MemErr) (o : Nat) : RegKeeps (memErrReg e o) := by
  unfold memErrReg
  (repeat' split) <;> simp

@[simp] theorem regKeeps_statPair (c : Stat) (o : Nat) : RegKeeps (statPair c o) := by
  unfold statPair
  (repeat' split) <;> simp

@[simp] theorem regKeeps_memReg (s : State) (o : Nat) : RegKeeps (memReg s o) := by
  unfold memReg
  (repeat' split)
  case h_1 =>
    refine regKeeps_some.mpr (keeps_rw64.mpr fun v s => ?_)
    exact ⟨by simp, fun h => h⟩
  case h_3 =>
    refine regKeeps_some.mpr (keeps_rw.mpr fun v s => ?_)
    exact ⟨by simp, fun h => by simp [h]⟩
  all_goals simp

@[simp] theorem regKeeps_lineReg (s : State) (l o : Nat) : RegKeeps (lineReg s l o) := by
  unfold lineReg
  (repeat' split) <;> simp

@[simp] theorem regKeeps_sqtxReg (s : State) (n o : Nat) : RegKeeps (sqtxReg s n o) := by
  unfold sqtxReg
  (repeat' split) <;> simp

@[simp] theorem regKeeps_sqrxReg (s : State) (q o : Nat) : RegKeeps (sqrxReg s q o) := by
  unfold sqrxReg
  (repeat' split) <;> simp

@[simp] theorem regKeeps_syncReg (s : State) (o : Nat) : RegKeeps (syncReg s o) := by
  unfold syncReg
  (repeat' split) <;> simp

@[simp] theorem regKeeps_lagReg (s : State) (o : Nat) : RegKeeps (lagReg s o) := by
  unfold lagReg
  (repeat' split) <;> simp

@[simp] theorem regKeeps_duestReg (s : State) (l o : Nat) : RegKeeps (duestReg s l o) := by
  unfold duestReg
  (repeat' split) <;> simp

@[simp] theorem regKeeps_dieReg (s : State) (o : Nat) : RegKeeps (dieReg s o) := by
  unfold dieReg
  (repeat' split)
  case h_2 =>
    refine regKeeps_some.mpr (keeps_rw.mpr fun v s => ?_)
    exact ⟨by simp, fun h => by simp [h]⟩
  all_goals simp

@[simp] theorem regKeeps_boardReg (s : State) (o : Nat) : RegKeeps (boardReg s o) := by
  unfold boardReg
  (repeat' split) <;> simp

@[simp] theorem regKeeps_iodReg (s : State) (o : Nat) : RegKeeps (iodReg s o) := by
  unfold iodReg
  (repeat' split) <;> simp

@[simp] theorem regKeeps_msixReg (s : State) (v o : Nat) : RegKeeps (msixReg s v o) := by
  unfold msixReg
  (repeat' split) <;> simp

@[simp] theorem regKeeps_pcieReg (s : State) (o : Nat) : RegKeeps (pcieReg s o) := by
  unfold pcieReg
  (repeat' split) <;> simp

@[simp] theorem regKeeps_planReg (s : State) (b o : Nat) : RegKeeps (planReg s b o) := by
  unfold planReg
  (repeat' split) <;> simp

@[simp] theorem regKeeps_ftReg (s : State) (o : Nat) : RegKeeps (ftReg s o) := by
  unfold ftReg
  (repeat' split) <;> simp

@[simp] theorem regKeeps_portReg (s : State) (p o : Nat) : RegKeeps (portReg s p o) := by
  unfold portReg
  (repeat' split) <;> simp

@[simp] theorem regKeeps_zbReg (s : State) (o : Nat) : RegKeeps (zbReg s o) := by
  unfold zbReg
  (repeat' split)
  case h_4 =>
    refine regKeeps_some.mpr fun v s => ?_
    dsimp only
    split <;> simp
  all_goals simp

@[simp] theorem regKeeps_poolReg (s : State) (o : Nat) : RegKeeps (poolReg s o) := by
  unfold poolReg
  (repeat' split) <;> simp

@[simp] theorem regKeeps_ledgerReg (s : State) (d o : Nat) : RegKeeps (ledgerReg s d o) := by
  unfold ledgerReg
  (repeat' split) <;> simp

@[simp] theorem regKeeps_lgReg (s : State) (o : Nat) : RegKeeps (lgReg s o) := by
  unfold lgReg
  (repeat' split)
  case h_8 =>
    refine regKeeps_some.mpr (keeps_rw.mpr fun v s => ?_)
    exact ⟨by simp, fun h => by simp [h]⟩
  all_goals simp

@[simp] theorem regKeeps_pwrReg (s : State) (o : Nat) : RegKeeps (pwrReg s o) := by
  unfold pwrReg
  (repeat' split) <;> simp

@[simp] theorem regKeeps_secReg (s : State) (o : Nat) : RegKeeps (secReg s o) := by
  unfold secReg
  (repeat' split) <;> simp

@[simp] theorem regKeeps_bistReg (s : State) (o : Nat) : RegKeeps (bistReg s o) := by
  unfold bistReg
  (repeat' split) <;> simp

@[simp] theorem regKeeps_heReg (s : State) (o : Nat) : RegKeeps (heReg s o) := by
  unfold heReg
  (repeat' split) <;> simp

@[simp] theorem regKeeps_guardReg (s : State) (o : Nat) : RegKeeps (guardReg s o) := by
  unfold guardReg
  (repeat' split) <;> simp

@[simp] theorem regKeeps_embReg (s : State) (o : Nat) : RegKeeps (embReg s o) := by
  unfold embReg
  (repeat' split) <;> simp

@[simp] theorem regKeeps_yokeReg (s : State) (o : Nat) : RegKeeps (yokeReg s o) := by
  unfold yokeReg
  (repeat' split)
  case h_1 =>
    refine regKeeps_some.mpr (keeps_rw.mpr fun v s => ?_)
    exact ⟨by simp, fun h => by simp [h]⟩
  all_goals simp

@[simp] theorem regKeeps_claimReg (s : State) (o : Nat) : RegKeeps (claimReg s o) := by
  unfold claimReg
  (repeat' split) <;> simp

@[simp] theorem regKeeps_mbReg (s : State) (m o : Nat) : RegKeeps (mbReg s m o) := by
  unfold mbReg
  (repeat' split) <;> simp

@[simp] theorem regKeeps_meReg (s : State) (core o : Nat) : RegKeeps (meReg s core o) := by
  unfold meReg
  (repeat' split) <;> simp

@[simp] theorem regKeeps_veReg (s : State) (core o : Nat) : RegKeeps (veReg s core o) := by
  unfold veReg
  (repeat' split) <;> simp

@[simp] theorem regKeeps_aeReg (s : State) (core o : Nat) : RegKeeps (aeReg s core o) := by
  unfold aeReg
  (repeat' split) <;> simp

@[simp] theorem regKeeps_cdReg (s : State) (n o : Nat) : RegKeeps (cdReg s n o) := by
  unfold cdReg
  (repeat' split) <;> simp

@[simp] theorem regKeeps_regAt (s : State) (o : Nat) : RegKeeps (regAt s o) := by
  unfold regAt
  (repeat' split) <;> simp

end Sys2Proof.Machine
end

section
/-! PROOFS. The writes of BAR0 and what a takeover replays keep the build, the clock, the queue and the form of memory. -/

namespace Sys2Proof.Machine

theorem regKeeps_upperOf (s : State) (o : Nat) : RegKeeps (upperOf s o) := by
  intro r hr
  unfold upperOf at hr
  split at hr
  · exact regKeeps_regAt s (o - 4) r (Option.filter_eq_some_iff.mp hr).1
  · cases hr

theorem bar0Write_keeps (off v : Nat) {f : State → State} (hf : ∀ s, Keeps s (f s)) (s : State) : Keeps s (bar0Write off v f s) := by
  unfold bar0Write
  split
  · refine Keeps.trans ⟨?_, fun h => ?_⟩ (hf _)
    · split <;> simp
    · split <;> simp [h]
  · exact .refl s

theorem write4_keeps (o v) (s : State) : Keeps s (write4 o v s) := by
  unfold write4
  split
  · next hr =>
    have hkeep := regKeeps_regAt s o _ hr
    split
    · exact bar0Write_keeps _ _ (hkeep _) s
    · exact bar0Write_keeps _ _ (hkeep _) s
  · next hr _ => exact bar0Write_keeps _ _ (regKeeps_upperOf s o _ (by assumption) _) s
  · exact bar0Write_keeps _ _ .refl s

theorem write8_keeps (o v) (s : State) : Keeps s (write8 o v s) := by
  unfold write8
  split
  · next hr =>
    split
    · exact bar0Write_keeps _ _ (regKeeps_regAt s o _ hr _) s
    · exact (write4_keeps ..).trans (write4_keeps ..)
  · exact (write4_keeps ..).trans (write4_keeps ..)

theorem writeBar0_keeps (o size v) (s : State) : Keeps s (writeBar0 o size v s) := by
  unfold writeBar0
  split
  · exact .refl s
  · split
    · exact write8_keeps o v s
    · exact write4_keeps o _ s

theorem replayWrite_keeps (o v) (s : State) : Keeps s (replayWrite o v s) := by
  unfold replayWrite
  split
  · exact .refl s
  · split
    · exact write8_keeps o v s
    · exact write4_keeps o _ s

theorem keeps_ite_of {p : Prop} [Decidable p] {s t u : State} (ht : Keeps s t) (hu : Keeps s u) : Keeps s (if p then t else u) := by
  split <;> assumption

theorem writeCtxCmd_keeps (v) (s : State) : Keeps s (writeCtxCmd v s) := ⟨by simp, fun h => by simp [h]⟩

/-- The state that a command answers keeps what every command keeps. -/
def KeepsNext (s : State) (a : Answer) : Prop := ∀ t, a = .next t → Keeps s t

@[simp] theorem keepsNext_next {s t : State} : KeepsNext s (.next t) ↔ Keeps s t := ⟨fun h => h t rfl, fun h _ ht => by cases ht; exact h⟩

theorem replayOne_keeps (kind b rest) (s : State) : Keeps s (replayOne kind b rest s) := by
  unfold replayOne
  refine keeps_ite_of (by simp) (keeps_ite_of (by simp) (keeps_ite_of ?_ (keeps_ite_of ?_ (keeps_ite_of ?_ (keeps_ite_of ?_
    (keeps_ite_of (by simp) (keeps_ite_of ?_ (keeps_ite_of (replayWrite_keeps ..) (keeps_ite_of (writeCtxCmd_keeps ..) (.refl s))))))))))
  · exact ⟨by simp, fun h => replayEntry_formed _ _ _ h⟩
  · exact ⟨by simp, fun h => replayChunk_formed _ _ h⟩
  · exact ⟨by simp, fun h => storeReceived_formed _ _ _ h⟩
  · exact ⟨by simp, fun h => replayRrsp_formed _ _ h⟩
  · exact ⟨by simp, fun h => writeBar2_formed _ _ _ h⟩

theorem setYoke_keeps (y) (s : State) : Keeps s (setYoke y s) := by simp

theorem replayMuted_keeps (kind b rest) (s : State) : Keeps s (replayMuted kind b rest s) :=
  ((setYoke_keeps ..).trans (replayOne_keeps ..)).trans (setYoke_keeps ..)

theorem walkReplay_keeps (es) (s : State) : Keeps s (walkReplay es s) := by
  induction es generalizing s with
  | nil => exact .refl s
  | cons e rest ih =>
    unfold walkReplay
    exact keeps_ite_of (.refl s) (((setYoke_keeps ..).trans (replayMuted_keeps ..)).trans (ih _))

theorem replayAdvance_keeps (s : State) : Keeps s (replayAdvance s) := by
  unfold replayAdvance
  exact keeps_ite_of (walkReplay_keeps ..) (.refl s)

theorem restoreDone_keeps (s : State) : Keeps s (restoreDone s) := by
  have hload : Keeps s (loadRecord (restorePages s)) := ⟨by simp, fun h => by simp [h]⟩
  unfold restoreDone
  exact keeps_ite_of ((hload.trans (setYoke_keeps ..)).trans (replayAdvance_keeps _)) (.refl s)

theorem goLive_keeps (s : State) : Keeps s (goLive s) := ⟨by simp, fun h => by simp [h]⟩

/-! ### The frames of descriptors, registers and services -/

theorem atStage_keeps (d op k) {f : Desc → State → State} (hf : ∀ d s, Keeps s (f d s)) (s : State) : Keeps s (atStage d op k f s) := by
  unfold atStage
  split
  · exact .refl s
  · exact keeps_ite_of (hf _ s) (.refl s)

theorem ctxWrite_keeps (ctx cmd) {f : Nat → State → State} (hf : ∀ n s, Keeps s (f n s)) (s : State) : Keeps s (ctxWrite ctx cmd f s) := by
  unfold ctxWrite
  exact keeps_ite_of (bar0Write_keeps _ _ (hf ctx) s) (.refl s)

theorem emberRow_keeps (r op) {f : Desc → State → State} (hf : ∀ d s, Keeps s (f d s)) (s : State) : Keeps s (emberRow r op f s) := by
  refine atStage_keeps _ _ _ (fun d s => keeps_ite_of (.refl s) ?_) s
  split
  · exact ⟨by simp, fun h => by simp [h]⟩
  · split
    · simp
    · exact hf d s

theorem collRow_keeps (r op) {f : Desc → State → State} (hf : ∀ d s, Keeps s (f d s)) (s : State) : Keeps s (collRow r op f s) := by
  refine atStage_keeps _ _ _ (fun d s => ?_) s
  split
  · simp
  · refine keeps_ite_of (.refl s) (keeps_ite_of (by simp) ?_)
    exact Keeps.trans (t := updDesc r (updCopy .collective fun c => { c with stage := 1 }) s) (by simp) (hf d _)

theorem serve_keeps (m v) {f : Mailbox → State → State} (hf : ∀ x s, Keeps s (f x s)) (s : State) : Keeps s (serve m v f s) := by
  unfold serve
  exact keeps_ite_of (hf _ s) (.refl s)

theorem runOp_keeps {pl : Planner} (hw : pl.Within (allBut [.hw, .clk, .pending])) (hf : pl.Forms) (d) (s : State) : Keeps s (runOp pl d s) :=
  ⟨runOp_outside (by simp) hw d s, runOp_formed hf d s⟩

end Sys2Proof.Machine
end

section
/-! PROOFS. Each command but the tick and the end of a self-test keeps the build, the clock, the queue and the form of memory. -/

namespace Sys2Proof.Machine

@[simp] theorem execDoorbellPoll_keeps (words) (s : State) : KeepsNext s (execDoorbellPoll words s) := by
  unfold execDoorbellPoll
  (repeat' split) <;> simp

@[simp] theorem execDescFetch_keeps (ring bytes) (s : State) : KeepsNext s (execDescFetch ring bytes s) := by
  unfold execDescFetch
  refine keepsNext_next.mpr ⟨?_, fun h => ?_⟩
  · (repeat' split) <;> simp
  · (repeat' split) <;> simp [h]

@[simp] theorem execDescDispatch_keeps (s : State) : KeepsNext s (execDescDispatch s) := by
  unfold execDescDispatch
  (repeat' split) <;> simp

@[simp] theorem execSownRelease_keeps (s : State) : KeepsNext s (execSownRelease s) := by
  unfold execSownRelease
  (repeat' split) <;> simp

@[simp] theorem execDescStart_keeps (t) (s : State) : KeepsNext s (execDescStart t s) := by
  have hstart (d) : Keeps s (openTxns t d (startCopy t d (closeTxns t s))) := ⟨by simp, fun h => by simp (disch := simp [h])⟩
  have hmet (r) (s) : Keeps s (recordsMet t r s) := ⟨by simp, fun h => by simp [h]⟩
  have hcopy (r) (s) : Keeps s (startCopy t r s) := ⟨by simp, fun h => by simp [h]⟩
  refine keepsNext_next.mpr (keeps_ite_of (.refl s) ?_)
  split
  · exact .refl s
  · dsimp only
    split
    · exact (((hstart _).trans (hcopy ..)).trans (hmet ..)).trans (hmet ..)
    · exact (hstart _).trans (hmet ..)

@[simp] theorem execCompletionRecordWaitEnd_keeps (cr) (s : State) : KeepsNext s (execCompletionRecordWaitEnd cr s) := by
  unfold execCompletionRecordWaitEnd
  refine keepsNext_next.mpr ⟨?_, fun h => ?_⟩
  · (repeat' split) <;> simp
  · (repeat' split) <;> simp [h]

@[simp] theorem execMsixModerationEnd_keeps (cr) (s : State) : KeepsNext s (execMsixModerationEnd cr s) := by
  simp [execMsixModerationEnd]

@[simp] theorem execMsixUnmask_keeps (vector) (s : State) : KeepsNext s (execMsixUnmask vector s) := by
  unfold execMsixUnmask
  refine keepsNext_next.mpr ⟨?_, fun h => ?_⟩
  · (repeat' split) <;> simp
  · (repeat' split) <;> simp [h]

@[simp] theorem execCringEnable_keeps (cr value) (s : State) : KeepsNext s (execCringEnable cr value s) := by
  unfold execCringEnable
  refine keepsNext_next.mpr ⟨?_, fun h => ?_⟩
  · (repeat' split) <;> simp
  · (repeat' split) <;> simp [h]

@[simp] theorem execSringCfgWrite_keeps (ring reg value) (s : State) : KeepsNext s (execSringCfgWrite ring reg value s) := by
  unfold execSringCfgWrite
  refine keepsNext_next.mpr ⟨?_, fun h => ?_⟩
  · (repeat' split) <;> simp
  · (repeat' split) <;> simp [h]

@[simp] theorem execCtxBegin_keeps (ctx) (s : State) : KeepsNext s (execCtxBegin ctx s) :=
  keepsNext_next.mpr (ctxWrite_keeps _ _ (fun d s => ⟨by simp, fun h => by simp [h]⟩) s)

@[simp] theorem execCtxEnd_keeps (ctx) (s : State) : KeepsNext s (execCtxEnd ctx s) :=
  keepsNext_next.mpr (ctxWrite_keeps _ _ (fun d s => ⟨by simp, fun h => by simp [h]⟩) s)

@[simp] theorem execCtxAbort_keeps (ctx) (s : State) : KeepsNext s (execCtxAbort ctx s) :=
  keepsNext_next.mpr (ctxWrite_keeps _ _ (fun d s => ⟨by simp, fun h => by simp [h]⟩) s)

@[simp] theorem execCtxEndFinish_keeps (ctx) (s : State) : KeepsNext s (execCtxEndFinish ctx s) := by
  unfold execCtxEndFinish
  refine keepsNext_next.mpr ⟨?_, fun h => ?_⟩
  · dsimp only
    (repeat' split) <;> simp
  · dsimp only
    (repeat' split) <;> simp [h]

@[simp] theorem execNop_keeps (d) (s : State) : KeepsNext s (execNop d s) := by
  unfold execNop
  (repeat' split) <;> simp

@[simp] theorem execWaitHost_keeps (d) (s : State) : KeepsNext s (execWaitHost d s) :=
  keepsNext_next.mpr (atStage_keeps _ _ _ (fun d s => by split <;> simp) s)

@[simp] theorem execWaitHostPoll_keeps (d word) (s : State) : KeepsNext s (execWaitHostPoll d word s) := by
  unfold execWaitHostPoll
  refine keepsNext_next.mpr ⟨?_, fun h => ?_⟩
  · (repeat' split) <;> simp
  · (repeat' split) <;> simp [h]

@[simp] theorem execSignalHost_keeps (d) (s : State) : KeepsNext s (execSignalHost d s) :=
  keepsNext_next.mpr (atStage_keeps _ _ _ (fun d s => by (repeat' split) <;> simp) s)

@[simp] theorem execFtEpochPulse_keeps (s : State) : KeepsNext s (execFtEpochPulse s) := by
  simp [execFtEpochPulse]

@[simp] theorem execEpochMissTimeout_keeps (s : State) : KeepsNext s (execEpochMissTimeout s) := by
  unfold execEpochMissTimeout
  (repeat' split) <;> simp

@[simp] theorem execFtRefLoss_keeps (s : State) : KeepsNext s (execFtRefLoss s) := by
  simp [execFtRefLoss]

@[simp] theorem execFtRefReturn_keeps (s : State) : KeepsNext s (execFtRefReturn s) := by
  simp [execFtRefReturn]

@[simp] theorem execFtCtrlArm_keeps (value) (s : State) : KeepsNext s (execFtCtrlArm value s) := by
  unfold execFtCtrlArm
  refine keepsNext_next.mpr ⟨?_, fun h => ?_⟩
  · simp
  · simp [h]

@[simp] theorem execFtCtrlDisarm_keeps (value) (s : State) : KeepsNext s (execFtCtrlDisarm value s) := by
  unfold execFtCtrlDisarm
  refine keepsNext_next.mpr ⟨?_, fun h => ?_⟩
  · simp
  · simp [h]

@[simp] theorem execFtLoadWrite_keeps (value) (s : State) : KeepsNext s (execFtLoadWrite value s) := by
  unfold execFtLoadWrite
  refine keepsNext_next.mpr ⟨?_, fun h => ?_⟩
  · simp
  · simp [h]

@[simp] theorem execFtNowRead_keeps (offset) (s : State) : KeepsNext s (execFtNowRead offset s) := by
  simp [execFtNowRead]

@[simp] theorem execTimeReqSend_keeps (port) (s : State) : KeepsNext s (execTimeReqSend port s) := by
  simp [execTimeReqSend]

@[simp] theorem execTimeReqReceive_keeps (port t1 replay) (s : State) : KeepsNext s (execTimeReqReceive port t1 replay s) := by
  simp [execTimeReqReceive]

@[simp] theorem execTimeRspReceive_keeps (port t1 t2 turn replay) (s : State) : KeepsNext s (execTimeRspReceive port t1 t2 turn replay s) := by
  simp [execTimeRspReceive]

@[simp] theorem execTimeReplyTimeout_keeps (port) (s : State) : KeepsNext s (execTimeReplyTimeout port s) := by
  unfold execTimeReplyTimeout
  refine keepsNext_next.mpr ⟨?_, fun h => ?_⟩
  · dsimp only
    (repeat' split) <;> simp
  · dsimp only
    (repeat' split) <;> simp [h]

@[simp] theorem execFtPlanEnable_keeps (plan) (s : State) : KeepsNext s (execFtPlanEnable plan s) := by
  unfold execFtPlanEnable
  refine keepsNext_next.mpr ⟨?_, fun h => ?_⟩
  · (repeat' split) <;> simp
  · (repeat' split) <;> simp [h]

@[simp] theorem execFrameBoundary_keeps (s : State) : KeepsNext s (execFrameBoundary s) := by
  simp [execFrameBoundary]

@[simp] theorem execFtOutPulse_keeps (s : State) : KeepsNext s (execFtOutPulse s) := by
  simp [execFtOutPulse]

@[simp] theorem execFtOutCfgWrite_keeps (value) (s : State) : KeepsNext s (execFtOutCfgWrite value s) := by
  unfold execFtOutCfgWrite
  refine keepsNext_next.mpr ⟨?_, fun h => ?_⟩
  · simp
  · simp [h]

@[simp] theorem execCopy_keeps (d) (s : State) : KeepsNext s (execCopy d s) :=
  keepsNext_next.mpr (atStage_keeps _ _ _ (runOp_keeps copyPlan_within copyPlan_within.forms) s)

@[simp] theorem execRelayout_keeps (d) (s : State) : KeepsNext s (execRelayout d s) :=
  keepsNext_next.mpr (atStage_keeps _ _ _ (runOp_keeps relayoutPlan_within relayoutPlan_within.forms) s)

@[simp] theorem execGather_keeps (d) (s : State) : KeepsNext s (execGather d s) :=
  keepsNext_next.mpr (atStage_keeps _ _ _ (runOp_keeps gatherPlan_within gatherPlan_within.forms) s)

@[simp] theorem execScatterStore_keeps (d) (s : State) : KeepsNext s (execScatterStore d s) :=
  keepsNext_next.mpr (atStage_keeps _ _ _ (fun d s => ⟨by split <;> simp, fun h => by split <;> simp [h]⟩) s)

@[simp] theorem execScatterAdd_keeps (d) (s : State) : KeepsNext s (execScatterAdd d s) :=
  keepsNext_next.mpr (atStage_keeps _ _ _ (fun d s => ⟨by split <;> simp, fun h => by split <;> simp [h]⟩) s)

@[simp] theorem execHeOpFill_keeps (d) (s : State) : KeepsNext s (execHeOpFill d s) := by
  unfold execHeOpFill
  refine keepsNext_next.mpr ⟨?_, fun h => ?_⟩
  · simp
  · simp [h]

@[simp] theorem execHeOpCopy_keeps (d) (s : State) : KeepsNext s (execHeOpCopy d s) := by
  unfold execHeOpCopy
  refine keepsNext_next.mpr ⟨?_, fun h => ?_⟩
  · simp
  · simp [h]

@[simp] theorem execHeOpCast_keeps (d) (s : State) : KeepsNext s (execHeOpCast d s) := by
  unfold execHeOpCast
  refine keepsNext_next.mpr ⟨?_, fun h => ?_⟩
  · simp
  · simp [h]

@[simp] theorem execHeOpReduceAdd_keeps (d) (s : State) : KeepsNext s (execHeOpReduceAdd d s) := by
  unfold execHeOpReduceAdd
  refine keepsNext_next.mpr ⟨?_, fun h => ?_⟩
  · simp
  · simp [h]

@[simp] theorem execHeOpScale_keeps (d) (s : State) : KeepsNext s (execHeOpScale d s) := by
  unfold execHeOpScale
  refine keepsNext_next.mpr ⟨?_, fun h => ?_⟩
  · simp
  · simp [h]

@[simp] theorem execHeOpNorm_keeps (d) (s : State) : KeepsNext s (execHeOpNorm d s) := by
  unfold execHeOpNorm
  refine keepsNext_next.mpr ⟨?_, fun h => ?_⟩
  · simp
  · simp [h]

@[simp] theorem execHeOpNormAcc_keeps (d) (s : State) : KeepsNext s (execHeOpNormAcc d s) := by
  unfold execHeOpNormAcc
  refine keepsNext_next.mpr ⟨?_, fun h => ?_⟩
  · simp
  · simp [h]

@[simp] theorem execOptStep_keeps (d) (s : State) : KeepsNext s (execOptStep d s) :=
  keepsNext_next.mpr ((atStage_keeps _ _ _ (fun d s => by split <;> simp) s).trans (atStage_keeps _ _ _ (fun d s => ⟨by simp, fun h => by simp [h]⟩) _))

@[simp] theorem execGateTimeout_keeps (d) (s : State) : KeepsNext s (execGateTimeout d s) := by
  unfold execGateTimeout
  (repeat' split) <;> simp

@[simp] theorem execTallyAdd_keeps (d t) (s : State) : KeepsNext s (execTallyAdd d t s) := by
  simp [execTallyAdd]

@[simp] theorem execTallySet_keeps (d t) (s : State) : KeepsNext s (execTallySet d t s) := by
  simp [execTallySet]

@[simp] theorem execTallyWait_keeps (d t) (s : State) : KeepsNext s (execTallyWait d t s) := by
  simp [execTallyWait]

@[simp] theorem execTallyWaitAdd_keeps (d t) (s : State) : KeepsNext s (execTallyWaitAdd d t s) := by
  simp [execTallyWaitAdd]

@[simp] theorem execTallyRead_keeps (d t) (s : State) : KeepsNext s (execTallyRead d t s) := by
  simp [execTallyRead]

@[simp] theorem execBarrierArrive_keeps (d t) (s : State) : KeepsNext s (execBarrierArrive d t s) := by
  simp [execBarrierArrive]

@[simp] theorem execBarrierLatchRelease_keeps (line) (s : State) : KeepsNext s (execBarrierLatchRelease line s) := by
  simp [execBarrierLatchRelease]

@[simp] theorem execBarrierWait_keeps (d t) (s : State) : KeepsNext s (execBarrierWait d t s) := by
  simp [execBarrierWait]

@[simp] theorem execBarrierArriveWait_keeps (d t) (s : State) : KeepsNext s (execBarrierArriveWait d t s) := by
  simp [execBarrierArriveWait]

@[simp] theorem execEntryReceive_keeps (e) (s : State) : KeepsNext s (execEntryReceive e s) := by
  unfold execEntryReceive
  refine keepsNext_next.mpr ⟨?_, fun h => ?_⟩
  · simp
  · simp [h]

@[simp] theorem execSend_keeps (d) (s : State) : KeepsNext s (execSend d s) :=
  keepsNext_next.mpr ((atStage_keeps _ _ _ (fun d s => ⟨by simp, fun h => by simp [h]⟩) s).trans (atStage_keeps _ _ _ (fun d s => ⟨by split <;> simp, fun h => by split <;> simp [h]⟩) _))

@[simp] theorem execRecv_keeps (d) (s : State) : KeepsNext s (execRecv d s) :=
  keepsNext_next.mpr ((atStage_keeps _ _ _ (fun d s => ⟨by simp, fun h => by simp [h]⟩) s).trans (atStage_keeps _ _ _ (fun d s => ⟨by simp, fun h => by simp [h]⟩) _))

@[simp] theorem execSqrxEnable_keeps (queue value) (s : State) : KeepsNext s (execSqrxEnable queue value s) := by
  unfold execSqrxEnable
  refine keepsNext_next.mpr ⟨?_, fun h => ?_⟩
  · (repeat' split) <;> simp
  · (repeat' split) <;> simp [h]

@[simp] theorem execSqrxFlush_keeps (queue value) (s : State) : KeepsNext s (execSqrxFlush queue value s) := by
  unfold execSqrxFlush
  refine keepsNext_next.mpr ⟨?_, fun h => ?_⟩
  · (repeat' split) <;> simp
  · (repeat' split) <;> simp [h]

@[simp] theorem execGrantRepeat_keeps (queue) (s : State) : KeepsNext s (execGrantRepeat queue s) := by
  simp [execGrantRepeat]

@[simp] theorem execGrantReceive_keeps (p) (s : State) : KeepsNext s (execGrantReceive p s) := by
  simp [execGrantReceive]

@[simp] theorem execGrantAckReceive_keeps (p) (s : State) : KeepsNext s (execGrantAckReceive p s) := by
  simp [execGrantAckReceive]

@[simp] theorem execQstateReceive_keeps (p) (s : State) : KeepsNext s (execQstateReceive p s) := by
  simp [execQstateReceive]

@[simp] theorem execSqtxCfgWrite_keeps (chan value) (s : State) : KeepsNext s (execSqtxCfgWrite chan value s) := by
  unfold execSqtxCfgWrite
  refine keepsNext_next.mpr ⟨?_, fun h => ?_⟩
  · (repeat' split) <;> simp
  · (repeat' split) <;> simp [h]

@[simp] theorem execEntryStale_keeps (queue seq) (s : State) : KeepsNext s (execEntryStale queue seq s) := by
  unfold execEntryStale
  refine keepsNext_next.mpr ⟨?_, fun h => ?_⟩
  · dsimp only
    (repeat' split) <;> simp
  · dsimp only
    (repeat' split) <;> simp [h]

@[simp] theorem execPortEnable_keeps (port) (s : State) : KeepsNext s (execPortEnable port s) := by
  unfold execPortEnable
  refine keepsNext_next.mpr ⟨?_, fun h => ?_⟩
  · (repeat' split) <;> simp
  · (repeat' split) <;> simp [h]

@[simp] theorem execNoSignalTimeout_keeps (port) (s : State) : KeepsNext s (execNoSignalTimeout port s) := by
  simp [execNoSignalTimeout]

@[simp] theorem execSignalCheck_keeps (port signal) (s : State) : KeepsNext s (execSignalCheck port signal s) := by
  simp [execSignalCheck]

@[simp] theorem execTrainingAttemptFail_keeps (port cause) (s : State) : KeepsNext s (execTrainingAttemptFail port cause s) := by
  simp [execTrainingAttemptFail]

@[simp] theorem execHelloSend_keeps (port) (s : State) : KeepsNext s (execHelloSend port s) := by
  simp [execHelloSend]

@[simp] theorem execHelloReceive_keeps (port h) (s : State) : KeepsNext s (execHelloReceive port h s) := by
  simp [execHelloReceive]

@[simp] theorem execPeerHelloLapse_keeps (port) (s : State) : KeepsNext s (execPeerHelloLapse port s) := by
  simp [execPeerHelloLapse]

@[simp] theorem execZbRetrainWrite_keeps (port) (s : State) : KeepsNext s (execZbRetrainWrite port s) := by
  unfold execZbRetrainWrite
  refine keepsNext_next.mpr ⟨?_, fun h => ?_⟩
  · (repeat' split) <;> simp
  · (repeat' split) <;> simp [h]

@[simp] theorem execLaneSilence_keeps (port lane) (s : State) : KeepsNext s (execLaneSilence port lane s) := by
  simp [execLaneSilence]

@[simp] theorem execRetrainRelock_keeps (port) (s : State) : KeepsNext s (execRetrainRelock port s) := by
  unfold execRetrainRelock
  refine keepsNext_next.mpr ⟨?_, fun h => ?_⟩
  · dsimp only
    (repeat' split) <;> simp
  · dsimp only
    (repeat' split) <;> simp [h]

@[simp] theorem execRetrainFail_keeps (port) (s : State) : KeepsNext s (execRetrainFail port s) := by
  simp [execRetrainFail]

@[simp] theorem execFlitReceive_keeps (port f) (s : State) : KeepsNext s (execFlitReceive port f s) := by
  unfold execFlitReceive
  refine keepsNext_next.mpr ⟨?_, fun h => ?_⟩
  · dsimp only
    (repeat' split) <;> simp
  · dsimp only
    (repeat' split) <;> simp [h]

@[simp] theorem execAckSend_keeps (port) (s : State) : KeepsNext s (execAckSend port s) := by
  simp [execAckSend]

@[simp] theorem execAckReceive_keeps (port fseq replay) (s : State) : KeepsNext s (execAckReceive port fseq replay s) := by
  simp [execAckReceive]

@[simp] theorem execNakReceive_keeps (port fseq replay) (s : State) : KeepsNext s (execNakReceive port fseq replay s) := by
  simp [execNakReceive]

@[simp] theorem execReplayTimeout_keeps (port) (s : State) : KeepsNext s (execReplayTimeout port s) := by
  unfold execReplayTimeout
  (repeat' split) <;> simp

@[simp] theorem execNakRepeatTimeout_keeps (port) (s : State) : KeepsNext s (execNakRepeatTimeout port s) := by
  unfold execNakRepeatTimeout
  refine keepsNext_next.mpr ⟨?_, fun h => ?_⟩
  · dsimp only
    (repeat' split) <;> simp
  · dsimp only
    (repeat' split) <;> simp [h]

@[simp] theorem execCreditReceive_keeps (port vc total) (s : State) : KeepsNext s (execCreditReceive port vc total s) := by
  unfold execCreditReceive
  refine keepsNext_next.mpr ⟨?_, fun h => ?_⟩
  · dsimp only
    (repeat' split) <;> simp
  · dsimp only
    (repeat' split) <;> simp [h]

@[simp] theorem execPacketSend_keeps (port) (s : State) : KeepsNext s (execPacketSend port s) := by
  unfold execPacketSend
  refine keepsNext_next.mpr ⟨?_, fun h => ?_⟩
  · dsimp only
    (repeat' split) <;> simp
  · dsimp only
    (repeat' split) <;> simp [h]

@[simp] theorem execBlockFree_keeps (chan blocks) (s : State) : KeepsNext s (execBlockFree chan blocks s) := by
  simp [execBlockFree]

@[simp] theorem execPortFailover_keeps (port) (s : State) : KeepsNext s (execPortFailover port s) := by
  unfold execPortFailover
  refine keepsNext_next.mpr ⟨?_, fun h => ?_⟩
  · dsimp only
    (repeat' split) <;> simp
  · dsimp only
    (repeat' split) <;> simp [h]

@[simp] theorem execPortReturn_keeps (port) (s : State) : KeepsNext s (execPortReturn port s) := by
  unfold execPortReturn
  refine keepsNext_next.mpr ⟨?_, fun h => ?_⟩
  · dsimp only
    (repeat' split) <;> simp
  · dsimp only
    (repeat' split) <;> simp [h]

@[simp] theorem execAdmitReq_keeps (s : State) : KeepsNext s (execAdmitReq s) := by
  unfold execAdmitReq
  refine keepsNext_next.mpr ⟨?_, fun h => ?_⟩
  · simp
  · simp [h]

@[simp] theorem execAdmitCheckDone_keeps (s : State) : KeepsNext s (execAdmitCheckDone s) := by
  unfold execAdmitCheckDone
  refine keepsNext_next.mpr ⟨?_, fun h => ?_⟩
  · (repeat' split) <;> simp
  · (repeat' split) <;> simp [h]

@[simp] theorem execAdmitWithdraw_keeps (s : State) : KeepsNext s (execAdmitWithdraw s) := by
  unfold execAdmitWithdraw
  refine keepsNext_next.mpr ⟨?_, fun h => ?_⟩
  · simp
  · simp [h]

@[simp] theorem execBar2Read_keeps (offset len errors tag) (s : State) : KeepsNext s (execBar2Read offset len errors tag s) := by
  unfold execBar2Read
  refine keepsNext_next.mpr ⟨?_, fun h => ?_⟩
  · (repeat' split) <;> simp
  · (repeat' split) <;> simp [h]

@[simp] theorem execBar2Write_keeps (offset bytes) (s : State) : KeepsNext s (execBar2Write offset bytes s) := by
  unfold execBar2Write
  refine keepsNext_next.mpr ⟨?_, fun h => ?_⟩
  · (repeat' split) <;> simp
  · (repeat' split) <;> simp [h]

@[simp] theorem execScrub_keeps (addr ecc) (s : State) : KeepsNext s (execScrub addr ecc s) := by
  unfold execScrub
  refine keepsNext_next.mpr ⟨?_, fun h => ?_⟩
  · (repeat' split) <;> simp
  · (repeat' split) <;> simp [h]

@[simp] theorem execMemReadReturn_keeps (d core addr ecc) (s : State) : KeepsNext s (execMemReadReturn d core addr ecc s) := by
  unfold execMemReadReturn
  refine keepsNext_next.mpr ⟨?_, fun h => ?_⟩
  · dsimp only
    (repeat' split) <;> simp
  · dsimp only
    (repeat' split) <;> simp [h]

@[simp] theorem execAllReduce_keeps (d) (s : State) : KeepsNext s (execAllReduce d s) :=
  keepsNext_next.mpr (collRow_keeps _ _ (fun d s => ⟨by simp, fun h => by simp [h]⟩) s)

@[simp] theorem execReduceScatter_keeps (d) (s : State) : KeepsNext s (execReduceScatter d s) :=
  keepsNext_next.mpr (collRow_keeps _ _ (fun d s => ⟨by simp, fun h => by simp [h]⟩) s)

@[simp] theorem execAllGather_keeps (d) (s : State) : KeepsNext s (execAllGather d s) :=
  keepsNext_next.mpr (collRow_keeps _ _ (fun d s => ⟨by simp, fun h => by simp [h]⟩) s)

@[simp] theorem execBroadcast_keeps (d) (s : State) : KeepsNext s (execBroadcast d s) :=
  keepsNext_next.mpr (collRow_keeps _ _ (fun d s => ⟨by simp, fun h => by simp [h]⟩) s)

@[simp] theorem execAllToAll_keeps (d) (s : State) : KeepsNext s (execAllToAll d s) :=
  keepsNext_next.mpr (collRow_keeps _ _ (fun d s => ⟨by simp, fun h => by simp [h]⟩) s)

@[simp] theorem execPut_keeps (d) (s : State) : KeepsNext s (execPut d s) :=
  keepsNext_next.mpr (collRow_keeps _ _ (fun d s => ⟨by simp, fun h => by simp [h]⟩) s)

@[simp] theorem execGet_keeps (d) (s : State) : KeepsNext s (execGet d s) :=
  keepsNext_next.mpr (collRow_keeps _ _ (fun d s => ⟨by simp, fun h => by simp [h]⟩) s)

@[simp] theorem execZeroFillComplete_keeps (stack) (s : State) : KeepsNext s (execZeroFillComplete stack s) := by
  refine keepsNext_next.mpr (keeps_ite_of (.refl s) ?_)
  refine ⟨?_, fun h => serveUnwritten_formed _ (formed_foldl _ (fun s x hs => readBar2_formed _ _ _ _ _ hs) _ _ h)⟩
  simp

@[simp] theorem execGuardReport_keeps (d) (s : State) : KeepsNext s (execGuardReport d s) := by
  refine keepsNext_next.mpr (atStage_keeps _ _ _ (fun x s => ?_) s)
  split
  · simp
  · dsimp only
    split
    · exact ⟨by simp, fun h => by simp [h]⟩
    · exact ⟨by simp, fun h => by simp [h]⟩

@[simp] theorem execGuardVerdict_keeps (d) (s : State) : KeepsNext s (execGuardVerdict d s) := by
  refine keepsNext_next.mpr (atStage_keeps _ _ _ (fun x s => ?_) s)
  split
  · simp
  · refine keeps_ite_of (by simp) ⟨by simp, fun h => serviceExchange_formed _ (by simp [h])⟩

@[simp] theorem execVerdictForm_keeps (d) (s : State) : KeepsNext s (execVerdictForm d s) := by
  unfold execVerdictForm
  refine keepsNext_next.mpr ⟨?_, fun h => ?_⟩
  · (repeat' split) <;> simp
  · (repeat' split) <;> simp [h]

@[simp] theorem execGuardCfgWrite_keeps (value) (s : State) : KeepsNext s (execGuardCfgWrite value s) := by
  unfold execGuardCfgWrite
  refine keepsNext_next.mpr ⟨?_, fun h => ?_⟩
  · simp
  · simp [h]

@[simp] theorem execGuardDoneRoundWrite_keeps (value) (s : State) : KeepsNext s (execGuardDoneRoundWrite value s) := by
  unfold execGuardDoneRoundWrite
  refine keepsNext_next.mpr ⟨?_, fun h => ?_⟩
  · simp
  · simp [h]

@[simp] theorem execLedgerAudit_keeps (s : State) : KeepsNext s (execLedgerAudit s) := by
  simp [execLedgerAudit]

@[simp] theorem execLgSnapArm_keeps (value) (s : State) : KeepsNext s (execLgSnapArm value s) :=
  keepsNext_next.mpr (bar0Write_keeps _ _ (fun s => ⟨by simp, fun h => by simp [h]⟩) s)

@[simp] theorem execLgSnapDisarm_keeps (value) (s : State) : KeepsNext s (execLgSnapDisarm value s) :=
  keepsNext_next.mpr (bar0Write_keeps _ _ (fun s => ⟨by simp, fun h => by simp [h]⟩) s)

@[simp] theorem execLedgerSnapshot_keeps (s : State) : KeepsNext s (execLedgerSnapshot s) := by
  unfold execLedgerSnapshot
  refine keepsNext_next.mpr ⟨?_, fun h => ?_⟩
  · (repeat' split) <;> simp
  · (repeat' split) <;> simp [h]

@[simp] theorem execEmberOpen_keeps (d) (s : State) : KeepsNext s (execEmberOpen d s) :=
  keepsNext_next.mpr (emberRow_keeps _ _ (fun d s => ⟨by simp, fun h => by simp [h]⟩) s)

@[simp] theorem execEmberAbandon_keeps (d) (s : State) : KeepsNext s (execEmberAbandon d s) :=
  keepsNext_next.mpr (emberRow_keeps _ _ (fun d s => ⟨by simp, fun h => by simp [h]⟩) s)

@[simp] theorem execEmberLoad_keeps (d page bytes) (s : State) : KeepsNext s (execEmberLoad d page bytes s) := by
  refine keepsNext_next.mpr ?_
  have htake : ∀ d s, Keeps s (takeLoad page bytes d s) := fun d s => ⟨by simp, fun h => by simp [h]⟩
  split
  · exact .refl s
  · exact keeps_ite_of (emberRow_keeps _ _ htake s) (atStage_keeps _ _ _ htake s)

@[simp] theorem execEmberPageCopy_keeps (page) (s : State) : KeepsNext s (execEmberPageCopy page s) := by
  simp [execEmberPageCopy]

@[simp] theorem execEmberCopyDone_keeps (page) (s : State) : KeepsNext s (execEmberCopyDone page s) := by
  refine keepsNext_next.mpr ?_
  split
  · refine keeps_ite_of (.refl s) ⟨by simp, fun h => releaseHeld_formed _ _ ?_⟩
    rw [memPart, countGranules_outside (by simp), setEmber_outside (by simp), setEmberPage_outside (by simp)]
    exact notePageErrors_formed _ _ _ (formed_with_mem (memory_wf_copyPage _ _ _ _ h))
  · exact .refl s

@[simp] theorem execEmberStream_keeps (s : State) : KeepsNext s (execEmberStream s) := by
  unfold execEmberStream
  refine keepsNext_next.mpr ⟨?_, fun h => ?_⟩
  · (repeat' split) <;> simp
  · (repeat' split) <;> simp [h]

@[simp] theorem execPageAckReceive_keeps (epoch pages) (s : State) : KeepsNext s (execPageAckReceive epoch pages s) := by
  unfold execPageAckReceive
  refine keepsNext_next.mpr ⟨?_, fun h => ?_⟩
  · simp
  · simp [h]

@[simp] theorem execSealAckReceive_keeps (epoch) (s : State) : KeepsNext s (execSealAckReceive epoch s) := by
  unfold execSealAckReceive
  refine keepsNext_next.mpr ⟨?_, fun h => ?_⟩
  · simp
  · simp [h]

@[simp] theorem execEmberHostAckRead_keeps (page) (s : State) : KeepsNext s (execEmberHostAckRead page s) := by
  unfold execEmberHostAckRead
  refine keepsNext_next.mpr ⟨?_, fun h => ?_⟩
  · (repeat' split) <;> simp
  · (repeat' split) <;> simp [h]

@[simp] theorem execPairSend_keeps (s : State) : KeepsNext s (execPairSend s) := by
  simp [execPairSend]

@[simp] theorem execPairReceive_keeps (logPages entries variant) (s : State) : KeepsNext s (execPairReceive logPages entries variant s) := by
  simp [execPairReceive]

@[simp] theorem execHeartbeatSend_keeps (s : State) : KeepsNext s (execHeartbeatSend s) := by
  simp [execHeartbeatSend]

@[simp] theorem execHeartbeatReceive_keeps (_state) (s : State) : KeepsNext s (execHeartbeatReceive _state s) := by
  simp [execHeartbeatReceive]

@[simp] theorem execSealReceive_keeps (epoch) (s : State) : KeepsNext s (execSealReceive epoch s) := by
  simp [execSealReceive]

@[simp] theorem execForfeitReceive_keeps (s : State) : KeepsNext s (execForfeitReceive s) := by
  simp [execForfeitReceive]

@[simp] theorem execLogAckReceive_keeps (bytes) (s : State) : KeepsNext s (execLogAckReceive bytes s) := by
  unfold execLogAckReceive
  refine keepsNext_next.mpr ⟨?_, fun h => ?_⟩
  · simp
  · simp [h]

@[simp] theorem execPartnerLossTimeout_keeps (s : State) : KeepsNext s (execPartnerLossTimeout s) := by
  unfold execPartnerLossTimeout
  refine keepsNext_next.mpr ⟨?_, fun h => ?_⟩
  · (repeat' split) <;> simp
  · (repeat' split) <;> simp [h]

@[simp] theorem execFaultReceive_keeps (_cause) (s : State) : KeepsNext s (execFaultReceive _cause s) := by
  unfold execFaultReceive
  refine keepsNext_next.mpr ⟨?_, fun h => ?_⟩
  · simp
  · simp [h]

@[simp] theorem execDeposeSend_keeps (s : State) : KeepsNext s (execDeposeSend s) := by
  simp [execDeposeSend]

@[simp] theorem execDeposeReceive_keeps (s : State) : KeepsNext s (execDeposeReceive s) := by
  simp [execDeposeReceive]

@[simp] theorem execResyncReceive_keeps (p) (s : State) : KeepsNext s (execResyncReceive p s) := by
  simp [execResyncReceive]

@[simp] theorem execYokeCfgWrite_keeps (value) (s : State) : KeepsNext s (execYokeCfgWrite value s) :=
  keepsNext_next.mpr (bar0Write_keeps _ _ (fun s => ⟨by simp, fun h => by simp [h]⟩) s)

@[simp] theorem execPacketReceive_keeps (port p) (s : State) : KeepsNext s (execPacketReceive port p s) := by
  unfold execPacketReceive
  refine keepsNext_next.mpr ⟨?_, fun h => ?_⟩
  · (repeat' split) <;> simp
  · (repeat' split) <;> simp [h]

@[simp] theorem execChunkReceive_keeps (port p) (s : State) : KeepsNext s (execChunkReceive port p s) := by
  unfold execChunkReceive
  refine keepsNext_next.mpr ⟨?_, fun h => ?_⟩
  · simp
  · simp [h]

@[simp] theorem execMackReceive_keeps (port p) (s : State) : KeepsNext s (execMackReceive port p s) := by
  unfold execMackReceive
  refine keepsNext_next.mpr ⟨?_, fun h => ?_⟩
  · simp
  · simp [h]

@[simp] theorem execRwrReceive_keeps (port p) (s : State) : KeepsNext s (execRwrReceive port p s) := by
  unfold execRwrReceive
  refine keepsNext_next.mpr ⟨?_, fun h => ?_⟩
  · simp
  · simp [h]

@[simp] theorem execRrdReceive_keeps (port p) (s : State) : KeepsNext s (execRrdReceive port p s) := by
  unfold execRrdReceive
  refine keepsNext_next.mpr ⟨?_, fun h => ?_⟩
  · simp
  · simp [h]

@[simp] theorem execRrspReceive_keeps (port p) (s : State) : KeepsNext s (execRrspReceive port p s) := by
  unfold execRrspReceive
  refine keepsNext_next.mpr ⟨?_, fun h => ?_⟩
  · simp
  · simp [h]

@[simp] theorem execRefuseReceive_keeps (p) (s : State) : KeepsNext s (execRefuseReceive p s) := by
  simp [execRefuseReceive]

@[simp] theorem execEmberPacketReceive_keeps (p) (s : State) : KeepsNext s (execEmberPacketReceive p s) := by
  unfold execEmberPacketReceive
  refine keepsNext_next.mpr ⟨?_, fun h => ?_⟩
  · simp
  · simp [h]

@[simp] theorem execLogPacketReceive_keeps (p) (s : State) : KeepsNext s (execLogPacketReceive p s) := by
  unfold execLogPacketReceive
  refine keepsNext_next.mpr ⟨?_, fun h => ?_⟩
  · simp
  · simp [h]

@[simp] theorem execOpSet_keeps (d) (s : State) : KeepsNext s (execOpSet d s) := by
  simp [execOpSet]

@[simp] theorem execRailPreraise_keeps (d) (s : State) : KeepsNext s (execRailPreraise d s) := by
  unfold execRailPreraise
  (repeat' split) <;> simp

@[simp] theorem execClockWalkStep_keeps (die) (s : State) : KeepsNext s (execClockWalkStep die s) := by
  simp [execClockWalkStep]

@[simp] theorem execPowerSample_keeps (millivolts watts) (s : State) : KeepsNext s (execPowerSample millivolts watts s) := by
  simp [execPowerSample]

@[simp] theorem execCapCeilingRaise_keeps (s : State) : KeepsNext s (execCapCeilingRaise s) := by
  simp [execCapCeilingRaise]

@[simp] theorem execSteerTick_keeps (s : State) : KeepsNext s (execSteerTick s) := by
  simp [execSteerTick]

@[simp] theorem execDroop_keeps (die) (s : State) : KeepsNext s (execDroop die s) := by
  simp [execDroop]

@[simp] theorem execRailRecover_keeps (die) (s : State) : KeepsNext s (execRailRecover die s) := by
  simp [execRailRecover]

@[simp] theorem execTempSample_keeps (readings) (s : State) : KeepsNext s (execTempSample readings s) := by
  simp [execTempSample]

@[simp] theorem execThermalCeilingRaise_keeps (s : State) : KeepsNext s (execThermalCeilingRaise s) := by
  simp [execThermalCeilingRaise]

@[simp] theorem execInputLow_keeps (s : State) : KeepsNext s (execInputLow s) := by
  simp [execInputLow]

@[simp] theorem execInputHigh_keeps (s : State) : KeepsNext s (execInputHigh s) := by
  simp [execInputHigh]

@[simp] theorem execInputNormal_keeps (s : State) : KeepsNext s (execInputNormal s) := by
  simp [execInputNormal]

@[simp] theorem execPwrCfgWrite_keeps (value) (s : State) : KeepsNext s (execPwrCfgWrite value s) := by
  unfold execPwrCfgWrite
  refine keepsNext_next.mpr ⟨?_, fun h => ?_⟩
  · simp
  · simp [h]

@[simp] theorem execStreamCreditTimeout_keeps (d) (s : State) : KeepsNext s (execStreamCreditTimeout d s) := by
  unfold execStreamCreditTimeout
  (repeat' split) <;> simp

@[simp] theorem execWMmaAccumulate_keeps (d) (s : State) : KeepsNext s (execWMmaAccumulate d s) :=
  keepsNext_next.mpr (atStage_keeps _ _ _ (fun d s => ⟨by split <;> simp, fun h => by split <;> simp [h]⟩) s)

@[simp] theorem execWMmaFlush_keeps (d) (s : State) : KeepsNext s (execWMmaFlush d s) :=
  keepsNext_next.mpr (atStage_keeps _ _ _ (fun d s => ⟨by split <;> simp, fun h => by split <;> simp [h]⟩) s)

@[simp] theorem execChainTensor_keeps (d) (s : State) : KeepsNext s (execChainTensor d s) :=
  keepsNext_next.mpr (atStage_keeps _ _ _ (fun d s => ⟨by split <;> simp, fun h => by split <;> simp [h]⟩) s)

@[simp] theorem execChainDrain_keeps (d) (s : State) : KeepsNext s (execChainDrain d s) :=
  keepsNext_next.mpr (atStage_keeps _ _ _ (fun d s => ⟨by split <;> simp, fun h => by split <;> simp [h]⟩) s)

@[simp] theorem execMma_keeps (d) (s : State) : KeepsNext s (execMma d s) :=
  keepsNext_next.mpr (atStage_keeps _ _ _ (fun d s => ⟨by simp, fun h => by simp [h]⟩) s)

@[simp] theorem execConv_keeps (d) (s : State) : KeepsNext s (execConv d s) :=
  keepsNext_next.mpr (atStage_keeps _ _ _ (fun d s => ⟨by simp, fun h => by simp [h]⟩) s)

@[simp] theorem execBMma_keeps (d) (s : State) : KeepsNext s (execBMma d s) :=
  keepsNext_next.mpr (atStage_keeps _ _ _ (fun d s => ⟨by simp, fun h => by simp [h]⟩) s)

@[simp] theorem execChainStream_keeps (d) (s : State) : KeepsNext s (execChainStream d s) := by
  simp [execChainStream]

@[simp] theorem execStreamRow_keeps (k) (s : State) : KeepsNext s (execStreamRow k s) := by
  unfold execStreamRow
  refine keepsNext_next.mpr ⟨?_, fun h => ?_⟩
  · dsimp only
    (repeat' split) <;> simp
  · dsimp only
    (repeat' split) <;> simp [h]

@[simp] theorem execStreamEnd_keeps (k) (s : State) : KeepsNext s (execStreamEnd k s) := by
  unfold execStreamEnd
  refine keepsNext_next.mpr ⟨?_, fun h => ?_⟩
  · dsimp only
    (repeat' split) <;> simp
  · dsimp only
    (repeat' split) <;> simp [h]

@[simp] theorem execStreamFenced_keeps (k) (s : State) : KeepsNext s (execStreamFenced k s) := by
  unfold execStreamFenced
  refine keepsNext_next.mpr ⟨?_, fun h => ?_⟩
  · dsimp only
    (repeat' split) <;> simp
  · dsimp only
    (repeat' split) <;> simp [h]

@[simp] theorem execStreamCredit_keeps (k) (s : State) : KeepsNext s (execStreamCredit k s) := by
  unfold execStreamCredit
  refine keepsNext_next.mpr ⟨?_, fun h => ?_⟩
  · dsimp only
    (repeat' split) <;> simp
  · dsimp only
    (repeat' split) <;> simp [h]

@[simp] theorem execStreamWaitTimeout_keeps (d) (s : State) : KeepsNext s (execStreamWaitTimeout d s) := by
  unfold execStreamWaitTimeout
  (repeat' split) <;> simp

@[simp] theorem execDuestGroupReceive_keeps (link gseq replay crcOk) (s : State) : KeepsNext s (execDuestGroupReceive link gseq replay crcOk s) := by
  simp [execDuestGroupReceive]

@[simp] theorem execDuestNakReceive_keeps (link gseq) (s : State) : KeepsNext s (execDuestNakReceive link gseq s) := by
  simp [execDuestNakReceive]

@[simp] theorem execDuestReplayTimeout_keeps (link) (s : State) : KeepsNext s (execDuestReplayTimeout link s) := by
  simp [execDuestReplayTimeout]

@[simp] theorem execSidebandWord_keeps (die arrived hb clkOk valid) (s : State) : KeepsNext s (execSidebandWord die arrived hb clkOk valid s) := by
  simp [execSidebandWord]

@[simp] theorem execSidebandFault_keeps (link) (s : State) : KeepsNext s (execSidebandFault link s) := by
  simp [execSidebandFault]

@[simp] theorem execDieLost_keeps (dies noClock) (s : State) : KeepsNext s (execDieLost dies noClock s) := by
  simp [execDieLost]

@[simp] theorem execDieCtrlReset_keeps (value returns) (s : State) : KeepsNext s (execDieCtrlReset value returns s) :=
  keepsNext_next.mpr (bar0Write_keeps _ _ (fun s => ⟨by simp, fun h => by simp [h]⟩) s)

@[simp] theorem execSecSetupLockWrite_keeps (value) (s : State) : KeepsNext s (execSecSetupLockWrite value s) := by
  unfold execSecSetupLockWrite
  refine keepsNext_next.mpr ⟨?_, fun h => ?_⟩
  · simp
  · simp [h]

@[simp] theorem execMbPost_keeps (mb value) (s : State) : KeepsNext s (execMbPost mb value s) := by
  unfold execMbPost
  refine keepsNext_next.mpr ⟨?_, fun h => ?_⟩
  · (repeat' split) <;> simp
  · (repeat' split) <;> simp [h]

@[simp] theorem execMbAck_keeps (mb value) (s : State) : KeepsNext s (execMbAck mb value s) := by
  unfold execMbAck
  refine keepsNext_next.mpr ⟨?_, fun h => ?_⟩
  · (repeat' split) <;> simp
  · (repeat' split) <;> simp [h]

@[simp] theorem execMctpMailboxRequest_keeps (mb tag bytes) (s : State) : KeepsNext s (execMctpMailboxRequest mb tag bytes s) := by
  simp [execMctpMailboxRequest]

@[simp] theorem execKolnuTake_keeps (mb) (s : State) : KeepsNext s (execKolnuTake mb s) := by
  unfold execKolnuTake
  refine keepsNext_next.mpr ⟨?_, fun h => ?_⟩
  · dsimp only
    (repeat' split) <;> simp
  · dsimp only
    (repeat' split) <;> simp [h]

@[simp] theorem execInfo_keeps (mb) (s : State) : KeepsNext s (execInfo mb s) := by
  simp [execInfo]

@[simp] theorem execEcho_keeps (mb) (s : State) : KeepsNext s (execEcho mb s) := by
  simp [execEcho]

@[simp] theorem execMeasExtend_keeps (mb) (s : State) : KeepsNext s (execMeasExtend mb s) := by
  simp [execMeasExtend]

@[simp] theorem execMeasLog_keeps (mb) (s : State) : KeepsNext s (execMeasLog mb s) := by
  simp [execMeasLog]

@[simp] theorem execFwLoad_keeps (mb) (s : State) : KeepsNext s (execFwLoad mb s) := by
  have hbad {a n i : Nat} {s s1 : State} (hb : fwBad s a n = some (i, s1)) : Keeps s s1 := by
    unfold fwBad at hb
    split at hb
    · cases hb
    · obtain ⟨p, -, hp⟩ := Option.map_eq_some_iff.mp hb
      obtain rfl : _ = s1 := congrArg Prod.snd hp
      exact ⟨by simp, fun h => by simp [h]⟩
  refine keepsNext_next.mpr (serve_keeps _ _ (fun x s => ?_) s)
  dsimp only
  split
  · simp
  · refine keeps_ite_of (.refl s) ?_
    split
    · simp
    · split
      · next hb => exact (hbad hb).trans (by simp)
      · simp

@[simp] theorem execManagementRestartDone_keeps (s : State) : KeepsNext s (execManagementRestartDone s) := by
  refine keepsNext_next.mpr (keeps_ite_of (.refl s) ?_)
  refine Keeps.trans ?_ (keeps_foldl _ (fun s r => by simp) _ _)
  exact ⟨rfl, id⟩

@[simp] theorem execIodWdogWrite_keeps (value) (s : State) : KeepsNext s (execIodWdogWrite value s) := by
  unfold execIodWdogWrite
  refine keepsNext_next.mpr ⟨?_, fun h => ?_⟩
  · simp
  · simp [h]

@[simp] theorem execWatchdogRestart_keeps (s : State) : KeepsNext s (execWatchdogRestart s) := by
  simp [execWatchdogRestart]

@[simp] theorem execWatchdogExpiry_keeps (s : State) : KeepsNext s (execWatchdogExpiry s) := by
  simp [execWatchdogExpiry]

@[simp] theorem execGetVersion_keeps (t) (s : State) : KeepsNext s (execGetVersion t s) := by
  simp [execGetVersion]

@[simp] theorem execGetCapabilities_keeps (q) (s : State) : KeepsNext s (execGetCapabilities q s) := by
  simp [execGetCapabilities]

@[simp] theorem execNegotiateAlgorithms_keeps (t offers offersSha384) (s : State) : KeepsNext s (execNegotiateAlgorithms t offers offersSha384 s) := by
  simp [execNegotiateAlgorithms]

@[simp] theorem execGetDigests_keeps (t) (s : State) : KeepsNext s (execGetDigests t s) := by
  simp [execGetDigests]

@[simp] theorem execGetCertificate_keeps (t slot offset len) (s : State) : KeepsNext s (execGetCertificate t slot offset len s) := by
  simp [execGetCertificate]

@[simp] theorem execChallenge_keeps (t slot summary nonce) (s : State) : KeepsNext s (execChallenge t slot summary nonce s) := by
  simp [execChallenge]

@[simp] theorem execGetMeasurements_keeps (t operation signed nonce) (s : State) : KeepsNext s (execGetMeasurements t operation signed nonce s) := by
  unfold execGetMeasurements
  (repeat' split) <;> simp

@[simp] theorem execSpdmUnsupportedRequest_keeps (t _code) (s : State) : KeepsNext s (execSpdmUnsupportedRequest t _code s) := by
  simp [execSpdmUnsupportedRequest]

@[simp] theorem execDoeAbort_keeps (s : State) : KeepsNext s (execDoeAbort s) := by
  simp [execDoeAbort]

@[simp] theorem execDoeDiscovery_keeps (index) (s : State) : KeepsNext s (execDoeDiscovery index s) := by
  simp [execDoeDiscovery]

@[simp] theorem execSetEndpointId_keeps (eid) (s : State) : KeepsNext s (execSetEndpointId eid s) := by
  simp [execSetEndpointId]

@[simp] theorem execGetEndpointId_keeps (s : State) : KeepsNext s (execGetEndpointId s) := by
  simp [execGetEndpointId]

@[simp] theorem execGetMctpVersionSupport_keeps (s : State) : KeepsNext s (execGetMctpVersionSupport s) := by
  simp [execGetMctpVersionSupport]

@[simp] theorem execGetMessageTypeSupport_keeps (s : State) : KeepsNext s (execGetMessageTypeSupport s) := by
  simp [execGetMessageTypeSupport]

@[simp] theorem execI3cTargetReset_keeps (s : State) : KeepsNext s (execI3cTargetReset s) := by
  simp [execI3cTargetReset]

@[simp] theorem execSetdasa_keeps (a) (s : State) : KeepsNext s (execSetdasa a s) := by
  simp [execSetdasa]

@[simp] theorem execEntdaa_keeps (addr) (s : State) : KeepsNext s (execEntdaa addr s) := by
  simp [execEntdaa]

@[simp] theorem execBypass_keeps (s : State) : KeepsNext s (execBypass s) := by
  simp [execBypass]

@[simp] theorem execSamplePreload_keeps (shiftIn later) (s : State) : KeepsNext s (execSamplePreload shiftIn later s) := by
  simp [execSamplePreload]

@[simp] theorem execExtest_keeps (s : State) : KeepsNext s (execExtest s) := by
  simp [execExtest]

@[simp] theorem execIdcode_keeps (s : State) : KeepsNext s (execIdcode s) := by
  simp [execIdcode]

@[simp] theorem execTapReset_keeps (s : State) : KeepsNext s (execTapReset s) := by
  simp [execTapReset]

@[simp] theorem execIodGpioWrite_keeps (value) (s : State) : KeepsNext s (execIodGpioWrite value s) := by
  unfold execIodGpioWrite
  refine keepsNext_next.mpr ⟨?_, fun h => ?_⟩
  · simp
  · simp [h]

@[simp] theorem execBistLogic_keeps (d) (s : State) : KeepsNext s (execBistLogic d s) := by
  simp [execBistLogic]

@[simp] theorem execBistSram_keeps (d) (s : State) : KeepsNext s (execBistSram d s) := by
  simp [execBistSram]

@[simp] theorem execBistStack_keeps (d) (s : State) : KeepsNext s (execBistStack d s) := by
  simp [execBistStack]

@[simp] theorem execBistArray_keeps (d) (s : State) : KeepsNext s (execBistArray d s) := by
  simp [execBistArray]

@[simp] theorem execMbBist_keeps (mb) (s : State) : KeepsNext s (execMbBist mb s) := by
  refine keepsNext_next.mpr (serve_keeps _ _ (fun x s => ?_) s)
  dsimp only
  (repeat' split) <;> simp

@[simp] theorem execInputInRange_keeps (millivolts) (s : State) : KeepsNext s (execInputInRange millivolts s) := by
  simp [execInputInRange]

@[simp] theorem execInputLoss_keeps (millivolts) (s : State) : KeepsNext s (execInputLoss millivolts s) := by
  unfold execInputLoss
  refine keepsNext_next.mpr ⟨?_, fun h => ?_⟩
  · (repeat' split) <;> simp
  · (repeat' split) <;> simp [h]

@[simp] theorem execStandbyReady_keeps (s : State) : KeepsNext s (execStandbyReady s) := by
  simp [execStandbyReady]

@[simp] theorem execPerstNDeassert_keeps (straps ftRef) (s : State) : KeepsNext s (execPerstNDeassert straps ftRef s) := by
  simp [execPerstNDeassert]

@[simp] theorem execPcieLinkUp_keeps (rate width) (s : State) : KeepsNext s (execPcieLinkUp rate width s) := by
  simp [execPcieLinkUp]

@[simp] theorem execPerstNAssert_keeps (s : State) : KeepsNext s (execPerstNAssert s) := by
  unfold execPerstNAssert
  refine keepsNext_next.mpr ⟨?_, fun h => ?_⟩
  · (repeat' split) <;> simp
  · (repeat' split) <;> simp [h]

@[simp] theorem execCoolantStop_keeps (s : State) : KeepsNext s (execCoolantStop s) := by
  unfold execCoolantStop
  refine keepsNext_next.mpr ⟨?_, fun h => ?_⟩
  · simp
  · simp [h]

@[simp] theorem execThermalTrip_keeps (sensor) (s : State) : KeepsNext s (execThermalTrip sensor s) := by
  unfold execThermalTrip
  refine keepsNext_next.mpr ⟨?_, fun h => ?_⟩
  · (repeat' split) <;> simp
  · (repeat' split) <;> simp [h]

@[simp] theorem execCoolantOkNAssert_keeps (s : State) : KeepsNext s (execCoolantOkNAssert s) := by
  unfold execCoolantOkNAssert
  refine keepsNext_next.mpr ⟨?_, fun h => ?_⟩
  · (repeat' split) <;> simp
  · (repeat' split) <;> simp [h]

@[simp] theorem execEntryStepFail_keeps (step unit) (s : State) : KeepsNext s (execEntryStepFail step unit s) := by
  unfold execEntryStepFail
  refine keepsNext_next.mpr ⟨?_, fun h => ?_⟩
  · (repeat' split) <;> simp
  · (repeat' split) <;> simp [h]

@[simp] theorem execFullServiceTrainingDone_keeps (s : State) : KeepsNext s (execFullServiceTrainingDone s) := by
  unfold execFullServiceTrainingDone
  refine keepsNext_next.mpr ⟨?_, fun h => ?_⟩
  · (repeat' split) <;> simp
  · (repeat' split) <;> simp [h]

@[simp] theorem execEnterFull_keeps (s : State) : KeepsNext s (execEnterFull s) :=
  keepsNext_next.mpr (bar0Write_keeps _ _ (fun s => ⟨by simp, fun h => by simp [h]⟩) s)

@[simp] theorem execEnterKindling_keeps (cd0Returns) (s : State) : KeepsNext s (execEnterKindling cd0Returns s) := by
  unfold execEnterKindling
  refine keepsNext_next.mpr ⟨?_, fun h => ?_⟩
  · simp
  · simp [h]

@[simp] theorem execEnterBanked_keeps (s : State) : KeepsNext s (execEnterBanked s) := by
  unfold execEnterBanked
  refine keepsNext_next.mpr ⟨?_, fun h => ?_⟩
  · simp
  · simp [h]

@[simp] theorem execClearFence_keeps (s : State) : KeepsNext s (execClearFence s) := by
  unfold execClearFence
  refine keepsNext_next.mpr ⟨?_, fun h => ?_⟩
  · simp
  · simp [h]

@[simp] theorem execDieReturnDone_keeps (returned) (s : State) : KeepsNext s (execDieReturnDone returned s) := by
  unfold execDieReturnDone
  refine keepsNext_next.mpr ⟨?_, fun h => ?_⟩
  · (repeat' split) <;> simp
  · (repeat' split) <;> simp [h]

@[simp] theorem execRegisterWrite_keeps (offset size value) (s : State) : KeepsNext s (execRegisterWrite offset size value s) :=
  keepsNext_next.mpr (writeBar0_keeps ..)

@[simp] theorem execBar0UnsupportedAccess_keeps (_write offset size) (s : State) : KeepsNext s (execBar0UnsupportedAccess _write offset size s) := by
  simp [execBar0UnsupportedAccess]

@[simp] theorem execPoolResvWrite_keeps (value) (s : State) : KeepsNext s (execPoolResvWrite value s) := by
  unfold execPoolResvWrite
  refine keepsNext_next.mpr ⟨?_, fun h => ?_⟩
  · simp
  · simp [h]

@[simp] theorem execStatusPageWrite_keeps (s : State) : KeepsNext s (execStatusPageWrite s) := by
  simp [execStatusPageWrite]

@[simp] theorem execTakeoverRestoreDone_keeps (s : State) : KeepsNext s (execTakeoverRestoreDone s) :=
  keepsNext_next.mpr (restoreDone_keeps s)

@[simp] theorem execTakeoverLive_keeps (s : State) : KeepsNext s (execTakeoverLive s) :=
  keepsNext_next.mpr ((replayAdvance_keeps s).trans (keeps_ite_of (goLive_keeps _) (.refl _)))

@[simp] theorem execDescComplete_keeps (d) (s : State) : KeepsNext s (execDescComplete d s) := by
  unfold execDescComplete
  refine keepsNext_next.mpr ⟨?_, fun h => ?_⟩
  · (repeat' split) <;> simp
  · (repeat' split) <;> simp [h]

@[simp] theorem execDescResume_keeps (t) (s : State) : KeepsNext s (execDescResume t s) := by
  simp [execDescResume]

@[simp] theorem execWaitTimeout_keeps (d) (s : State) : KeepsNext s (execWaitTimeout d s) := by
  unfold execWaitTimeout
  (repeat' split) <;> simp

end Sys2Proof.Machine
end

section
/-! PROOFS. Every step keeps the form of memory, what the module is built as and the fuses it has used. -/

namespace Sys2Proof.Machine

theorem exec_keeps (s : State) : ∀ c : Instr, (∀ o fs, c ≠ .bistRunEnd o fs) → KeepsNext s (exec c s)
  | .inputInRange a, _ => execInputInRange_keeps a s
  | .standbyReady, _ => execStandbyReady_keeps s
  | .inputLoss a, _ => execInputLoss_keeps a s
  | .perstNDeassert a b, _ => execPerstNDeassert_keeps a b s
  | .pcieLinkUp a b, _ => execPcieLinkUp_keeps a b s
  | .zeroFillComplete a, _ => execZeroFillComplete_keeps a s
  | .perstNAssert, _ => execPerstNAssert_keeps s
  | .coolantStop, _ => execCoolantStop_keeps s
  | .thermalTrip a, _ => execThermalTrip_keeps a s
  | .coolantOkNAssert, _ => execCoolantOkNAssert_keeps s
  | .enterFull, _ => execEnterFull_keeps s
  | .fullServiceTrainingDone, _ => execFullServiceTrainingDone_keeps s
  | .entryStepFail a b, _ => execEntryStepFail_keeps a b s
  | .enterKindling a, _ => execEnterKindling_keeps a s
  | .enterBanked, _ => execEnterBanked_keeps s
  | .clearFence, _ => execClearFence_keeps s
  | .dieReturnDone a, _ => execDieReturnDone_keeps a s
  | .doorbellPoll a, _ => execDoorbellPoll_keeps a s
  | .descFetch a b, _ => execDescFetch_keeps a b s
  | .descDispatch, _ => execDescDispatch_keeps s
  | .sownRelease, _ => execSownRelease_keeps s
  | .descStart a, _ => execDescStart_keeps a s
  | .descResume a, _ => execDescResume_keeps a s
  | .waitTimeout a, _ => execWaitTimeout_keeps a s
  | .descComplete a, _ => execDescComplete_keeps a s
  | .completionRecordWaitEnd a, _ => execCompletionRecordWaitEnd_keeps a s
  | .msixModerationEnd a, _ => execMsixModerationEnd_keeps a s
  | .msixUnmask a, _ => execMsixUnmask_keeps a s
  | .statusPageWrite, _ => execStatusPageWrite_keeps s
  | .cringEnable a b, _ => execCringEnable_keeps a b s
  | .sringCfgWrite a b c, _ => execSringCfgWrite_keeps a b c s
  | .ctxBegin a, _ => execCtxBegin_keeps a s
  | .ctxEnd a, _ => execCtxEnd_keeps a s
  | .ctxAbort a, _ => execCtxAbort_keeps a s
  | .ctxEndFinish a, _ => execCtxEndFinish_keeps a s
  | .nop a, _ => execNop_keeps a s
  | .waitHost a, _ => execWaitHost_keeps a s
  | .waitHostPoll a b, _ => execWaitHostPoll_keeps a b s
  | .signalHost a, _ => execSignalHost_keeps a s
  | .mma a, _ => execMma_keeps a s
  | .conv a, _ => execConv_keeps a s
  | .bMma a, _ => execBMma_keeps a s
  | .wMmaAccumulate a, _ => execWMmaAccumulate_keeps a s
  | .wMmaFlush a, _ => execWMmaFlush_keeps a s
  | .streamCreditTimeout a, _ => execStreamCreditTimeout_keeps a s
  | .chainTensor a, _ => execChainTensor_keeps a s
  | .chainDrain a, _ => execChainDrain_keeps a s
  | .chainStream a, _ => execChainStream_keeps a s
  | .streamRow a, _ => execStreamRow_keeps a s
  | .streamEnd a, _ => execStreamEnd_keeps a s
  | .streamFenced a, _ => execStreamFenced_keeps a s
  | .streamCredit a, _ => execStreamCredit_keeps a s
  | .streamWaitTimeout a, _ => execStreamWaitTimeout_keeps a s
  | .memReadReturn a b c d, _ => execMemReadReturn_keeps a b c d s
  | .scrub a b, _ => execScrub_keeps a b s
  | .bar2Read a b c d, _ => execBar2Read_keeps a b c d s
  | .bar2Write a b, _ => execBar2Write_keeps a b s
  | .copy a, _ => execCopy_keeps a s
  | .relayout a, _ => execRelayout_keeps a s
  | .gather a, _ => execGather_keeps a s
  | .scatterStore a, _ => execScatterStore_keeps a s
  | .scatterAdd a, _ => execScatterAdd_keeps a s
  | .heOpFill a, _ => execHeOpFill_keeps a s
  | .heOpCopy a, _ => execHeOpCopy_keeps a s
  | .heOpCast a, _ => execHeOpCast_keeps a s
  | .heOpReduceAdd a, _ => execHeOpReduceAdd_keeps a s
  | .heOpScale a, _ => execHeOpScale_keeps a s
  | .heOpNorm a, _ => execHeOpNorm_keeps a s
  | .heOpNormAcc a, _ => execHeOpNormAcc_keeps a s
  | .optStep a, _ => execOptStep_keeps a s
  | .gateTimeout a, _ => execGateTimeout_keeps a s
  | .emberPageCopy a, _ => execEmberPageCopy_keeps a s
  | .emberCopyDone a, _ => execEmberCopyDone_keeps a s
  | .ftEpochPulse, _ => execFtEpochPulse_keeps s
  | .epochMissTimeout, _ => execEpochMissTimeout_keeps s
  | .ftRefLoss, _ => execFtRefLoss_keeps s
  | .ftRefReturn, _ => execFtRefReturn_keeps s
  | .ftCtrlArm a, _ => execFtCtrlArm_keeps a s
  | .ftCtrlDisarm a, _ => execFtCtrlDisarm_keeps a s
  | .ftLoadWrite a, _ => execFtLoadWrite_keeps a s
  | .ftNowRead a, _ => execFtNowRead_keeps a s
  | .timeReqSend a, _ => execTimeReqSend_keeps a s
  | .timeReqReceive a b c, _ => execTimeReqReceive_keeps a b c s
  | .timeRspReceive a b c d e, _ => execTimeRspReceive_keeps a b c d e s
  | .timeReplyTimeout a, _ => execTimeReplyTimeout_keeps a s
  | .ftPlanEnable a, _ => execFtPlanEnable_keeps a s
  | .frameBoundary, _ => execFrameBoundary_keeps s
  | .ftOutPulse, _ => execFtOutPulse_keeps s
  | .ftOutCfgWrite a, _ => execFtOutCfgWrite_keeps a s
  | .tallyAdd a b, _ => execTallyAdd_keeps a b s
  | .tallySet a b, _ => execTallySet_keeps a b s
  | .tallyWait a b, _ => execTallyWait_keeps a b s
  | .tallyWaitAdd a b, _ => execTallyWaitAdd_keeps a b s
  | .tallyRead a b, _ => execTallyRead_keeps a b s
  | .barrierArrive a b, _ => execBarrierArrive_keeps a b s
  | .barrierLatchRelease a, _ => execBarrierLatchRelease_keeps a s
  | .barrierWait a b, _ => execBarrierWait_keeps a b s
  | .barrierArriveWait a b, _ => execBarrierArriveWait_keeps a b s
  | .send a, _ => execSend_keeps a s
  | .recv a, _ => execRecv_keeps a s
  | .entryReceive a, _ => execEntryReceive_keeps a s
  | .sqrxEnable a b, _ => execSqrxEnable_keeps a b s
  | .grantRepeat a, _ => execGrantRepeat_keeps a s
  | .grantReceive a, _ => execGrantReceive_keeps a s
  | .grantAckReceive a, _ => execGrantAckReceive_keeps a s
  | .qstateReceive a, _ => execQstateReceive_keeps a s
  | .sqtxCfgWrite a b, _ => execSqtxCfgWrite_keeps a b s
  | .sqrxFlush a b, _ => execSqrxFlush_keeps a b s
  | .entryStale a b, _ => execEntryStale_keeps a b s
  | .refuseReceive a, _ => execRefuseReceive_keeps a s
  | .portEnable a, _ => execPortEnable_keeps a s
  | .noSignalTimeout a, _ => execNoSignalTimeout_keeps a s
  | .signalCheck a b, _ => execSignalCheck_keeps a b s
  | .trainingAttemptFail a b, _ => execTrainingAttemptFail_keeps a b s
  | .helloSend a, _ => execHelloSend_keeps a s
  | .helloReceive a b, _ => execHelloReceive_keeps a b s
  | .zbRetrainWrite a, _ => execZbRetrainWrite_keeps a s
  | .laneSilence a b, _ => execLaneSilence_keeps a b s
  | .retrainRelock a, _ => execRetrainRelock_keeps a s
  | .retrainFail a, _ => execRetrainFail_keeps a s
  | .flitReceive a b, _ => execFlitReceive_keeps a b s
  | .ackSend a, _ => execAckSend_keeps a s
  | .ackReceive a b c, _ => execAckReceive_keeps a b c s
  | .nakReceive a b c, _ => execNakReceive_keeps a b c s
  | .replayTimeout a, _ => execReplayTimeout_keeps a s
  | .nakRepeatTimeout a, _ => execNakRepeatTimeout_keeps a s
  | .creditReceive a b c, _ => execCreditReceive_keeps a b c s
  | .packetSend a, _ => execPacketSend_keeps a s
  | .packetReceive a b, _ => execPacketReceive_keeps a b s
  | .blockFree a b, _ => execBlockFree_keeps a b s
  | .portFailover a, _ => execPortFailover_keeps a s
  | .portReturn a, _ => execPortReturn_keeps a s
  | .admitReq, _ => execAdmitReq_keeps s
  | .admitCheckDone, _ => execAdmitCheckDone_keeps s
  | .admitWithdraw, _ => execAdmitWithdraw_keeps s
  | .allReduce a, _ => execAllReduce_keeps a s
  | .reduceScatter a, _ => execReduceScatter_keeps a s
  | .allGather a, _ => execAllGather_keeps a s
  | .broadcast a, _ => execBroadcast_keeps a s
  | .allToAll a, _ => execAllToAll_keeps a s
  | .put a, _ => execPut_keeps a s
  | .get a, _ => execGet_keeps a s
  | .chunkReceive a b, _ => execChunkReceive_keeps a b s
  | .mackReceive a b, _ => execMackReceive_keeps a b s
  | .rwrReceive a b, _ => execRwrReceive_keeps a b s
  | .rrdReceive a b, _ => execRrdReceive_keeps a b s
  | .rrspReceive a b, _ => execRrspReceive_keeps a b s
  | .guardReport a, _ => execGuardReport_keeps a s
  | .guardVerdict a, _ => execGuardVerdict_keeps a s
  | .verdictForm a, _ => execVerdictForm_keeps a s
  | .guardCfgWrite a, _ => execGuardCfgWrite_keeps a s
  | .guardDoneRoundWrite a, _ => execGuardDoneRoundWrite_keeps a s
  | .ledgerAudit, _ => execLedgerAudit_keeps s
  | .lgSnapArm a, _ => execLgSnapArm_keeps a s
  | .lgSnapDisarm a, _ => execLgSnapDisarm_keeps a s
  | .ledgerSnapshot, _ => execLedgerSnapshot_keeps s
  | .emberOpen a, _ => execEmberOpen_keeps a s
  | .emberAbandon a, _ => execEmberAbandon_keeps a s
  | .emberLoad a b c, _ => execEmberLoad_keeps a b c s
  | .emberStream, _ => execEmberStream_keeps s
  | .pageAckReceive a b, _ => execPageAckReceive_keeps a b s
  | .sealAckReceive a, _ => execSealAckReceive_keeps a s
  | .emberPacketReceive a, _ => execEmberPacketReceive_keeps a s
  | .logPacketReceive a, _ => execLogPacketReceive_keeps a s
  | .sealReceive a, _ => execSealReceive_keeps a s
  | .logAckReceive a, _ => execLogAckReceive_keeps a s
  | .forfeitReceive, _ => execForfeitReceive_keeps s
  | .pairSend, _ => execPairSend_keeps s
  | .pairReceive a b c, _ => execPairReceive_keeps a b c s
  | .heartbeatSend, _ => execHeartbeatSend_keeps s
  | .heartbeatReceive a, _ => execHeartbeatReceive_keeps a s
  | .partnerLossTimeout, _ => execPartnerLossTimeout_keeps s
  | .faultReceive a, _ => execFaultReceive_keeps a s
  | .takeoverRestoreDone, _ => execTakeoverRestoreDone_keeps s
  | .takeoverLive, _ => execTakeoverLive_keeps s
  | .deposeSend, _ => execDeposeSend_keeps s
  | .deposeReceive, _ => execDeposeReceive_keeps s
  | .resyncReceive a, _ => execResyncReceive_keeps a s
  | .duestGroupReceive a b c d, _ => execDuestGroupReceive_keeps a b c d s
  | .duestNakReceive a b, _ => execDuestNakReceive_keeps a b s
  | .duestReplayTimeout a, _ => execDuestReplayTimeout_keeps a s
  | .sidebandWord a b c d e, _ => execSidebandWord_keeps a b c d e s
  | .sidebandFault a, _ => execSidebandFault_keeps a s
  | .dieLost a b, _ => execDieLost_keeps a b s
  | .dieCtrlReset a b, _ => execDieCtrlReset_keeps a b s
  | .opSet a, _ => execOpSet_keeps a s
  | .railPreraise a, _ => execRailPreraise_keeps a s
  | .clockWalkStep a, _ => execClockWalkStep_keeps a s
  | .powerSample a b, _ => execPowerSample_keeps a b s
  | .capCeilingRaise, _ => execCapCeilingRaise_keeps s
  | .steerTick, _ => execSteerTick_keeps s
  | .droop a, _ => execDroop_keeps a s
  | .tempSample a, _ => execTempSample_keeps a s
  | .thermalCeilingRaise, _ => execThermalCeilingRaise_keeps s
  | .inputLow, _ => execInputLow_keeps s
  | .inputHigh, _ => execInputHigh_keeps s
  | .inputNormal, _ => execInputNormal_keeps s
  | .bistLogic a, _ => execBistLogic_keeps a s
  | .bistSram a, _ => execBistSram_keeps a s
  | .bistStack a, _ => execBistStack_keeps a s
  | .bistArray a, _ => execBistArray_keeps a s
  | .bistRunEnd _ _, h => absurd rfl (h _ _)
  | .mbPost a b, _ => execMbPost_keeps a b s
  | .mctpMailboxRequest a b c, _ => execMctpMailboxRequest_keeps a b c s
  | .mbAck a b, _ => execMbAck_keeps a b s
  | .kolnuTake a, _ => execKolnuTake_keeps a s
  | .info a, _ => execInfo_keeps a s
  | .echo a, _ => execEcho_keeps a s
  | .fwLoad a, _ => execFwLoad_keeps a s
  | .mbBist a, _ => execMbBist_keeps a s
  | .measExtend a, _ => execMeasExtend_keeps a s
  | .measLog a, _ => execMeasLog_keeps a s
  | .getVersion a, _ => execGetVersion_keeps a s
  | .getCapabilities a, _ => execGetCapabilities_keeps a s
  | .negotiateAlgorithms a b c, _ => execNegotiateAlgorithms_keeps a b c s
  | .getDigests a, _ => execGetDigests_keeps a s
  | .getCertificate a b c d, _ => execGetCertificate_keeps a b c d s
  | .challenge a b c d, _ => execChallenge_keeps a b c d s
  | .getMeasurements a b c d, _ => execGetMeasurements_keeps a b c d s
  | .spdmUnsupportedRequest a b, _ => execSpdmUnsupportedRequest_keeps a b s
  | .doeAbort, _ => execDoeAbort_keeps s
  | .setEndpointId a, _ => execSetEndpointId_keeps a s
  | .getEndpointId, _ => execGetEndpointId_keeps s
  | .getMctpVersionSupport, _ => execGetMctpVersionSupport_keeps s
  | .getMessageTypeSupport, _ => execGetMessageTypeSupport_keeps s
  | .i3cTargetReset, _ => execI3cTargetReset_keeps s
  | .setdasa a, _ => execSetdasa_keeps a s
  | .entdaa a, _ => execEntdaa_keeps a s
  | .secSetupLockWrite a, _ => execSecSetupLockWrite_keeps a s
  | .watchdogExpiry, _ => execWatchdogExpiry_keeps s
  | .bypass, _ => execBypass_keeps s
  | .samplePreload a b, _ => execSamplePreload_keeps a b s
  | .extest, _ => execExtest_keeps s
  | .idcode, _ => execIdcode_keeps s
  | .tapReset, _ => execTapReset_keeps s
  | .yokeCfgWrite a, _ => execYokeCfgWrite_keeps a s
  | .iodGpioWrite a, _ => execIodGpioWrite_keeps a s
  | .iodWdogWrite a, _ => execIodWdogWrite_keeps a s
  | .pwrCfgWrite a, _ => execPwrCfgWrite_keeps a s
  | .poolResvWrite a, _ => execPoolResvWrite_keeps a s
  | .bar0UnsupportedAccess a b c, _ => execBar0UnsupportedAccess_keeps a b c s
  | .registerWrite a b c, _ => execRegisterWrite_keeps a b c s
  | .watchdogRestart, _ => execWatchdogRestart_keeps s
  | .managementRestartDone, _ => execManagementRestartDone_keeps s
  | .emberHostAckRead a, _ => execEmberHostAckRead_keeps a s
  | .peerHelloLapse a, _ => execPeerHelloLapse_keeps a s
  | .railRecover a, _ => execRailRecover_keeps a s
  | .doeDiscovery a, _ => execDoeDiscovery_keeps a s

/-! ### What a module is built as -/

/-- One module is built as another, and has used as many field fuses or more. -/
def Hw.Grows (x y : Hw) : Prop :=
  (y.variant = x.variant ∧ y.iodGen = x.iodGen ∧ y.serial = x.serial ∧ y.stepIod = x.stepIod ∧ y.stepCd = x.stepCd ∧ y.board = x.board ∧
    y.coreMap = x.coreMap) ∧ ∀ n, x.fuseUsed.get 0 n ≤ y.fuseUsed.get 0 n

theorem Hw.Grows.refl (x : Hw) : x.Grows x := ⟨⟨rfl, rfl, rfl, rfl, rfl, rfl, rfl⟩, fun _ => le_rfl⟩

theorem Hw.Grows.trans {x y z : Hw} (h : x.Grows y) (h' : y.Grows z) : x.Grows z := by
  obtain ⟨⟨a1, a2, a3, a4, a5, a6, a7⟩, ha⟩ := h
  obtain ⟨⟨b1, b2, b3, b4, b5, b6, b7⟩, hb⟩ := h'
  exact ⟨⟨b1.trans a1, b2.trans a2, b3.trans a3, b4.trans a4, b5.trans a5, b6.trans a6, b7.trans a7⟩, fun n => (ha n).trans (hb n)⟩

theorem grows_of_withoutRows {x y : Hw} (h : y.withoutRows = x.withoutRows) : x.Grows y := by
  simp only [Hw.withoutRows, Hw.mk.injEq] at h
  obtain ⟨h1, h2, h3, h4, h5, h6, h7, -, h8, -⟩ := h
  exact ⟨⟨h1, h2, h3, h4, h5, h6, h7⟩, fun n => h8 ▸ le_rfl⟩

theorem Keeps.grows {s t : State} (h : Keeps s t) : s.hw.Grows t.hw := grows_of_withoutRows (congrArg State.hw h.build)

theorem clk_of_build {s t : State} (h : buildPart t = buildPart s) : t.clk = s.clk := by
  have hclk := congrArg State.clk h
  exact hclk

theorem pending_of_build {s t : State} (h : buildPart t = buildPart s) : t.pending = s.pending := by
  have hpend := congrArg State.pending h
  exact hpend

/-! ### The end of a self-test: R439, a repair uses one fuse more -/

theorem judgeFinding_grows (b all f) (s : State) : s.hw.Grows (judgeFinding b all f s).2.2.hw := by
  simp only [judgeFinding]
  (repeat' split)
  case h_2.isFalse.isFalse.isFalse.isFalse.isFalse =>
    refine ⟨⟨rfl, rfl, rfl, rfl, rfl, rfl, rfl⟩, fun n => ?_⟩
    rw [Tab.upd, Tab.get_put]
    split
    · next hn => exact hn ▸ Nat.le_succ _
    · exact le_rfl
  all_goals exact .refl _

theorem judgeFindings_grows (b xs) (s : State) : s.hw.Grows (judgeFindings b xs s).2.2.hw := by
  rw [judgeFindings]
  exact List.foldlRecOn (motive := fun acc : List (Finding × Nat) × Nat × State => s.hw.Grows acc.2.2.hw) _ _ (.refl _)
    fun acc hacc x _ => hacc.trans (judgeFinding_grows ..)

theorem bistEnd_build (sigObs findings) (s : State) : outside (allBut [.hw, .clk, .pending]) (bistEnd sigObs findings s) =
    outside (allBut [.hw, .clk, .pending]) (judgeFindings s.bist.body (runFindings s s.bist.body sigObs findings) s).2.2 := by
  simp only [bistEnd]
  rw [wakeCopies_outside (by simp)]
  split <;> simp

theorem execBistRunEnd_grows {sigObs findings} {s t : State} (h : execBistRunEnd sigObs findings s = .next t) :
    s.hw.Grows t.hw ∧ t.clk = s.clk ∧ t.pending = s.pending ∧ (Formed (memPart s) → Formed (memPart t)) := by
  cases h
  split
  · have hbuild := bistEnd_build sigObs findings s
    have hrest := judgeFindings_outside (fs := [.hw]) (by simp) s.bist.body (runFindings s s.bist.body sigObs findings) s
    have hclk := congrArg State.clk hrest
    have hpend := congrArg State.pending hrest
    exact ⟨(judgeFindings_grows ..).trans (grows_of_withoutRows (congrArg State.hw hbuild)), (clk_of_build hbuild).trans hclk,
      (pending_of_build hbuild).trans hpend, bistEnd_formed _ _ _⟩
  · exact ⟨.refl _, rfl, rfl, id⟩

/-- What a command keeps, whichever it is. -/
theorem exec_grows {c : Instr} {s t : State} (h : exec c s = .next t) :
    s.hw.Grows t.hw ∧ t.clk = s.clk ∧ t.pending = s.pending ∧ (Formed (memPart s) → Formed (memPart t)) := by
  by_cases hc : ∀ o fs, c ≠ .bistRunEnd o fs
  · have hkeep := exec_keeps s c hc t h
    exact ⟨hkeep.grows, clk_of_build hkeep.build, pending_of_build hkeep.build, hkeep.form⟩
  · push Not at hc
    obtain ⟨o, fs, rfl⟩ := hc
    exact execBistRunEnd_grows h

/-! ### The tick -/

theorem tickTime_grows (s : State) : s.hw.Grows (tickTime s).hw ∧ (tickTime s).clk = s.clk + 1 ∧ (tickTime s).pending = s.pending ∧
    (Formed (memPart s) → Formed (memPart (tickTime s))) := by
  unfold tickTime
  dsimp only
  split
  · exact ⟨.refl _, rfl, rfl, id⟩
  · exact ⟨.refl _, rfl, rfl, id⟩

theorem keeps_beforeTime (s : State) : Keeps s (tickPower (endLooks (endRequest s))) :=
  ⟨by simp, fun h => by simp [h]⟩

theorem keeps_afterTime (s : State) : Keeps s (serviceExchange (replayAdvance (tickEmber (tickColl (tickPorts (tickQueues s)))))) := by
  have hticks : Keeps s (tickEmber (tickColl (tickPorts (tickQueues s)))) := by simp
  exact (hticks.trans (replayAdvance_keeps _)).trans ⟨by simp, fun h => serviceExchange_formed _ h⟩

theorem tick_grows (s : State) : s.hw.Grows (tick s).hw ∧ (tick s).clk = s.clk + 1 ∧ (tick s).pending = s.pending ∧
    (Formed (memPart s) → Formed (memPart (tick s))) := by
  have hbefore := keeps_beforeTime s
  have hafter := keeps_afterTime (tickTime (tickPower (endLooks (endRequest s))))
  obtain ⟨hhw, hclk, hpend, hform⟩ := tickTime_grows (tickPower (endLooks (endRequest s)))
  rw [tick]
  exact ⟨(hbefore.grows.trans hhw).trans hafter.grows,
    (clk_of_build hafter.build).trans (hclk.trans (congrArg (· + 1) (clk_of_build hbefore.build))),
    (pending_of_build hafter.build).trans (hpend.trans (pending_of_build hbefore.build)),
    fun h => hafter.form (hform (hbefore.form h))⟩

/-- What a step keeps, and what it does to the queue and the clock (log 2). -/
theorem step_grows {s t : State} (h : step s = .next t) : s.hw.Grows t.hw ∧ t.pending = s.pending.tail ∧
    t.clk = (if s.pending = [] then s.clk + 1 else s.clk) ∧ (Formed (memPart s) → Formed (memPart t)) := by
  cases hq : s.pending with
  | nil =>
    obtain rfl : tick s = t := Host.Outcome.next.inj ((step_of_nil hq).symm.trans h)
    obtain ⟨hhw, hclk, hpend, hform⟩ := tick_grows s
    exact ⟨hhw, by rw [hpend, hq]; rfl, by rw [hclk, if_pos rfl], hform⟩
  | cons c cs =>
    obtain ⟨hhw, hclk, hpend, hform⟩ := exec_grows ((step_of_cons hq).symm.trans h)
    exact ⟨hhw, hpend, by rw [hclk, if_neg (List.cons_ne_nil _ _)], hform⟩

/-- Settles O3: each operation that writes memory keeps its form, and every other leaves memory as it stands. -/
theorem stepKeepsMemoryForm : Obligations.StepKeepsMemoryForm := by
  unfold Obligations.StepKeepsMemoryForm
  intro s t hs h
  obtain ⟨-, -, -, hform⟩ := step_grows h
  exact hform hs

/-- Settles O5: only the rows of a repair and the fuses it uses change in the build, and a fuse is counted, never uncounted. -/
theorem stepKeepsTheBuild : Obligations.StepKeepsTheBuild := by
  unfold Obligations.StepKeepsTheBuild
  intro s t h
  obtain ⟨⟨⟨h1, h2, h3, h4, h5, h6, h7⟩, hfuses⟩, hpend, hclk, -⟩ := step_grows h
  exact ⟨h1, h2, h3, h4, h5, h6, h7, hfuses, hpend, hclk⟩

end Sys2Proof.Machine
end

section
/-! PROOFS. Encodings and values of the number formats agree (R65, R67). -/

namespace Sys2Proof.Machine

variable {f : Fmt} {raw : Nat}

/-- The magnitude code and the sign of an encoding. -/
def Fmt.magOf (f : Fmt) (raw : Nat) : Nat := raw % 2 ^ (f.bits - 1)
def Fmt.signOf (f : Fmt) (raw : Nat) : Bool := bitOf raw (f.bits - 1)

/-- A code is its sign bit above its magnitude code. -/
theorem sign_add_mag (hbits : 0 < f.bits) (hraw : raw < 2 ^ f.bits) : bit (f.signOf raw) <<< (f.bits - 1) + f.magOf raw = raw := by
  obtain ⟨n, hn⟩ : ∃ n, f.bits = n + 1 := ⟨f.bits - 1, by omega⟩
  have hq : raw / 2 ^ n < 2 := by
    rw [Nat.div_lt_iff_lt_mul (Nat.two_pow_pos n), ← Nat.pow_succ', ← Nat.add_one, ← hn]
    exact hraw
  have hbit : bit (f.signOf raw) = raw / 2 ^ n := by
    simp only [Fmt.signOf, bitOf, bit, hn, Nat.add_sub_cancel, Nat.shiftRight_eq_div_pow]
    rcases Nat.lt_succ_iff_lt_or_eq.mp hq with h0 | h1
    · simp [Nat.lt_one_iff.mp h0]
    · simp [h1]
  rw [hbit, Fmt.magOf, hn, Nat.add_sub_cancel, Nat.shiftLeft_eq, Nat.mul_comm]
  exact Nat.div_add_mod ..

/-- A magnitude that needs no rounding: its leading bit stands at most `mbits` above its last. -/
theorem roundMag_exact {rnd : Rnd} {m : Nat} {e : Int} (hm : m ≠ 0) (hlog : Nat.log2 m ≤ f.mbits) (he : f.emin ≤ e)
    (htop : Nat.log2 m = f.mbits ∨ e = f.emin) : roundMag f rnd m e = (m, e) := by
  have hk : max (e + Nat.log2 m - f.mbits) f.emin = e := by omega
  simp [roundMag, hm, hk]

theorem roundMag_zero (rnd : Rnd) (e : Int) : roundMag f rnd 0 e = (0, f.emin) := by simp [roundMag]

/-- The code of a subnormal is its mantissa. -/
theorem code_roundMag_subnormal (rnd : Rnd) {m : Nat} (hm : m < 2 ^ f.mbits) :
    f.code (roundMag f rnd m f.emin).1 (roundMag f rnd m f.emin).2 = m := by
  rcases Nat.eq_zero_or_pos m with rfl | hpos
  · simp [roundMag_zero, Fmt.code]
  · have hlog : Nat.log2 m < f.mbits := (Nat.log2_lt hpos.ne').mpr hm
    simp [roundMag_exact hpos.ne' hlog.le le_rfl (.inr rfl), Fmt.code, hm]

/-- The code of a normal number is its exponent above its mantissa without the leading 1. -/
theorem code_roundMag_normal (rnd : Rnd) {m e : Nat} (hm : m < 2 ^ f.mbits) (he : e ≠ 0) :
    f.code (roundMag f rnd (2 ^ f.mbits + m) ((e : Int) - f.bias - f.mbits)).1
      (roundMag f rnd (2 ^ f.mbits + m) ((e : Int) - f.bias - f.mbits)).2 = e * 2 ^ f.mbits + m := by
  have hpos : 2 ^ f.mbits + m ≠ 0 := by have := Nat.two_pow_pos f.mbits; omega
  have hlog : Nat.log2 (2 ^ f.mbits + m) = f.mbits := (Nat.log2_eq_iff hpos).mpr ⟨by omega, by rw [Nat.pow_succ]; omega⟩
  have hmin : f.emin ≤ (e : Int) - f.bias - f.mbits := by simp only [Fmt.emin]; omega
  have hexp : ((e : Int) - f.bias - f.mbits + f.mbits + f.bias).toNat = e := by omega
  rw [roundMag_exact hpos hlog.le hmin (.inl hlog)]
  simp only [Fmt.code, hexp, Nat.shiftLeft_eq]
  rw [if_neg (by omega), if_pos (by rw [Nat.pow_succ]; omega), Nat.add_sub_cancel_left]

/-- What a code that is neither infinite nor NaN reads as, by its exponent. -/
theorem decodeF_fin (hinf : f.inf ≠ some (f.magOf raw)) (htop : f.magOf raw ≤ f.top) :
    decodeF f raw = if f.magOf raw / 2 ^ f.mbits = 0 then .fin (f.signOf raw) (f.magOf raw % 2 ^ f.mbits) f.emin
      else .fin (f.signOf raw) (2 ^ f.mbits + f.magOf raw % 2 ^ f.mbits) ((f.magOf raw / 2 ^ f.mbits : Nat) - f.bias - f.mbits) :=
  (if_neg hinf).trans (if_neg (Nat.not_lt.mpr htop))

/-- A code reads as an infinity, as NaN, or as a finite value, by its magnitude. -/
theorem decodeF_cases (f : Fmt) (raw : Nat) :
    (f.inf = some (f.magOf raw) ∧ decodeF f raw = .inf (f.signOf raw)) ∨ (f.top < f.magOf raw ∧ decodeF f raw = .nan) ∨
      (f.inf ≠ some (f.magOf raw) ∧ f.magOf raw ≤ f.top ∧ ∃ m e, decodeF f raw = .fin (f.signOf raw) m e) := by
  by_cases hinf : f.inf = some (f.magOf raw)
  · exact .inl ⟨hinf, if_pos hinf⟩
  · rcases Nat.lt_or_ge f.top (f.magOf raw) with htop | htop
    · exact .inr (.inl ⟨htop, (if_neg hinf).trans (if_pos htop)⟩)
    · refine .inr (.inr ⟨hinf, htop, ?_⟩)
      rw [decodeF_fin hinf htop]
      split
      · exact ⟨_, _, rfl⟩
      · exact ⟨_, _, rfl⟩

theorem encodeF_fin_of_code {rnd : Rnd} {ovf m c : Nat} {neg : Bool} {e : Int} (hcode : f.code (roundMag f rnd m e).1 (roundMag f rnd m e).2 = c)
    (htop : c ≤ f.top) : encodeF f rnd ovf (.fin neg m e) = bit neg <<< (f.bits - 1) + c := by
  simp only [encodeF, hcode, if_neg (Nat.not_lt.mpr htop)]

/-- A finite value that a code stands for is encoded as that code. -/
theorem encodeF_decodeF_fin (hbits : 0 < f.bits) (hraw : raw < 2 ^ f.bits) (rnd : Rnd) (ovf : Nat)
    (hinf : f.inf ≠ some (f.magOf raw)) (htop : f.magOf raw ≤ f.top) : encodeF f rnd ovf (decodeF f raw) = raw := by
  have hm : f.magOf raw % 2 ^ f.mbits < 2 ^ f.mbits := Nat.mod_lt _ (Nat.two_pow_pos _)
  have hmag := Nat.div_add_mod (f.magOf raw) (2 ^ f.mbits)
  rw [decodeF_fin hinf htop]
  split
  · next he =>
    have hcode := code_roundMag_subnormal (f := f) rnd hm
    rw [he, Nat.mul_zero, Nat.zero_add] at hmag
    exact (encodeF_fin_of_code (hcode.trans hmag) htop).trans (sign_add_mag hbits hraw)
  · next he =>
    have hcode := code_roundMag_normal (f := f) rnd hm he
    rw [Nat.mul_comm] at hmag
    exact (encodeF_fin_of_code (hcode.trans hmag) htop).trans (sign_add_mag hbits hraw)

/-- An infinity is encoded as its code where the conversion does not saturate. -/
theorem encodeF_decodeF_inf (hbits : 0 < f.bits) (hraw : raw < 2 ^ f.bits) (rnd : Rnd) {ovf : Nat}
    (hinf : f.inf = some (f.magOf raw)) (hsat : f.saturates ovf = false) : encodeF f rnd ovf (.inf (f.signOf raw)) = raw := by
  have hover : f.overflow (f.signOf raw) ovf = bit (f.signOf raw) <<< (f.bits - 1) + f.magOf raw := by
    simp [Fmt.overflow, hsat, hinf]
  exact hover.trans (sign_add_mag hbits hraw)

theorem bits_pos_of_mem (hf : f ∈ [fp32, bf16, fp16, e4m3, e5m2, e2m1]) : 0 < f.bits := by
  revert f
  decide

/-- R67: a format with a NaN has a canonical one; E2M1, which has none, reads no code as NaN. -/
theorem decodeF_nan_of_mem (hf : f ∈ [fp32, bf16, fp16, e4m3, e5m2, e2m1]) (htop : f.top < f.magOf raw) : decodeF f f.nan = .nan := by
  by_cases he : f = e2m1
  · subst he
    have hmag : e2m1.magOf raw < 8 := Nat.mod_lt _ (by decide)
    exact absurd htop (Nat.not_lt.mpr (Nat.le_of_lt_succ hmag))
  · clear htop
    revert f
    decide

/-- Settles O7: a code's magnitude is its exponent above its mantissa, which the encoding of its value puts together again. -/
theorem formatsEncodeWhatTheyDecode : Obligations.FormatsEncodeWhatTheyDecode := by
  unfold Obligations.FormatsEncodeWhatTheyDecode
  intro f hf raw rnd ovf hraw
  have hbits := bits_pos_of_mem hf
  rcases decodeF_cases f raw with ⟨hinf, hd⟩ | ⟨htop, hd⟩ | ⟨hinf, htop, m, e, hd⟩
  · rw [hd]
    exact ⟨nofun, fun _ _ hsat => encodeF_decodeF_inf hbits hraw rnd hinf hsat, nofun⟩
  · rw [hd]
    exact ⟨nofun, nofun, fun _ => ⟨rfl, decodeF_nan_of_mem hf htop⟩⟩
  · refine ⟨fun _ _ _ _ => encodeF_decodeF_fin hbits hraw rnd ovf hinf htop, ?_, ?_⟩
    · rw [hd]; exact nofun
    · rw [hd]; exact nofun

end Sys2Proof.Machine
end

section
/-! PROOFS. Ledger transfers (R357, R359, R361). -/

namespace Sys2Proof.Machine

/-! ### The columns of a ledger -/

@[simp] theorem noteHigh_sum (x : LgDom) : x.noteHigh.sum = x.sum := by rw [LgDom.noteHigh_columns]; rfl
@[simp] theorem noteHigh_total (x : LgDom) : x.noteHigh.total = x.total := by rw [LgDom.noteHigh_columns]
@[simp] theorem noteHigh_free (x : LgDom) : x.noteHigh.free = x.free := by rw [LgDom.noteHigh_columns]
@[simp] theorem noteHigh_held (x : LgDom) : x.noteHigh.held = x.held := by rw [LgDom.noteHigh_columns]

@[simp] theorem takeFrom_total (c : Column) (h n : Nat) (x : LgDom) : (x.takeFrom c h n).total = x.total := by cases c <;> rfl
@[simp] theorem giveTo_total (c : Column) (h n : Nat) (x : LgDom) : (x.giveTo c h n).total = x.total := by cases c <;> rfl

theorem giveTo_sum (c : Column) (h n : Nat) (x : LgDom) : (x.giveTo c h n).sum = x.sum + n := by
  cases c <;> simp only [LgDom.giveTo, LgDom.sum] <;> omega

/-- Tokens that a column holds leave its sum. -/
theorem takeFrom_sum {c : Column} {h n : Nat} {x : LgDom} (hhas : n ≤ x.has c h) (hheld : ∀ k, x.heldBy.get 0 k ≤ x.held)
    (hlent : ∀ k, x.lentBy.get 0 k ≤ x.lent) : (x.takeFrom c h n).sum + n = x.sum := by
  have hh := hheld h
  have hl := hlent h
  cases c <;> simp only [LgDom.takeFrom, LgDom.sum, LgDom.has] at hhas ⊢ <;> omega

/-- R357: a transfer that a ledger makes is covered, moves its tokens and notes the high-water mark. -/
theorem move_eq_ok {block : Bool} {h n : Nat} {src dst : Column} {x y : LgDom} (hto : x.movedTo.get 0 h = 0)
    (hmove : x.move block h n src dst = .ok y) : n ≤ x.has src h ∧ y = ((x.takeFrom src h n).giveTo dst h n).noteHigh := by
  simp only [LgDom.move, hto, bne_self_eq_false, Bool.false_eq_true, if_false] at hmove
  split at hmove
  · cases hmove
  · next hhas =>
    split at hmove
    · cases hmove
    · cases hmove
      exact ⟨Nat.not_lt.mp hhas, rfl⟩

/-- R359: a transfer that the holder's share does not cover is refused. -/
theorem move_uncovered (block : Bool) {h n : Nat} {src : Column} (dst : Column) {x : LgDom} (hto : x.movedTo.get 0 h = 0)
    (hhas : x.has src h < n) : x.move block h n src dst = .error (if block = true ∧ src = .lent ∧ dst = .held then 3 else 2) := by
  simp only [LgDom.move, hto, bne_self_eq_false, Bool.false_eq_true, if_false, if_pos hhas]
  cases block <;> cases src <;> cases dst <;> rfl

/-! ### A ledger fault -/

theorem setMode_ms (m : Mode) (cause : Nat) (s : State) :
    (setMode m cause s).ms = { s.ms with mode := m, prev := s.ms.mode, cause := cause, entered := s.clk, trans := .none } := by
  simp only [setMode]
  rw [ms_of_outside (raiseVector_outside (by simp) ..)]
  split
  · exact ms_of_outside (sendFault_outside (by simp) ..)
  · rfl

/-- R361: a job fault of a module in Full service fences it. -/
theorem jobFault_full {cause : Nat} {s : State} (h : s.ms.mode = .full) :
    (jobFault cause s).ms.mode = .fenced ∧ (jobFault cause s).ms.cause = cause := by
  simp only [jobFault, h]
  rw [ms_of_outside (fenceDescs_outside (by simp) ..), setMode_ms]
  exact ⟨rfl, rfl⟩

/-- R361: what a ledger fault writes to the ledgers' registers. -/
theorem ledgerFault_lg (d kind holder : Nat) (r : Option Ref) (s : State) :
    (ledgerFault d kind holder r s).lg =
      if s.lg.faultValid then { s.lg with faultCount := s.lg.faultCount + 1 }
      else { s.lg with faultCount := s.lg.faultCount + 1, faultDomain := d, faultKind := kind, faultHolder := holder, faultValid := true,
                       faultTick := s.ft.ft } := by
  simp only [ledgerFault]
  rw [lg_of_outside (jobFault_outside (by simp) ..)]
  cases r with
  | none => rfl
  | some r => exact lg_of_outside (setOutcome_outside (by simp) ..)

theorem ledgerFault_full {d kind holder : Nat} {r : Option Ref} {s : State} (h : s.ms.mode = .full) :
    (ledgerFault d kind holder r s).ms.mode = .fenced ∧ (ledgerFault d kind holder r s).ms.cause = 5 := by
  refine jobFault_full ?_
  cases r with
  | none => exact h
  | some r => exact (congrArg ModState.mode (ms_of_outside (setOutcome_outside (by simp) ..))).trans h

/-- R359: a refused transfer is a ledger fault. -/
theorem ledgerMove_error {d h n k : Nat} {src dst : Column} (r : Option Ref) {s : State} (hn : n ≠ 0) (hparity : (lgDom s d).parityBad = false)
    (hmove : (lgDom s d).move (d == 5) h n src dst = .error k) : ledgerMove d h n src dst r s = (false, ledgerFault d k h r s) := by
  have hblock : (d == dBlock) = (d == 5) := rfl
  simp only [ledgerMove, if_neg hn, parityCheck_good d s hparity, hblock, hmove]

/-- Settles O44: the columns of a transfer that is made, and the ledger fault of one that is refused. -/
theorem ledgerTransfersConserve : Obligations.LedgerTransfersConserve := by
  unfold Obligations.LedgerTransfersConserve
  refine ⟨?made, ?take, ?refused, ?fault⟩
  case made =>
    intro block h n src dst x y hto hmove hheld hlent
    obtain ⟨hhas, rfl⟩ := move_eq_ok hto hmove
    refine ⟨?_, by simp, hhas⟩
    rw [noteHigh_sum, giveTo_sum, takeFrom_sum hhas hheld hlent]
  case take =>
    intro h n x y hy
    simp only [LgDom.take] at hy
    split at hy
    · cases hy
    · next hfree =>
      obtain ⟨hfree, -⟩ : n ≤ x.free ∧ _ := by simpa using hfree
      cases hy
      simp only [noteHigh_sum, noteHigh_total, noteHigh_free, noteHigh_held]
      refine ⟨?_, trivial, by omega, trivial⟩
      simp only [LgDom.sum]
      omega
  case refused => exact fun block h n src dst x hto hhas => move_uncovered block dst hto hhas
  case fault =>
    intro d h n src dst r k s hn hparity hmove
    rw [ledgerMove_error r hn hparity hmove]
    refine ⟨rfl, fun hfull => ledgerFault_full hfull, fun e => ?_, ?_, fun hvalid => ?_⟩
    · simp only [lgDom, ledgerFault_lg]
      split <;> rfl
    · simp only [ledgerFault_lg]
      split <;> rfl
    · simp [ledgerFault_lg, hvalid]

end Sys2Proof.Machine
end

section
/-! PROOFS. What a fence does to a descriptor whose every copy has its report (R23, R407). -/

namespace Sys2Proof.Machine

/-- A NOP of the I/O die that runs, has depended on CD0, and whose one copy has its report without being done. -/
def reportedNop : Desc :=
  { ref := { ring := 0, index := 0 }, bytes := [0, 0, 0, 4], ctx := 0, prio := 0, dispatched := true, order := 0,
    copies := [{ target := .host, st := .running, stage := 0, since := 0, report := some Report.ok }], start := some 0, lateness := 0,
    outcome := none, detailAll := none, collided := false, deps := 1, waiting := none, replayed := false, pair := none }

/-- A module in Full service that holds it. -/
def reportedState : State := { State.reset with ms := { ModState.reset with mode := .full }, descs := [reportedNop] }

/-- R407: the fence of CD0 ends its copy with the report it has and gives the descriptor no outcome. -/
theorem fenceDies_reported :
    (findDesc (fenceDies [0] causeDieLoss (fun _ => (1, 15)) reportedState) reportedNop.ref).map (·.outcome) = some none := by
  decide +kernel

/-- Refutes O52: a descriptor that has not finished but whose every copy has its report ends with that report, not with FENCED. -/
theorem not_fenceEndsDependents : ¬ Obligations.FenceEndsDependents := by
  unfold Obligations.FenceEndsDependents
  intro h
  obtain ⟨-, hfenced, -⟩ := h 0 causeDieLoss (fun _ => (1, 15)) reportedNop reportedState (by decide) rfl rfl rfl rfl rfl
  obtain ⟨y, hy, hout⟩ := hfenced rfl (by decide +kernel) (by decide)
  have hnone := fenceDies_reported
  rw [hy, Option.map_some, hout] at hnone
  cases hnone

end Sys2Proof.Machine
end

section
/-! PROOFS. Entry to training and the pool of a port (R296, R307, R313). -/

namespace Sys2Proof.Machine

/-! ### What a ledger transfer leaves of the links -/

/-- The ports and the pool of the links. -/
def Links.core (l : Links) : Tab Port × Pool := (l.ports, l.pool)

theorem portOf_of_core {s t : State} (h : t.link.core = s.link.core) (p : Nat) : portOf t p = portOf s p := by
  have hports := congrArg Prod.fst h
  exact congrArg (Tab.get .reset · p) hports

theorem pool_of_core {s t : State} (h : t.link.core = s.link.core) : t.link.pool = s.link.pool := by
  have hpool := congrArg Prod.snd h
  exact hpool

theorem sendFault_core (cause : Nat) (s : State) : (sendFault cause s).link.core = s.link.core := rfl

theorem setMode_core (m cause) (s : State) : (setMode m cause s).link.core = s.link.core := by
  simp only [setMode]
  rw [link_of_outside (raiseVector_outside (by simp) ..)]
  split
  · exact sendFault_core ..
  · rfl

theorem fenceDescs_core (s : State) : (fenceDescs s).link.core = s.link.core :=
  congrArg Links.core (link_of_outside (fenceDescs_outside (by simp) s))

theorem raiseVector_core (v) (s : State) : (raiseVector v s).link.core = s.link.core :=
  congrArg Links.core (link_of_outside (raiseVector_outside (by simp) v s))

theorem jobFault_core (cause) (s : State) : (jobFault cause s).link.core = s.link.core := by
  unfold jobFault
  split
  · rw [fenceDescs_core, setMode_core]
  · split
    · rw [raiseVector_core, fenceDescs_core, setMode_core]
    · rw [fenceDescs_core, setMode_core]
  · exact congrArg Links.core (link_of_outside (joinFault_outside (by simp) ..))
  · rfl

theorem ledgerFault_core (d kind holder r) (s : State) : (ledgerFault d kind holder r s).link.core = s.link.core := by
  simp only [ledgerFault]
  rw [jobFault_core]
  cases r with
  | none => rfl
  | some r => exact congrArg Links.core (link_of_outside (setOutcome_outside (by simp) ..))

theorem parityCheck_core (d) (s : State) : (parityCheck d s).link.core = s.link.core := by
  unfold parityCheck
  dsimp only
  split
  · exact ledgerFault_core ..
  · rfl

theorem ledgerMove_core (d h n src dst r) (s : State) : (ledgerMove d h n src dst r s).2.link.core = s.link.core := by
  simp only [ledgerMove]
  split
  · rfl
  · split
    · exact parityCheck_core d s
    · exact (ledgerFault_core ..).trans (parityCheck_core d s)

/-! ### A port leaves its credits (R296) -/

theorem chanOf_eq_iff {p v v' : Nat} : chanOf p v = chanOf p v' ↔ v = v' := by simp only [chanOf]; omega

/-- One virtual channel of a port returns what it has advertised. -/
def leaveChannel (p : Nat) (s : State) (v : Nat) : State :=
  let c := chanOf p v
  let x := poolCh s c
  let toShared := x.held + x.adv - max x.held x.effReserve
  let s1 := (ledgerMove dBlock c x.adv .lent .free none (setPoolCh c { x with adv := 0 } s)).2
  setShared (s1.link.pool.shared + min x.adv toShared) s1

theorem poolLeave_eq (p : Nat) (s : State) : poolLeave p s = (List.range 8).foldl (leaveChannel p) s := rfl

theorem leaveChannel_chans (p v : Nat) (s : State) :
    (leaveChannel p s v).link.pool.chans = s.link.pool.chans.put .reset (chanOf p v) { poolCh s (chanOf p v) with adv := 0 } :=
  congrArg Pool.chans (pool_of_core (ledgerMove_core ..))

theorem leaveChannel_ports (p v : Nat) (s : State) : (leaveChannel p s v).link.ports = s.link.ports :=
  congrArg Prod.fst (ledgerMove_core ..)

theorem leaveChannel_poolCh (p v c : Nat) (s : State) :
    poolCh (leaveChannel p s v) c = if c = chanOf p v then { poolCh s (chanOf p v) with adv := 0 } else poolCh s c := by
  rw [poolCh, leaveChannel_chans, Tab.get_put]
  rfl

theorem foldl_leaveChannel (p : Nat) (vs : List Nat) (s : State) :
    (vs.foldl (leaveChannel p) s).link.ports = s.link.ports ∧
      ∀ c, poolCh (vs.foldl (leaveChannel p) s) c = if c ∈ vs.map (chanOf p) then { poolCh s c with adv := 0 } else poolCh s c := by
  induction vs generalizing s with
  | nil => exact ⟨rfl, fun c => rfl⟩
  | cons v vs ih =>
    obtain ⟨hports, hch⟩ := ih (leaveChannel p s v)
    refine ⟨hports.trans (leaveChannel_ports ..), fun c => ?_⟩
    rw [List.foldl_cons, hch c, leaveChannel_poolCh]
    by_cases hc : c = chanOf p v
    · subst hc
      simp
    · simp [hc]

theorem portOf_poolLeave (p q : Nat) (s : State) : portOf (poolLeave p s) q = portOf s q := by
  rw [poolLeave_eq, portOf, (foldl_leaveChannel p _ s).1, portOf]

/-- The credits that a port has advertised return; other channels stay. -/
theorem poolCh_poolLeave (p c : Nat) (s : State) :
    poolCh (poolLeave p s) c = if 8 * p ≤ c ∧ c < 8 * p + 8 then { poolCh s c with adv := 0 } else poolCh s c := by
  have hmem : c ∈ (List.range 8).map (chanOf p) ↔ 8 * p ≤ c ∧ c < 8 * p + 8 := by
    simp only [List.mem_map, List.mem_range, chanOf]
    exact ⟨fun ⟨v, hv, h⟩ => by omega, fun ⟨h1, h2⟩ => ⟨c - 8 * p, by omega, by omega⟩⟩
  rw [poolLeave_eq, (foldl_leaveChannel p _ s).2 c]
  simp only [hmem]

/-! ### Entry to training (R296) -/

/-- What training leaves of a port, but for the lanes that lock. -/
def trainedPort (x : Port) (s : State) : Port :=
  let y := emptyRetry (noteDown s x)
  { y with state := .training, start := s.clk, deskewed := false, stats := { y.stats with retrain := y.stats.retrain.add 1 } }

theorem enterTraining_link (p : Nat) (s : State) :
    (enterTraining p s).link = (lanesLocking p (poolLeave p (setPort p (trainedPort (portOf s p) s) s))).link := by
  rw [enterTraining, link_of_outside (noteDegraded_outside (by simp) _)]
  rfl

theorem portOf_lanesLocking (p : Nat) (s : State) : ∃ lock, portOf (lanesLocking p s) p = { portOf s p with laneLock := lock } :=
  ⟨BitVec.ofNat 8 (Config.freeAt (drawFree s).1 p), portOf_setPort_same ..⟩

theorem poolCh_lanesLocking (p c : Nat) (s : State) : poolCh (lanesLocking p s) c = poolCh s c := rfl

theorem portOf_enterTraining (p : Nat) (s : State) :
    ∃ lock, portOf (enterTraining p s) p = { trainedPort (portOf s p) s with laneLock := lock } := by
  obtain ⟨lock, hlock⟩ := portOf_lanesLocking p (poolLeave p (setPort p (trainedPort (portOf s p) s) s))
  rw [portOf_poolLeave, portOf_setPort_same] at hlock
  exact ⟨lock, by rw [portOf, enterTraining_link, ← portOf, hlock]⟩

theorem poolCh_enterTraining (p c : Nat) (s : State) :
    poolCh (enterTraining p s) c = if 8 * p ≤ c ∧ c < 8 * p + 8 then { poolCh s c with adv := 0 } else poolCh s c := by
  rw [poolCh, enterTraining_link, ← poolCh, poolCh_lanesLocking, poolCh_poolLeave]
  rfl

theorem trainedPort_tx (x : Port) (s : State) : (trainedPort x s).tx =
    { PortTx.reset with queue := (x.tx.unacked.filterMap fun u => match u.2 with | .packet q => some q | _ => none) ++ x.tx.queue } := by
  simp only [trainedPort, emptyRetry, noteDown]
  split <;> rfl

theorem noteDown_keeps (x : Port) (s : State) : (noteDown s x).peerValid = x.peerValid ∧ (noteDown s x).en = x.en ∧
    (noteDown s x).attempts = x.attempts ∧ (noteDown s x).cause = x.cause ∧ (noteDown s x).stats = x.stats := by
  unfold noteDown
  split <;> exact ⟨rfl, rfl, rfl, rfl, rfl⟩

theorem trainedPort_upAt {x : Port} {s : State} (h : x.state = .up) :
    (trainedPort x s).upAt = none ∧ (x.downAt = none → (trainedPort x s).downAt = some s.clk) := by
  simp only [trainedPort, emptyRetry, noteDown, h]
  exact ⟨rfl, fun hd => by simp [hd]⟩

theorem enterTraining_rest (p : Nat) (s : State) :
    (enterTraining p s).mem = s.mem ∧ (enterTraining p s).ft = s.ft ∧ (enterTraining p s).sync = s.sync ∧
      (enterTraining p s).coll = s.coll ∧ (enterTraining p s).ember = s.ember :=
  ⟨mem_of_outside (enterTraining_outside (by simp) p s), ft_of_outside (enterTraining_outside (by simp) p s),
    sync_of_outside (enterTraining_outside (by simp) p s), coll_of_outside (enterTraining_outside (by simp) p s),
    ember_of_outside (enterTraining_outside (by simp) p s)⟩

/-! ### An arrival takes of the pool (R307 rule 2) -/

theorem ledgerMove_ok {d h n : Nat} {src dst : Column} {y : LgDom} (r : Option Ref) {s : State} (hparity : (lgDom s d).parityBad = false)
    (hmove : (lgDom s d).move (d == dBlock) h n src dst = .ok y) : (ledgerMove d h n src dst r s).1 = true := by
  simp only [ledgerMove]
  split
  · rfl
  · rw [parityCheck_good d s hparity, hmove]

theorem giveCredits_pool (p v n : Nat) (s : State) : (giveCredits p v n s).link.pool = s.link.pool := by
  unfold giveCredits
  split
  · rfl
  · unfold sendWord
    dsimp only
    split <;> rfl

/-- A channel to which blocks have arrived. -/
def arrivedCh (x : PoolCh) (b : Nat) : PoolCh := { x with adv := x.adv - b, held := x.held + b }

/-- What the shared region lends to it again. -/
def lentTo (x : PoolCh) (b shared : Nat) : Nat := min b (min ((arrivedCh x b).effMax - (arrivedCh x b).held - (arrivedCh x b).adv) shared)

theorem poolArrive_pool {p v b : Nat} {s : State} (hok : (ledgerMove dBlock (chanOf p v) b .lent .held none s).1 = true) :
    (poolArrive p v b s).1 = true ∧ (poolArrive p v b s).2.link.pool =
      { s.link.pool with
        chans := s.link.pool.chans.put .reset (chanOf p v) { arrivedCh (poolCh s (chanOf p v)) b with
          adv := (poolCh s (chanOf p v)).adv - b + lentTo (poolCh s (chanOf p v)) b s.link.pool.shared },
        shared := s.link.pool.shared - lentTo (poolCh s (chanOf p v)) b s.link.pool.shared } := by
  have hpool := pool_of_core (ledgerMove_core dBlock (chanOf p v) b .lent .held none s)
  simp only [poolArrive, hok, Bool.not_true, Bool.false_eq_true, if_false, giveCredits_pool]
  rw [pool_of_core (ledgerMove_core ..)]
  simp only [setShared, setPoolCh, poolCh, hpool]
  exact ⟨trivial, rfl⟩

/-- Settles O30: training clears the port and its channels' credits, and an arrival's blocks are lent again as far as the pool allows. -/
theorem poolAndRetryBufferMove : Obligations.PoolAndRetryBufferMove := by
  unfold Obligations.PoolAndRetryBufferMove
  refine ⟨?training, ?arrival⟩
  case training =>
    intro p s _ x t
    obtain ⟨lock, hport⟩ := portOf_enterTraining p s
    obtain ⟨hvalid, hen, hatt, hcause, hstats⟩ := noteDown_keeps (portOf s p) s
    have htx := trainedPort_tx (portOf s p) s
    rw [show portOf t p = _ from hport]
    refine ⟨rfl, rfl, rfl, hvalid, hen, hatt, hcause, ?_, ?_, ?_, ?_, congrArg (fun x => x.retrain.add 1) hstats, ?_, ?_, trainedPort_upAt,
      enterTraining_rest p s⟩
    · exact congrArg PortTx.unacked htx
    · exact congrArg PortTx.words htx
    · exact congrArg PortTx.credits htx
    · exact congrArg PortTx.queue htx
    · intro v hv
      rw [show poolCh t (8 * p + v) = _ from poolCh_enterTraining .., if_pos (by omega)]
    · intro c hc
      rw [show poolCh t c = _ from poolCh_enterTraining .., if_neg (by omega)]
  case arrival =>
    intro p v b y s hparity hmove hb
    obtain ⟨hok, hpool⟩ := poolArrive_pool (ledgerMove_ok none hparity hmove)
    have hch (c : Nat) : poolCh (poolArrive p v b s).2 c = if c = chanOf p v then { arrivedCh (poolCh s (chanOf p v)) b with
        adv := (poolCh s (chanOf p v)).adv - b + lentTo (poolCh s (chanOf p v)) b s.link.pool.shared } else poolCh s c := by
      rw [poolCh, hpool, Tab.get_put]
      rfl
    have hlent : lentTo (poolCh s (8 * p + v)) b s.link.pool.shared ≤ s.link.pool.shared := (min_le_right ..).trans (min_le_right ..)
    refine ⟨hok, ?_, ?_, ?_, fun c hc => ?_⟩
    · rw [hch, if_pos (show 8 * p + v = chanOf p v from rfl)]
      rfl
    · rw [hch, if_pos (show 8 * p + v = chanOf p v from rfl)]
      simp only [chanOf, lentTo, arrivedCh]
      omega
    · rw [hch, if_pos (show 8 * p + v = chanOf p v from rfl), hpool]
      simp only [chanOf]
      omega
    · rw [hch, if_neg (show c ≠ chanOf p v from hc)]

end Sys2Proof.Machine
end

section
/-! PROOFS. What an update of one descriptor leaves to be found. -/

namespace Sys2Proof.Machine

theorem ref_of_findDesc {s : State} {r : Ref} {d : Desc} (h : findDesc s r = some d) : d.ref = r := by
  have hr := List.find?_some h
  exact of_decide_eq_true (by simpa using hr)

theorem findDesc_updDesc {f : Desc → Desc} (hf : ∀ d, (f d).ref = d.ref) (r r' : Ref) (s : State) :
    findDesc (updDesc r f s) r' = (findDesc s r').map fun d => if d.ref == r then f d else d := by
  have hp : ((fun d : Desc => d.ref == r') ∘ fun d => if d.ref == r then f d else d) = fun d : Desc => d.ref == r' := by
    funext d
    simp only [Function.comp]
    split
    · rw [hf]
    · rfl
  simp only [findDesc, updDesc, List.find?_map, hp]

theorem findDesc_updDesc_same {f : Desc → Desc} (hf : ∀ d, (f d).ref = d.ref) {r : Ref} {s : State} {d : Desc} (h : findDesc s r = some d) :
    findDesc (updDesc r f s) r = some (f d) := by
  rw [findDesc_updDesc hf, h, Option.map_some, ref_of_findDesc h, if_pos (beq_self_eq_true r)]

theorem findDesc_updDesc_other {f : Desc → Desc} (hf : ∀ d, (f d).ref = d.ref) {r r' : Ref} (hne : r' ≠ r) (s : State) :
    findDesc (updDesc r f s) r' = findDesc s r' := by
  rw [findDesc_updDesc hf]
  cases h : findDesc s r' with
  | none => rfl
  | some d =>
    rw [Option.map_some, ref_of_findDesc h, if_neg]
    simpa using hne

theorem findDesc_congr {s t : State} (h : s.descs = t.descs) (r : Ref) : findDesc s r = findDesc t r := by
  simp only [findDesc, h]

theorem updCopy_ref (t : Target) (f : Copy → Copy) (d : Desc) : (updCopy t f d).ref = d.ref := rfl

theorem copyAt_updCopy {f : Copy → Copy} (hf : ∀ c, (f c).target = c.target) (t : Target) (d : Desc) :
    copyAt (updCopy t f d) t = (copyAt d t).map f := by
  have hp : ((fun c : Copy => c.target == t) ∘ fun c => if c.target == t then f c else c) = fun c : Copy => c.target == t := by
    funext c
    simp only [Function.comp]
    split
    · rw [hf]
    · rfl
  simp only [copyAt, updCopy, List.find?_map, hp]
  cases h : d.copies.find? fun c => c.target == t with
  | none => rfl
  | some c =>
    have ht : (c.target == t) = true := List.find?_some (p := fun c : Copy => c.target == t) h
    rw [Option.map_some, Option.map_some, if_pos ht]

theorem copyDone_finishCopy {s : State} {r : Ref} {t : Target} {d : Desc} {c : Copy} {P : Report → Prop} {rep : Report}
    (hd : findDesc s r = some d) (hc : copyAt d t = some c) (hP : P rep) : CopyDone (finishCopy r t rep s) r t P :=
  ⟨_, { c with st := .done, report := some rep },
    findDesc_updDesc_same (f := updCopy t fun c => { c with st := .done, report := some rep }) (fun _ => rfl) hd,
    (copyAt_updCopy (f := fun c => { c with st := .done, report := some rep }) (fun _ => rfl) t d).trans (by rw [hc]; rfl), rfl, rep, rfl, hP⟩

end Sys2Proof.Machine
end

section
/-! PROOFS. What a collective, a PUT and a GET do at their start (R328 to R332). -/

namespace Sys2Proof.Machine

/-! ### Only the start of a collective takes one of its numbers -/

theorem inst_of_outside {s t : State} (h : outside (allBut [.coll]) s = outside (allBut [.coll]) t) : s.coll.inst = t.coll.inst := by
  rw [coll_of_outside h]

theorem inst_foldl {α : Type} (f : State → α → State) (hf : ∀ s a, (f s a).coll.inst = s.coll.inst) (l : List α) (s : State) :
    (l.foldl f s).coll.inst = s.coll.inst := by
  induction l generalizing s with
  | nil => rfl
  | cons a l ih => rw [List.foldl_cons, ih, hf]

@[simp] theorem setRun_inst (x) (s : State) : (setRun x s).coll.inst = s.coll.inst := rfl

@[simp] theorem holdEarly_inst (c) (s : State) : (holdEarly c s).coll.inst = s.coll.inst := rfl

@[simp] theorem drawFree_inst (s : State) : (drawFree s).2.coll.inst = s.coll.inst := rfl

@[simp] theorem setLast_inst (x) (s : State) : (setLast x s).coll.inst = s.coll.inst := inst_of_outside (setLast_outside (by simp) ..)

@[simp] theorem setDetailAll_inst (r n) (s : State) : (setDetailAll r n s).coll.inst = s.coll.inst := rfl

@[simp] theorem finishCopy_inst (r t rep) (s : State) : (finishCopy r t rep s).coll.inst = s.coll.inst := rfl

@[simp] theorem endWait_inst (r t rep) (s : State) : (endWait r t rep s).coll.inst = s.coll.inst := rfl

@[simp] theorem updDesc_inst (r f) (s : State) : (updDesc r f s).coll.inst = s.coll.inst := rfl

@[simp] theorem retain_inst (ps) (s : State) : (retain ps s).coll.inst = s.coll.inst := rfl

@[simp] theorem takeSeq_inst (k) (s : State) : (takeSeq k s).2.coll.inst = s.coll.inst := rfl

@[simp] theorem sendAll_inst (ps) (s : State) : (sendAll ps s).coll.inst = s.coll.inst := inst_of_outside (sendAll_outside (by simp) ..)

@[simp] theorem memUncorrectable_inst (r t a p src sym) (s : State) : (memUncorrectable r t a p src sym s).coll.inst = s.coll.inst :=
  inst_of_outside (memUncorrectable_outside (by simp) ..)

@[simp] theorem storeAs_inst (adds r t rq xs) (s : State) : (storeAs adds r t rq xs s).coll.inst = s.coll.inst :=
  inst_of_outside (storeAs_outside (by simp) ..)

@[simp] theorem storeBy_inst (r t rq xs) (s : State) : (storeBy r t rq xs s).coll.inst = s.coll.inst := storeAs_inst ..

@[simp] theorem storePiece_inst (adds r t xs) (s : State) : (storePiece adds r t xs s).coll.inst = s.coll.inst :=
  inst_of_outside (storePiece_outside (by simp) ..)

@[simp] theorem countHearth_inst (k n b l) (s : State) : (countHearth k n b l s).coll.inst = s.coll.inst :=
  inst_of_outside (countHearth_outside (by simp) ..)

@[simp] theorem logChunk_inst (c off) (s : State) : (logChunk c off s).coll.inst = s.coll.inst :=
  inst_of_outside (logChunk_outside (by simp) ..)

@[simp] theorem acceptChunk_inst (c) (s : State) : (acceptChunk c s).coll.inst = s.coll.inst :=
  inst_of_outside (acceptChunk_outside (by simp) ..)

@[simp] theorem countReplayed_inst (c last) (s : State) : (countReplayed c last s).coll.inst = s.coll.inst :=
  inst_of_outside (countReplayed_outside (by simp) ..)

@[simp] theorem undeliverable_inst (a b c d e f g) (s : State) : (undeliverable a b c d e f g s).coll.inst = s.coll.inst :=
  inst_of_outside (undeliverable_outside (by simp) ..)

@[simp] theorem stopRun_inst (x rep) (s : State) : (stopRun x rep s).coll.inst = s.coll.inst := by
  simp only [stopRun]
  split <;> rfl

@[simp] theorem endColl_inst (s : State) : (endColl s).coll.inst = s.coll.inst := by
  simp only [endColl]
  (repeat' split) <;> simp

@[simp] theorem mismatch_inst (s : State) : (mismatch s).coll.inst = s.coll.inst := by
  unfold mismatch
  split <;> rfl

@[simp] theorem misfit_inst (c) (s : State) : (misfit c s).coll.inst = s.coll.inst := by
  simp only [misfit, undeliverable_inst]
  split <;> rfl

@[simp] theorem noteWrites_inst (ws) (s : State) : (noteWrites ws s).coll.inst = s.coll.inst := by
  unfold noteWrites
  split <;> rfl

@[simp] theorem storeArrived_inst (d ws) (s : State) : (storeArrived d ws s).coll.inst = s.coll.inst := by simp [storeArrived]

@[simp] theorem storeOwn_inst (d reads ws) (s : State) : (storeOwn d reads ws s).coll.inst = s.coll.inst := by
  unfold storeOwn
  split <;> simp

@[simp] theorem reducePiece_inst (d a data ws) (s : State) : (reducePiece d a data ws s).coll.inst = s.coll.inst := by
  simp only [reducePiece]
  split <;> simp

@[simp] theorem sendChunk_inst (slot inst op vc dst block phase i n data) (s : State) :
    (sendChunk slot inst op vc dst block phase i n data s).coll.inst = s.coll.inst := by
  simp only [sendChunk]
  (repeat' split) <;> simp

@[simp] theorem sendPiece_inst (d x ps rank phase b i) (s : State) : (sendPiece d x ps rank phase b i s).coll.inst = s.coll.inst := by
  simp only [sendPiece]
  split <;> simp

@[simp] theorem sendRegion_inst (d x ps rank phase b) (s : State) : (sendRegion d x ps rank phase b s).coll.inst = s.coll.inst :=
  inst_foldl _ (fun _ _ => sendPiece_inst ..) _ s

@[simp] theorem takePiece_inst (d x ps me src bs b c) (s : State) : (takePiece d x ps me src bs b c s).coll.inst = s.coll.inst := by
  simp only [takePiece]
  split
  · split
    · simp
    · (repeat' split) <;> simp
  · rw [inst_foldl _ fun s a => by split <;> simp]
    (repeat' split) <;> simp

@[simp] theorem takeReport_inst (x src c) (s : State) : (takeReport x src c s).coll.inst = s.coll.inst := by simp [takeReport]

@[simp] theorem judgePiece_inst (x d c) (s : State) : (judgePiece x d c s).coll.inst = s.coll.inst := by
  simp only [judgePiece]
  (repeat' split) <;> simp

@[simp] theorem applyChunk_inst (c) (s : State) : (applyChunk c s).coll.inst = s.coll.inst := by
  unfold applyChunk
  (repeat' split) <;> simp

@[simp] theorem replayEarly_inst (slot inst) (s : State) : (replayEarly slot inst s).coll.inst = s.coll.inst :=
  inst_foldl _ (fun _ _ => applyChunk_inst ..) _ _

theorem startColl_inst (d) (s : State) : (startColl d s).coll.inst = (takeInst (collSlot d) s).2.coll.inst := by
  simp only [startColl, endColl_inst, replayEarly_inst]
  split
  · rw [inst_foldl _ fun s b => by (repeat' split) <;> simp, inst_foldl _ fun _ _ => sendRegion_inst .., setRun_inst]
  · rw [inst_foldl _ fun _ _ => sendRegion_inst .., setRun_inst]

/-! ### What sending leaves of the sequence numbers and of the packets kept -/

/-- What stream 0x300 and the streams of data below it see of the links: the next number of a key, and the packets kept. -/
def Links.sent (k : Nat) (l : Links) : Word × List Packet := (l.sendSeq.get 0 k, l.retained)

section

variable {k : Nat}

theorem sent_of_outside {s t : State} (h : outside (allBut [.link]) s = outside (allBut [.link]) t) : s.link.sent k = t.link.sent k := by
  rw [link_of_outside h]

theorem takeSeq_sent_of_ne {j} (h : k ≠ j) (s : State) : (takeSeq j s).2.link.sent k = s.link.sent k :=
  Prod.ext (Tab.get_put_other _ h) rfl

variable (hk : k % 2 ^ 16 ≠ 0x202)
include hk

theorem sendFault_sent (cause) (s : State) : (sendFault cause s).link.sent k = s.link.sent k := by
  have hne : k ≠ sendKey (strapPos s) (partnerSide s) 0x202 := by simp only [sendKey]; omega
  exact takeSeq_sent_of_ne hne s

theorem setMode_sent (m cause) (s : State) : (setMode m cause s).link.sent k = s.link.sent k := by
  simp only [setMode]
  rw [sent_of_outside (raiseVector_outside (by simp) ..)]
  split
  · exact sendFault_sent hk ..
  · rfl

theorem jobFault_sent (cause) (s : State) : (jobFault cause s).link.sent k = s.link.sent k := by
  unfold jobFault
  split
  · rw [sent_of_outside (fenceDescs_outside (by simp) _), setMode_sent hk]
  · split
    · rw [sent_of_outside (raiseVector_outside (by simp) ..), sent_of_outside (fenceDescs_outside (by simp) _), setMode_sent hk]
    · rw [sent_of_outside (fenceDescs_outside (by simp) _), setMode_sent hk]
  · exact sent_of_outside (joinFault_outside (by simp) ..)
  · rfl

theorem ledgerFault_sent (d kind holder r) (s : State) : (ledgerFault d kind holder r s).link.sent k = s.link.sent k := by
  simp only [ledgerFault]
  rw [jobFault_sent hk]
  cases r with
  | none => rfl
  | some r => exact sent_of_outside (setOutcome_outside (by simp) ..)

theorem parityCheck_sent (d) (s : State) : (parityCheck d s).link.sent k = s.link.sent k := by
  unfold parityCheck
  dsimp only
  split
  · exact ledgerFault_sent hk ..
  · rfl

theorem ledgerTake_sent (d h n) (s : State) : (ledgerTake d h n s).2.link.sent k = s.link.sent k := by
  simp only [ledgerTake]
  split <;> exact parityCheck_sent hk d s

theorem enterPort_sent (p q) (s : State) : (enterPort p q s).2.link.sent k = s.link.sent k := by
  simp only [enterPort]
  split <;> exact ledgerTake_sent hk ..

theorem enqueue_sent (q) (s : State) : (enqueue q s).link.sent k = s.link.sent k := by
  simp only [enqueue]
  split
  · rfl
  · split <;> exact enterPort_sent hk ..

theorem sendAll_sent (ps) (s : State) : (sendAll ps s).link.sent k = s.link.sent k := by
  induction ps generalizing s with
  | nil => rfl
  | cons p ps ih =>
    refine (ih _).trans ?_
    show (if maySend s p then enqueue p s else s).link.sent k = _
    split
    · exact enqueue_sent hk p s
    · rfl

end

theorem sendKey_mod (pos : Nat) : sendKey pos 0 0x300 % 2 ^ 16 ≠ 0x202 := by simp only [sendKey]; omega

/-! ### The message of a remote PUT or GET -/

theorem takeVc_sent (k pos vc) (s : State) : (takeVc pos vc s).2.link.sent k = s.link.sent k := by
  simp only [takeVc]
  split <;> rfl

theorem flatMap_pieces (n : Nat) (hn : 0 < n) (b : List Byte) : (pieces n b).flatMap id = b := by
  have hlen : b.length ≤ n * max 1 (ceilDiv b.length n) := by
    have h := Nat.div_add_mod (b.length + n - 1) n
    have hm := Nat.mod_lt (b.length + n - 1) hn
    calc b.length ≤ n * ceilDiv b.length n := by simp only [ceilDiv]; omega
      _ ≤ _ := Nat.mul_le_mul_left n (le_max_right ..)
  have htake (m : Nat) : ((List.range m).map fun i => (b.drop (n * i)).take n).flatMap id = b.take (n * m) := by
    induction m with
    | zero => simp
    | succ m ih =>
      rw [List.range_succ, List.map_append, List.flatMap_append, ih, Nat.mul_succ, List.take_add]
      simp
  rw [pieces, htake, List.take_of_length_le hlen]

theorem mkMessage_payload (s : State) (type vc pos side stream mseq arg0 arg1) (data : List Byte) :
    (mkMessage s type vc pos side stream mseq arg0 arg1 data).flatMap (·.payload) = data := by
  have hmap (l : List (List Byte)) (n : Nat) (f : List Byte × Nat → Packet) (hf : ∀ x, (f x).payload = x.1) :
      ((l.zipIdx n).map f).flatMap (·.payload) = l.flatMap id := by
    induction l generalizing n with
    | nil => rfl
    | cons b l ih => simp [hf, ih]
  rw [mkMessage, hmap _ _ _ fun _ => rfl, flatMap_pieces 4096 (by decide)]

theorem mem_mkMessage {s : State} {type vc pos side stream mseq arg0 arg1} {data : List Byte} {p : Packet}
    (h : p ∈ mkMessage s type vc pos side stream mseq arg0 arg1 data) :
    ∃ offset last b, p = mkPacket s type vc pos side stream mseq arg0 arg1 offset last b := by
  simp only [mkMessage, List.mem_map] at h
  obtain ⟨⟨b, i⟩, -, rfl⟩ := h
  exact ⟨_, _, _, rfl⟩

/-- The state in which the packets of a message to module `pos` are made: its number and the virtual channel are taken. -/
def askFrom (pos : Nat) (d : Desc) (s : State) : State := (takeVc pos (collVc d) (takeSeq (sendKey pos 0 0x300) s).2).2

/-- The number that the next message to module `pos` gets. -/
def askSeq (pos : Nat) (s : State) : Word := s.link.sendSeq.get 0 (sendKey pos 0 0x300)

/-- The module sends the packets `ps` to module `pos` and waits for its reply. -/
def sendAsk (pos : Nat) (d : Desc) (nf : Option (Nat × Nat)) (ps : List Packet) (s : State) : State :=
  ask pos (askSeq pos s) d nf (retain ps (sendAll ps (askFrom pos d s)))

theorem takeVc_takeSeq_fst (k pos vc : Nat) (s : State) : (takeVc pos vc (takeSeq k s).2).1 = (takeVc pos vc s).1 := by
  have h (l : Nat) (t u : State) (htu : t.link.vcs = u.link.vcs) : (takeVc pos l t).1 = (takeVc pos l u).1 := by
    simp only [takeVc, htu]
    split <;> rfl
  exact h vc _ _ rfl

section

variable (pos : Nat) (d : Desc) (nf : Option (Nat × Nat)) (ps : List Packet) (s : State)

theorem askFrom_coll : (askFrom pos d s).coll = s.coll :=
  (coll_of_outside (takeVc_outside (by simp) ..)).trans rfl

theorem askFrom_ft : (askFrom pos d s).ft = s.ft :=
  (ft_of_outside (takeVc_outside (by simp) ..)).trans rfl

theorem askFrom_mem : (askFrom pos d s).mem = s.mem :=
  (mem_of_outside (takeVc_outside (by simp) ..)).trans rfl

theorem askFrom_sent : (askFrom pos d s).link.sent (sendKey pos 0 0x300) = (askSeq pos s + 1, s.link.retained) :=
  (takeVc_sent ..).trans (Prod.ext (Tab.get_put_same _) rfl)

theorem ask_coll (q : Word) (t : State) (hc : t.coll = s.coll) (hf : t.ft = s.ft) : (ask pos q d nf t).coll =
    { s.coll with
        run := some { newRun d.ref false (collSlot d) 0 (collOp d) s.ft.ft with reply := true, nf := nf },
        asked := s.coll.asked ++ [{ pos := pos, seq := q, ref := d.ref, far := BitVec.ofNat 64 (collFar d), get := collOp d == 6 }] } := by
  simp only [ask, setRun, hc, hf]

theorem sendAsk_coll : (sendAsk pos d nf ps s).coll =
    { s.coll with
        run := some { newRun d.ref false (collSlot d) 0 (collOp d) s.ft.ft with reply := true, nf := nf },
        asked := s.coll.asked ++
          [{ pos := pos, seq := askSeq pos s, ref := d.ref, far := BitVec.ofNat 64 (collFar d), get := collOp d == 6 }] } :=
  ask_coll _ _ _ _ _ _
    ((coll_of_outside (sendAll_outside (by simp) ps (askFrom pos d s))).trans (askFrom_coll ..))
    ((ft_of_outside (sendAll_outside (by simp) ps (askFrom pos d s))).trans (askFrom_ft ..))

theorem sendAsk_mem : (sendAsk pos d nf ps s).mem = s.mem :=
  (mem_of_outside (sendAll_outside (by simp) ps (askFrom pos d s))).trans (askFrom_mem ..)

theorem sendAsk_sent : (sendAsk pos d nf ps s).link.sent (sendKey pos 0 0x300) = (askSeq pos s + 1, s.link.retained ++ ps) := by
  have h := (sendAll_sent (sendKey_mod pos) ps (askFrom pos d s)).trans (askFrom_sent pos d s)
  have h1 := congrArg Prod.fst h
  have h2 := congrArg (fun x => Prod.snd x ++ ps) h
  exact Prod.ext h1 h2

theorem sendAsk_sendSeq : (sendAsk pos d nf ps s).link.sendSeq.get 0 (sendKey pos 0 0x300) = askSeq pos s + 1 := by
  have h := congrArg Prod.fst (sendAsk_sent pos d nf ps s)
  exact h

theorem sendAsk_retained : (sendAsk pos d nf ps s).link.retained = s.link.retained ++ ps := by
  have h := congrArg Prod.snd (sendAsk_sent pos d nf ps s)
  exact h

end


/-- The bytes that a PUT sends. -/
def putData (d : Desc) (s : State) : List Byte := readBytes s .iod (collBuf d) (collCount d * collWidth d)

theorem badRead_of_nil {s : State} (h : s.mem.bad = []) (rq as) : badRead s rq as = none := by
  rw [badRead, h]
  rfl

theorem startPut_remote {d : Desc} {s : State} (hfar : collFar d / 2 ^ 44 ≠ strapPos s) (hbad : s.mem.bad = []) :
    startPut d s = sendAsk (collFar d / 2 ^ 44) d (lowestOf (runWrites d 0 0 (rawElems (collWidth d) (putData d s))))
      (mkMessage (askFrom (collFar d / 2 ^ 44) d s) 10 (takeVc (collFar d / 2 ^ 44) (collVc d) s).1 (collFar d / 2 ^ 44) 0 0x300
        (askSeq (collFar d / 2 ^ 44) s) 0 (collFar d) (canonicalRun d (putData d s))) s := by
  simp only [startPut, if_neg hfar, withBuf, badRead_of_nil hbad]
  rw [← takeVc_takeSeq_fst (sendKey (collFar d / 2 ^ 44) 0 0x300) _ _ s]
  rfl

theorem startGet_remote {d : Desc} {s : State} (hfar : collFar d / 2 ^ 44 ≠ strapPos s) :
    startGet d s = sendAsk (collFar d / 2 ^ 44) d none
      [mkPacket (askFrom (collFar d / 2 ^ 44) d s) 11 (takeVc (collFar d / 2 ^ 44) (collVc d) s).1 (collFar d / 2 ^ 44) 0 0x300
        (askSeq (collFar d / 2 ^ 44) s) (bufLen d - 1) (collFar d) 0 true []] s := by
  simp only [startGet, if_neg hfar]
  rw [← takeVc_takeSeq_fst (sendKey (collFar d / 2 ^ 44) 0 0x300) _ _ s]
  rfl

/-! ### A PUT or GET within the module -/

theorem startPut_local {d : Desc} {s : State} (hfar : collFar d / 2 ^ 44 = strapPos s) :
    startPut d s = copyRun d 5 (collBuf d) (collFar d % 2 ^ 44) s := by
  simp only [startPut, if_pos hfar]

theorem startGet_local {d : Desc} {s : State} (hfar : collFar d / 2 ^ 44 = strapPos s) :
    startGet d s = copyRun d 6 (collFar d % 2 ^ 44) (collBuf d) s := by
  simp only [startGet, if_pos hfar]

theorem mergeWrites_fst (s : State) (rq : Requester) (ws : List EWrite) : (mergeWrites s rq ws).map Prod.fst = storedAt ws := by
  have key (f : List (Nat × Byte) → Nat × Nat × Nat → Byte) (l : List (Nat × Nat × Nat)) (acc : List (Nat × Byte)) :
      ((l.foldl (fun acc w => (w.1, f acc w) :: acc) acc).reverse).map Prod.fst = (acc.reverse).map Prod.fst ++ l.map Prod.fst := by
    induction l generalizing acc with
    | nil => simp
    | cons w l ih => rw [List.foldl_cons, ih]; simp
  refine (key _ _ []).trans ?_
  simp [storedAt, List.map_flatMap]

theorem orderedWrites_fst (owner adds ws) (s : State) : ((orderedWrites owner adds ws s).1).map Prod.fst = ws.map Prod.fst := by
  unfold orderedWrites
  split
  · rfl
  · split
    · rfl
    · simp only [List.map_map]
      refine List.map_congr_left fun w _ => ?_
      simp only [Function.comp, eitherByte]
      split <;> rfl

theorem byteAt_commit_orderedWrites (owner adds ws) (s : State) (key : Nat) (h : ∀ w ∈ ws, w.1 ≠ key) :
    byteAt (commit (orderedWrites owner adds ws s).2.mem (orderedWrites owner adds ws s).1) key = byteAt s.mem key := by
  rw [byteAt_commit_of_unnamed, mem_of_outside (orderedWrites_outside (by simp) ..)]
  intro w hw hk
  have hfst := List.mem_map_of_mem (f := Prod.fst) hw
  rw [orderedWrites_fst, List.mem_map] at hfst
  obtain ⟨v, hv, heq⟩ := hfst
  exact h v hv (heq.trans hk)

theorem store_sameBut (owner adds rq) (xs : List (Nat × Byte)) (s : State) :
    SameBut (placesAt s rq (xs.map Prod.fst)) s (store owner adds rq xs s) := by
  intro key hkey
  refine (byteAt_commit_orderedWrites _ _ _ s key fun w hw hwk => hkey ?_)
  simp only [List.mem_filterMap] at hw
  obtain ⟨⟨h, k, b⟩, ⟨⟨a, b'⟩, hx, hacc⟩, hnow⟩ := hw
  obtain ⟨p, hp, heq⟩ := Option.map_eq_some_iff.mp hacc
  simp only [Prod.mk.injEq] at heq
  obtain ⟨-, rfl, rfl⟩ := heq
  have hk : p.key = key := by
    rw [Option.ite_none_right_eq_some] at hnow
    rw [← hwk, ← Option.some.inj hnow.2]
  exact List.mem_filterMap.mpr ⟨a, List.mem_map_of_mem (f := Prod.fst) hx, by simp only [hp, Option.map_some, hk]⟩

theorem storeBy_of_nil {s : State} (h : s.mem.bad = []) (r t rq xs) : storeBy r t rq xs s = store (some (r, t)) false rq xs s := by
  have hbad : partBadAt s rq xs = none := by
    rw [partBadAt, h]
    rfl
  simp only [storeBy, storeAs, hbad]

theorem noteWrites_of_run {s : State} {x : CollRun} (h : s.coll.run = some x) (ws) :
    noteWrites ws s = setRun (some { x with nf := lowerOf x.nf (lowestOf ws) }) s := by
  simp only [noteWrites, h]

theorem storeOwn_of_nil {s : State} (h : s.mem.bad = []) (d : Desc) (reads ws) {x : CollRun} (hx : s.coll.run = some x) :
    storeOwn d reads ws s = setRun (some { x with nf := lowerOf x.nf (lowestOf ws) })
      (store (some (d.ref, .collective)) false .iod (mergeWrites s .iod ws) s) := by
  have hrun : (store (some (d.ref, .collective)) false .iod (mergeWrites s .iod ws) s).coll.run = some x := by
    rw [coll_of_outside (store_outside (by simp) ..), hx]
  simp only [storeOwn, badRead_of_nil h, storeBy_of_nil h, noteWrites_of_run hrun]

/-- A run that waits for nothing, of which no piece was found bad. -/
def CollRun.Ended (x : CollRun) : Prop := x.want = [] ∧ x.sent = [] ∧ x.reply = false ∧ x.bad = none ∧ x.exchange = false ∧ x.collisions = 0

/-- The copy of a collective runs. -/
def CollRuns (s : State) (r : Ref) : Prop :=
  ∃ x c, findDesc s r = some x ∧ x.outcome = none ∧ copyAt x .collective = some c ∧ c.st = .running ∧ c.report = none

theorem liveRun_of_collRuns {s : State} {x : CollRun} (hx : s.coll.run = some x) (h : CollRuns s x.ref) : liveRun s = some x := by
  obtain ⟨y, c, hfind, hout, hcopy, hst, hrep⟩ := h
  have hany : (y.copies.any fun c => c.st != .done && c.st != .stopped && c.report.isNone) = true :=
    List.any_eq_true.mpr ⟨c, List.mem_of_find?_eq_some hcopy, by rw [hst, hrep]; rfl⟩
  rw [liveRun, hx, Option.filter_some, hfind, if_pos]
  show (y.outcome.isNone && _) = true
  rw [hout, hany]
  rfl

theorem endColl_of_ended {s : State} {x : CollRun} (hx : s.coll.run = some x) (h : CollRuns s x.ref) (hend : x.Ended) :
    endColl s = finishCopy x.ref .collective (ranReport x.waited x.nfWord) (setLast x (setRun none s)) := by
  obtain ⟨hwant, hsent, hreply, hbad, hex, hcol⟩ := hend
  simp [endColl, liveRun_of_collRuns hx h, hwant, hsent, hreply, hbad, hex, hcol]

theorem setLast_lastValid {x : CollRun} (h : x.collisions = 0) (s : State) : (setLast x s).lag.lastValid = true := by
  simp only [setLast, h]
  exact Bool.or_true _

/-- The state that a PUT or GET leaves that stores `ws` within the module. -/
theorem moved_sameBut {d : Desc} {op : Nat} {reads : List Nat} {ws : List EWrite} {s : State} (hbad : s.mem.bad = []) (hrun : CollRuns s d.ref) :
    let t := endColl (storeOwn d reads ws (setRun (some (newRun d.ref false (collSlot d) 0 op s.ft.ft)) s))
    t.coll.run = none ∧ t.lag.lastValid = true ∧ CopyDone t d.ref .collective isOk ∧ SameBut (placesAt s .iod (storedAt ws)) s t := by
  intro t
  let x := newRun d.ref false (collSlot d) 0 op s.ft.ft
  let s1 := setRun (some x) s
  let s2 := store (some (d.ref, .collective)) false .iod (mergeWrites s1 .iod ws) s1
  let y := { x with nf := lowerOf x.nf (lowestOf ws) }
  let s3 := setLast y (setRun none (setRun (some y) s2))
  have hdescs2 : s2.descs = s.descs := descs_of_outside (store_outside (by simp) _ _ _ _ s1)
  have hruns2 : CollRuns (setRun (some y) s2) y.ref := by
    obtain ⟨z, c, hfind, hrest⟩ := hrun
    exact ⟨z, c, (findDesc_congr hdescs2 d.ref).trans hfind, hrest⟩
  have ht : t = finishCopy d.ref .collective (ranReport y.waited y.nfWord) s3 := by
    have hstore := storeOwn_of_nil (s := s1) hbad d reads ws rfl
    have hend := endColl_of_ended (s := setRun (some y) s2) rfl hruns2 ⟨rfl, rfl, rfl, rfl, rfl, rfl⟩
    exact (congrArg endColl hstore).trans hend
  have hmem3 : s3.mem = s2.mem := mem_of_outside (setLast_outside (by simp) ..)
  have hrun3 : s3.coll.run = none := by
    have h : s3.coll = _ := coll_of_outside (setLast_outside (by simp) y (setRun none (setRun (some y) s2)))
    rw [h]
    rfl
  have hdescs3 : s3.descs = s.descs := (descs_of_outside (setLast_outside (by simp) ..)).trans hdescs2
  rw [ht]
  refine ⟨hrun3, setLast_lastValid (x := y) rfl _, ?_, ?_⟩
  · obtain ⟨z, c, hfind, -, hcopy, -, -⟩ := hrun
    exact copyDone_finishCopy ((findDesc_congr hdescs3 d.ref).trans hfind) hcopy rfl
  · have hstore := store_sameBut (some (d.ref, .collective)) false .iod (mergeWrites s1 .iod ws) s1
    rw [mergeWrites_fst] at hstore
    intro key hkey
    exact (congrArg (byteAt · key) hmem3).trans (hstore key hkey)

/-! ### Which members a collective sends to at its start -/

theorem mem_firstSends {d : Desc} {np me : Nat} {bs : List CBlock} {r : Nat} {ph : Bool} {b : CBlock} (hop : collOp d ≤ 3) :
    (r, ph, b) ∈ firstSends d np me bs ↔
      b ∈ bs ∧
        ((collDirect d = false ∧ collOp d ≤ 1 ∧ me = (b.owner + 1) % np ∧ r = (me + 1) % np ∧ ph = false) ∨
         (collDirect d = false ∧ 2 ≤ collOp d ∧ b.owner = me ∧ r = (me + 1) % np ∧ ph = true) ∨
         (collDirect d = true ∧ collOp d ≤ 1 ∧ b.owner ≠ me ∧ r = b.owner ∧ ph = false) ∨
         (collDirect d = true ∧ 2 ≤ collOp d ∧ b.owner = me ∧ r < np ∧ r ≠ me ∧ ph = true)) := by
  have hne : collOp d ≠ 4 := by omega
  simp only [firstSends, List.mem_flatMap, if_neg hne]
  rcases Nat.lt_or_ge (collOp d) 2 with hlt | hge
  · have hle : collOp d ≤ 1 := by omega
    have hnot : ¬ 2 ≤ collOp d := by omega
    cases hdir : collDirect d <;> simp [hle, hnot]
  · have hnot : ¬ collOp d ≤ 1 := by omega
    cases hdir : collDirect d <;> simp [hge, hnot]
    exact fun _ _ => and_assoc

/-! ### The obligation -/

theorem startPut_asks {d : Desc} {s : State} (hop : collOp d = 5) (hfar : collFar d / 2 ^ 44 ≠ strapPos s) (hbad : s.mem.bad = []) :
    let t := startPut d s
    let pos := collFar d / 2 ^ 44
    let q := s.link.sendSeq.get 0 (sendKey pos 0 0x300)
    let data := readBytes s .iod (collBuf d) (collCount d * collWidth d)
    t.coll.run = some { newRun d.ref false (collSlot d) 0 5 s.ft.ft with
                          reply := true, nf := lowestOf (runWrites d 0 0 (rawElems (collWidth d) data)) } ∧
      t.coll.inst = s.coll.inst ∧ t.mem = s.mem ∧
      t.coll.asked = s.coll.asked ++ [{ pos := pos, seq := q, ref := d.ref, far := BitVec.ofNat 64 (collFar d), get := false }] ∧
      t.link.sendSeq.get 0 (sendKey pos 0 0x300) = q + 1 ∧ ∃ ps, t.link.retained = s.link.retained ++ ps ∧
        ps.flatMap (·.payload) = canonicalRun d data ∧
        ∀ p ∈ ps, p.type = 10 ∧ p.vc = (takeVc pos (collVc d) s).1 ∧ p.stream = 0x300 ∧ p.mseq = q ∧ p.arg1 = BitVec.ofNat 64 (collFar d) := by
  intro t pos q data
  rw [show t = _ from startPut_remote hfar hbad]
  refine ⟨?_, ?_, sendAsk_mem .., ?_, sendAsk_sendSeq .., _, sendAsk_retained .., mkMessage_payload .., fun p hp => ?_⟩
  · rw [sendAsk_coll, hop]
    rfl
  · rw [sendAsk_coll]
  · rw [sendAsk_coll, hop]
    rfl
  · obtain ⟨offset, last, b, rfl⟩ := mem_mkMessage hp
    exact ⟨rfl, rfl, rfl, rfl, rfl⟩

theorem startGet_asks {d : Desc} {s : State} (hop : collOp d = 6) (hfar : collFar d / 2 ^ 44 ≠ strapPos s) :
    let t := startGet d s
    let pos := collFar d / 2 ^ 44
    let q := s.link.sendSeq.get 0 (sendKey pos 0 0x300)
    t.coll.run = some { newRun d.ref false (collSlot d) 0 6 s.ft.ft with reply := true } ∧ t.mem = s.mem ∧
      t.coll.asked = s.coll.asked ++ [{ pos := pos, seq := q, ref := d.ref, far := BitVec.ofNat 64 (collFar d), get := true }] ∧
      t.link.sendSeq.get 0 (sendKey pos 0 0x300) = q + 1 ∧
      ∃ p, t.link.retained = s.link.retained ++ [p] ∧ p.type = 11 ∧ p.vc = (takeVc pos (collVc d) s).1 ∧ p.stream = 0x300 ∧ p.mseq = q ∧ p.payload = [] ∧
        p.arg0 = BitVec.ofNat 32 (collCount d * collWidth d - 1) ∧ p.arg1 = BitVec.ofNat 64 (collFar d) := by
  intro t pos q
  rw [show t = _ from startGet_remote hfar]
  refine ⟨?_, sendAsk_mem .., ?_, sendAsk_sendSeq .., _, sendAsk_retained .., rfl, rfl, rfl, rfl, rfl, rfl, rfl⟩
  · rw [sendAsk_coll, hop]
    rfl
  · rw [sendAsk_coll, hop]
    rfl

theorem startColl_takes_instance (d : Desc) (s : State) :
    (startColl d s).coll.inst.get 0 (collSlot d) = s.coll.inst.get 0 (collSlot d) + 1 ∧
      (∀ k, k ≠ collSlot d → (startColl d s).coll.inst.get 0 k = s.coll.inst.get 0 k) ∧
      (startColl d s).ft = s.ft ∧ (startColl d s).pins = s.pins ∧ (startColl d s).trust = s.trust := by
  rw [startColl_inst]
  exact ⟨Tab.get_put_same _, fun k hk => Tab.get_put_other _ hk, ft_of_outside (startColl_outside (by simp) d s),
    pins_of_outside (startColl_outside (by simp) d s), trust_of_outside (startColl_outside (by simp) d s)⟩

/-- Settles O38: a COLLECTIVE takes its number first, and nothing that starts after it takes one; a PUT or GET to another module is one
message; one within the module stores and ends at once. -/
theorem collectivesBegin : Obligations.CollectivesBegin := by
  refine ⟨startColl_takes_instance, fun d np me bs r ph b hop _ => mem_firstSends hop, fun d s hop hfar hbad => startPut_asks hop hfar hbad,
    fun d s hop hfar => startGet_asks hop hfar, fun d s hfar hreach => ?_, fun d x s hfar hreach hbad hfind hout hcopy => ?_, fun d s hfar hreach => ?_⟩
  · rw [startPut_local hfar, startGet_local hfar]
    exact ⟨if_pos hreach, if_pos hreach⟩
  · obtain ⟨c, hc, hst, hrep⟩ := hcopy
    rw [startPut_local hfar, startGet_local hfar, copyRun, copyRun, if_pos (show farReach s (collFar d % 2 ^ 44) (bufLen d) = true from hreach),
      if_pos (show farReach s (collFar d % 2 ^ 44) (bufLen d) = true from hreach)]
    have hrun : CollRuns s d.ref := ⟨x, c, hfind, hout, hc, hst, hrep⟩
    exact ⟨moved_sameBut (op := 5) hbad hrun, moved_sameBut (op := 6) hbad hrun⟩
  · rw [startPut_local hfar, startGet_local hfar]
    have hnot : ¬ farReach s (collFar d % 2 ^ 44) (bufLen d) = true := by
      rw [show farReach s (collFar d % 2 ^ 44) (bufLen d) = false from hreach]
      exact Bool.false_ne_true
    exact ⟨if_neg hnot, if_neg hnot⟩

end Sys2Proof.Machine
end

section
/-! PROOFS. What PERST_N leaves in the registers. -/

namespace Sys2Proof.Machine

theorem slot_eq {base stride n i r : Nat} (hi : i < n) (hr : r < stride) : slot (base + stride * i + r) base stride n = some (i, r) := by
  have hle : stride * (i + 1) ≤ stride * n := Nat.mul_le_mul_left _ hi
  have hsub : base + stride * i + r - base = r + stride * i := by omega
  have hpos : 0 < stride := by omega
  rw [Nat.mul_succ] at hle
  rw [slot, if_pos (by omega), hsub, Nat.add_mul_div_left _ _ hpos, Nat.div_eq_of_lt hr, Nat.add_mul_mod_self_left, Nat.mod_eq_of_lt hr, Nat.zero_add]

theorem slot_eq_none {o base stride n : Nat} (h : o < base ∨ base + stride * n ≤ o) : slot o base stride n = none :=
  if_neg (by omega)

/-- The register at offset `o` reads `v`. -/
def Reads (t : State) (o v : Nat) : Prop := ∃ r, regAt t o = some r ∧ r.value = v

/-! ### Registers of an array -/

section

variable (t : State)

theorem regAt_he {o : Nat} (h : o < 0x10000) : regAt t (0x180000 + o) = heReg t o := by
  rw [regAt, if_neg (by omega), if_pos (by omega), show (0x180000 + o) / 0x10000 = 0x18 by omega, Nat.add_sub_cancel_left]
  rfl

theorem reads_share {e : Nat} (h : e < stackCount t) (hmax : stackCount t ≤ 12) :
    Reads t (0x180000 + 0x80 * e) (t.he.get .reset e).share.toNat := by
  have hslot : slot (0x80 * e) 0 0x80 (stackCount t) = some (e, 0) := by
    rw [show 0x80 * e = 0 + 0x80 * e + 0 by omega]
    exact slot_eq h (by decide)
  have hreg : heReg t (0x80 * e) = some (rw (t.he.get .reset e).share.toNat (writeShare e)) := by
    rw [heReg, hslot]
    rfl
  exact ⟨_, (regAt_he t (by omega)).trans hreg, rfl⟩

theorem regAt_sync {o : Nat} (h : 0x40000 ≤ o) (h' : o < 0x50000) : regAt t o = syncReg t o := by
  rw [regAt, if_pos (by omega), iodReg, show o / 0x10000 = 4 by omega]
  rfl

theorem reads_tally {i : Nat} (h : i < 4096) : Reads t (0x40000 + 4 * i) (tally t i).toNat := by
  have hslot : slot (0x40000 + 4 * i) 0x40000 4 4096 = some (i, 0) := slot_eq (r := 0) h (by decide)
  exact ⟨ro (tally t i).toNat, by rw [regAt_sync t (by omega) (by omega), syncReg, hslot]; rfl, rfl⟩

theorem syncReg_sqrx {q r : Nat} (h : q < 64) (hr : r < 0x40) : syncReg t (0x4A000 + 0x40 * q + r) = sqrxReg t q r := by
  rw [syncReg, slot_eq_none (by omega), slot_eq_none (by omega), slot_eq_none (by omega), slot_eq h hr]

theorem regAt_pool {o : Nat} (h : o < 0x10000) : regAt t (0x130000 + o) = poolReg t o := by
  rw [regAt, if_neg (by omega), if_pos (by omega), show (0x130000 + o) / 0x10000 = 0x13 by omega, Nat.add_sub_cancel_left]
  rfl

theorem regAt_zb {o : Nat} (h : o < 0x10000) : regAt t (0x120000 + o) = zbReg t o := by
  rw [regAt, if_neg (by omega), if_pos (by omega), show (0x120000 + o) / 0x10000 = 0x12 by omega, Nat.add_sub_cancel_left]
  rfl

theorem reads_geom {q : Nat} (h : q < 64) : Reads t (0x4A004 + 0x40 * q) ((sqRx t q).depth.toNat + at' (sqRx t q).units.toNat 16) := by
  have hoff : 0x4A004 + 0x40 * q = 0x4A000 + 0x40 * q + 4 := by omega
  exact ⟨rw ((sqRx t q).depth.toNat + at' (sqRx t q).units.toNat 16) (writeSqrxGeom q),
    by rw [hoff, regAt_sync t (by omega) (by omega), syncReg_sqrx t h (by decide)]; rfl, rfl⟩

theorem reads_poolCh {c : Nat} (h : c < 128) :
    Reads t (0x130000 + 8 * c) ((poolCh t c).reserve.toNat + at' (poolCh t c).max.toNat 20) := by
  have hslot : slot (8 * c) 0 8 128 = some (c, 0) := by
    rw [show 8 * c = 0 + 8 * c + 0 by omega]
    exact slot_eq h (by decide)
  have hreg : poolReg t (8 * c) = some (rw64 ((poolCh t c).reserve.toNat + at' (poolCh t c).max.toNat 20) (writePoolCh c)) := by
    unfold poolReg
    split
    · omega
    · omega
    · omega
    · rw [hslot]
      rfl
  exact ⟨_, (regAt_pool t (by omega)).trans hreg, rfl⟩

theorem reads_port {p : Nat} (h : p < 16) : Reads t (0x120000 + 0x200 * p) (bit (portOf t p).en) := by
  have hslot : slot (0x200 * p) 0 0x200 16 = some (p, 0) := by
    rw [show 0x200 * p = 0 + 0x200 * p + 0 by omega]
    exact slot_eq h (by decide)
  have hreg : zbReg t (0x200 * p) = some (rw (bit (portOf t p).en) (writePortCfg p)) := by
    unfold zbReg
    split
    case h_10 => 
      rw [hslot]
      rfl
    all_goals omega
  exact ⟨_, (regAt_zb t (by omega)).trans hreg, rfl⟩

end

/-! ### Registers of one place -/

section

variable (t : State)

theorem reads_poll : Reads t 0x10010 t.host.maxNs.toNat := ⟨_, rfl, rfl⟩
theorem reads_statusCfg : Reads t 0x10014 (bit t.host.statusEn + at' t.host.minUs.toNat 1) := ⟨_, rfl, rfl⟩
theorem reads_wdog : Reads t 0x30 (bit t.wdog.en + at' t.wdog.timeoutMs.toNat 8) := ⟨_, rfl, rfl⟩
theorem reads_ftCfg : Reads t 0x110008 (t.ft.headland.toNat + at' t.ft.slotGuard.toNat 8 + at' t.ft.skewLimit.toNat 16) := ⟨_, rfl, rfl⟩
theorem reads_poolResv : Reads t 0x130800 (poolResv t) := ⟨_, rfl, rfl⟩
theorem reads_poolBlocks : Reads t 0x130808 poolBlocks := ⟨_, rfl, rfl⟩
theorem reads_guardCfg : Reads t 0x190000 (bit t.guard.en + at' (bit t.guard.lossEn) 1 + at' t.guard.alpha 2 + at' t.guard.warmup 16) := ⟨_, rfl, rfl⟩
theorem reads_guardCtx : Reads t 0x190004 (t.guard.ctxMask.toNat + at' t.guard.cfgTag.toNat 16) := ⟨_, rfl, rfl⟩
theorem reads_spike : Reads t 0x19000C t.guard.spike.toNat := ⟨_, rfl, rfl⟩
theorem reads_doneRound : Reads t 0x190020 t.guard.doneRound.toNat := ⟨_, rfl, rfl⟩
theorem reads_logPages : Reads t 0x1A0000 t.ember.logPages.toNat := ⟨_, rfl, rfl⟩
theorem reads_yokeCfg : Reads t 0x1B0000 (bit t.yoke.en + at' t.yoke.emberPort.toNat 4 + at' t.yoke.logPort.toNat 8) := ⟨_, rfl, rfl⟩
theorem reads_duestCfg : Reads t 0x60400 t.duest.timeoutUs := ⟨_, rfl, rfl⟩
theorem reads_cap : Reads t 0x150000 t.pwr.cap.toNat := ⟨_, rfl, rfl⟩
theorem reads_pwrCfg : Reads t 0x150004 (bit t.pwr.steerEn + at' (bit t.pwr.seqEn) 1 + at' t.pwr.steerMin.toNat 16) := ⟨_, rfl, rfl⟩
theorem reads_mbCfg : Reads t 0x160010 t.trust.mask.toNat := ⟨_, rfl, rfl⟩
theorem reads_holders : Reads t 0x1C0000 (claimHolders t) := ⟨_, rfl, rfl⟩

end

/-! ### The state that PERST_N leaves -/

/-- The state after PERST_N, from `u`: the state `s` without the mailbox requests of MCTP. -/
def afterPerst (s u : State) : State :=
  let s1 := restartMeasure (perstPins u)
  { unpower (setTrust { s1.trust with restarting := true, mctp := .reset } s1) with
      ms := { ModState.reset with mode := .standby, prev := s.ms.mode, cause := causePerst, kindled := s.ms.kindled, entered := s.clk },
      bringup := .reset, jtag := .reset }

theorem execPerstNAssert_eq {s : State} (h : s.ms.mode = .kindling ∨ s.ms.mode = .full ∨ s.ms.mode = .fenced ∨ s.ms.mode = .banked) :
    execPerstNAssert s = .next (afterPerst s (abortMctp { s with pins := { s.pins with perstAsserted := true } })) := by
  have htoStandby : execPerstNAssert s = .next (toStandby { s with pins := { s.pins with perstAsserted := true } }) := by
    rcases h with h | h | h | h <;> simp only [execPerstNAssert, h]
  exact htoStandby

theorem afterPerst_logPages (s u : State) : (afterPerst s u).ember.logPages = if isM4 u then 954 else 1908 := rfl

theorem afterPerst_cap (s u : State) : (afterPerst s u).pwr.cap = if isM4 u then 3600 else 1900 := rfl

theorem reads_of_eq {t : State} {o v w : Nat} (h : Reads t o w) (hvw : w = v) : Reads t o v := hvw ▸ h

/-! ### The values at reset -/

section

variable {t : State}

theorem poll_of_reset (h : t.host = .reset) : Reads t 0x10010 1000000 ∧ Reads t 0x10014 2 :=
  ⟨reads_of_eq (reads_poll t) (by rw [h]; decide), reads_of_eq (reads_statusCfg t) (by rw [h]; decide)⟩

theorem wdog_of_reset (h : t.wdog = .reset) : Reads t 0x30 0x6400 := reads_of_eq (reads_wdog t) (by rw [h]; decide)

theorem ftCfg_of_reset (h : t.ft = .reset) : Reads t 0x110008 0x101008 := reads_of_eq (reads_ftCfg t) (by rw [h]; decide)

theorem pool_of_reset (h : t.link.pool = .reset) : Reads t 0x130800 0x110000 ∧ Reads t 0x130808 393216 :=
  ⟨reads_of_eq (reads_poolResv t) (by rw [poolResv, h]; decide), reads_of_eq (reads_poolBlocks t) (by decide)⟩

theorem guard_of_reset (h : t.guard = .reset) :
    Reads t 0x190000 0x640014 ∧ Reads t 0x190004 0xFFFF ∧ Reads t 0x19000C 0x3F000000 ∧ Reads t 0x190020 0xFFFFFFFF :=
  ⟨reads_of_eq (reads_guardCfg t) (by rw [h]; decide), reads_of_eq (reads_guardCtx t) (by rw [h]; decide),
    reads_of_eq (reads_spike t) (by rw [h]; decide), reads_of_eq (reads_doneRound t) (by rw [h]; decide)⟩

theorem yokeCfg_of_reset (h : t.yoke = .reset) : Reads t 0x1B0000 0x100 := reads_of_eq (reads_yokeCfg t) (by rw [h]; decide)

theorem duestCfg_of_reset (h : t.duest = .reset) : Reads t 0x60400 30 := reads_of_eq (reads_duestCfg t) (by rw [h]; decide)

theorem pwrCfg_of_reset (hsteer : t.pwr.steerEn = Power.reset.steerEn) (hseq : t.pwr.seqEn = Power.reset.seqEn)
    (hmin : t.pwr.steerMin = Power.reset.steerMin) : Reads t 0x150004 0x27100003 :=
  reads_of_eq (reads_pwrCfg t) (by rw [hsteer, hseq, hmin]; decide)

theorem mbCfg_of_reset (h : t.trust.mask = 0xF) : Reads t 0x160010 0xF := reads_of_eq (reads_mbCfg t) (by rw [h]; decide)

theorem holders_of_reset (hft : t.ft = .reset) (hftp : t.pins.ftpOe = false) (hwdog : t.wdog = .reset) (hseq : t.pwr.seqEn = Power.reset.seqEn)
    (hyoke : t.yoke = .reset) (hplan : ∀ b, planOf t b = .reset) (hpool : t.link.pool = .reset) : Reads t 0x1C0000 0x2020 := by
  refine reads_of_eq (reads_holders t) ?_
  have h0 : claimHolder t 0 = 0 := by rw [claimHolder, hft, hftp]; decide
  have h1 : claimHolder t 1 = 2 := by rw [claimHolder, hwdog, hseq]; decide
  have h2 : claimHolder t 2 = 0 := by rw [claimHolder, hyoke, hplan, hplan]; decide
  have h3 : claimHolder t 3 = 2 := by rw [claimHolder, hpool]; decide
  rw [claimHolders, show List.range 4 = [0, 1, 2, 3] by decide, List.map_cons, List.map_cons, List.map_cons, List.map_cons, List.map_nil, h0, h1, h2,
    h3]
  decide

theorem shares_of_reset (h : t.he = []) : ∀ e < 6, Reads t (0x180000 + 0x80 * e) 8 := by
  intro e he
  have hcount : 6 ≤ stackCount t ∧ stackCount t ≤ 12 := by
    unfold stackCount
    split <;> decide
  exact reads_of_eq (reads_share t (by omega) hcount.2) (by rw [h]; rfl)

theorem geom_of_reset (h : ∀ q, sqRx t q = .reset) : ∀ q < 64, Reads t (0x4A004 + 0x40 * q) 0x10001 :=
  fun q hq => reads_of_eq (reads_geom t hq) (by rw [h]; decide)

theorem poolCh_of_reset (h : ∀ c, poolCh t c = .reset) : ∀ c < 128, Reads t (0x130000 + 8 * c) (256 + 2048 * 2 ^ 20) :=
  fun c hc => reads_of_eq (reads_poolCh t hc) (by rw [h]; decide)

theorem ports_of_reset (h : ∀ p, portOf t p = .reset) : ∀ p < 16, Reads t (0x120000 + 0x200 * p) 1 :=
  fun p hp => reads_of_eq (reads_port t hp) (by rw [h]; decide)

theorem tallies_of_reset (h : ∀ i, tally t i = 0) : ∀ i < 4096, Reads t (0x40000 + 4 * i) 0 :=
  fun i hi => reads_of_eq (reads_tally t hi) (by rw [h]; decide)

end

theorem abortMctp_hw (u : State) : (abortMctp u).hw = u.hw := hw_of_outside (abortMctp_outside (by simp) u)

/-- Settles O6: PERST_N leaves the reset values but for what the module is built as and what its pins hold. -/
theorem registersReadTheirResetValues : Obligations.RegistersReadTheirResetValues := by
  intro s hs
  refine ⟨_, execPerstNAssert_eq hs, ?_⟩
  have hhw := abortMctp_hw { s with pins := { s.pins with perstAsserted := true } }
  generalize abortMctp { s with pins := { s.pins with perstAsserted := true } } = u at hhw ⊢
  have hM4 {α : Type} (m n : α) : (if isM4 u then m else n) = if s.hw.variant = .m4 then m else n := by
    rw [isM4, hhw]
    cases h : s.hw.variant <;> rfl
  have hpages : Reads (afterPerst s u) 0x1A0000 (if s.hw.variant = .m4 then 954 else 1908) := by
    refine reads_of_eq (reads_logPages _) ?_
    rw [afterPerst_logPages, hM4]
    split <;> rfl
  have hcap : Reads (afterPerst s u) 0x150000 (if s.hw.variant = .m4 then 3600 else 1900) := by
    refine reads_of_eq (reads_cap _) ?_
    rw [afterPerst_cap, hM4]
    split <;> rfl
  obtain ⟨hpoll, hstatus⟩ := poll_of_reset (t := afterPerst s u) rfl
  obtain ⟨hresv, hblocks⟩ := pool_of_reset (t := afterPerst s u) rfl
  obtain ⟨hguard, hctx, hspike, hround⟩ := guard_of_reset (t := afterPerst s u) rfl
  exact ⟨hpoll, hstatus, wdog_of_reset rfl, shares_of_reset rfl, ftCfg_of_reset rfl, geom_of_reset fun _ => rfl, poolCh_of_reset fun _ => rfl,
    hresv, hblocks, ports_of_reset fun _ => rfl, hguard, hctx, hspike, hround, hpages, yokeCfg_of_reset rfl, duestCfg_of_reset rfl, hcap,
    pwrCfg_of_reset rfl rfl rfl, mbCfg_of_reset rfl, holders_of_reset rfl rfl rfl rfl rfl (fun _ => rfl) rfl, tallies_of_reset fun _ => rfl,
    fun _ => rfl, fun _ => rfl, rfl⟩

end Sys2Proof.Machine
end

section
/-! PROOFS. What a held read does once its stack is filled (R172, R182). -/

namespace Sys2Proof.Machine

/-- A read of the byte at place 0 of stack 0, which waits for the stack to be filled and finds its codeword miscorrected (log 91). -/
def miscorrectedRead : HeldRead := { stack := 0, addr := 0, len := 1, errors := [(0, .miscorrected [1])], tag := 0 }

/-- A module in Kindling that holds it. -/
def heldReadState : State :=
  { State.reset with ms := { ModState.reset with mode := .kindling }, mem := { Mem.reset with heldReads := [miscorrectedRead] } }

/-- Log 91: the read writes the miscorrected word where it was read. -/
theorem zeroFillComplete_heldRead : ∀ t, execZeroFillComplete 0 heldReadState = .next t → t.mem.bytes ≠ heldReadState.mem.bytes := by
  intro t ht
  cases ht
  decide +kernel

/-- Refutes O11: the end of a fill serves the reads that waited for it, and one whose word is miscorrected changes memory. -/
theorem not_powerAndResetComplete : ¬ Obligations.PowerAndResetComplete := by
  unfold Obligations.PowerAndResetComplete
  rintro ⟨-, -, -, -, -, -, -, -, -, -, -, hfill⟩
  obtain ⟨t, ht, -, -, -, hbytes⟩ := hfill 0 heldReadState rfl (by decide) (.inr rfl) rfl
  refine zeroFillComplete_heldRead t ht (hbytes fun h hh _ e he => ?_)
  rw [List.mem_singleton.mp hh] at he
  rw [List.mem_singleton.mp he]
  rfl

end Sys2Proof.Machine
end

section
/-! PROOFS. What a request to IOD_STATE_REQ leaves when its log message meets a broken ledger (R27, R361). -/

namespace Sys2Proof.Machine

/-- A linked member of a yoke, fenced at this instant by a Duest link, whose context 0 is active, whose port 0 is up and whose ledger of
link packets has a parity error that no transfer has met yet. -/
def brokenLedgerState : State :=
  { State.reset with
      ms := { ModState.reset with mode := .fenced, prev := .full, cause := 6 }
      host := { HostIf.reset with ctxs := [(0, { Ctx.reset with state := .active })] }
      ember := { Ember.reset with opened := true, effLogPages := 954 }
      yoke := { Yoke.reset with partner := 2 }
      link := { Links.reset with ports := [(0, { Port.reset with state := .up })] }
      lg := { Ledger.reset with doms := [(dLinkPacket, { LgDom.reset with parityBad := true })] } }

/-- R361: the log entry of the write goes to the partner, the transfer of its link packet meets the parity error, and the fence that stands gets
the cause of the ledger fault. -/
theorem enterKindling_brokenLedger :
    ∀ t, execEnterKindling true brokenLedgerState = .next t → t.ms.cause = causeLedgerFault := by
  intro t ht
  cases ht
  decide +kernel

/-- Refutes O12: the log entry of a rejected request can meet a broken ledger, which changes IOD_STATE's CAUSE. -/
theorem not_stateRequestsComplete : ¬ Obligations.StateRequestsComplete := by
  unfold Obligations.StateRequestsComplete
  rintro ⟨⟨-, -, -, -, hreject, -⟩, -⟩
  obtain ⟨t, ht, heq⟩ := hreject true brokenLedgerState rfl rfl rfl (.inl rfl)
  have hcause := enterKindling_brokenLedger t ht
  rw [heq] at hcause
  exact absurd hcause (by decide)

end Sys2Proof.Machine
end

section
/-! PROOFS. Polling, fetch, dispatch, start and resumption (R34 to R44). -/

namespace Sys2Proof.Machine

/-! ### The polled records -/

theorem polledRecords_nodup (s : State) : (polledRecords s).Nodup := by
  unfold polledRecords
  dsimp only
  split
  · exact (List.drop_sublist _ _).nodup List.nodup_range
  · exact List.nodup_nil

theorem polledRecords_lt {s : State} {m : Nat} (h : m ∈ polledRecords s) : m < 8 := by
  unfold polledRecords at h
  dsimp only at h
  split at h
  next lo hi _ hlast =>
    have hhi : hi ∈ (List.range 8).filter (recordInUse s) := List.mem_of_getLast? hlast
    have hmem := List.mem_of_mem_drop h
    rw [List.mem_filter, List.mem_range] at hhi
    rw [List.mem_range] at hmem
    omega
  next => cases h

/-- The indices of the doorbell fields of the records `ms`: the eight rings of a record, then its eight completion rings. -/
def fieldIndices (ms : List Nat) : List Nat := ms.flatMap fun m => (List.range 8).map (8 * m + ·) ++ (List.range 8).map (64 + 8 * m + ·)

theorem fieldIndices_nodup {ms : List Nat} (hms : ms.Nodup) (hlt : ∀ m ∈ ms, m < 8) : (fieldIndices ms).Nodup := by
  rw [fieldIndices, List.nodup_flatMap]
  refine ⟨fun m hm => ?_, ?_⟩
  · refine List.nodup_append.mpr ⟨List.nodup_range.map fun a b h => Nat.add_left_cancel h, List.nodup_range.map fun a b h => Nat.add_left_cancel h, ?_⟩
    have hm8 := hlt m hm
    intro a ha b hb
    simp only [List.mem_map, List.mem_range] at ha hb
    omega
  · refine hms.imp_of_mem ?_
    intro a b ha hb hab
    have ha8 := hlt a ha
    have hb8 := hlt b hb
    intro x hx hy
    simp only [List.mem_append, List.mem_map, List.mem_range] at hx hy
    rcases hx with ⟨i, hi, rfl⟩ | ⟨i, hi, rfl⟩ <;> rcases hy with ⟨j, hj, hij⟩ | ⟨j, hj, hij⟩ <;> omega

theorem doorbellFields_eq (ms : List Nat) (ws : List Word) : doorbellFields ms ws = (fieldIndices ms).zip ws := rfl

theorem map_fst_zip_sublist {α β : Type} (l : List α) (ws : List β) : ((l.zip ws).map Prod.fst).Sublist l := by
  induction l generalizing ws with
  | nil => simp
  | cons a l ih =>
    cases ws with
    | nil => simp
    | cons w ws => exact (ih ws).cons_cons a

theorem doorbellFields_nodup (s : State) (ws : List Word) : ((doorbellFields (polledRecords s) ws).map Prod.fst).Nodup :=
  (map_fst_zip_sublist _ _).nodup (fieldIndices_nodup (polledRecords_nodup s) fun _ => polledRecords_lt)

/-! ### What stopping and judging leaves of the rings -/

theorem eq_with_host_out {s t : State} (h : outside [.host, .out] t = outside [.host, .out] s) : t = { s with host := t.host, out := t.out } := by
  rw [outside_eq_iff] at h
  simp at h
  cases t
  cases s
  simp_all

theorem srings_raiseVector (v : Nat) (s : State) : (raiseVector v s).host.srings = s.host.srings := by
  unfold raiseVector
  split
  · dsimp only
    split <;> rfl
  · rfl

theorem seen_raiseVector (v : Nat) (s : State) : (raiseVector v s).host.seen = s.host.seen := by
  unfold raiseVector
  split
  · dsimp only
    split <;> rfl
  · rfl

theorem sring_raiseVector (v : Nat) (s : State) (n : Nat) : sring (raiseVector v s) n = sring s n := by
  simp only [sring, srings_raiseVector]

theorem sring_stopRing (n m : Nat) (code : BitVec 3) (s : State) :
    sring (stopRing n code s) m = if m = n ∧ (sring s n).err = false then { sring s n with err := true, errCode := code } else sring s m := by
  simp only [stopRing]
  split
  case isTrue h => simp [h]
  case isFalse h => simp [h, sring_raiseVector, sring_setSring]

theorem err_stopRing (n : Nat) (code : BitVec 3) (s : State) : (sring (stopRing n code s) n).err = true := by
  rw [sring_stopRing]
  cases h : (sring s n).err <;> simp [h]

theorem err_stopRing_of_err {m : Nat} (n : Nat) (code : BitVec 3) {s : State} (h : (sring s m).err = true) : (sring (stopRing n code s) m).err = true := by
  rw [sring_stopRing]
  split
  · rfl
  · exact h

theorem prod_stopRing (n m : Nat) (code : BitVec 3) (s : State) : (sring (stopRing n code s) m).prod = (sring s m).prod := by
  rw [sring_stopRing]
  split
  case isTrue h => rw [h.1]
  case isFalse => rfl

theorem prod_judgeRing (n m : Nat) (s : State) : (sring (judgeRing n s) m).prod = (sring s m).prod := by
  simp only [judgeRing]
  (repeat' split) <;> simp only [prod_stopRing]

theorem err_foldl_stopRing (code : BitVec 3) {l : List Nat} {n : Nat} (s : State) (h : n ∈ l ∨ (sring s n).err = true) :
    (sring (l.foldl (fun s n => stopRing n code s) s) n).err = true := by
  induction l generalizing s with
  | nil => simpa using h
  | cons k l ih =>
    rw [List.foldl_cons]
    refine ih _ ?_
    rcases h with h | h
    · rcases List.mem_cons.mp h with rfl | h
      · exact .inr (err_stopRing ..)
      · exact .inl h
    · exact .inr (err_stopRing_of_err _ _ h)

theorem prod_foldl_judgeRing (l : List Nat) (m : Nat) (s : State) :
    (sring (l.foldl (fun s n => judgeRing n s) s) m).prod = (sring s m).prod := by
  induction l generalizing s with
  | nil => rfl
  | cons k l ih => rw [List.foldl_cons, ih, prod_judgeRing]

/-! ### What taking the doorbell fields leaves -/

theorem takeCons_rings (n : Nat) (v : Word) (fresh : Bool) (s : State) :
    (takeCons n v fresh s).host.srings = s.host.srings ∧ (takeCons n v fresh s).host.seen = s.host.seen := by
  simp only [takeCons]
  split
  · exact ⟨rfl, rfl⟩
  · split
    · split
      · exact ⟨srings_raiseVector .., seen_raiseVector ..⟩
      · exact ⟨rfl, rfl⟩
    · exact ⟨rfl, rfl⟩

theorem seen_takeField (i : Nat) (v : Word) (s : State) : (takeField i v s).2.host.seen = s.host.seen.put 0 i v := by
  simp only [takeField]
  split
  · rfl
  · exact (takeCons_rings ..).2

theorem sring_takeField (i : Nat) (v : Word) (s : State) (m : Nat) :
    sring (takeField i v s).2 m = if i < 64 ∧ m = i then { sring s i with prod := some v } else sring s m := by
  simp only [takeField]
  split
  case isTrue h =>
    rw [sring_setSring]
    simp only [h, true_and]
    rfl
  case isFalse h =>
    simp only [h, false_and, if_false, sring, (takeCons_rings ..).1]

/-- The fields taken one after the other, and whether one was new. -/
def takeFields (fs : List (Nat × Word)) (x : Bool × State) : Bool × State :=
  fs.foldl (fun (b, s) f =>
    let (c, s1) := takeField f.1 f.2 s
    (b || c, s1)) x

theorem takeFields_cons (f : Nat × Word) (fs : List (Nat × Word)) (b : Bool) (s : State) :
    takeFields (f :: fs) (b, s) = takeFields fs (b || s.host.seen.get 0 f.1 != f.2, (takeField f.1 f.2 s).2) := rfl

theorem takeFields_outside (fs : List (Nat × Word)) (b : Bool) (s : State) :
    outside [.host, .out] (takeFields fs (b, s)).2 = outside [.host, .out] s := by
  induction fs generalizing b s with
  | nil => rfl
  | cons f fs ih => rw [takeFields_cons, ih, takeField_outside (by simp)]

theorem sring_takeFields_of_unnamed (fs : List (Nat × Word)) (b : Bool) (s : State) (m : Nat) (h : m ∉ fs.map Prod.fst) :
    sring (takeFields fs (b, s)).2 m = sring s m := by
  induction fs generalizing b s with
  | nil => rfl
  | cons f fs ih =>
    simp only [List.map_cons, List.mem_cons, not_or] at h
    rw [takeFields_cons, ih _ _ h.2, sring_takeField, if_neg fun hm => h.1 hm.2]

theorem prod_takeFields {fs : List (Nat × Word)} (hfs : (fs.map Prod.fst).Nodup) (b : Bool) (s : State) {f : Nat × Word} (hf : f ∈ fs) (hlt : f.1 < 64) :
    (sring (takeFields fs (b, s)).2 f.1).prod = some f.2 := by
  induction fs generalizing b s with
  | nil => cases hf
  | cons g fs ih =>
    rw [List.map_cons, List.nodup_cons] at hfs
    rw [takeFields_cons]
    rcases List.mem_cons.mp hf with rfl | hf
    · rw [sring_takeFields_of_unnamed _ _ _ _ hfs.1, sring_takeField, if_pos ⟨hlt, rfl⟩]
    · exact ih hfs.2 _ _ hf

theorem takeFields_fst {fs : List (Nat × Word)} (hfs : (fs.map Prod.fst).Nodup) (b : Bool) (u s : State)
    (h : ∀ f ∈ fs, s.host.seen.get 0 f.1 = u.host.seen.get 0 f.1) :
    (takeFields fs (b, s)).1 = (b || fs.any fun f => u.host.seen.get 0 f.1 != f.2) := by
  induction fs generalizing b s with
  | nil => simp [takeFields]
  | cons g fs ih =>
    rw [List.map_cons, List.nodup_cons] at hfs
    rw [takeFields_cons, ih hfs.2, h g (List.mem_cons_self ..), List.any_cons, Bool.or_assoc]
    intro f hf
    have hne : f.1 ≠ g.1 := fun heq => hfs.1 (heq ▸ List.mem_map_of_mem hf)
    rw [seen_takeField, Tab.get_put_other _ hne, h f (List.mem_cons_of_mem _ hf)]

/-! ### Polling -/

/-- The state after the doorbell page was read as `ws`. -/
def polled (ws : List Word) (s : State) : State :=
  (List.range 64).foldl (fun s n => judgeRing n s) (takeFields (doorbellFields (polledRecords s) ws) (false, readRecords (polledRecords s) s)).2

theorem execDoorbellPoll_some {s : State} (h : inService s = true) (ws : List Word) :
    execDoorbellPoll (some ws) s = .next (setPoll (nextInterval s (takeFields (doorbellFields (polledRecords s) ws)
      (false, readRecords (polledRecords s) s)).1) (polled ws s)) := by
  have hread : (readRecords (polledRecords s) s).host = s.host := by
    unfold readRecords
    split <;> rfl
  simp only [execDoorbellPoll, h, nextInterval, hread]
  rfl

/-- The state after the doorbell page could not be read. -/
def pollFailed (s : State) : State :=
  ((polledRecords s).flatMap fun m => (List.range 8).map (8 * m + ·)).foldl (fun s n => stopRing n ecFetch s) (readRecords (polledRecords s) s)

theorem execDoorbellPoll_none {s : State} (h : inService s = true) :
    execDoorbellPoll none s = .next (setPoll (nextInterval s false) (pollFailed s)) := by
  have hread : (readRecords (polledRecords s) s).host = s.host := by
    unfold readRecords
    split <;> rfl
  simp only [execDoorbellPoll, h, nextInterval, hread]
  rfl

theorem readRecords_outside' (ms : List Nat) (s : State) : outside [.host, .out] (readRecords ms s) = outside [.host, .out] s := by
  unfold readRecords
  split <;> simp

theorem sring_setPoll (k n : Nat) (s : State) : sring (setPoll k s) n = sring s n := rfl

theorem doorbellPoll_none_completes {s : State} (h : inService s = true) :
    Completes (.doorbellPoll none) s fun t =>
      t = { s with host := t.host, out := t.out } ∧ t.host.pollNs = min (2 * s.host.pollNs) s.host.maxNs.toNat ∧
        ∀ m ∈ polledRecords s, ∀ j < 8, (sring t (8 * m + j)).err = true := by
  refine ⟨_, execDoorbellPoll_none h, eq_with_host_out ?_, rfl, fun m hm j hj => ?_⟩
  · rw [setPoll, outside_with_host (by simp), pollFailed, outside_foldl _ fun s n => stopRing_outside (by simp) .., readRecords_outside']
  · refine err_foldl_stopRing _ _ (.inl ?_)
    simp only [List.mem_flatMap, List.mem_map, List.mem_range]
    exact ⟨m, hm, j, hj, rfl⟩

theorem doorbellPoll_some_completes {s : State} (h : inService s = true) (ws : List Word) :
    Completes (.doorbellPoll (some ws)) s fun t =>
      t = { s with host := t.host, out := t.out } ∧
        (∀ f ∈ doorbellFields (polledRecords s) ws, f.1 < 64 → (sring t f.1).prod = some f.2) ∧
        ((∀ f ∈ doorbellFields (polledRecords s) ws, s.host.seen.get 0 f.1 = f.2) →
          t.host.pollNs = min (2 * s.host.pollNs) s.host.maxNs.toNat) ∧
        ((∃ f ∈ doorbellFields (polledRecords s) ws, s.host.seen.get 0 f.1 ≠ f.2) → t.host.pollNs = 200) := by
  have hnodup := doorbellFields_nodup s ws
  have hread : (readRecords (polledRecords s) s).host = s.host := by
    unfold readRecords
    split <;> rfl
  have hnew := takeFields_fst hnodup false s (readRecords (polledRecords s) s) fun f _ => by rw [hread]
  refine ⟨_, execDoorbellPoll_some h ws, eq_with_host_out ?_, fun f hf hlt => ?_, fun hsame => ?_, fun hdiff => ?_⟩
  · rw [setPoll, outside_with_host (by simp), polled, outside_foldl _ fun s n => judgeRing_outside (by simp) .., takeFields_outside,
      readRecords_outside']
  · rw [sring_setPoll, polled, prod_foldl_judgeRing]
    exact prod_takeFields hnodup _ _ hf hlt
  · have hnone : ((doorbellFields (polledRecords s) ws).any fun f => s.host.seen.get 0 f.1 != f.2) = false :=
      List.any_eq_false.mpr fun f hf => by rw [hsame f hf, bne_self_eq_false]; exact Bool.false_ne_true
    show nextInterval s _ = _
    rw [hnew, hnone]
    rfl
  · obtain ⟨f, hf, hne⟩ := hdiff
    have hsome : ((doorbellFields (polledRecords s) ws).any fun f => s.host.seen.get 0 f.1 != f.2) = true :=
      List.any_eq_true.mpr ⟨f, hf, by simpa using hne⟩
    show nextInterval s _ = _
    rw [hnew, hsome]
    rfl

/-! ### Fetch -/

theorem judgeRing_of_inRange {n : Nat} {s : State} (h : ringAhead (sring s n) ≤ 2 ^ (sring s n).log2.toNat) (h31 : ringAhead (sring s n) ≤ 2 ^ 31) :
    judgeRing n s = s := by
  simp only [judgeRing, Nat.not_lt.mpr h, Nat.not_lt.mpr h31, if_false, ite_self]

theorem ledgerTake_eq {d h n : Nat} {s : State} {x : LgDom} (hparity : (lgDom s d).parityBad = false) (htake : (lgDom s d).take h n = some x) :
    ledgerTake d h n s = (true, setLgDom d x s) := by
  have hcheck : parityCheck d s = s := by simp [parityCheck, hparity]
  simp only [ledgerTake, hcheck, htake]

theorem descFetch_completes {n : Nat} {b : List Byte} {x : LgDom} {s : State} (hn : n < 64) (hmode : fetchMode s = true)
    (hfetch : isFetching s n = true) (hpos : 0 < ringAhead (sring s n)) (hle : ringAhead (sring s n) ≤ 2 ^ (sring s n).log2.toNat)
    (h31 : ringAhead (sring s n) ≤ 2 ^ 31) (hopen : ringOpen s n < 256) (hparity : (lgDom s dRingSlot).parityBad = false)
    (htake : (lgDom s dRingSlot).take n 1 = some x) :
    Completes (.descFetch n (some b)) s fun t =>
      t = logEvent lkDesc (descPayload ⟨n, (sring s n).fetch⟩ (padTo 64 b))
        (setSring n { sring s n with fetch := (sring s n).fetch + 1 }
          (setLgDom dRingSlot x { readEntry n s with descs := s.descs ++ [newDesc s n (sring s n).fetch (padTo 64 b)] })) := by
  have hfree : (lgDom s dRingSlot).free ≠ 0 := by
    intro h0
    simp [LgDom.take, h0] at htake
  refine ⟨_, rfl, ?_⟩
  have hgo : ¬ (64 ≤ n ∨ (!fetchMode s) = true ∨ (!isFetching s n) = true ∨ ringAhead (sring s n) = 0 ∨ 256 ≤ ringOpen s n ∨
      (lgDom s dRingSlot).free = 0) := by
    simp [hmode, hfetch, hfree]
    omega
  have htake' : ledgerTake dRingSlot n 1 (readEntry n s) = (true, setLgDom dRingSlot x (readEntry n s)) := ledgerTake_eq hparity htake
  rw [judgeRing_of_inRange hle h31]
  dsimp only
  rw [if_neg hgo, htake']
  rfl

theorem descFetch_none_completes {n : Nat} {s : State} (hn : n < 64) (hmode : fetchMode s = true)
    (hfetch : isFetching s n = true) (hpos : 0 < ringAhead (sring s n)) (hle : ringAhead (sring s n) ≤ 2 ^ (sring s n).log2.toNat)
    (h31 : ringAhead (sring s n) ≤ 2 ^ 31) (hopen : ringOpen s n < 256) (hfree : (lgDom s dRingSlot).free ≠ 0) :
    Completes (.descFetch n none) s fun t =>
      t = raiseVector 66 (setSring n { sring s n with err := true, errCode := 3 } (readEntry n s)) := by
  refine ⟨_, rfl, ?_⟩
  have hgo : ¬ (64 ≤ n ∨ (!fetchMode s) = true ∨ (!isFetching s n) = true ∨ ringAhead (sring s n) = 0 ∨ 256 ≤ ringOpen s n ∨
      (lgDom s dRingSlot).free = 0) := by
    simp [hmode, hfetch, hfree]
    omega
  have herr : (sring (readEntry n s) n).err = false := by
    simp only [isFetching, Bool.and_eq_true, Bool.not_eq_true'] at hfetch
    exact hfetch.2
  rw [judgeRing_of_inRange hle h31]
  dsimp only
  rw [if_neg hgo]
  simp only [stopRing, herr]
  rfl

theorem descFetch_full_completes {n : Nat} {s : State} (b : Option (List Byte)) (hfull : 256 ≤ ringOpen s n ∨ (lgDom s dRingSlot).free = 0) :
    Completes (.descFetch n b) s fun t => t = judgeRing n s := by
  refine ⟨_, rfl, ?_⟩
  have hopen : ringOpen (judgeRing n s) n = ringOpen s n := by
    simp only [ringOpen, descs_of_outside (judgeRing_outside (by simp) n s)]
  have hdom : lgDom (judgeRing n s) dRingSlot = lgDom s dRingSlot := by
    simp only [lgDom, lg_of_outside (judgeRing_outside (by simp) n s)]
  refine if_pos ?_
  rw [hopen, hdom]
  tauto

/-! ### Dispatch -/

theorem releaseDesc_alone {d : Desc} {s : State} (hpartner : partnerOf s d = none) (hdeps : fencedDeps s d = 0) :
    releaseDesc d s = countLate d (latenessOf s d) (enqueueDesc d (latenessOf s d) s) := by
  simp [releaseDesc, dispatchDesc, hpartner, hdeps]

theorem releaseDesc_pair {d e : Desc} {s : State} (hpartner : partnerOf s d = some e) (hd : fencedDeps s d = 0) (he : fencedDeps s e = 0) :
    releaseDesc d s = countLate e (latenessOf s e) (countLate d (latenessOf s d) (enqueueDesc e (latenessOf s e) (enqueueDesc d (latenessOf s d)
      (updDesc e.ref (fun x => { x with pair := some d.ref }) (updDesc d.ref (fun x => { x with pair := some e.ref }) s))))) := by
  simp [releaseDesc, dispatchDesc, hpartner, hd, he]

theorem latenessOf_of_notSown {d : Desc} (s : State) (h : hSown d.bytes = false ∨ d.replayed = true) : latenessOf s d = 0 := by
  rcases h with h | h <;> simp [latenessOf, h]

theorem latenessOf_of_sown {d : Desc} (s : State) (hs : hSown d.bytes = true) (hr : d.replayed = false) :
    latenessOf s d = s.ft.ft.toNat - (hLaunch d.bytes).toNat := by
  simp [latenessOf, hs, hr]

theorem descDispatch_eq {d : Desc} {s : State} (harb : arbitrate s = some d) (h : hSown d.bytes = false ∨ d.replayed = true) :
    execDescDispatch s = .next (releaseDesc d s) := by
  rcases h with h | h <;> simp [execDescDispatch, harb, h]

theorem sownRelease_eq {d : Desc} {s : State} (harb : arbitrate s = some d) (hs : hSown d.bytes = true) (hr : d.replayed = false) :
    execSownRelease s = .next (releaseDesc d s) := by
  simp [execSownRelease, harb, hs, hr]

theorem countLate_zero (d : Desc) (s : State) : countLate d 0 s = s := rfl

theorem max_lateMax (m : Word) (late : Nat) :
    (if m.toNat < late then BitVec.ofNat 32 (hold 0xFFFFFFFF late) else m).toNat = max m.toNat (min 0xFFFFFFFF late) := by
  have hm := m.isLt
  simp only [hold]
  split
  · rw [BitVec.toNat_ofNat, Nat.mod_eq_of_lt (by omega)]
    omega
  · omega

theorem sownRelease_late {d : Desc} {s : State} (harb : arbitrate s = some d) (hs : hSown d.bytes = true) (hr : d.replayed = false)
    (hpartner : partnerOf s d = none) (hdeps : fencedDeps s d = 0) (hlate : (hLaunch d.bytes).toNat < s.ft.ft.toNat) :
    Completes .sownRelease s fun t =>
      let late := s.ft.ft.toNat - (hLaunch d.bytes).toNat
      t = { enqueueDesc d late s with ft := t.ft, lag := t.lag } ∧ t.ft.lateCount = s.ft.lateCount.add 1 ∧
        t.ft.lateMax.toNat = max s.ft.lateMax.toNat (min 0xFFFFFFFF late) ∧
        t.lag.ringLate.get .reset d.ref.ring = (s.lag.ringLate.get .reset d.ref.ring).add late := by
  refine ⟨_, (sownRelease_eq harb hs hr).trans (by rw [releaseDesc_alone hpartner hdeps, latenessOf_of_sown s hs hr]), ?_⟩
  have hne : s.ft.ft.toNat - (hLaunch d.bytes).toNat ≠ 0 := by omega
  generalize s.ft.ft.toNat - (hLaunch d.bytes).toNat = late at hne ⊢
  have key (u : State) (hft : u.ft = s.ft) (hlag : u.lag = s.lag) : countLate d late u = { u with ft := (countLate d late u).ft, lag := (countLate d late u).lag } ∧
      (countLate d late u).ft.lateCount = s.ft.lateCount.add 1 ∧
      (countLate d late u).ft.lateMax.toNat = max s.ft.lateMax.toNat (min 0xFFFFFFFF late) ∧
      (countLate d late u).lag.ringLate.get .reset d.ref.ring = (s.lag.ringLate.get .reset d.ref.ring).add late := by
    simp only [countLate, if_neg hne, hft, hlag, max_lateMax, true_and]
    split <;> exact Tab.get_put_same _
  exact key (enqueueDesc d late s) rfl rfl

/-! ### Start and resumption -/

theorem resumeOn_parked {tg : Target} {d : Desc} {s : State} (hin : endedInPlace s tg = none) (hbusy : targetBusy s tg = false)
    (hnext : nextParked s tg = some d) : resumeOn tg s = updDesc d.ref (updCopy tg goOn) s := by
  simp [resumeOn, hin, hbusy, hnext]

theorem descStart_eq {tg : Target} {d : Desc} {s : State} (hbusy : targetBusy s tg = false) (hres : resumable s tg = false)
    (hex : exchangeFirst s tg = false) (hnext : nextQueued s tg = some d) (hfill : waitsFill s d = false) :
    execDescStart tg s = .next (match d.pair with
      | some e => recordsMet tg e (recordsMet tg d.ref (startCopy tg e (openTxns tg d.ref (startCopy tg d.ref (closeTxns tg s)))))
      | none => recordsMet tg d.ref (openTxns tg d.ref (startCopy tg d.ref (closeTxns tg s)))) := by
  have hfilter : (nextQueued s tg).filter (fun d => !waitsFill s d) = some d := by simp [hnext, hfill]
  simp only [execDescStart, hbusy, hres, hex, hfilter]
  rfl

/-- Settles O13: each command does what its rule gives, by the branch that its state takes. -/
theorem ringCommandsComplete : Obligations.RingCommandsComplete := by
  refine ⟨fun s h => doorbellPoll_none_completes h, fun ws s h => doorbellPoll_some_completes h ws,
    fun n b x s hn hmode hfetch hpos hle h31 hopen hparity htake => descFetch_completes hn hmode hfetch hpos hle h31 hopen hparity htake,
    fun n s hn hmode hfetch hpos hle h31 hopen hfree => descFetch_none_completes hn hmode hfetch hpos hle h31 hopen hfree,
    fun n b s _ hfull => descFetch_full_completes b hfull, fun d s harb hsown hpartner hdeps => ?_, fun d e s harb hsown hpartner hd he => ?_,
    fun d s harb hs hr hpartner hdeps hle => ?_, fun d s harb hs hr hpartner hdeps hlate => sownRelease_late harb hs hr hpartner hdeps hlate,
    fun d e s harb hs hr hpartner hd he => ?_, fun tg d s hbusy hres hex hnext hfill hpair => ?_,
    fun tg d e s hbusy hres hex hnext hfill hpair => ?_, fun tg d s hin => ?_, fun tg d s hin hbusy hnext => ?_⟩
  · exact ⟨_, descDispatch_eq harb hsown, by rw [releaseDesc_alone hpartner hdeps, latenessOf_of_notSown s hsown, countLate_zero]⟩
  · exact ⟨_, descDispatch_eq harb hsown, by rw [releaseDesc_pair hpartner hd he, latenessOf_of_notSown s hsown, countLate_zero]⟩
  · exact ⟨_, sownRelease_eq harb hs hr, by
      rw [releaseDesc_alone hpartner hdeps, latenessOf_of_sown s hs hr, Nat.sub_eq_zero_of_le hle, countLate_zero]⟩
  · exact ⟨_, sownRelease_eq harb hs hr, releaseDesc_pair hpartner hd he⟩
  · exact ⟨_, descStart_eq hbusy hres hex hnext hfill, by rw [hpair]⟩
  · exact ⟨_, descStart_eq hbusy hres hex hnext hfill, by rw [hpair]⟩
  · exact ⟨_, rfl, by simp only [resumeOn, hin]⟩
  · exact ⟨_, rfl, resumeOn_parked hin hbusy hnext⟩

end Sys2Proof.Machine
end

section
/-! PROOFS. What the end of a NOP leaves of the ledger of its core (R46, R361). -/

namespace Sys2Proof.Machine

/-- A NOP of core 0 of CD0 that has ended with OK. -/
def doneNop : Desc :=
  { ref := { ring := 0, index := 0 }, bytes := [0, 0, 0, 0], ctx := 0, prio := 0, dispatched := true, order := 0,
    copies := [{ target := .core 0 0, st := .done, stage := 0, since := 0, report := some Report.ok }], start := some 0, lateness := 0,
    outcome := none, detailAll := none, collided := false, deps := 0, waiting := none, replayed := false, pair := none }

/-- A module in Full service that holds it, with room in completion ring 0 whose core 0 still holds
a transaction in a ledger with a parity error. -/
def doneNopState : State :=
  { State.reset with
      ms := { ModState.reset with mode := .full }
      descs := [doneNop]
      host := { HostIf.reset with crings := [(0, { CRing.reset with en := true })] }
      lg := { Ledger.reset with doms := [(dRingSlot, { LgDom.reset with total := 1, held := 1, heldBy := [(0, 1)] }), (dAeTxn, { LgDom.reset with total := 1, held := 1, heldBy := [(coreNumber (.core 0 0), 1)], parityBad := true })] } }

/-- R361: the core's transactions are returned, which meets the parity error. -/
theorem descComplete_doneNop : ∀ t, execDescComplete doneNop.ref doneNopState = .next t → t.ms.mode = .fenced := by
  intro t ht
  cases ht
  decide +kernel

theorem retire_doneNop :
    (serviceExchange (retire doneNop.ref (writeRecord 0 doneNop (outcomeOf doneNopState doneNop) doneNopState))).ms.mode = .full := by
  decide +kernel

/-- Refutes O14: the end of a NOP on a core returns what the core holds, and a ledger fault that this meets fences the module. -/
theorem not_completionCommandsComplete : ¬ Obligations.CompletionCommandsComplete := by
  unfold Obligations.CompletionCommandsComplete
  rintro ⟨⟨-, hcomplete, -⟩, -⟩
  obtain ⟨t, ht, heq⟩ := hcomplete doneNop.ref doneNop doneNopState 0 rfl (by decide +kernel) (by decide +kernel) rfl (by decide +kernel) (by decide +kernel)
    (by decide +kernel) (by decide +kernel)
  have hfenced := descComplete_doneNop t ht
  rw [heq, retire_doneNop] at hfenced
  cases hfenced

end Sys2Proof.Machine
end

section
/-! PROOFS. The registers of the rings and the context commands (R31, R53 to R58). -/

namespace Sys2Proof.Machine

/-! ### What a vector and the start of the rings leave of the contexts -/

theorem ctxs_raiseVector (v : Nat) (s : State) : (raiseVector v s).host.ctxs = s.host.ctxs := by
  unfold raiseVector
  split
  · dsimp only
    split <;> rfl
  · rfl

theorem ctxOf_raiseVector (v n : Nat) (s : State) : ctxOf (raiseVector v s) n = ctxOf s n := by
  simp only [ctxOf, ctxs_raiseVector]

theorem ctxs_stopRing (k : Nat) (code : BitVec 3) (s : State) : (stopRing k code s).host.ctxs = s.host.ctxs := by
  simp only [stopRing]
  split
  · rfl
  · exact ctxs_raiseVector ..

theorem ctxs_judgeRing (k : Nat) (s : State) : (judgeRing k s).host.ctxs = s.host.ctxs := by
  simp only [judgeRing]
  (repeat' split) <;> simp only [ctxs_stopRing]

theorem ctxs_beginRings (n : Nat) (s : State) : (beginRings n s).host.ctxs = s.host.ctxs := by
  rw [beginRings]
  generalize List.range 64 = l
  induction l generalizing s with
  | nil => rfl
  | cons k l ih =>
    rw [List.foldl_cons, ih]
    dsimp only
    split
    · rw [ctxs_judgeRing]
      split <;> rfl
    · rfl

theorem ctxOf_ctxStart (n : Nat) (s : State) : ctxOf (ctxStart n s) n = { ctxOf s n with state := .active, result := crOk } := by
  simp only [ctxStart, ctxOf_raiseVector]
  rw [ctxOf, ctxs_beginRings]
  exact ctxOf_setCtx_same n _ s

theorem ctxOf_ctxDone (n : Nat) (st : CtxState) (result : Nat) (s : State) :
    ctxOf (ctxDone n st result s) n = { ctxOf s n with state := st, result := result } := by
  rw [ctxDone, ctxOf_raiseVector, ctxOf_setCtx_same]

/-! ### CTX_BEGIN -/

theorem logEvent_of_not_logging {s : State} (h : logging s = false) (kind : Nat) (payload : List Byte) : logEvent kind payload s = s := by
  simp [logEvent, h]

theorem writeLogged_of_not_logging {s : State} (h : logging s = false) (off v : Nat) : writeLogged off v s = s := by
  simp [writeLogged, logEvent_of_not_logging h]

theorem ctxWrite_eq {n cmd : Nat} {s : State} (hn : n < 16) (hs : inService s = true) (f : Nat → State → State) :
    ctxWrite n cmd f s = f n (writeLogged 0x10018 (n + at' cmd 4) s) := by
  simp only [ctxWrite, bar0Write, if_pos hn, if_pos hs, writeLogged]

theorem ctxBegin_eq {n : Nat} {s : State} (hidle : (ctxOf s n).state = .idle) (hlog : logging s = false) (hcfg : ctxCfgBad s (ctxOf s n) = false)
    (hover : overlapsActive s n = false) :
    ctxBegin n s = if (ctxOf s n).carried = false then ctxStart n (ctxRecord n s)
      else if (ctxOf s n).restore = true then ctxRestore n s else ctxStart n s := by
  simp only [ctxBegin, hidle, logCtx, logEvent_of_not_logging hlog, hcfg, hover]
  simp

theorem execCtxBegin_eq {n : Nat} {s : State} (hn : n < 16) (hs : inService s = true) (hlog : logging s = false) :
    execCtxBegin n s = .next (ctxBegin n s) := by
  rw [execCtxBegin, ctxWrite_eq hn hs, writeLogged_of_not_logging hlog]

theorem ctxStart_eq_with (n : Nat) (s : State) : ctxStart n s = { s with host := (ctxStart n s).host, out := (ctxStart n s).out } :=
  eq_with_host_out (ctxStart_outside (by simp) n s)

theorem eq_with_host_out_sync {s t : State} (h : outside [.host, .out, .sync] t = outside [.host, .out, .sync] s) :
    t = { s with host := t.host, out := t.out, sync := t.sync } := by
  rw [outside_eq_iff] at h
  simp at h
  cases t
  cases s
  simp_all

/-! ### Loading a save area -/

theorem tallies_foldl_setLine (l : List Nat) (f : State → Nat → Line) (p : Nat → Bool) (s : State) :
    (l.foldl (fun s k => if p k then setLine k (f s k) s else s) s).sync.tallies = s.sync.tallies := by
  induction l generalizing s with
  | nil => rfl
  | cons k l ih =>
    rw [List.foldl_cons, ih]
    split <;> rfl

theorem tally_foldl_setTally (base n : Nat) (v : Nat → Word) (s : State) :
    (∀ i < n, tally ((List.range n).foldl (fun s i => setTally (base + i) (v i) s) s) (base + i) = v i) := by
  induction n with
  | zero => intro i hi; omega
  | succ n ih =>
    intro i hi
    rw [List.range_succ, List.foldl_append, List.foldl_cons, List.foldl_nil, tally_setTally]
    split
    case isTrue h => rw [show i = n by omega]
    case isFalse h => exact ih i (by omega)

theorem tally_loadSave (c : Ctx) (b : List Byte) (s : State) {i : Nat} (h : i < c.count.toNat) :
    tally (loadSave c b s) (c.base.toNat + i) = BitVec.ofNat 32 (fieldAt b (64 + 4 * i) 0 32) := by
  rw [tally, loadSave, tallies_foldl_setLine]
  exact tally_foldl_setTally _ _ _ s i h

/-! ### The end of a context -/

theorem tallies_clearLine (l : Nat) (s : State) : (clearLine l s).sync.tallies = s.sync.tallies := by
  simp only [clearLine]
  rw [sync_of_outside (ledgerMove_outside (by simp) ..)]
  rfl

theorem tallies_clearLines (mask : Word) (s : State) : (clearLines mask s).sync.tallies = s.sync.tallies := by
  rw [clearLines]
  generalize (List.range 32).filter (bitOf mask.toNat) = l
  induction l generalizing s with
  | nil => rfl
  | cons k l ih => rw [List.foldl_cons, ih, tallies_clearLine]

/-- The end of a context whose result is `r`, on the state `u` that its tidying or saving leaves. -/
def ctxEnded (n : Nat) (lines : Word) (r : Nat) (k : Bool) (i : Nat) (u : State) : State :=
  let s2 := clearLines lines u
  ctxDone n .idle r (setCtx n { ctxOf s2 n with mismatchKind := k, mismatchIndex := i } s2)

theorem execCtxEndFinish_tidy {n : Nat} {s : State} (hend : (ctxOf s n).state = .ending) (hdescs : ∀ d ∈ s.descs, d.ctx.toNat ≠ n)
    (hcarried : (ctxOf s n).carried = false) :
    execCtxEndFinish n s = .next (ctxEnded n (ctxOf s n).lines (tidyResult s (ctxOf s n)).1 (tidyResult s (ctxOf s n)).2.1
      (tidyResult s (ctxOf s n)).2.2 s) := by
  have hnone : (s.descs.any fun d => d.ctx.toNat == n) = false := List.any_eq_false.mpr fun d hd => by simpa using hdescs d hd
  simp only [execCtxEndFinish, hend, hnone, hcarried]
  rfl

theorem execCtxEndFinish_save {n : Nat} {s : State} (hend : (ctxOf s n).state = .ending) (hdescs : ∀ d ∈ s.descs, d.ctx.toNat ≠ n)
    (hcarried : (ctxOf s n).carried = true) :
    execCtxEndFinish n s = .next (ctxEnded n (ctxOf s n).lines (ctxSave s (ctxOf s n)).1 false 0 (ctxSave s (ctxOf s n)).2) := by
  have hnone : (s.descs.any fun d => d.ctx.toNat == n) = false := List.any_eq_false.mpr fun d hd => by simpa using hdescs d hd
  simp only [execCtxEndFinish, hend, hnone, hcarried]
  rfl

theorem ctxOf_ctxEnded (n : Nat) (lines : Word) (r : Nat) (k : Bool) (i : Nat) (u : State) :
    let c := ctxOf (ctxEnded n lines r k i u) n
    c.state = .idle ∧ c.result = r ∧ c.mismatchKind = k ∧ c.mismatchIndex = i := by
  dsimp only
  rw [ctxEnded]
  dsimp only
  rw [ctxOf_ctxDone, ctxOf_setCtx_same]
  exact ⟨rfl, rfl, rfl, rfl⟩

theorem tallies_ctxEnded (n : Nat) (lines : Word) (r : Nat) (k : Bool) (i : Nat) (u : State) :
    (ctxEnded n lines r k i u).sync.tallies = u.sync.tallies := by
  rw [ctxEnded]
  dsimp only
  rw [sync_of_outside (ctxDone_outside (by simp) ..)]
  exact tallies_clearLines lines u

theorem mem_ctxEnded (n : Nat) (lines : Word) (r : Nat) (k : Bool) (i : Nat) (u : State) : (ctxEnded n lines r k i u).mem = u.mem := by
  rw [ctxEnded]
  dsimp only
  rw [mem_of_outside (ctxDone_outside (by simp) ..)]
  exact mem_of_outside (clearLines_outside (by simp) lines u)

/-! ### CRING_CFG -/

theorem cring_writeCringCfg_enable {c : Nat} {v : Word} {s : State} (hen : (cring s c).en = false) (hv : v.getLsbD 0 = true)
    (hlo : 6 ≤ v.toNat / 2 % 32) (hhi : v.toNat / 2 % 32 ≤ 20) :
    cring (writeCringCfg c v s) c = { cring s c with en := true, log2 := BitVec.ofNat 5 (v.toNat / 2), irqEn := v.getLsbD 6,
                                                     modUs := BitVec.ofNat 16 (v.toNat / 256), p := 0, cons := 0 } := by
  have hlog : (v >>> 1).setWidth 5 = BitVec.ofNat 5 (v.toNat / 2) := by
    apply BitVec.eq_of_toNat_eq
    simp [Nat.shiftRight_eq_div_pow]
  have hmod : (v >>> 8).setWidth 16 = BitVec.ofNat 16 (v.toNat / 256) := by
    apply BitVec.eq_of_toNat_eq
    simp [Nat.shiftRight_eq_div_pow]
  have hrange : 6 ≤ (BitVec.ofNat 5 (v.toNat / 2)).toNat ∧ (BitVec.ofNat 5 (v.toNat / 2)).toNat ≤ 20 := by
    rw [BitVec.toNat_ofNat]
    exact ⟨hlo, hhi⟩
  simp only [writeCringCfg, hen, hv, hlog, hmod, hrange]
  simp

/-- Settles O15: each command takes the branch that its context's state and configuration give it. -/
theorem ringRegistersAndContextsComplete : Obligations.RingRegistersAndContextsComplete := by
  refine ⟨fun c v s hc hs => ?_, fun c v s hen hv hlo hhi => cring_writeCringCfg_enable hen hv hlo hhi, fun n reg v s hn hs => ?_,
    fun n s hn hs hidle hlog hcfg hover hcarried => ?_, fun n s hn hs hidle hlog hcfg hover hcarried hrestore => ?_,
    fun n s hn hs hidle hlog hcfg hover hcarried hrestore hbad hmatch => ?_, fun n s u hn hs hu hactive => ?_, fun n s u hn hs hu hactive => ?_,
    fun n s hend hdescs hcarried htally hline => ?_, fun n s i hend hdescs hcarried htally => ?_, fun n s hend hdescs hcarried hbad => ?_⟩
  · exact ⟨_, rfl, by simp only [if_pos hc, bar0Write, if_pos hs]; rfl⟩
  · exact ⟨_, rfl, by simp only [if_pos hn, bar0Write, if_pos hs]; rfl⟩
  · have hnext : execCtxBegin n s = .next (ctxStart n (ctxRecord n s)) := by
      rw [execCtxBegin_eq hn hs hlog, ctxBegin_eq hidle hlog hcfg hover, if_pos hcarried]
    refine ⟨_, hnext, eq_with_host_out ((ctxStart_outside (by simp) ..).trans (ctxRecord_outside (by simp) ..)), ?_⟩
    rw [ctxOf_ctxStart, ctxRecord, ctxOf_setCtx_same]
    exact ⟨rfl, rfl, rfl, rfl⟩
  · have hnext : execCtxBegin n s = .next (ctxStart n s) := by
      rw [execCtxBegin_eq hn hs hlog, ctxBegin_eq hidle hlog hcfg hover, hcarried, hrestore]
      simp
    refine ⟨_, hnext, ctxStart_eq_with n s, ?_⟩
    rw [ctxOf_ctxStart]
    exact ⟨rfl, rfl⟩
  · have hnext : execCtxBegin n s = .next (ctxStart n (loadSave (ctxOf s n)
        (readBytes (settled s) .bar2 (ctxOf s n).save.toNat (saveBytes (ctxOf s n))) s)) := by
      rw [execCtxBegin_eq hn hs hlog, ctxBegin_eq hidle hlog hcfg hover, hcarried, hrestore]
      simp [ctxRestore, hbad, hmatch]
    refine ⟨_, hnext, eq_with_host_out_sync ((ctxStart_outside (by simp) ..).trans (loadSave_outside (by simp) ..)), ?_, ?_, fun i hi => ?_⟩
    · rw [ctxOf_ctxStart]
    · rw [ctxOf_ctxStart]
      rfl
    · rw [tally, sync_of_outside (ctxStart_outside (by simp) ..)]
      exact tally_loadSave _ _ s hi
  · refine ⟨_, by rw [show exec (.ctxEnd n) s = .next (ctxWrite n 2 ctxEnd s) from rfl, ctxWrite_eq hn hs], ?_⟩
    rw [show n + at' 2 4 = n + 32 from rfl, ← hu, ctxEnd, hactive]
    rfl
  · refine ⟨_, by rw [show exec (.ctxAbort n) s = .next (ctxWrite n 3 ctxAbort s) from rfl, ctxWrite_eq hn hs], ?_⟩
    rw [show n + at' 3 4 = n + 48 from rfl, ← hu, ctxAbort]
    rcases hactive with h | h <;> simp [h]
  · have hres : tidyResult s (ctxOf s n) = (1, false, 0) := by simp only [tidyResult, htally, hline]; rfl
    obtain ⟨hstate, hresult, -, -⟩ := ctxOf_ctxEnded n (ctxOf s n).lines 1 false 0 s
    exact ⟨_, (execCtxEndFinish_tidy hend hdescs hcarried).trans (by rw [hres]), hstate, hresult, tallies_ctxEnded ..⟩
  · have hres : tidyResult s (ctxOf s n) = (2, false, i) := by simp only [tidyResult, htally]; rfl
    obtain ⟨hstate, hresult, hkind, hindex⟩ := ctxOf_ctxEnded n (ctxOf s n).lines 2 false i s
    exact ⟨_, (execCtxEndFinish_tidy hend hdescs hcarried).trans (by rw [hres]), hstate, hresult, hkind, hindex, tallies_ctxEnded ..⟩
  · have hres : (ctxSave s (ctxOf s n)).1 = 1 := by
      simp only [ctxSave, partBadAt, hbad]
      rfl
    obtain ⟨hstate, hresult, -, -⟩ := ctxOf_ctxEnded n (ctxOf s n).lines 1 false 0 (ctxSave s (ctxOf s n)).2
    refine ⟨_, (execCtxEndFinish_save hend hdescs hcarried).trans (by rw [hres]), hstate, hresult, ?_, mem_ctxEnded ..⟩
    rw [tallies_ctxEnded]
    exact congrArg Sync.tallies (sync_of_outside (storeReceived_outside (by simp) ..))

end Sys2Proof.Machine
end

section
/-! PROOFS. What a NOP does to a copy that has not started (R40, R44). -/

namespace Sys2Proof.Machine

/-- A NOP of two cores of CD0, the first of which runs while the second has not started (R40: each copy goes on by itself). -/
def halfStartedNop : Desc :=
  { ref := { ring := 0, index := 0 }, bytes := [0, 0, 0, 0], ctx := 0, prio := 0, dispatched := true, order := 0,
    copies := [{ target := .core 0 0, st := .running, stage := 0, since := 0, report := none },
               { target := .core 0 1, st := .queued, stage := 0, since := 0, report := none }],
    start := some 0, lateness := 0, outcome := none, detailAll := none, collided := false, deps := 0, waiting := none, replayed := false,
    pair := none }

def halfStartedState : State := { State.reset with ms := { ModState.reset with mode := .full }, descs := [halfStartedNop] }

/-- The copy that has not started stays in its core's queue. -/
theorem nop_halfStarted : ∀ t, execNop halfStartedNop.ref halfStartedState = .next t →
    (findDesc t halfStartedNop.ref).map (fun y => y.copies.map (·.st)) = some [.done, .queued] := by
  intro t ht
  cases ht
  decide +kernel

/-- Refutes O16: a NOP ends only the copies that run; one that has not started is not done. -/
theorem not_hostUnitComplete : ¬ Obligations.HostUnitComplete := by
  unfold Obligations.HostUnitComplete
  rintro ⟨hnop, -⟩
  obtain ⟨t, ht, -, y, hy, hcopies⟩ := hnop halfStartedNop.ref halfStartedNop halfStartedState ⟨rfl, by decide, by decide⟩
  have hqueued := nop_halfStarted t ht
  rw [hy, Option.map_some, hcopies] at hqueued
  exact absurd hqueued (by decide)

end Sys2Proof.Machine
end

section
/-! PROOFS. What an MMA with a CHAIN does where two copies of it name one core (R40, R103). -/

namespace Sys2Proof.Machine

/-- The 64 bytes of a record: fields of `n` bytes at their offsets, and 0 elsewhere. -/
def recordOf (fs : List (Nat × Nat × Nat)) : List Byte :=
  fs.foldl (fun b f => b.take f.1 ++ leBytes f.2.1 f.2.2 ++ b.drop (f.1 + f.2.1)) (List.replicate 64 0)

/-- The record of a 1 × 1 tensor of one format at an address. -/
def oneByOne (base fmt : Nat) : List Byte := recordOf [(0, 7, base + fmt * 2 ^ 44 + 2 * 2 ^ 48), (12, 3, 1), (15, 3, 1), (30, 5, 128)]

/-- A module in Full service whose memory holds the records of the three tensors of a product. -/
def productState : State :=
  let full : State := { State.reset with ms := { ModState.reset with mode := .full } }
  let bytes := (oneByOne 0x1000 1).zipIdx.map (fun (b, i) => (0x200 + i, b)) ++ (oneByOne 0x2000 1).zipIdx.map (fun (b, i) => (0x240 + i, b)) ++
    (oneByOne 0x3000 0).zipIdx.map (fun (b, i) => (0x280 + i, b))
  { full with mem := putBytes full.mem (bytes.filterMap fun (a, b) => (access full .iod a).map fun p => (p.key, b)) }

/-- An MMA whose rows go to a CHAIN, with two copies on core 0 of CD0: one that runs and one that has not started. -/
def twofoldMma : Desc :=
  { ref := ⟨0, 0⟩, bytes := recordOf [(0, 1, 0x10), (5, 1, 1), (16, 8, 0x200), (24, 8, 0x240), (32, 8, 0x280), (44, 1, 1), (42, 1, 0x80)], ctx := 0, prio := 0,
    dispatched := true, order := 0,
    copies := [{ target := .core 0 0, st := .running, stage := 0, since := 0, report := none },
               { target := .core 0 0, st := .queued, stage := 0, since := 0, report := none }],
    start := some 0, lateness := 0, outcome := none, detailAll := none, collided := false, deps := 0, waiting := none, replayed := false,
    pair := some ⟨0, 1⟩ }

def twofoldState : State := { productState with descs := [twofoldMma] }

theorem firstReport_twofold : (firstReport (mmaCopies twofoldState .mma twofoldMma)).isNone = true := by decide +kernel

/-- The copy that has not started is put at stage 1 with the one that runs, but does not run. -/
theorem mma_twofold : (findDesc (atStage twofoldMma.ref .mma 0 (runMatrix .mma) twofoldState) twofoldMma.ref).map (fun y =>
    y.copies.map fun k => (k.target, k.st)) = some [(.core 0 0, .running), (.core 0 0, .queued)] := by
  decide +kernel

/-- Refutes O17: where two copies name one core, that one of them runs does not make the other run. -/
theorem not_matrixCommandsComplete : ¬ Obligations.MatrixCommandsComplete := by
  unfold Obligations.MatrixCommandsComplete
  rintro ⟨⟨hmma, -⟩, -⟩
  obtain ⟨-, hchain, -⟩ := hmma .mma (.mma twofoldMma.ref) twofoldMma.ref twofoldMma twofoldState (.inl ⟨rfl, rfl⟩) ⟨rfl, by decide, by decide⟩
    (show productState.mem.bad = [] by decide +kernel) rfl (fun y hy => nomatch hy) (Option.isNone_iff_eq_none.mp firstReport_twofold)
  obtain ⟨t, ht, -, -, -, -, -, y, hy, hcopies⟩ := hchain (by decide)
  have hnext : exec (.mma twofoldMma.ref) twofoldState = .next (atStage twofoldMma.ref .mma 0 (runMatrix .mma) twofoldState) := rfl
  rw [hnext] at ht
  injection ht with ht
  have hqueued := mma_twofold
  rw [ht, hy, Option.map_some, Option.some_inj] at hqueued
  have hmem : (Target.core 0 0, CopyState.queued) ∈ y.copies.map fun k => (k.target, k.st) := by rw [hqueued]; decide
  obtain ⟨k, hk, heq⟩ := List.mem_map.mp hmem
  obtain ⟨htarget, hst⟩ := Prod.mk.inj heq
  have hrun := (hcopies k hk (by rw [htarget]; decide)).1
  rw [hst] at hrun
  cases hrun

end Sys2Proof.Machine
end

section
/-! PROOFS. What an OPT_STEP does where two copies of it are at different stages (R230). -/

namespace Sys2Proof.Machine

/-- An OPT_STEP that is not gated, with a copy at its start and a copy behind its gate. -/
def twofoldOpt : Desc :=
  { ref := ⟨0, 0⟩, bytes := [0x49, 0, 0, 4] ++ List.replicate 60 0, ctx := 0, prio := 0, dispatched := true, order := 0,
    copies := [{ target := .hearth, st := .running, stage := 0, since := 0, report := none },
               { target := .hearth, st := .running, stage := 1, since := 0, report := none }],
    start := some 0, lateness := 0, outcome := none, detailAll := none, collided := false, deps := 0, waiting := none, replayed := false,
    pair := none }

def twofoldOptState : State := { State.reset with ms := { ModState.reset with mode := .full }, descs := [twofoldOpt] }

/-- The copy at its start fails the checks, and the descriptor ends. -/
theorem optStep_twofold : ∀ t, execOptStep twofoldOpt.ref twofoldOptState = .next t →
    (findDesc t twofoldOpt.ref).map (fun y => y.copies.map (·.st)) = some [.done, .done] := by
  intro t ht
  cases ht
  decide +kernel

/-- Refutes O21: a copy that is still at its start is not left as it was. -/
theorem not_hearthCommandsComplete : ¬ Obligations.HearthCommandsComplete := by
  unfold Obligations.HearthCommandsComplete
  rintro ⟨-, -, hrun, -⟩
  obtain ⟨t, ht, -, -, -, y, hy, -, hkept⟩ := hrun twofoldOpt.ref twofoldOpt twofoldOptState ⟨rfl, by decide, by decide⟩ (by decide) rfl rfl
    (.inl (by decide))
  have hdone := optStep_twofold t ht
  have hfirst := hkept { target := .hearth, st := .running, stage := 0, since := 0, report := none } (by decide) (by decide)
  have hmem := List.mem_map_of_mem (f := (·.st)) hfirst
  rw [show findDesc t twofoldOpt.ref = some y from hy, Option.map_some, Option.some_inj] at hdone
  rw [hdone] at hmem
  exact absurd hmem (by decide)

end Sys2Proof.Machine
end

section
/-! PROOFS. Reads, the scrubber and the BAR2 window (R169, R172, R174, R179 to R182). -/

namespace Sys2Proof.Machine

/-! ### What a read returns -/

theorem eccOf_of_clean {s : State} {p : Place} (h : symbolsAt s.mem p = 0) (e : Ecc) : eccOf s p e = e := by
  simp [eccOf, h]

theorem symbolsAt_of_nil {s : State} (h : s.mem.bad = []) (p : Place) : symbolsAt s.mem p = 0 := by
  rw [symbolsAt, h]
  rfl

/-- What a read at a place does of what its code says. -/
def readOf (bad : Byte → State) (p : Place) (s : State) : Ecc → State
  | .clean => s
  | .corrected => countCorrected p s
  | .miscorrected bs => miscorrect p bs s
  | .uncorrectable sy => bad sy

theorem execMemReadReturn_eq {r : Ref} {core : Nat} {addr : BitVec 44} {x : Desc} {c : Copy} {p : Place} {s : State}
    (hfind : findDesc s r = some x) (hcopy : copyAt x (targetOfCore x core) = some c) (hbusy : c.st.busy = true) (hout : x.outcome = none)
    (hplace : (resolveAlias (rqOf (targetOfCore x core)) addr.toNat).bind (placeOf s) = some p) (hfence : isFenced s p.die = false)
    (hclean : symbolsAt s.mem p = 0) (e : Ecc) :
    execMemReadReturn r core addr e s =
      .next (readOf (fun sy => memUncorrectable r (targetOfCore x core) addr.toNat p (readSource x) (symbolsOf sy) (markBad p sy s)) p s e) := by
  simp only [execMemReadReturn, hfind]
  generalize targetOfCore x core = t at hcopy hplace ⊢
  cases t <;>
  · simp only [rqOf] at hplace
    simp only [hcopy, hplace, hout, hbusy, hfence, eccOf_of_clean hclean]
    cases e <;> rfl

theorem execScrub_eq {addr : BitVec 44} {p : Place} {s : State} (hs : inService s = true) (hplace : placeOf s addr.toNat = some p)
    (hfence : isFenced s p.die = false) (hfilled : ∀ st x, p = .stack st x → s.mem.filled.get false st = true) (hclean : symbolsAt s.mem p = 0)
    (e : Ecc) :
    execScrub addr e s = .next (readOf (fun sy => (logMemErr addr.toNat p 2 7 0xFFFF (symbolsOf sy) (markBad p sy s)).2) p s e) := by
  simp only [execScrub, hplace, hs, hfence, eccOf_of_clean hclean]
  cases p with
  | stack st x =>
    simp only [hfilled st x rfl]
    cases e <;> rfl
  | _ => cases e <;> rfl

/-- What the error log and its count leave of memory. -/
theorem logMemErr_mem (a : Nat) (p : Place) (source unit core : Nat) (symbols : Byte) (s : State) :
    let t := (logMemErr a p source unit core symbols s).2
    t = { s with mem := t.mem } ∧ t.mem.bytes = s.mem.bytes ∧ t.mem.bad = s.mem.bad ∧ (s.mem.errLog = [] → t.mem.errCount = s.mem.errCount + 1) := by
  simp only [logMemErr]
  split
  case h_1 e hrecent =>
    refine ⟨rfl, rfl, rfl, fun h => ?_⟩
    rw [h] at hrecent
    cases hrecent
  case h_2 => exact ⟨rfl, rfl, rfl, fun _ => rfl⟩

theorem symbolsAt_markBad (p : Place) (sy : Byte) (s : State) : symbolsAt (markBad p sy s).mem p = symbolsOf sy := Tab.get_put_same _

theorem scrub_uncorrectable (a : Nat) (p : Place) (source unit core : Nat) (symbols sy : Byte) (s : State) :
    let t := (logMemErr a p source unit core symbols (markBad p sy s)).2
    t = { s with mem := t.mem } ∧ t.mem.bytes = s.mem.bytes ∧ symbolsAt t.mem p = symbolsOf sy := by
  obtain ⟨heq, hbytes, hbad, -⟩ := logMemErr_mem a p source unit core symbols (markBad p sy s)
  refine ⟨heq, hbytes, ?_⟩
  rw [symbolsAt, hbad]
  exact symbolsAt_markBad p sy s

/-! ### A read of the window -/

/-- The state with other counts of corrected codewords. -/
def withCounts (s : State) (a b : Tab Stat) : State := { s with mem := { s.mem with ceStack := a, ceSram := b } }

theorem countCorrected_counts (p : Place) (s : State) : ∃ a b, countCorrected p s = withCounts s a b := by
  cases p <;> exact ⟨_, _, rfl⟩

theorem checkBar2_counts {errors : List (Nat × Ecc)} (herr : ∀ e ∈ errors, e.2 = .clean ∨ e.2 = .corrected) (a n : Nat) {s : State}
    (hbad : s.mem.bad = []) : ∃ x y, checkBar2 a n errors s = withCounts s x y := by
  induction errors generalizing s with
  | nil => exact ⟨s.mem.ceStack, s.mem.ceSram, rfl⟩
  | cons e errors ih =>
    have hrest := fun {u : State} (hu : u.mem.bad = []) => ih (fun e he => herr e (List.mem_cons_of_mem _ he)) (s := u) hu
    rw [checkBar2, List.foldl_cons, ← checkBar2]
    split
    · exact hrest hbad
    · next p _ =>
      split
      · exact hrest hbad
      · rw [eccOf_of_clean (symbolsAt_of_nil hbad p)]
        rcases herr e (List.mem_cons_self ..) with h | h <;> rw [h]
        · exact hrest hbad
        · obtain ⟨x, y, hcount⟩ := countCorrected_counts p s
          rw [hcount]
          obtain ⟨x', y', hchecked⟩ := hrest (u := withCounts s x y) hbad
          exact ⟨x', y', hchecked⟩

theorem afterWrites_bytes (s : State) : (afterWrites s).mem.bytes =
    if s.ember.heldWrites.isEmpty then s.mem.bytes else
      (putBytes s.mem (s.ember.heldWrites.filterMap fun h => if h.owner.isNone then some (h.key, h.byte) else none)).bytes := by
  unfold afterWrites
  split <;> rfl

/-- The bytes that a read of the window returns. -/
def windowBytes (s : State) (a n : Nat) : List Byte :=
  (List.range n).map fun i =>
    match bar2Place s (a + i) with
    | some p => if underTest s p then 0 else byteAt (afterWrites s).mem p.key
    | none => 0

theorem windowBytes_withCounts (s : State) (x y : Tab Stat) (a n : Nat) : windowBytes (withCounts s x y) a n = windowBytes s a n := by
  have hbytes : (afterWrites (withCounts s x y)).mem.bytes = (afterWrites s).mem.bytes := by
    rw [afterWrites_bytes, afterWrites_bytes]
    rfl
  simp only [windowBytes, byteAt, hbytes]
  rfl

/-- The first codeword of a read of the window that is uncorrectable. -/
def windowBad (s : State) (a n : Nat) : Option (Nat × Place) :=
  (List.range n).findSome? fun i =>
    match bar2Place s (a + i) with
    | some p => if !underTest s p && s.mem.bad.get 0 (codeword p.key) != 0 then some (a + i, p) else none
    | none => none

theorem windowBad_of_nil {s : State} (h : s.mem.bad = []) (a n : Nat) : windowBad s a n = none := by
  rw [windowBad, List.findSome?_eq_none_iff]
  intro i _
  rw [h]
  split
  · exact if_neg (by rw [show Tab.get 0 [] _ = (0 : Byte) from rfl]; simp)
  · rfl

theorem serveBar2_eq (a n : Nat) (errors : List (Nat × Ecc)) (tag : Nat) (s : State) :
    serveBar2 a n errors tag s = match windowBad (checkBar2 a n errors s) a n with
      | some (x, p) => emit (.pcieAbort tag) (logMemErr x p 3 7 0xFFFF (symbolsAt (checkBar2 a n errors s).mem p) (checkBar2 a n errors s)).2
      | none => emit (.pcieData tag (windowBytes (checkBar2 a n errors s) a n)) (checkBar2 a n errors s) := rfl

theorem execBar2Read_served {offset : BitVec 34} {len : Nat} {s : State} (hs : inService s = true) (hfilled : unfilledAt s (bar2Addr s offset) len = none)
    (errors : List (Nat × Ecc)) (tag : Nat) : execBar2Read offset len errors tag s = .next (serveBar2 (bar2Addr s offset) len errors tag s) := by
  simp [execBar2Read, hs, readBar2, hfilled]

theorem serveBar2_counts {errors : List (Nat × Ecc)} (herr : ∀ e ∈ errors, e.2 = .clean ∨ e.2 = .corrected) (a n tag : Nat) {s : State}
    (hbad : s.mem.bad = []) : ∃ x y, serveBar2 a n errors tag s = emit (.pcieData tag (windowBytes s a n)) (withCounts s x y) := by
  obtain ⟨x, y, hchecked⟩ := checkBar2_counts herr a n hbad
  refine ⟨x, y, ?_⟩
  rw [serveBar2_eq, hchecked, windowBad_of_nil (s := withCounts s x y) hbad, windowBytes_withCounts]

theorem checkBar2_single {a n i : Nat} {p : Place} {s : State} (hi : i < n) (hplace : bar2Place s (a + i) = some p) (htest : underTest s p = false)
    (hclean : symbolsAt s.mem p = 0) (sy : Byte) : checkBar2 a n [(i, .uncorrectable sy)] s = markBad p sy s := by
  simp [checkBar2, hi, hplace, htest, eccOf_of_clean hclean]

theorem symbolsOf_ne_zero (sy : Byte) : symbolsOf sy ≠ 0 := by
  unfold symbolsOf
  split
  case isTrue h => rcases h with rfl | rfl <;> decide
  case isFalse => decide

theorem windowBad_markBad {a n i : Nat} {p : Place} {s : State} (hi : i < n) (hplace : bar2Place s (a + i) = some p) (htest : underTest s p = false)
    (sy : Byte) : ∃ q, windowBad (markBad p sy s) a n = some q := by
  have hbad : (markBad p sy s).mem.bad.get 0 (codeword p.key) ≠ 0 := by
    rw [show (markBad p sy s).mem.bad.get 0 (codeword p.key) = symbolsOf sy from symbolsAt_markBad p sy s]
    exact symbolsOf_ne_zero sy
  refine Option.ne_none_iff_exists'.mp fun hnone => ?_
  rw [windowBad, List.findSome?_eq_none_iff] at hnone
  have hat := hnone i (List.mem_range.mpr hi)
  rw [show bar2Place (markBad p sy s) (a + i) = some p from hplace] at hat
  dsimp only at hat
  rw [if_pos] at hat
  · cases hat
  · rw [show underTest (markBad p sy s) p = false from htest]
    simpa using hbad

theorem bar2Read_uncorrectable {offset : BitVec 34} {len i : Nat} {sy : Byte} {tag : Nat} {p : Place} {s : State} (hs : inService s = true)
    (hfilled : unfilledAt s (bar2Addr s offset) len = none) (hnil : s.mem.bad = []) (hi : i < len)
    (hplace : bar2Place s (bar2Addr s offset + i) = some p) (htest : underTest s p = false) :
    Completes (.bar2Read offset len [(i, .uncorrectable sy)] tag) s fun t =>
      t = { s with mem := t.mem, out := s.out ++ [.pcieAbort tag] } ∧ t.mem.bytes = s.mem.bytes ∧
        symbolsAt t.mem p = symbolsOf sy ∧ (s.mem.errLog = [] → t.mem.errCount = s.mem.errCount + 1) := by
  obtain ⟨⟨x, q⟩, hbad⟩ := windowBad_markBad hi hplace htest sy
  have hserve : serveBar2 (bar2Addr s offset) len [(i, .uncorrectable sy)] tag s =
      emit (.pcieAbort tag) (logMemErr x q 3 7 0xFFFF (symbolsAt (markBad p sy s).mem q) (markBad p sy s)).2 := by
    rw [serveBar2_eq, checkBar2_single hi hplace htest (symbolsAt_of_nil hnil p), hbad]
  refine ⟨_, (execBar2Read_served hs hfilled ..).trans (by rw [hserve]), ?_⟩
  obtain ⟨heq, hbytes, hsame, hcount⟩ := logMemErr_mem x q 3 7 0xFFFF (symbolsAt (markBad p sy s).mem q) (markBad p sy s)
  generalize (logMemErr x q 3 7 0xFFFF (symbolsAt (markBad p sy s).mem q) (markBad p sy s)).2 = u at *
  refine ⟨?_, hbytes, ?_, hcount⟩
  · rw [heq]
    rfl
  · show symbolsAt u.mem p = _
    rw [symbolsAt, hsame]
    exact symbolsAt_markBad p sy s

/-! ### A write of the window -/

theorem partBad_of_nil {m : Mem} (h : m.bad = []) (ws : List (Nat × Byte)) : partBad m ws = [] := by
  rw [partBad, h]
  rfl

theorem store_none_bytes (rq : Requester) (xs : List (Nat × Byte)) (s : State) :
    (store none false rq xs s).mem.bytes = (commit s.mem (madeNow s rq xs)).bytes := by
  have hnow : (xs.filterMap fun (a, b) => (access s rq a).map fun p => (heldBy s a, p.key, b)).filterMap
      (fun (h, k, b) => if h.isNone then some (k, b) else none) = madeNow s rq xs := by
    rw [List.filterMap_filterMap, madeNow]
    refine List.filterMap_congr fun x _ => ?_
    cases hh : heldBy s x.1 <;> cases ha : access s rq x.1 <;> simp [hh, ha]
  rw [← hnow]
  rfl

theorem store_none_eq (rq : Requester) (xs : List (Nat × Byte)) (s : State) :
    store none false rq xs s = { s with mem := (store none false rq xs s).mem, ember := (store none false rq xs s).ember } := rfl

theorem storeReceived_of_nil {s : State} (h : s.mem.bad = []) (rq : Requester) (xs : List (Nat × Byte)) :
    storeReceived rq xs s = store none false rq xs s := by
  rw [storeReceived, partBad_of_nil h]
  rfl

theorem mem_madeNow {s : State} {rq : Requester} {xs : List (Nat × Byte)} {w : Nat × Byte} (h : w ∈ madeNow s rq xs) :
    ∃ x ∈ xs, ∃ p, access s rq x.1 = some p ∧ w = (p.key, x.2) := by
  obtain ⟨x, hx, hw⟩ := List.mem_filterMap.mp h
  dsimp only at hw
  rw [Option.ite_none_left_eq_some] at hw
  obtain ⟨p, hp, heq⟩ := Option.map_eq_some_iff.mp hw.2
  exact ⟨x, hx, p, hp, heq.symm⟩

theorem addressed_split {a i : Nat} {bs : List Byte} (hi : i < bs.length) :
    ∃ pre post, addressed a bs = pre ++ (a + i, bs.getD i 0) :: post ∧ ∀ x ∈ post, ∃ j, i < j ∧ j < bs.length ∧ x.1 = a + j := by
  refine ⟨(addressed a bs).take i, (addressed a bs).drop (i + 1), ?_, fun x hx => ?_⟩
  · have hlen : i < (addressed a bs).length := by simpa [addressed] using hi
    have hat : (addressed a bs)[i] = (a + i, bs.getD i 0) := by simp [addressed, List.getD_eq_getElem?_getD, hi]
    rw [← hat, List.getElem_cons_drop, List.take_append_drop]
  · obtain ⟨j, hj, hx⟩ := List.mem_drop_iff_getElem.mp hx
    have hlen : (addressed a bs).length = bs.length := by simp [addressed]
    refine ⟨i + 1 + j, by omega, by omega, ?_⟩
    rw [← hx]
    simp [addressed]

theorem bar2Stores_split {a i : Nat} {bs : List Byte} {p : Place} {s : State} (hi : i < bs.length) (hacc : access s .bar2 (a + i) = some p)
    (hfence : isFenced s p.die = false) (htest : underTest s p = false) (hres : inReserved s (a + i) = false) :
    ∃ pre post, bar2Stores s a bs = pre ++ (a + i, bs.getD i 0) :: post ∧ ∀ x ∈ post, ∃ j, i < j ∧ j < bs.length ∧ x.1 = a + j := by
  obtain ⟨pre, post, hsplit, hpost⟩ := addressed_split (a := a) hi
  have hplace : bar2Place s (a + i) = some p := by simp [bar2Place, hacc, hfence]
  let keep (x : Nat × Byte) : Bool := (bar2Place s x.1).any (fun p => !underTest s p) && !inReserved s x.1
  refine ⟨pre.filter keep, post.filter keep, ?_, fun x hx => hpost x (List.mem_of_mem_filter hx)⟩
  rw [bar2Stores, hsplit, List.filter_append, List.filter_cons_of_pos (by simp [hplace, htest, hres])]

theorem byteAt_bar2Write {a i : Nat} {bs : List Byte} {p : Place} {s : State} (hnil : s.mem.bad = []) (hi : i < bs.length)
    (hacc : access s .bar2 (a + i) = some p) (hfence : isFenced s p.die = false) (htest : underTest s p = false)
    (hres : inReserved s (a + i) = false) (hheld : heldBy s (a + i) = none)
    (hlast : ∀ j q, i < j → j < bs.length → access s .bar2 (a + j) = some q → q.key ≠ p.key) :
    byteAt (store none false .bar2 (bar2Stores s a bs) s).mem p.key = bs.getD i 0 := by
  obtain ⟨pre, post, hsplit, hpost⟩ := bar2Stores_split hi hacc hfence htest hres
  rw [byteAt, store_none_bytes, ← byteAt]
  have hnow : madeNow s .bar2 (bar2Stores s a bs) = madeNow s .bar2 pre ++ (p.key, bs.getD i 0) :: madeNow s .bar2 post := by
    rw [hsplit, madeNow, List.filterMap_append, List.filterMap_cons_some (b := (p.key, bs.getD i 0)) (by simp [hheld, hacc])]
    rfl
  refine byteAt_commit_last s.mem (by rw [partBad_of_nil hnil]; exact List.not_mem_nil) hnow fun w hw => ?_
  obtain ⟨x, hx, q, hq, rfl⟩ := mem_madeNow hw
  obtain ⟨j, hij, hj, hxj⟩ := hpost x hx
  exact hlast j q hij hj (hxj ▸ hq)

theorem execBar2Write_eq {offset : BitVec 34} {bytes : List Byte} {s : State} (hs : inService s = true) (hlog : logging s = false)
    (hnil : s.mem.bad = []) :
    execBar2Write offset bytes s = .next (store none false .bar2 (bar2Stores s (bar2Addr s offset) bytes) s) := by
  simp [execBar2Write, hs, logEvent_of_not_logging hlog, writeBar2, storeReceived_of_nil hnil]

/-- Settles O19: a read or a scrub takes what the code says of the codeword, and a write of the window is one store. -/
theorem memoryCommandsComplete : Obligations.MemoryCommandsComplete := by
  refine ⟨fun r core addr x c p s hfind hcopy hbusy hout hplace hfence hclean => ?_, fun addr p s hs hplace hfence hfilled hclean => ?_,
    fun st x s => Tab.get_put_same _, fun offset len errors tag s hs hfilled hnil herr => ?_,
    fun offset len i sy tag p s hs hfilled hnil hi hplace htest => bar2Read_uncorrectable hs hfilled hnil hi hplace htest,
    fun offset len errors tag st s hs hfilled => ?_, fun offset bytes s hs hlog hnil => ?_⟩
  · have hread := execMemReadReturn_eq hfind hcopy hbusy hout hplace hfence hclean
    exact ⟨⟨_, hread _, rfl⟩, ⟨_, hread _, rfl⟩, fun sy => ⟨_, hread _, rfl⟩, fun bs => ⟨_, hread _, rfl⟩⟩
  · have hread := execScrub_eq hs hplace hfence hfilled hclean
    exact ⟨⟨_, hread _, rfl⟩, ⟨_, hread _, rfl⟩, fun sy => ⟨_, hread _, scrub_uncorrectable ..⟩, fun bs => ⟨_, hread _, rfl⟩⟩
  · obtain ⟨x, y, hserve⟩ := serveBar2_counts herr (bar2Addr s offset) len tag hnil
    exact ⟨_, (execBar2Read_served hs hfilled errors tag).trans (by rw [hserve]), rfl⟩
  · exact ⟨_, by rw [show exec (.bar2Read offset len errors tag) s = execBar2Read offset len errors tag s from rfl, execBar2Read, hs, readBar2, hfilled]; rfl, rfl⟩
  · refine ⟨_, execBar2Write_eq hs hlog hnil, store_none_eq .., fun key hkey => ?_, fun i p hi hacc hfence htest hres hheld hlast =>
      byteAt_bar2Write hnil hi hacc hfence htest hres hheld hlast⟩
    rw [byteAt, store_none_bytes, ← byteAt]
    refine byteAt_commit_of_unnamed _ _ key fun w hw hwk => ?_
    obtain ⟨x, hx, q, hq, rfl⟩ := mem_madeNow hw
    exact hkey x hx (by rw [hq, Option.map_some, ← hwk])

end Sys2Proof.Machine
end

section
/-! PROOFS. What the output of Field Time leaves when it is turned off (R260). -/

namespace Sys2Proof.Machine

/-- A module in Full service whose Field Time output has begun a pulse. -/
def pulsingState : State :=
  { State.reset with ms := { ModState.reset with mode := .full }, ft := { FieldTime.reset with outEn := true, pulseAt := some 0 } }

/-- Refutes O22: clearing EN of FT_OUT_CFG ends the pulse that goes out as well. -/
theorem not_fieldTimeComplete : ¬ Obligations.FieldTimeComplete := by
  unfold Obligations.FieldTimeComplete
  rintro ⟨-, -, -, -, -, -, -, -, -, -, -, -, -, -, hoff⟩
  obtain ⟨t, ht, heq⟩ := hoff 0 pulsingState rfl (by decide)
  have hnone : t.ft.pulseAt = none := by
    cases ht
    decide +kernel
  rw [heq] at hnone
  exact absurd hnone (by decide)

end Sys2Proof.Machine
end

section
/-! PROOFS. Time exchanges with a peer (R246, R248) and the taking of a slot plan (R257). -/

namespace Sys2Proof.Machine

theorem bar0Write_eq_writeLogged {off v : Nat} {f : State → State} {s : State} (hs : inService s = true) :
    bar0Write off v f s = f (writeLogged off v s) := by
  rw [bar0Write, if_pos hs]
  rfl

theorem portTime_setPortTime_same (p : Nat) (x : PortTime) (s : State) : portTime (setPortTime p x s) p = x :=
  Tab.get_put_same _

theorem portTime_setPortTime_other {p q : Nat} (hne : q ≠ p) (x : PortTime) (s : State) : portTime (setPortTime p x s) q = portTime s q :=
  Tab.get_put_other _ hne

/-- R248: what a port reports of its last exchanges: all but the mean that the model takes by `freeQuot`. -/
theorem reportTime_setPortTime_eq (p : Nat) (x : PortTime) (s : State) :
    ∃ (offset : Word) (delay : BitVec 16) (k : Nat),
      reportTime p (setPortTime p x s) =
        (let y := { x with offset := offset, delay := delay, valid := true, lastReply := some s.clk, sent := none, beyond := isOver s offset }
        { setPortTime p y (setPortTime p x s) with freeCtr := k }) ∧
      (∀ y : Int × Int, x.exchanges = [y] → offset = BitVec.ofInt 32 (8 * y.1)) := by
  have hquot (n : Int) (d : Nat) (u : State) : ∃ q k, freeQuot n d u = (q, { u with freeCtr := k }) ∧ (d = 1 → q = n) := by
    unfold freeQuot
    split
    · exact ⟨_, u.freeCtr, rfl, fun hd => by simp [hd]⟩
    · next h => exact ⟨_, _, rfl, fun hd => absurd (by simp [hd]) h⟩
  obtain ⟨o, k, ho, hone⟩ := hquot (8 * (x.exchanges.map (·.1)).sum) x.exchanges.length (setPortTime p x s)
  obtain ⟨d, k', hd, -⟩ := hquot ((x.exchanges.map (·.2)).sum) (2 * x.exchanges.length) { setPortTime p x s with freeCtr := k }
  refine ⟨BitVec.ofInt 32 o, BitVec.ofNat 16 (hold 0xFFFF d.toNat), k', ?_, fun y hy => ?_⟩
  · simp only [reportTime, portTime_setPortTime_same, ho, hd]
    rfl
  · rw [hone (by simp [hy])]
    simp [hy]

/-- R246: the reply to the request that left with t1, within 1 ms. -/
theorem execTimeRspReceive_eq {p : Nat} {t1 t2 : DWord} {turn : Word} {s : State} (hmode : timeMode s = true) (htrained : portTrained s p = true)
    (hsent : (portTime s p).sent = some t1) (hin : (s.ft.ft - t1).toNat ≤ 100000) (x : Int × Int)
    (hx : x = ((t2 - t1).toInt - (s.ft.ft - (t2 + turn.setWidth 64)).toInt, (t2 - t1).toInt + (s.ft.ft - (t2 + turn.setWidth 64)).toInt)) :
    execTimeRspReceive p t1 t2 turn false s =
      .next (reportTime p (setPortTime p { portTime s p with exchanges := (x :: (portTime s p).exchanges).take 16 } s)) := by
  subst hx
  rw [execTimeRspReceive, if_neg (by simp only [hmode, htrained, hsent]; simpa using hin)]

/-- R246: a request that finds no word before it leaves at once, and its port keeps its stamp. -/
theorem sent_sendWord_timeReq {p : Nat} {s : State} (hwords : (portOf s p).tx.words = []) (hroom : (portOf s p).tx.unacked.length < 512) (t1 : DWord) :
    (portTime (sendWord p (.timeReq t1) s) p).sent = some s.ft.ft := by
  rw [sendWord, hwords, if_pos (by simp [hroom])]
  exact congrArg PortTime.sent (Tab.get_put_same _)

theorem execFtPlanEnable_eq {b : Nat} {s : State} (hb : b < 2) (hs : inService s = true) :
    execFtPlanEnable b s = .next (enablePlan b (writeLogged (0x110218 + 0x40 * b) 1 s)) := by
  rw [execFtPlanEnable, if_pos hb, bar0Write_eq_writeLogged hs]
  rfl

theorem enablePlan_passed {b : Nat} {s : State} {m : Byte} {es : List PlanEntry} (hen : (planOf s b).en = false)
    (hok : planCheck s (planOf s b) = .ok (m, es)) :
    enablePlan b s =
      if (bitOf m.toNat 6 || bitOf m.toNat 7) = true ∧ claimHolder s 2 = 1 then
        claimEvent 2 0 2 1 (setPlan b { planOf s b with err := 5, errEntry := 0 } s)
      else setPlan b { planOf s b with en := true, err := 0, errEntry := 0, vcMask := m, entries := es } s := by
  rw [enablePlan, if_neg (by simp [hen]), hok]
  simp only [planClaims, Bool.true_and]
  split <;> split <;> simp_all

theorem enablePlan_failed {b : Nat} {s : State} {e i : Nat} (hen : (planOf s b).en = false) (herr : planCheck s (planOf s b) = .error (e, i)) :
    enablePlan b s = setPlan b { planOf s b with err := e, errEntry := i } s := by
  rw [enablePlan, if_neg (by simp [hen]), herr]

/-- Settles O23: by what a port keeps of its exchanges and what the check of a plan answers. -/
theorem timeExchangesAndPlansComplete : Obligations.TimeExchangesAndPlansComplete := by
  refine ⟨⟨fun p s hmode htrained => ?_, fun p t1 s hmode htrained => ?_, fun p t1 replay s hmode => ?_, fun p t1 s => ⟨_, rfl, rfl⟩,
    fun p t1 t2 turn s hmode htrained hsent hin => ?_, fun p s c hvalid hlast hlate => ?_⟩, fun b s hb hs => ?_⟩
  · refine ⟨_, congrArg Host.Outcome.next (if_pos (by simp [hmode, htrained])), rfl, fun hwords hroom => sent_sendWord_timeReq hwords hroom _⟩
  · exact ⟨_, congrArg Host.Outcome.next (if_neg (by simp [hmode, htrained])), rfl⟩
  · exact ⟨_, congrArg Host.Outcome.next (if_pos (by simp [hmode])), rfl⟩
  · intro out back
    refine ⟨_, execTimeRspReceive_eq hmode htrained hsent hin (out - back, out + back) rfl, ?_⟩
    obtain ⟨offset, delay, k, heq, hone⟩ := reportTime_setPortTime_eq p
      { portTime s p with exchanges := ((out - back, out + back) :: (portTime s p).exchanges).take 16 } s
    rw [heq]
    have hat (y x : PortTime) : portTime { setPortTime p y (setPortTime p x s) with freeCtr := k } p = y := Tab.get_put_same _
    rw [hat]
    exact ⟨rfl, rfl, rfl, rfl, rfl, fun q hq => (portTime_setPortTime_other hq ..).trans (portTime_setPortTime_other hq ..),
      fun hnone => hone (out - back, out + back) (by simp [hnone]), rfl⟩
  · refine ⟨setPortTime p { portTime s p with valid := false } s, ?_, rfl⟩
    simp [show exec (.timeReplyTimeout p) s = execTimeReplyTimeout p s from rfl, execTimeReplyTimeout, hlast, hvalid, hlate]
  · intro s1 hen
    refine ⟨fun m es hok hfree => ⟨_, execFtPlanEnable_eq hb hs, ?_⟩, fun m es hok hres hheld => ⟨_, execFtPlanEnable_eq hb hs, ?_⟩,
      fun e i herr => ⟨_, execFtPlanEnable_eq hb hs, enablePlan_failed hen herr⟩⟩
    · exact (enablePlan_passed hen hok).trans (if_neg fun h => by
        obtain ⟨hres, hheld⟩ := h
        exact hfree.elim (by simp [hres]) (· hheld))
    · exact (enablePlan_passed hen hok).trans (if_pos ⟨hres, hheld⟩)

end Sys2Proof.Machine
end

section
/-! PROOFS. The operations of tallies, and the waits that a change of a tally ends (R262, R264). -/

namespace Sys2Proof.Machine

/-! ### A copy that runs at its stage -/

theorem copyAtStage_eq {s : State} {r : Ref} {t : Target} {o : Op} {stage : Nat} {x : Desc} (h : CopyRunsAt s r t o stage x)
    (f : Desc → State → State) : copyAtStage r t o stage f s = f x s := by
  obtain ⟨hfind, hop, hout, c, hcopy, hrun, hstage⟩ := h
  simp only [copyAtStage, hfind, hcopy]
  exact if_pos (by simp [hop, hout, Copy.runs, hrun, hstage])

theorem report_of_toNat (status : Nat) (w : Word) : Report.of status w.toNat = { status := status, detail := w, nf := none, idx := none } := by
  simp [Report.of]

theorem tallyRow_eq {s : State} {r : Ref} {t : Target} {x : Desc} {o : Nat} (h : CopyRunsAt s r t .tally 0 x) (hpass : tallyError s x = none)
    (ho : tallyOp x = o) (f : Desc → State → State) : tallyRow r t o f s = f x s := by
  rw [tallyRow, copyAtStage_eq h]
  simp only [hpass, if_pos ho]

theorem tallyError_of_op {x : Desc} (h : 5 ≤ tallyOp x) (s : State) : tallyError s x = some 16 := by
  have hop : decide (4 < tallyOp x) = true := decide_eq_true (by omega)
  simp [tallyError, hop]

theorem tallyRow_rejected {s : State} {r : Ref} {t : Target} {x : Desc} (h : CopyRunsAt s r t .tally 0 x) (hop : 5 ≤ tallyOp x) (o : Nat)
    (f : Desc → State → State) : tallyRow r t o f s = finishCopy r t { status := 9, detail := 16, nf := none, idx := none } s := by
  rw [tallyRow, copyAtStage_eq h]
  simp only [tallyError_of_op hop]
  rfl

theorem satisfyTally_wait {x : Desc} (h : tallyOp x = 2) (s : State) : satisfyTally x s = (Report.of stOk (tally s (tallyNo x)).toNat, s) :=
  if_neg (by omega)

theorem satisfyTally_waitAdd {x : Desc} (h : tallyOp x = 3) (s : State) :
    satisfyTally x s = (Report.of stOk (tally s (tallyNo x) + tallyValue x).toNat, setTally (tallyNo x) (tally s (tallyNo x) + tallyValue x) s) :=
  if_pos h

/-! ### The waits that a change of a tally ends -/

theorem eq_with_sync_descs_freeCtr {s t : State} (h : outside [.sync, .descs, .freeCtr] t = outside [.sync, .descs, .freeCtr] s) :
    t = { s with sync := t.sync, descs := t.descs, freeCtr := t.freeCtr } := by
  rw [outside_eq_iff] at h
  simp at h
  cases t
  cases s
  simp_all

theorem mem_satisfiedOn {s : State} {i : Nat} {d : Desc} {t : Target} :
    (d, t) ∈ satisfiedOn s i ↔
      d ∈ s.descs ∧ (isTallyWait d && tallyNo d == i && d.outcome.isNone && tallySatisfied s d) = true ∧
        ∃ c ∈ d.copies, c.st.waits = true ∧ c.target = t := by
  simp only [satisfiedOn, List.mem_flatMap]
  constructor
  · rintro ⟨e, he, hmem⟩
    split at hmem
    · next hcond =>
      obtain ⟨c, hc, heq⟩ := List.mem_map.mp hmem
      obtain ⟨hin, hwaits⟩ := List.mem_filter.mp hc
      obtain ⟨rfl, rfl⟩ := Prod.mk.injEq .. ▸ heq
      exact ⟨he, hcond, c, hin, hwaits, rfl⟩
    · cases hmem
  · rintro ⟨he, hcond, c, hc, hwaits, rfl⟩
    exact ⟨d, he, by rw [if_pos hcond]; exact List.mem_map_of_mem (List.mem_filter.mpr ⟨hc, hwaits⟩)⟩

/-- The copies of a descriptor that wait. -/
def waitsIn (d : Desc) : Nat := d.copies.countP (·.st.waits)

/-- The copies of the module that wait. -/
def waitCount (s : State) : Nat := (s.descs.map waitsIn).sum

theorem waitCount_le_copyCount (s : State) : waitCount s ≤ copyCount s :=
  List.sum_le_sum fun _ _ => List.countP_le_length

theorem satisfiedOn_of_waitCount_zero {s : State} (h : waitCount s = 0) (i : Nat) : satisfiedOn s i = [] := by
  refine List.eq_nil_iff_forall_not_mem.mpr fun (d, t) hmem => ?_
  obtain ⟨hd, -, c, hc, hwaits, -⟩ := mem_satisfiedOn.mp hmem
  have hzero : waitsIn d = 0 := List.sum_eq_zero_iff.mp h _ (List.mem_map_of_mem hd)
  exact (List.countP_eq_zero.mp hzero c hc) hwaits

theorem waits_wake {c : CopyState} (h : c.waits = true) : c.wake.waits = false := by
  cases c with
  | parked | inPlace => rfl
  | _ => cases h

/-- What `endWait` makes of a copy. -/
def ended (rep : Report) (c : Copy) : Copy := if c.st.waits then { c with st := c.st.wake, report := some rep } else c

theorem waits_ended (rep : Report) (c : Copy) : (ended rep c).st.waits = false := by
  unfold ended
  split
  · next h => exact waits_wake h
  · next h => simpa using h

theorem waitsIn_updCopy_ended (t : Target) (rep : Report) (d : Desc) :
    waitsIn (updCopy t (ended rep) d) = d.copies.countP fun c => c.st.waits && !(c.target == t) := by
  rw [waitsIn, updCopy, List.countP_map]
  refine List.countP_congr fun c _ => ?_
  simp only [Function.comp_apply]
  split <;> simp_all [waits_ended]

theorem waitsIn_updCopy_ended_le (t : Target) (rep : Report) (d : Desc) : waitsIn (updCopy t (ended rep) d) ≤ waitsIn d := by
  rw [waitsIn_updCopy_ended]
  exact List.countP_mono_left fun c _ h => (Bool.and_eq_true_iff.mp h).1

theorem waitsIn_updCopy_ended_lt {t : Target} {d : Desc} {c : Copy} (hc : c ∈ d.copies) (hwaits : c.st.waits = true) (ht : c.target = t)
    (rep : Report) : waitsIn (updCopy t (ended rep) d) < waitsIn d := by
  obtain ⟨pre, post, hsplit⟩ := List.append_of_mem hc
  have hmono (l : List Copy) : (l.countP fun c => c.st.waits && !(c.target == t)) ≤ l.countP (·.st.waits) :=
    List.countP_mono_left fun c _ h => (Bool.and_eq_true_iff.mp h).1
  rw [waitsIn_updCopy_ended, waitsIn, hsplit]
  simp only [List.countP_append, List.countP_cons, hwaits, ht]
  have hpre := hmono pre
  have hpost := hmono post
  simp
  omega

theorem waitCount_endWait_lt {s : State} {i : Nat} {d : Desc} {t : Target} (h : (d, t) ∈ satisfiedOn s i) (rep : Report) :
    waitCount (endWait d.ref t rep s) < waitCount s := by
  obtain ⟨hd, -, c, hc, hwaits, ht⟩ := mem_satisfiedOn.mp h
  have hlist : (endWait d.ref t rep s).descs = s.descs.map fun e => if e.ref == d.ref then updCopy t (ended rep) e else e := rfl
  rw [waitCount, hlist, List.map_map]
  refine List.sum_lt_sum _ _ (fun e _ => ?_) ⟨d, hd, ?_⟩
  · simp only [Function.comp_apply]
    split
    · exact waitsIn_updCopy_ended_le ..
    · exact Nat.le_refl _
  · simpa using waitsIn_updCopy_ended_lt hc hwaits ht rep

/-- One wait on a tally that its value satisfies ends. -/
def settleOne (d : Desc) (t : Target) (k : Nat) (s : State) : State :=
  endWait d.ref t (satisfyTally d { s with freeCtr := k }).1 (satisfyTally d { s with freeCtr := k }).2

theorem getD_mem_cons {α : Type} (k : Nat) (x : α) (xs : List α) : (x :: xs).getD k x ∈ x :: xs := by
  rw [List.getD_eq_getElem?_getD]
  cases hk : (x :: xs)[k]? with
  | none => exact List.mem_cons_self
  | some y => exact List.mem_of_getElem? hk

theorem settleTally_succ (i n : Nat) (s : State) :
    (satisfiedOn s i = [] ∧ settleTally i (n + 1) s = s) ∨
    ∃ d t, (d, t) ∈ satisfiedOn s i ∧ settleTally i (n + 1) s = settleTally i n (settleOne d t (s.freeCtr + 1) s) := by
  rw [settleTally]
  split
  · next h => exact .inl ⟨h, rfl⟩
  · next x xs h =>
    refine .inr ⟨_, _, ?_, rfl⟩
    rw [h]
    exact getD_mem_cons ..

/-- What every wait that ends keeps, the settling of a tally keeps. -/
theorem settleTally_keeps {P : State → Prop} {i : Nat} (hone : ∀ d t k u, (d, t) ∈ satisfiedOn u i → P u → P (settleOne d t k u)) :
    ∀ n u, P u → P (settleTally i n u) := by
  intro n
  induction n with
  | zero => exact fun u h => h
  | succ n ih =>
    intro u h
    obtain ⟨-, heq⟩ | ⟨d, t, hmem, heq⟩ := settleTally_succ i n u
    · rwa [heq]
    · rw [heq]
      exact ih _ (hone d t _ u hmem h)

theorem tally_settleOne_other {i j : Nat} {s : State} {d : Desc} {t : Target} (hmem : (d, t) ∈ satisfiedOn s i) (hne : j ≠ i) (k : Nat) :
    tally (settleOne d t k s) j = tally s j := by
  obtain ⟨-, hcond, -⟩ := mem_satisfiedOn.mp hmem
  have hno : tallyNo d = i := by simp_all
  have hsat : tally (satisfyTally d { s with freeCtr := k }).2 j = tally s j := by
    unfold satisfyTally
    split
    · rw [hno]
      exact tally_setTally_other _ _ hne
    · rfl
  exact hsat

theorem waitCount_settleOne_lt {i : Nat} {s : State} {d : Desc} {t : Target} (hmem : (d, t) ∈ satisfiedOn s i) (k : Nat) :
    waitCount (settleOne d t k s) < waitCount s := by
  have hdescs : (satisfyTally d { s with freeCtr := k }).2.descs = s.descs :=
    descs_of_outside (satisfyTally_outside (by simp) d { s with freeCtr := k })
  have hsame : waitCount (settleOne d t k s) = waitCount (endWait d.ref t (satisfyTally d { s with freeCtr := k }).1 s) := by
    rw [waitCount, waitCount, settleOne, endWait, endWait, updDesc, updDesc, hdescs]
  rw [hsame]
  exact waitCount_endWait_lt hmem _

theorem satisfiedOn_settleTally (i : Nat) : ∀ n s, waitCount s ≤ n → satisfiedOn (settleTally i n s) i = [] := by
  intro n
  induction n with
  | zero => exact fun s h => satisfiedOn_of_waitCount_zero (Nat.le_zero.mp h) i
  | succ n ih =>
    intro s h
    obtain ⟨hnone, heq⟩ | ⟨d, t, hmem, heq⟩ := settleTally_succ i n s
    · rw [heq, hnone]
    · rw [heq]
      have := waitCount_settleOne_lt hmem (s.freeCtr + 1)
      exact ih _ (by omega)

theorem settleTally_of_none {i : Nat} {s : State} (h : satisfiedOn s i = []) (n : Nat) : settleTally i n s = s := by
  cases n with
  | zero => rfl
  | succ n => rw [settleTally, h]

/-- Settles O24: by the check of a TALLY, and by the number of waiting copies, which falls with every wait that ends. -/
theorem tallyOperationsComplete : Obligations.TallyOperationsComplete := by
  refine ⟨⟨fun r t x s hrun hpass => ?_, fun r t x s hrun hop c hc => ?_⟩, fun i v s => ⟨fun j hne => ?_, ?_, ?_, fun hnone => ?_⟩⟩
  · intro n c v ok
    have hrow (o : Nat) (ho : tallyOp x = o) (f : Desc → State → State) : tallyRow r t o f s = f x s := tallyRow_eq hrun hpass ho f
    have hok (w : Word) : Report.of stOk w.toNat = ok w := report_of_toNat stOk w
    have hadd (u : State) : changeTally n (c + v) (finishCopy r t (Report.of stOk (c + v).toNat) u) = changeTally n (c + v) (finishCopy r t (ok (c + v)) u) :=
      congrArg (fun rep => changeTally n (c + v) (finishCopy r t rep u)) (hok _)
    have hread : finishCopy r t (Report.of stOk c.toNat) s = finishCopy r t (ok c) s := congrArg (finishCopy r t · s) (hok c)
    refine ⟨fun ho => ⟨_, congrArg Host.Outcome.next (hrow 0 ho _), hadd s⟩,
      fun ho => ⟨_, congrArg Host.Outcome.next (hrow 1 ho _), congrArg (fun rep => changeTally n v (finishCopy r t rep s)) (hok v)⟩,
      fun ho hsat => ⟨_, congrArg Host.Outcome.next (hrow 2 ho _), (if_pos hsat).trans ?_⟩,
      fun ho hsat => ⟨_, congrArg Host.Outcome.next (hrow 2 ho _), if_neg (Bool.eq_false_iff.mp hsat)⟩,
      fun ho hsat => ⟨_, congrArg Host.Outcome.next (hrow 3 ho _), (if_pos hsat).trans ?_⟩,
      fun ho hsat => ⟨_, congrArg Host.Outcome.next (hrow 3 ho _), if_neg (Bool.eq_false_iff.mp hsat)⟩,
      fun ho => ⟨_, congrArg Host.Outcome.next (hrow 4 ho _), hread⟩⟩
    · rw [satisfyTally_wait ho]
      exact hread
    · rw [satisfyTally_waitAdd ho]
      simp only [tally_setTally_same]
      exact hadd _
  · obtain rfl | rfl | rfl | rfl | rfl := hc
    · exact ⟨_, rfl, tallyRow_rejected hrun hop ..⟩
    · exact ⟨_, rfl, tallyRow_rejected hrun hop ..⟩
    · exact ⟨_, rfl, tallyRow_rejected hrun hop ..⟩
    · exact ⟨_, rfl, tallyRow_rejected hrun hop ..⟩
    · exact ⟨_, rfl, tallyRow_rejected hrun hop ..⟩
  · refine settleTally_keeps (P := fun u => tally u j = tally s j) (fun d t k u hmem h => ?_) _ _ (tally_setTally_other v s hne)
    rw [tally_settleOne_other hmem hne, h]
  · exact satisfiedOn_settleTally i _ _ (waitCount_le_copyCount s)
  · exact eq_with_sync_descs_freeCtr (changeTally_outside (by simp) i v s)
  · exact settleTally_of_none hnone _

end Sys2Proof.Machine
end

section
/-! PROOFS. The operations of barriers and the release of a line (R268, R270, R272). -/

namespace Sys2Proof.Machine

/-! ### What a fault leaves of the descriptors: whatever `setOne` keeps -/

section Faults

variable {P : List Desc → Prop}

theorem descs_setOutcome_of_setOne (hone : ∀ r status detail core u, P u.descs → P (setOne r status detail core u).descs)
    (r : Ref) (status detail : Nat) (core : Option Nat) {s : State} (h : P s.descs) : P (setOutcome r status detail core s).descs := by
  unfold setOutcome
  split
  · exact hone _ _ _ _ _ (hone _ _ _ _ _ h)
  · exact hone _ _ _ _ _ h

theorem descs_fenceDescs_of_setOne (hone : ∀ r status detail core u, P u.descs → P (setOne r status detail core u).descs)
    {s : State} (h : P s.descs) : P (fenceDescs s).descs := by
  have hfold (l : List Desc) : ∀ u : State, P u.descs → P (l.foldl (fun s d =>
      if d.finished then s
      else if !d.started then setOutcome d.ref stAborted 0 none s
      else
        let m := fencedDeps s d
        if m = 0 || endsByWord s d then s else setOutcome d.ref stFenced m none s) u).descs := by
    induction l with
    | nil => exact fun u hu => hu
    | cons d l ih =>
      intro u hu
      refine ih _ ?_
      dsimp only
      split
      · exact hu
      · split
        · exact descs_setOutcome_of_setOne hone _ _ _ _ hu
        · split
          · exact hu
          · exact descs_setOutcome_of_setOne hone _ _ _ _ hu
  exact hfold s.descs s h

theorem descs_jobFault_of_setOne (hone : ∀ r status detail core u, P u.descs → P (setOne r status detail core u).descs)
    (cause : Nat) {s : State} (h : P s.descs) : P (jobFault cause s).descs := by
  have hmode (m : Mode) (k : Nat) (u : State) (hu : P u.descs) : P (fenceDescs (setMode m k u)).descs :=
    descs_fenceDescs_of_setOne hone (by rwa [descs_of_outside (setMode_outside (by simp) ..)])
  unfold jobFault
  split
  · exact hmode _ _ _ h
  · split
    · rw [descs_of_outside (raiseVector_outside (by simp) ..)]
      exact hmode _ _ _ h
    · exact hmode _ _ _ h
  · rwa [descs_of_outside (joinFault_outside (by simp) ..)]
  · exact h

theorem descs_ledgerFault_of_setOne (hone : ∀ r status detail core u, P u.descs → P (setOne r status detail core u).descs)
    (d kind holder : Nat) (r : Option Ref) {s : State} (h : P s.descs) : P (ledgerFault d kind holder r s).descs := by
  unfold ledgerFault
  refine descs_jobFault_of_setOne hone _ ?_
  cases r with
  | none => exact h
  | some r => exact descs_setOutcome_of_setOne hone _ _ _ _ h

theorem descs_parityCheck_of_setOne (hone : ∀ r status detail core u, P u.descs → P (setOne r status detail core u).descs)
    (d : Nat) {s : State} (h : P s.descs) : P (parityCheck d s).descs := by
  unfold parityCheck
  dsimp only
  split
  · exact descs_ledgerFault_of_setOne hone _ _ _ _ h
  · exact h

theorem descs_ledgerMove_of_setOne (hone : ∀ r status detail core u, P u.descs → P (setOne r status detail core u).descs)
    (d h n : Nat) (src dst : Column) (r : Option Ref) {s : State} (hs : P s.descs) : P (ledgerMove d h n src dst r s).2.descs := by
  unfold ledgerMove
  split
  · exact hs
  · have hcheck := descs_parityCheck_of_setOne hone d hs
    dsimp only
    split
    · exact hcheck
    · exact descs_ledgerFault_of_setOne hone _ _ _ _ hcheck

end Faults

/-! ### A copy that waits in place for its line -/

/-- R270: a copy of the descriptor waits in place to arrive on line l. -/
def SpinsOn (l : Nat) (d : Desc) : Prop :=
  (d.op == some .barrier && barLine d == l && d.outcome.isNone) = true ∧ ∃ c ∈ d.copies, (c.st == .inPlace false && c.stage == 1) = true

theorem spinning_eq_nil_iff {s : State} {l : Nat} : spinning s l = [] ↔ ∀ d ∈ s.descs, ¬ SpinsOn l d := by
  rw [spinning, List.flatMap_eq_nil_iff]
  refine forall_congr' fun d => imp_congr_right fun _ => ?_
  split
  · next h => simp only [List.map_eq_nil_iff, List.filter_eq_nil_iff, SpinsOn, h, true_and, not_exists, not_and]
  · next h => exact iff_of_true rfl fun hs => h hs.1

theorem spinsOn_of_setOne {l : Nat} (r : Ref) (status detail : Nat) (core : Option Nat) (s : State) (h : ∀ d ∈ s.descs, ¬ SpinsOn l d) :
    ∀ d ∈ (setOne r status detail core s).descs, ¬ SpinsOn l d := by
  intro d hd hspin
  obtain ⟨e, he, rfl⟩ := List.mem_map.mp hd
  dsimp only at hspin
  split at hspin
  · split at hspin
    · exact h e he hspin
    · split at hspin
      · obtain ⟨-, c, hc, hst⟩ := hspin
        obtain ⟨c', -, rfl⟩ := List.mem_map.mp hc
        simp at hst
      · simp [SpinsOn] at hspin
  · exact h e he hspin

theorem not_spins_wake {c : Copy} (h : c.st.waits = true) : (c.st.wake == .inPlace false) = false := by
  generalize c.st = st at h
  cases st with
  | parked | inPlace => rfl
  | _ => cases h

theorem spinsOn_of_wakeLine {l k : Nat} {s : State} (h : ∀ d ∈ s.descs, ¬ SpinsOn l d) : ∀ d ∈ (wakeLine k s).descs, ¬ SpinsOn l d := by
  intro d hd hspin
  obtain ⟨e, he, rfl⟩ := List.mem_map.mp hd
  split at hspin
  · obtain ⟨hcond, c, hc, hst⟩ := hspin
    obtain ⟨c', hc', rfl⟩ := List.mem_map.mp hc
    refine h e he ⟨hcond, c', hc', ?_⟩
    split at hst
    · next hwake =>
      simp only [Bool.and_eq_true] at hwake
      simp [not_spins_wake hwake.1.1] at hst
    · exact hst
  · exact h e he hspin

/-! ### What a release leaves of the lines -/

theorem lineOf_of_sync {s t : State} (h : t.sync = s.sync) (l : Nat) : lineOf t l = lineOf s l := by rw [lineOf, lineOf, h]

/-- What the arrivals on line l keep of the lines and the tallies: GEN of l, every other line and every tally. -/
def ArrivesOn (l : Nat) (s t : State) : Prop :=
  (lineOf t l).gen = (lineOf s l).gen ∧ (∀ j, j ≠ l → lineOf t j = lineOf s j) ∧ t.sync.tallies = s.sync.tallies

theorem ArrivesOn.of_sync {l : Nat} {s t : State} (h : t.sync = s.sync) : ArrivesOn l s t :=
  ⟨congrArg Line.gen (lineOf_of_sync h l), fun j _ => lineOf_of_sync h j, congrArg Sync.tallies h⟩

theorem ArrivesOn.setLine {l : Nat} {s t : State} (h : ArrivesOn l s t) {x : Line} (hx : x.gen = (lineOf s l).gen) :
    ArrivesOn l s (setLine l x t) := by
  obtain ⟨-, hother, htally⟩ := h
  exact ⟨(congrArg Line.gen (lineOf_setLine_same l x t)).trans hx, fun j hj => (Tab.get_put_other _ hj).trans (hother j hj), htally⟩

theorem ArrivesOn.trans {l : Nat} {s t u : State} (h : ArrivesOn l s t) (h' : ArrivesOn l t u) : ArrivesOn l s u := by
  obtain ⟨hgen, hother, htally⟩ := h
  obtain ⟨hgen', hother', htally'⟩ := h'
  exact ⟨hgen'.trans hgen, fun j hj => (hother' j hj).trans (hother j hj), htally'.trans htally⟩

theorem arrivesOn_putArrival (l p : Nat) (s : State) : ArrivesOn l s (putArrival l p s).2 := by
  have htake : ArrivesOn l s (ledgerTake dBarrier l 1 s).2 := .of_sync (sync_of_outside (ledgerTake_outside (by simp) ..))
  unfold putArrival
  dsimp only
  split
  · exact .of_sync rfl
  · split
    · exact htake
    · split
      · exact htake.setLine rfl
      · exact htake.setLine rfl

theorem arrivesOn_unspin (l : Nat) (x : Desc × Target) (s : State) : ArrivesOn l s (unspin l x s) := by
  have hput := arrivesOn_putArrival l (partNo x.2) s
  unfold unspin
  dsimp only
  split
  · exact hput
  · split
    · exact hput
    · exact hput.trans (.of_sync (sync_of_outside (beginBarrierWait_outside (by simp) ..)))

theorem arrivesOn_foldl_unspin (l : Nat) (xs : List (Desc × Target)) (s : State) :
    ArrivesOn l s (xs.foldl (fun s y => unspin l y s) s) := by
  induction xs generalizing s with
  | nil => exact .of_sync rfl
  | cons x xs ih => exact (arrivesOn_unspin l x s).trans (ih _)

/-- R270: the line as its release leaves it. -/
def releasedLine (x : Line) : Line := { x with gen := !x.gen, arrived := x.latched, latched := [] }

/-- R270: the release before the copies that wait in place arrive. -/
def releaseArrivals (l : Nat) (s : State) : State :=
  wakeLine l (ledgerMove dBarrier l (lineOf s l).arrived.length .held .free none (setLine l (releasedLine (lineOf s l)) s)).2

theorem releaseLine_of_ready {l : Nat} {s : State} (h : lineReady s (lineOf s l) = true) :
    releaseLine l s = (spinning (releaseArrivals l s) l).foldl (fun s y => unspin l y s) (releaseArrivals l s) := by
  rw [releaseLine, if_pos h]
  rfl

theorem sync_releaseArrivals (l : Nat) (s : State) : (releaseArrivals l s).sync = (setLine l (releasedLine (lineOf s l)) s).sync := by
  rw [releaseArrivals, sync_of_outside (wakeLine_outside (by simp) ..), sync_of_outside (ledgerMove_outside (by simp) ..)]

theorem spinning_releaseArrivals {l : Nat} {s : State} (h : spinning s l = []) : spinning (releaseArrivals l s) l = [] := by
  rw [spinning_eq_nil_iff] at h ⊢
  exact spinsOn_of_wakeLine (descs_ledgerMove_of_setOne (P := fun ds => ∀ d ∈ ds, ¬ SpinsOn l d) spinsOn_of_setOne _ _ _ _ _ _ h)

theorem releaseLine_effect {l : Nat} {s : State} (h : lineReady s (lineOf s l) = true) :
    (lineOf (releaseLine l s) l).gen = !(lineOf s l).gen ∧ (∀ j, j ≠ l → lineOf (releaseLine l s) j = lineOf s j) ∧
      (releaseLine l s).sync.tallies = s.sync.tallies ∧
      (spinning s l = [] → lineOf (releaseLine l s) l = releasedLine (lineOf s l)) := by
  have hsync := sync_releaseArrivals l s
  have hline : lineOf (releaseArrivals l s) l = releasedLine (lineOf s l) := (lineOf_of_sync hsync l).trans (lineOf_setLine_same ..)
  obtain ⟨hgen, hother, htally⟩ := arrivesOn_foldl_unspin l (spinning (releaseArrivals l s) l) (releaseArrivals l s)
  rw [releaseLine_of_ready h]
  refine ⟨hgen.trans (congrArg Line.gen hline), fun j hj => ?_, htally.trans (congrArg (·.tallies) hsync), fun hnone => ?_⟩
  · rw [hother j hj, lineOf_of_sync hsync]
    exact Tab.get_put_other _ hj
  · rw [spinning_releaseArrivals hnone]
    exact hline

/-! ### The operations of a BARRIER -/

theorem barrierRow_eq {s : State} {r : Ref} {t : Target} {x : Desc} {o : Nat} (h : CopyRunsAt s r t .barrier 0 x) (hpass : barrierError s x = none)
    (ho : barOp x = o) (f : Nat → State → State) : barrierRow r t o f s = f (barLine x) s := by
  rw [barrierRow, copyAtStage_eq h]
  simp only [hpass, if_pos ho]

/-- The line with the arrival of a participant set. -/
def arrivedLine (x : Line) (p : Nat) : Line := { x with arrived := x.arrived.put false p true }

/-- The line with the latch of a participant set. -/
def latchedLine (x : Line) (p : Nat) : Line := { x with latched := x.latched.put false p true }

theorem arrived_arrivedLine (x : Line) (p : Nat) : (arrivedLine x p).arrived.get false p = true := by
  simp [arrivedLine]

theorem putArrival_flag {l p : Nat} {s : State} {y : LgDom} (hparity : (lgDom s dBarrier).parityBad = false)
    (htake : (lgDom s dBarrier).take l 1 = some y) (hflag : (lineOf s l).arrived.get false p = false) :
    putArrival l p s = (true, setLine l (arrivedLine (lineOf s l) p) (setLgDom dBarrier y s)) := by
  simp only [putArrival, hflag, ledgerTake_eq hparity htake]
  rfl

theorem putArrival_latch {l p : Nat} {s : State} {y : LgDom} (hparity : (lgDom s dBarrier).parityBad = false)
    (htake : (lgDom s dBarrier).take l 1 = some y) (hflag : (lineOf s l).arrived.get false p = true)
    (hlatch : (lineOf s l).latched.get false p = false) :
    putArrival l p s = (true, setLine l (latchedLine (lineOf s l) p) (setLgDom dBarrier y s)) := by
  simp only [putArrival, hflag, hlatch, ledgerTake_eq hparity htake]
  rfl

theorem putArrival_full {l p : Nat} {s : State} (h : pendingOf (lineOf s l) p = 2) : putArrival l p s = (false, s) := by
  have hboth : ((lineOf s l).arrived.get false p && (lineOf s l).latched.get false p) = true := by
    revert h
    rw [pendingOf]
    cases (lineOf s l).arrived.get false p <;> cases (lineOf s l).latched.get false p <;> decide
  rw [putArrival]
  exact if_pos hboth

theorem pendingOf_ne_zero_of_arrived {x : Line} {p : Nat} (h : x.arrived.get false p = true) : pendingOf x p ≠ 0 := by
  rw [pendingOf, h]
  exact Nat.ne_of_gt (by rw [show bit true = 1 from rfl]; omega)

theorem beginBarrierWait_parks {r : Ref} {t : Target} {l : Nat} {s : State} (hpend : pendingOf (lineOf s l) (partNo t) ≠ 0)
    (hfence : fencedParts s (lineOf s l) = 0) : beginBarrierWait r t l s = parkCopy r t 2 s := by
  simp only [beginBarrierWait, if_neg hpend, hfence]
  rfl

/-- R272: an arrival that its line takes begins the wait of its copy. -/
theorem execBarrierArriveWait_parks {r : Ref} {t : Target} {x : Desc} {y : LgDom} {s : State} {x' : Line} (hrun : CopyRunsAt s r t .barrier 0 x)
    (hpass : barrierError s x = none) (ho : barOp x = 2)
    (hput : putArrival (barLine x) (partNo t) s = (true, setLine (barLine x) x' (setLgDom dBarrier y s)))
    (harrived : x'.arrived.get false (partNo t) = true) (hcores : x'.cores = (lineOf s (barLine x)).cores)
    (hfence : fencedParts s (lineOf s (barLine x)) = 0) :
    execBarrierArriveWait r t s = .next (releaseLine (barLine x)
      (parkCopy r t 2 (updDesc r (updCopy t fun c => { c with since := s.clk }) (setLine (barLine x) x' (setLgDom dBarrier y s))))) := by
  rw [execBarrierArriveWait, barrierRow_eq hrun hpass ho]
  simp only [hput]
  have hline (f : Desc → Desc) : lineOf (updDesc r f (setLine (barLine x) x' (setLgDom dBarrier y s))) (barLine x) = x' := lineOf_setLine_same ..
  refine congrArg (fun u => Host.Outcome.next (releaseLine (barLine x) u)) (beginBarrierWait_parks ?_ ?_)
  · rw [hline]
    exact pendingOf_ne_zero_of_arrived harrived
  · rw [hline, fencedParts, hcores]
    exact hfence

theorem execBarrierArrive_done {r : Ref} {t : Target} {x : Desc} {y : LgDom} {s : State} {x' : Line} (hrun : CopyRunsAt s r t .barrier 0 x)
    (hpass : barrierError s x = none) (ho : barOp x = 0)
    (hput : putArrival (barLine x) (partNo t) s = (true, setLine (barLine x) x' (setLgDom dBarrier y s)))
    (hgen : x'.gen = (lineOf s (barLine x)).gen) :
    execBarrierArrive r t s = .next (releaseLine (barLine x)
      (finishCopy r t (Report.of stOk (bit (lineOf s (barLine x)).gen)) (setLine (barLine x) x' (setLgDom dBarrier y s)))) := by
  rw [execBarrierArrive, barrierRow_eq hrun hpass ho]
  simp only [hput, genReport, lineOf_setLine_same, hgen]
  rfl

/-- Settles O25: by what an arrival puts into its line, and by what the release keeps of the lines while copies that wait in place arrive. -/
theorem barrierOperationsComplete : Obligations.BarrierOperationsComplete := by
  refine ⟨⟨fun r t x y s hrun hpass hparity htake => ?_, fun r t x s hrun hpass hfull => ?_, fun r t x s hrun hpass ho => ?_, fun l s hl => ?_⟩,
    fun l s => ⟨fun hnot => ?_, fun hready => ?_⟩⟩
  · refine ⟨fun hflag => ⟨fun ho => ⟨_, execBarrierArrive_done hrun hpass ho (putArrival_flag hparity htake hflag) rfl, rfl⟩, fun ho hfence => ?_⟩,
      fun hflag hlatch => ⟨fun ho => ⟨_, execBarrierArrive_done hrun hpass ho (putArrival_latch hparity htake hflag hlatch) rfl, rfl⟩, fun ho hfence => ?_⟩⟩
    · exact ⟨_, execBarrierArriveWait_parks hrun hpass ho (putArrival_flag hparity htake hflag) (arrived_arrivedLine ..) rfl hfence, rfl⟩
    · exact ⟨_, execBarrierArriveWait_parks hrun hpass ho (putArrival_latch hparity htake hflag hlatch) hflag rfl hfence, rfl⟩
  · refine ⟨fun ho => ⟨_, congrArg Host.Outcome.next (barrierRow_eq hrun hpass ho _), ?_⟩,
      fun ho => ⟨_, congrArg Host.Outcome.next (barrierRow_eq hrun hpass ho _), ?_⟩⟩
    · simp only [putArrival_full hfull]
      rfl
    · simp only [putArrival_full hfull]
      rfl
  · refine ⟨fun hnone => ⟨_, congrArg Host.Outcome.next (barrierRow_eq hrun hpass ho _), ?_⟩,
      fun hpend hfence => ⟨_, congrArg Host.Outcome.next (barrierRow_eq hrun hpass ho _), beginBarrierWait_parks hpend hfence⟩⟩
    rw [beginBarrierWait, if_pos hnone]
    rfl
  · exact ⟨_, congrArg Host.Outcome.next (if_pos hl), rfl⟩
  · rw [releaseLine, if_neg (by simp [hnot])]
  · obtain ⟨hgen, hother, htally, hline⟩ := releaseLine_effect hready
    exact ⟨hgen, hother, htally, mem_of_outside (releaseLine_outside (by simp) l s), hline⟩

end Sys2Proof.Machine
end

section
/-! PROOFS. What a SEND without a credit leaves of a copy that has not started (R40, R277). -/

namespace Sys2Proof.Machine

/-- A SEND on two cores of CD0, of which one has started. -/
def halfSend : Desc :=
  { ref := ⟨0, 0⟩, bytes := recordOf [(0, 1, 0x28), (5, 1, 2), (16, 8, 0x200)], ctx := 0, prio := 0, dispatched := true, order := 0,
    copies := [{ target := .core 0 0, st := .running, stage := 0, since := 0, report := none },
               { target := .core 0 1, st := .queued, stage := 0, since := 0, report := none }],
    start := some 0, lateness := 0, outcome := none, detailAll := none, collided := false, deps := 0, waiting := none, replayed := false,
    pair := none }

/-- Its module, with a channel that no queue has granted. -/
def halfSendState : State :=
  { setSqTx 0 { SqTx.reset with en := true } productState with descs := [halfSend] }

theorem firstReport_halfSend :
    (firstReport (queueErrors halfSend (sendChecks halfSendState halfSend))).isNone = true ∧ (sqTx halfSendState (sendTxq halfSend)).granted = false := by
  decide +kernel

/-- What the SEND leaves of its module. -/
def afterHalfSend : State :=
  atStage halfSend.ref .send 2 (fun x s => if sendReady x s then runSend x s else s) (atStage halfSend.ref .send 0 startSend halfSendState)

theorem afterHalfSend_copies : (findDesc afterHalfSend halfSend.ref).map (fun y => y.copies.map fun c => c.st.waits) = some [true, false] := by
  decide +kernel

/-- Refutes O26: a SEND that finds no credit parks the copies that have started; one that has not stays in its queue. -/
theorem not_stageQueueDescriptorsComplete : ¬ Obligations.StageQueueDescriptorsComplete := by
  unfold Obligations.StageQueueDescriptorsComplete
  rintro ⟨hpark, -⟩
  obtain ⟨hpass, hgrant⟩ := firstReport_halfSend
  obtain ⟨t, ht, -, y, hy, hwaits⟩ := hpark halfSend.ref halfSend halfSendState ⟨rfl, by decide, by decide⟩
    (Option.isNone_iff_eq_none.mp hpass) (.inl hgrant)
  have hnext : exec (.send halfSend.ref) halfSendState = .next afterHalfSend := rfl
  rw [hnext] at ht
  injection ht with ht
  have hcopies := afterHalfSend_copies
  rw [ht, hy, Option.map_some, Option.some_inj] at hcopies
  have hmem : false ∈ y.copies.map fun c => c.st.waits := by rw [hcopies]; decide
  obtain ⟨c, hc, hst⟩ := List.mem_map.mp hmem
  rw [(hwaits c hc).1] at hst
  cases hst

end Sys2Proof.Machine
end

section
/-! PROOFS. What a REFUSE does to a SEND whose dropped packets meet a parity error of their ledger (R311, R360, R361). -/

namespace Sys2Proof.Machine

/-- The REFUSE of entry 0 of queue 0. -/
def refusal : Packet :=
  { type := 5, vc := 7, last := true, dstSide := 0, srcSide := 0, srcPos := 0, dstPos := 0, stream := 0, mseq := 0, offset := 0, arg0 := 0, arg1 := 0,
    payload := [] }

/-- A SEND of that entry whose copy has not started. -/
def refusedSend : Desc :=
  { ref := ⟨0, 0⟩, bytes := [0x28], ctx := 0, prio := 0, dispatched := true, order := 0,
    copies := [{ target := .core 0 0, st := .queued, stage := 4, since := 0, report := none }],
    start := none, lateness := 0, outcome := none, detailAll := some 0, collided := false, deps := 0, waiting := none, replayed := false, pair := none }

/-- Its module in Full service: a packet of the entry waits at port 0, and the ledger of link packets has a parity error. -/
def refusedState : State :=
  let full : State := { State.reset with ms := { ModState.reset with mode := .full } }
  let piece := { refusal with type := 1 }
  setLgDom dLinkPacket { LgDom.reset with parityBad := true }
    (setPort 0 { Port.reset with tx := { Port.reset.tx with queue := [piece] } }
      { setSqTx 0 { SqTx.reset with en := true } full with descs := [refusedSend] })

/-- R23: the fault that the dropped packet meets ends the SEND with ABORTED before the refusal does. -/
theorem refuseReceive_aborted :
    ∀ t, execRefuseReceive refusal refusedState = .next t → (findDesc t refusedSend.ref).map (·.outcome) = some (some (stAborted, 0, none)) := by
  intro t ht
  cases ht
  decide +kernel

/-- Refutes O27: a parity error met while the packets of the refused entry are dropped ends its SEND with another outcome. -/
theorem not_entriesAndRefusalsComplete : ¬ Obligations.EntriesAndRefusalsComplete := by
  unfold Obligations.EntriesAndRefusalsComplete
  rintro ⟨-, -, -, -, hstage4, -⟩
  obtain ⟨t, ht, ⟨y, hy, hout⟩, -⟩ := hstage4 refusal 0 refusedSend { target := .core 0 0, st := .queued, stage := 4, since := 0, report := none } refusedState rfl
    (by decide) (by decide +kernel) rfl (by decide) (by decide) rfl (by decide) rfl rfl rfl (by decide)
  have haborted := refuseReceive_aborted t ht
  rw [hy, Option.map_some, hout] at haborted
  exact absurd haborted (by decide)

end Sys2Proof.Machine
end

section
/-! PROOFS. The registers of channels and queues, grants and credits (R276 to R278, R284, R301, R358). -/

namespace Sys2Proof.Machine

/-! ### What the commands leave of the queues -/

theorem rx_of_sync {s t : State} (h : t.sync = s.sync) (q : Nat) : sqRx t q = sqRx s q := by rw [sqRx, sqRx, h]

theorem tx_of_sync {s t : State} (h : t.sync = s.sync) (n : Nat) : sqTx t n = sqTx s n := by rw [sqTx, sqTx, h]

theorem sqRx_assignCredits (n k : Nat) (s : State) (q : Nat) : sqRx (assignCredits n k s) q = sqRx s q := by
  induction k generalizing s with
  | zero => rfl
  | succ k ih =>
    rw [assignCredits]
    dsimp only
    split
    · rfl
    · split
      · rfl
      · rw [ih]
        exact rx_of_sync (sync_of_outside (wakeAll_outside (by simp) ..)) q

theorem assignCredits_of_none {s : State} {n : Nat} (h : creditWaiters s n = []) (k : Nat) : assignCredits n k s = s := by
  cases k with
  | zero => rfl
  | succ k =>
    rw [assignCredits, h]
    exact ite_self _

theorem sqRx_takeQstate (pos c : Nat) (last count : Word) (s : State) (q : Nat) : sqRx (takeQstate pos c last count s) q = sqRx s q := by
  have hset (x : SqTx) (n : Nat) (u : State) : sqRx (setSqTx n x u) q = sqRx u q := rfl
  unfold takeQstate
  dsimp only
  split
  · rfl
  · rw [sqRx_assignCredits]
    split
    · split
      · exact hset ..
      · rfl
    · rfl

theorem sqRx_sendQstate (c : Nat) (s : State) (q : Nat) : sqRx (sendQstate c s) q = sqRx s q := by
  unfold sendQstate
  dsimp only
  split
  · rfl
  · split
    · exact sqRx_takeQstate ..
    · exact rx_of_sync (sync_of_outside (sendAll_outside (by simp) ..)) q

theorem sqRx_returnCredits (q n : Nat) (r : Option Ref) (s : State) :
    sqRx (returnCredits q n r s) q = { sqRx s q with returned := (sqRx s q).returned + BitVec.ofNat 32 n } := by
  have hmove : sqRx (ledgerMove dCredit q n .held .lent r s).2 q = sqRx s q := rx_of_sync (sync_of_outside (ledgerMove_outside (by simp) ..)) q
  rw [returnCredits, sqRx_sendQstate, sqRx_setSqRx_same, hmove]

theorem sqRx_flushQueue (q : Nat) (s : State) :
    sqRx (flushQueue q s) q =
      { sqRx s q with entries := [], flushed := BitVec.ofNat 16 (min 0xFFFF (sqRx s q).entries.length),
                      returned := (sqRx s q).returned + BitVec.ofNat 32 (sqRx s q).entries.length } := by
  unfold flushQueue
  dsimp only
  split
  · next hzero => simp [hzero, hold]
  · rw [sqRx_returnCredits, sqRx_setSqRx_same]
    simp [hold]

/-- What a grant keeps of a receive queue: all but whether its grant is still to be acknowledged. -/
theorem sqRx_takeGrant (pos c : Nat) (expect : Word) (count units : Nat) (s : State) (q : Nat) :
    ∃ g, sqRx (takeGrant pos c expect count units s) q = { sqRx s q with granting := g } := by
  have hkept (u : State) (h : sqRx u q = sqRx s q) : ∃ g, sqRx (if pos = strapPos u then takeGrantAck pos c u
      else sendAll [mkPacket u 3 0 pos 0 c expect 0 0 0 true []] u) q = { sqRx s q with granting := g } := by
    split
    · rw [takeGrantAck]
      dsimp only
      split
      · rw [sqRx_setSqRx]
        split
        · next hq => exact ⟨false, by rw [← hq, h]⟩
        · exact ⟨_, h⟩
      · exact ⟨_, h⟩
    · exact ⟨_, (rx_of_sync (sync_of_outside (sendAll_outside (by simp) ..)) q).trans h⟩
  unfold takeGrant
  split
  · exact ⟨_, rfl⟩
  · refine hkept _ ?_
    split
    · rfl
    · exact sqRx_assignCredits ..

theorem sqRx_sendGrant (c : Nat) (s : State) (q : Nat) : ∃ g, sqRx (sendGrant c s) q = { sqRx s q with granting := g } := by
  unfold sendGrant
  dsimp only
  split
  · exact ⟨_, rfl⟩
  · split
    · exact sqRx_takeGrant ..
    · exact ⟨_, rx_of_sync (sync_of_outside (sendAll_outside (by simp) ..)) q⟩

/-! ### What the commands leave of the totals of the ledgers -/

/-- A step that keeps TOTAL of every ledger. -/
def KeepsTotals (s t : State) : Prop := ∀ d, (lgDom t d).total = (lgDom s d).total

theorem KeepsTotals.of_doms {s t : State} (h : t.lg.doms = s.lg.doms) : KeepsTotals s t := fun d => by rw [lgDom, lgDom, h]

theorem KeepsTotals.trans {s t u : State} (h : KeepsTotals s t) (h' : KeepsTotals t u) : KeepsTotals s u := fun d => (h' d).trans (h d)

theorem keepsTotals_setLgDom {d : Nat} {x : LgDom} {s : State} (h : x.total = (lgDom s d).total) : KeepsTotals s (setLgDom d x s) := by
  intro e
  by_cases he : e = d
  · subst he
    exact (congrArg LgDom.total (Tab.get_put_same _)).trans h
  · exact congrArg LgDom.total (Tab.get_put_other _ he)

theorem keepsTotals_ledgerFault (d kind holder : Nat) (r : Option Ref) (s : State) : KeepsTotals s (ledgerFault d kind holder r s) := by
  refine .of_doms ?_
  rw [ledgerFault_lg]
  split <;> rfl

theorem keepsTotals_parityCheck (d : Nat) (s : State) : KeepsTotals s (parityCheck d s) := by
  unfold parityCheck
  dsimp only
  split
  · exact (keepsTotals_setLgDom (d := d) (x := { lgDom s d with parityBad := false }) rfl).trans (keepsTotals_ledgerFault _ _ _ _ _)
  · exact .of_doms rfl

theorem total_of_move {block : Bool} {h n : Nat} {src dst : Column} {x y : LgDom} (hmove : x.move block h n src dst = .ok y) : y.total = x.total := by
  unfold LgDom.move at hmove
  split at hmove
  · cases hmove
    rfl
  · split at hmove
    · cases hmove
    · split at hmove
      · cases hmove
      · cases hmove
        simp

theorem total_of_take {h n : Nat} {x y : LgDom} (htake : x.take h n = some y) : y.total = x.total := by
  unfold LgDom.take at htake
  split at htake
  · cases htake
  · cases htake
    simp

theorem keepsTotals_ledgerMove (d h n : Nat) (src dst : Column) (r : Option Ref) (s : State) : KeepsTotals s (ledgerMove d h n src dst r s).2 := by
  unfold ledgerMove
  split
  · exact .of_doms rfl
  · have hcheck := keepsTotals_parityCheck d s
    dsimp only
    split
    · next hmove => exact hcheck.trans (keepsTotals_setLgDom (total_of_move hmove))
    · exact hcheck.trans (keepsTotals_ledgerFault _ _ _ _ _)

theorem keepsTotals_ledgerTake (d h n : Nat) (s : State) : KeepsTotals s (ledgerTake d h n s).2 := by
  have hcheck := keepsTotals_parityCheck d s
  unfold ledgerTake
  dsimp only
  split
  · next htake => exact hcheck.trans (keepsTotals_setLgDom (total_of_take htake))
  · exact hcheck

theorem keepsTotals_enterPort (p : Nat) (q : Packet) (s : State) : KeepsTotals s (enterPort p q s).2 := by
  have htake := keepsTotals_ledgerTake dLinkPacket p 1 s
  unfold enterPort
  dsimp only
  split
  · refine htake.trans (.of_doms ?_)
    rw [lg_of_outside (noteRoute_outside (by simp) ..)]
    rfl
  · exact htake

theorem keepsTotals_enqueue (q : Packet) (s : State) : KeepsTotals s (enqueue q s) := by
  unfold enqueue
  dsimp only
  generalize (if (s.link.backlog.any fun x => pathKey x.2 == pathKey q) = true then none else routeOf s q) = route
  cases route with
  | none => exact .of_doms rfl
  | some p =>
    have hport := keepsTotals_enterPort p q s
    dsimp only
    split
    · exact hport
    · exact hport.trans (.of_doms rfl)

theorem keepsTotals_sendAll (ps : List Packet) (s : State) : KeepsTotals s (sendAll ps s) := by
  unfold sendAll
  induction ps generalizing s with
  | nil => exact .of_doms rfl
  | cons p ps ih =>
    refine KeepsTotals.trans ?_ (ih _)
    dsimp only
    split
    · exact keepsTotals_enqueue p s
    · exact .of_doms rfl

theorem keepsTotals_takeGrant (pos c : Nat) (expect : Word) (count units : Nat) (s : State) : KeepsTotals s (takeGrant pos c expect count units s) := by
  unfold takeGrant
  dsimp only
  split
  · exact .of_doms rfl
  · next n _ =>
    generalize hu : (if (sqTx s n).granted = true then s else _) = u
    have hlg : u.lg = s.lg := by
      rw [← hu]
      split
      · rfl
      · exact lg_of_outside (assignCredits_outside (by simp) ..)
    refine KeepsTotals.trans (.of_doms (congrArg Ledger.doms hlg)) ?_
    split
    · exact .of_doms (congrArg Ledger.doms (lg_of_outside (takeGrantAck_outside (by simp) ..)))
    · exact keepsTotals_sendAll _ _

theorem keepsTotals_sendGrant (q : Nat) (s : State) : KeepsTotals s (sendGrant q s) := by
  unfold sendGrant
  dsimp only
  split
  · exact .of_doms rfl
  · split
    · exact keepsTotals_takeGrant _ _ _ _ _ _
    · exact keepsTotals_sendAll _ _

/-! ### The registers of a queue -/

theorem changeTotalOf_raise (d n : Nat) (s : State) :
    ∃ u, changeTotalOf d id n s = some u ∧ (lgDom u d).total = (lgDom s d).total + n := by
  have hfree : ¬ ((lgDom (parityCheck d s) d).free : Int) + n < 0 := by omega
  refine ⟨_, by rw [changeTotalOf, LgDom.changeTotal, id, if_neg hfree]; rfl, ?_⟩
  rw [show lgDom (setLgDom d _ _) d = _ from Tab.get_put_same _, ← keepsTotals_parityCheck d s d]
  show (((lgDom (parityCheck d s) d).total : Int) + n).toNat = _
  omega

theorem enableQueue_effect (q : Nat) (x : SqRx) (s : State) :
    (∃ g, sqRx (enableQueue q x s) q = { x with en := true, err := 0, returned := 0, granting := g }) ∧
      (lgDom (enableQueue q x s) dCredit).total = (lgDom s dCredit).total + x.depth.toNat := by
  obtain ⟨u, hu, htotal⟩ := changeTotalOf_raise dCredit x.depth.toNat s
  rw [enableQueue]
  simp only [hu]
  generalize hv : (if (ledgerTake dCredit q x.depth.toNat u).1 = true then _ else _ : State) = v
  have hkept : KeepsTotals u v := by
    rw [← hv]
    split
    · exact (keepsTotals_ledgerTake _ _ _ _).trans (keepsTotals_ledgerMove _ _ _ _ _ _ _)
    · exact keepsTotals_ledgerTake _ _ _ _
  generalize hw : ({ v with link := _ } : State) = w
  have hlg : w.lg = v.lg := by rw [← hw]
  constructor
  · obtain ⟨g, hg⟩ := sqRx_sendGrant q (setSqRx q { x with en := true, err := 0, returned := 0, granting := true } w) q
    rw [sqRx_setSqRx_same] at hg
    exact ⟨g, hg⟩
  · rw [keepsTotals_sendGrant, ← htotal, ← hkept dCredit]
    exact congrArg (fun l : Ledger => (l.doms.get .reset dCredit).total) hlg

theorem execSqrx_eq {q : Nat} {v : Word} {s : State} (hq : q < 64) (hs : inService s = true) :
    execSqrxEnable q v s = .next (writeSqrxCfg q v (writeLogged (0x4A000 + 0x40 * q) v.toNat s)) := by
  rw [execSqrxEnable, if_pos hq, bar0Write_eq_writeLogged hs]
  rfl

theorem writeSqrxCfg_enable {q : Nat} {v : Word} {s : State} (hctx : ctxActive s (sqRx s q).ctx.toNat = false) (hen : (sqRx s q).en = false)
    (hv : v.getLsbD 0 = true) (hok : queueCfgOk s { sqRx s q with ctx := (v >>> 4).setWidth 4, srcPos := (v >>> 16).setWidth 14 } = true) :
    writeSqrxCfg q v s = enableQueue q { sqRx s q with ctx := (v >>> 4).setWidth 4, srcPos := (v >>> 16).setWidth 14 } s := by
  rw [writeSqrxCfg, if_neg (by simp [hctx]), if_neg (by simp [hen]), if_neg (by simp [hv])]
  exact if_pos hok

theorem writeSqrxCfg_flush {q : Nat} {v : Word} {s : State} (hctx : ctxActive s (sqRx s q).ctx.toNat = false) (hen : (sqRx s q).en = true)
    (hv : v.getLsbD 0 = true) (hflush : v.getLsbD 1 = true) (hsame : (v >>> 4).setWidth 4 = (sqRx s q).ctx)
    (hpos : (v >>> 16).setWidth 14 = (sqRx s q).srcPos) : writeSqrxCfg q v s = flushQueue q s := by
  simp only [writeSqrxCfg, hctx, hen, hv, hflush, hsame, hpos]
  simp

theorem writeSqtxCfg_idle {n : Nat} {v : Word} {s : State} (hctx : ctxActive s (sqTx s n).ctx.toNat = false) :
    writeSqtxCfg n v s =
      (let y : SqTx := { sqTx s n with en := v.getLsbD 0 && decide (bitsOf v.toNat 1 3 < 6), vc := bitsOf v.toNat 1 3, ctx := (v >>> 4).setWidth 4,
                                       destQ := (v >>> 8).setWidth 6, destPos := (v >>> 16).setWidth 14 }
       setSqTx n (if y.en = true then y else { y with granted := false, credits := 0 }) s) := by
  rw [writeSqtxCfg, if_neg (by simp [hctx])]

/-! ### Grants and credits that arrive -/

theorem eq_with_ft_freeCtr {s t : State} (h : outside [.ft, .freeCtr] t = outside [.ft, .freeCtr] s) : t = { s with ft := t.ft, freeCtr := t.freeCtr } := by
  rw [outside_eq_iff] at h
  simp at h
  cases t
  cases s
  simp_all

theorem heard_eq (p : Packet) (s : State) : ∃ f k, heard p s = { s with ft := f, freeCtr := k } :=
  ⟨_, _, eq_with_ft_freeCtr (noteSomewhere_outside (by simp) p s)⟩

theorem sqTx_takeGrant {pos c n : Nat} {s : State} (hchan : channelFor s pos c = some n) (hgranted : (sqTx s n).granted = false)
    (hnone : creditWaiters s n = []) (expect : Word) (count units : Nat) :
    sqTx (takeGrant pos c expect count units s) n =
        { sqTx s n with credits := count, units := units, next := expect, granted := true, returned := 0 } := by
  have hwait (x : SqTx) : creditWaiters (setSqTx n x s) n = [] := hnone
  rw [takeGrant, hchan]
  simp only [hgranted, Bool.false_eq_true, if_false, assignCredits_of_none (hwait _)]
  split
  · unfold takeGrantAck
    dsimp only
    split <;> exact sqTx_setSqTx_same ..
  · exact (tx_of_sync (sync_of_outside (sendAll_outside (by simp) ..)) n).trans (sqTx_setSqTx_same ..)

/-- R301: a copy that waits for the acceptance of its entry, once that has come. -/
def acceptedCopy (sq : Word) (c : Copy) : Copy :=
  if c.st.waits && c.stage == 3 then { c with st := c.st.wake, report := some (Report.of stOk sq.toNat) } else c

/-- R301: a descriptor as the acceptance of the entries of channel n up to `last` leaves it. -/
def acceptedDesc (n : Nat) (last : Word) (d : Desc) : Desc :=
  match d.detailAll with
  | some sq =>
    if d.op == some .send && sendTxq d == n && d.outcome.isNone && serialDone last sq then { d with copies := d.copies.map (acceptedCopy sq) } else d
  | none => d

/-- R277: a SEND waits for a credit of channel n. -/
def waitsForCreditOf (n : Nat) (d : Desc) : Bool := d.op == some .send && sendTxq d == n && atStages d 1 && d.copies.any (·.st.waits)

theorem creditWaiters_eq_nil_iff {s : State} {n : Nat} : creditWaiters s n = [] ↔ ∀ d ∈ s.descs, waitsForCreditOf n d = false := by
  simp only [creditWaiters, List.map_eq_nil_iff, List.filter_eq_nil_iff, waitsForCreditOf, Bool.not_eq_true]

/-- R301: the acceptance of entries wakes only copies that do not wait for a credit. -/
theorem waitsForCreditOf_accepted {n : Nat} {last : Word} {d : Desc} (h : waitsForCreditOf n d = false) :
    waitsForCreditOf n (acceptedDesc n last d) = false := by
  have hcopies (sq : Word) (p : Copy → Bool) (hp : ∀ c, p (acceptedCopy sq c) = true → p c = true) (hnone : d.copies.any p = false) :
      (d.copies.map (acceptedCopy sq)).any p = false := by
    rw [List.any_eq_false] at hnone ⊢
    intro c hc
    obtain ⟨e, he, rfl⟩ := List.mem_map.mp hc
    exact fun hpe => hnone e he (hp e hpe)
  have hstage (sq : Word) (c : Copy) (hc : ((acceptedCopy sq c).stage == 1 && (acceptedCopy sq c).st != .done) = true) :
      (c.stage == 1 && c.st != .done) = true := by
    unfold acceptedCopy at hc
    split at hc <;> simp_all
  have hwaits (sq : Word) (c : Copy) (hc : (acceptedCopy sq c).st.waits = true) : c.st.waits = true := by
    unfold acceptedCopy at hc
    split at hc <;> simp_all
  unfold acceptedDesc
  split
  · next sq _ =>
    split
    · simp only [waitsForCreditOf, atStages, Bool.and_eq_false_iff] at h ⊢
      obtain (hop | hout | hat) | hany := h
      · exact .inl (.inl hop)
      · exact .inl (.inr (.inl hout))
      · exact .inl (.inr (.inr (hcopies sq _ (hstage sq) hat)))
      · exact .inr (hcopies sq _ (hwaits sq) hany)
    · exact h
  · exact h

theorem takeQstate_ahead {pos c n m : Nat} {last count : Word} {s : State} (hchan : channelFor s pos c = some n) (hgranted : (sqTx s n).granted = true)
    (hahead : serial (sqTx s n).returned count = .ahead m) (hnone : creditWaiters s n = []) :
    sqTx (takeQstate pos c last count s) n = { sqTx s n with credits := (sqTx s n).credits + m, returned := count } := by
  let s0 := release (fun p => p.type == 1 && p.dstPos.toNat == pos && p.stream.toNat == c && serialDone last p.mseq) s
  let s1 := setSqTx n { sqTx s n with credits := (sqTx s n).credits + m, returned := count, granted := true } s0
  have hchan0 : channelFor s0 pos c = some n := hchan
  have htx : sqTx s0 n = sqTx s n := rfl
  have heq : takeQstate pos c last count s = assignCredits n s.descs.length { s1 with descs := s.descs.map (acceptedDesc n last) } := by
    rw [takeQstate]
    simp only [show channelFor (release _ s) pos c = some n from hchan0, show sqTx (release _ s) n = sqTx s n from htx, hahead, hgranted, if_true,
      List.length_map]
    refine congr (congrArg (assignCredits n) rfl) (congrArg (fun ds => { s1 with descs := ds }) (List.map_congr_left fun d _ => ?_))
    unfold acceptedDesc
    cases d.detailAll with
    | none => rfl
    | some sq => rfl
  rw [heq, assignCredits_of_none]
  · refine (sqTx_setSqTx_same ..).trans ?_
    rw [← hgranted]
  · rw [creditWaiters_eq_nil_iff] at hnone ⊢
    intro d hd
    obtain ⟨e, he, rfl⟩ := List.mem_map.mp hd
    exact waitsForCreditOf_accepted (hnone e he)

theorem eq_with_link_sync_descs_freeCtr {s t : State} (h : outside [.link, .sync, .descs, .freeCtr] t = outside [.link, .sync, .descs, .freeCtr] s) :
    t = { s with link := t.link, sync := t.sync, descs := t.descs, freeCtr := t.freeCtr } := by
  rw [outside_eq_iff] at h
  simp at h
  cases t
  cases s
  simp_all

/-- Settles O28: by what the registers, the grants and the returned credits leave of a channel and of a queue. -/
theorem grantsAndCreditsComplete : Obligations.GrantsAndCreditsComplete := by
  refine ⟨fun n v s hn hs => ?_, fun q v s hq hs => ?_, fun q v s hq hs => ?_, fun q s hen hgranting => ?_, fun p n s hchan hgranted hnone => ?_,
    fun p s hen hpos => ?_, fun p n m s hchan hgranted hahead hnone => ?_⟩
  · intro s1 hctx y
    refine ⟨_, ?_, rfl⟩
    rw [← writeSqtxCfg_idle hctx]
    exact congrArg Host.Outcome.next ((if_pos hn).trans (bar0Write_eq_writeLogged hs))
  · intro s1 x hctx hen hv hok
    refine ⟨_, execSqrx_eq hq hs, ?_⟩
    rw [writeSqrxCfg_enable hctx hen hv hok]
    obtain ⟨⟨g, hg⟩, htotal⟩ := enableQueue_effect q x s1
    rw [hg]
    exact ⟨rfl, rfl, rfl, rfl, rfl, htotal⟩
  · intro s1 x hctx hen hv hflush hsame hpos
    refine ⟨_, execSqrx_eq hq hs, ?_⟩
    rw [writeSqrxCfg_flush hctx hen hv hflush hsame hpos]
    beta_reduce
    rw [sqRx_flushQueue]
    exact ⟨rfl, rfl, rfl, hen⟩
  · exact ⟨_, congrArg Host.Outcome.next (if_pos (by simp [hen, hgranting])), rfl⟩
  · obtain ⟨f, k, hheard⟩ := heard_eq p s
    have hunits : bitsOf p.arg0.toNat 16 15 = p.arg0.toNat / 65536 % 32768 := by simp [bitsOf, Nat.shiftRight_eq_div_pow]
    refine ⟨_, rfl, ?_, ?_⟩
    · rw [show (noteSomewhere p s).2 = { s with ft := f, freeCtr := k } from hheard, hunits]
      exact sqTx_takeGrant (s := { s with ft := f, freeCtr := k }) hchan hgranted hnone ..
    · exact (mem_of_outside (takeGrant_outside (by simp) ..)).trans (mem_of_outside (noteSomewhere_outside (by simp) ..))
  · obtain ⟨f, k, hheard⟩ := heard_eq p s
    have hown : ((sqRx s p.stream.toNat).en && (sqRx s p.stream.toNat).srcPos.toNat == p.srcPos.toNat) = true := by simp [hen, hpos]
    refine ⟨takeGrantAck p.srcPos.toNat p.stream.toNat (heard p s), rfl, ?_⟩
    rw [hheard]
    exact if_pos hown
  · obtain ⟨f, k, hheard⟩ := heard_eq p s
    refine ⟨_, rfl, ?_, eq_with_link_sync_descs_freeCtr (takeQstate_outside (by simp) ..)⟩
    rw [show (noteSomewhere p s).2 = { s with ft := f, freeCtr := k } from hheard]
    exact takeQstate_ahead (s := { s with ft := f, freeCtr := k }) hchan hgranted hahead hnone

end Sys2Proof.Machine
end

section
/-! PROOFS. The commands of a port's training (R295, R296, R298). -/

namespace Sys2Proof.Machine

theorem portOf_enterTraining_other {p q : Nat} (hne : q ≠ p) (s : State) : portOf (enterTraining p s) q = portOf s q := by
  have hlocking (u : State) : portOf (lanesLocking p u) q = portOf u q := portOf_setPort_other _ _ hne
  have hlink : portOf (enterTraining p s) q = portOf (lanesLocking p (poolLeave p (setPort p (trainedPort (portOf s p) s) s))) q := by
    rw [portOf, enterTraining_link]
    exact portOf.eq_1 .. |>.symm
  rw [hlink, hlocking, portOf_poolLeave]
  exact portOf_setPort_other _ _ hne

theorem execPortEnable_eq {p : Nat} {s : State} (hp : p < 16) (hs : inService s = true) :
    execPortEnable p s = .next (enablePort p (writeLogged (0x120000 + 0x200 * p) 1 s)) := by
  rw [execPortEnable, if_pos hp, bar0Write_eq_writeLogged hs]
  rfl

/-- The module whose port is enabled, with no attempt to train yet. -/
def enabledState (p : Nat) (s : State) : State :=
  setPort p { portOf s p with en := true, attempts := 0 } (setPort p { portOf s p with en := true } s)

theorem enabledState_port (p : Nat) (s : State) :
    portOf (enabledState p s) p = { portOf s p with en := true, attempts := 0 } ∧ (∀ q, q ≠ p → portOf (enabledState p s) q = portOf s q) ∧
      (enabledState p s).clk = s.clk :=
  ⟨portOf_setPort_same .., fun _ hq => (portOf_setPort_other _ _ hq).trans (portOf_setPort_other _ _ hq), rfl⟩

theorem trainedPort_keeps (x : Port) (s : State) : (trainedPort x s).en = x.en ∧ (trainedPort x s).attempts = x.attempts := by
  obtain ⟨-, hen, hattempts, -⟩ := noteDown_keeps x s
  exact ⟨hen, hattempts⟩

/-- R295: a port that is off trains once it is enabled. -/
theorem enablePort_trains {p : Nat} {s : State} (hoff : (portOf s p).state = .off) (hrun : portsRun s = true) :
    let t := enablePort p s
    (portOf t p).state = .training ∧ (portOf t p).en = true ∧ (portOf t p).attempts = 0 ∧ (portOf t p).start = s.clk ∧
      (portOf t p).deskewed = false ∧ (portOf t p).tx.unacked = [] ∧ ∀ q, q ≠ p → (portOf t q).state = (portOf s q).state := by
  have heq : enablePort p s = enterTraining p (enabledState p s) := if_pos (by simp [hoff, hrun])
  obtain ⟨hport, hother, hclk⟩ := enabledState_port p s
  obtain ⟨lock, hlock⟩ := portOf_enterTraining p (enabledState p s)
  obtain ⟨hen, hattempts⟩ := trainedPort_keeps (portOf (enabledState p s) p) (enabledState p s)
  rw [hport] at hlock hen hattempts
  dsimp only
  rw [heq, hlock]
  refine ⟨rfl, hen, hattempts, hclk, rfl, congrArg PortTx.unacked (trainedPort_tx ..), fun q hq => ?_⟩
  rw [portOf_enterTraining_other hq, hother q hq]

/-- Settles O29: by the state of the port each command finds. -/
theorem portTrainingCompletes : Obligations.PortTrainingCompletes := by
  refine ⟨fun p s hp hs => ?_, fun p s hp hs => ?_, fun p s hstate hlate => ?_, fun p s hstate => ?_, fun p s hstate => ?_,
    fun p cause s hstate h2 h5 hfew => ?_, fun p cause s hstate h2 h5 hmany => ?_⟩
  · intro s1 hoff hrun
    exact ⟨_, execPortEnable_eq hp hs, enablePort_trains hoff hrun⟩
  · intro s1 hor
    refine ⟨_, execPortEnable_eq hp hs, if_neg fun h => ?_⟩
    obtain ⟨hoff, hrun⟩ := Bool.and_eq_true_iff.mp h
    exact hor.elim (fun hne => hne (by simpa using hoff)) (fun hnot => Bool.noConfusion (hnot.symm.trans hrun))
  · exact ⟨_, congrArg Host.Outcome.next (if_pos (by simp [hstate, hlate])), rfl⟩
  · exact ⟨_, congrArg Host.Outcome.next (if_pos (by simp [hstate])), rfl⟩
  · exact ⟨_, congrArg Host.Outcome.next (if_neg (by simp)), rfl⟩
  · exact ⟨_, congrArg Host.Outcome.next (if_pos (by simp [hstate, h2, h5])), if_neg (by dsimp only; omega)⟩
  · exact ⟨_, congrArg Host.Outcome.next (if_pos (by simp [hstate, h2, h5])), if_pos (by dsimp only; omega)⟩

end Sys2Proof.Machine
end

section
/-! PROOFS. HELLO words (R298, R299, R315, R322, R323). -/

namespace Sys2Proof.Machine

/-- What the words that a port sends leave: of the port all but its two directions, and every other port. -/
def SendsOn (p : Nat) (s t : State) : Prop :=
  (∃ tx rx, portOf t p = { portOf s p with tx := tx, rx := rx }) ∧ (∀ q, q ≠ p → portOf t q = portOf s q) ∧ t.ft = s.ft

theorem SendsOn.trans {p : Nat} {s t u : State} (h : SendsOn p s t) (h' : SendsOn p t u) : SendsOn p s u := by
  obtain ⟨⟨tx, rx, hport⟩, hother, hft⟩ := h
  obtain ⟨⟨tx', rx', hport'⟩, hother', hft'⟩ := h'
  exact ⟨⟨tx', rx', by rw [hport', hport]⟩, fun q hq => (hother' q hq).trans (hother q hq), hft'.trans hft⟩

theorem SendsOn.of_ports {p : Nat} {s t : State} (hports : t.link.core = s.link.core) (hft : t.ft = s.ft) : SendsOn p s t :=
  ⟨⟨_, _, portOf_of_core hports p⟩, fun q _ => portOf_of_core hports q, hft⟩

theorem sendsOn_setPort {p : Nat} {s : State} {x : Port} {tx : PortTx} {rx : PortRx} (h : x = { portOf s p with tx := tx, rx := rx }) :
    SendsOn p s (setPort p x s) :=
  ⟨⟨tx, rx, (portOf_setPort_same ..).trans h⟩, fun _ hq => portOf_setPort_other _ _ hq, rfl⟩

theorem sendsOn_sendWord {p : Nat} {w : CtlWord} (hw : ∀ now t1, stampWord now w ≠ .timeReq t1) (s : State) : SendsOn p s (sendWord p w s) := by
  have hstamp : noteStamp p (stampWord s.ft.ft w) s = s := by
    have hnot := hw s.ft.ft
    unfold noteStamp
    split
    · next t1 heq => exact absurd heq (hnot t1)
    · rfl
  unfold sendWord
  dsimp only
  split
  · have hset := sendsOn_setPort (p := p) (s := s) (x := takeFlits [.word (stampWord s.ft.ft w)] s.clk (portOf s p)) (rx := (portOf s p).rx) rfl
    rw [sendNow, hstamp]
    exact hset
  · exact sendsOn_setPort (rx := (portOf s p).rx) rfl

theorem sendsOn_giveCredits (p v n : Nat) (s : State) : SendsOn p s (giveCredits p v n s) := by
  unfold giveCredits
  split
  · exact .of_ports rfl rfl
  · exact (sendsOn_setPort (tx := (portOf s p).tx) rfl).trans (sendsOn_sendWord (fun now t1 h => by cases h) _)

theorem sendsOn_poolTraining (p : Nat) (s : State) : SendsOn p s (poolTraining p s) := by
  have hone (v : Nat) (u : State) : SendsOn p u (giveCredits p v ((poolCh u (chanOf p v)).effReserve - (poolCh u (chanOf p v)).held)
      (ledgerMove dBlock (chanOf p v) ((poolCh u (chanOf p v)).effReserve - (poolCh u (chanOf p v)).held) .free .lent none
        (setPoolCh (chanOf p v) { poolCh u (chanOf p v) with adv := (poolCh u (chanOf p v)).effReserve - (poolCh u (chanOf p v)).held } u)).2) := by
    refine SendsOn.trans ?_ (sendsOn_giveCredits ..)
    exact ⟨⟨(portOf u p).tx, (portOf u p).rx, portOf_of_core (ledgerMove_core ..) p⟩, fun q _ => portOf_of_core (ledgerMove_core ..) q,
      ft_of_outside (ledgerMove_outside (by simp) ..)⟩
  unfold poolTraining
  split
  · exact .of_ports rfl rfl
  · unfold poolOffer
    refine List.foldlRecOn (List.range 8) _ (.of_ports rfl rfl) fun u hu v _ => hu.trans (hone v u)

/-- R323: what the discovery of a second active member leaves: the ports, memory and Field Time stand. -/
theorem dualActive_keeps (h : Hello) (s : State) :
    (dualActive h s).link = s.link ∧ (dualActive h s).mem = s.mem ∧ (dualActive h s).ft = s.ft :=
  ⟨link_of_outside (dualActive_outside (by simp) h s), mem_of_outside (dualActive_outside (by simp) h s),
    ft_of_outside (dualActive_outside (by simp) h s)⟩

theorem portOf_of_link {s t : State} (h : t.link = s.link) (p : Nat) : portOf t p = portOf s p := by rw [portOf, portOf, h]

theorem execHelloReceive_eq {p : Nat} {s : State} (h : Hello) (hstate : helloState (portOf s p).state = true) :
    execHelloReceive p h s = .next (dualActive h (takeHello p h (deskew p s))) := by
  rw [execHelloReceive, if_pos hstate]

theorem deskew_of_state {p : Nat} {s : State} (h : (portOf s p).state ≠ .training) : deskew p s = s :=
  if_neg (by simp [h])

theorem portOf_deskew (p : Nat) (s : State) : ∃ d l, portOf (deskew p s) p = { portOf s p with deskewed := d, laneLock := l } := by
  unfold deskew
  dsimp only
  split
  · exact ⟨_, _, portOf_setPort_same ..⟩
  · exact ⟨_, _, rfl⟩

theorem portOf_deskew_other {p q : Nat} (hq : q ≠ p) (s : State) : portOf (deskew p s) q = portOf s q := by
  unfold deskew
  dsimp only
  split
  · exact portOf_setPort_other _ _ hq
  · rfl

/-- R298: the port as the HELLO that parks it leaves it, before the words that follow. -/
def parkedPort (h : Hello) (clk : Nat) (x : Port) : Port :=
  { x with peer := some h, peerValid := true, peerAt := clk, state := .parked, attempts := 0, laneLock := 0xFF, deskewed := true, parkHello := some h }

theorem enterParked_port {p : Nat} {h : Hello} {s : State} (hfree : s.adm.admitted = false) :
    SendsOn p (setPort p { portOf s p with state := .parked, attempts := 0, laneLock := 0xFF, deskewed := true, parkHello := some h } s) (enterParked p h s) := by
  unfold enterParked reevaluate
  dsimp only
  generalize hu : setPort p { portOf s p with state := .parked, attempts := 0, laneLock := 0xFF, deskewed := true, parkHello := some h } s = u
  have hadm : (poolTraining p u).adm.admitted = false := by
    rw [adm_of_outside (poolTraining_outside (by simp) ..), ← hu]
    exact hfree
  rw [if_neg (by simp [hadm])]
  refine (sendsOn_poolTraining p u).trans (.of_ports ?_ ?_)
  · exact congrArg Links.core (link_of_outside (noteDegraded_outside (by simp) _))
  · exact ft_of_outside (noteDegraded_outside (by simp) _)

theorem takeHello_parks {p : Nat} {h : Hello} {s : State} (hstate : (portOf s p).state = .training) (hproto : h.proto = 1)
    (hin : s.clk ≤ (portOf s p).start + 250000000) (hfree : s.adm.admitted = false) :
    SendsOn p (setPort p (parkedPort h s.clk (portOf s p)) s) (takeHello p h s) := by
  have hport : portOf (setPort p { portOf s p with peer := some h, peerValid := true, peerAt := s.clk } s) p =
      { portOf s p with peer := some h, peerValid := true, peerAt := s.clk } := portOf_setPort_same ..
  have hsends := enterParked_port (p := p) (h := h) (s := setPort p { portOf s p with peer := some h, peerValid := true, peerAt := s.clk } s) hfree
  have heq : takeHello p h s = enterParked p h (setPort p { portOf s p with peer := some h, peerValid := true, peerAt := s.clk } s) := by
    simp [takeHello, hstate, hproto, hin]
  rw [heq]
  refine SendsOn.trans ?_ hsends
  rw [hport]
  refine ⟨⟨(portOf s p).tx, (portOf s p).rx, ?_⟩, fun q hq => ?_, rfl⟩
  · rw [portOf_setPort_same, portOf_setPort_same]
    rfl
  · rw [portOf_setPort_other _ _ hq, portOf_setPort_other _ _ hq, portOf_setPort_other _ _ hq]

theorem takeHello_stays {p : Nat} {h : Hello} {s : State} (hstate : (portOf s p).state = .training)
    (hnot : (h.proto == 1 && decide (s.clk ≤ (portOf s p).start + 250000000)) = false) :
    takeHello p h s = setPort p { portOf s p with peer := some h, peerValid := true, peerAt := s.clk } s := by
  unfold takeHello
  dsimp only
  split
  · exact if_neg (Bool.eq_false_iff.mp hnot)
  all_goals simp_all

/-- Settles O31: by the state of the port that takes the HELLO. -/
theorem helloCommandsComplete : Obligations.HelloCommandsComplete := by
  refine ⟨fun p s hstate => ?_, fun p h s hstate hproto hin hfree => ?_, fun p h s hstate hor => ?_, fun p h s hstate => ?_,
    fun p h g s hstate hpark hsame => ?_, fun p h g s hstate hpark hother => ?_, fun p s hvalid hlate => ?_⟩
  · exact ⟨_, congrArg Host.Outcome.next (if_pos hstate), rfl⟩
  · refine ⟨_, execHelloReceive_eq h (by rw [hstate]; rfl), ?_⟩
    obtain ⟨d, l, hdeskew⟩ := portOf_deskew p s
    obtain ⟨hlink, hmem, hft⟩ := dualActive_keeps h (takeHello p h (deskew p s))
    obtain ⟨⟨tx, rx, hport⟩, hother, hft'⟩ := takeHello_parks (p := p) (h := h) (s := deskew p s) (by rw [hdeskew, hstate]) hproto
      (by rw [hdeskew, clk_of_outside (deskew_outside (by simp) ..)]; exact hin) (by rw [adm_of_outside (deskew_outside (by simp) ..)]; exact hfree)
    rw [portOf_setPort_same, clk_of_outside (deskew_outside (by simp) ..)] at hport
    rw [portOf_of_link hlink, hport]
    refine ⟨rfl, rfl, rfl, rfl, rfl, rfl, rfl, rfl, fun q hq => ?_, ?_, ?_⟩
    · rw [portOf_of_link hlink, hother q hq, portOf_setPort_other _ _ hq, portOf_deskew_other hq]
    · rw [hmem, mem_of_outside (takeHello_outside (by simp) ..), mem_of_outside (deskew_outside (by simp) ..)]
    · rw [hft, hft']
      exact ft_of_outside (deskew_outside (by simp) ..)
  · intro u
    obtain ⟨d, l, hdeskew⟩ := portOf_deskew p s
    have hclk : u.clk = s.clk := clk_of_outside (deskew_outside (by simp) ..)
    refine ⟨_, execHelloReceive_eq h (by rw [hstate]; rfl), congrArg (dualActive h) ?_⟩
    have hnot : (h.proto == 1 && decide (u.clk ≤ (portOf u p).start + 250000000)) = false := by
      rw [hclk, hdeskew]
      obtain hproto | hlate := hor
      · exact Bool.and_eq_false_imp.mpr fun heq => absurd (beq_iff_eq.mp heq) hproto
      · simp [Nat.not_le.mpr hlate]
    rw [← hclk]
    exact takeHello_stays (by rw [hdeskew, hstate]) hnot
  · refine ⟨_, execHelloReceive_eq h (by rw [hstate]; rfl), congrArg (dualActive h) ?_⟩
    rw [deskew_of_state (by simp [hstate])]
    simp [takeHello, hstate]
  · refine ⟨_, execHelloReceive_eq h (by rw [hstate]; rfl), congrArg (dualActive h) ?_⟩
    rw [deskew_of_state (by simp [hstate])]
    simp [takeHello, hstate, hpark, hsame]
  · intro s1
    refine ⟨_, execHelloReceive_eq h (by rw [hstate]; rfl), congrArg (dualActive h) ?_⟩
    rw [deskew_of_state (by simp [hstate])]
    have hparked : (portOf s1 p).state = .parked := congrArg Port.state (portOf_setPort_same ..)
    have hadm : s1.adm = s.adm := rfl
    have heq : takeHello p h s = reevaluate p s1 := by simp [takeHello, hstate, hpark, hother, s1]
    rw [heq, reevaluate, hparked, hadm]
    simp
  · exact ⟨_, congrArg Host.Outcome.next (if_pos (by simp [hvalid, hlate])), rfl⟩

end Sys2Proof.Machine
end

section
/-! PROOFS. RETRAIN of a port (R294, R296, R322). -/

namespace Sys2Proof.Machine

theorem eq_with_link_adm_freeCtr {s t : State} (h : outside [.link, .adm, .freeCtr] t = outside [.link, .adm, .freeCtr] s) :
    t = { s with link := t.link, adm := t.adm, freeCtr := t.freeCtr } := by
  rw [outside_eq_iff] at h
  simp at h
  cases t
  cases s
  simp_all

/-- What RETRAIN leaves of a port, but for the lanes that lock. -/
def retrainedPort (cause : Nat) (x : Port) (s : State) : Port :=
  let y := noteDown s x
  { y with state := .retrain, back := x.state, cause := cause, start := s.clk, stats := { y.stats with retrain := y.stats.retrain.add 1 } }

theorem noteDown_tx (x : Port) (s : State) : (noteDown s x).tx = x.tx := by
  unfold noteDown
  split <;> rfl

theorem lanesLocking_other {p q : Nat} (hq : q ≠ p) (s : State) : portOf (lanesLocking p s) q = portOf s q := portOf_setPort_other _ _ hq

theorem portOf_noteDegraded (s : State) (q : Nat) : portOf (noteDegraded s) q = portOf s q :=
  portOf_of_link (link_of_outside (noteDegraded_outside (by simp) s)) q

theorem enterRetrain_effect {p : Nat} {s : State} (cause : Nat) (hstate : (portOf s p).state = .parked ∨ (portOf s p).state = .up) :
    let t := enterRetrain p cause s
    t = { s with link := t.link, adm := t.adm, freeCtr := t.freeCtr } ∧
      (∃ lock, portOf t p = { retrainedPort cause (portOf s p) s with laneLock := lock }) ∧ ∀ q, q ≠ p → portOf t q = portOf s q := by
  intro t
  have heq : t = noteDegraded (lanesLocking p (setPort p (retrainedPort cause (portOf s p) s) s)) :=
    if_pos (by obtain h | h := hstate <;> simp [h])
  obtain ⟨lock, hlock⟩ := portOf_lanesLocking p (setPort p (retrainedPort cause (portOf s p) s) s)
  rw [portOf_setPort_same] at hlock
  refine ⟨eq_with_link_adm_freeCtr (enterRetrain_outside (by simp) p cause s), ⟨lock, ?_⟩, fun q hq => ?_⟩
  · rw [heq, portOf_noteDegraded, hlock]
  · rw [heq, portOf_noteDegraded, lanesLocking_other hq, portOf_setPort_other _ _ hq]

theorem execZbRetrainWrite_eq {p : Nat} {s : State} (hp : p < 16) (hs : inService s = true) :
    execZbRetrainWrite p s = .next (retrainPort p (writeLogged (0x120000 + 0x200 * p) 3 s)) := by
  rw [execZbRetrainWrite, if_pos hp, bar0Write_eq_writeLogged hs]
  rfl

theorem retrainPort_software {p : Nat} {s : State} (hstate : (portOf s p).state = .parked ∨ (portOf s p).state = .up) :
    retrainPort p s = enterRetrain p pcSoftware s :=
  if_neg (by obtain h | h := hstate <;> simp [h])

/-! ### Replays -/

theorem portOf_emit (o : Output) (s : State) (p : Nat) : portOf (emit o s) p = portOf s p := rfl

/-- R322: whether a port matches its peer asks for its state and its HELLO only. -/
theorem matchesNow_setPort_congr {p : Nat} {x y : Port} (hstate : x.state = y.state) (hvalid : x.peerValid = y.peerValid) (hpeer : x.peer = y.peer)
    (s : State) : matchesNow (setPort p x s) p = matchesNow (setPort p y s) p := by
  have hpeers (m : Manifest) : peerMatches (setPort p x s) m p = peerMatches (setPort p y s) m p := by
    rw [peerMatches, peerMatches, portOf_setPort_same, portOf_setPort_same, hpeer]
  have hports (m : Manifest) : portMatches (setPort p x s) m p = portMatches (setPort p y s) m p := by
    rw [portMatches, portMatches, portOf_setPort_same, portOf_setPort_same, hstate, hvalid, hpeers]
  unfold matchesNow
  simp only [hports]
  rfl

/-- R293: the port whose flits from f on, k of them, go out again. -/
def replayedPort (f : BitVec 12) (k clk : Nat) (x : Port) : Port :=
  { x with stats := { x.stats with replay := x.stats.replay.add 1 },
           tx := { x.tx with replays := x.tx.replays.put 0 f.toNat (x.tx.replays.get 0 f.toNat + 1), sent := x.tx.sent + k, moved := clk } }

theorem dropWhile_split {α : Type} {p : α → Bool} {before after : List α} {x : α} (hbefore : ∀ u ∈ before, p u = true) (hx : p x = false) :
    (before ++ x :: after).dropWhile p = x :: after := by
  rw [List.dropWhile_append_of_pos hbefore, List.dropWhile_cons_of_neg (by simp [hx])]

theorem replayFrom_eq {p : Nat} {f : BitVec 12} {i : TxItem} {before after : List (BitVec 12 × TxItem)} {s : State}
    (hunacked : (portOf s p).tx.unacked = before ++ (f, i) :: after) (hbefore : ∀ u ∈ before, u.1 ≠ f) :
    replayFrom p f s =
      (let t := emit (.replay p (flitsAgain (portOf s p) ((f, i) :: after))) (setPort p (replayedPort f (after.length + 1) s.clk (portOf s p)) s)
       if 8 ≤ (portOf s p).tx.replays.get 0 f.toNat + 1 then enterRetrain p 6 t else t) := by
  have hdrop : (portOf s p).tx.unacked.dropWhile (fun u => u.1 != f) = (f, i) :: after := by
    rw [hunacked]
    exact dropWhile_split (fun u hu => bne_iff_ne.mpr (hbefore u hu)) (by simp)
  rw [replayFrom, hdrop]
  rfl

/-! ### The end of RETRAIN -/

/-- The port as the lock of its lanes leaves it, before it comes UP. -/
def relockedPort (x : Port) : Port := { x with state := x.back, laneLock := 0xFF, tx := { x.tx with replays := [] } }

/-- R294: what the lock of its lanes does to the port. -/
def relocked (p : Nat) (s : State) : State :=
  let s1 := setPort p (relockedPort (portOf s p)) s
  if (portOf s p).back == .up then portUpNow p s1 else reevaluate p s1

theorem execRetrainRelock_eq {p : Nat} {s : State} (hstate : (portOf s p).state = .retrain) (hmin : (portOf s p).start + 20000 ≤ s.clk)
    (hmax : s.clk ≤ (portOf s p).start + 2000000) :
    execRetrainRelock p s = .next (match oldestFlit (portOf (relocked p s) p) with
      | some f => replayFrom p f (relocked p s)
      | none => relocked p s) :=
  congrArg Host.Outcome.next (if_pos (by simp [hstate, hmin, hmax]))

theorem noteDegraded_of_not_admitted {s : State} (h : s.adm.admitted = false) : noteDegraded s = s := by
  unfold noteDegraded
  split
  · rfl
  · exact if_neg (by simp [h])

theorem relocked_parked {p : Nat} {s : State} (hback : (portOf s p).back = .parked) (hfree : s.adm.admitted = false) :
    relocked p s = setPort p (relockedPort (portOf s p)) s := by
  have hadm : (setPort p (relockedPort (portOf s p)) s).adm.admitted = false := hfree
  rw [relocked, hback]
  refine (if_neg (by decide)).trans ?_
  rw [reevaluate, if_neg (by rw [hadm]; simp)]
  exact noteDegraded_of_not_admitted hadm

/-- R313: a port that comes UP where nothing is held and no port has failed over. -/
theorem portUpNow_quiet {p : Nat} {s : State} (hback : s.link.backlog = []) (hover : ∀ q, (portOf s q).failover = false) :
    portUpNow p s = setPort p { portOf s p with state := .up, upAt := some s.clk, downAt := none, failover := false } s := by
  have hover' (q : Nat) : (portOf (raisePort p s) q).failover = false := by
    rw [raisePort, portOf_setPort]
    split
    · rfl
    · exact hover q
  have hfold (l : List Nat) : l.foldl (fun s q => if (portOf s q).failover && !portUp s q then movePackets q s else s) (raisePort p s) = raisePort p s := by
    induction l with
    | nil => rfl
    | cons q l ih =>
      rw [List.foldl_cons, if_neg (by simp [hover'])]
      exact ih
  have hnone : (raisePort p s).link.backlog = [] := hback
  rw [portUpNow, sendHeld, hfold, drainBacklog, hnone]
  refine Eq.trans ?_ (show raisePort p s = _ from rfl)
  rw [List.foldl_nil, ← hnone]

/-- R313: the port that the lock of its lanes brings UP. -/
theorem relocked_up {p : Nat} {s : State} (hbacklog : s.link.backlog = []) (hover : ∀ q, (portOf s q).failover = false)
    (hup : relocked p s = portUpNow p (setPort p (relockedPort (portOf s p)) s)) :
    relocked p s = setPort p { relockedPort (portOf s p) with state := .up, upAt := some s.clk, downAt := none, failover := false }
      (setPort p (relockedPort (portOf s p)) s) := by
  have hport : portOf (setPort p (relockedPort (portOf s p)) s) p = relockedPort (portOf s p) := portOf_setPort_same ..
  rw [hup, portUpNow_quiet (s := setPort p (relockedPort (portOf s p)) s) hbacklog, hport]
  · rfl
  · intro q
    rw [portOf_setPort]
    split
    · exact hover p
    · exact hover q

theorem oldestFlit_none {x : Port} (h : x.tx.unacked = []) : oldestFlit x = none := by rw [oldestFlit, h]; rfl

/-- R294: what the relock leaves of a module whose port comes UP with an empty retry buffer. -/
theorem execRetrainRelock_up {p : Nat} {s : State} (hstate : (portOf s p).state = .retrain) (hmin : (portOf s p).start + 20000 ≤ s.clk)
    (hmax : s.clk ≤ (portOf s p).start + 2000000) (hunacked : (portOf s p).tx.unacked = []) (hbacklog : s.link.backlog = [])
    (hover : ∀ q, (portOf s q).failover = false) (hup : relocked p s = portUpNow p (setPort p (relockedPort (portOf s p)) s)) :
    Completes (.retrainRelock p) s fun t =>
      portOf t p = { portOf s p with state := .up, laneLock := 0xFF, upAt := some s.clk, downAt := none, tx := { (portOf s p).tx with replays := [] } } ∧
        t = { s with link := t.link } ∧ ∀ q, q ≠ p → portOf t q = portOf s q := by
  have heq := relocked_up hbacklog hover hup
  have hport : portOf (relocked p s) p = { relockedPort (portOf s p) with state := .up, upAt := some s.clk, downAt := none, failover := false } := by
    rw [heq, portOf_setPort_same]
  have hnone : oldestFlit (portOf (relocked p s) p) = none := oldestFlit_none (by rw [hport]; exact hunacked)
  refine ⟨relocked p s, (execRetrainRelock_eq hstate hmin hmax).trans (by rw [hnone]), ?_, ?_, fun q hq => ?_⟩
  · rw [hport, ← hover p]
    rfl
  · rw [heq]
    rfl
  · rw [heq, portOf_setPort_other _ _ hq, portOf_setPort_other _ _ hq]

/-- Settles O32: by the state that the port left and the flits that it still holds. -/
theorem retrainCommandsComplete : Obligations.RetrainCommandsComplete := by
  refine ⟨fun p s hp hs => ?_, fun p s hp hs => ?_, fun p lane s hlane hstate => ?_, fun p s hstate hmin hmax hback hunacked hfree => ?_,
    fun p s hstate hmin hmax hback hunacked hbacklog hover hadmitted hmatches => ?_,
    fun p s hstate hmin hmax hback hunacked hbacklog hover => ?_, fun p f i rest s hstate hmin hmax hback hfree hunacked => ?_,
    fun p s hstate hlate => ?_⟩
  · intro s1 hstate
    obtain ⟨heq, ⟨lock, hport⟩, hother⟩ := enterRetrain_effect pcSoftware hstate
    obtain ⟨-, -, -, -, hstats⟩ := noteDown_keeps (portOf s1 p) s1
    refine ⟨_, execZbRetrainWrite_eq hp hs, ?_⟩
    rw [retrainPort_software hstate]
    beta_reduce
    rw [hport]
    refine ⟨heq, rfl, rfl, rfl, rfl, noteDown_tx .., ?_, hother⟩
    simp only [retrainedPort, hstats]
  · intro s1 hstate
    exact ⟨_, execZbRetrainWrite_eq hp hs, if_pos (by simp [s1, hstate])⟩
  · obtain ⟨heq, ⟨lock, hport⟩, hother⟩ := enterRetrain_effect pcSilence hstate
    refine ⟨_, congrArg Host.Outcome.next (if_pos hlane), ?_⟩
    beta_reduce
    rw [hport]
    exact ⟨heq, rfl, rfl, rfl, rfl, noteDown_tx .., hother⟩
  · have hrelock := relocked_parked hback hfree
    have hnone : oldestFlit (portOf (relocked p s) p) = none := oldestFlit_none (by rw [hrelock, portOf_setPort_same]; exact hunacked)
    refine ⟨relocked p s, (execRetrainRelock_eq hstate hmin hmax).trans (by rw [hnone]), ?_⟩
    rw [hrelock]
    simp only [relockedPort, hback]
  · refine execRetrainRelock_up hstate hmin hmax hunacked hbacklog hover ?_
    have hport : portOf (setPort p (relockedPort (portOf s p)) s) p = relockedPort (portOf s p) := portOf_setPort_same ..
    have hmatches' : matchesNow (setPort p (relockedPort (portOf s p)) s) p = true :=
      (matchesNow_setPort_congr (x := relockedPort (portOf s p)) (y := { portOf s p with state := .parked, laneLock := 0xFF }) hback rfl rfl s).trans hmatches
    have hadm : (setPort p (relockedPort (portOf s p)) s).adm.admitted = true := hadmitted
    rw [relocked, if_neg (by simp [hback]), reevaluate, hport, hmatches', hadm]
    exact if_pos (by simp [relockedPort, hback])
  · exact execRetrainRelock_up hstate hmin hmax hunacked hbacklog hover (if_pos (by simp [hback]))
  · have hrelock := relocked_parked hback hfree
    have hport : portOf (relocked p s) p = relockedPort (portOf s p) := by rw [hrelock, portOf_setPort_same]
    have hold : oldestFlit (portOf (relocked p s) p) = some f := by rw [hport, oldestFlit, relockedPort, hunacked]; rfl
    refine ⟨replayFrom p f (relocked p s), (execRetrainRelock_eq hstate hmin hmax).trans (by rw [hold]), ?_⟩
    have hflits : (portOf (relocked p s) p).tx.unacked = [] ++ (f, i) :: rest := by rw [hport]; exact hunacked
    have hfew : ¬ 8 ≤ (portOf (relocked p s) p).tx.replays.get 0 f.toNat + 1 := by rw [hport]; exact (by decide : ¬ 8 ≤ 0 + 1)
    beta_reduce
    rw [replayFrom_eq hflits (fun _ h => nomatch h), if_neg hfew]
    rw [portOf_emit, portOf_setPort_same, hport, hrelock]
    exact ⟨rfl, hback, rfl, rfl⟩
  · exact ⟨_, congrArg Host.Outcome.next (if_pos (by simp [hstate, hlate])), rfl⟩

end Sys2Proof.Machine
end

section
/-! PROOFS. Flits and their acknowledgement (R293, R315). -/

namespace Sys2Proof.Machine

theorem eq_with_link_out {s t : State} (h : outside [.link, .out] t = outside [.link, .out] s) : t = { s with link := t.link, out := t.out } := by
  rw [outside_eq_iff] at h
  simp at h
  cases t
  cases s
  simp_all

theorem noteStamp_ports (p : Nat) (w : CtlWord) (s : State) (q : Nat) : portOf (noteStamp p w s) q = portOf s q :=
  portOf_of_link (link_of_outside (noteStamp_outside (by simp) p w s)) q

/-- A control word changes of its port only what it sends. -/
theorem portOf_sendWord (p : Nat) (w : CtlWord) (s : State) : ∃ tx, portOf (sendWord p w s) p = { portOf s p with tx := tx } := by
  unfold sendWord
  dsimp only
  split
  · exact ⟨_, portOf_setPort_same ..⟩
  · exact ⟨_, portOf_setPort_same ..⟩

theorem portOf_sendWord_other {p q : Nat} (hq : q ≠ p) (w : CtlWord) (s : State) : portOf (sendWord p w s) q = portOf s q := by
  unfold sendWord
  dsimp only
  split
  · rw [sendNow, portOf_emit, portOf_setPort_other _ _ hq, noteStamp_ports]
  · exact portOf_setPort_other _ _ hq

theorem sendWord_nak_outside (p : Nat) (n : BitVec 12) (s : State) : outside [.link, .out] (sendWord p (.nak n) s) = outside [.link, .out] s := by
  unfold sendWord sendNow
  dsimp only
  split
  · rw [emit_outside (by simp), setPort_outside (by simp)]
    rfl
  · exact setPort_outside (by simp) ..

/-- R293: what a NAK leaves: the port asks for the flits from the first that it has not accepted. -/
theorem sendNak_effect (p : Nat) (s : State) :
    let t := sendNak p s
    t = { s with link := t.link, out := t.out } ∧ (∀ q, q ≠ p → portOf t q = portOf s q) ∧
      ∃ tx, portOf t p = { portOf s p with
        tx := tx, rx := { (portOf s p).rx with nak := some ((portOf s p).rx.ackable + 1), expect := (portOf s p).rx.ackable + 1, nakAt := s.clk } } := by
  intro t
  refine ⟨eq_with_link_out ((sendWord_nak_outside ..).trans (setPort_outside (by simp) ..)), fun q hq => ?_, ?_⟩
  · exact (portOf_sendWord_other hq ..).trans (portOf_setPort_other _ _ hq)
  · obtain ⟨tx, htx⟩ := portOf_sendWord p (.nak ((portOf s p).rx.ackable + 1))
      (setPort p { portOf s p with rx := { (portOf s p).rx with nak := some ((portOf s p).rx.ackable + 1), expect := (portOf s p).rx.ackable + 1, nakAt := s.clk } } s)
    rw [portOf_setPort_same] at htx
    exact ⟨tx, htx⟩

/-! ### What a flit leaves -/

/-- R293: the module once the codewords of a flit are counted. -/
def countFlit (p : Nat) (f : Flit) (s : State) : State := setPort p { portOf s p with stats := countCodeword f.codeword (portOf s p).stats } s

theorem maybeDeskew_of_flitState {p : Nat} {s : State} (h : flitState s p = true) : maybeDeskew p s = s := by
  refine if_neg fun hnot => ?_
  obtain ⟨htraining, hskewed⟩ := Bool.and_eq_true_iff.mp hnot
  rw [flitState, beq_iff_eq.mp htraining] at h
  exact absurd h (by simpa using hskewed)

theorem execFlitReceive_eq {p : Nat} {f : Flit} {s : State} (h : flitState s p = true) :
    execFlitReceive p f s = .next (match (portOf s p).rx.nak with
      | some n => if !Ecc.bad f.codeword && !f.idle && f.replay && f.fseq == n && f.laneField == f.lane then acceptFlit p f (countFlit p f s) else countFlit p f s
      | none =>
        if Ecc.bad f.codeword || f.laneField != f.lane then sendNak p (countFlit p f s)
        else if f.fseq == (portOf s p).rx.expect then (if f.idle then countFlit p f s else acceptFlit p f (countFlit p f s))
        else if f.replay && decide (1 ≤ ((portOf s p).rx.expect - f.fseq).toNat ∧ ((portOf s p).rx.expect - f.fseq).toNat ≤ 2047) then countFlit p f s
        else sendNak p (countFlit p f s)) := by
  rw [execFlitReceive, maybeDeskew_of_flitState h]
  exact congrArg Host.Outcome.next (if_neg (by simp [h]))

theorem portOf_countFlit (p : Nat) (f : Flit) (s : State) :
    portOf (countFlit p f s) p = { portOf s p with stats := countCodeword f.codeword (portOf s p).stats } := portOf_setPort_same ..

theorem portOf_countFlit_other {p q : Nat} (hq : q ≠ p) (f : Flit) (s : State) : portOf (countFlit p f s) q = portOf s q :=
  portOf_setPort_other _ _ hq

/-- R293: the receiver of a flit that it accepts. -/
def acceptedRx (f : Flit) (x : PortRx) : PortRx := { x with expect := f.fseq + 1, nak := none, ackable := f.firstOpen - 1, sinceAck := x.sinceAck + 1 }

/-- R293: the port whose flit is accepted and whose CRC fails. -/
def crcFailedPort (f : Flit) (x : Port) : Port := { x with rx := acceptedRx f x.rx, stats := { x.stats with crcFail := x.stats.crcFail.add 1 } }

theorem acceptFlit_good {p : Nat} {f : Flit} {s : State} (h : f.crcFail = false) :
    acceptFlit p f s = setPort p { portOf s p with rx := acceptedRx f (portOf s p).rx } s :=
  if_neg (by simp [h])

theorem acceptFlit_crcFail {p : Nat} {f : Flit} {s : State} (h : f.crcFail = true) :
    acceptFlit p f s = sendNak p (setPort p (crcFailedPort f (portOf s p)) s) :=
  if_pos h

theorem toNat_sub_ne_zero {a b : BitVec 12} (h : b ≠ a) : 1 ≤ (a - b).toNat := by
  refine Nat.one_le_iff_ne_zero.mpr fun hzero => h ?_
  bv_omega

theorem countCodeword_crcFail (e : Ecc) (c : PortStats) : (countCodeword e c).crcFail = c.crcFail := by
  cases e <;> rfl

theorem execFlitReceive_accepts {p : Nat} {f : Flit} {s : State} (hstate : flitState s p = true) (hnak : (portOf s p).rx.nak = none)
    (hgood : Ecc.bad f.codeword = false) (hidle : f.idle = false) (hlane : f.laneField = f.lane) (hseq : f.fseq = (portOf s p).rx.expect) :
    execFlitReceive p f s = .next (acceptFlit p f (countFlit p f s)) := by
  rw [execFlitReceive_eq hstate, hnak]
  simp [hgood, hlane, hseq, hidle]

theorem execFlitReceive_naks {p : Nat} {f : Flit} {s : State} (hstate : flitState s p = true) (hnak : (portOf s p).rx.nak = none)
    (hor : Ecc.bad f.codeword = true ∨ f.laneField ≠ f.lane ∨
      f.fseq ≠ (portOf s p).rx.expect ∧ (f.replay = false ∨ 2047 < ((portOf s p).rx.expect - f.fseq).toNat)) :
    execFlitReceive p f s = .next (sendNak p (countFlit p f s)) := by
  rw [execFlitReceive_eq hstate, hnak]
  refine congrArg Host.Outcome.next ?_
  dsimp only
  by_cases hbad : (Ecc.bad f.codeword || f.laneField != f.lane) = true
  · exact if_pos hbad
  · obtain ⟨hgood, hlane⟩ : Ecc.bad f.codeword = false ∧ f.laneField = f.lane := by simpa using hbad
    obtain h | h | ⟨hseq, hlate⟩ := hor
    · rw [hgood] at h
      cases h
    · exact absurd hlane h
    · rw [if_neg hbad, if_neg (by simpa using hseq)]
      refine if_neg fun hin => ?_
      obtain ⟨hreplay, hle⟩ := Bool.and_eq_true_iff.mp hin
      obtain ⟨-, hle⟩ := of_decide_eq_true hle
      exact hlate.elim (fun h => by rw [h] at hreplay; cases hreplay) (fun h => absurd hle (Nat.not_le.mpr h))

theorem execFlitReceive_counts {p : Nat} {f : Flit} {s : State} (hstate : flitState s p = true) (hnak : (portOf s p).rx.nak = none)
    (hgood : Ecc.bad f.codeword = false) (hlane : f.laneField = f.lane)
    (hor : f.idle = true ∧ f.fseq = (portOf s p).rx.expect ∨ f.fseq ≠ (portOf s p).rx.expect ∧ f.replay = true ∧
      ((portOf s p).rx.expect - f.fseq).toNat ≤ 2047) :
    execFlitReceive p f s = .next (countFlit p f s) := by
  rw [execFlitReceive_eq hstate, hnak]
  refine congrArg Host.Outcome.next ?_
  dsimp only
  rw [if_neg (by simp [hgood, hlane])]
  obtain ⟨hidle, hseq⟩ | ⟨hseq, hreplay, hle⟩ := hor
  · rw [if_pos (by simpa using hseq), if_pos hidle]
  · rw [if_neg (by simpa using hseq)]
    exact if_pos (by rw [hreplay, decide_eq_true ⟨toNat_sub_ne_zero hseq, hle⟩]; rfl)

theorem execFlitReceive_asked {p : Nat} {f : Flit} {n : BitVec 12} {s : State} (hstate : flitState s p = true) (hnak : (portOf s p).rx.nak = some n) :
    execFlitReceive p f s = .next (if !Ecc.bad f.codeword && !f.idle && f.replay && f.fseq == n && f.laneField == f.lane
      then acceptFlit p f (countFlit p f s) else countFlit p f s) := by
  rw [execFlitReceive_eq hstate, hnak]

/-- Settles O33: by what the receiver of the port expects and asks for. -/
theorem flitsComplete : Obligations.FlitsComplete := by
  refine ⟨fun p f s hstate hnak hgood hidle hlane hseq hcrc => ?_, fun p f s hstate hnak hgood hidle hlane hseq hcrc => ?_,
    fun p f s hstate hnak hor => ?_, fun p f s hstate hnak hgood hlane hor => ⟨_, execFlitReceive_counts hstate hnak hgood hlane hor, rfl⟩,
    fun p f n s hstate hnak hor => ?_, fun p f n s hstate hnak hgood hidle hlane hreplay hseq hcrc => ?_, fun p f s hstate hnot => ?_,
    fun p s hstate hne hdue => ?_, fun p n s hstate hnak hlate => ?_⟩
  · refine ⟨_, execFlitReceive_accepts hstate hnak hgood hidle hlane hseq, ?_⟩
    rw [acceptFlit_good hcrc]
    refine ⟨rfl, fun q hq => (portOf_setPort_other _ _ hq).trans (portOf_countFlit_other hq f s), ?_⟩
    rw [portOf_setPort_same, portOf_countFlit]
    rfl
  · obtain ⟨heq, hother, tx, hport⟩ := sendNak_effect p (setPort p (crcFailedPort f (portOf (countFlit p f s) p)) (countFlit p f s))
    refine ⟨_, execFlitReceive_accepts hstate hnak hgood hidle hlane hseq, ?_⟩
    rw [acceptFlit_crcFail hcrc]
    rw [portOf_setPort_same] at hport
    refine ⟨heq, fun q hq => (hother q hq).trans ((portOf_setPort_other _ _ hq).trans (portOf_countFlit_other hq f s)), ?_, ?_⟩
    · rw [hport]
      exact congrArg some (BitVec.sub_add_cancel ..)
    · rw [hport, portOf_countFlit]
      exact congrArg (Stat.add · 1) (countCodeword_crcFail ..)
  · obtain ⟨heq, hother, tx, hport⟩ := sendNak_effect p (countFlit p f s)
    refine ⟨_, execFlitReceive_naks hstate hnak hor, heq, fun q hq => (hother q hq).trans (portOf_countFlit_other hq f s), ?_⟩
    rw [hport, portOf_countFlit]
    exact ⟨rfl, rfl, rfl, rfl⟩
  · refine ⟨_, (execFlitReceive_asked hstate hnak).trans (congrArg Host.Outcome.next (if_neg fun h => ?_)), rfl⟩
    simp only [Bool.and_eq_true, Bool.not_eq_true', beq_iff_eq] at h
    obtain ⟨⟨⟨⟨hgood, hidle⟩, hreplay⟩, hseq⟩, hlane⟩ := h
    simp [hgood, hidle, hreplay, hseq, hlane] at hor
  · refine ⟨_, (execFlitReceive_asked hstate hnak).trans (congrArg Host.Outcome.next (if_pos (by simp [hgood, hidle, hreplay, hseq, hlane]))), ?_⟩
    rw [acceptFlit_good hcrc]
    beta_reduce
    rw [portOf_setPort_same]
    exact ⟨rfl, congrArg (· + 1) hseq, rfl⟩
  · refine ⟨s, ?_, rfl⟩
    have hdeskew : maybeDeskew p s = s := if_neg (by simp [hnot])
    rw [show exec (.flitReceive p f) s = execFlitReceive p f s from rfl, execFlitReceive, hdeskew]
    exact congrArg Host.Outcome.next (if_pos (by simp [hstate]))
  · refine ⟨_, congrArg Host.Outcome.next (if_pos ?_), rfl⟩
    simpa [hstate, hne] using hdue
  · refine ⟨sendWord p (.nak n) (setPort p { portOf s p with rx := { (portOf s p).rx with nakAt := s.clk } } s), ?_, rfl⟩
    rw [show exec (.nakRepeatTimeout p) s = execNakRepeatTimeout p s from rfl, execNakRepeatTimeout]
    simp only [hnak]
    exact congrArg Host.Outcome.next (if_pos (by simp [hstate, hlate]))

end Sys2Proof.Machine
end

section
/-! PROOFS. Acknowledgements, replays and control words of a port (R246, R293, R294, R299). -/

namespace Sys2Proof.Machine

theorem eq_with_link_lg {s t : State} (h : outside [.link, .lg] t = outside [.link, .lg] s) : t = { s with link := t.link, lg := t.lg } := by
  rw [outside_eq_iff] at h
  simp at h
  cases t
  cases s
  simp_all

theorem eq_with_link_out_ft {s t : State} (h : outside [.link, .out, .ft] t = outside [.link, .out, .ft] s) :
    t = { s with link := t.link, out := t.out, ft := t.ft } := by
  rw [outside_eq_iff] at h
  simp at h
  cases t
  cases s
  simp_all

theorem drainBacklog_of_nil {s : State} (h : s.link.backlog = []) : drainBacklog s = s := by
  rw [drainBacklog, h]
  refine Eq.trans ?_ (show ({ s with link := { s.link with backlog := s.link.backlog } } : State) = s from rfl)
  rw [h]
  rfl

theorem ledgerMove_made {d h n : Nat} {src dst : Column} (r : Option Ref) {s : State} {y : LgDom} (hparity : (lgDom s d).parityBad = false)
    (hmove : (lgDom s d).move (d == dBlock) h n src dst = .ok y) :
    ledgerMove d h n src dst r s = (true, if n = 0 then s else setLgDom d y s) := by
  unfold ledgerMove
  split
  · rfl
  · simp only [parityCheck_good d s hparity, hmove]

/-! ### Acknowledgements -/

/-- The packets among flits of the retry buffer. -/
def packetsIn (us : List (BitVec 12 × TxItem)) : Nat := (us.filter fun u => match u.2 with | .packet _ => true | _ => false).length

/-- R293: the port whose flits up to the one that an ACK names are free. -/
def ackedPort (after : List (BitVec 12 × TxItem)) (clk : Nat) (x : Port) : Port :=
  { x with tx := { x.tx with unacked := after, moved := clk, replays := x.tx.replays.filter fun r => after.any fun u => u.1.toNat == r.1 } }

theorem takeAck_eq {p : Nat} {f : BitVec 12} {i : TxItem} {before after : List (BitVec 12 × TxItem)} {s : State}
    (hunacked : (portOf s p).tx.unacked = before ++ (f, i) :: after) (hother : ∀ u ∈ before ++ after, u.1 ≠ f) :
    takeAck p f s = drainBacklog (ledgerMove dLinkPacket p (packetsIn (before ++ [(f, i)])) .held .free none
      (setPort p (ackedPort after s.clk (portOf s p)) s)).2 := by
  have hbefore : ∀ u ∈ before, u.1 ≠ f := fun u hu => hother u (List.mem_append_left _ hu)
  have hafter : ∀ u ∈ after, u.1 ≠ f := fun u hu => hother u (List.mem_append_right _ hu)
  have htake : (before ++ (f, i) :: after).takeWhile (fun u => u.1 != f) = before := by
    rw [List.takeWhile_append_of_pos fun u hu => bne_iff_ne.mpr (hbefore u hu), List.takeWhile_cons_of_neg (by simp), List.append_nil]
  have hfilter : (before ++ (f, i) :: after).filter (fun u => u.1 == f) = [(f, i)] := by
    rw [List.filter_append, List.filter_cons_of_pos (by simp), List.filter_eq_nil_iff.mpr fun u hu => by simpa using hbefore u hu,
      List.filter_eq_nil_iff.mpr fun u hu => by simpa using hafter u hu]
    rfl
  have hdrop : (before ++ (f, i) :: after).drop (before ++ [(f, i)]).length = after := by simp
  rw [takeAck, hunacked]
  simp only [htake, hfilter, hdrop]
  exact if_pos (by simp)

theorem takeAck_of_unnamed {p : Nat} {f : BitVec 12} {s : State} (h : ∀ u ∈ (portOf s p).tx.unacked, u.1 ≠ f) : takeAck p f s = s :=
  if_neg (by simpa using fun i hi => h (f, i) hi rfl)

/-! ### Replays -/

/-- R293: the module whose port sends its flits from f on again. -/
def replayedState (p : Nat) (f : BitVec 12) (i : TxItem) (after : List (BitVec 12 × TxItem)) (s : State) : State :=
  emit (.replay p (flitsAgain (portOf s p) ((f, i) :: after))) (setPort p (replayedPort f (after.length + 1) s.clk (portOf s p)) s)

theorem portOf_replayedState (p : Nat) (f : BitVec 12) (i : TxItem) (after : List (BitVec 12 × TxItem)) (s : State) :
    portOf (replayedState p f i after s) p = replayedPort f (after.length + 1) s.clk (portOf s p) := by
  rw [replayedState, portOf_emit, portOf_setPort_same]

theorem execNakReceive_eq {p : Nat} {f : BitVec 12} {s : State} (h : flitState s p = true) : execNakReceive p f false s = .next (replayFrom p f s) :=
  congrArg Host.Outcome.next (if_pos (by simp [h]))

/-! ### Control words -/

theorem sendWord_now {p : Nat} {w : CtlWord} {s : State} (hwords : (portOf s p).tx.words = []) (hroom : (portOf s p).tx.unacked.length < 512) :
    (sendWord p w s).out = s.out ++ [.ctlWord p (wordWire (stampWord s.ft.ft w)) (flitBits (portOf s p) 0 false)] ∧
      portOf (sendWord p w s) p = takeFlits [.word (stampWord s.ft.ft w)] s.clk (portOf s p) := by
  have hnow : sendWord p w s = sendNow p w s := if_pos (by simp [hwords, hroom])
  rw [hnow, sendNow, portOf_emit, portOf_setPort_same]
  have hout : (noteStamp p (stampWord s.ft.ft w) s).out = s.out := out_of_outside (noteStamp_outside (by simp) ..)
  refine ⟨?_, rfl⟩
  rw [emit, setPort, hout]

theorem sendWord_waits {p : Nat} {s : State} (h : (portOf s p).tx.words ≠ [] ∨ 512 ≤ (portOf s p).tx.unacked.length) (w : CtlWord) :
    sendWord p w s = setPort p { portOf s p with tx := { (portOf s p).tx with words := (portOf s p).tx.words ++ [w] } } s := by
  refine if_neg fun hnow => ?_
  obtain ⟨hwords, hroom⟩ := Bool.and_eq_true_iff.mp hnow
  exact h.elim (fun hne => hne (by simpa using hwords)) (fun hle => absurd (of_decide_eq_true hroom) (Nat.not_lt.mpr hle))

/-- Settles O34: by the place of the flit in the retry buffer, and by whether a word leaves its port at once. -/
theorem acksAndReplaysComplete : Obligations.AcksAndReplaysComplete := by
  refine ⟨⟨fun p f i before after y s hstate hunacked hother hbacklog hparity => ?_, fun p f s hstate hnone => ?_,
    fun p f i before after s hstate hunacked hbefore hfew => ?_, fun p f i before after s hstate hunacked hbefore hmany => ?_,
    fun p f i rest s hstate hunacked hlate => ?_⟩, fun p w s => ⟨fun hwords hroom => ?_, fun hwait => ?_, fun q hq => portOf_sendWord_other hq w s, ?_⟩⟩
  · intro n hmove
    let u := setPort p (ackedPort after s.clk (portOf s p)) s
    have hdoms (d : Nat) : lgDom u d = lgDom s d := rfl
    have hledger : ledgerMove dLinkPacket p n .held .free none u = (true, if n = 0 then u else setLgDom dLinkPacket y u) :=
      ledgerMove_made none (s := u) ((hdoms _).symm ▸ hparity) hmove
    have hnil : (if n = 0 then u else setLgDom dLinkPacket y u).link.backlog = [] := by split <;> exact hbacklog
    have hport (k : State) (hk : k.link = u.link) : portOf k p = ackedPort after s.clk (portOf s p) :=
      (portOf_of_link hk p).trans (portOf_setPort_same ..)
    have heq : takeAck p f s = if n = 0 then u else setLgDom dLinkPacket y u := by
      rw [takeAck_eq hunacked hother, show packetsIn (before ++ [(f, i)]) = n from rfl, hledger]
      exact drainBacklog_of_nil hnil
    refine ⟨takeAck p f s, congrArg Host.Outcome.next (if_pos (by simp [hstate])), ?_⟩
    rw [heq]
    refine ⟨eq_with_link_lg ?_, ?_⟩
    · split
      · exact setPort_outside (by simp) ..
      · exact (setLgDom_outside (by simp) ..).trans (setPort_outside (by simp) ..)
    · rw [hport _ (by split <;> rfl)]
      exact ⟨rfl, rfl, rfl, rfl, fun hn => by rw [if_neg hn]; exact Tab.get_put_same _⟩
  · exact ⟨_, congrArg Host.Outcome.next (if_pos (by simp [hstate])), takeAck_of_unnamed hnone⟩
  · have heq : replayFrom p f s = replayedState p f i after s := (replayFrom_eq hunacked hbefore).trans (if_neg (by omega))
    refine ⟨_, execNakReceive_eq hstate, ?_⟩
    rw [heq]
    beta_reduce
    rw [portOf_replayedState]
    exact ⟨rfl, rfl, rfl, rfl, rfl, rfl⟩
  · have heq : replayFrom p f s = enterRetrain p 6 (replayedState p f i after s) := (replayFrom_eq hunacked hbefore).trans (if_pos (by omega))
    have hup : (portOf (replayedState p f i after s) p).state = .up := by rw [portOf_replayedState]; exact hstate
    obtain ⟨hrest, ⟨lock, hport⟩, -⟩ := enterRetrain_effect 6 (.inr hup)
    refine ⟨_, execNakReceive_eq (by rw [flitState, hstate]), ?_⟩
    rw [heq]
    beta_reduce
    rw [hport]
    exact ⟨congrArg State.out hrest, rfl, rfl, hup⟩
  · have hold : oldestFlit (portOf s p) = some f := by rw [oldestFlit, hunacked]; rfl
    refine ⟨replayFrom p f s, ?_, rfl⟩
    rw [show exec (.replayTimeout p) s = execReplayTimeout p s from rfl, execReplayTimeout, hold]
    exact congrArg Host.Outcome.next (if_pos (by simp [hstate, hlate]))
  · obtain ⟨hout, hport⟩ := sendWord_now (w := w) hwords hroom
    rw [hport]
    exact ⟨hout, by simp [takeFlits], by simp [takeFlits], by simp [takeFlits]⟩
  · rw [sendWord_waits hwait, portOf_setPort_same]
    exact ⟨rfl, rfl, rfl, rfl⟩
  · exact eq_with_link_out_ft (sendWord_outside (by simp) p w s)

end Sys2Proof.Machine
end

section
/-! PROOFS. Credits, packets, freed blocks and failover (R299, R304, R305, R307, R310, R313). -/

namespace Sys2Proof.Machine

theorem eq_with_ft {s t : State} (h : outside [.ft] t = outside [.ft] s) : t = { s with ft := t.ft } := by
  rw [outside_eq_iff] at h
  simp at h
  cases t
  cases s
  simp_all

/-! ### Packets that leave -/

theorem flitState_of_up {p : Nat} {s : State} (h : (portOf s p).state = .up) : flitState s p = true := by rw [flitState, h]

theorem firstWord_none {x : Port} (h : x.tx.words = []) : firstWord x = none := by simp [firstWord, h]

/-- R304: a port that is UP, with no word that waits, sends its next packet or an idle flit. -/
theorem execPacketSend_up {p : Nat} {s : State} (hup : (portOf s p).state = .up) (hwords : (portOf s p).tx.words = []) (hbacklog : s.link.backlog = []) :
    execPacketSend p s = .next (match nextPacket s p with
      | some q => leaveWindow q (transmit p q s)
      | none => sendIdle p s) := by
  rw [execPacketSend, if_neg (by simp [flitState_of_up hup]), firstWord_none hwords]
  dsimp only
  rw [if_neg (by simp [hup]), drainBacklog_of_nil hbacklog] <;> rfl

theorem execPacketSend_word {p : Nat} {w : CtlWord} {s : State} (hstate : flitState s p = true) (hword : firstWord (portOf s p) = some w) :
    execPacketSend p s = .next (sendWaiting p w s) := by
  rw [execPacketSend, if_neg (by simp [hstate]), hword]

theorem leaveWindow_of_type {q : Packet} (h : q.type ≠ 1) (s : State) : leaveWindow q s = s := by
  have hne : (q.type == 1) = false := beq_eq_false_iff_ne.mpr h
  unfold leaveWindow
  generalize List.range 64 = ns
  induction ns generalizing s with
  | nil => rfl
  | cons n ns ih =>
    rw [List.foldl_cons]
    simp only [hne, Bool.false_and, Bool.false_eq_true, if_false] at ih ⊢
    exact ih s

theorem packetFlits_pos (q : Packet) : 0 < packetFlits q := by
  have hbytes : 40 ≤ packetBytes q := Nat.le_add_right ..
  rw [packetFlits, ceilDiv]
  omega

theorem packetBlocks_pos (q : Packet) : 0 < packetBlocks q := by
  have hbytes : 40 ≤ packetBytes q := Nat.le_add_right ..
  rw [packetBlocks, ceilDiv]
  omega

theorem takeFlits_counts (parts : List TxItem) (clk : Nat) (x : Port) :
    (takeFlits parts clk x).tx.unacked.length = x.tx.unacked.length + parts.length ∧
      (takeFlits parts clk x).tx.next = x.tx.next + BitVec.ofNat 12 parts.length ∧ (takeFlits parts clk x).tx.sent = x.tx.sent + parts.length := by
  refine ⟨?_, rfl, rfl⟩
  simp [takeFlits]

/-- R304: the port that a packet leaves. -/
theorem portOf_transmit (p : Nat) (q : Packet) (s : State) :
    ∃ turn frame used, portOf (transmit p q s) p =
      (let y := takeFlits (List.replicate (packetFlits q - 1) TxItem.part ++ [.packet q]) s.clk (portOf s p)
       { y with
         stats := { (portOf s p).stats with txBytes := (portOf s p).stats.txBytes.add (packetBytes q) }
         tx := { y.tx with queue := (portOf s p).tx.queue.erase q, turn := turn, frame := frame, used := used, credits := (portOf s p).tx.credits.upd 0 q.vc (· - packetBlocks q) } }) := by
  unfold transmit
  dsimp only
  rw [portOf_emit]
  have hset (x : Port) : portOf (if primaryOf s (pathKey q) = some p then setPort p x s else setPath (pathKey q) { pathOf s q with alt := some s.clk } (setPort p x s)) p = x := by
    split
    · exact portOf_setPort_same ..
    · exact portOf_setPort_same ..
  rw [hset]
  split
  · exact ⟨_, _, _, rfl⟩
  · exact ⟨_, _, _, rfl⟩

theorem portOf_transmit_other {p z : Nat} (hz : z ≠ p) (q : Packet) (s : State) : portOf (transmit p q s) z = portOf s z := by
  unfold transmit
  dsimp only
  rw [portOf_emit]
  split
  · exact portOf_setPort_other _ _ hz
  · exact portOf_setPort_other _ _ hz

theorem transmit_out (p : Nat) (q : Packet) (s : State) :
    (transmit p q s).out = s.out ++ [.packet p (packetWire q) ((List.range (packetFlits q)).map fun i => flitBits (portOf s p) i false)] := by
  unfold transmit
  dsimp only
  rw [emit]
  split <;> rfl

/-! ### Packets that arrive -/

theorem execPacketReceive_eq {p : Nat} {q : Packet} {s : State} (hstate : flitState s p = true) (hvc : q.vc < 8) :
    execPacketReceive p q s = .next (receivePacket p q s) :=
  congrArg Host.Outcome.next (if_pos (by simp [hstate, hvc]))

/-- R315: the module once the bytes of an arriving packet are counted. -/
def countPacket (p : Nat) (q : Packet) (s : State) : State :=
  setPort p { portOf s p with stats := { (portOf s p).stats with rxBytes := (portOf s p).stats.rxBytes.add (packetBytes q) } } s

theorem receivePacket_training {p : Nat} {q : Packet} {s : State} (hstate : (portOf s p).state = .training) :
    receivePacket p q s = deliver p 0 (noteArrival p q (countPacket p q s)).1 q (noteArrival p q (countPacket p q s)).2 := by
  have hblocks : (if (portOf s p).state == .training then 0 else packetBlocks q) = 0 := if_pos (by simp [hstate])
  rw [receivePacket]
  simp only [hblocks]
  rfl

theorem receivePacket_pool {p : Nat} {q : Packet} {s : State} (hstate : (portOf s p).state ≠ .training) :
    receivePacket p q s =
      (let a := poolArrive p q.vc (packetBlocks q) (countPacket p q s)
       if a.1 then deliver p (packetBlocks q) (noteArrival p q a.2).1 q (noteArrival p q a.2).2 else a.2) := by
  have hblocks : (if (portOf s p).state == .training then 0 else packetBlocks q) = packetBlocks q := if_neg (by simpa using hstate)
  rw [receivePacket]
  simp only [hblocks, if_neg (Nat.ne_of_gt (packetBlocks_pos q))]
  show (if (!(poolArrive p q.vc (packetBlocks q) (countPacket p q s)).1) = true then _ else _) = _
  cases (poolArrive p q.vc (packetBlocks q) (countPacket p q s)).1 <;> rfl

/-! ### Blocks that are freed -/

theorem poolCh_of_pool {s t : State} {c : Nat} {x : PoolCh} (h : t.link.pool.chans = s.link.pool.chans.put .reset c x) :
    poolCh t c = x ∧ ∀ z, z ≠ c → poolCh t z = poolCh s z := by
  refine ⟨?_, fun z hz => ?_⟩
  · rw [poolCh, h, Tab.get_put_same]
  · rw [poolCh, h, Tab.get_put_other _ hz]
    rfl

theorem poolFree_effect (p v n : Nat) (s : State) :
    (∃ adv, (poolFree p v n s).link.pool.chans = s.link.pool.chans.put .reset (chanOf p v)
      { poolCh s (chanOf p v) with held := (poolCh s (chanOf p v)).held - min n (poolCh s (chanOf p v)).held, adv := adv }) ∧
    (poolFree p v n s).mem = s.mem ∧ (poolFree p v n s).ft = s.ft := by
  refine ⟨?_, mem_of_outside (poolFree_outside (by simp) p v n s), ?_⟩
  · apply Exists.intro
    rw [poolFree, giveCredits_pool]
    exact congrArg Pool.chans ((pool_of_core (ledgerMove_core ..)).trans (pool_of_core (ledgerMove_core ..)))
  · rw [poolFree, (sendsOn_giveCredits ..).2.2]
    exact (ft_of_outside (ledgerMove_outside (by simp) ..)).trans (ft_of_outside (ledgerMove_outside (by simp) ..))

/-! ### Streams that return to their port -/

/-- R313: a stream that returns to port p. -/
def returnsTo (p : Nat) (s : State) (x : Nat × Path) : Bool := x.2.port != p && !x.2.mid && primaryOf s x.1 == some p

/-- R313: one stream returns to port p. -/
def returnOne (p : Nat) (s : State) (x : Nat × Path) : State := if returnsTo p s x then setPath x.1 { x.2 with port := p } s else s

theorem returnOne_eq (p : Nat) (s : State) (x : Nat × Path) :
    returnOne p s x = { s with link := { s.link with paths := (returnOne p s x).link.paths } } := by
  unfold returnOne
  split <;> rfl

theorem primaryOf_paths (s : State) (paths : Tab Path) (k : Nat) : primaryOf { s with link := { s.link with paths := paths } } k = primaryOf s k := rfl

theorem foldl_returnOne_eq (p : Nat) (xs : List (Nat × Path)) (s : State) :
    ∃ paths, xs.foldl (returnOne p) s = { s with link := { s.link with paths := paths } } := by
  induction xs generalizing s with
  | nil => exact ⟨s.link.paths, rfl⟩
  | cons x xs ih =>
    obtain ⟨paths, hpaths⟩ := ih (returnOne p s x)
    refine ⟨paths, ?_⟩
    rw [List.foldl_cons, hpaths, returnOne_eq]

theorem returnOne_keeps {p k : Nat} {s : State} (x : Nat × Path) (h : (s.link.paths.get .reset k).port = p) :
    ((returnOne p s x).link.paths.get .reset k).port = p := by
  unfold returnOne
  split
  · rw [setPath, Tab.get_put]
    split
    · rfl
    · exact h
  · exact h

theorem foldl_returnOne_keeps {p k : Nat} (xs : List (Nat × Path)) {s : State} (h : (s.link.paths.get .reset k).port = p) :
    ((xs.foldl (returnOne p) s).link.paths.get .reset k).port = p := by
  induction xs generalizing s with
  | nil => exact h
  | cons x xs ih => exact ih (returnOne_keeps x h)

theorem foldl_returnOne_port {p : Nat} {x : Nat × Path} {xs : List (Nat × Path)} (hx : x ∈ xs) {s : State} (hret : returnsTo p s x = true) :
    ((xs.foldl (returnOne p) s).link.paths.get .reset x.1).port = p := by
  induction xs generalizing s with
  | nil => cases hx
  | cons y ys ih =>
    obtain rfl | hy := List.mem_cons.mp hx
    · refine foldl_returnOne_keeps ys ?_
      rw [returnOne, if_pos hret, setPath, Tab.get_put_same]
    · refine ih hy ?_
      rw [returnOne_eq]
      exact hret

/-- Settles O35: by what the port sends next, and by what the pool keeps of an arrival and of freed blocks. -/
theorem creditsAndPacketsComplete : Obligations.CreditsAndPacketsComplete := by
  refine ⟨fun p vc total n s hstate hvc hahead => ?_, fun p q s hup hwords hbacklog hnext => ?_, fun p q s hup hwords hbacklog hnext htype => ?_,
    fun p s hup hwords hbacklog hnext => ?_, fun p w s hstate hword hroom => ?_, fun p w s hstate hword hfull => ?_, fun p q s hstate hvc => ?_,
    fun p q s hstate hvc => ?_, fun p q s hstate hvc => ?_, fun p q s => ?_, fun q s => ?_, fun c n s hc => ?_, fun p c s hdown hnot hlate hover => ?_,
    fun p c s hup hstate hlate => ?_⟩
  · refine ⟨setPort p { portOf s p with tx := { (portOf s p).tx with credits := (portOf s p).tx.credits.upd 0 vc (· + n), totals := (portOf s p).tx.totals.put 0 vc total } } s, ?_, rfl⟩
    rw [show exec (.creditReceive p vc total) s = execCreditReceive p vc total s from rfl, execCreditReceive]
    simp only [hahead]
    exact congrArg Host.Outcome.next (if_pos (by simp [hstate, hvc]))
  · exact ⟨_, (execPacketSend_up hup hwords hbacklog).trans (by rw [hnext]), rfl⟩
  · obtain ⟨turn, frame, used, hport⟩ := portOf_transmit p q s
    have hlen : (List.replicate (packetFlits q - 1) TxItem.part ++ [TxItem.packet q]).length = packetFlits q := by
      have := packetFlits_pos q
      simp
      omega
    obtain ⟨hunacked, hseq, hsent⟩ := takeFlits_counts (List.replicate (packetFlits q - 1) TxItem.part ++ [.packet q]) s.clk (portOf s p)
    rw [hlen] at hunacked hseq hsent
    refine ⟨transmit p q s, (execPacketSend_up hup hwords hbacklog).trans (by rw [hnext]; exact congrArg Host.Outcome.next (leaveWindow_of_type htype _)), ?_,
      fun z hz => portOf_transmit_other hz q s, ?_⟩
    · rw [← transmit_out]
      exact eq_with_link_out (transmit_outside (by simp) p q s)
    · rw [hport]
      exact ⟨rfl, by simp [Tab.upd], hunacked, hseq, hsent, rfl⟩
  · exact ⟨_, (execPacketSend_up hup hwords hbacklog).trans (by rw [hnext]), rfl⟩
  · exact ⟨_, execPacketSend_word hstate hword, if_pos hroom⟩
  · exact ⟨_, execPacketSend_word hstate hword, if_neg (Nat.not_lt.mpr hfull)⟩
  · intro s1 hnot hrefused
    refine ⟨_, execPacketReceive_eq hstate hvc, (receivePacket_pool hnot).trans (if_neg ?_)⟩
    rw [show (poolArrive p q.vc (packetBlocks q) (countPacket p q s)).1 = false from hrefused]
    exact Bool.false_ne_true
  · intro s1 s2 hnot hok
    exact ⟨_, execPacketReceive_eq hstate hvc, (receivePacket_pool hnot).trans (if_pos hok)⟩
  · intro s1 htraining
    exact ⟨_, execPacketReceive_eq hstate hvc, receivePacket_training htraining⟩
  · refine ⟨rfl, ?_, eq_with_ft (noteArrival_outside (by simp) p q s)⟩
    simp only [noteArrival, setFt]
    split <;> split <;> rfl
  · refine ⟨eq_with_ft_freeCtr (noteSomewhere_outside (by simp) q s), (choose 16 s).1, Nat.mod_lt _ (by decide), rfl⟩
  · have hchan : chanOf (c / 8) (c % 8) = c := Nat.div_add_mod c 8
    obtain ⟨⟨adv, hchans⟩, hmem, hft⟩ := poolFree_effect (c / 8) (c % 8) n s
    rw [hchan] at hchans
    obtain ⟨hsame, hother⟩ := poolCh_of_pool hchans
    exact ⟨_, congrArg Host.Outcome.next (if_pos hc), by rw [hsame], hother, hmem, hft⟩
  · refine ⟨movePackets p (setPort p { portOf s p with failover := true } s), ?_, rfl⟩
    rw [show exec (.portFailover p) s = execPortFailover p s from rfl, execPortFailover]
    simp only [hdown]
    exact congrArg Host.Outcome.next (if_pos (by simp [hnot, hlate, hover]))
  · obtain ⟨paths, hpaths⟩ := foldl_returnOne_eq p s.link.paths s
    have hret : returnStreams p s = s.link.paths.foldl (returnOne p) s := rfl
    refine ⟨returnStreams p s, ?_, ?_, fun x hx hne hmid hprim => ?_⟩
    · rw [show exec (.portReturn p) s = execPortReturn p s from rfl, execPortReturn]
      simp only [hup]
      exact congrArg Host.Outcome.next (if_pos (by simp [hstate, hlate]))
    · rw [hret, hpaths]
    · rw [hret]
      exact foldl_returnOne_port hx (by simp [returnsTo, hne, hmid, hprim])

end Sys2Proof.Machine
end

section
/-! PROOFS. Job admission (R321 to R323). -/

namespace Sys2Proof.Machine

/-! ### What an entry of the log leaves of the contexts -/

theorem ctxs_setMode (m : Mode) (cause : Nat) (s : State) : (setMode m cause s).host.ctxs = s.host.ctxs := by
  unfold setMode
  dsimp only
  rw [ctxs_raiseVector]
  split
  · rw [host_of_outside (sendFault_outside (by simp) ..)]
  · rfl

theorem ctxs_fenceDescs (s : State) : (fenceDescs s).host.ctxs = s.host.ctxs := by
  rw [host_of_outside (fenceDescs_outside (by simp) s)]

theorem ctxs_jobFault (cause : Nat) (s : State) : (jobFault cause s).host.ctxs = s.host.ctxs := by
  unfold jobFault
  split
  · rw [ctxs_fenceDescs, ctxs_setMode]
  · split
    · rw [ctxs_raiseVector, ctxs_fenceDescs, ctxs_setMode]
    · rw [ctxs_fenceDescs, ctxs_setMode]
  · rw [host_of_outside (joinFault_outside (by simp) ..)]
  · rfl

theorem ctxs_ledgerFault (d kind holder : Nat) (r : Option Ref) (s : State) : (ledgerFault d kind holder r s).host.ctxs = s.host.ctxs := by
  unfold ledgerFault
  rw [ctxs_jobFault]
  cases r with
  | none => rfl
  | some r => exact congrArg HostIf.ctxs (host_of_outside (setOutcome_outside (by simp) ..))

theorem ctxs_parityCheck (d : Nat) (s : State) : (parityCheck d s).host.ctxs = s.host.ctxs := by
  unfold parityCheck
  dsimp only
  split
  · rw [ctxs_ledgerFault]
    rfl
  · rfl

theorem ctxs_enqueue (q : Packet) (s : State) : (enqueue q s).host.ctxs = s.host.ctxs := by
  have htake (d h n : Nat) (u : State) : (ledgerTake d h n u).2.host.ctxs = u.host.ctxs := by
    unfold ledgerTake
    dsimp only
    split
    · exact ctxs_parityCheck d u
    · exact ctxs_parityCheck d u
  have hport (p : Nat) : (enterPort p q s).2.host.ctxs = s.host.ctxs := by
    unfold enterPort
    dsimp only
    split
    · rw [host_of_outside (noteRoute_outside (by simp) ..)]
      exact htake ..
    · exact htake ..
  unfold enqueue
  dsimp only
  generalize (if (s.link.backlog.any fun x => pathKey x.2 == pathKey q) = true then none else routeOf s q) = route
  cases route with
  | none => rfl
  | some p =>
    dsimp only
    split
    · exact hport p
    · exact hport p

theorem ctxs_sendAll (ps : List Packet) (s : State) : (sendAll ps s).host.ctxs = s.host.ctxs := by
  unfold sendAll
  refine List.foldlRecOn (motive := fun u : State => u.host.ctxs = s.host.ctxs) ps _ rfl fun u hu p _ => ?_
  split
  · exact (ctxs_enqueue p u).trans hu
  · exact hu

theorem ctxs_yokeMessage (type vc stream arg0 arg1 : Nat) (payload : List Byte) (s : State) :
    (yokeMessage type vc stream arg0 arg1 payload s).host.ctxs = s.host.ctxs := by
  unfold yokeMessage
  dsimp only
  rw [ctxs_sendAll, host_of_outside (takeSeq_outside (by simp) ..)]

theorem ctxs_appendRaw (bs : List Byte) (s : State) : (appendRaw bs s).host.ctxs = s.host.ctxs := by
  have hput (o : Nat) (u : State) : (putLog o bs u).host.ctxs = u.host.ctxs := congrArg HostIf.ctxs (host_of_outside (putLog_outside (by simp) ..))
  have hmirror (u : State) (xs : List (List Byte × Nat)) (v : State) :
      (xs.foldl (fun s (b, i) => yokeMessage 8 7 0x201 0 ((u.ember.logHead + 4096 * i) % logRing s) b s) v).host.ctxs = v.host.ctxs :=
    List.foldlRecOn (motive := fun w : State => w.host.ctxs = v.host.ctxs) xs _ rfl fun w hw x _ => (ctxs_yokeMessage ..).trans hw
  unfold appendRaw
  dsimp only
  generalize hs2 : (if (linked _ && _) = true then _ else _ : State) = s2
  have hs2' : s2.host.ctxs = s.host.ctxs := by
    rw [← hs2]
    split
    · rw [hmirror s]
      exact hput ..
    · exact hput ..
  split
  · split
    · rw [yokeSend, ctxs_yokeMessage, ctxs_raiseVector]
      exact hs2'
    · rw [ctxs_raiseVector]
      exact hs2'
  · exact hs2'

/-- R379: one entry of the log, with its header. -/
def putEntry (kind len : Nat) (body : List Byte) (s : State) : State :=
  appendRaw (logHeader kind len s.ember.lseq s.ft.ft ++ body) { s with ember := { s.ember with lseq := s.ember.lseq + 1 } }

theorem ctxs_putEntry (kind len : Nat) (body : List Byte) (s : State) : (putEntry kind len body s).host.ctxs = s.host.ctxs := ctxs_appendRaw ..

theorem appendEntry_eq (kind : Nat) (payload : List Byte) (s : State) :
    ∃ u, (u = s ∨ ∃ len body, u = putEntry lkPad len body s) ∧ ∃ body, appendEntry kind payload s = putEntry kind payload.length body u := by
  unfold appendEntry
  refine ⟨_, ?_, _, rfl⟩
  split
  · exact .inr ⟨_, _, rfl⟩
  · exact .inl rfl

theorem ctxs_logEvent (kind : Nat) (payload : List Byte) (s : State) : (logEvent kind payload s).host.ctxs = s.host.ctxs := by
  unfold logEvent
  split
  · obtain ⟨u, hu, body, heq⟩ := appendEntry_eq kind payload s
    rw [heq, ctxs_putEntry]
    obtain rfl | ⟨len, pad, rfl⟩ := hu
    · rfl
    · exact ctxs_putEntry ..
  · rfl

theorem anyCtxActive_writeLogged (off v : Nat) (s : State) : anyCtxActive (writeLogged off v s) = anyCtxActive s := by
  have hctxs : (writeLogged off v s).host.ctxs = s.host.ctxs := by
    unfold writeLogged
    split
    · exact ctxs_logEvent ..
    · rfl
  have hactive : ctxActive (writeLogged off v s) = ctxActive s := funext fun n => by rw [ctxActive, ctxActive, ctxOf, ctxOf, hctxs]
  rw [anyCtxActive, anyCtxActive, hactive]

/-! ### Admission -/

theorem eq_with_link_adm {s t : State} (h : outside [.link, .adm] t = outside [.link, .adm] s) : t = { s with link := t.link, adm := t.adm } := by
  rw [outside_eq_iff] at h
  simp at h
  cases t
  cases s
  simp_all

theorem writeLogged_of_no_ctx {s : State} (h : anyCtxActive s = false) (off v : Nat) : writeLogged off v s = s := if_neg (by simp [h])

theorem writeAdmit_req (s : State) : writeAdmit 1 s = admitRequest s := rfl

theorem writeAdmit_withdraw (s : State) : writeAdmit 2 s = admitWithdrawal s := rfl

theorem execAdmitReq_eq {s : State} (hs : inService s = true) : execAdmitReq s = .next (admitRequest (writeLogged 0x123008 1 s)) := by
  rw [execAdmitReq, bar0Write_eq_writeLogged hs, writeAdmit_req]
  rfl

theorem execAdmitWithdraw_eq {s : State} (hs : inService s = true) : execAdmitWithdraw s = .next (admitWithdrawal (writeLogged 0x123008 2 s)) := by
  rw [execAdmitWithdraw, bar0Write_eq_writeLogged hs, writeAdmit_withdraw]
  rfl

theorem firstBad_of_nil {s : State} (h : s.mem.bad = []) (rq : Requester) (a n : Nat) : firstBad s rq a n = none := if_pos (by simp [h])

/-- R321: the checks of a manifest that lies where it can be read and has no reserved bit set. -/
theorem admitCheck_read {s : State} (hok : recordOk s .iod s.adm.manifestAddr.toNat 2240 64 = true)
    (hfilled : unfilled s s.adm.manifestAddr.toNat 2240 = false) (hbad : s.mem.bad = [])
    (hreserved : manifestReserved (readBytes s .iod s.adm.manifestAddr.toNat 2240) = false) :
    admitCheck s = match admitFailure s (manifestOf (readBytes s .iod s.adm.manifestAddr.toNat 2240)) with
      | some (r, p) => refuseAdmission r p s
      | none => admitNow (manifestOf (readBytes s .iod s.adm.manifestAddr.toNat 2240)) s := by
  rw [admitCheck]
  dsimp only
  rw [show manifestBytes = 2240 from rfl, if_neg (by simp [hok]), if_neg (by simp [hfilled]), firstBad_of_nil hbad]
  generalize readBytes s .iod s.adm.manifestAddr.toNat 2240 = b at hreserved ⊢
  exact if_neg (Bool.eq_false_iff.mp hreserved)

theorem execAdmitCheckDone_eq {s : State} (h : s.adm.state = 1) : execAdmitCheckDone s = .next (admitCheck s) :=
  congrArg Host.Outcome.next (if_pos h)

theorem admitNow_adm (m : Manifest) (s : State) :
    (admitNow m s).adm = { s.adm with state := 2, reason := if s.adm.again then arBusy else 0, port := 0, degraded := false,
                                      admitted := true, again := false, manifest := some m } := by
  have hports (ps : List Nat) (u : State) : (ps.foldl (fun s p => admitPort p s) u).adm = u.adm :=
    List.foldlRecOn (motive := fun v : State => v.adm = u.adm) ps _ rfl fun v hv p _ => (adm_of_outside (admitPort_outside (by simp) p v)).trans hv
  rw [admitNow, adm_of_outside (sendHeld_outside (by simp) _), hports]
  rfl

/-! ### Withdrawal -/

/-- R322: the state to which a port returns that is UP. -/
def parkedState (st : PortState) : PortState := if st = .up then .parked else st

theorem state_park (p q : Nat) (s : State) :
    (portOf (park p s) q).state = if q = p then parkedState (portOf s q).state else (portOf s q).state := by
  by_cases hq : q = p
  · subst hq
    unfold park
    dsimp only
    split
    · next h => rw [portOf_setPort_same, if_pos rfl, h]; rfl
    · next h => rw [portOf_setPort_same, if_pos rfl, h]; rfl
    · next h h' => rw [if_pos rfl, parkedState, if_neg h]
  · rw [if_neg hq]
    unfold park
    dsimp only
    split
    · rw [portOf_setPort_other _ _ hq]
    · rw [portOf_setPort_other _ _ hq]
    · rfl

theorem parkedState_idem (st : PortState) : parkedState (parkedState st) = parkedState st := by cases st <;> rfl

theorem state_foldl_park (ps : List Nat) (q : Nat) (s : State) :
    (portOf (ps.foldl (fun s p => park p s) s) q).state = if q ∈ ps then parkedState (portOf s q).state else (portOf s q).state := by
  induction ps generalizing s with
  | nil => rfl
  | cons p ps ih =>
    rw [List.foldl_cons, ih, state_park]
    by_cases hq : q = p
    · simp [hq, parkedState_idem]
    · simp [hq]

/-- R322: every port of a list parks. -/
def parkAll (ps : List Nat) (s : State) : State := ps.foldl (fun s p => park p s) s

theorem parkAll_adm (ps : List Nat) (s : State) : (parkAll ps s).adm = s.adm :=
  List.foldlRecOn (motive := fun u : State => u.adm = s.adm) ps _ rfl fun u hu p _ => (adm_of_outside (park_outside (by simp) p u)).trans hu

/-- R322: the module with its streams of collectives forgotten. -/
def forgetCollectives (s : State) : State :=
  let collective (k : Nat) : Bool := decide (0x100 ≤ k % 2 ^ 16 ∧ k % 2 ^ 16 < 0x180)
  { s with link := { s.link with streams := s.link.streams.filter (fun k => !collective k.1),
                                 sendSeq := s.link.sendSeq.filter (fun k => !collective k.1) } }

theorem withdraw_eq (s : State) :
    withdraw s = forgetCollectives (parkAll (List.range 16) { s with adm := { s.adm with state := 0, admitted := false } }) := by
  unfold withdraw parkAll
  generalize List.range 16 = ps
  rfl

theorem withdraw_adm (s : State) : (withdraw s).adm = { s.adm with state := 0, admitted := false } := by
  have hforget (u : State) : (forgetCollectives u).adm = u.adm := rfl
  rw [withdraw_eq, hforget, parkAll_adm]

theorem withdraw_state {p : Nat} (hp : p < 16) (s : State) : (portOf (withdraw s) p).state = parkedState (portOf s p).state := by
  have hforget (u : State) : portOf (forgetCollectives u) p = portOf u p := rfl
  rw [withdraw_eq, hforget, parkAll, state_foldl_park, if_pos (List.mem_range.mpr hp)]
  rfl

/-- Settles O36: by the order of the checks, and by what a withdrawal leaves of each port. -/
theorem admissionCommandsComplete : Obligations.AdmissionCommandsComplete := by
  refine ⟨fun s hs => ?_, fun s hs => ?_, fun s hs => ?_, fun s hstate hrecord => ?_, fun r p s hstate hrecord hfilled hbad => ?_,
    fun s hstate hrecord hfilled hbad => ?_, fun s hstate hrecord hfilled => ?_, fun s hs hctx => ?_, fun s hs hctx => ?_⟩
  · intro s1 hidle hmode
    exact ⟨_, execAdmitReq_eq hs, (if_neg hidle).trans (if_pos hmode)⟩
  · intro s1 hidle hfull hbanked
    exact ⟨_, execAdmitReq_eq hs, (if_neg hidle).trans (if_neg (by simp [s1, hfull, hbanked]))⟩
  · intro s1 hbusy
    exact ⟨_, execAdmitReq_eq hs, if_pos hbusy⟩
  · exact ⟨_, execAdmitCheckDone_eq hstate, if_pos (by simp [manifestBytes, hrecord])⟩
  · intro b hreserved hfail
    refine ⟨_, execAdmitCheckDone_eq hstate, ?_⟩
    rw [admitCheck_read hrecord hfilled hbad hreserved, hfail]
    rfl
  · intro b hreserved hpass
    refine ⟨admitNow (manifestOf b) s, ?_, admitNow_adm .., mem_of_outside (admitNow_outside (by simp) ..), ft_of_outside (admitNow_outside (by simp) ..),
      sync_of_outside (admitNow_outside (by simp) ..), coll_of_outside (admitNow_outside (by simp) ..)⟩
    rw [show exec .admitCheckDone s = execAdmitCheckDone s from rfl, execAdmitCheckDone_eq hstate, admitCheck_read hrecord hfilled hbad hreserved, hpass]
  · exact ⟨_, execAdmitCheckDone_eq hstate, (if_neg (by simp [manifestBytes, hrecord])).trans (if_pos hfilled)⟩
  · have heq : admitWithdrawal (writeLogged 0x123008 2 s) = withdraw s := by
      rw [writeLogged_of_no_ctx hctx]
      exact if_neg (by simp [hctx])
    refine ⟨_, execAdmitWithdraw_eq hs, ?_⟩
    rw [heq]
    refine ⟨?_, fun p hp => ?_, fun p hp hup => ?_⟩
    · rw [← withdraw_adm]
      exact eq_with_link_adm (withdraw_outside (by simp) s)
    · rw [withdraw_state hp, parkedState]
      split
      · decide
      · assumption
    · rw [withdraw_state hp, hup]
      rfl
  · refine ⟨_, execAdmitWithdraw_eq hs, if_pos ?_⟩
    rw [anyCtxActive_writeLogged, hctx]

end Sys2Proof.Machine
end

section
/-! PROOFS. The start of a COLLECTIVE (R324 to R334, R496). -/

namespace Sys2Proof.Machine

theorem atStage_of_runsAt {s : State} {r : Ref} {o : Op} {stage : Nat} {x : Desc} (h : RunsAt s r o stage x) (f : Desc → State → State) :
    atStage r o stage f s = f x s := by
  obtain ⟨hfind, hop, hrun⟩ := h
  rw [atStage, hfind]
  exact if_pos (by simp [hop, hrun])

theorem collRow_begins {s : State} {r : Ref} {x : Desc} {op : Nat} (h : RunsAt s r .collective 0 x) (hpass : firstError (collChecks (withSnap x s) x) = none)
    (hvc : collVc x < 6) (hop : collOp x = op) (f : Desc → State → State) : collRow r op f s = f x (collBegun r s) := by
  rw [collRow, atStage_of_runsAt h, hpass]
  dsimp only
  rw [if_neg (by simp [hop]), if_neg (by omega)]
  rfl

theorem collRow_fails {s : State} {r : Ref} {x : Desc} {off : Nat} (h : RunsAt s r .collective 0 x)
    (hfail : firstError (collChecks (withSnap x s) x) = some off) (op : Nat) (f : Desc → State → State) : collRow r op f s = invalid r off s := by
  rw [collRow, atStage_of_runsAt h, hfail]

theorem collRow_refused {s : State} {r : Ref} {x : Desc} {op : Nat} (h : RunsAt s r .collective 0 x) (hpass : firstError (collChecks (withSnap x s) x) = none)
    (hvc : 6 ≤ collVc x) (hheld : claimHolder s 2 ≠ 2) (hop : collOp x = op) (f : Desc → State → State) :
    collRow r op f s = claimEvent 2 2 2 (claimHolder s 2) (finishCopy r .collective { status := 4, detail := 2, nf := none, idx := none } s) := by
  rw [collRow, atStage_of_runsAt h, hpass]
  dsimp only
  rw [if_neg (by simp [hop]), if_pos ⟨hvc, hheld⟩]
  rfl

/-- Settles O37: by the checks of the descriptor and the virtual channel that it asks for. -/
theorem collectivesComplete : Obligations.CollectivesComplete := by
  refine ⟨fun r x s h hpass hvc => ?_, fun r x off s h hfail => ?_, fun r x s h hpass hvc hheld hop => ?_⟩
  · have hrow (op : Nat) (hop : collOp x = op) (f : Desc → State → State) : collRow r op f s = f x (collBegun r s) := collRow_begins h hpass hvc hop f
    exact ⟨fun hop => ⟨_, rfl, hrow 0 hop _⟩, fun hop => ⟨_, rfl, hrow 1 hop _⟩, fun hop => ⟨_, rfl, hrow 2 hop _⟩, fun hop => ⟨_, rfl, hrow 3 hop _⟩,
      fun hop => ⟨_, rfl, hrow 4 hop _⟩, fun hop => ⟨_, rfl, hrow 5 hop _⟩, fun hop => ⟨_, rfl, hrow 6 hop _⟩⟩
  · have hrow (op : Nat) (f : Desc → State → State) : collRow r op f s = invalid r off s := collRow_fails h hfail op f
    exact ⟨⟨_, rfl, hrow 0 _⟩, ⟨_, rfl, hrow 1 _⟩, ⟨_, rfl, hrow 2 _⟩, ⟨_, rfl, hrow 3 _⟩, ⟨_, rfl, hrow 4 _⟩, ⟨_, rfl, hrow 5 _⟩, ⟨_, rfl, hrow 6 _⟩⟩
  · exact ⟨_, rfl, collRow_refused h hpass hvc hheld hop startColl⟩

end Sys2Proof.Machine
end

section
/-! PROOFS. Packets in the order of their streams; CHUNK and MACK (R310, R333). -/

namespace Sys2Proof.Machine

/-! ### Packets in order -/

theorem noteArrival_eq (port : Nat) (p : Packet) (s : State) : ∃ f, (noteArrival port p s).2 = { s with ft := f } :=
  ⟨_, eq_with_ft (noteArrival_outside (by simp) port p s)⟩

theorem refusalForgotten_eq (p : Packet) (s : State) : ∃ r, refusalForgotten p s = { s with link := { s.link with refused := r } } := by
  unfold refusalForgotten
  split
  · exact ⟨_, rfl⟩
  · exact ⟨s.link.refused, rfl⟩

/-- The module as a packet finds it: the counts of Field Time and the refusals of its stream differ. -/
theorem heardPacket_eq (port : Nat) (p : Packet) (s : State) :
    ∃ f r, refusalForgotten p (noteArrival port p s).2 = { s with ft := f, link := { s.link with refused := r } } := by
  obtain ⟨f, hf⟩ := noteArrival_eq port p s
  obtain ⟨r, hr⟩ := refusalForgotten_eq p { s with ft := f }
  exact ⟨f, r, by rw [hf, hr]⟩

theorem packetTaken_eq (port : Nat) (p : Packet) (s : State) :
    packetTaken port p s = { s with link := (packetTaken port p s).link, ft := (noteArrival port p s).2.ft } := by
  obtain ⟨f, hf⟩ := noteArrival_eq port p s
  obtain ⟨r, hr⟩ := refusalForgotten_eq p { s with ft := f }
  rw [packetTaken, streamAdvanced, hf, hr]
  rfl

theorem undeliveredWhy_heard {p : Packet} (htype : p.type ≠ 1) (port : Nat) (f : FieldTime) (r : List (Nat × Word)) (s : State) :
    undeliveredWhy { s with ft := f, link := { s.link with refused := r } } port 0 p = undeliveredWhy s port 0 p := by
  simp only [undeliveredWhy, if_neg htype]
  rfl

/-- R310: a packet of a listed type reaches its stream once its refusal is forgotten. -/
theorem deliver_eq {p : Packet} (hlisted : ¬ (p.type = 0 ∨ 14 ≤ p.type.toNat)) (port blocks : Nat) (collided : Bool) (s : State) :
    deliver port blocks collided p s =
      (let u := refusalForgotten p s
       match undeliveredWhy u port 0 p with
       | some why => undeliverable p.type.toNat p.srcPos.toNat p.srcSide p.stream.toNat p.mseq 1 why (discardBlocks port blocks p u)
       | none =>
         if isControl p then takeControl p u
         else if waitsForTakeover u p then { u with yoke := { u.yoke with waiting := u.yoke.waiting ++ [(port, collided, p)] } }
         else takeData port blocks collided p u) := by
  simp only [deliver, if_neg hlisted] <;> rfl

/-- What a stream has gathered of a message once a packet in order has come. -/
def gathered (port : Nat) (p : Packet) (s : State) : Stream :=
  let x := streamOf s (streamKey p.srcPos.toNat p.srcSide p.stream.toNat)
  gather { x with collided := (if p.offset = 0 then false else x.collided) || collides s port p, chan := chanOf port p.vc } p

theorem deliverType_eq {t port : Nat} {p : Packet} {s : State} (ht : p.type.toNat = t) :
    deliverType t port p s = deliver port 0 (collides s port p) p (noteArrival port p s).2 := by
  rw [deliverType, if_pos ht]
  rfl

/-- R310: what a stream expects once it has taken a packet. -/
def advancedStream (port : Nat) (p : Packet) (x : Stream) : Stream :=
  if p.last then { Stream.reset with isOpen := true, chan := chanOf port p.vc, mseq := if p.stream.toNat < 64 then 0 else x.mseq + 1 }
  else { x with isOpen := true, offset := x.offset + p.payload.length }

theorem streamAdvanced_eq (port : Nat) (p : Packet) (s : State) :
    streamAdvanced port p s = setStream (streamKey p.srcPos.toNat p.srcSide p.stream.toNat)
      (advancedStream port p (streamOf s (streamKey p.srcPos.toNat p.srcSide p.stream.toNat))) (refusalForgotten p s) := rfl

theorem takeInOrder_eq {p : Packet} (hlast : p.last = true ∨ whole p = false) (port : Nat) (collided : Bool) (k : Nat) (x : Stream) (s : State) :
    takeInOrder port collided k p x s =
      handle port collided p (gather { x with collided := (if p.offset = 0 then false else x.collided) || collided, chan := chanOf port p.vc } p)
        (setStream k (advancedStream port p x) s) := by
  unfold takeInOrder advancedStream
  obtain hl | hw := hlast
  · simp only [hl, if_true]
  · simp only [hw, Bool.false_eq_true, if_false]

theorem deliverType_inOrder {t port : Nat} {p : Packet} {s : State} (ht : p.type.toNat = t) (htype : p.type ≠ 1)
    (hlisted : ¬ (p.type = 0 ∨ 14 ≤ p.type.toNat)) (hctl : isControl p = false) (hlast : p.last = true ∨ whole p = false) (h : InOrder s port p) :
    deliverType t port p s = handle port (collides s port p) p (gathered port p s) (packetTaken port p s) := by
  obtain ⟨hwhy, htake, hseq, hoff⟩ := h
  obtain ⟨f, r, hheard⟩ := heardPacket_eq port p s
  have hwhy' : undeliveredWhy { s with ft := f, link := { s.link with refused := r } } port 0 p = none :=
    (undeliveredWhy_heard htype port f r s).trans hwhy
  have hdata : takeData port 0 (collides s port p) p { s with ft := f, link := { s.link with refused := r } } =
      takeInOrder port (collides s port p) (streamKey p.srcPos.toNat p.srcSide p.stream.toNat) p
        (streamOf s (streamKey p.srcPos.toNat p.srcSide p.stream.toNat)) { s with ft := f, link := { s.link with refused := r } } := by
    unfold takeData
    simp only [show expectedSeq { s with ft := f, link := { s.link with refused := r } } p _ = expectedSeq s p _ from rfl,
      show streamOf { s with ft := f, link := { s.link with refused := r } } _ = streamOf s _ from rfl, hseq, hoff, Nat.lt_irrefl, if_false]
  rw [deliverType_eq ht, deliver_eq hlisted, hheard]
  simp only [hwhy', hctl]
  rw [show waitsForTakeover { s with ft := f, link := { s.link with refused := r } } p = false from htake, packetTaken, streamAdvanced_eq, hheard]
  exact hdata.trans (takeInOrder_eq hlast ..)

/-! ### CHUNK and MACK -/

theorem type_of_toNat {p : Packet} {n : Nat} {b : BitVec 4} (h : p.type = b) (hn : b.toNat = n) : p.type.toNat = n := by rw [h, hn]

theorem execChunkReceive_eq {port : Nat} {p : Packet} {s : State} (htype : p.type = 6) (h : InOrder s port p) :
    execChunkReceive port p s = .next (applyChunk (chunkOf port (collides s port p) p) (packetTaken port p s)) := by
  have ht : p.type.toNat = 6 := type_of_toNat htype rfl
  have hctl : isControl p = false := by rw [isControl, ht]; rfl
  have hwhole : whole p = false := by rw [whole, ht]; rfl
  rw [execChunkReceive, deliverType_inOrder ht (by rw [htype]; decide) (by rw [htype]; decide) hctl (.inr hwhole) h, handle, ht]
  rfl

theorem liveRun_packetTaken (port : Nat) (p : Packet) (s : State) : liveRun (packetTaken port p s) = liveRun s := by
  rw [packetTaken_eq]
  rfl

theorem execMackReceive_eq {port : Nat} {p : Packet} {s : State} (htype : p.type = 13) (hwhy : undeliveredWhy s port 0 p = none)
    (hlo : 0x100 ≤ p.stream.toNat) (hhi : p.stream.toNat < 0x180) :
    execMackReceive port p s = .next (takeMack p.srcPos.toNat p.stream.toNat p.mseq (refusalForgotten p (noteArrival port p s).2)) := by
  have ht : p.type.toNat = 13 := type_of_toNat htype rfl
  have hctl : isControl p = true := by rw [isControl, ht]; rfl
  obtain ⟨f, r, hheard⟩ := heardPacket_eq port p s
  have hwhy' : undeliveredWhy { s with ft := f, link := { s.link with refused := r } } port 0 p = none :=
    (undeliveredWhy_heard (by rw [htype]; decide) port f r s).trans hwhy
  rw [execMackReceive, deliverType_eq ht, deliver_eq (by rw [htype]; decide), hheard]
  simp only [hwhy', hctl, if_true, takeControl, ht]
  rw [if_pos ⟨hlo, hhi⟩]

/-- R333: the messages of a run that a MACK does not accept. -/
def unacceptedRun (pos stream : Nat) (q : Word) (x : CollRun) : CollRun :=
  { x with sent := x.sent.filter fun m => !(m.1 == pos && m.2.1 == stream && serialDone q m.2.2) }

theorem takeMack_of_run {pos stream : Nat} {q : Word} {s : State} {x : CollRun} (h : s.coll.run = some x) :
    takeMack pos stream q s = endColl (setRun (some (unacceptedRun pos stream q x))
      (release (fun p => p.type == 6 && p.dstPos.toNat == pos && p.stream.toNat == stream && serialDone q p.mseq) s)) := by
  have hrun : (release (fun p => p.type == 6 && p.dstPos.toNat == pos && p.stream.toNat == stream && serialDone q p.mseq) s).coll.run = some x := h
  simp only [takeMack, hrun]
  rfl

theorem findDesc_setDetailAll {r : Ref} {n : Nat} {s : State} {y : Desc} (h : findDesc s r = some y) :
    findDesc (setDetailAll r n s) r = some { y with detailAll := some (BitVec.ofNat 32 (hold 0xFFFFFFFF n)) } :=
  findDesc_updDesc_same (f := fun d => { d with detailAll := some (BitVec.ofNat 32 (hold 0xFFFFFFFF n)) }) (fun _ => rfl) h

/-- R333: a run that waits for nothing more, whatever collisions its pieces met. -/
theorem endColl_complete {s : State} {x : CollRun} {y : Desc} {c : Copy} (hlive : liveRun s = some x) (hfind : findDesc s x.ref = some y)
    (hcopy : copyAt y .collective = some c) (hwant : x.want = []) (hsent : x.sent = [])
    (hreply : x.reply = false) (hbad : x.bad = none) (hex : x.exchange = false) :
    (endColl s).coll.run = none ∧ CopyDone (endColl s) x.ref .collective isOk ∧ (endColl s).link = s.link ∧ (endColl s).mem = s.mem ∧
      (endColl s).coll.asked = s.coll.asked := by
  let s2 := setLast x (setRun none s)
  let s3 := if x.collisions = 0 then s2 else setDetailAll x.ref (collisionDetail x) s2
  have heq : endColl s = finishCopy x.ref .collective (ranReport x.waited x.nfWord) s3 := by
    simp only [endColl, hlive, hwant, hsent, hreply, hbad, hex]
    rfl
  have hcoll2 : s2.coll = (setRun none s).coll := coll_of_outside (setLast_outside (by simp) ..)
  have hcoll3 : s3.coll = (setRun none s).coll := by
    rw [← hcoll2]
    simp only [s3]
    split <;> rfl
  have hfind2 : findDesc s2 x.ref = some y := (findDesc_congr (descs_of_outside (setLast_outside (by simp) ..)) x.ref).trans hfind
  obtain ⟨z, hz, hzcopy⟩ : ∃ z, findDesc s3 x.ref = some z ∧ copyAt z .collective = some c := by
    simp only [s3]
    split
    · exact ⟨y, hfind2, hcopy⟩
    · exact ⟨_, findDesc_setDetailAll hfind2, hcopy⟩
  rw [heq]
  have hcoll : (finishCopy x.ref .collective (ranReport x.waited x.nfWord) s3).coll = (setRun none s).coll :=
    (coll_of_outside (finishCopy_outside (by simp) ..)).trans hcoll3
  refine ⟨congrArg Coll.run hcoll, copyDone_finishCopy hz hzcopy rfl, ?_, ?_, by rw [hcoll]; rfl⟩
  · simp only [s3]
    split <;> exact link_of_outside (setLast_outside (by simp) ..)
  · simp only [s3]
    split <;> exact mem_of_outside (setLast_outside (by simp) ..)

/-- R333: a MACK that accepts every message that a run waits for ends it. -/
theorem takeMack_complete {pos stream : Nat} {q : Word} {s : State} {x : CollRun} (hrun : s.coll.run = some x) (hruns : CollRuns s x.ref) (hwant : x.want = [])
    (hreply : x.reply = false) (hbad : x.bad = none) (hex : x.exchange = false)
    (hsent : ∀ m ∈ x.sent, m.1 = pos ∧ m.2.1 = stream ∧ serialDone q m.2.2 = true) :
    (takeMack pos stream q s).coll.run = none ∧ CopyDone (takeMack pos stream q s) x.ref .collective isOk ∧
      ∀ p ∈ (takeMack pos stream q s).link.retained,
        (!(p.type == 6 && p.dstPos.toNat == pos && p.stream.toNat == stream && serialDone q p.mseq)) = true := by
  have hnone : (unacceptedRun pos stream q x).sent = [] := by
    refine List.filter_eq_nil_iff.mpr fun m hm => ?_
    obtain ⟨hpos, hstream, hdone⟩ := hsent m hm
    simp [hpos, hstream, hdone]
  have hlive := liveRun_of_collRuns (x := unacceptedRun pos stream q x) (s := setRun (some (unacceptedRun pos stream q x))
    (release (fun p => p.type == 6 && p.dstPos.toNat == pos && p.stream.toNat == stream && serialDone q p.mseq) s)) rfl hruns
  obtain ⟨y, c, hfind, -, hcopy, -⟩ := hruns
  obtain ⟨hend, hdone, hlink, -, -⟩ := endColl_complete (x := unacceptedRun pos stream q x) (s := setRun (some (unacceptedRun pos stream q x))
    (release (fun p => p.type == 6 && p.dstPos.toNat == pos && p.stream.toNat == stream && serialDone q p.mseq) s)) hlive hfind hcopy hwant hnone hreply hbad hex
  rw [takeMack_of_run hrun]
  refine ⟨hend, hdone, fun p hp => ?_⟩
  rw [hlink] at hp
  exact (List.mem_filter.mp hp).2

/-- Settles O39: by the order of the packet in its stream, and by what a run still waits for. -/
theorem collectivePacketsComplete : Obligations.CollectivePacketsComplete := by
  refine ⟨fun port p s htype h => ⟨_, execChunkReceive_eq htype h, rfl⟩, fun port p s htype h hnone => ⟨_, execChunkReceive_eq htype h, ?_⟩,
    fun port p s htype hwhy hlo hhi => ⟨_, execMackReceive_eq htype hwhy hlo hhi, rfl⟩,
    fun port p x d c s htype hwhy hlo hhi hrun hwant hreply hex hbad hfind hout hcopy hst hrep hsent => ⟨_, execMackReceive_eq htype hwhy hlo hhi, ?_⟩⟩
  · have hheld : applyChunk (chunkOf port (collides s port p) p) (packetTaken port p s) = holdEarly (chunkOf port (collides s port p) p) (packetTaken port p s) := by
      simp only [applyChunk, liveRun_packetTaken, hnone]
    rw [hheld, packetTaken_eq]
    rfl
  · obtain ⟨f, r, hheard⟩ := heardPacket_eq port p s
    rw [hheard]
    obtain ⟨hend, hdone, hkept⟩ := takeMack_complete (s := { s with ft := f, link := { s.link with refused := r } }) hrun ⟨d, c, hfind, hout, hcopy, hst, hrep⟩
      hwant hreply hbad hex hsent
    refine ⟨hend, hdone, fun q hq ⟨hqtype, hqdst, hqstream, hqdone⟩ => ?_⟩
    have := hkept q hq
    simp [hqtype, hqdst, hqstream, hqdone] at this

end Sys2Proof.Machine
end

section
/-! PROOFS. Remote writes, reads and responses (R310, R332, R363). -/

namespace Sys2Proof.Machine

/-! ### Requests in order -/

theorem gathered_of_first {port : Nat} {p : Packet} {s : State} (h : p.offset = 0) :
    (gathered port p s).data = p.payload ∧ (gathered port p s).arg1 = p.arg1 := by
  simp [gathered, gather, h]

theorem isControl_of_toNat {p : Packet} {n : Nat} (h : p.type.toNat = n) (hn : n = 10 ∨ n = 11 ∨ n = 12) : isControl p = false := by
  rw [isControl, h]
  obtain rfl | rfl | rfl := hn <;> rfl

theorem execRwrReceive_eq {port : Nat} {p : Packet} {s : State} (htype : p.type = 10) (h : InOrder s port p) (hoff : p.offset = 0) (hlast : p.last = true) :
    execRwrReceive port p s = .next (serveWrite p p.payload (packetTaken port p s)) := by
  have ht : p.type.toNat = 10 := type_of_toNat htype rfl
  obtain ⟨hdata, harg⟩ := gathered_of_first (port := port) (s := s) hoff
  rw [execRwrReceive, deliverType_inOrder ht (by rw [htype]; decide) (by rw [htype]; decide) (isControl_of_toNat ht (by simp)) (.inl hlast) h, handle, ht]
  have hsame : { p with arg1 := (gathered port p s).arg1 } = p := by rw [harg]
  exact congrArg Host.Outcome.next ((if_pos hlast).trans (by rw [hdata, hsame]))

theorem execRrdReceive_eq {port : Nat} {p : Packet} {s : State} (htype : p.type = 11) (h : InOrder s port p) (hlast : p.last = true) :
    execRrdReceive port p s = .next (serveRead p (packetTaken port p s)) := by
  have ht : p.type.toNat = 11 := type_of_toNat htype rfl
  rw [execRrdReceive, deliverType_inOrder ht (by rw [htype]; decide) (by rw [htype]; decide) (isControl_of_toNat ht (by simp)) (.inl hlast) h, handle, ht]
  rfl

/-- R310: a run marks the collision of a packet that it waits for. -/
def collisionMarked (port : Nat) (p : Packet) (collided : Bool) (s : State) : State :=
  match liveRun s with
  | some r => if collided && awaits s r p then
      updDesc r.ref (fun d => { d with collided := true })
        (setRun (some { r with collisions := r.collisions + 1, collPort := if r.collisions = 0 then port else r.collPort }) s)
    else s
  | none => s

theorem execRrspReceive_eq {port : Nat} {p : Packet} {s : State} (htype : p.type = 12) (h : InOrder s port p) :
    execRrspReceive port p s = .next (takeResponse p (collisionMarked port p (collides s port p) (packetTaken port p s))) := by
  have ht : p.type.toNat = 12 := type_of_toNat htype rfl
  rw [execRrspReceive, deliverType_inOrder ht (by rw [htype]; decide) (by rw [htype]; decide) (isControl_of_toNat ht (by simp)) (.inr (by rw [whole, ht]; rfl)) h,
    handle, ht]
  rfl

theorem logging_congr {s t : State} (hyoke : t.yoke = s.yoke) (hms : t.ms = s.ms) (hhw : t.hw = s.hw) (hopen : t.ember.opened = s.ember.opened)
    (hpages : t.ember.effLogPages = s.ember.effLogPages) : logging t = logging s := by
  have hdies : dieCount t = dieCount s := by rw [dieCount, dieCount, isM4, isM4, hhw]
  have hring : logRing t = logRing s := by rw [logRing, logRing, hpages, hdies]
  rw [logging, logging, hyoke, hms, hopen, hring]

theorem logging_packetTaken (port : Nat) (p : Packet) (s : State) : logging (packetTaken port p s) = logging s := by
  rw [packetTaken_eq]
  rfl

/-- R192: what a store leaves of the ember: writes that wait for their page are added. -/
theorem ember_store (owner adds rq) (xs : List (Nat × Byte)) (s : State) :
    ∃ ws, (store owner adds rq xs s).ember = { s.ember with heldWrites := ws } := by
  refine ⟨(store owner adds rq xs s).ember.heldWrites, ?_⟩
  unfold store
  dsimp only
  rw [ember_of_outside (orderedWrites_outside (by simp) ..)]

theorem logging_store (owner adds rq) (xs : List (Nat × Byte)) (s : State) : logging (store owner adds rq xs s) = logging s := by
  obtain ⟨ws, h⟩ := ember_store owner adds rq xs s
  exact logging_congr (yoke_of_outside (store_outside (by simp) ..)) (ms_of_outside (store_outside (by simp) ..))
    (hw_of_outside (store_outside (by simp) ..)) (by rw [h]) (by rw [h])

theorem logging_logDropped (cs : List Nat) (m : Mem) (s : State) : logging (logDropped cs m s) = logging s := by
  have hember := ember_of_outside (logDropped_outside (by simp) cs m s)
  exact logging_congr (yoke_of_outside (logDropped_outside (by simp) ..)) (ms_of_outside (logDropped_outside (by simp) ..))
    (hw_of_outside (logDropped_outside (by simp) ..)) (by rw [hember]) (by rw [hember])

theorem logging_storeReceived (rq) (xs : List (Nat × Byte)) (s : State) : logging (storeReceived rq xs s) = logging s := by
  rw [storeReceived, logging_logDropped, logging_store]

theorem logging_storeArrived (d : Desc) (ws : List EWrite) (s : State) : logging (storeArrived d ws s) = logging s := by
  have hnote (u : State) : logging (noteWrites ws u) = logging u := by
    have hember := ember_of_outside (noteWrites_outside (by simp) ws u)
    exact logging_congr (yoke_of_outside (noteWrites_outside (by simp) ..)) (ms_of_outside (noteWrites_outside (by simp) ..))
      (hw_of_outside (noteWrites_outside (by simp) ..)) (by rw [hember]) (by rw [hember])
  rw [storeArrived, hnote, storePiece, logging_logDropped, logging_store]

theorem acceptWaits_of_not_logging {s : State} (h : logging s = false) : acceptWaits s = false := by simp [acceptWaits, h]

/-! ### Requests -/

theorem logEvents_of_not_logging {α : Type} {s : State} (h : logging s = false) (kind : Nat) (f : α → List Byte) (l : List α) :
    l.foldl (fun s x => logEvent kind (f x) s) s = s := by
  induction l with
  | nil => rfl
  | cons x l ih => rw [List.foldl_cons, logEvent_of_not_logging h, ih]

theorem writeRemote_of_not_logging {p : Packet} {data : List Byte} {s : State} (h : logging s = false) :
    writeRemote p data s =
      sendResponse p.srcPos.toNat p.vc 0 p.arg1.toNat [] (storeReceived .iod (addressed (p.arg1.toNat % 2 ^ 44) data) s) := by
  have hlogs := logEvents_of_not_logging h lkRwr (fun x : List Byte × Nat => leBytes 8 (p.arg1.toNat % 2 ^ 44 + 4096 * x.2) ++ x.1)
    (pieces 4096 data).zipIdx
  have hwaits := acceptWaits_of_not_logging ((logging_storeReceived .iod (addressed (p.arg1.toNat % 2 ^ 44) data) s).trans h)
  rw [writeRemote]
  dsimp only
  rw [hlogs, hwaits]
  rfl

/-- R310: the module as a packet in order leaves it, where a test looks neither at its links nor at Field Time. -/
theorem test_packetTaken {α : Type} (f : State → α) (hf : ∀ u ft link, f { u with link := link, ft := ft } = f u) (port : Nat) (p : Packet) (s : State) :
    f (packetTaken port p s) = f s := by
  rw [packetTaken_eq]
  exact hf ..

theorem coll_packetTaken (port : Nat) (p : Packet) (s : State) : (packetTaken port p s).coll = s.coll :=
  test_packetTaken (·.coll) (fun _ _ _ => rfl) port p s

/-! ### Responses -/

theorem collisionMarked_of_not_awaits {port : Nat} {p : Packet} {collided : Bool} {s : State} (h : ∀ r, liveRun s = some r → (collided && awaits s r p) = false) :
    collisionMarked port p collided s = s := by
  unfold collisionMarked
  split
  case _ r hr => rw [if_neg (by simp [h r hr])]
  case _ => rfl

/-- R332: what the reply to a request does to the run that waits for it. -/
def responded (a : Asked) (p : Packet) (s : State) : State :=
  match liveRun s with
  | none => s
  | some x =>
    match findDesc s x.ref with
    | some d => if x.ref == a.ref && x.reply then applyResponse x d p s else s
    | none => s

theorem takeResponse_answers {p : Packet} {a : Asked} {s : State} (hans : Answers s p a) :
    takeResponse p s = responded a p (if !p.last then s else requestAnswered p a s) := by
  have hans' : answered s p = some a := hans
  simp only [takeResponse, hans'] <;> rfl

theorem responded_of_live {p : Packet} {a : Asked} {x : CollRun} {d : Desc} {s : State} (hlive : liveRun s = some x) (hfind : findDesc s x.ref = some d)
    (href : a.ref = x.ref) (hreply : x.reply = true) : responded a p s = applyResponse x d p s := by
  simp only [responded, hlive, hfind, href, hreply, BEq.rfl, Bool.and_self, if_true]

theorem takeResponse_last {p : Packet} {a : Asked} {x : CollRun} {d : Desc} {s : State} (hlast : p.last = true) (hans : Answers s p a)
    (hlive : liveRun s = some x) (hfind : findDesc s x.ref = some d) (href : a.ref = x.ref) (hreply : x.reply = true) :
    takeResponse p s = applyResponse x d p (requestAnswered p a s) := by
  rw [takeResponse_answers hans, hlast]
  exact responded_of_live (s := requestAnswered p a s) hlive hfind href hreply

theorem takeResponse_more {p : Packet} {a : Asked} {x : CollRun} {d : Desc} {s : State} (hlast : p.last = false) (hans : Answers s p a)
    (hlive : liveRun s = some x) (hfind : findDesc s x.ref = some d) (href : a.ref = x.ref) (hreply : x.reply = true) :
    takeResponse p s = applyResponse x d p s := by
  rw [takeResponse_answers hans, hlast]
  exact responded_of_live hlive hfind href hreply

/-- R310: the run of a module whose collision is marked is the same but for the mark. -/
theorem collisionMarked_keeps {port : Nat} {p : Packet} {collided : Bool} {x : CollRun} {d : Desc} {s : State} (hlive : liveRun s = some x)
    (hfind : findDesc s x.ref = some d) :
    ∃ y e, liveRun (collisionMarked port p collided s) = some y ∧ y.ref = x.ref ∧ y.reply = x.reply ∧ y.exchange = x.exchange ∧
      findDesc (collisionMarked port p collided s) x.ref = some e ∧ (∀ t, copyAt e t = copyAt d t) ∧ (collisionMarked port p collided s).mem = s.mem ∧
      (collisionMarked port p collided s).coll.asked = s.coll.asked ∧ logging (collisionMarked port p collided s) = logging s := by
  simp only [collisionMarked, hlive]
  split
  · have hfind' : findDesc (updDesc x.ref (fun d => { d with collided := true }) (setRun (some { x with collisions := x.collisions + 1, collPort := if x.collisions = 0 then port else x.collPort }) s)) x.ref =
        some { d with collided := true } := findDesc_updDesc_same (f := fun d => { d with collided := true }) (fun _ => rfl) hfind
    refine ⟨{ x with collisions := x.collisions + 1, collPort := if x.collisions = 0 then port else x.collPort }, _, ?_, rfl, rfl, rfl, hfind', fun _ => rfl, rfl, rfl, rfl⟩
    have hx := (Option.filter_eq_some_iff.mp hlive).2
    rw [hfind] at hx
    show Option.filter _ (some _) = _
    rw [Option.filter_some, hfind', if_pos hx]
  · exact ⟨x, d, hlive, rfl, rfl, rfl, hfind, fun _ => rfl, rfl, rfl, rfl⟩

/-- R332: a GET's reply that did not fail is stored. -/
def replyStored (x : CollRun) (d : Desc) (p : Packet) (s : State) : State :=
  if x.op = 6 && !(p.arg0 == 1 || p.arg0 == 2) then storeArrived d (getWrites (heardFrom x p s) d p.offset.toNat p.payload) (heardFrom x p s)
  else heardFrom x p s

theorem logging_replyStored (x : CollRun) (d : Desc) (p : Packet) (s : State) : logging (replyStored x d p s) = logging s := by
  unfold replyStored
  split
  · exact logging_storeArrived ..
  · rfl

theorem applyResponse_ends {x : CollRun} {d : Desc} {p : Packet} {s : State} (hlog : logging s = false) (hend : (p.arg0 == 1 || p.arg0 == 2) = true ∨ p.last = true) :
    applyResponse x d p s = endReply x.ref p.arg0.toNat (replyStored x d p s) := by
  have hlog' : logging (heardFrom x p s) = false := hlog
  have hwaits := acceptWaits_of_not_logging ((logging_replyStored x d p s).trans hlog)
  have hgoes : (!(p.arg0 == 1 || p.arg0 == 2) && !p.last) = false := by
    obtain h | h := hend <;> rw [h] <;> simp
  unfold applyResponse
  dsimp only
  rw [logEvent_of_not_logging hlog']
  change (if (!(p.arg0 == 1 || p.arg0 == 2) && !p.last) = true then _ else if acceptWaits (replyStored x d p s) = true then _ else _) = _
  rw [hgoes, hwaits]
  rfl

theorem endReply_ok {x : CollRun} {d : Desc} {r : Ref} {s : State} (hrun : s.coll.run = some x) (href : x.ref = r) (hfind : findDesc s r = some d) :
    endReply r 0 s = endColl (setRun (some { x with reply := false }) s) := by
  simp [endReply, hrun, hfind, href]

theorem endReply_refused {x : CollRun} {d : Desc} {r : Ref} {s : State} (hrun : s.coll.run = some x) (href : x.ref = r) (hfind : findDesc s r = some d)
    (hex : x.exchange = false) :
    endReply r 1 s = finishCopy r .collective { Report.of stDescInvalid 56 with nf := CollRun.nfWord { x with nf := none } } (setRun none s) := by
  simp [endReply, stopRun, hrun, hfind, href, hex]

/-- A response that fails ends the copy with DESC_INVALID 56. -/
theorem applyResponse_refused {x : CollRun} {d : Desc} {c : Copy} {p : Packet} {s : State} (hfind : findDesc s x.ref = some d)
    (hcopy : copyAt d .collective = some c) (hex : x.exchange = false) (harg : p.arg0 = 1) (hlog : logging s = false) :
    (applyResponse x d p s).coll.run = none ∧
      CopyDone (applyResponse x d p s) x.ref .collective (fun rep => rep.status = 9 ∧ rep.detail = 56) ∧ (applyResponse x d p s).mem = s.mem := by
  have hstored : replyStored x d p s = heardFrom x p s := by simp [replyStored, harg]
  have harg' : p.arg0.toNat = 1 := by rw [harg]; rfl
  rw [applyResponse_ends hlog (.inl (by rw [harg]; rfl)), hstored, harg',
    endReply_refused (s := heardFrom x p s) rfl rfl hfind hex]
  exact ⟨congrArg Coll.run ((coll_of_outside (finishCopy_outside (by simp) ..)).trans rfl), copyDone_finishCopy hfind hcopy ⟨rfl, rfl⟩,
    (mem_of_outside (finishCopy_outside (by simp) ..)).trans rfl⟩

theorem liveRun_replaced {x y : CollRun} {s t : State} (h : liveRun s = some x) (hdescs : t.descs = s.descs) (hrun : t.coll.run = some y)
    (href : y.ref = x.ref) : liveRun t = some y := by
  have hx := (Option.filter_eq_some_iff.mp h).2
  rw [liveRun, hrun, Option.filter_some, if_pos]
  show (match findDesc t y.ref with | none => false | some d => d.outcome.isNone && d.copies.any fun c => c.st != .done && c.st != .stopped && c.report.isNone) = true
  rw [findDesc_congr hdescs, href] <;> exact hx

/-- R332: the run that waits for a reply, once the reply is heard and stored. -/
theorem replyStored_run (x : CollRun) (d : Desc) (p : Packet) (s : State) :
    ∃ f, (replyStored x d p s).coll.run = some { x with heard := true, lastPos := p.srcPos, lastSide := p.srcSide, lastAt := s.ft.ft, nf := f } ∧
      (replyStored x d p s).descs = s.descs ∧ (replyStored x d p s).coll.asked = s.coll.asked := by
  unfold replyStored
  split
  · rw [storeArrived]
    generalize hws : getWrites (heardFrom x p s) d p.offset.toNat p.payload = ws
    have hcoll := coll_of_outside (storePiece_outside (by simp) false d.ref .collective (mergeWrites (heardFrom x p s) .iod ws) (heardFrom x p s))
    have hdescs := descs_of_outside (storePiece_outside (by simp) false d.ref .collective (mergeWrites (heardFrom x p s) .iod ws) (heardFrom x p s))
    rw [noteWrites_of_run (congrArg Coll.run hcoll)]
    exact ⟨_, rfl, hdescs, by rw [setRun, hcoll]; rfl⟩
  · exact ⟨x.nf, rfl, rfl, rfl⟩

/-- A response that is the last of its reply ends the copy with OK. -/
theorem applyResponse_ok {x : CollRun} {d : Desc} {c : Copy} {p : Packet} {s : State} (hlive : liveRun s = some x) (hfind : findDesc s x.ref = some d)
    (hcopy : copyAt d .collective = some c) (hex : x.exchange = false) (hwant : x.want = []) (hsent : x.sent = []) (hbad : x.bad = none)
    (harg : p.arg0 = 0) (hlast : p.last = true) (hlog : logging s = false) :
    (applyResponse x d p s).coll.run = none ∧ (applyResponse x d p s).coll.asked = s.coll.asked ∧
      CopyDone (applyResponse x d p s) x.ref .collective isOk ∧ (applyResponse x d p s).mem = (replyStored x d p s).mem := by
  obtain ⟨f, hrun, hdescs, hasked⟩ := replyStored_run x d p s
  have harg' : p.arg0.toNat = 0 := by rw [harg]; rfl
  have hfind' : findDesc (replyStored x d p s) x.ref = some d := (findDesc_congr hdescs x.ref).trans hfind
  have hlive' : liveRun (setRun (some { x with heard := true, lastPos := p.srcPos, lastSide := p.srcSide, lastAt := s.ft.ft, nf := f, reply := false })
      (replyStored x d p s)) = some { x with heard := true, lastPos := p.srcPos, lastSide := p.srcSide, lastAt := s.ft.ft, nf := f, reply := false } :=
    liveRun_replaced hlive hdescs rfl rfl
  obtain ⟨hend, hdone, -, hmem, hask⟩ := endColl_complete hlive' hfind' hcopy hwant hsent rfl hbad hex
  rw [applyResponse_ends hlog (.inr hlast), harg', endReply_ok hrun rfl hfind']
  exact ⟨hend, hask.trans hasked, hdone, hmem⟩

/-! ### What a response leaves of the links -/

theorem takeVc_released (pos vc : Nat) (f : Packet → Bool) (s : State) : (takeVc pos vc (release f s)).1 = (takeVc pos vc s).1 := by
  by_cases h : s.link.vcs.get 8 (sendKey pos 0 0x300) < 8 <;> simp [takeVc, release, h]

theorem sendResponse_sent (dst vc status far : Nat) (data : List Byte) (s : State) :
    ∃ ps, (sendResponse dst vc status far data s).link.sent (sendKey dst 0 0x300) =
        (s.link.sendSeq.get 0 (sendKey dst 0 0x300) + 1, (s.link.retained.filter fun p => !(p.type == 12 && p.dstPos.toNat == dst)) ++ ps) ∧
      (sendResponse dst vc status far data s).mem = s.mem ∧ ps.flatMap (·.payload) = data ∧
      ∀ p ∈ ps, p.type = 12 ∧ p.vc = (takeVc dst vc s).1 ∧ p.stream = 0x300 ∧ p.mseq = s.link.sendSeq.get 0 (sendKey dst 0 0x300) ∧
        p.arg0 = BitVec.ofNat 32 status ∧ p.arg1 = BitVec.ofNat 64 far := by
  let s0 := release (fun p => p.type == 12 && p.dstPos.toNat == dst) s
  let s1 := (takeSeq (sendKey dst 0 0x300) s0).2
  let s2 := (takeVc dst vc s1).2
  let ps := mkMessage s2 12 (takeVc dst vc s1).1 dst 0 0x300 (s.link.sendSeq.get 0 (sendKey dst 0 0x300)) status far data
  have hsent : (sendAll ps s2).link.sent (sendKey dst 0 0x300) = (s.link.sendSeq.get 0 (sendKey dst 0 0x300) + 1,
      s.link.retained.filter fun p => !(p.type == 12 && p.dstPos.toNat == dst)) :=
    (sendAll_sent (sendKey_mod dst) ps s2).trans ((takeVc_sent ..).trans (Prod.ext (Tab.get_put_same _) rfl))
  have hmem : (sendAll ps s2).mem = s.mem :=
    (mem_of_outside (sendAll_outside (by simp) ..)).trans ((mem_of_outside (takeVc_outside (by simp) ..)).trans rfl)
  have hvc : (takeVc dst vc s1).1 = (takeVc dst vc s).1 := (takeVc_takeSeq_fst ..).trans (takeVc_released ..)
  have h1 := congrArg Prod.fst hsent
  have h2 := congrArg (fun x => Prod.snd x ++ ps) hsent
  refine ⟨ps, Prod.ext h1 h2, hmem, mkMessage_payload .., fun p hp => ?_⟩
  obtain ⟨offset, last, b, rfl⟩ := mem_mkMessage hp
  rw [← hvc]
  exact ⟨rfl, rfl, rfl, rfl, rfl, rfl⟩

theorem answers_packetTaken {port : Nat} {p : Packet} {a : Asked} {s : State} (h : Answers s p a) : Answers (packetTaken port p s) p a := by
  have hcoll := coll_packetTaken port p s
  rw [Answers, answered, hcoll]
  exact h

theorem liveRun_packetTaken_of {port : Nat} {p : Packet} {x : CollRun} {s : State} (h : liveRun s = some x) : liveRun (packetTaken port p s) = some x :=
  (liveRun_packetTaken port p s).trans h

theorem findDesc_packetTaken (port : Nat) (p : Packet) (s : State) (r : Ref) : findDesc (packetTaken port p s) r = findDesc s r :=
  test_packetTaken (findDesc · r) (fun _ _ _ => rfl) port p s

theorem mem_packetTaken (port : Nat) (p : Packet) (s : State) : (packetTaken port p s).mem = s.mem :=
  test_packetTaken (·.mem) (fun _ _ _ => rfl) port p s

theorem inReach_packetTaken (port : Nat) (p : Packet) (s : State) (rq : Requester) (a n : Nat) : inReach (packetTaken port p s) rq a n = inReach s rq a n :=
  test_packetTaken (inReach · rq a n) (fun _ _ _ => rfl) port p s

/-- Settles O40: by the order of the packet in its stream, and by the reach and the state of the memory that it names. -/
theorem remotePacketsComplete : Obligations.RemotePacketsComplete := by
  refine ⟨fun port p s htype h hoff hlast hin hheld hlog => ⟨_, execRwrReceive_eq htype h hoff hlast, ?_⟩,
    fun port p s htype h hoff hlast hin hheld => ⟨_, execRwrReceive_eq htype h hoff hlast, ?_⟩,
    fun port p s htype h hoff hlast hin => ⟨_, execRwrReceive_eq htype h hoff hlast, ?_⟩,
    fun port p s htype h hoff hlast hfar hfill => ⟨_, execRrdReceive_eq htype h hlast, ?_⟩,
    fun port p s htype h hoff hlast hfar hfill hbad => ⟨_, execRrdReceive_eq htype h hlast, ?_⟩,
    fun port p s htype h hoff hlast hfar => ⟨_, execRrdReceive_eq htype h hlast, ?_⟩,
    fun port p x d a s htype h hlast hlive hfind hcopy hop hreply hex hwant hsent hbad hans href harg hlog => ⟨_, execRrspReceive_eq htype h, ?_⟩,
    fun port p x d a s htype h hlast hlive hfind hcopy hop hreply hex hwant hsent hbad hans href harg hlog hmem hcoll => ⟨_, execRrspReceive_eq htype h, ?_⟩,
    fun port p x d a s htype h hlive hfind hcopy hreply hex hans href harg hlog => ⟨_, execRrspReceive_eq htype h, ?_⟩,
    fun port p s htype h hans => ⟨_, execRrspReceive_eq htype h, ?_⟩, fun dst vc status far data s => ?_⟩
  · have hin' := (inReach_packetTaken port p s ..).trans hin
    have hheld' := (test_packetTaken (writeHeld · (p.arg1.toNat % 2 ^ 44) p.payload.length) (fun _ _ _ => rfl) port p s).trans hheld
    beta_reduce
    rw [serveWrite, hin', hheld', writeRemote_of_not_logging ((logging_packetTaken port p s).trans hlog)]
    rfl
  · have hin' := (inReach_packetTaken port p s ..).trans hin
    have hheld' := (test_packetTaken (writeHeld · (p.arg1.toNat % 2 ^ 44) p.payload.length) (fun _ _ _ => rfl) port p s).trans hheld
    beta_reduce
    rw [serveWrite, hin', hheld', ← coll_packetTaken port p s]
    rfl
  · have hin' := (inReach_packetTaken port p s ..).trans hin
    beta_reduce
    rw [serveWrite, hin']
    rfl
  · have hfar' := (test_packetTaken (farReach · (p.arg1.toNat % 2 ^ 44) (p.arg0.toNat + 1)) (fun _ _ _ => rfl) port p s).trans hfar
    have hfill' := (test_packetTaken (unfilled · (p.arg1.toNat % 2 ^ 44) (p.arg0.toNat + 1)) (fun _ _ _ => rfl) port p s).trans hfill
    beta_reduce
    rw [serveRead, hfar', hfill', ← coll_packetTaken port p s]
    rfl
  · have hfar' := (test_packetTaken (farReach · (p.arg1.toNat % 2 ^ 44) (p.arg0.toNat + 1)) (fun _ _ _ => rfl) port p s).trans hfar
    have hfill' := (test_packetTaken (unfilled · (p.arg1.toNat % 2 ^ 44) (p.arg0.toNat + 1)) (fun _ _ _ => rfl) port p s).trans hfill
    have hread := test_packetTaken (readBytes · .iod (p.arg1.toNat % 2 ^ 44) (p.arg0.toNat + 1)) (fun _ _ _ => rfl) port p s
    have hbad' : (packetTaken port p s).mem.bad = [] := by rw [mem_packetTaken, hbad]
    beta_reduce
    rw [serveRead, hfar', hfill', badRead_of_nil hbad', hread]
    rfl
  · have hfar' := (test_packetTaken (farReach · (p.arg1.toNat % 2 ^ 44) (p.arg0.toNat + 1)) (fun _ _ _ => rfl) port p s).trans hfar
    beta_reduce
    rw [serveRead, hfar']
    rfl
  · obtain ⟨c, hc⟩ := Option.isSome_iff_exists.mp hcopy
    have hlive' := liveRun_packetTaken_of (port := port) (p := p) hlive
    have hfind' := (findDesc_packetTaken port p s x.ref).trans hfind
    have hlog' := (logging_packetTaken port p s).trans hlog
    have hmark : collisionMarked port p (collides s port p) (packetTaken port p s) = packetTaken port p s :=
      collisionMarked_of_not_awaits fun r hr => by
        obtain rfl := Option.some.inj (hr.symm.trans hlive')
        simp [awaits, hop]
    rw [hmark, takeResponse_last hlast (answers_packetTaken hans) hlive' hfind' href hreply]
    obtain ⟨hend, hask, hdone, hmem⟩ := applyResponse_ok (s := requestAnswered p a (packetTaken port p s)) hlive' hfind' hc hex hwant hsent hbad harg hlast hlog'
    refine ⟨hend, hask.trans (by rw [← coll_packetTaken port p s]; rfl), hdone, hmem.trans ?_⟩
    rw [replyStored, hop]
    exact mem_packetTaken port p s
  · obtain ⟨c, hc⟩ := Option.isSome_iff_exists.mp hcopy
    have hlive' := liveRun_packetTaken_of (port := port) (p := p) hlive
    have hfind' := (findDesc_packetTaken port p s x.ref).trans hfind
    have hlog' := (logging_packetTaken port p s).trans hlog
    have hmark : collisionMarked port p (collides s port p) (packetTaken port p s) = packetTaken port p s :=
      collisionMarked_of_not_awaits fun r _ => by simp [hcoll]
    rw [hmark, takeResponse_last hlast (answers_packetTaken hans) hlive' hfind' href hreply]
    obtain ⟨hend, -, hdone, hstored⟩ := applyResponse_ok (s := requestAnswered p a (packetTaken port p s)) hlive' hfind' hc hex hwant hsent hbad harg hlast hlog'
    refine ⟨hend, hdone, hstored.trans ?_⟩
    rw [replyStored, hop, harg]
    rfl
  · obtain ⟨c, hc⟩ := Option.isSome_iff_exists.mp hcopy
    obtain ⟨y, e, hlive', hyref, hyreply, hyex, hfind', hcopies, hmem, hask, hlogs⟩ := collisionMarked_keeps (port := port) (p := p) (collided := collides s port p)
      (liveRun_packetTaken_of (port := port) (p := p) hlive) ((findDesc_packetTaken port p s x.ref).trans hfind)
    have hans' : Answers (collisionMarked port p (collides s port p) (packetTaken port p s)) p a := by
      rw [Answers, answered, hask]
      exact answers_packetTaken (port := port) hans
    rw [← hyref] at hfind' href ⊢
    rw [← hyreply] at hreply
    rw [← hyex] at hex
    have hmem' := hmem.trans (mem_packetTaken port p s)
    have hlog' := hlogs.trans ((logging_packetTaken port p s).trans hlog)
    have hc' := (hcopies .collective).trans hc
    generalize collisionMarked port p (collides s port p) (packetTaken port p s) = u at hlive' hfind' hans' hmem' hlog' ⊢
    cases hlast : p.last with
    | true =>
      rw [takeResponse_last hlast hans' hlive' hfind' href hreply]
      obtain ⟨hend, hdone, hkept⟩ := applyResponse_refused (s := requestAnswered p a u) (p := p) hfind' hc' hex harg hlog'
      exact ⟨hend, hdone, hkept.trans hmem'⟩
    | false =>
      rw [takeResponse_more hlast hans' hlive' hfind' href hreply]
      obtain ⟨hend, hdone, hkept⟩ := applyResponse_refused (p := p) hfind' hc' hex harg hlog'
      exact ⟨hend, hdone, hkept.trans hmem'⟩
  · have hmark : collisionMarked port p (collides s port p) (packetTaken port p s) = packetTaken port p s :=
      collisionMarked_of_not_awaits fun r hr => by
        rw [awaits, answered, coll_packetTaken, ← answered, hans]
        simp
    beta_reduce
    rw [hmark, takeResponse, answered, coll_packetTaken, ← answered, hans]
  · intro t q
    obtain ⟨ps, hsent, hmem, hpay, hps⟩ := sendResponse_sent dst vc status far data s
    exact ⟨congrArg Prod.fst hsent, hmem, ps, congrArg Prod.snd hsent, hpay, hps⟩

end Sys2Proof.Machine
end

section
/-! PROOFS. The member list of a GUARD_VERDICT as it read when it started (R191, R347). -/

namespace Sys2Proof.Machine

/-- A GUARD_VERDICT of round 0 whose member list lies at address 0, where it read a list with a reserved bit set when it started. -/
def snappedVerdict : Desc :=
  { ref := ⟨0, 0⟩, bytes := recordOf [(0, 1, 0x59)], ctx := 0, prio := 0, dispatched := true, order := 0,
    copies := [{ target := .guard, st := .running, stage := 0, since := 0, report := none, snap := [(1, 0x80)] }],
    start := some 0, lateness := 0, outcome := none, detailAll := none, collided := false, deps := 0, waiting := none, replayed := false,
    pair := none }

/-- Its module, whose report of round 0 is posted. -/
def snappedVerdictState : State :=
  { State.reset with guard := { State.reset.guard with posted := some [0, 0, 0, 0] }, descs := [snappedVerdict] }

theorem snappedVerdict_passes_now : firstError (verdictChecks snappedVerdictState snappedVerdict) = none ∧
    (memberList snappedVerdictState (snappedVerdict.fld 16 0 44)).length = 1 := by
  decide +kernel

theorem snappedVerdict_failed_then : ∀ t, execGuardVerdict snappedVerdict.ref snappedVerdictState = .next t →
    (findDesc t snappedVerdict.ref).map (fun y => y.copies.map (·.st)) = some [.done] := by
  intro t ht
  cases ht
  decide +kernel

/-- Refutes O41: a GUARD_VERDICT is checked against its member list as it read when it started (R191), not as memory holds it now. -/
theorem not_guardCommandsComplete : ¬ Obligations.GuardCommandsComplete := by
  unfold Obligations.GuardCommandsComplete
  rintro ⟨-, -, -, halone, -⟩
  obtain ⟨hpass, hlen⟩ := snappedVerdict_passes_now
  obtain ⟨t, ht, -, y, hy, hruns⟩ := halone snappedVerdict.ref snappedVerdict snappedVerdictState ⟨⟨rfl, by decide, by decide⟩, rfl⟩ hpass rfl hlen
  have hdone := snappedVerdict_failed_then t ht
  rw [hy, Option.map_some, Option.some_inj] at hdone
  have hmem : .done ∈ y.copies.map (·.st) := by rw [hdone]; decide
  obtain ⟨c, hc, hst⟩ := List.mem_map.mp hmem
  rw [(hruns c hc).1] at hst
  cases hst

end Sys2Proof.Machine
end

section
/-! PROOFS. Verdicts (R347 to R352). -/

namespace Sys2Proof.Machine

/-! ### What the log and the memory leave of the descriptors: whatever `setOne` keeps -/

section Logged

variable {P : List Desc → Prop}

theorem descs_enqueue_of_setOne (hone : ∀ r status detail core u, P u.descs → P (setOne r status detail core u).descs)
    (q : Packet) {s : State} (h : P s.descs) : P (enqueue q s).descs := by
  have htake (p : Nat) : P (ledgerTake dLinkPacket p 1 s).2.descs := by
    have hcheck := descs_parityCheck_of_setOne hone dLinkPacket h
    unfold ledgerTake
    dsimp only
    split <;> exact hcheck
  have henter (p : Nat) : P (enterPort p q s).2.descs := by
    unfold enterPort
    dsimp only
    split
    · rw [descs_of_outside (noteRoute_outside (by simp) ..)]
      exact htake p
    · exact htake p
  unfold enqueue
  dsimp only
  split
  · exact h
  · split <;> exact henter _

theorem descs_sendAll_of_setOne (hone : ∀ r status detail core u, P u.descs → P (setOne r status detail core u).descs)
    (ps : List Packet) {s : State} (h : P s.descs) : P (sendAll ps s).descs := by
  refine List.foldlRecOn (motive := fun u : State => P u.descs) ps _ h fun u hu q _ => ?_
  split
  · exact descs_enqueue_of_setOne hone q hu
  · exact hu

theorem descs_yokeMessage_of_setOne (hone : ∀ r status detail core u, P u.descs → P (setOne r status detail core u).descs)
    (type vc stream arg0 arg1 : Nat) (payload : List Byte) {s : State} (h : P s.descs) : P (yokeMessage type vc stream arg0 arg1 payload s).descs :=
  descs_sendAll_of_setOne hone _ h

theorem descs_appendRaw_of_setOne (hone : ∀ r status detail core u, P u.descs → P (setOne r status detail core u).descs)
    (bs : List Byte) {s : State} (h : P s.descs) : P (appendRaw bs s).descs := by
  unfold appendRaw
  dsimp only
  generalize hs1 : putLog s.ember.logHead bs _ = s1
  have h1 : P s1.descs := by
    rw [← hs1, descs_of_outside (putLog_outside (by simp) ..)]
    exact h
  generalize hs2 : (if (linked s1 && s1.ms.mode != Mode.banked) = true then _ else s1) = s2
  have h2 : P s2.descs := by
    rw [← hs2]
    split
    · exact List.foldlRecOn (motive := fun u : State => P u.descs) _ _ h1 fun u hu x _ => descs_yokeMessage_of_setOne hone 8 7 0x201 0 _ x.1 hu
    · exact h1
  generalize hs3 : raiseVector 72 { s2 with ember := { s2.ember with overrun := true, forfeit := true } } = s3
  have h3 : P s3.descs := by
    rw [← hs3, descs_of_outside (raiseVector_outside (by simp) ..)]
    exact h2
  split
  · split
    · exact descs_yokeMessage_of_setOne hone _ _ _ _ _ _ h3
    · exact h3
  · exact h2

theorem descs_appendEntry_of_setOne (hone : ∀ r status detail core u, P u.descs → P (setOne r status detail core u).descs)
    (kind : Nat) (payload : List Byte) {s : State} (h : P s.descs) : P (appendEntry kind payload s).descs := by
  have hput (bs : List Byte) (u : State) (hu : P u.descs) : P (appendRaw bs { u with ember := { u.ember with lseq := u.ember.lseq + 1 } }).descs :=
    descs_appendRaw_of_setOne hone _ hu
  unfold appendEntry
  refine hput _ _ ?_
  dsimp only
  split
  · exact hput _ _ h
  · exact h

theorem descs_logEvent_of_setOne (hone : ∀ r status detail core u, P u.descs → P (setOne r status detail core u).descs)
    (kind : Nat) (payload : List Byte) {s : State} (h : P s.descs) : P (logEvent kind payload s).descs := by
  unfold logEvent
  split
  · exact descs_appendEntry_of_setOne hone kind payload h
  · exact h

theorem descs_storeBy_of_setOne (hone : ∀ r status detail core u, P u.descs → P (setOne r status detail core u).descs)
    (r : Ref) (t : Target) (rq : Requester) (xs : List (Nat × Byte)) {s : State} (h : P s.descs) : P (storeBy r t rq xs s).descs := by
  have hstore : P (store (some (r, t)) false rq xs s).descs := by rwa [descs_of_outside (store_outside (by simp) ..)]
  unfold storeBy storeAs
  dsimp only
  split
  · split
    · exact hstore
    · unfold memUncorrectable
      split
      · exact hstore
      · dsimp only
        refine descs_jobFault_of_setOne hone _ (descs_setOutcome_of_setOne hone _ _ _ _ ?_)
        rwa [descs_of_outside (logMemErr_outside (by simp) ..)]
  · exact hstore

end Logged

/-! ### Descriptors and their targets -/

/-- What names the copies of a list of descriptors: the place of each descriptor, and the targets of its copies. -/
def copyPlaces (ds : List Desc) : List (Ref × List Target) := ds.map fun d => (d.ref, d.copies.map (·.target))

theorem copyPlaces_setOne (r : Ref) (status detail : Nat) (core : Option Nat) (s : State) :
    copyPlaces (setOne r status detail core s).descs = copyPlaces s.descs := by
  refine (List.map_map ..).trans (List.map_congr_left fun d _ => ?_)
  dsimp only [Function.comp]
  split
  · split
    · rfl
    · split <;> simp
  · rfl

theorem copyPlaces_wakeCopies (p : Desc → Copy → Bool) (s : State) : copyPlaces (wakeCopies p s).descs = copyPlaces s.descs := by
  refine (List.map_map ..).trans (List.map_congr_left fun d _ => Prod.ext rfl ((List.map_map ..).trans (List.map_congr_left fun c _ => ?_)))
  dsimp only [Function.comp]
  split <;> rfl

theorem find?_copyPlaces (ds : List Desc) (r : Ref) :
    (copyPlaces ds).find? (fun p => p.1 == r) = (ds.find? fun d => d.ref == r).map fun d => (d.ref, d.copies.map (·.target)) := List.find?_map ..

theorem isSome_copyAt_iff {d : Desc} {t : Target} : (copyAt d t).isSome = true ↔ t ∈ d.copies.map (·.target) := by
  simp [copyAt, List.find?_isSome]

/-- The copy that a descriptor has on a target is found wherever the places of the copies are the same. -/
theorem copyAt_of_copyPlaces {s u : State} {r : Ref} {x : Desc} {t : Target} {c : Copy} (h : copyPlaces u.descs = copyPlaces s.descs)
    (hfind : findDesc s r = some x) (hcopy : copyAt x t = some c) : ∃ y c', findDesc u r = some y ∧ copyAt y t = some c' := by
  have hplaces := (find?_copyPlaces u.descs r).symm.trans ((congrArg (List.find? _) h).trans (find?_copyPlaces s.descs r))
  rw [show s.descs.find? (fun d => d.ref == r) = some x from hfind, Option.map_some] at hplaces
  obtain ⟨y, hy, hsame⟩ := Option.map_eq_some_iff.mp hplaces
  have hmem := isSome_copyAt_iff.mp (Option.isSome_of_eq_some hcopy)
  have htargets : y.copies.map (·.target) = x.copies.map (·.target) := congrArg Prod.snd hsame
  rw [← htargets] at hmem
  obtain ⟨c', hc'⟩ := Option.isSome_iff_exists.mp (isSome_copyAt_iff.mpr hmem)
  exact ⟨y, c', hy, hc'⟩

/-! ### Verdicts -/

theorem guard_settleVerdict (g : Guard) (round : Word) (word : DWord) (s : State) :
    (settleVerdict g round word s).guard =
      { g with doneRound := round, held := (g.held ++ [(round, word)]).drop ((g.held ++ [(round, word)]).length - 64), posted := none,
               trips := if word.getLsbD 0 then g.trips.add 1 else g.trips } := by
  have hlogged (u : State) : (logEvent lkVerdict (leBytes 4 round.toNat ++ leBytes 4 0 ++ leBytes 8 word.toNat) (resumeGated round u)).guard = u.guard :=
    (guard_of_outside (logEvent_outside (by simp) ..)).trans (guard_of_outside (resumeGated_outside (by simp) ..))
  unfold settleVerdict
  dsimp only
  split
  · exact (guard_of_outside (raiseVector_outside (by simp) ..)).trans (hlogged _)
  · exact hlogged _

theorem copyPlaces_settleVerdict (g : Guard) (round : Word) (word : DWord) (s : State) :
    copyPlaces (settleVerdict g round word s).descs = copyPlaces s.descs := by
  have hlogged (u : State) :
      copyPlaces (logEvent lkVerdict (leBytes 4 round.toNat ++ leBytes 4 0 ++ leBytes 8 word.toNat) (resumeGated round u)).descs = copyPlaces u.descs :=
    descs_logEvent_of_setOne (P := fun ds => copyPlaces ds = copyPlaces u.descs) (fun _ _ _ _ _ h => (copyPlaces_setOne ..).trans h) _ _
      (copyPlaces_wakeCopies ..)
  unfold settleVerdict
  dsimp only
  split
  · rw [descs_of_outside (raiseVector_outside (by simp) ..)]
    exact hlogged _
  · exact hlogged _

theorem copyPlaces_storeBy (r : Ref) (t : Target) (rq : Requester) (xs : List (Nat × Byte)) (s : State) :
    copyPlaces (storeBy r t rq xs s).descs = copyPlaces s.descs :=
  descs_storeBy_of_setOne (P := fun ds => copyPlaces ds = copyPlaces s.descs) (fun _ _ _ _ _ h => (copyPlaces_setOne ..).trans h) r t rq xs rfl

theorem add_at'_mod_two (m n lo : Nat) : (m + at' n (lo + 1)) % 2 = m % 2 := by
  rw [at', Nat.shiftLeft_succ, Nat.add_mul_mod_self_left]

/-- A word made of a bit and of fields above it has that bit as its lowest. -/
theorem lowBit_of_fields {b : Bool} {n : Nat} (h : n % 2 = bit b) : (BitVec.ofNat 64 n).getLsbD 0 = b := by
  rw [BitVec.getLsbD_ofNat, Nat.testBit_zero, h]
  cases b <;> rfl

/-- R349: the lowest bit of a verdict is TRIP. -/
theorem verdictWord_trip (g : Guard) (c : Combined) (round : Word) (trip : Bool) (consec : Nat) :
    (verdictWord g c round trip consec).getLsbD 0 = trip := by
  have hbit : bit trip % 2 = bit trip := by cases trip <;> rfl
  refine lowBit_of_fields ?_
  rw [add_at'_mod_two _ _ 31, add_at'_mod_two _ _ 15, add_at'_mod_two _ _ 7, add_at'_mod_two _ _ 6, add_at'_mod_two _ _ 4, add_at'_mod_two _ _ 3,
    add_at'_mod_two _ _ 2, add_at'_mod_two _ _ 1, add_at'_mod_two _ _ 0, hbit]

theorem updateGuard_trips (g : Guard) (c : Combined) (round : Word) (trip : Bool) :
    (updateGuard g c round trip).trips = g.trips ∧ (updateGuard g c round trip).held = g.held := by
  unfold updateGuard
  split
  · exact ⟨rfl, rfl⟩
  · dsimp only
    split <;> exact ⟨rfl, rfl⟩

theorem endVerdict_of_running {d : Desc} {c : Copy} (hcopy : copyAt d .guard = some c) (hst : c.st = .running) (word : DWord) (s : State) :
    endVerdict d word s = finishCopy d.ref .guard (Report.of stOk (word.toNat % 2 ^ 32)) s := by
  simp [endVerdict, hcopy, hst, CopyState.waits]

theorem missRound_of_running {d : Desc} {c : Copy} (hcopy : copyAt d .guard = some c) (hst : c.st = .running) (s : State) :
    missRound d s = finishCopy d.ref .guard (Report.of stDescInvalid 32) (setRun (if s.coll.run.any (·.ref == d.ref) then none else s.coll.run) s) := by
  simp [missRound, hcopy, hst, CopyState.waits]

theorem execVerdictForm_posted {r : Ref} {x : Desc} {c : Copy} {b : List Byte} {s : State} (hfind : findDesc s r = some x) (hop : x.op = some .guardVerdict)
    (hout : x.outcome = none) (hcopy : copyAt x .guard = some c) (hst : c.st = .running) (hstage : c.stage = 1) (halone : (verdictMembers s x).length = 1)
    (hposted : s.guard.posted = some b) : execVerdictForm r s = .next (formVerdict x [b] s) := by
  rw [execVerdictForm, hfind]
  dsimp only
  rw [hcopy]
  simp [hop, hout, hst, hstage, halone, hposted]

theorem execVerdictForm_none {r : Ref} {x : Desc} {c : Copy} {s : State} (hfind : findDesc s r = some x) (hop : x.op = some .guardVerdict)
    (hout : x.outcome = none) (hcopy : copyAt x .guard = some c) (hst : c.st = .running) (hstage : c.stage = 1) (halone : (verdictMembers s x).length = 1)
    (hposted : s.guard.posted = none) (hround : gvRound x ≠ s.guard.doneRound + 1) : execVerdictForm r s = .next (missRound x s) := by
  rw [execVerdictForm, hfind]
  dsimp only
  rw [hcopy]
  simp [hop, hout, hst, hstage, halone, hposted]
  exact fun h => absurd h hround

/-- R348: whether the round of a module alone trips. -/
def aloneTrip (x : Desc) (b : List Byte) (s : State) : Bool :=
  let k := (combineReports (gvRound x) [b] s).1
  let g := (combineReports (gvRound x) [b] s).2.guard
  nfTrip g k || lossTrip g k || normTrip g k || k.mismatch || k.forced

/-- R348: its average, its count of rounds and its trips in a row. -/
def aloneGuard (x : Desc) (b : List Byte) (s : State) : Guard :=
  updateGuard (combineReports (gvRound x) [b] s).2.guard (combineReports (gvRound x) [b] s).1 (gvRound x) (aloneTrip x b s)

/-- R349: its verdict. -/
def aloneWord (x : Desc) (b : List Byte) (s : State) : DWord :=
  verdictWord (combineReports (gvRound x) [b] s).2.guard (combineReports (gvRound x) [b] s).1 (gvRound x) (aloneTrip x b s) (aloneGuard x b s).consec

/-- R347: the state that its verdict leaves before the record is stored. -/
def aloneSettled (x : Desc) (b : List Byte) (s : State) : State :=
  let s1 := (combineReports (gvRound x) [b] s).2
  settleVerdict { aloneGuard x b s with vrec := verdictRecord (aloneGuard x b s) (combineReports (gvRound x) [b] s).1 (aloneWord x b s) 1 s1.ft.ft }
    (gvRound x) (aloneWord x b s) (setRun (if s1.coll.run.any (·.ref == x.ref) then none else s1.coll.run) s1)

/-- R347: the state that its verdict leaves once the record is stored. -/
def aloneStored (x : Desc) (b : List Byte) (s : State) : State :=
  if gvRec x = 0 then aloneSettled x b s
  else storeBy x.ref .guard .iod (addressed (gvRec x) (verdictRecord (aloneGuard x b s) (combineReports (gvRound x) [b] s).1 (aloneWord x b s) 1
    (combineReports (gvRound x) [b] s).2.ft.ft)) (aloneSettled x b s)

theorem formVerdict_alone {x : Desc} {b : List Byte} {s : State} (hrep : x.replayed = false) (hround : gvRound x = s.guard.doneRound + 1) :
    formVerdict x [b] s = endVerdict x (aloneWord x b s) (aloneStored x b s) := by
  have htaken (u : State) : takenVerdict u x (gvRound x) = none := by simp [takenVerdict, hrep]
  rw [formVerdict, if_neg (by simp [hround])]
  simp only [htaken, Option.getD_none]
  rfl

theorem guard_combineReports (round : Word) (rs : List (List Byte)) (s : State) : (combineReports round rs s).2.guard = s.guard :=
  guard_of_outside (combineReports_outside (by simp) ..)

theorem guard_aloneStored (x : Desc) (b : List Byte) (s : State) : (aloneStored x b s).guard = (aloneSettled x b s).guard := by
  unfold aloneStored
  split
  · rfl
  · exact guard_of_outside (storeBy_outside (by simp) ..)

theorem copyPlaces_aloneStored (x : Desc) (b : List Byte) (s : State) : copyPlaces (aloneStored x b s).descs = copyPlaces s.descs := by
  have hsettled : copyPlaces (aloneSettled x b s).descs = copyPlaces s.descs :=
    (copyPlaces_settleVerdict ..).trans (congrArg copyPlaces (descs_of_outside (combineReports_outside (by simp) ..)))
  unfold aloneStored
  split
  · exact hsettled
  · exact (copyPlaces_storeBy ..).trans hsettled

theorem ofNat_mod_eq_setWidth (w : DWord) : BitVec.ofNat 32 (w.toNat % 2 ^ 32) = w.setWidth 32 := by
  refine BitVec.eq_of_toNat_eq ?_
  rw [BitVec.toNat_ofNat, BitVec.toNat_setWidth, Nat.mod_mod]

theorem length_drop_to (n : Nat) {α : Type} (l : List α) : (l.drop (l.length - n)).length ≤ n := by
  rw [List.length_drop]
  omega

theorem getLast?_drop_to_64 {α : Type} (l : List α) (a : α) : ((l ++ [a]).drop ((l ++ [a]).length - 64)).getLast? = some a := by
  rw [List.getLast?_drop, if_neg (by simp), List.getLast?_concat]

/-- Settles O42: a round is formed by its own report, and each clause on AVG, SEEN and CONSEC is a case of `updateGuard`. -/
theorem verdictsAreFormed : Obligations.VerdictsAreFormed := by
  refine ⟨⟨fun r x c b s hfind hop hout hrep hcopy hst hstage hposted halone hround => ?_,
    fun r x c s hfind hop hout hcopy hst hstage halone hround => ?_⟩, fun g k round => ⟨rfl, fun hz => ?_, fun hz hseen => ?_, fun hz hseen => ?_⟩⟩
  · have href := ref_of_findDesc hfind
    obtain ⟨y, c', hy, hc'⟩ := copyAt_of_copyPlaces (copyPlaces_aloneStored x b s) hfind hcopy
    have hguard : (endVerdict x (aloneWord x b s) (aloneStored x b s)).guard = _ :=
      (guard_of_outside (endVerdict_outside (by simp) ..)).trans ((guard_aloneStored x b s).trans (guard_settleVerdict ..))
    intro k g trip g1 w
    refine ⟨_, execVerdictForm_posted hfind hop hout hcopy hst hstage halone hposted, ?_⟩
    have htrip : w.getLsbD 0 = trip := verdictWord_trip ..
    have hg : g = s.guard := guard_combineReports ..
    have hkept := updateGuard_trips g k (gvRound x) trip
    rw [formVerdict_alone hrep hround]
    beta_reduce
    rw [hguard]
    refine ⟨rfl, rfl, getLast?_drop_to_64 .., length_drop_to 64 _, rfl, rfl, rfl, ?_, hg, htrip, ?_⟩
    · show (if w.getLsbD 0 = true then g1.trips.add 1 else g1.trips) = _
      rw [htrip, hkept.1, hg]
    · rw [endVerdict_of_running hcopy hst, href]
      exact copyDone_finishCopy hy hc' ⟨rfl, ofNat_mod_eq_setWidth _⟩
  · have href := ref_of_findDesc hfind
    have hmiss : execVerdictForm r s = .next (missRound x s) := by
      cases hposted : s.guard.posted with
      | none => exact execVerdictForm_none hfind hop hout hcopy hst hstage halone hposted hround
      | some b =>
        rw [execVerdictForm_posted hfind hop hout hcopy hst hstage halone hposted, formVerdict]
        exact congrArg Host.Outcome.next (if_pos hround)
    refine ⟨_, hmiss, guard_of_outside (missRound_outside (by simp) ..), mem_of_outside (missRound_outside (by simp) ..), ?_⟩
    rw [missRound_of_running hcopy hst, href]
    exact copyDone_finishCopy hfind hcopy ⟨rfl, rfl⟩
  · simp [updateGuard, hz]
  · simp [updateGuard, hz, hseen, hold]
  · simp [updateGuard, hz, hseen, hold]
    rfl

end Sys2Proof.Machine
end

section
/-! PROOFS. Audits of the ledgers and their snapshots (R360, R361, R365, R366, R368). -/

namespace Sys2Proof.Machine

/-! ### Audits -/

/-- What ledger faults leave of a module that was in Full service: at least one, at most n, with cause LEDGER_FAULT and the columns as they were. -/
structure Audited (s0 : State) (n : Nat) (u : State) : Prop where
  mode : u.ms.mode = .fenced
  cause : u.ms.cause = causeLedgerFault
  valid : u.lg.faultValid = true
  count : ∃ k, u.lg.faultCount = s0.lg.faultCount + BitVec.ofNat 32 (k + 1) ∧ k < n
  columns : ∀ d, (lgDom u d).free = (lgDom s0 d).free ∧ (lgDom u d).held = (lgDom s0 d).held ∧ (lgDom u d).lent = (lgDom s0 d).lent ∧
    (lgDom u d).reclaimed = (lgDom s0 d).reclaimed

theorem Audited.mono {s0 : State} {n m : Nat} {u : State} (h : Audited s0 n u) (hle : n ≤ m) : Audited s0 m u := by
  obtain ⟨hmode, hcause, hvalid, ⟨k, hk, hlt⟩, hcol⟩ := h
  exact ⟨hmode, hcause, hvalid, ⟨k, hk, by omega⟩, hcol⟩

theorem lgDom_ledgerFault (d kind holder : Nat) (r : Option Ref) (s : State) (e : Nat) : lgDom (ledgerFault d kind holder r s) e = lgDom s e := by
  rw [lgDom, ledgerFault_lg]
  split <;> rfl

theorem faultValid_ledgerFault (d kind holder : Nat) (r : Option Ref) (s : State) : (ledgerFault d kind holder r s).lg.faultValid = true := by
  rw [ledgerFault_lg]
  split
  · assumption
  · rfl

theorem faultCount_ledgerFault (d kind holder : Nat) (r : Option Ref) (s : State) :
    (ledgerFault d kind holder r s).lg.faultCount = s.lg.faultCount + 1 := by
  rw [ledgerFault_lg]
  split <;> rfl

/-- R361: a ledger fault of a fenced module leaves it fenced, and its cause where that was a ledger fault too. -/
theorem ledgerFault_fenced {d kind holder : Nat} {s : State} (hmode : s.ms.mode = .fenced) (hcause : s.ms.cause = causeLedgerFault) :
    (ledgerFault d kind holder none s).ms.mode = .fenced ∧ (ledgerFault d kind holder none s).ms.cause = causeLedgerFault := by
  have hjoin (u : State) (hms : u.ms = s.ms) : (jobFault causeLedgerFault u).ms.mode = .fenced ∧ (jobFault causeLedgerFault u).ms.cause = causeLedgerFault := by
    simp only [jobFault, hms, hmode, joinFault]
    split
    · exact ⟨rfl, by rw [hcause]; rfl⟩
    · rw [hms]
      exact ⟨hmode, hcause⟩
  exact hjoin _ rfl

theorem audited_ledgerFault_full {d kind holder : Nat} {s0 s : State} (hms : s.ms.mode = .full) (hcount : s.lg.faultCount = s0.lg.faultCount)
    (hcol : ∀ d, (lgDom s d).free = (lgDom s0 d).free ∧ (lgDom s d).held = (lgDom s0 d).held ∧ (lgDom s d).lent = (lgDom s0 d).lent ∧
      (lgDom s d).reclaimed = (lgDom s0 d).reclaimed) : Audited s0 1 (ledgerFault d kind holder none s) := by
  obtain ⟨hmode, hcause⟩ := ledgerFault_full (d := d) (kind := kind) (holder := holder) (r := none) hms
  exact ⟨hmode, hcause, faultValid_ledgerFault .., ⟨0, by rw [faultCount_ledgerFault, hcount]; rfl, by omega⟩, fun e => by rw [lgDom_ledgerFault]; exact hcol e⟩

theorem Audited.ledgerFault {d kind holder n : Nat} {s0 s : State} (h : Audited s0 n s) : Audited s0 (n + 1) (ledgerFault d kind holder none s) := by
  obtain ⟨hmode, hcause, hvalid, ⟨k, hk, hlt⟩, hcol⟩ := h
  obtain ⟨hmode', hcause'⟩ := ledgerFault_fenced (d := d) (kind := kind) (holder := holder) hmode hcause
  refine ⟨hmode', hcause', faultValid_ledgerFault .., ⟨k + 1, ?_, by omega⟩, fun e => by rw [lgDom_ledgerFault]; exact hcol e⟩
  rw [faultCount_ledgerFault, hk, BitVec.add_assoc]
  congr 1
  exact (BitVec.ofNat_add ..).symm

/-- Clearing a parity error moves no token. -/
theorem columns_setLgDom_parity (d e : Nat) (s : State) :
    (lgDom (setLgDom d { lgDom s d with parityBad := false } s) e).free = (lgDom s e).free ∧
      (lgDom (setLgDom d { lgDom s d with parityBad := false } s) e).held = (lgDom s e).held ∧
      (lgDom (setLgDom d { lgDom s d with parityBad := false } s) e).lent = (lgDom s e).lent ∧
      (lgDom (setLgDom d { lgDom s d with parityBad := false } s) e).reclaimed = (lgDom s e).reclaimed := by
  by_cases he : e = d
  · subst he
    rw [lgDom, setLgDom, Tab.get_put_same]
    exact ⟨rfl, rfl, rfl, rfl⟩
  · rw [lgDom, setLgDom, Tab.get_put_other _ he]
    exact ⟨rfl, rfl, rfl, rfl⟩

theorem Audited.setLgDom_parity {d n : Nat} {s0 s : State} (h : Audited s0 n s) : Audited s0 n (setLgDom d { lgDom s d with parityBad := false } s) := by
  obtain ⟨hmode, hcause, hvalid, hcount, hcol⟩ := h
  refine ⟨hmode, hcause, hvalid, hcount, fun e => ?_⟩
  obtain ⟨hf, hh, hl, hr⟩ := columns_setLgDom_parity d e s
  rw [hf, hh, hl, hr]
  exact hcol e

theorem Audited.auditDomain {n : Nat} {s0 s : State} (h : Audited s0 n s) (d : Nat) : Audited s0 (n + 2) (auditDomain s d) := by
  have hparity : Audited s0 (n + 1) (parityCheck d s) := by
    unfold parityCheck
    dsimp only
    split
    · exact h.setLgDom_parity.ledgerFault
    · exact h.mono (by omega)
  unfold Machine.auditDomain
  dsimp only
  split
  · exact hparity.mono (by omega)
  · exact hparity.ledgerFault

theorem Audited.foldl_auditDomain {s0 : State} (l : List Nat) {n : Nat} {s : State} (h : Audited s0 n s) : Audited s0 (n + 2 * l.length) (l.foldl Machine.auditDomain s) := by
  induction l generalizing n s with
  | nil => exact h
  | cons d l ih => exact (ih (h.auditDomain d)).mono (by rw [List.length_cons]; omega)

/-- R360: an audit of a ledger that balances and whose parity holds changes nothing. -/
theorem auditDomain_of_balanced {s : State} {d : Nat} (h : inBalance s d (lgBefore s d) = true) (hparity : (lgDom s d).parityBad = false) :
    auditDomain s d = s := by
  rw [auditDomain, parityCheck_good d s hparity]
  exact if_pos h

theorem foldl_auditDomain_of_balanced {s : State} (l : List Nat) (h : ∀ d ∈ l, inBalance s d (lgBefore s d) = true ∧ (lgDom s d).parityBad = false) :
    l.foldl auditDomain s = s := by
  induction l with
  | nil => rfl
  | cons d l ih =>
    obtain ⟨hd, hp⟩ := h d (List.mem_cons_self ..)
    rw [List.foldl_cons, auditDomain_of_balanced hd hp, ih fun e he => h e (List.mem_cons_of_mem _ he)]

/-- R361: an audit of a module in Full service faults at a ledger that does not balance or whose parity fails. -/
theorem audited_auditDomain_full {s : State} {d : Nat} (hms : s.ms.mode = .full) (h : ¬ (inBalance s d (lgBefore s d) = true ∧ (lgDom s d).parityBad = false)) :
    Audited s 2 (auditDomain s d) := by
  cases hparity : (lgDom s d).parityBad with
  | false =>
    rw [auditDomain, parityCheck_good d s hparity]
    simp only [hparity, and_true] at h
    rw [if_neg h]
    exact (audited_ledgerFault_full hms rfl fun _ => ⟨rfl, rfl, rfl, rfl⟩).mono (by omega)
  | true =>
    have hfirst : Audited s 1 (parityCheck d s) := by
      unfold parityCheck
      dsimp only
      rw [if_pos hparity]
      exact audited_ledgerFault_full (s := setLgDom d { lgDom s d with parityBad := false } s) hms rfl fun e => columns_setLgDom_parity d e s
    unfold Machine.auditDomain
    dsimp only
    split
    · exact hfirst.mono (by omega)
    · exact hfirst.ledgerFault

theorem audited_foldl_full {s : State} (hms : s.ms.mode = .full) (l : List Nat) (h : ∃ d ∈ l, inBalance s d (lgBefore s d) = false) :
    Audited s (2 * l.length) (l.foldl auditDomain s) := by
  induction l with
  | nil =>
    obtain ⟨_, hd, -⟩ := h
    cases hd
  | cons d l ih =>
    rw [List.foldl_cons, List.length_cons]
    by_cases hd : inBalance s d (lgBefore s d) = true ∧ (lgDom s d).parityBad = false
    · rw [auditDomain_of_balanced hd.1 hd.2]
      obtain ⟨e, he, hfail⟩ := h
      have hl : e ∈ l := (List.mem_cons.mp he).resolve_left fun heq => by
        rw [heq, hd.1] at hfail
        cases hfail
      exact (ih ⟨e, hl, hfail⟩).mono (by omega)
    · exact ((audited_auditDomain_full hms hd).foldl_auditDomain l).mono (by omega)

theorem Audited.count_ne {s0 s : State} {n : Nat} (h : Audited s0 n s) (hn : n < 2 ^ 32) : s.lg.faultCount ≠ s0.lg.faultCount := by
  obtain ⟨k, hk, hlt⟩ := h.count
  rw [hk]
  intro heq
  have hzero : BitVec.ofNat 32 (k + 1) = 0#32 := by simpa using heq
  have := congrArg BitVec.toNat hzero
  rw [BitVec.toNat_ofNat, Nat.mod_eq_of_lt (by omega)] at this
  simp at this

/-! ### Snapshots -/

/-- A write to memory does not look at the ledgers. -/
theorem logDropped_with_lg (l : Ledger) (cs : List Nat) (m : Mem) (s : State) : logDropped cs m { s with lg := l } = { logDropped cs m s with lg := l } := by
  have hlog (a : Nat) (p : Place) (source unit core : Nat) (symbols : Byte) (u : State) :
      (logMemErr a p source unit core symbols { u with lg := l }).2 = { (logMemErr a p source unit core symbols u).2 with lg := l } := by
    unfold logMemErr
    dsimp only
    generalize (List.map (fun x => x.2) u.mem.errLog).find? _ = recent
    cases recent with
    | some e => rfl
    | none => rfl
  unfold logDropped
  induction cs generalizing s with
  | nil => rfl
  | cons c cs ih =>
    rw [List.foldl_cons, List.foldl_cons, ← ih]
    exact congrArg (List.foldl _ · cs) (hlog ..)

theorem storeReceived_with_lg (l : Ledger) (rq : Requester) (xs : List (Nat × Byte)) (s : State) :
    storeReceived rq xs { s with lg := l } = { storeReceived rq xs s with lg := l } := by
  unfold storeReceived
  rw [← logDropped_with_lg]
  rfl

/-- R365: the module as a snapshot finds the ledgers once its record is stored. -/
def snapshotStored (s : State) : State :=
  { storeReceived .iod (addressed s.lg.snapAddr.toNat (snapBytes s (s.lg.snapSeq + 1) (s.ft.ft.toNat - s.lg.snapTick.toNat))) s with
    lg := { s.lg with snapArm := false, snapDone := true, snapSeq := s.lg.snapSeq + 1, snapLate := decide (0 < s.ft.ft.toNat - s.lg.snapTick.toNat) } }

theorem takeSnapshot_eq (s : State) : takeSnapshot s = snapAudit (snapshotStored s) := by
  rw [takeSnapshot, snapshotStored, ← storeReceived_with_lg]

theorem snapshotStored_same (s : State) : (snapshotStored s).sync = s.sync ∧ (snapshotStored s).link = s.link ∧ (snapshotStored s).clk = s.clk ∧
    (snapshotStored s).ft = s.ft ∧ (snapshotStored s).ms = s.ms :=
  ⟨sync_of_outside (storeReceived_outside (by simp) ..), link_of_outside (storeReceived_outside (by simp) ..),
    clk_of_outside (storeReceived_outside (by simp) ..), ft_of_outside (storeReceived_outside (by simp) ..),
    ms_of_outside (storeReceived_outside (by simp) ..)⟩

theorem inBalance_congr {s t : State} (hsync : t.sync = s.sync) (hlink : t.link = s.link) (d : Nat) (x : LgDom) : inBalance t d x = inBalance s d x := by
  have hshare (h : Nat) : shareLimit t d h = shareLimit s d h := by
    rw [shareLimit, shareLimit, sqRx, poolCh, hsync, hlink]
    rfl
  simp only [inBalance, hshare]

theorem inBalance_snapshotStored (s : State) (d : Nat) :
    inBalance (snapshotStored s) d (lgBefore (snapshotStored s) d) = inBalance s d (lgBefore s d) := by
  obtain ⟨hsync, hlink, hclk, -, -⟩ := snapshotStored_same s
  have hbefore : lgBefore (snapshotStored s) d = lgBefore s d := by
    rw [lgBefore, hclk]
    rfl
  rw [inBalance_congr hsync hlink, hbefore]

theorem captured_snapshotStored (s : State) : captured (snapshotStored s) = captured s := by
  obtain ⟨-, -, -, hft, hms⟩ := snapshotStored_same s
  have hany : anyUnbalanced (snapshotStored s) = anyUnbalanced s := by
    simp only [anyUnbalanced, inBalance_snapshotStored]
  rw [captured, captured, hft, hms, hany]
  rfl

/-- What the balances of a snapshot leave of its registers. -/
structure Snapped (s u : State) : Prop where
  arm : u.lg.snapArm = s.lg.snapArm
  done : u.lg.snapDone = s.lg.snapDone
  late : u.lg.snapLate = s.lg.snapLate
  seq : u.lg.snapSeq = s.lg.snapSeq

theorem snapped_ledgerFault {s u : State} (h : Snapped s u) (d kind holder : Nat) (r : Option Ref) : Snapped s (ledgerFault d kind holder r u) := by
  obtain ⟨ha, hd, hl, hs⟩ := h
  have hlg := ledgerFault_lg d kind holder r u
  split at hlg <;> exact ⟨by rw [hlg]; exact ha, by rw [hlg]; exact hd, by rw [hlg]; exact hl, by rw [hlg]; exact hs⟩

theorem snapped_snapAudit (s : State) : Snapped s (snapAudit s) := by
  unfold snapAudit
  dsimp only
  split
  · exact ⟨rfl, rfl, rfl, rfl⟩
  · exact List.foldlRecOn (motive := Snapped s) _ _ ⟨rfl, rfl, rfl, rfl⟩ fun u hu d _ => snapped_ledgerFault hu ..

theorem snapAudit_of_balanced {s : State} (h : ∀ d < 8, inBalance s d (lgBefore s d) = true) :
    snapAudit s = { s with lg := { s.lg with snapMismatch := (captured s).2, capture := some (s.ft.ft, captured s) } } := by
  have hnone : ((List.range 8).filter fun d => !inBalance s d (lgBefore s d)) = [] :=
    List.filter_eq_nil_iff.mpr fun d hd => by simp [h d (List.mem_range.mp hd)]
  unfold snapAudit
  rw [hnone]
  dsimp only
  split <;> rfl

theorem execLedgerAudit_eq {s : State} (hs : inService s = true) :
    execLedgerAudit s = .next ((List.range 8).foldl auditDomain { s with lg := { s.lg with audits := s.lg.audits.add 1 } }) :=
  congrArg Host.Outcome.next (if_neg (by simp [hs]))

theorem execLgSnapArm_eq {s : State} (hs : inService s = true) (v : Word) :
    execLgSnapArm v s = .next (writeSnapCtrl v (writeLogged 0x140250 v.toNat s)) := by
  rw [execLgSnapArm, bar0Write_eq_writeLogged hs]
  rfl

/-- R366: what a write of LG_SNAP_CTRL that arms leaves, before the tick of the snapshot is looked at. -/
def snapArmed (v : Word) (s : State) : State :=
  { s with lg := { s.lg with snapArm := true, snapDone := if v.getLsbD 2 then false else s.lg.snapDone } }

theorem writeSnapCtrl_arm {v : Word} {s : State} (hv0 : v.getLsbD 0 = true) (hv1 : v.getLsbD 1 = false)
    (hok : recordOk s .iod s.lg.snapAddr.toNat 320 64 = true) :
    writeSnapCtrl v s = if s.lg.snapTick.toNat < s.ft.ft.toNat then takeSnapshot (snapArmed v s) else snapArmed v s := by
  have hrecord (l : Ledger) (a n k : Nat) : recordOk { s with lg := l } .iod a n k = recordOk s .iod a n k := rfl
  unfold writeSnapCtrl snapArmed
  cases hv2 : v.getLsbD 2 <;>
    simp only [hv0, hv1, hok, hrecord, Bool.false_eq_true, if_false, if_true, Bool.true_and, decide_eq_true_eq]

theorem writeSnapCtrl_disarm {v : Word} {s : State} (hv1 : v.getLsbD 1 = true) :
    writeSnapCtrl v s = { s with lg := { s.lg with snapArm := false, snapDone := if v.getLsbD 2 then false else s.lg.snapDone } } := by
  unfold writeSnapCtrl
  dsimp only
  rw [if_pos hv1, if_neg (by simp)]
  split <;> split <;> rfl

/-- R360: the count of audits takes no part in a balance. -/
theorem audited_same (s : State) (d : Nat) (x : LgDom) : inBalance { s with lg := { s.lg with audits := s.lg.audits.add 1 } } d x = inBalance s d x :=
  inBalance_congr (s := s) (t := { s with lg := { s.lg with audits := s.lg.audits.add 1 } }) rfl rfl d x

/-- Settles O43: by whether every ledger balances, and whether the tick of the snapshot is past. -/
theorem ledgerCommandsComplete : Obligations.LedgerCommandsComplete := by
  refine ⟨fun s hs hgood => ⟨_, execLedgerAudit_eq hs, ?_⟩, fun s hs hfull hbad => ⟨_, execLedgerAudit_eq hs, ?_⟩,
    fun v s hs hv0 hv1 => ?_, fun v s hs hv0 hv1 => ?_, fun v s hs hv1 => ⟨_, execLgSnapArm_eq hs v, writeSnapCtrl_disarm hv1⟩,
    fun s hs harm htick hgood => ?_⟩
  · refine foldl_auditDomain_of_balanced _ fun d hd => ?_
    rw [audited_same]
    exact hgood d (List.mem_range.mp hd)
  · obtain ⟨d, hd, hfail⟩ := hbad
    have h := audited_foldl_full (s := { s with lg := { s.lg with audits := s.lg.audits.add 1 } }) hfull (List.range 8)
      ⟨d, List.mem_range.mpr hd, (audited_same s d _).trans hfail⟩
    have hne := h.count_ne (by rw [List.length_range]; decide)
    generalize (List.range 8).foldl auditDomain _ = u at h hne ⊢
    exact ⟨h.mode, h.cause, h.valid, hne, h.columns⟩
  · intro s1 done hok htick
    refine ⟨_, execLgSnapArm_eq hs v, ?_⟩
    exact (writeSnapCtrl_arm hv0 hv1 hok).trans (if_neg (Nat.not_lt.mpr htick))
  · intro s1 hok htick
    refine ⟨_, execLgSnapArm_eq hs v, ?_⟩
    beta_reduce
    rw [writeSnapCtrl_arm hv0 hv1 hok, if_pos htick, takeSnapshot_eq]
    obtain ⟨harm, hdone, hlate, hseq⟩ := snapped_snapAudit (snapshotStored (snapArmed v s1))
    exact ⟨harm, hdone, hlate.trans (decide_eq_true (Nat.sub_pos_of_lt htick)), hseq⟩
  · have hnext : execLedgerSnapshot s = .next (takeSnapshot s) := congrArg Host.Outcome.next (if_pos (by simp [harm, hs, htick]))
    refine ⟨_, hnext, ?_⟩
    have hgood' : ∀ d < 8, inBalance (snapshotStored s) d (lgBefore (snapshotStored s) d) = true := fun d hd => by
      rw [inBalance_snapshotStored, hgood d hd]
    have hft : (snapshotStored s).ft.ft = s.ft.ft := by
      obtain ⟨-, -, -, h, -⟩ := snapshotStored_same s
      rw [h]
    have hlate : decide (0 < s.ft.ft.toNat - s.lg.snapTick.toNat) = decide (s.lg.snapTick.toNat < s.ft.ft.toNat) := decide_eq_decide.mpr Nat.sub_pos_iff_lt
    beta_reduce
    rw [takeSnapshot_eq, snapAudit_of_balanced hgood', captured_snapshotStored, hft, snapshotStored, hlate]

end Sys2Proof.Machine
end

section
/-! PROOFS. The OPEN of a replayed ember whose link is lost (R370, R389). -/

namespace Sys2Proof.Machine

/-- An OPEN for the partner's sink, dispatched by replay. -/
def replayedOpen : Desc :=
  { ref := ⟨0, 0⟩, bytes := recordOf [(0, 1, 0x60)], ctx := 0, prio := 0, dispatched := true, order := 0,
    copies := [{ target := .ember, st := .running, stage := 0, since := 0, report := none }],
    start := some 0, lateness := 0, outcome := none, detailAll := none, collided := false, deps := 0, waiting := none, replayed := true,
    pair := none }

/-- Its module, of an enabled yoke without a partner, with a table of one page at address 0. -/
def replayedOpenState : State :=
  { State.reset with mem := { State.reset.mem with bytes := [(72, 1), (82, 0x60), (90, 0xC0)] }, yoke := { State.reset.yoke with en := true },
                     descs := [replayedOpen] }

theorem replayedOpen_passes : emberError replayedOpenState replayedOpen = none ∧ tableBadRead replayedOpenState replayedOpen = none := by
  decide +kernel

theorem ember_releaseReceived {s : State} (hsync : s.sync.unwritten = []) (hcoll : s.coll.unwritten = []) (hrun : s.coll.run = none) :
    (releaseReceived s).ember = s.ember := by
  simp [releaseReceived, takeHeld, serveUnwritten, liveRun, hsync, hcoll, hrun]

/-- R371: an epoch that is abandoned streams no more, where no message waits to be taken. -/
theorem streaming_abandonEpoch {s : State} (hsync : s.sync.unwritten = []) (hcoll : s.coll.unwritten = []) (hrun : s.coll.run = none) :
    (abandonEpoch s).ember.streaming = false := by
  unfold abandonEpoch
  dsimp only
  generalize hs1 : s.ember.pages.foldl _ s = s1
  have hout : outside [.ms, .host, .link, .yoke, .lg, .descs, .out] s1 = outside [.ms, .host, .link, .yoke, .lg, .descs, .out] s := by
    rw [← hs1, outside_foldl _ fun s c => by (repeat' split) <;> simp]
  have hsync1 := sync_of_outside (outside_mono (gs := allBut [.sync]) (by simp) hout)
  have hcoll1 := coll_of_outside (outside_mono (gs := allBut [.coll]) (by simp) hout)
  have hheld (ws : List HeldWrite) (e : Ember) : (makeHeld ws (setEmber e s1)).sync = s1.sync ∧ (makeHeld ws (setEmber e s1)).coll = s1.coll ∧
      (makeHeld ws (setEmber e s1)).ember = e :=
    ⟨sync_of_outside (makeHeld_outside (by simp) ..), coll_of_outside (makeHeld_outside (by simp) ..), ember_of_outside (makeHeld_outside (by simp) ..)⟩
  unfold releaseAllHeld
  obtain ⟨hs, hc, he⟩ := hheld s1.ember.heldWrites { s1.ember with streaming := false, pages := [], sentOrder := [], heldWrites := [] }
  rw [ember_releaseReceived]
  · exact congrArg Ember.streaming he
  · exact (congrArg (·.unwritten) (hs.trans hsync1)).trans hsync
  · exact (congrArg (·.unwritten) (hc.trans hcoll1)).trans hcoll
  · exact (congrArg (·.run) (hc.trans hcoll1)).trans hrun

/-- What the replayed OPEN leaves: nothing streams. -/
theorem streaming_runOpen_replayed : (runOpen replayedOpen replayedOpenState).ember.streaming = false := by
  have hlink : linked replayedOpenState = false := rfl
  have hopen : runOpen replayedOpen replayedOpenState = abandonEpoch (openEpoch replayedOpen replayedOpenState) := rfl
  have hsync := sync_of_outside (openEpoch_outside (by simp) replayedOpen replayedOpenState)
  have hcoll := coll_of_outside (openEpoch_outside (by simp) replayedOpen replayedOpenState)
  rw [hopen]
  exact streaming_abandonEpoch (by rw [hsync]; rfl) (by rw [hcoll]; rfl) (by rw [hcoll]; rfl)

/-- Refutes O45: an OPEN dispatched by replay whose sink was the partner's memory ends unsealed at once where no partner is linked. -/
theorem not_emberDescriptorsComplete : ¬ Obligations.EmberDescriptorsComplete := by
  unfold Obligations.EmberDescriptorsComplete
  rintro ⟨hopens, -⟩
  obtain ⟨hpass, hread⟩ := replayedOpen_passes
  obtain ⟨t, ht, -, hstream, -⟩ := hopens replayedOpen.ref replayedOpen replayedOpenState ⟨⟨rfl, by decide, by decide⟩, rfl⟩ (by decide) rfl hpass
  have hnext : exec (.emberOpen replayedOpen.ref) replayedOpenState = .next (runOpen replayedOpen replayedOpenState) := by
    have hrow : emberRow replayedOpen.ref 0 runOpen replayedOpenState = runOpen replayedOpen replayedOpenState := by
      rw [emberRow, atStage, show findDesc replayedOpenState replayedOpen.ref = some replayedOpen from rfl]
      dsimp only
      rw [if_pos (by decide), if_neg (by decide), hread]
      dsimp only
      rw [hpass]
    exact congrArg Host.Outcome.next hrow
  rw [hnext] at ht
  injection ht with ht
  rw [← ht, streaming_runOpen_replayed] at hstream
  cases hstream

end Sys2Proof.Machine
end

section
/-! PROOFS. The end of a takeover (R388). -/

namespace Sys2Proof.Machine

/-- A module at the end of its replay, whose current epoch is not the sealed one and whose log has no pages. -/
def endedReplay : State :=
  { State.reset with ms := { ModState.reset with mode := .banked, trans := .takeover }, yoke := { State.reset.yoke with stage := .replaying },
                     ember := { State.reset.ember with sealedEpoch := 1, current := 0, effLogPages := 0 } }

theorem takeoverLive_keeps_epoch : ∀ t, execTakeoverLive endedReplay = .next t → t.ember.current = 0 := by
  intro t ht
  cases ht
  decide +kernel

/-- Refutes O49: going live leaves the number of the current epoch as it stands; it is the start of the takeover that sets it. -/
theorem not_takeoverCompletes : ¬ Obligations.TakeoverCompletes := by
  unfold Obligations.TakeoverCompletes
  rintro ⟨⟨-, hlive, -⟩, -⟩
  obtain ⟨t, ht, -, -, -, -, hcurrent, -⟩ := hlive endedReplay rfl rfl (by decide +kernel) rfl rfl
  rw [takeoverLive_keeps_epoch t ht] at hcurrent
  exact absurd hcurrent (by decide)

end Sys2Proof.Machine
end

section
/-! PROOFS. Duest links and the sideband (R398, R399, R405). -/

namespace Sys2Proof.Machine

/-! ### Traffic of a link -/

theorem choose_spec (n : Nat) (s : State) : ∃ k c, choose n s = (k, { s with freeCtr := c }) ∧ k < max 1 n :=
  ⟨_, _, rfl, Nat.mod_lt _ (by omega)⟩

/-- R398: what the groups sent and acknowledged since leave of a link: i acknowledged, j sent. -/
def trafficLink (l i j least : Nat) (s : State) : DuestLink :=
  let x := duestLink s l
  { x with oldest := x.oldest + BitVec.ofNat 8 i, kept := max (x.kept - i + j) (min least (retryDepth s l) - i), ackAt := if i = 0 then x.ackAt else s.clk,
           times := x.times.filter fun t => decide (i ≤ groupsTo x.oldest (BitVec.ofNat 8 t.1)) }

theorem linkTraffic_spec (l : Nat) (acks : Bool) (least : Nat) (s : State) :
    ∃ i j c, linkTraffic l acks least s = setDuestLink l (trafficLink l i j least s) { s with freeCtr := c } ∧
      i ≤ (if acks then min (groupsTo (duestLink s l).oldest (duestLink s l).expect) (duestLink s l).kept else 0) ∧
      j ≤ retryDepth s l - ((duestLink s l).kept - i) := by
  obtain ⟨i, c, hi, hlt⟩ := choose_spec (if acks then min (groupsTo (duestLink s l).oldest (duestLink s l).expect) (duestLink s l).kept + 1 else 1) s
  obtain ⟨j, c', hj, hlt'⟩ := choose_spec (retryDepth s l - ((duestLink s l).kept - i) + 1) { s with freeCtr := c }
  refine ⟨i, j, c', ?_, ?_, by omega⟩
  · simp only [linkTraffic, hi, hj]
    rfl
  · cases acks <;> simp at hlt ⊢ <;> omega

theorem duestLink_linkTraffic_other {l m : Nat} (h : m ≠ l) (acks : Bool) (least : Nat) (s : State) : duestLink (linkTraffic l acks least s) m = duestLink s m := by
  obtain ⟨i, j, c, ht, -, -⟩ := linkTraffic_spec l acks least s
  rw [ht]
  exact Tab.get_put_other _ h

theorem linkTraffic_eq (l : Nat) (acks : Bool) (least : Nat) (s : State) :
    linkTraffic l acks least s = { s with duest := (linkTraffic l acks least s).duest, freeCtr := (linkTraffic l acks least s).freeCtr } := by
  obtain ⟨i, j, c, ht, -, -⟩ := linkTraffic_spec l acks least s
  rw [ht]
  rfl

/-- R398: a group that is not acknowledged keeps its count of trials. -/
theorem get_filter_of_kept {p : Nat × Nat → Bool} {t : Tab Nat} {k : Nat} (h : ∀ v, p (k, v) = true) : Tab.get 0 (t.filter p) k = Tab.get 0 t k := by
  induction t with
  | nil => rfl
  | cons x t ih =>
    obtain ⟨j, v⟩ := x
    by_cases hj : j = k
    · subst hj
      rw [List.filter_cons_of_pos (h v)]
      simp [Tab.get]
    · have htail : Tab.get 0 ((j, v) :: t) k = Tab.get 0 t k := by simp [Tab.get, hj]
      rw [htail, ← ih, List.filter_cons]
      split
      · simp [Tab.get, hj]
      · rfl

/-- What the traffic of a link leaves of the side that receives: nothing changes. -/
theorem linkHeard_link (l : Nat) (g : Byte) (s : State) :
    ∃ i, (duestLink (linkHeard l g s) l).expect = (duestLink s l).expect ∧ (duestLink (linkHeard l g s) l).nak = (duestLink s l).nak ∧
      (duestLink (linkHeard l g s) l).crc = (duestLink s l).crc ∧ (duestLink (linkHeard l g s) l).replay = (duestLink s l).replay ∧
      i ≤ groupsTo (duestLink s l).oldest (duestLink s l).expect ∧ i ≤ (duestLink s l).kept ∧
      (duestLink (linkHeard l g s) l).oldest = (duestLink s l).oldest + BitVec.ofNat 8 i ∧
      min (groupsTo (duestLink s l).oldest g + 1) (retryDepth s l) - i ≤ (duestLink (linkHeard l g s) l).kept ∧
      ((duestLink s l).kept ≤ retryDepth s l → (duestLink (linkHeard l g s) l).kept ≤ retryDepth s l) ∧
      (duestLink (linkHeard l g s) l).times.get 0 (duestLink s l).expect.toNat = (duestLink s l).times.get 0 (duestLink s l).expect.toNat := by
  obtain ⟨i, j, c, ht, hi, hj⟩ := linkTraffic_spec l true (groupsTo (duestLink s l).oldest g + 1) s
  rw [if_pos rfl] at hi
  have hlink : duestLink (linkHeard l g s) l = trafficLink l i j (groupsTo (duestLink s l).oldest g + 1) s := by
    rw [linkHeard, ht]
    exact Tab.get_put_same _
  rw [hlink]
  refine ⟨i, rfl, rfl, rfl, rfl, by omega, by omega, rfl, ?_, fun hk => ?_, ?_⟩
  · exact Nat.le_max_right ..
  · show max _ _ ≤ _
    omega
  · refine get_filter_of_kept fun v => decide_eq_true ?_
    rw [BitVec.ofNat_toNat, BitVec.setWidth_eq]
    omega

/-! ### The reply to a group -/

theorem length_leBytes (len n : Nat) : (leBytes len n).length = len := by rw [leBytes, List.length_map, List.length_range]

theorem length_padTo_of_length {n : Nat} {b : List Byte} (h : b.length = n) : padTo n b = b := by
  rw [padTo, List.take_left' h]

theorem fieldAt_leBytes_two {b : List Byte} {n off : Nat} {c : List Byte} (h : b.length = off) (hc : c.length ≤ 6) :
    fieldAt (b ++ leBytes 2 n ++ c) off 0 16 = n % 2 ^ 16 := by
  have hdrop : (b ++ leBytes 2 n ++ c).drop off = leBytes 2 n ++ c := by rw [List.append_assoc, List.drop_left' h]
  have htake : (leBytes 2 n ++ c).take 8 = leBytes 2 n ++ c := List.take_of_length_le (by rw [List.length_append, length_leBytes]; omega)
  have hnat : leNat (leBytes 2 n ++ c) = n % 256 + 256 * (n / 256 % 256 + 256 * leNat c) := by
    show (BitVec.ofNat 8 (n >>> 0)).toNat + 256 * ((BitVec.ofNat 8 (n >>> 8)).toNat + 256 * leNat c) = _
    rw [BitVec.toNat_ofNat, BitVec.toNat_ofNat, Nat.shiftRight_zero, Nat.shiftRight_eq_div_pow]
  rw [fieldAt, hdrop, htake, hnat, bitsOf, Nat.shiftRight_zero]
  omega

/-- R398: the control field of a reply: an acknowledgement or a negative one. -/
theorem duestControl_bits (gseq index : Nat) (replay nak : Bool) :
    bitOf (duestControl gseq index replay (!nak) nak % 2 ^ 16) 13 = nak ∧ bitOf (duestControl gseq index replay (!nak) nak % 2 ^ 16) 12 = !nak := by
  have hreplay : bit replay < 2 := by cases replay <;> decide
  simp only [duestControl, at', bitOf, Nat.shiftLeft_eq, Nat.shiftRight_eq_div_pow]
  generalize bit replay = r at hreplay
  cases nak with
  | false => exact ⟨beq_eq_false_iff_ne.mpr (by simp only [bit]; norm_num; omega), beq_iff_eq.mpr (by simp only [bit]; norm_num; omega)⟩
  | true => exact ⟨beq_iff_eq.mpr (by simp only [bit]; norm_num; omega), beq_eq_false_iff_ne.mpr (by simp only [bit]; norm_num; omega)⟩

theorem duestReply_flit (l : Nat) (nak : Bool) (g : Byte) (s : State) :
    ∃ bs, duestReply l nak g s = { s with out := s.out ++ [.duestFlit l bs], freeCtr := s.freeCtr + 1 } ∧ bs.length = 262 ∧
      bs[0]? = some g ∧ bitOf (fieldAt bs 256 0 16) 13 = nak ∧ bitOf (fieldAt bs 256 0 16) 12 = !nak ∧ bs.drop 258 = leBytes 4 (crc32c (bs.take 258)).toNat := by
  let data := g :: (List.range 255).map fun i => BitVec.ofNat 8 (Config.freeAt s.freeCtr i)
  let control := duestControl (Config.freeAt s.freeCtr 255) (Config.freeAt s.freeCtr 256) (Config.freeAt s.freeCtr 257 % 2 == 1) (!nak) nak
  have hlen : data.length = 256 := by simp only [data, List.length_cons, List.length_map, List.length_range]
  have hflit : duestFlit data control = data ++ leBytes 2 control ++ leBytes 4 (crc32c (data ++ leBytes 2 control)).toNat := by
    rw [duestFlit, length_padTo_of_length hlen]
  have hhead : (data ++ leBytes 2 control).length = 258 := by rw [List.length_append, length_leBytes, hlen]
  have hfield : fieldAt (duestFlit data control) 256 0 16 = control % 2 ^ 16 := by
    rw [hflit, fieldAt_leBytes_two hlen (by rw [length_leBytes]; omega)]
  obtain ⟨h13, h12⟩ := duestControl_bits (Config.freeAt s.freeCtr 255) (Config.freeAt s.freeCtr 256) (Config.freeAt s.freeCtr 257 % 2 == 1) nak
  refine ⟨duestFlit data control, rfl, ?_, ?_, ?_, ?_, ?_⟩
  · rw [hflit, List.length_append, hhead, length_leBytes]
  · rw [hflit, List.append_assoc]
    rfl
  · rw [hfield]
    exact h13
  · rw [hfield]
    exact h12
  · rw [hflit, List.drop_left' hhead, List.take_left' hhead]

/-! ### Groups that arrive -/

/-- R398: what a group does once the traffic of its link is counted. -/
def groupMet (l : Nat) (g : Byte) (replay crcOk : Bool) (s : State) : State :=
  let x := duestLink s l
  let waits := match x.nak with | some z => !(replay && g == z) | none => false
  if !crcOk then
    let (k, s1) := choose 8 s
    let s2 := setDuestLink l { x with crc := x.crc.add (k + 1) } s1
    if waits then s2 else groupFails l s2
  else if waits then s
  else if g == x.expect then acceptGroup l s
  else groupFails l s

theorem execDuestGroupReceive_eq {l : Nat} {g : Byte} {replay crcOk : Bool} {s : State} (h : linkRuns s l = true) :
    execDuestGroupReceive l g replay crcOk s = .next (groupMet l g replay crcOk (linkHeard l g s)) :=
  congrArg Host.Outcome.next (if_neg (by simp [h]))

theorem groupFails_asks {l : Nat} {s : State} (h : (duestLink s l).times.get 0 (duestLink s l).expect.toNat < 16) :
    groupFails l s = duestReply l true (duestLink s l).expect (setDuestLink l { duestLink s l with nak := some (duestLink s l).expect } s) :=
  if_neg (Nat.not_le.mpr h)

theorem groupMet_ok {l : Nat} {g : Byte} {replay : Bool} {s : State} (hnak : ∀ z, (duestLink s l).nak = some z → replay = true ∧ g = z)
    (hg : g = (duestLink s l).expect) : groupMet l g replay true s = acceptGroup l s := by
  unfold groupMet
  dsimp only
  cases hz : (duestLink s l).nak with
  | none => simp [← hg]
  | some z =>
    obtain ⟨hr, hgz⟩ := hnak z hz
    simp [hr, ← hgz, ← hg]

theorem groupMet_unexpected {l : Nat} {g : Byte} {replay : Bool} {s : State} (hnak : (duestLink s l).nak = none) (hg : g ≠ (duestLink s l).expect) :
    groupMet l g replay true s = groupFails l s := by
  simp [groupMet, hnak, hg]

theorem groupMet_waits {l : Nat} {g z : Byte} {replay : Bool} {s : State} (hnak : (duestLink s l).nak = some z) (hz : replay = false ∨ g ≠ z) :
    groupMet l g replay true s = s := by
  have hwaits : (!(replay && g == z)) = true := by
    obtain h | h := hz <;> simp [h]
  simp [groupMet, hnak, hwaits]

/-- R398: a group whose CRC fails is asked for again. -/
theorem groupMet_bad {l : Nat} {g : Byte} {replay : Bool} {u : State} (hnak : (duestLink u l).nak = none)
    (htimes : (duestLink u l).times.get 0 (duestLink u l).expect.toNat < 16) :
    ∃ k bs d c, 1 ≤ k ∧ k ≤ 8 ∧ bs[0]? = some (duestLink u l).expect ∧
      groupMet l g replay false u = { u with duest := d, out := u.out ++ [.duestFlit l bs], freeCtr := c } ∧
      duestLink (groupMet l g replay false u) l = { duestLink u l with crc := (duestLink u l).crc.add k, nak := some (duestLink u l).expect } ∧
      ∀ m, m ≠ l → duestLink (groupMet l g replay false u) m = duestLink u m := by
  obtain ⟨k, c, hk, hlt⟩ := choose_spec 8 u
  have hmet : groupMet l g replay false u =
      groupFails l (setDuestLink l { duestLink u l with crc := (duestLink u l).crc.add (k + 1) } { u with freeCtr := c }) := by
    simp only [groupMet, hk, hnak, Bool.not_false, if_true, Bool.false_eq_true, if_false]
  generalize hv : setDuestLink l { duestLink u l with crc := (duestLink u l).crc.add (k + 1) } { u with freeCtr := c } = v at hmet
  have hlink : duestLink v l = { duestLink u l with crc := (duestLink u l).crc.add (k + 1) } := by
    rw [← hv]
    exact duestLink_setDuestLink_same ..
  have hother (m : Nat) (hm : m ≠ l) : duestLink v m = duestLink u m := by
    rw [← hv]
    exact duestLink_setDuestLink_other _ _ hm
  have hkept : v = { u with duest := v.duest, freeCtr := c } := by
    rw [← hv]
    rfl
  obtain ⟨bs, hbs, -, hhead, -⟩ := duestReply_flit l true (duestLink u l).expect (setDuestLink l { duestLink v l with nak := some (duestLink u l).expect } v)
  have hexp : (duestLink v l).expect = (duestLink u l).expect := by rw [hlink]
  have hfails := groupFails_asks (l := l) (s := v) (by rw [hlink]; exact htimes)
  rw [hexp, hbs] at hfails
  rw [hmet, hfails]
  refine ⟨k + 1, bs, _, _, by omega, by omega, hhead, by rw [hkept]; rfl, (duestLink_setDuestLink_same ..).trans (by rw [hlink]), fun m hm => ?_⟩
  exact (duestLink_setDuestLink_other _ _ hm).trans (hother m hm)

theorem acceptGroup_link (l : Nat) (s : State) :
    duestLink (acceptGroup l s) l = { duestLink s l with expect := (duestLink s l).expect + 1, nak := none,
                                                         times := (duestLink s l).times.put 0 (duestLink s l).expect.toNat 0,
                                                         ackSent := if (duestLink s l).ackSent + 20 ≤ s.clk then s.clk else (duestLink s l).ackSent } ∧
      ∀ m, m ≠ l → duestLink (acceptGroup l s) m = duestLink s m := by
  unfold acceptGroup
  dsimp only
  split
  · exact ⟨duestLink_setDuestLink_same .., fun m hm => duestLink_setDuestLink_other _ _ hm⟩
  · exact ⟨duestLink_setDuestLink_same .., fun m hm => duestLink_setDuestLink_other _ _ hm⟩

/-! ### Replay -/

theorem emitGroups_spec (l : Nat) (f : Byte → State → List (List Byte)) (gs : List Byte) (s : State) :
    ∃ os c, gs.foldl (fun s k => emit (.duestGroup l (f k s)) { s with freeCtr := s.freeCtr + 1 }) s = { s with out := s.out ++ os, freeCtr := c } ∧
      os.length = gs.length := by
  induction gs generalizing s with
  | nil => exact ⟨[], s.freeCtr, by rw [List.append_nil]; rfl, rfl⟩
  | cons k gs ih =>
    obtain ⟨os, c, heq, hlen⟩ := ih (emit (.duestGroup l (f k s)) { s with freeCtr := s.freeCtr + 1 })
    refine ⟨.duestGroup l (f k s) :: os, c, ?_, by rw [List.length_cons, hlen, List.length_cons]⟩
    rw [List.foldl_cons, heq]
    simp only [emit, List.append_assoc, List.singleton_append]

theorem get_foldl_upd_of_ne {t : Tab Nat} {k : Nat} (l : List Byte) (h : ∀ b ∈ l, b.toNat ≠ k) :
    Tab.get 0 (l.foldl (fun t b => t.upd 0 b.toNat (· + 1)) t) k = Tab.get 0 t k := by
  induction l generalizing t with
  | nil => rfl
  | cons b l ih =>
    rw [List.foldl_cons, ih fun c hc => h c (List.mem_cons_of_mem _ hc)]
    exact Tab.get_put_other _ (Ne.symm (h b (List.mem_cons_self ..)))

/-- The groups from g on, n of them. -/
def groupsFrom (g : Byte) (n : Nat) : List Byte := (List.range n).map fun i => g + BitVec.ofNat 8 i

theorem get_groupsFrom {t : Tab Nat} {g : Byte} {n : Nat} (hpos : 1 ≤ n) (hle : n ≤ 64) :
    Tab.get 0 ((groupsFrom g n).foldl (fun t b => t.upd 0 b.toNat (· + 1)) t) g.toNat = Tab.get 0 t g.toNat + 1 := by
  obtain ⟨m, rfl⟩ := Nat.exists_eq_add_of_le' hpos
  rw [groupsFrom, List.range_succ_eq_map, List.map_cons, List.foldl_cons, get_foldl_upd_of_ne]
  · rw [show g + BitVec.ofNat 8 0 = g from BitVec.add_zero g]
    exact Tab.get_put_same _
  · intro b hb
    simp only [List.mem_map, List.mem_range] at hb
    obtain ⟨i, ⟨k, hk, rfl⟩, rfl⟩ := hb
    rw [BitVec.toNat_add, BitVec.toNat_ofNat]
    omega

theorem replayGroups_spec {l : Nat} {g : Byte} {s : State} (h : (duestLink s l).times.get 0 g.toNat < 16) :
    ∃ os c, replayGroups l g s = { setDuestLink l { duestLink s l with
        replay := (duestLink s l).replay.add ((duestLink s l).kept - groupsTo (duestLink s l).oldest g),
        times := (groupsFrom g ((duestLink s l).kept - groupsTo (duestLink s l).oldest g)).foldl (fun t b => t.upd 0 b.toNat (· + 1)) (duestLink s l).times } s with
          out := s.out ++ os, freeCtr := c } ∧ os.length = (duestLink s l).kept - groupsTo (duestLink s l).oldest g ∧
      (duestLink (replayGroups l g s) l).replay = (duestLink s l).replay.add ((duestLink s l).kept - groupsTo (duestLink s l).oldest g) ∧
      (duestLink (replayGroups l g s) l).times =
        (groupsFrom g ((duestLink s l).kept - groupsTo (duestLink s l).oldest g)).foldl (fun t b => t.upd 0 b.toNat (· + 1)) (duestLink s l).times ∧
      ∀ m, m ≠ l → duestLink (replayGroups l g s) m = duestLink s m := by
  have hlen : (groupsFrom g ((duestLink s l).kept - groupsTo (duestLink s l).oldest g)).length = (duestLink s l).kept - groupsTo (duestLink s l).oldest g := by
    rw [groupsFrom, List.length_map, List.length_range]
  unfold replayGroups
  dsimp only
  rw [if_neg (Nat.not_le.mpr h)]
  obtain ⟨os, c, heq, hos⟩ := emitGroups_spec l
    (fun k s => duestGroup k true fun i => (List.range 256).map fun j => BitVec.ofNat 8 (Config.freeAt s.freeCtr (256 * i + j)))
    (groupsFrom g ((duestLink s l).kept - groupsTo (duestLink s l).oldest g)) (setDuestLink l { duestLink s l with
        replay := (duestLink s l).replay.add (groupsFrom g ((duestLink s l).kept - groupsTo (duestLink s l).oldest g)).length,
        times := (groupsFrom g ((duestLink s l).kept - groupsTo (duestLink s l).oldest g)).foldl (fun t b => t.upd 0 b.toNat (· + 1)) (duestLink s l).times } s)
  have hlink := duestLink_setDuestLink_same l { duestLink s l with
        replay := (duestLink s l).replay.add (groupsFrom g ((duestLink s l).kept - groupsTo (duestLink s l).oldest g)).length,
        times := (groupsFrom g ((duestLink s l).kept - groupsTo (duestLink s l).oldest g)).foldl (fun t b => t.upd 0 b.toNat (· + 1)) (duestLink s l).times } s
  refine ⟨os, c, heq.trans (by rw [hlen]; rfl), hos.trans hlen, ?_, ?_, fun m hm => ?_⟩
  · exact (congrArg (fun u => (duestLink u l).replay) heq).trans ((congrArg DuestLink.replay hlink).trans (by rw [hlen]))
  · exact (congrArg (fun u => (duestLink u l).times) heq).trans (congrArg DuestLink.times hlink)
  · exact (congrArg (duestLink · m) heq).trans (duestLink_setDuestLink_other _ _ hm)

/-! ### Fencing in Full service -/

theorem jobFault_ms_full {cause : Nat} {s : State} (h : s.ms.mode = .full) :
    (jobFault cause s).ms = { s.ms with mode := .fenced, prev := .full, cause := cause, entered := s.clk, trans := .none } := by
  simp only [jobFault, h]
  rw [ms_of_outside (fenceDescs_outside (by simp) ..), setMode_ms, h]

theorem jobFault_ms_fenced {cause : Nat} {s : State} (h : s.ms.mode = .fenced) (hclk : s.ms.entered = s.clk) :
    (jobFault cause s).ms = { s.ms with cause := joinCause s.ms.cause cause } := by
  simp only [jobFault, h, joinFault, hclk, if_true]

/-- The state of a module that a ledger fault fenced from Full service at this instant. -/
def faultedMs (s : State) : ModState := { s.ms with mode := .fenced, prev := .full, cause := causeLedgerFault, entered := s.clk, trans := .none }

/-- What moving the tokens of a lost die to RECLAIMED leaves of a module in Full service: its state, unless the parity of a ledger fails. -/
structure Reclaimed (s0 u : State) : Prop where
  clk : u.clk = s0.clk
  ms : u.ms = s0.ms ∨ (∃ d < 8, (lgDom s0 d).parityBad = true) ∧ u.ms = faultedMs s0
  parity : ∀ d, (lgDom u d).parityBad = true → (lgDom s0 d).parityBad = true

theorem Reclaimed.refl (s : State) : Reclaimed s s := ⟨rfl, .inl rfl, fun _ h => h⟩

theorem ms_ledgerFault (d kind holder : Nat) (s : State) :
    ∃ u, (ledgerFault d kind holder none s).ms = (jobFault causeLedgerFault u).ms ∧ u.ms = s.ms ∧ u.clk = s.clk := ⟨_, rfl, rfl, rfl⟩

theorem reclaimed_parityCheck {s0 u : State} (hfull : s0.ms.mode = .full) (h : Reclaimed s0 u) {d : Nat} (hd : d < 8) : Reclaimed s0 (parityCheck d u) := by
  obtain ⟨hclk, hms, hparity⟩ := h
  unfold parityCheck
  dsimp only
  split
  · next hbad =>
    obtain ⟨v, hv, hvms, hvclk⟩ := ms_ledgerFault d kParity 0xFFFF (setLgDom d { lgDom u d with parityBad := false } u)
    have hvms' : v.ms = u.ms := hvms
    have hvclk' : v.clk = s0.clk := hvclk.trans hclk
    refine ⟨(clk_of_outside (ledgerFault_outside (by simp) ..)).trans hclk, .inr ⟨⟨d, hd, hparity d hbad⟩, ?_⟩, fun e he => ?_⟩
    · rw [hv]
      obtain hms | ⟨-, hms⟩ := hms
      · rw [jobFault_ms_full (by rw [hvms', hms, hfull]), hvms', hvclk', hms]
        rfl
      · rw [jobFault_ms_fenced (by rw [hvms', hms]; rfl) (by rw [hvms', hms, hvclk']; rfl), hvms', hms]
        rfl
    · rw [lgDom_ledgerFault] at he
      by_cases hed : e = d
      · rw [hed, lgDom_setLgDom_same] at he
        cases he
      · rw [lgDom_setLgDom_other _ _ hed] at he
        exact hparity e he
  · exact ⟨hclk, hms, hparity⟩

theorem reclaimed_updLgDom {s0 u : State} (hfull : s0.ms.mode = .full) (h : Reclaimed s0 u) {d : Nat} (hd : d < 8) {f : LgDom → LgDom}
    (hf : ∀ x, (f x).parityBad = x.parityBad) : Reclaimed s0 (updLgDom d f u) := by
  obtain ⟨hclk, hms, hparity⟩ := reclaimed_parityCheck hfull h hd
  refine ⟨hclk, hms, fun e he => hparity e ?_⟩
  rw [updLgDom] at he
  by_cases hed : e = d
  · rw [hed, lgDom_setLgDom_same, hf] at he
    rwa [hed]
  · rwa [lgDom_setLgDom_other _ _ hed] at he

theorem parityBad_reclaim (die : Nat) (hs : List Nat) (withLent mark : Bool) (x : LgDom) : (x.reclaim die hs withLent mark).parityBad = x.parityBad := by
  unfold LgDom.reclaim
  exact List.foldlRecOn (motive := fun y : LgDom => y.parityBad = x.parityBad) hs _ rfl fun y hy h _ => hy

theorem reclaimed_reclaimDie {s0 u : State} (hfull : s0.ms.mode = .full) (h : Reclaimed s0 u) (n : Nat) : Reclaimed s0 (reclaimDie n u) := by
  unfold reclaimDie
  refine reclaimed_updLgDom hfull ?_ (by decide) fun x => parityBad_reclaim ..
  refine List.foldlRecOn (motive := Reclaimed s0) _ _ ?_ fun v hv l _ => reclaimed_updLgDom (d := dBarrier) hfull hv (by decide) fun _ => rfl
  refine List.foldlRecOn (motive := Reclaimed s0) _ _ ?_ fun v hv c _ => ?_
  · refine reclaimed_updLgDom hfull ?_ (by decide) fun x => parityBad_reclaim ..
    refine reclaimed_updLgDom hfull ?_ (by decide) fun x => parityBad_reclaim ..
    exact reclaimed_updLgDom hfull h (by decide) fun x => parityBad_reclaim ..
  · obtain ⟨hclk, hms, hparity⟩ := hv
    unfold reclaimBlocks
    refine reclaimed_updLgDom (d := dBlock) hfull ?_ (by decide) ?_
    · exact ⟨hclk, hms, hparity⟩
    · exact fun _ => rfl

theorem fenceState_ms {s0 u : State} (hfull : s0.ms.mode = .full) (h : Reclaimed s0 u) (cause : Nat) :
    (fenceState cause u).ms = { s0.ms with mode := .fenced, prev := .full, entered := s0.clk, trans := .none,
                                           cause := if u.ms = s0.ms then cause else joinCause causeLedgerFault cause } := by
  obtain ⟨hclk, hms, -⟩ := h
  by_cases hsame : u.ms = s0.ms
  · rw [if_pos hsame]
    have hmode : u.ms.mode = .full := by rw [hsame, hfull]
    simp only [fenceState, hmode]
    rw [jobFault_ms_full hmode, hsame, hclk]
  · rw [if_neg hsame]
    obtain ⟨-, hms⟩ := hms.resolve_left hsame
    have hmode : u.ms.mode = .fenced := by rw [hms]; rfl
    have htrans : u.ms.trans = .none := by rw [hms]; rfl
    have hjoin : (joinFault cause u).ms = { s0.ms with mode := .fenced, prev := .full, entered := s0.clk, trans := .none, cause := joinCause causeLedgerFault cause } := by
      rw [joinFault, if_pos (by rw [hms, hclk]; rfl), hms]
      rfl
    simp only [fenceState, hmode, htrans]
    rw [ms_of_outside (fenceDescs_outside (by simp) ..)]
    split
    · rw [ms_of_outside (sendFault_outside (by simp) ..), hjoin]
    · exact hjoin

/-- R406: the module with dies marked as fenced, and their clocks stopped. -/
def diesMarked (ns : List Nat) (s : State) : State :=
  { s with ms := { s.ms with dieFenced := s.ms.dieFenced ||| BitVec.ofNat 4 (ns.map fun n => 2 ^ n).sum },
           ft := { s.ft with still := ns.foldl (fun t n => t.put 0 n (dieTime s n)) s.ft.still } }

/-- R406: the module once what lost each die is noted. -/
def lossesNoted (ns : List Nat) (why : Nat → Nat × Nat) (s : State) : State :=
  ns.foldl (fun s n => setDieLoss n { dieLoss s n with cause := (why n).1, link := (why n).2, tick := s.ft.ft } s) s

theorem lossesNoted_eq (ns : List Nat) (why : Nat → Nat × Nat) (s : State) : lossesNoted ns why s = { s with duest := (lossesNoted ns why s).duest } := by
  refine List.foldlRecOn (motive := fun u : State => u = { s with duest := u.duest }) ns _ rfl fun u hu n _ => ?_
  rw [hu]
  rfl

theorem duestLink_lossesNoted (ns : List Nat) (why : Nat → Nat × Nat) (s : State) (l : Nat) : duestLink (lossesNoted ns why s) l = duestLink s l :=
  List.foldlRecOn (motive := fun u : State => duestLink u l = duestLink s l) ns _ rfl fun _ hu _ _ => hu

theorem dieLoss_setDieLoss_self (n : Nat) (x : DieLoss) (s : State) : dieLoss (setDieLoss n x s) n = x := Tab.get_put_same _

theorem dieLoss_setDieLoss_of_ne {m n : Nat} (h : n ≠ m) {x : DieLoss} {s : State} : dieLoss (setDieLoss m x s) n = dieLoss s n := Tab.get_put_other _ h

theorem dieLoss_lossesNoted_of_not_mem {ns : List Nat} {n : Nat} (h : n ∉ ns) (why : Nat → Nat × Nat) (s : State) :
    dieLoss (lossesNoted ns why s) n = dieLoss s n :=
  List.foldlRecOn (motive := fun u : State => dieLoss u n = dieLoss s n) ns _ rfl fun u hu m hm =>
    (dieLoss_setDieLoss_of_ne (n := n) (m := m) fun heq => h (heq ▸ hm)).trans hu

theorem dieLoss_lossesNoted {ns : List Nat} {n : Nat} (h : n ∈ ns) (why : Nat → Nat × Nat) (s : State) :
    dieLoss (lossesNoted ns why s) n = { dieLoss s n with cause := (why n).1, link := (why n).2, tick := s.ft.ft } := by
  induction ns generalizing s with
  | nil => cases h
  | cons m ns ih =>
    have hcons : lossesNoted (m :: ns) why s =
        lossesNoted ns why (setDieLoss m { dieLoss s m with cause := (why m).1, link := (why m).2, tick := s.ft.ft } s) := rfl
    rw [hcons]
    by_cases hn : n ∈ ns
    · rw [ih hn]
      by_cases hm : n = m
      · subst hm
        rw [dieLoss_setDieLoss_self] <;> rfl
      · rw [dieLoss_setDieLoss_of_ne hm] <;> rfl
    · obtain rfl := (List.mem_cons.mp h).resolve_right hn
      rw [dieLoss_lossesNoted_of_not_mem hn, dieLoss_setDieLoss_self]

/-- R406, R407: what the loss of dies in Full service leaves of the module's state, of what it knows of its dies and of its time. -/
theorem fenceDies_full {ns : List Nat} {cause : Nat} {why : Nat → Nat × Nat} {s : State} (hfull : s.ms.mode = .full) (hne : ns ≠ [])
    (hns : ∀ n ∈ ns, n < dieCount s ∧ isFenced s n = false) :
    (∃ c, (c = cause ∨ (∃ d < 8, (lgDom s d).parityBad = true) ∧ c = joinCause causeLedgerFault cause) ∧
      (fenceDies ns cause why s).ms = { (diesMarked ns s).ms with mode := .fenced, prev := .full, entered := s.clk, trans := .none, cause := c }) ∧
      (fenceDies ns cause why s).duest = (lossesNoted ns why (diesMarked ns s)).duest ∧ (fenceDies ns cause why s).ft = (diesMarked ns s).ft := by
  have hfilter : (ns.filter fun n => decide (n < dieCount s) && !isFenced s n) = ns :=
    List.filter_eq_self.mpr fun n hn => by
      obtain ⟨hlt, hf⟩ := hns n hn
      simp [hlt, hf]
  let s1 := diesMarked ns s
  let s2 := lossesNoted ns why s1
  let s3 := ns.foldl (fun s n => reclaimDie n s) s2
  let halted := ns.foldl (fun s n => setPwrDie n { pwrDie s n with walking := false, goal := (pwrDie s n).mhz } s) (fenceLines (fenceState cause s3))
  have heq : fenceDies ns cause why s = ns.foldl (fun s n => fenceStreams n s) (settleOpSets (retarget (clearShares halted))) := by
    unfold fenceDies
    rw [hfilter]
    exact if_neg (by simp [hne])
  have hrest : outside [.streams, .out, .pwr, .descs] (fenceDies ns cause why s) = outside [.streams, .out, .pwr, .descs] (fenceState cause s3) := by
    rw [heq, outside_foldl _ fun u n => fenceStreams_outside (by simp) .., settleOpSets_outside (by simp), retarget_outside (by simp),
      clearShares_outside (by simp), outside_foldl _ fun u n => setPwrDie_outside (by simp) .., fenceLines_outside (by simp)]
  have hs2 : Reclaimed s1 s2 := by
    have h : s2 = { s1 with duest := s2.duest } := lossesNoted_eq ..
    rw [h]
    exact ⟨rfl, .inl rfl, fun _ h => h⟩
  have hs3 : Reclaimed s1 s3 := List.foldlRecOn (motive := Reclaimed s1) ns _ hs2 fun u hu n _ => reclaimed_reclaimDie (s0 := s1) hfull hu n
  have houter : outside [.ms, .host, .link, .yoke, .lg, .descs, .out] s3 = outside [.ms, .host, .link, .yoke, .lg, .descs, .out] s2 :=
    outside_foldl _ (fun u n => reclaimDie_outside (by simp) ..) ns s2
  refine ⟨?_, ?_, ?_⟩
  · refine ⟨if s3.ms = s1.ms then cause else joinCause causeLedgerFault cause, ?_, (ms_of_outside (outside_mono (by simp) hrest)).trans (fenceState_ms (s0 := s1) hfull hs3 cause)⟩
    by_cases hsame : s3.ms = s1.ms
    · exact .inl (if_pos hsame)
    · obtain ⟨hbad, -⟩ := hs3.ms.resolve_left hsame
      exact .inr ⟨hbad, if_neg hsame⟩
  · exact (duest_of_outside (outside_mono (by simp) hrest)).trans
      ((duest_of_outside (fenceState_outside (by simp) ..)).trans (duest_of_outside (outside_mono (by simp) houter)))
  · have h2 : s2.ft = s1.ft := (congrArg State.ft (lossesNoted_eq ns why s1)).trans rfl
    exact (ft_of_outside (outside_mono (by simp) hrest)).trans
      ((ft_of_outside (fenceState_outside (by simp) ..)).trans ((ft_of_outside (outside_mono (by simp) houter)).trans h2))

theorem dieCount_le (s : State) : dieCount s ≤ 4 := by
  rw [dieCount]
  split <;> decide

theorem not_fenced_of_dieRuns {s : State} {n : Nat} (h : dieRuns s n = true) : isFenced s n = false := by
  simp only [dieRuns, Bool.and_eq_true, Bool.not_eq_true'] at h
  exact h.1

/-- R405: a sideband that stays bad for 1 µs is a permanent fault of the link to its die. -/
theorem execSidebandFault_eq {n c : Nat} {s : State} (hn : n < dieCount s) (hruns : dieRuns s n = true) (hbad : (dieLoss s n).badSince = some c)
    (hlate : c + 1000 ≤ s.clk) :
    execSidebandFault (6 + n) s = .next (fenceDies [n] causeDuestPermanent (fun _ => (3, 6 + n))
      (setDuestLink (6 + n) { duestLink s (6 + n) with permanent := true } s)) := by
  have hcount := dieCount_le s
  have hends : linkEnds (6 + n) = [n] := by
    rw [show 6 + n = n + 6 from Nat.add_comm ..]
    rfl
  have hjust : justFenced (setDuestLink (6 + n) { duestLink s (6 + n) with permanent := true } s) n = false := by
    rw [justFenced, show isFenced (setDuestLink (6 + n) _ s) n = false from not_fenced_of_dieRuns hruns, Bool.false_and, Bool.false_and]
  have hpresent : linkPresent s (6 + n) = true := by
    rw [linkPresent, hends]
    simp [hn]
    omega
  have hfails : sidebandFails s n = true := by
    rw [sidebandFails, hbad]
    exact decide_eq_true hlate
  have hfault : permanentFault (6 + n) s = fenceDies [n] causeDuestPermanent (fun _ => (3, 6 + n))
      (setDuestLink (6 + n) { duestLink s (6 + n) with permanent := true } s) := by
    simp only [permanentFault, hends, List.filter_cons, hjust, List.filter_nil, faultDie, Nat.le_add_right, if_true, Nat.add_sub_cancel_left]
    rfl
  rw [← hfault]
  exact congrArg Host.Outcome.next (if_pos (by simp [hpresent, hruns, hfails]))

/-- A group that lies behind i acknowledged ones is i groups nearer to the oldest. -/
theorem groupsTo_add {a b : Byte} {i : Nat} (h : i ≤ groupsTo a b) : groupsTo (a + BitVec.ofNat 8 i) b = groupsTo a b - i := by
  simp only [groupsTo, BitVec.toNat_sub, BitVec.toNat_add, BitVec.toNat_ofNat] at h ⊢
  have := a.isLt
  have := b.isLt
  omega

/-- Settles O50: by the group that a link expects, the state of its last request, and the trials of each group. -/
theorem duestLinksComplete : Obligations.DuestLinksComplete := by
  refine ⟨fun l g replay s hruns hnak hg => ⟨_, execDuestGroupReceive_eq hruns, ?_⟩,
    fun l g replay s hruns hnak hg htimes => ?_,
    fun l g replay z s hruns hnak hz => ⟨_, execDuestGroupReceive_eq hruns, ?_⟩,
    fun l g replay s hruns hnak htimes => ?_,
    fun l g s hruns hg hdepth hkept htimes => ?_, fun l g s hruns hg htimes => ?_, fun l s hruns hlate => ?_, fun l s hearly => ?_,
    fun n w hb ok s hruns => ?_, fun n w hb ok s hruns => ?_, ?_, fun n s hgood => ?_, fun l nak g s => duestReply_flit l nak g s⟩
  · obtain ⟨i, hexp, hnak', -⟩ := linkHeard_link l g s
    obtain ⟨hlink, hother⟩ := acceptGroup_link l (linkHeard l g s)
    rw [groupMet_ok (by rw [hnak']; exact hnak) (by rw [hexp]; exact hg), hlink]
    refine ⟨rfl, by rw [hexp, hg], rfl, ?_, fun m hm => (hother m hm).trans (duestLink_linkTraffic_other hm ..)⟩
    rw [hexp, hg]
    show Tab.get 0 (Tab.put 0 (duestLink (linkHeard l (duestLink s l).expect s) l).times _ 0) _ = 0
    exact Tab.get_put_same _
  · intro s1
    refine ⟨_, execDuestGroupReceive_eq hruns, ?_⟩
    obtain ⟨i, hexp, hnak', -, -, -, -, -, -, -, htimes'⟩ := linkHeard_link l g s
    rw [groupMet_unexpected (by rw [hnak', hnak]) (by rw [hexp]; exact hg), groupFails_asks (by rw [hexp, htimes']; exact htimes), hexp]
  · obtain ⟨i, -, hnak', -⟩ := linkHeard_link l g s
    exact groupMet_waits (hnak'.trans hnak) hz
  · intro s1
    obtain ⟨i, hexp, hnak', hcrc, -, -, -, -, -, -, htimes'⟩ := linkHeard_link l g s
    obtain ⟨k, bs, d, c, hlow, hhigh, hhead, heq, hlink, hother⟩ := groupMet_bad (g := g) (replay := replay) (u := s1) (hnak'.trans hnak)
      (by rw [hexp, htimes']; exact htimes)
    have hkept : s1 = { s with duest := s1.duest, freeCtr := s1.freeCtr } := linkTraffic_eq ..
    refine ⟨_, execDuestGroupReceive_eq hruns, k, hlow, hhigh, ?_, ⟨bs, hhead.trans (congrArg some hexp), ?_⟩, ?_, fun m hm => ?_⟩
    · rw [heq, hkept]
    · rw [heq, hkept]
    · rw [hlink, hcrc, hexp]
    · rw [hother m hm]
      exact duestLink_linkTraffic_other hm ..
  · obtain ⟨i, hexp, -, -, hrep, hi, -, hold, hlow, hhigh, htimes'⟩ := linkHeard_link l g s
    have hkeep := hhigh hkept
    rw [← hg] at hi htimes'
    have hback : groupsTo (duestLink (linkHeard l g s) l).oldest g = groupsTo (duestLink s l).oldest g - i := by
      rw [hold]
      exact groupsTo_add hi
    obtain ⟨os, c, heq, hlen, hreplay, htrials, hother⟩ := replayGroups_spec (l := l) (g := g) (s := linkHeard l g s) (by rw [htimes']; exact htimes)
    have hsame : linkHeard l g s = { s with duest := (linkHeard l g s).duest, freeCtr := (linkHeard l g s).freeCtr } := linkTraffic_eq ..
    have hn : 1 ≤ (duestLink (linkHeard l g s) l).kept - groupsTo (duestLink (linkHeard l g s) l).oldest g := by omega
    have hn' : (duestLink (linkHeard l g s) l).kept - groupsTo (duestLink (linkHeard l g s) l).oldest g ≤ retryDepth s l := by omega
    have hdepth64 : retryDepth s l ≤ 64 := by unfold retryDepth; split <;> decide
    refine ⟨_, congrArg Host.Outcome.next (if_pos hruns), rfl, (duestLink (linkHeard l g s) l).kept - groupsTo (duestLink (linkHeard l g s) l).oldest g,
      hn, hn', ?_, ?_, hreplay.trans (by rw [hrep]), ?_, fun m hm => (hother m hm).trans (duestLink_linkTraffic_other hm ..)⟩
    · rw [show linkTraffic l true (groupsTo (duestLink s l).oldest g + 1) s = linkHeard l g s from rfl, heq, hsame] <;> rfl
    · have hout : (linkHeard l g s).out = s.out := by rw [hsame]
      rw [show linkTraffic l true (groupsTo (duestLink s l).oldest g + 1) s = linkHeard l g s from rfl, heq, ← hlen, ← List.length_append, ← hout]
    · rw [← htimes', ← get_groupsFrom hn (hn'.trans hdepth64)]
      exact congrArg (Tab.get 0 · g.toNat) htrials
  · obtain ⟨i, -, -, -, -, -, -, -, -, -, htimes'⟩ := linkHeard_link l g s
    refine ⟨_, congrArg Host.Outcome.next (if_pos hruns), ?_⟩
    rw [← hg] at htimes'
    exact if_pos (by rw [htimes']; exact htimes)
  · intro s1
    obtain ⟨i, j, c, ht, hi, -⟩ := linkTraffic_spec l false 1 s
    obtain rfl : i = 0 := Nat.le_zero.mp hi
    have hlink : duestLink s1 l = trafficLink l 0 j 1 s := by
      rw [show s1 = _ from ht]
      exact duestLink_setDuestLink_same ..
    have hold : (duestLink s1 l).oldest = (duestLink s l).oldest := by
      rw [hlink]
      exact BitVec.add_zero _
    refine ⟨_, congrArg Host.Outcome.next (if_pos (by simp [hruns, hlate])), congrArg (replayGroups l · s1) hold, hold, ?_⟩
    · rw [hlink]
      have hdepth : 1 ≤ retryDepth s l := by unfold retryDepth; split <;> decide
      show 1 ≤ max _ _
      omega
  · exact ⟨_, congrArg Host.Outcome.next (if_neg (by simp [hearly])), rfl⟩
  · refine ⟨_, congrArg Host.Outcome.next (if_neg (by simp [hruns])), ?_⟩
    simp
  · exact ⟨_, congrArg Host.Outcome.next (if_neg (by simp [hruns])), rfl⟩
  · intro n c s hn hruns hfull hbad hlate hparity
    refine ⟨_, execSidebandFault_eq hn hruns hbad hlate, ?_⟩
    obtain ⟨⟨k, hk, hms⟩, hduest, hft⟩ := fenceDies_full (ns := [n]) (cause := causeDuestPermanent) (why := fun _ => (3, 6 + n))
      (s := setDuestLink (6 + n) { duestLink s (6 + n) with permanent := true } s) hfull (by simp)
      (by simpa using ⟨hn, not_fenced_of_dieRuns hruns⟩)
    have hcause : k = causeDuestPermanent := hk.resolve_right fun ⟨⟨d, hd, hdbad⟩, _⟩ => by
      have hgood : (lgDom s d).parityBad = true := hdbad
      rw [hparity d hd] at hgood
      cases hgood
    have hloss : dieLoss (fenceDies [n] causeDuestPermanent (fun _ => (3, 6 + n)) (setDuestLink (6 + n) { duestLink s (6 + n) with permanent := true } s)) n =
        { dieLoss s n with cause := 3, link := 6 + n, tick := s.ft.ft } := by
      rw [dieLoss, hduest]
      exact dieLoss_lossesNoted (List.mem_singleton_self n) _ _
    have hperm : (duestLink (fenceDies [n] causeDuestPermanent (fun _ => (3, 6 + n)) (setDuestLink (6 + n) { duestLink s (6 + n) with permanent := true } s)) (6 + n)).permanent = true := by
      rw [duestLink, hduest, ← duestLink, duestLink_lossesNoted]
      exact congrArg DuestLink.permanent (duestLink_setDuestLink_same ..)
    rw [hms, hloss, hperm, mem_of_outside (fenceDies_outside (by simp) ..), hcause]
    exact ⟨rfl, rfl, by simp [diesMarked, setDuestLink, setDuest], rfl, rfl, rfl, rfl, rfl⟩
  · refine ⟨_, congrArg Host.Outcome.next (if_neg fun ⟨_, _, _, hfails⟩ => ?_), rfl⟩
    rw [Nat.add_sub_cancel_left] at hfails
    obtain ⟨c, hc, hlate⟩ := (Option.any_eq_true ..).mp hfails
    exact absurd (of_decide_eq_true hlate) (Nat.not_le.mpr (hgood c hc))

end Sys2Proof.Machine
end

section
/-! PROOFS. What no fault, no log entry, no store and no packet that arrives changes of the epoch, the partner and the fenced dies. -/

namespace Sys2Proof.Machine

/-- The fenced dies, the state of the partner, and of the epoch that streams: whether it does, its pages, and the sealed one. -/
def steady (s : State) : BitVec 4 × Nat × Bool × Tab EmberPage × Word :=
  (s.ms.dieFenced, s.yoke.partner, s.ember.streaming, s.ember.pages, s.ember.sealedEpoch)

/-- The part of the state that holds these. -/
abbrev epochPart (s : State) : State := outside (allBut [.ms, .ember, .yoke]) s

theorem steady_epochPart (s : State) : steady (epochPart s) = steady s := rfl

@[simp] theorem steady_ite (p : Prop) [Decidable p] (s t : State) : steady (if p then s else t) = if p then steady s else steady t := apply_ite ..

@[simp] theorem steady_foldl {α : Type} (f : State → α → State) (h : ∀ s a, steady (epochPart (f s a)) = steady (epochPart s)) (l : List α) (s : State) :
    steady (epochPart (l.foldl f s)) = steady (epochPart s) :=
  List.foldlRecOn (motive := fun u : State => steady (epochPart u) = steady (epochPart s)) l f rfl fun u hu a _ => (h u a).trans hu

@[simp] theorem setMode_steady (m cause) (s : State) : steady (epochPart (setMode m cause s)) = steady (epochPart s) := by
  have hms := congrArg ModState.dieFenced (setMode_ms m cause s)
  have hyoke := congrArg Yoke.partner (yoke_of_outside (setMode_outside (by simp) m cause s))
  have hember := ember_of_outside (setMode_outside (by simp) m cause s)
  rw [steady_epochPart, steady_epochPart, steady, hms, hyoke, hember]
  rfl

@[simp] theorem joinFault_steady (cause) (s : State) : steady (epochPart (joinFault cause s)) = steady (epochPart s) := by
  unfold joinFault
  split <;> rfl

theorem steady_with_yoke {s : State} {y : Yoke} (h : y.partner = s.yoke.partner) : steady (epochPart { s with yoke := y }) = steady (epochPart s) := by
  rw [steady_epochPart, steady_epochPart, steady, h]
  rfl

@[simp] theorem jobFault_steady (cause) (s : State) : steady (epochPart (jobFault cause s)) = steady (epochPart s) := by
  unfold jobFault
  split
  · simp
  · split
    · rw [epochPart, raiseVector_outside (by simp), fenceDescs_outside (by simp), setMode_steady]
      rfl
    · simp
  · simp
  · rfl

@[simp] theorem awaitAck_steady (a) (s : State) : steady (epochPart (awaitAck a s)) = steady (epochPart s) := rfl

@[simp] theorem store_steady (owner adds rq xs) (s : State) : steady (epochPart (store owner adds rq xs s)) = steady (epochPart s) := by
  obtain ⟨ws, h⟩ := ember_store owner adds rq xs s
  rw [steady_epochPart, steady_epochPart, steady, ms_of_outside (store_outside (by simp) ..), yoke_of_outside (store_outside (by simp) ..), h]
  rfl

@[simp] theorem ledgerFault_steady (d kind holder r) (s : State) :
    steady (epochPart (ledgerFault d kind holder r s)) = steady (epochPart s) := by
  unfold ledgerFault
  split <;> simp

@[simp] theorem parityCheck_steady (d) (s : State) :
    steady (epochPart (parityCheck d s)) = steady (epochPart s) := by simp [parityCheck]

@[simp] theorem ledgerTake_steady (d h n) (s : State) :
    steady (epochPart (ledgerTake d h n s).2) = steady (epochPart s) := by
  simp only [ledgerTake]
  split <;> simp

@[simp] theorem enterPort_steady (p q) (s : State) :
    steady (epochPart (enterPort p q s).2) = steady (epochPart s) := by
  simp only [enterPort]
  split <;> simp

@[simp] theorem enqueue_steady (q) (s : State) :
    steady (epochPart (enqueue q s)) = steady (epochPart s) := by
  simp only [enqueue]
  split <;> simp

@[simp] theorem sendAll_steady (ps) (s : State) :
    steady (epochPart (sendAll ps s)) = steady (epochPart s) := by simp [sendAll]

@[simp] theorem ledgerMove_steady (d h n src dst r) (s : State) :
    steady (epochPart (ledgerMove d h n src dst r s).2) = steady (epochPart s) := by
  simp only [ledgerMove]
  (repeat' split) <;> simp

@[simp] theorem sendMack_steady (pos stream vc q) (s : State) :
    steady (epochPart (sendMack pos stream vc q s)) = steady (epochPart s) := by simp [sendMack]

@[simp] theorem acceptChunk_steady (c) (s : State) :
    steady (epochPart (acceptChunk c s)) = steady (epochPart s) := by simp [acceptChunk]

@[simp] theorem yokeMessage_steady (type vc stream arg0 arg1 payload) (s : State) :
    steady (epochPart (yokeMessage type vc stream arg0 arg1 payload s)) = steady (epochPart s) := by simp [yokeMessage]

@[simp] theorem yokeSend_steady (kind arg1) (s : State) :
    steady (epochPart (yokeSend kind arg1 s)) = steady (epochPart s) := by simp [yokeSend]

@[simp] theorem appendRaw_steady (bs) (s : State) : steady (epochPart (appendRaw bs s)) = steady (epochPart s) := by
  unfold appendRaw
  dsimp only
  generalize hs1 : putLog s.ember.logHead bs _ = s1
  have h1 : steady (epochPart s1) = steady (epochPart s) := by
    rw [← hs1, epochPart, putLog_outside (by simp)]
    rfl
  generalize hs2 : (if (linked s1 && s1.ms.mode != Mode.banked) = true then _ else s1) = s2
  have h2 : steady (epochPart s2) = steady (epochPart s) := by
    rw [← hs2]
    split
    · exact (steady_foldl _ (fun u x => yokeMessage_steady ..) ..).trans h1
    · exact h1
  generalize hs3 : raiseVector 72 { s2 with ember := { s2.ember with overrun := true, forfeit := true } } = s3
  have h3 : steady (epochPart s3) = steady (epochPart s) := by
    rw [← hs3, epochPart, raiseVector_outside (by simp)]
    exact h2
  split
  · split
    · exact (yokeSend_steady ..).trans h3
    · exact h3
  · exact h2

@[simp] theorem appendEntry_steady (kind payload) (s : State) : steady (epochPart (appendEntry kind payload s)) = steady (epochPart s) := by
  have hput (bs : List Byte) (u : State) :
      steady (epochPart (appendRaw bs { u with ember := { u.ember with lseq := u.ember.lseq + 1 } })) = steady (epochPart u) := appendRaw_steady bs _
  unfold appendEntry
  refine (hput ..).trans ?_
  dsimp only
  split
  · exact hput ..
  · rfl

@[simp] theorem logEvent_steady (kind payload) (s : State) :
    steady (epochPart (logEvent kind payload s)) = steady (epochPart s) := by simp [logEvent]

@[simp] theorem logChunk_steady (c off) (s : State) :
    steady (epochPart (logChunk c off s)) = steady (epochPart s) := by simp [logChunk]

@[simp] theorem takeReport_steady (x src c) (s : State) :
    steady (epochPart (takeReport x src c s)) = steady (epochPart s) := by simp [takeReport]

@[simp] theorem storePiece_steady (adds r t xs) (s : State) :
    steady (epochPart (storePiece adds r t xs s)) = steady (epochPart s) := by simp [storePiece]

@[simp] theorem storeArrived_steady (d ws) (s : State) :
    steady (epochPart (storeArrived d ws s)) = steady (epochPart s) := by simp [storeArrived]

@[simp] theorem refundCredit_steady (srcPos q reason) (s : State) :
    steady (epochPart (refundCredit srcPos q reason s)) = steady (epochPart s) := by simp [refundCredit]

@[simp] theorem undeliverable_steady (type srcPos srcSide stream mseq n reason) (s : State) :
    steady (epochPart (undeliverable type srcPos srcSide stream mseq n reason s)) = steady (epochPart s) := by simp [undeliverable]

@[simp] theorem misfit_steady (c) (s : State) :
    steady (epochPart (misfit c s)) = steady (epochPart s) := by
  unfold misfit
  split <;> simp

@[simp] theorem memUncorrectable_steady (r t a p source symbols) (s : State) :
    steady (epochPart (memUncorrectable r t a p source symbols s)) = steady (epochPart s) := by
  unfold memUncorrectable
  split <;> simp

@[simp] theorem useTokens_steady (d most draw hs) (s : State) :
    steady (epochPart (useTokens d most draw hs s)) = steady (epochPart s) := by simp [useTokens]

@[simp] theorem countHearth_steady (draw rate whole segs) (s : State) :
    steady (epochPart (countHearth draw rate whole segs s)) = steady (epochPart s) := by simp [countHearth]

@[simp] theorem reducePiece_steady (d a data ws) (s : State) :
    steady (epochPart (reducePiece d a data ws s)) = steady (epochPart s) := by
  unfold reducePiece
  split <;> simp

@[simp] theorem sendChunk_steady (slot inst op vc dst block phase i n data) (s : State) :
    steady (epochPart (sendChunk slot inst op vc dst block phase i n data s)) = steady (epochPart s) := by
  simp only [sendChunk]
  (repeat' split) <;> simp

@[simp] theorem sendPiece_steady (d x ps rank phase b i) (s : State) :
    steady (epochPart (sendPiece d x ps rank phase b i s)) = steady (epochPart s) := by
  simp only [sendPiece]
  split <;> simp

@[simp] theorem takePiece_steady (d x ps me src bs b c) (s : State) :
    steady (epochPart (takePiece d x ps me src bs b c s)) = steady (epochPart s) := by
  simp only [takePiece]
  split
  · split
    · simp
    · (repeat' split) <;> simp
  · rw [steady_foldl _ fun s a => by split <;> simp]
    (repeat' split) <;> simp

@[simp] theorem judgePiece_steady (x d c) (s : State) :
    steady (epochPart (judgePiece x d c s)) = steady (epochPart s) := by
  simp only [judgePiece]
  (repeat' split) <;> simp

@[simp] theorem applyChunk_steady (c) (s : State) :
    steady (epochPart (applyChunk c s)) = steady (epochPart s) := by
  unfold applyChunk
  (repeat' split) <;> simp

@[simp] theorem replayEarly_steady (slot inst) (s : State) :
    steady (epochPart (replayEarly slot inst s)) = steady (epochPart s) := by simp [replayEarly]

@[simp] theorem takeHeld_steady (s : State) :
    steady (epochPart (takeHeld s)) = steady (epochPart s) := by
  unfold takeHeld
  split <;> simp

@[simp] theorem sendResponse_steady (dst vc status far data) (s : State) :
    steady (epochPart (sendResponse dst vc status far data s)) = steady (epochPart s) := by simp [sendResponse]

@[simp] theorem serveRead_steady (p) (s : State) :
    steady (epochPart (serveRead p s)) = steady (epochPart s) := by
  simp only [serveRead]
  (repeat' split) <;> simp

@[simp] theorem storeReceived_steady (rq xs) (s : State) :
    steady (epochPart (storeReceived rq xs s)) = steady (epochPart s) := by simp [storeReceived]

@[simp] theorem writeRemote_steady (p data) (s : State) :
    steady (epochPart (writeRemote p data s)) = steady (epochPart s) := by simp [writeRemote]

@[simp] theorem serveWrite_steady (p data) (s : State) :
    steady (epochPart (serveWrite p data s)) = steady (epochPart s) := by simp [serveWrite]

@[simp] theorem serveUnwritten_steady (s : State) :
    steady (epochPart (serveUnwritten s)) = steady (epochPart s) := by simp [serveUnwritten]

@[simp] theorem sendQstate_steady (q) (s : State) :
    steady (epochPart (sendQstate q s)) = steady (epochPart s) := by simp [sendQstate]

@[simp] theorem writeEntry_steady (e k) (s : State) :
    steady (epochPart (writeEntry e k s)) = steady (epochPart s) := by simp [writeEntry]

@[simp] theorem acceptEntry_steady (e) (s : State) : steady (epochPart (acceptEntry e s)) = steady (epochPart s) := by
  have htaken {x : Option Nat × State} (hx : (if (ledgerMove dCredit e.queue 1 .lent .held none s).1 = true then
        freeSlot (sqRx (ledgerMove dCredit e.queue 1 .lent .held none s).2 e.queue) (ledgerMove dCredit e.queue 1 .lent .held none s).2
      else (none, (ledgerMove dCredit e.queue 1 .lent .held none s).2)) = x) : steady (epochPart x.2) = steady (epochPart s) := by
    subst hx
    split <;> simp
  simp only [acceptEntry]
  split
  · simp
  · split
    · next heq => exact htaken heq
    · next heq =>
      have hs := htaken heq
      split <;> simp_all

@[simp] theorem duplicateEntry_steady (e) (s : State) : steady (epochPart (duplicateEntry e s)) = steady (epochPart s) :=
  (sendQstate_steady ..).trans rfl

@[simp] theorem entryGap_steady (q) (s : State) :
    steady (epochPart (entryGap q s)) = steady (epochPart s) := by simp [entryGap]

@[simp] theorem logEntry_steady (e) (s : State) :
    steady (epochPart (logEntry e s)) = steady (epochPart s) := by simp [logEntry]

@[simp] theorem judgeEntry_steady (e) (s : State) :
    steady (epochPart (judgeEntry e s)) = steady (epochPart s) := by
  simp only [judgeEntry]
  split <;> simp

@[simp] theorem enterQueue_steady (e) (s : State) :
    steady (epochPart (enterQueue e s)) = steady (epochPart s) := by simp [enterQueue]

@[simp] theorem judgeUnwritten_steady (q) (s : State) :
    steady (epochPart (judgeUnwritten q s)) = steady (epochPart s) := by simp [judgeUnwritten]

@[simp] theorem releaseReceived_steady (s : State) :
    steady (epochPart (releaseReceived s)) = steady (epochPart s) := by simp [releaseReceived]

@[simp] theorem makeHeld_steady (ws) (s : State) :
    steady (epochPart (makeHeld ws s)) = steady (epochPart s) := by
  simp only [makeHeld]
  rw [steady_foldl _ fun s c => by split <;> simp] <;> rfl

@[simp] theorem endReply_steady (r status) (s : State) :
    steady (epochPart (endReply r status s)) = steady (epochPart s) := by
  unfold endReply
  split <;> simp

@[simp] theorem acceptNow_steady (a) (s : State) :
    steady (epochPart (acceptNow a s)) = steady (epochPart s) := by
  unfold acceptNow
  split <;> simp

@[simp] theorem updLgDom_steady (d f) (s : State) :
    steady (epochPart (updLgDom d f s)) = steady (epochPart s) := by simp [updLgDom]

@[simp] theorem retakePages_steady (n) (s : State) :
    steady (epochPart (retakePages n s)) = steady (epochPart s) := by simp [retakePages]

@[simp] theorem retakeQueue_steady (q) (s : State) :
    steady (epochPart (retakeQueue q s)) = steady (epochPart s) := by simp [retakeQueue]

@[simp] theorem returnCredits_steady (q n r) (s : State) :
    steady (epochPart (returnCredits q n r s)) = steady (epochPart s) := by simp [returnCredits]

@[simp] theorem flushQueue_steady (q) (s : State) :
    steady (epochPart (flushQueue q s)) = steady (epochPart s) := by simp [flushQueue]

@[simp] theorem flushShelf_steady (q) (s : State) :
    steady (epochPart (flushShelf q s)) = steady (epochPart s) := by
  unfold flushShelf
  split <;> simp

end Sys2Proof.Machine
end

section
/-! PROOFS. The loss of the partner (R387, R388). -/

namespace Sys2Proof.Machine

/-! ### The end of an epoch -/

/-- R371: an epoch that is abandoned streams no more and holds no page; the partner, the sealed epoch and the fenced dies stay. -/
theorem steady_abandonEpoch (s : State) : steady (abandonEpoch s) = (s.ms.dieFenced, s.yoke.partner, false, [], s.ember.sealedEpoch) := by
  unfold abandonEpoch releaseAllHeld
  dsimp only
  generalize hs1 : s.ember.pages.foldl _ s = s1
  have h1 : steady s1 = steady s := by
    rw [← hs1]
    exact steady_foldl _ (fun u c => by (repeat' split) <;> simp) ..
  simp only [steady, Prod.mk.injEq] at h1
  obtain ⟨hfenced, hpartner, -, -, hsealed⟩ := h1
  rw [← steady_epochPart, releaseReceived_steady, makeHeld_steady, ← hfenced, ← hpartner, ← hsealed]
  rfl

theorem steady_acceptAll (s : State) : steady (acceptAll s) = steady s := by
  unfold acceptAll
  exact (steady_foldl _ (fun u a => acceptNow_steady ..) ..).trans rfl

theorem acceptAll_of_nil {s : State} (h : s.yoke.pendingAccept = []) : acceptAll s = s := by
  have hsame : { s.yoke with pendingAccept := [] } = s.yoke := by rw [← h]
  show s.yoke.pendingAccept.foldl (fun s a => acceptNow a.2 s) (setYoke { s.yoke with pendingAccept := [] } s) = s
  rw [hsame, h]
  rfl

/-! ### The partner -/

/-- R387: the member knows that its partner is lost. -/
def partnerGone (s : State) : State := raiseVector 69 { s with yoke := { s.yoke with partner := 3, gotPair := false, gotBeat := false } }

theorem partnerGone_eq {s : State} (h : linked s = true) : setPartner 3 (setYoke { s.yoke with gotPair := false, gotBeat := false } s) = partnerGone s := by
  have hpartner : s.yoke.partner = 2 := beq_iff_eq.mp h
  refine if_neg ?_
  show s.yoke.partner ≠ 3
  rw [hpartner]
  decide

theorem partnerGone_outside (s : State) : (partnerGone s).yoke = { s.yoke with partner := 3, gotPair := false, gotBeat := false } ∧
    (partnerGone s).ember = s.ember ∧ (partnerGone s).ms = s.ms ∧ (partnerGone s).ft = s.ft ∧ (partnerGone s).lg = s.lg ∧ (partnerGone s).mem = s.mem :=
  ⟨yoke_of_outside (raiseVector_outside (by simp) ..), ember_of_outside (raiseVector_outside (by simp) ..), ms_of_outside (raiseVector_outside (by simp) ..),
    ft_of_outside (raiseVector_outside (by simp) ..), lg_of_outside (raiseVector_outside (by simp) ..), mem_of_outside (raiseVector_outside (by simp) ..)⟩

theorem partnerLost_full {s : State} (hlink : linked s = true) (hmode : s.ms.mode = .full) :
    partnerLost s = acceptAll (if s.ember.streaming && !s.ember.sinkHost then abandonEpoch (partnerGone s) else partnerGone s) := by
  obtain ⟨-, hember, -⟩ := partnerGone_outside s
  rw [partnerLost, if_neg (by simp [hlink]), partnerGone_eq hlink, if_neg (by simp [hmode]), hember]

theorem partnerLost_full_accepts {s : State} (hlink : linked s = true) (hmode : s.ms.mode = .full)
    (hstream : s.ember.streaming = false ∨ s.ember.sinkHost = true) (hpending : s.yoke.pendingAccept = []) : partnerLost s = partnerGone s := by
  obtain ⟨hyoke, -⟩ := partnerGone_outside s
  rw [partnerLost_full hlink hmode, if_neg, acceptAll_of_nil (by rw [hyoke]; exact hpending)]
  obtain h | h := hstream <;> simp [h]

theorem partnerLost_banked {s : State} (hlink : linked s = true) (hmode : s.ms.mode = .banked) (htrans : s.ms.trans = .none) :
    partnerLost s = startTakeover causeTakeover (partnerGone s) := by
  rw [partnerLost, if_neg (by simp [hlink]), partnerGone_eq hlink, if_pos hmode, if_pos htrans]

theorem execPartnerLossTimeout_eq {c : Nat} {s : State} (hlink : linked s = true) (hheard : s.yoke.heard = some c) (hlate : c + 250000 ≤ s.clk) :
    execPartnerLossTimeout s = .next (partnerLost s) := by
  rw [execPartnerLossTimeout, hheard]
  exact congrArg Host.Outcome.next (if_pos (by simp [hlink, hlate]))

/-! ### Messages that leave while the ledger of link packets is sound -/

/-- What sending leaves of a module whose ledger of link packets has no parity error: its state, its yoke and its memory. -/
structure Quiet (s u : State) : Prop where
  ms : u.ms = s.ms
  yoke : u.yoke = s.yoke
  mem : u.mem = s.mem
  parity : (lgDom u dLinkPacket).parityBad = (lgDom s dLinkPacket).parityBad

theorem Quiet.refl (s : State) : Quiet s s := ⟨rfl, rfl, rfl, rfl⟩

theorem Quiet.trans {s t u : State} (h : Quiet s t) (h' : Quiet t u) : Quiet s u :=
  ⟨h'.ms.trans h.ms, h'.yoke.trans h.yoke, h'.mem.trans h.mem, h'.parity.trans h.parity⟩

theorem Quiet.with_link {s u : State} (h : Quiet s u) (l : Links) : Quiet s { u with link := l } := ⟨h.ms, h.yoke, h.mem, h.parity⟩

theorem parityBad_take {x y : LgDom} {h n : Nat} (hy : x.take h n = some y) : y.parityBad = x.parityBad := by
  unfold LgDom.take at hy
  split at hy
  · cases hy
  · cases hy
    rw [LgDom.noteHigh]
    split <;> rfl

theorem quiet_ledgerTake {s : State} (h : (lgDom s dLinkPacket).parityBad = false) (p : Nat) : Quiet s (ledgerTake dLinkPacket p 1 s).2 := by
  unfold ledgerTake
  rw [parityCheck_good _ s h]
  dsimp only
  split
  · next y hy => exact ⟨rfl, rfl, rfl, by rw [lgDom_setLgDom_same]; exact parityBad_take hy⟩
  · exact Quiet.refl s

theorem quiet_enqueue {s : State} (h : (lgDom s dLinkPacket).parityBad = false) (q : Packet) : Quiet s (enqueue q s) := by
  have henter (p : Nat) : Quiet s (enterPort p q s).2 := by
    have htake := quiet_ledgerTake h p
    unfold enterPort
    dsimp only
    split
    · exact htake.with_link _
    · exact htake
  unfold enqueue
  dsimp only
  split
  · exact (Quiet.refl s).with_link _
  · split
    · exact henter _
    · exact (henter _).with_link _

theorem quiet_sendAll {s : State} (h : (lgDom s dLinkPacket).parityBad = false) (ps : List Packet) : Quiet s (sendAll ps s) := by
  refine List.foldlRecOn (motive := Quiet s) ps _ (Quiet.refl s) fun u hu q _ => ?_
  split
  · exact hu.trans (quiet_enqueue (hu.parity.trans h) q)
  · exact hu

theorem quiet_sendResync {s : State} (h : (lgDom s dLinkPacket).parityBad = false) (pos : Nat) : Quiet s (sendResync pos s) := by
  have htaken : Quiet s (takeSeq (sendKey pos 0 0x202) s).2 := (Quiet.refl s).with_link _
  exact htaken.trans (quiet_sendAll (htaken.parity.trans h) _)

/-- R388: the takeover of a banked member that has a sealed ember begins. -/
theorem startTakeover_sealed {cause : Nat} {s : State} (hsealed : s.ember.sealedEpoch ≠ 0) (hforfeit : s.ember.forfeit = false)
    (hparity : (lgDom s dLinkPacket).parityBad = false) :
    (startTakeover cause s).ms = { s.ms with trans := .takeover } ∧
      (startTakeover cause s).yoke = { s.yoke with takeStart := s.ft.ft, takeCause := cause, stage := .restoring, deposeLeft := 100 } ∧
      (startTakeover cause s).mem = s.mem := by
  let s2 : State := setYoke { s.yoke with takeStart := s.ft.ft, takeCause := cause, stage := .restoring, deposeLeft := 100 }
    (continueLog { setYoke { s.yoke with takeStart := s.ft.ft, takeCause := cause } s with ms := { s.ms with trans := .takeover } })
  have heq : startTakeover cause s = (resyncSources s2).foldl (fun s p => sendResync p s) s2 :=
    (if_neg hsealed).trans (if_neg (by simp [hforfeit]))
  have hquiet : Quiet s2 ((resyncSources s2).foldl (fun s p => sendResync p s) s2) := by
    refine List.foldlRecOn (motive := Quiet s2) _ _ (Quiet.refl s2) fun u hu p _ => hu.trans (quiet_sendResync (hu.parity.trans ?_) p)
    exact hparity
  rw [heq, hquiet.ms, hquiet.yoke, hquiet.mem]
  exact ⟨rfl, rfl, rfl⟩

/-- R388: a banked member without a sealed ember, or whose ember is forfeited, cannot take over. -/
theorem startTakeover_fails {cause : Nat} {s : State} (h : s.ember.sealedEpoch = 0 ∨ s.ember.forfeit = true) :
    startTakeover cause s = takeoverFail (if s.ember.sealedEpoch = 0 then 2 else 3) (setYoke { s.yoke with takeStart := s.ft.ft, takeCause := cause } s) := by
  unfold startTakeover
  by_cases hsealed : s.ember.sealedEpoch = 0
  · rw [if_pos hsealed, if_pos hsealed]
  · rw [if_neg hsealed, if_neg hsealed, if_pos (h.resolve_left hsealed)]

theorem takeoverFail_spec (result : Nat) (s : State) :
    (takeoverFail result s).ms = { s.ms with mode := .fenced, prev := s.ms.mode, cause := causeTakeoverFault, entered := s.clk, trans := .none } ∧
      (takeoverFail result s).yoke = { s.yoke with result := result, takeEnd := s.ft.ft, stage := .none } := by
  unfold takeoverFail
  dsimp only
  generalize hu : ({ s with yoke := { s.yoke with result := result, takeEnd := s.ft.ft, stage := .none } } : State) = u
  rw [ms_of_outside (raiseVector_outside (by simp) ..), ms_of_outside (fenceDescs_outside (by simp) ..), setMode_ms,
    yoke_of_outside (raiseVector_outside (by simp) ..), yoke_of_outside (fenceDescs_outside (by simp) ..), yoke_of_outside (setMode_outside (by simp) ..), ← hu]
  exact ⟨rfl, rfl⟩

/-- Settles O48: by the state of the module that loses its partner, and by its ember. -/
theorem partnerLossCompletes : Obligations.PartnerLossCompletes := by
  refine ⟨fun c s hlink hheard hlate hmode hstream hpending => ⟨_, execPartnerLossTimeout_eq hlink hheard hlate, ?_⟩,
    fun c s hlink hheard hlate hmode hstream hsink hpending => ⟨_, execPartnerLossTimeout_eq hlink hheard hlate, ?_⟩,
    fun c s hlink hheard hlate hmode htrans hsealed hforfeit hparity => ⟨_, execPartnerLossTimeout_eq hlink hheard hlate, ?_⟩,
    fun c s hlink hheard hlate hmode htrans hlost => ⟨_, execPartnerLossTimeout_eq hlink hheard hlate, ?_⟩,
    fun cause s hlink hmode htrans hsealed hforfeit hparity => ⟨_, rfl, ?_⟩, fun cause s hlink hmode hstream hpending => ⟨_, rfl, ?_⟩⟩
  · exact partnerLost_full_accepts hlink hmode hstream hpending
  · obtain ⟨hyoke, hember, hms, -⟩ := partnerGone_outside s
    have hsteady : steady (partnerLost s) = (s.ms.dieFenced, 3, false, [], s.ember.sealedEpoch) := by
      rw [partnerLost_full hlink hmode, if_pos (by simp [hstream, hsink]), steady_acceptAll, steady_abandonEpoch, hyoke, hember, hms]
    simp only [steady, Prod.mk.injEq] at hsteady
    obtain ⟨-, hpartner, hstop, hpages, hsealed⟩ := hsteady
    exact ⟨hpartner, hstop, hpages, hsealed⟩
  · obtain ⟨hyoke, hember, hms, hft, hlg, hmem⟩ := partnerGone_outside s
    obtain ⟨hms', hyoke', hmem'⟩ := startTakeover_sealed (cause := causeTakeover) (s := partnerGone s) (by rw [hember]; exact hsealed)
      (by rw [hember]; exact hforfeit) (by rw [lgDom, hlg]; exact hparity)
    rw [partnerLost_banked hlink hmode htrans, hms', hyoke', hmem', hms, hyoke, hft, hmem]
    exact ⟨rfl, rfl, rfl, rfl, rfl, rfl, rfl⟩
  · obtain ⟨hyoke, hember, hms, hft, hlg, hmem⟩ := partnerGone_outside s
    have hfails := startTakeover_fails (cause := causeTakeover) (s := partnerGone s) (by rw [hember]; exact hlost)
    have hkeeps : (startTakeover causeTakeover (partnerGone s)).mem = s.mem := (mem_of_outside (startTakeover_outside (by simp) ..)).trans hmem
    rw [hember] at hfails
    obtain ⟨hms', hyoke'⟩ := takeoverFail_spec (if s.ember.sealedEpoch = 0 then 2 else 3)
      (setYoke { (partnerGone s).yoke with takeStart := (partnerGone s).ft.ft, takeCause := causeTakeover } (partnerGone s))
    rw [partnerLost_banked hlink hmode htrans, hkeeps, hfails, hms', hyoke']
    exact ⟨rfl, rfl, rfl, rfl, congrArg Yoke.partner hyoke, rfl⟩
  · obtain ⟨hyoke, hember, hms, hft, hlg, hmem⟩ := partnerGone_outside (heardPartner s)
    obtain ⟨hms', hyoke', -⟩ := startTakeover_sealed (cause := causeTakeover) (s := partnerGone (heardPartner s)) (by rw [hember]; exact hsealed)
      (by rw [hember]; exact hforfeit) (by rw [lgDom, hlg]; exact hparity)
    rw [partnerLost_banked (s := heardPartner s) hlink hmode htrans, hms', hyoke', hms, hyoke]
    exact ⟨rfl, rfl, rfl⟩
  · exact partnerLost_full_accepts (s := heardPartner s) hlink hmode hstream hpending

end Sys2Proof.Machine
end

section
/-! PROOFS. The loss and the reset of dies (R362, R406 to R409). -/

namespace Sys2Proof.Machine

/-! ### The mask of fenced dies -/

theorem bitOf_or_dies (f : BitVec 4) (p : Nat → Bool) {n : Nat} (hn : n < 4) :
    bitOf (f ||| BitVec.ofNat 4 (((List.range 4).filter p).map fun n => 2 ^ n).sum).toNat n = (bitOf f.toNat n || p n) := by
  have hbits : ∀ (a b c d : Bool) (f : BitVec 4) (n : Fin 4),
      bitOf (f ||| BitVec.ofNat 4 ((bif a then 1 else 0) + (bif b then 2 else 0) + (bif c then 4 else 0) + (bif d then 8 else 0))).toNat n.val =
        (bitOf f.toNat n.val || [a, b, c, d].getD n.val false) := by decide
  have hsum : (((List.range 4).filter p).map fun n => 2 ^ n).sum =
      (bif p 0 then 1 else 0) + (bif p 1 then 2 else 0) + (bif p 2 then 4 else 0) + (bif p 3 then 8 else 0) := by
    rw [show List.range 4 = [0, 1, 2, 3] from rfl]
    simp only [List.filter_cons, List.filter_nil]
    cases p 0 <;> cases p 1 <;> cases p 2 <;> cases p 3 <;> rfl
  have hget : [p 0, p 1, p 2, p 3].getD n false = p n := by
    have hcases : n = 0 ∨ n = 1 ∨ n = 2 ∨ n = 3 := by omega
    obtain rfl | rfl | rfl | rfl := hcases <;> rfl
  rw [hsum, ← hget]
  exact hbits (p 0) (p 1) (p 2) (p 3) f ⟨n, hn⟩

/-- R408: a die that returns is fenced no more, and the others stay as they are. -/
theorem bitOf_and_die (f : BitVec 4) : bitOf (f &&& ~~~(BitVec.ofNat 4 (2 ^ 0))).toNat 0 = false ∧
    ∀ n, 1 ≤ n → n < 4 → bitOf (f &&& ~~~(BitVec.ofNat 4 (2 ^ 0))).toNat n = bitOf f.toNat n := by
  have hbits : ∀ (f : BitVec 4) (n : Fin 4), n.val ≠ 0 → bitOf (f &&& ~~~(BitVec.ofNat 4 (2 ^ 0))).toNat n.val = bitOf f.toNat n.val := by decide
  have hzero : ∀ f : BitVec 4, bitOf (f &&& ~~~(BitVec.ofNat 4 (2 ^ 0))).toNat 0 = false := by decide
  exact ⟨hzero f, fun n h1 h4 => hbits f ⟨n, h4⟩ (by simp; omega)⟩

theorem get_foldl_put_of_not_mem {ns : List Nat} {n : Nat} (h : n ∉ ns) (f : Nat → DWord) (t : Tab DWord) :
    Tab.get 0 (ns.foldl (fun t n => t.put 0 n (f n)) t) n = Tab.get 0 t n :=
  List.foldlRecOn (motive := fun u : Tab DWord => Tab.get 0 u n = Tab.get 0 t n) ns _ rfl fun _ hu _ hm =>
    (Tab.get_put_other (j := n) _ fun heq => h (heq ▸ hm)).trans hu

theorem get_foldl_put {ns : List Nat} {n : Nat} (h : n ∈ ns) (f : Nat → DWord) (t : Tab DWord) :
    Tab.get 0 (ns.foldl (fun t n => t.put 0 n (f n)) t) n = f n := by
  induction ns generalizing t with
  | nil => cases h
  | cons m ns ih =>
    rw [List.foldl_cons]
    by_cases hn : n ∈ ns
    · exact ih hn _
    · obtain rfl := (List.mem_cons.mp h).resolve_right hn
      rw [get_foldl_put_of_not_mem hn]
      exact Tab.get_put_same _

/-! ### Lost dies -/

/-- R406: the dies that are lost, of those whose heartbeat may be gone. -/
def lostDies (dies : BitVec 4) (s : State) : List Nat := (List.range 4).filter fun n => bitOf dies.toNat n && heartbeatGone s n

/-- R406: why a die was lost: no clock, or no heartbeat. -/
def lossCause (noClock : BitVec 4) (s : State) (n : Nat) : Nat × Nat := (if bitOf noClock.toNat n || !(dieLoss s n).clkOk then 1 else 2, 15)

theorem execDieLost_eq (dies noClock : BitVec 4) (s : State) :
    execDieLost dies noClock s = .next (fenceDies (lostDies dies s) causeDieLoss (lossCause noClock s) s) := rfl

theorem mem_lostDies {dies : BitVec 4} {s : State} {n : Nat} : n ∈ lostDies dies s ↔ n < 4 ∧ bitOf dies.toNat n = true ∧ heartbeatGone s n = true := by
  simp [lostDies]

theorem not_fenced_of_gone {s : State} {n : Nat} (hfull : s.ms.mode = .full) (h : heartbeatGone s n = true) : n < dieCount s ∧ isFenced s n = false := by
  simp only [heartbeatGone, Bool.and_eq_true] at h
  have hruns := h.1
  refine ⟨?_, not_fenced_of_dieRuns hruns⟩
  simp only [dieRuns, hfull, Bool.and_eq_true, decide_eq_true_eq] at hruns
  exact hruns.2

theorem fenceDies_nil (cause : Nat) (why : Nat → Nat × Nat) (s : State) : fenceDies [] cause why s = s := rfl

/-! ### The reset of CD0 -/

theorem execDieCtrlReset_eq {s : State} (hs : inService s = true) (v : Word) (back : Bool) :
    execDieCtrlReset v back s = .next (writeDieCtrl v back (writeLogged 0x60408 v.toNat s)) := by
  rw [execDieCtrlReset, bar0Write_eq_writeLogged hs]

theorem resetDie_eq (n : Nat) (s : State) :
    resetDie n s = { s with mem := clearSram n s.mem, hw := (resetDie n s).hw, streams := (resetDie n s).streams } := rfl

/-- What a returned die leaves before it counts as returned: the fenced dies stay as they are. -/
theorem steady_retaken (n : Nat) (qs : List Nat) (s : State) : steady (retakePages n (qs.foldl (fun s q => retakeQueue q s) s)) = steady s :=
  (retakePages_steady ..).trans (steady_foldl _ (fun _ _ => retakeQueue_steady ..) ..)

theorem steady_givenBack (n : Nat) (ds : List Nat) (s : State) : steady (ds.foldl (fun s d => updLgDom d (LgDom.giveBack n) s) s) = steady s :=
  steady_foldl _ (fun _ _ => updLgDom_steady ..) ..

theorem steady_cleared (n : Nat) (ls : List Nat) (s : State) : steady (ls.foldl (fun s l => clearFlags n l s) s) = steady s :=
  steady_foldl (fun s l => clearFlags n l s) (fun _ _ => rfl) ls s

theorem steady_returned (qs ls : List Nat) (s : State) :
    steady (serveUnwritten (qs.foldl (fun s q => sendQstate q (judgeUnwritten q (flushShelf q s))) (ls.foldl (fun s l => linkUp l s) s))) = steady s := by
  refine (serveUnwritten_steady ..).trans ((steady_foldl _ (fun u q => ?_) ..).trans (steady_foldl (fun s l => linkUp l s) (fun u l => rfl) ls s))
  rw [sendQstate_steady, judgeUnwritten_steady, flushShelf_steady]

theorem dieFenced_ledgersReturned (n : Nat) (ds ls : List Nat) (s : State) :
    (ds.foldl (fun s d => updLgDom d (LgDom.giveBack n) s) (ls.foldl (fun s l => clearFlags n l s) s)).ms.dieFenced = s.ms.dieFenced :=
  congrArg Prod.fst ((steady_givenBack n ds _).trans (steady_cleared n ls s))

theorem dieFenced_returnDie (n : Nat) (s : State) : (returnDie n s).ms.dieFenced = s.ms.dieFenced &&& ~~~(BitVec.ofNat 4 (2 ^ n)) := by
  unfold returnDie
  dsimp only
  refine (congrArg Prod.fst (steady_returned ..)).trans ?_
  generalize hs3 : [dAeTxn, dHeTxn, dCredit, dBlock, dBarrier, dEmberPage].foldl _ _ = s3
  have h3 : s3.ms.dieFenced = s.ms.dieFenced := by
    rw [← hs3, dieFenced_ledgersReturned]
    rfl
  generalize hs4 : setShared _ _ = s4
  have h4 : s4.ms.dieFenced = s3.ms.dieFenced := by
    rw [← hs4]
    rfl
  have h5 : (retakePages n ((queuesOn s n).foldl (fun s q => retakeQueue q s) s4)).ms.dieFenced = s4.ms.dieFenced :=
    congrArg Prod.fst (steady_retaken n (queuesOn s n) s4)
  exact congrArg (· &&& ~~~(BitVec.ofNat 4 (2 ^ n))) (h5.trans (h4.trans h3))

theorem execDieCtrlReset_idle {s : State} (v : Word) (back : Bool) (h : s.ms.mode ≠ .kindling ∨ s.ms.trans ≠ .none ∨ v.getLsbD 0 = false) :
    writeDieCtrl v back s = s := by
  refine if_neg fun ⟨hmode, hv, htrans⟩ => ?_
  obtain h | h | h := h
  · exact h hmode
  · exact h htrans
  · rw [h] at hv
    cases hv

theorem writeDieCtrl_resets {v : Word} {s : State} (hmode : s.ms.mode = .kindling) (htrans : s.ms.trans = .none) (hv : v.getLsbD 0 = true) (back : Bool) :
    writeDieCtrl v back s = resetCd0 back s := if_pos ⟨hmode, hv, htrans⟩

/-- Settles O51: by the dies whose heartbeat is gone, and by whether CD0 is fenced when it is reset. -/
theorem dieCommandsComplete : Obligations.DieCommandsComplete := by
  refine ⟨fun dies noClock s hfull hlost => ⟨_, execDieLost_eq .., ?_⟩, fun dies noClock s hgood => ⟨_, execDieLost_eq .., ?_⟩,
    fun v back s hs => ?_, fun v s hs => ?_, fun v s hs => ?_, fun v back s hs => ?_⟩
  · obtain ⟨n, hn, hdie, hgone⟩ := hlost
    have hmem : n ∈ lostDies dies s := mem_lostDies.mpr ⟨hn, hdie, hgone⟩
    obtain ⟨⟨c, hc, hms⟩, hduest, hft⟩ := fenceDies_full (ns := lostDies dies s) (cause := causeDieLoss) (why := lossCause noClock s) hfull
      (List.ne_nil_of_mem hmem) fun m hm => by
        obtain ⟨-, -, hgone⟩ := mem_lostDies.mp hm
        exact not_fenced_of_gone hfull hgone
    have hcause : c = causeDieLoss := hc.elim id fun ⟨_, h⟩ => h
    have hloss (m : Nat) (hm : m ∈ lostDies dies s) : dieLoss (fenceDies (lostDies dies s) causeDieLoss (lossCause noClock s) s) m =
        { dieLoss s m with cause := (lossCause noClock s m).1, link := 15, tick := s.ft.ft } := by
      rw [dieLoss, hduest]
      exact dieLoss_lossesNoted hm ..
    rw [hms, hft, mem_of_outside (fenceDies_outside (by simp) ..), sync_of_outside (fenceDies_outside (by simp) ..), hcause]
    refine ⟨rfl, rfl, rfl, rfl, fun m hm => bitOf_or_dies _ _ hm, fun m hm hdie hgone => ?_, rfl, rfl, rfl, fun m hm hdie hgone => ?_⟩
    · rw [hloss m (mem_lostDies.mpr ⟨hm, hdie, hgone⟩)]
      refine ⟨?_, rfl, rfl⟩
      simp [lossCause]
    · exact get_foldl_put (mem_lostDies.mpr ⟨hm, hdie, hgone⟩) ..
  · have hnil : lostDies dies s = [] := List.filter_eq_nil_iff.mpr fun n hn h => by
      simp only [Bool.and_eq_true] at h
      rw [hgood n (List.mem_range.mp hn) h.1] at h
      cases h.2
    rw [hnil]
    exact fenceDies_nil ..
  · intro s1 hmode htrans hv hfenced
    refine ⟨_, execDieCtrlReset_eq hs v back, ?_⟩
    beta_reduce
    rw [writeDieCtrl_resets hmode htrans hv, resetCd0, if_neg (by simp [hfenced])]
    exact ⟨rfl, by rw [dieLoss_setDieLoss_self]; rfl, by rw [dieLoss_setDieLoss_self]⟩
  · intro s1 hmode htrans hv hfenced
    refine ⟨_, execDieCtrlReset_eq hs v true, ?_⟩
    beta_reduce
    rw [writeDieCtrl_resets hmode htrans hv, resetCd0, if_pos hfenced, if_pos rfl]
    obtain ⟨hzero, hother⟩ := bitOf_and_die s1.ms.dieFenced
    exact ⟨by rw [isFenced, dieFenced_returnDie]; exact hzero, fun n h1 h4 => by rw [isFenced, dieFenced_returnDie]; exact hother n h1 h4⟩
  · intro s1 hmode htrans hv hfenced
    refine ⟨_, execDieCtrlReset_eq hs v false, ?_⟩
    beta_reduce
    rw [writeDieCtrl_resets hmode htrans hv, resetCd0, if_pos hfenced, if_neg (by decide)]
    exact ⟨hfenced, rfl⟩
  · intro s1 hidle
    exact ⟨_, execDieCtrlReset_eq hs v back, execDieCtrlReset_idle v back hidle⟩

end Sys2Proof.Machine
end

section
/-! PROOFS. What the operations of the power unit leave of PWR, of each die and of the OP_SETs that wait for walks (R415 to R422). -/

namespace Sys2Proof.Machine

/-! ### PWR but for its dies and its throttle flags -/

/-- PWR without what stands in it for each die and without the two throttle flags. -/
def pwrRest (s : State) : Power := { s.pwr with dies := [], throttleCap := false, throttleTherm := false }

theorem pwrRest_of_outside {s t : State} (h : outside (allBut [.pwr]) s = outside (allBut [.pwr]) t) : pwrRest s = pwrRest t := by
  rw [pwrRest, pwrRest, pwr_of_outside h]

theorem pwrRest_foldl {α : Type} {f : State → α → State} (hf : ∀ s a, pwrRest (f s a) = pwrRest s) (l : List α) (s : State) :
    pwrRest (l.foldl f s) = pwrRest s :=
  List.foldlRecOn (motive := fun t => pwrRest t = pwrRest s) l f rfl fun t ht a _ => (hf t a).trans ht

@[simp] theorem pwrRest_setPwrDie (n : Nat) (x : PwrDie) (s : State) : pwrRest (setPwrDie n x s) = pwrRest s := rfl

@[simp] theorem pwrRest_throttleFlags (s : State) : pwrRest (throttleFlags s) = pwrRest s := rfl

@[simp] theorem pwrRest_moveRail (n q : Nat) (s : State) : pwrRest (moveRail n q s) = pwrRest s := rfl

@[simp] theorem pwrRest_raiseRail (n f : Nat) (s : State) : pwrRest (raiseRail n f s) = pwrRest s := by
  simp only [raiseRail]
  split
  · exact pwrRest_moveRail ..
  · rfl

@[simp] theorem pwrRest_dropRail (n : Nat) (s : State) : pwrRest (dropRail n s) = pwrRest s := by
  simp only [dropRail]
  split
  · exact pwrRest_moveRail ..
  · rfl

@[simp] theorem pwrRest_walkTo (n : Nat) (s : State) : pwrRest (walkTo n s) = pwrRest s := by
  simp only [walkTo]
  split_ifs <;> simp

@[simp] theorem pwrRest_clearShares (s : State) : pwrRest (clearShares s) = pwrRest s :=
  pwrRest_foldl (fun s n => pwrRest_setPwrDie n { pwrDie s n with share := 0 } s) _ s

theorem pwr_settleOpSets (s : State) : (settleOpSets s).pwr = s.pwr := pwr_of_outside (settleOpSets_outside (by simp) s)

theorem pwr_noteWarnings (old s : State) : (noteWarnings old s).pwr = s.pwr := pwr_of_outside (noteWarnings_outside (by simp) old s)

@[simp] theorem pwrDie_throttleFlags (s : State) (n : Nat) : pwrDie (throttleFlags s) n = pwrDie s n := rfl

@[simp] theorem pwrDie_settleOpSets (s : State) (n : Nat) : pwrDie (settleOpSets s) n = pwrDie s n := by rw [pwrDie, pwr_settleOpSets, pwrDie]

@[simp] theorem pwrDie_noteWarnings (old s : State) (n : Nat) : pwrDie (noteWarnings old s) n = pwrDie s n := by
  rw [pwrDie, pwr_noteWarnings, pwrDie]

@[simp] theorem pwrRest_settleOpSets (s : State) : pwrRest (settleOpSets s) = pwrRest s := pwrRest_of_outside (settleOpSets_outside (by simp) s)

@[simp] theorem pwrRest_noteWarnings (old s : State) : pwrRest (noteWarnings old s) = pwrRest s :=
  pwrRest_of_outside (noteWarnings_outside (by simp) old s)

/-! ### What an operation leaves of each die -/

theorem eq_foldl_of_step {α β : Type} {φ : State → β} {f : State → α → State} (hf : ∀ s a, φ (f s a) = φ s) (l : List α) (s : State) :
    φ (l.foldl f s) = φ s :=
  List.foldlRecOn (motive := fun t => φ t = φ s) l f rfl fun t ht a _ => (hf t a).trans ht

theorem of_setPwrDie {β : Type} {φ : PwrDie → β} {k : Nat} {x : PwrDie} {s : State} (h : φ x = φ (pwrDie s k)) (n : Nat) :
    φ (pwrDie (setPwrDie k x s) n) = φ (pwrDie s n) := by
  rw [pwrDie_setPwrDie]
  split
  next heq => rw [h, heq]
  next => rfl

/-- A die without what its rail does. -/
def noRail (x : PwrDie) : PwrDie := { x with rail := 0, railFalling := false, railReady := 0 }

/-- The OP that a die is asked for, and the OP that takes effect. -/
def opPair (x : PwrDie) : Nat × Nat := (x.req, x.eff)

@[simp] theorem noRail_moveRail (k q : Nat) (s : State) (n : Nat) : noRail (pwrDie (moveRail k q s) n) = noRail (pwrDie s n) :=
  of_setPwrDie (φ := noRail) (by rfl) n

@[simp] theorem noRail_raiseRail (k f : Nat) (s : State) (n : Nat) : noRail (pwrDie (raiseRail k f s) n) = noRail (pwrDie s n) := by
  simp only [raiseRail]
  split
  · exact noRail_moveRail ..
  · rfl

@[simp] theorem noRail_dropRail (k : Nat) (s : State) (n : Nat) : noRail (pwrDie (dropRail k s) n) = noRail (pwrDie s n) := by
  simp only [dropRail]
  split
  · exact noRail_moveRail ..
  · rfl

theorem opPair_of_noRail {x y : PwrDie} (h : noRail x = noRail y) : opPair x = opPair y := by
  have heq := congrArg opPair h
  exact heq

@[simp] theorem opPair_walkTo (k : Nat) (s : State) (n : Nat) : opPair (pwrDie (walkTo k s) n) = opPair (pwrDie s n) := by
  simp only [walkTo]
  split_ifs
  · rfl
  · exact (opPair_of_noRail (noRail_dropRail ..)).trans (of_setPwrDie (φ := opPair) (by rfl) n)
  · exact (opPair_of_noRail (noRail_raiseRail ..)).trans (of_setPwrDie (φ := opPair) (by rfl) n)
  · rfl
  · exact (opPair_of_noRail (noRail_raiseRail ..)).trans (of_setPwrDie (φ := opPair) (by rfl) n)

@[simp] theorem opPair_clearShares (s : State) (n : Nat) : opPair (pwrDie (clearShares s) n) = opPair (pwrDie s n) :=
  eq_foldl_of_step (φ := fun s => opPair (pwrDie s n)) (f := fun s k => setPwrDie k { pwrDie s k with share := 0 } s)
    (fun _ _ => of_setPwrDie (φ := opPair) (by rfl) n) _ s

/-! ### The OPs that a change of OP_SETs, ceilings or dies leads to -/

/-- R417: a die gets the OP that it is asked for, as far as the ceilings let it. -/
def setEff (s : State) (n : Nat) : State := setPwrDie n { pwrDie s n with eff := effectiveOp s n } s

def setEffs (s : State) : State := (liveDies s).foldl setEff s

/-- R420: where the dies do not steer, their shares are 0. -/
def keepShares (s : State) : State := if s.pwr.steerEn && oneOp s then s else clearShares s

/-- R415: the dies of a list begin to walk to the clock that each should have. -/
def walkAll (ns : List Nat) (s : State) : State := ns.foldl (fun s n => walkTo n s) s

theorem retarget_eq {s : State} (h : s.ms.mode ≠ .kindling) :
    retarget s = settleOpSets (throttleFlags (walkAll (liveDies (keepShares (setEffs s))) (keepShares (setEffs s)))) := if_neg h

theorem retarget_kindling {s : State} (h : s.ms.mode = .kindling) : retarget s = throttleFlags s := if_pos h

@[simp] theorem pwrRest_setEffs (s : State) : pwrRest (setEffs s) = pwrRest s :=
  pwrRest_foldl (f := setEff) (fun _ _ => rfl) _ s

@[simp] theorem pwrRest_keepShares (s : State) : pwrRest (keepShares s) = pwrRest s := by
  rw [keepShares]
  split
  · rfl
  · exact pwrRest_clearShares s

@[simp] theorem pwrRest_walkAll (ns : List Nat) (s : State) : pwrRest (walkAll ns s) = pwrRest s :=
  pwrRest_foldl (fun s n => pwrRest_walkTo n s) ns s

@[simp] theorem opPair_keepShares (s : State) (n : Nat) : opPair (pwrDie (keepShares s) n) = opPair (pwrDie s n) := by
  rw [keepShares]
  split
  · rfl
  · exact opPair_clearShares s n

@[simp] theorem opPair_walkAll (ns : List Nat) (s : State) (n : Nat) : opPair (pwrDie (walkAll ns s) n) = opPair (pwrDie s n) :=
  eq_foldl_of_step (φ := fun s => opPair (pwrDie s n)) (fun s k => opPair_walkTo k s n) ns s

@[simp] theorem pwrRest_retarget (s : State) : pwrRest (retarget s) = pwrRest s := by
  by_cases h : s.ms.mode = .kindling
  · rw [retarget_kindling h, pwrRest_throttleFlags]
  · simp [retarget_eq h]

theorem opPair_setEff (s : State) (k n : Nat) :
    opPair (pwrDie (setEff s k) n) = ((pwrDie s n).req, if n = k then effectiveOp s n else (pwrDie s n).eff) := by
  rw [setEff, pwrDie_setPwrDie]
  split
  next heq => rw [heq]; rfl
  next => rfl

theorem effectiveOp_setEff (s : State) (k n : Nat) : effectiveOp (setEff s k) n = effectiveOp s n := by
  have hreq := congrArg Prod.fst (opPair_setEff s k n)
  exact congrArg (min · (min s.pwr.capCeil s.pwr.thermCeil)) hreq

theorem opPair_foldl_setEff (ns : List Nat) (s : State) (n : Nat) :
    opPair (pwrDie (ns.foldl setEff s) n) = ((pwrDie s n).req, if n ∈ ns then effectiveOp s n else (pwrDie s n).eff) := by
  induction ns generalizing s with
  | nil => rfl
  | cons k ns ih =>
    have hreq : (pwrDie (setEff s k) n).req = (pwrDie s n).req := congrArg Prod.fst (opPair_setEff s k n)
    have heff : (pwrDie (setEff s k) n).eff = if n = k then effectiveOp s n else (pwrDie s n).eff := congrArg Prod.snd (opPair_setEff s k n)
    rw [List.foldl_cons, ih, effectiveOp_setEff, hreq, heff]
    by_cases hk : n = k <;> simp [hk]

theorem opPair_setEffs (s : State) (n : Nat) :
    opPair (pwrDie (setEffs s) n) = ((pwrDie s n).req, if n ∈ liveDies s then effectiveOp s n else (pwrDie s n).eff) :=
  opPair_foldl_setEff (liveDies s) s n

theorem opPair_retarget {s : State} (h : s.ms.mode ≠ .kindling) (n : Nat) :
    opPair (pwrDie (retarget s) n) = ((pwrDie s n).req, if n ∈ liveDies s then effectiveOp s n else (pwrDie s n).eff) := by
  rw [retarget_eq h, pwrDie_settleOpSets, pwrDie_throttleFlags, opPair_walkAll, opPair_keepShares, opPair_setEffs]

/-! ### The OP_SETs that wait for walks -/

/-- R415: an OP_SET whose walks have ended is done. -/
def settleOpSet (s : State) (d : Desc) : State :=
  match d.op, copyAt d .host with
  | some .opSet, some c =>
    if c.st == .running && c.stage == 1 && d.outcome.isNone && (opSetDies s d).all fun n => !(pwrDie s n).walking then
      finishCopy d.ref .host (Report.of stOk (opSetDetail s d c.since)) s
    else s
  | _, _ => s

theorem settleOpSets_eq (s : State) : settleOpSets s = s.descs.foldl settleOpSet s := rfl

theorem settleOpSet_cases (s : State) (d : Desc) :
    settleOpSet s d = s ∨ ∃ rep, isOk rep ∧ settleOpSet s d = finishCopy d.ref .host rep s := by
  unfold settleOpSet
  split
  · split
    · exact .inr ⟨Report.of stOk _, rfl, rfl⟩
    · exact .inl rfl
  · exact .inl rfl

theorem settleOpSet_of_still {s : State} {d : Desc} {c : Copy} (hop : d.op = some .opSet) (hout : d.outcome = none)
    (hc : copyAt d .host = some c) (hrun : c.st = .running) (hstage : c.stage = 1) (hstill : ∀ n, (pwrDie s n).walking = false) :
    settleOpSet s d = finishCopy d.ref .host (Report.of stOk (opSetDetail s d c.since)) s := by
  rw [settleOpSet, hop, hc]
  exact if_pos (by simp [hrun, hstage, hout, hstill])

/-- An OP_SET has a copy, done with OK or at a stage of its work. -/
def OpSetStands (stage : Nat) (r : Ref) (s : State) : Prop :=
  CopyDone s r .host isOk ∨
    ∃ y c, findDesc s r = some y ∧ y.op = some .opSet ∧ y.outcome = none ∧ copyAt y .host = some c ∧ c.st = .running ∧ c.stage = stage

theorem copyDone_congr {s t : State} {r : Ref} {g : Target} {P : Report → Prop} (hd : t.descs = s.descs) (h : CopyDone s r g P) : CopyDone t r g P := by
  rw [CopyDone, findDesc_congr hd]
  exact h

theorem opSetStands_congr {s t : State} {stage : Nat} {r : Ref} (hd : t.descs = s.descs) (h : OpSetStands stage r s) : OpSetStands stage r t := by
  rw [OpSetStands, CopyDone, findDesc_congr hd]
  exact h

theorem copyAt_of_opSetStands {stage : Nat} {r : Ref} {s : State} (h : OpSetStands stage r s) :
    ∃ y c, findDesc s r = some y ∧ copyAt y .host = some c := by
  rcases h with ⟨y, c, hy, hc, -⟩ | ⟨y, c, hy, -, -, hc, -⟩ <;> exact ⟨y, c, hy, hc⟩

theorem findDesc_finishCopy_other {r r' : Ref} (hne : r ≠ r') (g : Target) (rep : Report) (s : State) :
    findDesc (finishCopy r' g rep s) r = findDesc s r :=
  findDesc_updDesc_other (f := updCopy g fun c => { c with st := .done, report := some rep }) (fun _ => rfl) hne s

theorem opSetStands_finishCopy {stage : Nat} {r r' : Ref} {rep : Report} {s : State} (hok : isOk rep) (h : OpSetStands stage r s) :
    OpSetStands stage r (finishCopy r' .host rep s) := by
  by_cases hr : r = r'
  · obtain ⟨y, c, hy, hc⟩ := copyAt_of_opSetStands h
    exact .inl (hr ▸ copyDone_finishCopy hy hc hok)
  · rw [OpSetStands, CopyDone, findDesc_finishCopy_other hr]
    exact h

theorem copyDone_finishCopy_host {r r' : Ref} {rep : Report} {s : State} (hok : isOk rep) (h : CopyDone s r .host isOk) :
    CopyDone (finishCopy r' .host rep s) r .host isOk := by
  by_cases hr : r = r'
  · obtain ⟨y, c, hy, hc, -⟩ := h
    exact hr ▸ copyDone_finishCopy hy hc hok
  · rw [CopyDone, findDesc_finishCopy_other hr]
    exact h

theorem opSetStands_settleOpSet {stage : Nat} {r : Ref} {s : State} (d : Desc) (h : OpSetStands stage r s) :
    OpSetStands stage r (settleOpSet s d) := by
  rcases settleOpSet_cases s d with heq | ⟨rep, hok, heq⟩ <;> rw [heq]
  · exact h
  · exact opSetStands_finishCopy hok h

theorem copyDone_settleOpSet {r : Ref} {s : State} (d : Desc) (h : CopyDone s r .host isOk) : CopyDone (settleOpSet s d) r .host isOk := by
  rcases settleOpSet_cases s d with heq | ⟨rep, hok, heq⟩ <;> rw [heq]
  · exact h
  · exact copyDone_finishCopy_host hok h

theorem opSetStands_foldl_settleOpSet {stage : Nat} {r : Ref} {s : State} (l : List Desc) (h : OpSetStands stage r s) :
    OpSetStands stage r (l.foldl settleOpSet s) :=
  List.foldlRecOn (motive := OpSetStands stage r) l settleOpSet h fun _ ht d _ => opSetStands_settleOpSet d ht

theorem copyDone_foldl_settleOpSet {r : Ref} {s : State} (l : List Desc) (h : CopyDone s r .host isOk) :
    CopyDone (l.foldl settleOpSet s) r .host isOk :=
  List.foldlRecOn (motive := fun t => CopyDone t r .host isOk) l settleOpSet h fun _ ht d _ => copyDone_settleOpSet d ht

theorem pwr_settleOpSet (s : State) (d : Desc) : (settleOpSet s d).pwr = s.pwr := by
  rcases settleOpSet_cases s d with heq | ⟨rep, -, heq⟩ <;> rw [heq] <;> rfl

theorem opSetStands_settleOpSets {stage : Nat} {r : Ref} {s : State} (h : OpSetStands stage r s) : OpSetStands stage r (settleOpSets s) :=
  opSetStands_foldl_settleOpSet s.descs h

/-- R415: with no die walking, an OP_SET that waits for its walks is done. -/
theorem copyDone_settleOpSets {r : Ref} {s : State} (h : OpSetStands 1 r s) (hstill : ∀ n, (pwrDie s n).walking = false) :
    CopyDone (settleOpSets s) r .host isOk := by
  rcases id h with hdone | ⟨y, c, hy, hop, hout, hc, hrun, hstage⟩
  · exact copyDone_foldl_settleOpSet s.descs hdone
  obtain ⟨before, after, hsplit⟩ := List.append_of_mem (List.mem_of_find?_eq_some hy)
  have hpwr : ∀ u, u = before.foldl settleOpSet s → ∀ n, (pwrDie u n).walking = false := by
    rintro u rfl n
    rw [pwrDie, eq_foldl_of_step (φ := State.pwr) pwr_settleOpSet]
    exact hstill n
  obtain ⟨y', c', hy', hc'⟩ := copyAt_of_opSetStands (opSetStands_foldl_settleOpSet before h)
  rw [settleOpSets_eq, hsplit, List.foldl_append, List.foldl_cons, settleOpSet_of_still hop hout hc hrun hstage (hpwr _ rfl), ref_of_findDesc hy]
  exact copyDone_foldl_settleOpSet after (copyDone_finishCopy hy' hc' rfl)

theorem opSetStands_retarget {stage : Nat} {r : Ref} {s : State} (h : OpSetStands stage r s) : OpSetStands stage r (retarget s) := by
  by_cases hk : s.ms.mode = .kindling
  · rw [retarget_kindling hk]
    exact opSetStands_congr rfl h
  · rw [retarget_eq hk]
    refine opSetStands_settleOpSets (opSetStands_congr (descs_of_outside ?_) h)
    simp [walkAll, keepShares, setEffs, setEff]

end Sys2Proof.Machine
end

section
/-! PROOFS. Operating points, rails, walks, samples and temperatures (R411, R415 to R422). -/

namespace Sys2Proof.Machine

theorem eq_with_pwr {s t : State} (h : outside [.pwr] t = outside [.pwr] s) : t = { s with pwr := t.pwr } := by
  have heq := congrArg (fun u => { u with pwr := t.pwr }) h
  exact heq

theorem eq_with_pwr_descs {s t : State} (h : outside [.pwr, .descs] t = outside [.pwr, .descs] s) : t = { s with pwr := t.pwr, descs := t.descs } := by
  have heq := congrArg (fun u => { u with pwr := t.pwr, descs := t.descs }) h
  exact heq

theorem eq_with_pwr_descs_host_out {s t : State} (h : outside [.pwr, .descs, .host, .out] t = outside [.pwr, .descs, .host, .out] s) :
    t = { s with pwr := t.pwr, descs := t.descs, host := t.host, out := t.out } := by
  have heq := congrArg (fun u => { u with pwr := t.pwr, descs := t.descs, host := t.host, out := t.out }) h
  exact heq

theorem eq_with_pwr_descs_host_out_freeCtr {s t : State}
    (h : outside [.pwr, .descs, .host, .out, .freeCtr] t = outside [.pwr, .descs, .host, .out, .freeCtr] s) :
    t = { s with pwr := t.pwr, descs := t.descs, host := t.host, out := t.out, freeCtr := t.freeCtr } := by
  have heq := congrArg (fun u => { u with pwr := t.pwr, descs := t.descs, host := t.host, out := t.out, freeCtr := t.freeCtr }) h
  exact heq

/-! ### OPs after a change -/

theorem req_of_opPair {x : PwrDie} {p : Nat × Nat} (h : opPair x = p) : x.req = p.1 := congrArg Prod.fst h

theorem eff_of_opPair {x : PwrDie} {p : Nat × Nat} (h : opPair x = p) : x.eff = p.2 := congrArg Prod.snd h

theorem req_retarget {s : State} (h : s.ms.mode ≠ .kindling) (n : Nat) : (pwrDie (retarget s) n).req = (pwrDie s n).req :=
  req_of_opPair (opPair_retarget h n)

theorem effectiveOp_congr {s t : State} (h : t.pwr = s.pwr) (n : Nat) : effectiveOp t n = effectiveOp s n := by
  rw [effectiveOp, pwrDie, h, ← pwrDie, effectiveOp]

theorem capCeil_of_pwrRest {s t : State} (h : pwrRest s = pwrRest t) : s.pwr.capCeil = t.pwr.capCeil := by
  have heq := congrArg Power.capCeil h
  exact heq

theorem thermCeil_of_pwrRest {s t : State} (h : pwrRest s = pwrRest t) : s.pwr.thermCeil = t.pwr.thermCeil := by
  have heq := congrArg Power.thermCeil h
  exact heq

/-- R417: each live die has the OP that it is asked for, as far as the ceilings let it. -/
theorem eff_retarget {s : State} (h : s.ms.mode ≠ .kindling) {n : Nat} (hn : n ∈ liveDies s) :
    (pwrDie (retarget s) n).eff = effectiveOp (retarget s) n := by
  have heff : (pwrDie (retarget s) n).eff = if n ∈ liveDies s then effectiveOp s n else (pwrDie s n).eff := eff_of_opPair (opPair_retarget h n)
  rw [heff, if_pos hn, effectiveOp, effectiveOp, req_retarget h, capCeil_of_pwrRest (pwrRest_retarget s),
    thermCeil_of_pwrRest (pwrRest_retarget s)]

/-! ### OP_SET -/

/-- R416: the dies that an OP_SET names are asked for its OP. -/
def setReqs (ns : List Nat) (o : Nat) (s : State) : State := ns.foldl (fun s n => setPwrDie n { pwrDie s n with req := o } s) s

theorem setReqs_outside (ns : List Nat) (o : Nat) (s : State) : outside [.pwr] (setReqs ns o s) = outside [.pwr] s := by
  simp [setReqs]

theorem req_setReqs (ns : List Nat) (o : Nat) (s : State) (n : Nat) : (pwrDie (setReqs ns o s) n).req = if n ∈ ns then o else (pwrDie s n).req := by
  induction ns generalizing s with
  | nil => rfl
  | cons k ns ih =>
    refine (ih _).trans ?_
    rw [pwrDie_setPwrDie]
    by_cases hk : n = k <;> simp [hk]

theorem liveDies_congr {s t : State} (hhw : t.hw = s.hw) (hms : t.ms = s.ms) : liveDies t = liveDies s := by
  simp only [liveDies, dieCount, isM4, isFenced, hhw, hms] <;> rfl

theorem pwrDie_predictCeiling (s : State) (n : Nat) : pwrDie (predictCeiling s) n = pwrDie s n := by
  unfold predictCeiling
  split <;> rfl

/-- The state of an OP_SET once the OPs are set and the dies walk, before its copy waits for them. -/
def opSetWalking (x : Desc) (s : State) : State := retarget (predictCeiling (setReqs (opSetDies s x) (opSetOp s x) s))

/-- R415: a copy waits for walks. -/
def waitForWalks (c : Copy) : Copy := { c with stage := 1 }

/-- The copy of an OP_SET waits for its walks. -/
def opSetWaits (r : Ref) (s : State) : State := updDesc r (updCopy .host waitForWalks) s

theorem pwr_opSetWaits (r : Ref) (s : State) : (opSetWaits r s).pwr = s.pwr := rfl

theorem opSetWaits_found {r : Ref} {s : State} {y : Desc} {c : Copy} (hy : findDesc s r = some y) (hc : copyAt y .host = some c) :
    findDesc (opSetWaits r s) r = some (updCopy .host waitForWalks y) ∧ copyAt (updCopy .host waitForWalks y) .host = some (waitForWalks c) :=
  ⟨findDesc_updDesc_same (f := updCopy .host waitForWalks) (fun _ => rfl) hy,
    (copyAt_updCopy (f := waitForWalks) (fun _ => rfl) .host y).trans (congrArg (Option.map waitForWalks) hc)⟩

theorem startOpSet_eq {s : State} {x : Desc} (hbad : opSetBad s x = false) (hseq : sequencerHolds s = true) :
    startOpSet x s = noteWarnings s (settleOpSets (opSetWaits x.ref (opSetWalking x s))) := by
  rw [startOpSet, hbad, hseq]
  rfl

theorem opSetStands_of_runsAlone {s : State} {r : Ref} {x : Desc} (h : RunsAlone s r .opSet .host 0 x) : OpSetStands 0 r s := by
  obtain ⟨⟨hfind, hop, hrun⟩, hcopies⟩ := h
  obtain ⟨c, hc, ht⟩ := List.map_eq_singleton_iff.mp hcopies
  simp only [Desc.runsAt, hc, Bool.and_eq_true, List.any_cons, List.any_nil, Bool.or_false, Copy.runs, beq_iff_eq, Option.isNone_iff_eq_none] at hrun
  obtain ⟨⟨-, hout⟩, hst, hstage⟩ := hrun
  exact .inr ⟨x, c, hfind, hop, hout, by simp [copyAt, hc, ht], hst, hstage⟩

theorem opSetStands_opSetWaits {r : Ref} {s : State} (h : OpSetStands 0 r s) : OpSetStands 1 r (opSetWaits r s) := by
  rcases h with ⟨y, c, hy, hc, hdone, hrep⟩ | ⟨y, c, hy, hop, hout, hc, hrun, -⟩ <;> obtain ⟨hy', hc'⟩ := opSetWaits_found hy hc
  · exact .inl ⟨_, _, hy', hc', hdone, hrep⟩
  · exact .inr ⟨_, _, hy', hop, hout, hc', hrun, rfl⟩

theorem opSetWalking_outside (x : Desc) (s : State) : outside [.pwr, .descs] (opSetWalking x s) = outside [.pwr, .descs] s := by
  simp [opSetWalking, setReqs]

theorem opSetStands_opSetWalking {r : Ref} {x : Desc} {s : State} (h : OpSetStands 0 r s) : OpSetStands 0 r (opSetWalking x s) :=
  opSetStands_retarget (opSetStands_congr (descs_of_outside (by simp [setReqs])) h)

theorem req_opSetWalking {s : State} (hk : s.ms.mode ≠ .kindling) (x : Desc) (n : Nat) :
    (pwrDie (opSetWalking x s) n).req = if n ∈ opSetDies s x then opSetOp s x else (pwrDie s n).req := by
  have hms : (predictCeiling (setReqs (opSetDies s x) (opSetOp s x) s)).ms = s.ms := ms_of_outside (by simp [setReqs])
  rw [opSetWalking, req_retarget (by rwa [hms]), pwrDie_predictCeiling, req_setReqs]

theorem eff_opSetWalking {s : State} (hk : s.ms.mode ≠ .kindling) (x : Desc) {n : Nat} (hn : n ∈ liveDies s) :
    (pwrDie (opSetWalking x s) n).eff = effectiveOp (opSetWalking x s) n := by
  have hms : (predictCeiling (setReqs (opSetDies s x) (opSetOp s x) s)).ms = s.ms := ms_of_outside (by simp [setReqs])
  have hhw : (predictCeiling (setReqs (opSetDies s x) (opSetOp s x) s)).hw = s.hw := hw_of_outside (by simp [setReqs])
  exact eff_retarget (by rwa [hms]) (by rwa [liveDies_congr hhw hms])

/-- R416, R417: an OP_SET that the sequencer lets through. -/
theorem opSet_accepted {s : State} {r : Ref} {x : Desc} (h : RunsAlone s r .opSet .host 0 x) (hbad : opSetBad s x = false)
    (hseq : sequencerHolds s = true) (hk : s.ms.mode ≠ .kindling) :
    Completes (.opSet r) s fun t =>
      t = { s with pwr := t.pwr, descs := t.descs, host := t.host, out := t.out } ∧
        (∀ n ∈ opSetDies s x, (pwrDie t n).req = opSetOp s x) ∧ (∀ n, n ∉ opSetDies s x → (pwrDie t n).req = (pwrDie s n).req) ∧
        (∀ n ∈ liveDies s, (pwrDie t n).eff = min (pwrDie t n).req (min t.pwr.capCeil t.pwr.thermCeil)) ∧
        ((∀ n, (pwrDie t n).walking = false) → CopyDone t r .host isOk) := by
  have hr : x.ref = r := ref_of_findDesc h.1.1
  have hpwr : (startOpSet x s).pwr = (opSetWalking x s).pwr := by
    rw [startOpSet_eq hbad hseq, pwr_noteWarnings, pwr_settleOpSets, pwr_opSetWaits]
  have hdie (n : Nat) : pwrDie (startOpSet x s) n = pwrDie (opSetWalking x s) n := by rw [pwrDie, hpwr, pwrDie]
  have heff {n : Nat} (hn : n ∈ liveDies s) : (pwrDie (startOpSet x s) n).eff = effectiveOp (startOpSet x s) n := by
    rw [hdie, effectiveOp_congr hpwr, eff_opSetWalking hk x hn]
  refine ⟨_, congrArg Host.Outcome.next (atStage_of_runsAt h.1 _), ?_⟩
  refine ⟨?_, fun n hn => ?_, fun n hn => ?_, fun n hn => ?_, fun hstill => ?_⟩
  · refine eq_with_pwr_descs_host_out ?_
    rw [startOpSet_eq hbad hseq]
    simp [opSetWaits, opSetWalking, setReqs]
  · rw [hdie, req_opSetWalking hk, if_pos hn]
  · rw [hdie, req_opSetWalking hk, if_neg hn]
  · exact heff hn
  · rw [startOpSet_eq hbad hseq, hr]
    refine copyDone_congr (descs_of_outside (noteWarnings_outside (by simp) _ _)) (copyDone_settleOpSets ?_ fun n => ?_)
    · exact opSetStands_opSetWaits (opSetStands_opSetWalking (opSetStands_of_runsAlone h))
    · have hn := hstill n
      rwa [hdie, pwrDie, ← pwr_opSetWaits r, ← pwrDie] at hn

/-! ### Rails -/

theorem rail_raiseRail (n f : Nat) (s : State) :
    railFor f ≤ (pwrDie (raiseRail n f s) n).rail ∧ ∀ m, (pwrDie s m).rail ≤ (pwrDie (raiseRail n f s) m).rail := by
  simp only [raiseRail]
  split
  next hlt =>
    refine ⟨by simp [moveRail], fun m => ?_⟩
    rw [moveRail, pwrDie_setPwrDie]
    split
    next heq => rw [heq]; exact hlt.le
    next => exact le_rfl
  next hge => exact ⟨Nat.le_of_not_lt hge, fun m => le_rfl⟩

/-- R415: rails raised one after the other, for clocks that hang on no rail. -/
theorem rail_foldl_raiseRail {f : State → Nat → Nat}
    (hf : ∀ u v n, pwrRest u = pwrRest v → noRail (pwrDie u n) = noRail (pwrDie v n) → f u n = f v n) (ns : List Nat) (s : State) :
    let t := ns.foldl (fun s n => raiseRail n (f s n) s) s
    (∀ n ∈ ns, railFor (f s n) ≤ (pwrDie t n).rail) ∧
      ∀ n, noRail (pwrDie t n) = noRail (pwrDie s n) ∧ (pwrDie s n).rail ≤ (pwrDie t n).rail := by
  induction ns generalizing s with
  | nil => exact ⟨fun n hn => absurd hn List.not_mem_nil, fun n => ⟨rfl, le_rfl⟩⟩
  | cons k ns ih =>
    obtain ⟨hreach, hkeep⟩ := ih (raiseRail k (f s k) s)
    obtain ⟨hfirst, hrise⟩ := rail_raiseRail k (f s k) s
    refine ⟨fun n hn => ?_, fun n => ⟨(hkeep n).1.trans (noRail_raiseRail ..), (hrise n).trans (hkeep n).2⟩⟩
    rcases List.mem_cons.mp hn with rfl | hn
    · exact hfirst.trans (hkeep n).2
    · rw [← hf _ _ n (pwrRest_raiseRail k (f s k) s) (noRail_raiseRail k (f s k) s n)]
      exact hreach n hn

theorem opSetOp_of_pwrRest {u v : State} (h : pwrRest u = pwrRest v) (x : Desc) : opSetOp u x = opSetOp v x := by
  have hphases : u.pwr.phases = v.pwr.phases := by
    have heq := congrArg Power.phases h
    exact heq
  rw [opSetOp, hphases, opSetOp]

theorem fields_of_noRail {x y : PwrDie} (h : noRail x = noRail y) : x.mhz = y.mhz ∧ x.eff = y.eff ∧ x.share = y.share := by
  have heq := congrArg (fun z => (z.mhz, z.eff, z.share)) h
  simpa [noRail] using heq

theorem railPreraise_early {s : State} {r : Ref} {x : Desc} (hfind : findDesc s r = some x) (hop : x.op = some .opSet) (hsown : hSown x.bytes = true)
    (hwaits : x.dispatched = false) (hout : x.outcome = none) (hbad : opSetBad s x = false) (hseq : sequencerHolds s = true)
    (hsoon : (hLaunch x.bytes).toNat ≤ s.ft.ft.toNat + 15000) :
    Completes (.railPreraise r) s fun t =>
      t = { s with pwr := t.pwr } ∧
        (∀ n ∈ opSetDies s x, railFor (max (clockFor (opSetOp s x) (pwrDie s n).share) (opMhz (opSetOp s x))) ≤ (pwrDie t n).rail) ∧
        ∀ n, (pwrDie t n).mhz = (pwrDie s n).mhz ∧ (pwrDie t n).eff = (pwrDie s n).eff ∧ (pwrDie s n).rail ≤ (pwrDie t n).rail := by
  have hrun : exec (.railPreraise r) s = .next ((opSetDies s x).foldl
      (fun u n => raiseRail n (max (clockFor (opSetOp u x) (pwrDie u n).share) (opMhz (opSetOp u x))) u) s) := by
    refine congrArg Host.Outcome.next ?_
    have hcond : (x.op == some .opSet && hSown x.bytes && !x.dispatched && x.outcome.isNone && !opSetBad s x && sequencerHolds s
        && decide ((hLaunch x.bytes).toNat ≤ s.ft.ft.toNat + 15000)) = true := by simp [hop, hsown, hwaits, hout, hbad, hseq, hsoon]
    rw [hfind]
    simp only [hcond, if_true]
  obtain ⟨hreach, hkeep⟩ := rail_foldl_raiseRail (f := fun u n => max (clockFor (opSetOp u x) (pwrDie u n).share) (opMhz (opSetOp u x)))
    (fun u v n hrest hdie => by rw [(fields_of_noRail hdie).2.2, opSetOp_of_pwrRest hrest]) (opSetDies s x) s
  refine ⟨_, hrun, eq_with_pwr (outside_foldl _ (fun u n => raiseRail_outside (List.Subset.refl _) _ _ u) _ _), hreach, fun n => ?_⟩
  obtain ⟨hmhz, heff, -⟩ := fields_of_noRail (hkeep n).1
  exact ⟨hmhz, heff, (hkeep n).2⟩

/-! ### Walks -/

theorem clockWalkStep_ready {n : Nat} {s : State} (hpaced : ∀ c, s.pwr.lastStep = some c → c + 250 ≤ s.clk) (hturn : stepTurn s = some n) :
    exec (.clockWalkStep n) s = .next (takeStep n s) := by
  refine congrArg Host.Outcome.next (if_pos ?_)
  rw [hturn, beq_self_eq_true, Bool.and_true]
  cases h : s.pwr.lastStep with
  | none => rfl
  | some c => exact decide_eq_true (hpaced c h)

/-- R415: the clock of a die once it has taken a step of its walk. -/
def steppedClock (x : PwrDie) : Nat := if x.mhz < x.goal then min x.goal (x.mhz + 25) else max x.goal (x.mhz - 25)

/-- R415: a die takes a step, and its rail falls where the walk has ended at a lower clock. -/
def stepDie (n : Nat) (s : State) : State :=
  let x := pwrDie s n
  let s1 := setPwrDie n { x with mhz := steppedClock x, stepped := true, walking := !(steppedClock x == x.goal) } s
  if steppedClock x == x.goal && decide (steppedClock x < x.mhz) then dropRail n s1 else s1

theorem takeStep_eq (n : Nat) (s : State) :
    takeStep n s = settleOpSets (setPwr { (stepDie n s).pwr with lastStep := some s.clk, lastDie := n } (stepDie n s)) := rfl

theorem pwrDie_dropRail_other {m n : Nat} (h : m ≠ n) (s : State) : pwrDie (dropRail n s) m = pwrDie s m := by
  simp only [dropRail]
  split
  · exact pwrDie_setPwrDie_other _ _ h
  · rfl

theorem walk_of_noRail {x y : PwrDie} (h : noRail x = noRail y) : x.mhz = y.mhz ∧ x.walking = y.walking := by
  have heq := congrArg (fun z => (z.mhz, z.walking)) h
  simpa [noRail] using heq

theorem stepDie_spec (n : Nat) (s : State) :
    (pwrDie (stepDie n s) n).mhz = steppedClock (pwrDie s n) ∧
      (pwrDie (stepDie n s) n).walking = (!(steppedClock (pwrDie s n) == (pwrDie s n).goal)) ∧
      ∀ m, m ≠ n → pwrDie (stepDie n s) m = pwrDie s m := by
  simp only [stepDie]
  split
  · obtain ⟨hmhz, hwalk⟩ := walk_of_noRail (noRail_dropRail n (setPwrDie n { pwrDie s n with
      mhz := steppedClock (pwrDie s n), stepped := true, walking := !(steppedClock (pwrDie s n) == (pwrDie s n).goal) } s) n)
    rw [pwrDie_setPwrDie_same] at hmhz hwalk
    exact ⟨hmhz, hwalk, fun m hm => (pwrDie_dropRail_other hm _).trans (pwrDie_setPwrDie_other _ _ hm)⟩
  · rw [pwrDie_setPwrDie_same]
    exact ⟨rfl, rfl, fun m hm => pwrDie_setPwrDie_other _ _ hm⟩

theorem takeStep_spec (n : Nat) (s : State) :
    takeStep n s = { s with pwr := (takeStep n s).pwr, descs := (takeStep n s).descs } ∧
      (pwrDie (takeStep n s) n).mhz = steppedClock (pwrDie s n) ∧
      (pwrDie (takeStep n s) n).walking = (!(steppedClock (pwrDie s n) == (pwrDie s n).goal)) ∧
      (takeStep n s).pwr.lastStep = some s.clk ∧ (takeStep n s).pwr.lastDie = n ∧ ∀ m, m ≠ n → pwrDie (takeStep n s) m = pwrDie s m := by
  have hpwr : (takeStep n s).pwr = { (stepDie n s).pwr with lastStep := some s.clk, lastDie := n } := by
    rw [takeStep_eq, pwr_settleOpSets, setPwr]
  have hdie (m : Nat) : pwrDie (takeStep n s) m = pwrDie (stepDie n s) m := by rw [pwrDie, hpwr, pwrDie]
  obtain ⟨hmhz, hwalk, hother⟩ := stepDie_spec n s
  refine ⟨eq_with_pwr_descs (takeStep_outside (List.Subset.refl _) n s), ?_, ?_, ?_, ?_, fun m hm => (hdie m).trans (hother m hm)⟩
  · rw [hdie, hmhz]
  · rw [hdie, hwalk]
  · rw [hpwr]
  · rw [hpwr]

theorem clockWalkStep_up {n : Nat} {s : State} (hpaced : ∀ c, s.pwr.lastStep = some c → c + 250 ≤ s.clk) (hturn : stepTurn s = some n)
    (hup : (pwrDie s n).mhz < (pwrDie s n).goal) :
    Completes (.clockWalkStep n) s fun t =>
      t = { s with pwr := t.pwr, descs := t.descs } ∧ (pwrDie t n).mhz = min (pwrDie s n).goal ((pwrDie s n).mhz + 25) ∧
        (pwrDie t n).walking = decide ((pwrDie s n).mhz + 25 < (pwrDie s n).goal) ∧ t.pwr.lastStep = some s.clk ∧ t.pwr.lastDie = n ∧
        ∀ m, m ≠ n → pwrDie t m = pwrDie s m := by
  have hstep : steppedClock (pwrDie s n) = min (pwrDie s n).goal ((pwrDie s n).mhz + 25) := if_pos hup
  obtain ⟨heq, hmhz, hwalk, hlast⟩ := takeStep_spec n s
  refine ⟨_, clockWalkStep_ready hpaced hturn, heq, hmhz.trans hstep, hwalk.trans ?_, hlast⟩
  rw [hstep, Bool.eq_iff_iff]
  simp only [Bool.not_eq_true', beq_eq_false_iff_ne, decide_eq_true_eq]
  omega

theorem clockWalkStep_down {n : Nat} {s : State} (hpaced : ∀ c, s.pwr.lastStep = some c → c + 250 ≤ s.clk) (hturn : stepTurn s = some n)
    (hdown : (pwrDie s n).goal ≤ (pwrDie s n).mhz) :
    Completes (.clockWalkStep n) s fun t =>
      t = { s with pwr := t.pwr, descs := t.descs } ∧ (pwrDie t n).mhz = max (pwrDie s n).goal ((pwrDie s n).mhz - 25) ∧
        (pwrDie t n).walking = decide ((pwrDie s n).goal < (pwrDie s n).mhz - 25) ∧ ∀ m, m ≠ n → pwrDie t m = pwrDie s m := by
  have hstep : steppedClock (pwrDie s n) = max (pwrDie s n).goal ((pwrDie s n).mhz - 25) := if_neg (Nat.not_lt.mpr hdown)
  obtain ⟨heq, hmhz, hwalk, -, -, hother⟩ := takeStep_spec n s
  refine ⟨_, clockWalkStep_ready hpaced hturn, heq, hmhz.trans hstep, hwalk.trans ?_, hother⟩
  rw [hstep, Bool.eq_iff_iff]
  simp only [Bool.not_eq_true', beq_eq_false_iff_ne, decide_eq_true_eq]
  omega

/-! ### Samples -/

theorem lowerCap_spec (s : State) :
    (lowerCap s).pwr.capCeil = s.pwr.capCeil - 1 ∧ (lowerCap s).pwr.samples = s.pwr.samples ∧ (lowerCap s).pwr.watts = s.pwr.watts ∧
      (s.pwr.capCeil = 0 → (lowerCap s).pwr.capUnmet = true) ∧ (lowerCap s).pwr.thermCeil = s.pwr.thermCeil := by
  by_cases h : s.pwr.capCeil = 0
  · rw [lowerCap, if_pos h, setPwr]
    exact ⟨by simp [h], rfl, rfl, fun _ => rfl, rfl⟩
  · have hrest := pwrRest_retarget (setPwr { s.pwr with capCeil := s.pwr.capCeil - 1, capSteps := s.pwr.capSteps.add 1, lastCapFall := some s.clk, capFits := none } s)
    have hfields := congrArg (fun p => (p.capCeil, p.samples, p.watts, p.thermCeil)) hrest
    simp only [pwrRest, setPwr, Prod.mk.injEq] at hfields
    obtain ⟨hcap, hsamples, hwatts, htherm⟩ := hfields
    rw [lowerCap, if_neg h]
    exact ⟨hcap, hsamples, hwatts, fun h0 => absurd h0 h, htherm⟩

/-- R419: PWR with a sample taken: the samples of the last millisecond and the averages of its voltages and powers. -/
def sampled (mv w : Nat) (a b : Int) (s : State) : Power :=
  { s.pwr with samples := ((mv, w) :: s.pwr.samples).take 100, mv := BitVec.ofNat 16 (hold 0xFFFF a.toNat), watts := BitVec.ofNat 16 (hold 0xFFFF b.toNat) }

/-- R419: a sample lowers the cap ceiling. -/
def sampleLowers (mv w : Nat) (s : State) : Bool :=
  let xs := ((mv, w) :: s.pwr.samples).take 100
  let rested := match s.pwr.lastCapFall with | some c => decide (c + 1000000 ≤ s.clk) | none => true
  (decide (s.pwr.cap.toNat * xs.length < (xs.map (·.2)).sum) && rested) || decide (12 * s.pwr.cap.toNat < 10 * w)

theorem freeQuot_spec (n : Int) (d : Nat) (s : State) : ∃ q c, freeQuot n d s = (q, { s with freeCtr := c }) ∧ ∃ k ≤ 1, q = n / d + (k : Nat) := by
  simp only [freeQuot]
  split
  · exact ⟨n / d, s.freeCtr, rfl, 0, by omega, by simp⟩
  · obtain ⟨k, c, hchoose, hk⟩ := choose_spec 2 s
    rw [hchoose]
    exact ⟨_, c, rfl, k, by omega, rfl⟩

theorem takeSample_eq (mv w : Nat) (s : State) :
    ∃ (a b : Int) (c : Nat),
      (∃ k ≤ 1, b = ((((((mv, w) :: s.pwr.samples).take 100).map (·.2)).sum : Nat) : Int) / ((((mv, w) :: s.pwr.samples).take 100).length : Nat) + (k : Nat)) ∧
      let u := setPwr (sampled mv w a b s) { s with freeCtr := c }
      takeSample mv w s =
        if sampleLowers mv w s then lowerCap u
        else if ((((mv, w) :: s.pwr.samples).take 100).map (·.2)).sum < s.pwr.cap.toNat * (((mv, w) :: s.pwr.samples).take 100).length then
          setPwr { u.pwr with capUnmet := false } u
        else u := by
  obtain ⟨a, c1, hq1, -⟩ := freeQuot_spec ((((mv, w) :: s.pwr.samples).take 100).map fun x => Int.ofNat x.1).sum (((mv, w) :: s.pwr.samples).take 100).length s
  obtain ⟨b, c2, hq2, hb⟩ := freeQuot_spec (Int.ofNat ((((mv, w) :: s.pwr.samples).take 100).map (·.2)).sum)
    (((mv, w) :: s.pwr.samples).take 100).length { s with freeCtr := c1 }
  refine ⟨a, b, c2, hb, ?_⟩
  simp only [takeSample]
  rw [hq1]
  simp only
  rw [hq2]
  rfl

/-- R419: the watts that PWR reads after a sample are the average, up or down, as far as 16 bits hold it. -/
theorem sampled_watts {mv w : Nat} {a b : Int} {s : State} {total n k : Nat} (hk : k ≤ 1) (hb : b = (total / n : Int) + (k : Nat))
    (hsmall : total < 65535 * n) :
    total / n ≤ (sampled mv w a b s).watts.toNat ∧ (sampled mv w a b s).watts.toNat ≤ total / n + 1 := by
  have hquot : total / n < 65535 := Nat.div_lt_of_lt_mul (by rwa [Nat.mul_comm])
  have hnat : b.toNat = total / n + k := by
    rw [hb, ← Int.natCast_ediv, ← Int.natCast_add, Int.toNat_natCast]
  have hwatts : (sampled mv w a b s).watts.toNat = total / n + k := by
    simp only [sampled, BitVec.toNat_ofNat, hold, hnat]
    omega
  omega

theorem powerSample_taken {mv w : Nat} {s : State} (hs : inService s = true) :
    let xs := ((mv, w) :: s.pwr.samples).take 100
    let total := (xs.map (·.2)).sum
    let high := sampleLowers mv w s
    Completes (.powerSample mv w) s fun t =>
      t = { s with pwr := t.pwr, descs := t.descs, host := t.host, out := t.out, freeCtr := t.freeCtr } ∧ t.pwr.samples = xs ∧
        (total < 65535 * xs.length → total / xs.length ≤ t.pwr.watts.toNat ∧ t.pwr.watts.toNat ≤ total / xs.length + 1) ∧
        t.pwr.capCeil = (if high = true then s.pwr.capCeil - 1 else s.pwr.capCeil) ∧
        (high = true → s.pwr.capCeil = 0 → t.pwr.capUnmet = true) ∧
        (high = false → total < s.pwr.cap.toNat * xs.length → t.pwr.capUnmet = false) ∧ t.pwr.thermCeil = s.pwr.thermCeil := by
  intro xs total high
  have hrun : exec (.powerSample mv w) s = .next (noteWarnings s (takeSample mv w s)) := congrArg Host.Outcome.next (if_pos hs)
  refine ⟨_, hrun, eq_with_pwr_descs_host_out_freeCtr (by simp), ?_⟩
  rw [pwr_noteWarnings]
  obtain ⟨a, b, c, ⟨k, hk, hb⟩, htake⟩ := takeSample_eq mv w s
  have hwatts := fun h => sampled_watts (mv := mv) (w := w) (a := a) (s := s) hk hb h
  simp only at htake
  rw [htake]
  cases hhigh : sampleLowers mv w s
  case true =>
    obtain ⟨hcap, hsamples, hw, hunmet, htherm⟩ := lowerCap_spec (setPwr (sampled mv w a b s) { s with freeCtr := c })
    rw [if_pos rfl, hcap, hsamples, hw, htherm]
    exact ⟨rfl, hwatts, by simp [high, hhigh, setPwr, sampled], fun _ => hunmet, fun h => absurd h (by simp [high, hhigh]), rfl⟩
  case false =>
    rw [if_neg Bool.false_ne_true]
    split
    next hlow => exact ⟨rfl, hwatts, by simp [high, hhigh, setPwr, sampled], fun h => absurd h (by simp [high, hhigh]), fun _ _ => rfl, rfl⟩
    next hnot => exact ⟨rfl, hwatts, by simp [high, hhigh, setPwr, sampled], fun h => absurd h (by simp [high, hhigh]), fun _ h => absurd h hnot, rfl⟩

end Sys2Proof.Machine
end

section
/-! PROOFS. Temperatures, ceilings that rise, steering, input flags and PWR_CFG (R411, R417 to R422). -/

namespace Sys2Proof.Machine

/-! ### Temperatures -/

/-- R422: the readings of the sensors that a module has replace what was kept. -/
def putTemps (ss : List Nat) (l : List (BitVec 16 × Nat)) (t : Tab (BitVec 16)) : Tab (BitVec 16) :=
  l.foldl (fun t x => if ss.contains x.2 then t.put 0 x.2 x.1 else t) t

theorem get_putTemps {ss : List Nat} {i : Nat} (hi : i ∈ ss) (rs : List (BitVec 16)) (k : Nat) (t : Tab (BitVec 16)) :
    (putTemps ss (rs.zipIdx k) t).get 0 i = if k ≤ i then rs[i - k]?.getD (t.get 0 i) else t.get 0 i := by
  induction rs generalizing k t with
  | nil => simp [putTemps]
  | cons v rs ih =>
    have hrec : putTemps ss ((v :: rs).zipIdx k) t = putTemps ss (rs.zipIdx (k + 1)) (if ss.contains k then t.put 0 k v else t) := rfl
    rw [hrec, ih]
    rcases Nat.lt_trichotomy k i with hlt | rfl | hgt
    · have hidx : i - k = i - (k + 1) + 1 := by omega
      have hget : (if ss.contains k then t.put 0 k v else t).get 0 i = t.get 0 i := by
        split
        · exact Tab.get_put_other _ (by omega)
        · rfl
      rw [if_pos (by omega), if_pos hlt.le, hidx, List.getElem?_cons_succ, hget]
    · have hget : (if ss.contains k then t.put 0 k v else t).get 0 k = v := by
        rw [if_pos (List.contains_iff_mem.mpr hi), Tab.get_put_same]
      rw [if_neg (by omega), if_pos le_rfl, hget, Nat.sub_self]
      rfl
    · have hget : (if ss.contains k then t.put 0 k v else t).get 0 i = t.get 0 i := by
        split
        · exact Tab.get_put_other _ (by omega)
        · rfl
      rw [if_neg (show ¬ k + 1 ≤ i by omega), if_neg (show ¬ k ≤ i by omega), hget]

/-- R422: PWR with the readings of its sensors. -/
def withTemps (rs : List (BitVec 16)) (s : State) : State := setPwr { s.pwr with temps := putTemps (sensors s) rs.zipIdx s.pwr.temps } s

/-- R422: PWR with the readings, the warning and the time since when all are cool. -/
def warmed (rs : List (BitVec 16)) (s : State) : State :=
  setPwr { (withTemps rs s).pwr with
    warnTemp := (sensors s).any fun i => decide ((tempLimits i).1 ≤ tempOf (withTemps rs s) i)
    coolSince := if allCool (withTemps rs s) then some (s.pwr.coolSince.getD s.clk) else none } (withTemps rs s)

/-- R422: readings lower the thermal ceiling. -/
def tempsLower (rs : List (BitVec 16)) (s : State) : Bool :=
  ((sensors s).any fun i => decide ((tempLimits i).2.1 ≤ tempOf (withTemps rs s) i)) &&
    match s.pwr.lastThermFall with | some t => decide (t + 1000000 ≤ s.clk) | none => true

theorem takeTemps_eq (rs : List (BitVec 16)) (s : State) :
    takeTemps rs s = if tempsLower rs s then lowerTherm (warmed rs s) else warmed rs s := rfl

theorem tempsLower_iff (rs : List (BitVec 16)) (s : State) :
    tempsLower rs s = true ↔
      ((sensors s).any fun i => decide ((tempLimits i).2.1 ≤ tempOf (withTemps rs s) i)) = true ∧
        ∀ c, s.pwr.lastThermFall = some c → c + 1000000 ≤ s.clk := by
  rw [tempsLower, Bool.and_eq_true]
  cases s.pwr.lastThermFall <;> simp

theorem lowerTherm_spec (s : State) :
    (lowerTherm s).pwr.thermCeil = s.pwr.thermCeil - 1 ∧ (lowerTherm s).pwr.temps = s.pwr.temps ∧ (lowerTherm s).pwr.warnTemp = s.pwr.warnTemp := by
  by_cases h : s.pwr.thermCeil = 0
  · rw [lowerTherm, if_pos h]
    exact ⟨by simp [h], rfl, rfl⟩
  · have hrest := pwrRest_retarget (setPwr { s.pwr with thermCeil := s.pwr.thermCeil - 1, thermSteps := s.pwr.thermSteps.add 1, lastThermFall := some s.clk } s)
    have hfields := congrArg (fun p => (p.thermCeil, p.temps, p.warnTemp)) hrest
    simp only [pwrRest, setPwr, Prod.mk.injEq] at hfields
    rw [lowerTherm, if_neg h]
    exact hfields

theorem takeTemps_spec (rs : List (BitVec 16)) (s : State) :
    (takeTemps rs s).pwr.thermCeil = (if tempsLower rs s then s.pwr.thermCeil - 1 else s.pwr.thermCeil) ∧
      (takeTemps rs s).pwr.temps = (withTemps rs s).pwr.temps ∧ (takeTemps rs s).pwr.warnTemp = (warmed rs s).pwr.warnTemp := by
  rw [takeTemps_eq]
  split
  · exact lowerTherm_spec (warmed rs s)
  · exact ⟨rfl, rfl, rfl⟩

theorem tempSample_taken {rs : List (BitVec 16)} {s : State} (hs : inService s = true) :
    Completes (.tempSample rs) s fun t =>
      t = { s with pwr := t.pwr, descs := t.descs, host := t.host, out := t.out } ∧
        (∀ i ∈ sensors s, ∀ v, rs[i]? = some v → tempOf t i = v.toInt) ∧
        t.pwr.warnTemp = ((sensors s).any fun i => decide ((tempLimits i).1 ≤ tempOf t i)) ∧
        t.pwr.thermCeil =
          (if ((sensors s).any fun i => decide ((tempLimits i).2.1 ≤ tempOf t i)) = true ∧ (∀ c, s.pwr.lastThermFall = some c → c + 1000000 ≤ s.clk)
           then s.pwr.thermCeil - 1 else s.pwr.thermCeil) := by
  have hrun : exec (.tempSample rs) s = .next (noteWarnings s (takeTemps rs s)) := congrArg Host.Outcome.next (if_pos hs)
  obtain ⟨htherm, htemps, hwarn⟩ := takeTemps_spec rs s
  have htemp (i : Nat) : tempOf (noteWarnings s (takeTemps rs s)) i = tempOf (withTemps rs s) i := by
    rw [tempOf, pwr_noteWarnings, htemps, tempOf]
  refine ⟨_, hrun, eq_with_pwr_descs_host_out (by simp), fun i hi v hv => ?_, ?_, ?_⟩
  · have hget : (withTemps rs s).pwr.temps.get 0 i = v := by
      refine (get_putTemps hi rs 0 s.pwr.temps).trans ?_
      rw [if_pos (Nat.zero_le i), Nat.sub_zero, hv]
      rfl
    rw [htemp, tempOf, hget]
  · rw [pwr_noteWarnings, hwarn]
    simp only [htemp]
    rfl
  · rw [pwr_noteWarnings, htherm]
    simp only [htemp, tempsLower_iff]

/-! ### Ceilings that rise -/

theorem heldFor100Ms_of_since {c : Nat} {since : Option Nat} {s : State} (hsince : since = some c) (hlong : c + 100000000 ≤ s.clk) :
    heldFor100Ms s since = true := by
  rw [heldFor100Ms, hsince, Option.any_some]
  exact decide_eq_true hlong

theorem capCeilingRaise_held {c : Nat} {s : State} (hs : inService s = true) (hlow : s.pwr.capCeil < 5)
    (hfit : ceilingFits s (s.pwr.capCeil + 1) = true) (hsince : s.pwr.capFits = some c) (hlong : c + 100000000 ≤ s.clk) :
    Completes .capCeilingRaise s fun t =>
      t = noteWarnings s (retarget { s with pwr := { s.pwr with capCeil := s.pwr.capCeil + 1, capFits := none } }) := by
  refine ⟨_, congrArg Host.Outcome.next (if_pos ?_), rfl⟩
  rw [hs, nextOpFits, decide_eq_true hlow, hfit, heldFor100Ms_of_since hsince hlong]
  rfl

theorem thermalCeilingRaise_held {c : Nat} {s : State} (hs : inService s = true) (hlow : s.pwr.thermCeil < 5)
    (hcool : ∀ i ∈ sensors s, tempOf s i + 48 ≤ (tempLimits i).2.1) (hsince : s.pwr.coolSince = some c) (hlong : c + 100000000 ≤ s.clk) :
    Completes .thermalCeilingRaise s fun t =>
      t = noteWarnings s (retarget { s with pwr := { s.pwr with thermCeil := s.pwr.thermCeil + 1, coolSince := some s.clk } }) := by
  have hall : allCool s = true := List.all_eq_true.mpr fun i hi => decide_eq_true (hcool i hi)
  refine ⟨_, congrArg Host.Outcome.next (if_pos ?_), rfl⟩
  rw [hs, hall, decide_eq_true hlow, heldFor100Ms_of_since hsince hlong]
  rfl

/-! ### Steering -/

theorem steerTick_steers {s : State} (hs : inService s = true) (hk : s.ms.mode ≠ .kindling) (hen : s.pwr.steerEn = true) (hone : oneOp s = true) :
    exec .steerTick s = .next (steer s) :=
  congrArg Host.Outcome.next (if_pos (by simp [hs, hk, hen, hone]))

theorem steerTick_idle {s : State} (h : (inService s && s.ms.mode != .kindling && s.pwr.steerEn && oneOp s) = false) :
    Completes .steerTick s fun t => t = { s with steer := t.steer } ∧ t.steer.quietMs = s.steer.quietMs :=
  ⟨_, congrArg Host.Outcome.next (if_neg (by rw [h]; exact Bool.false_ne_true)), rfl, rfl⟩

/-- R420: the late entries that each die has had since the last tick of steering. -/
def lateSince (s : State) (n : Nat) : Nat := ((s.lag.dieLate.get .reset n).count.toNat + 2 ^ 64 - s.steer.late.get 0 n) % 2 ^ 64

theorem steer_pair {a b : Nat} {s : State} (h : steerPair s (lateSince s) = some (a, b)) :
    steer s = retarget (addShare b (-1) (addShare a 1 { s with steer := { late := lateSeen s, quietMs := 0 } })) := by
  have heq : steer s = match steerPair s (lateSince s) with
    | some (a, b) => retarget (addShare b (-1) (addShare a 1 { s with steer := { late := lateSeen s, quietMs := 0 } }))
    | none =>
      let q := s.steer.quietMs + 1
      let s1 := { s with steer := { late := lateSeen s, quietMs := q } }
      if 10 ≤ q then retarget (decayShares s1) else s1 := rfl
  rw [heq, h]

theorem steer_quiet {s : State} (h : steerPair s (lateSince s) = none) :
    steer s =
      (let s1 := { s with steer := { late := lateSeen s, quietMs := s.steer.quietMs + 1 } }
       if 9 ≤ s.steer.quietMs then retarget (decayShares s1) else s1) := by
  have heq : steer s = match steerPair s (lateSince s) with
    | some (a, b) => retarget (addShare b (-1) (addShare a 1 { s with steer := { late := lateSeen s, quietMs := 0 } }))
    | none =>
      let q := s.steer.quietMs + 1
      let s1 := { s with steer := { late := lateSeen s, quietMs := q } }
      if 10 ≤ q then retarget (decayShares s1) else s1 := rfl
  rw [heq, h]
  simp only [show (10 ≤ s.steer.quietMs + 1) = (9 ≤ s.steer.quietMs) from propext (by omega)]

/-! ### Droop and the input flags -/

theorem droop_noted {n : Nat} {s : State} (hs : inService s = true) (hn : n < dieCount s) :
    Completes (.droop n) s fun t => t = setPwrDie n { pwrDie s n with drooping := true } s :=
  ⟨_, congrArg Host.Outcome.next (if_pos (by simp [hs, hn])), rfl⟩

theorem railRecover_noted {n : Nat} {s : State} (h : (pwrDie s n).drooping = true) :
    Completes (.railRecover n) s fun t => t = setPwrDie n { pwrDie s n with drooping := false } s :=
  ⟨_, congrArg Host.Outcome.next (if_pos h), rfl⟩

theorem mode_ne_off_of_inService {s : State} (h : inService s = true) : s.ms.mode ≠ .off := by
  intro hoff
  rw [inService, hoff] at h
  exact Bool.false_ne_true h

theorem setInputFlags_off (f : Power → Power) {s : State} (h : s.ms.mode = .off) : setInputFlags f s = s :=
  if_pos (by simp [h])

theorem setInputFlags_on (f : Power → Power) {s : State} (h : s.ms.mode ≠ .off) :
    setInputFlags f s = if inService s then noteWarnings s (setPwr (f s.pwr) s) else setPwr (f s.pwr) s :=
  if_neg (by simp [h])

theorem setInputFlags_inService (f : Power → Power) {s : State} (hs : inService s = true) :
    setInputFlags f s = noteWarnings s { s with pwr := f s.pwr } :=
  (setInputFlags_on f (mode_ne_off_of_inService hs)).trans (if_pos hs)

theorem setInputFlags_quiet (f : Power → Power) {s : State} (h : s.ms.mode ≠ .off) (hs : inService s = false) :
    setInputFlags f s = { s with pwr := f s.pwr } :=
  (setInputFlags_on f h).trans (if_neg (by simp [hs]))

/-- The end of an input fault warns of nothing. -/
theorem noteWarnings_inputNormal (s : State) :
    noteWarnings s { s with pwr := { s.pwr with inputLow := false, inputHigh := false } } =
      { s with pwr := { s.pwr with inputLow := false, inputHigh := false } } := by
  refine if_neg ?_
  simp [warnFlags]

theorem inputNormal_clears {s : State} (h : s.ms.mode ≠ .off) :
    Completes .inputNormal s fun t => t = { s with pwr := { s.pwr with inputLow := false, inputHigh := false } } := by
  refine ⟨_, rfl, ?_⟩
  beta_reduce
  rw [setInputFlags_on _ h]
  split
  · exact noteWarnings_inputNormal s
  · rfl

/-! ### PWR_CFG -/

/-- R420: PWR with the steering that PWR_CFG asks for. -/
def steered (v : Word) (s : State) : State := setPwr { s.pwr with steerEn := v.getLsbD 0, steerMin := (v >>> 16).setWidth 16 } s

theorem pwrCfgWrite_eq {v : Word} {s : State} (hs : inService s = true) :
    exec (.pwrCfgWrite v) s = .next (writePwrCfg v (writeLogged 0x150004 v.toNat s)) :=
  congrArg Host.Outcome.next (bar0Write_eq_writeLogged hs)

/-- R411: the sequencer gets the clocks. -/
def grantSequencer (s : State) : State := setPwr { s.pwr with seqEn := true } s

theorem writePwrCfg_eq (v : Word) (s : State) :
    writePwrCfg v s = noteWarnings s (retarget (
      if v.getLsbD 1 then (if s.pwr.seqEn then steered v s else claimLow 1 grantSequencer (steered v s))
      else setPwr { (steered v s).pwr with seqEn := false } (steered v s))) := rfl

theorem writePwrCfg_free {v : Word} {s : State} (hv : v.getLsbD 1 = true) (hseq : s.pwr.seqEn = false) (hwdog : s.wdog.en = false) :
    writePwrCfg v s = noteWarnings s (retarget (grantSequencer (steered v s))) := by
  have hfree : claimHolder (steered v s) 1 ≠ 1 := by simp [claimHolder, steered, setPwr, hseq, hwdog]
  rw [writePwrCfg_eq, if_pos hv, if_neg (by simp [hseq]), claimLow, if_neg hfree]

theorem writePwrCfg_held {v : Word} {s : State} (hv : v.getLsbD 1 = true) (hseq : s.pwr.seqEn = false) (hwdog : s.wdog.en = true) :
    writePwrCfg v s = noteWarnings s (retarget (claimEvent 1 0 2 1 (steered v s))) := by
  have hheld : claimHolder (steered v s) 1 = 1 := by simp [claimHolder, steered, setPwr, hwdog]
  rw [writePwrCfg_eq, if_pos hv, if_neg (by simp [hseq]), claimLow, if_pos hheld]

theorem writePwrCfg_off {v : Word} {s : State} (hv : v.getLsbD 1 = false) :
    writePwrCfg v s = noteWarnings s (retarget (setPwr { (steered v s).pwr with seqEn := false } (steered v s))) := by
  rw [writePwrCfg_eq, if_neg (by rw [hv]; exact Bool.false_ne_true)]

/-- What PWR_CFG sets, and warnings and OPs do not change. -/
theorem cfg_noteWarnings_retarget (old s : State) :
    let t := noteWarnings old (retarget s)
    t.pwr.seqEn = s.pwr.seqEn ∧ t.pwr.steerEn = s.pwr.steerEn ∧ t.pwr.steerMin = s.pwr.steerMin ∧ t.claims = s.claims := by
  have hfields := congrArg (fun p => (p.seqEn, p.steerEn, p.steerMin)) ((pwrRest_noteWarnings old (retarget s)).trans (pwrRest_retarget s))
  simp only [pwrRest, Prod.mk.injEq] at hfields
  obtain ⟨hseq, hen, hmin⟩ := hfields
  exact ⟨hseq, hen, hmin, claims_of_outside (by simp)⟩

theorem pwr_claimEvent (resource kind claimant holder : Nat) (s : State) : (claimEvent resource kind claimant holder s).pwr = s.pwr :=
  pwr_of_outside (claimEvent_outside (by simp) ..)

theorem claims_claimEvent (resource kind claimant holder : Nat) (s : State) :
    let t := claimEvent resource kind claimant holder s
    t.claims.conflict = true ∧ t.claims.count = s.claims.count.add 1 ∧
      (s.claims.valid = false → t.claims.resource = resource ∧ t.claims.kind = kind ∧ t.claims.claimant = claimant ∧ t.claims.holder = holder) := by
  have hvec (u : State) : (raiseVector 71 u).claims = u.claims := claims_of_outside (by simp)
  simp only [claimEvent, hvec]
  cases s.claims.valid <;> simp

theorem pwrCfgWrite_free {v : Word} {s : State} (hs : inService s = true) :
    let s1 := writeLogged 0x150004 v.toNat s
    v.getLsbD 1 = true → s1.pwr.seqEn = false → s1.wdog.en = false →
    Completes (.pwrCfgWrite v) s fun t =>
      t = { s1 with pwr := t.pwr, descs := t.descs, host := t.host, out := t.out } ∧ t.pwr.seqEn = true ∧ t.pwr.steerEn = v.getLsbD 0 ∧
        t.pwr.steerMin = (v >>> 16).setWidth 16 := by
  intro s1 hv hseq hwdog
  refine ⟨_, pwrCfgWrite_eq hs, ?_⟩
  beta_reduce
  rw [writePwrCfg_free hv hseq hwdog]
  obtain ⟨hseq', hen, hmin, -⟩ := cfg_noteWarnings_retarget s1 (grantSequencer (steered v s1))
  exact ⟨eq_with_pwr_descs_host_out (by simp [grantSequencer, steered]), hseq', hen, hmin⟩

theorem pwrCfgWrite_held {v : Word} {s : State} (hs : inService s = true) :
    let s1 := writeLogged 0x150004 v.toNat s
    v.getLsbD 1 = true → s1.pwr.seqEn = false → s1.wdog.en = true →
    Completes (.pwrCfgWrite v) s fun t =>
      t.pwr.seqEn = false ∧ t.pwr.steerEn = v.getLsbD 0 ∧ t.claims.conflict = true ∧ t.claims.count = s1.claims.count.add 1 ∧
        (s1.claims.valid = false → t.claims.resource = 1 ∧ t.claims.kind = 0 ∧ t.claims.claimant = 2 ∧ t.claims.holder = 1) := by
  intro s1 hv hseq hwdog
  refine ⟨_, pwrCfgWrite_eq hs, ?_⟩
  beta_reduce
  rw [writePwrCfg_held hv hseq hwdog]
  obtain ⟨hseq', hen, -, hclaims⟩ := cfg_noteWarnings_retarget s1 (claimEvent 1 0 2 1 (steered v s1))
  rw [pwr_claimEvent] at hseq' hen
  rw [hclaims]
  exact ⟨hseq'.trans hseq, hen, claims_claimEvent 1 0 2 1 (steered v s1)⟩

theorem pwrCfgWrite_off {v : Word} {s : State} (hs : inService s = true) :
    let s1 := writeLogged 0x150004 v.toNat s
    v.getLsbD 1 = false → Completes (.pwrCfgWrite v) s fun t => t.pwr.seqEn = false ∧ t.pwr.steerEn = v.getLsbD 0 ∧ t.claims = s1.claims := by
  intro s1 hv
  refine ⟨_, pwrCfgWrite_eq hs, ?_⟩
  beta_reduce
  rw [writePwrCfg_off hv]
  obtain ⟨hseq', hen, -, hclaims⟩ := cfg_noteWarnings_retarget s1 (setPwr { (steered v s1).pwr with seqEn := false } (steered v s1))
  exact ⟨hseq', hen, hclaims⟩

/-- Settles O53: a change of OPs or ceilings leaves PWR but its dies and throttle flags; a walk's step moves one die; and OP_SETs wait for
walks alone. -/
theorem powerCommandsComplete : Obligations.PowerCommandsComplete := by
  unfold Obligations.PowerCommandsComplete
  refine ⟨fun r x s h hbad => ?_, fun r x s h hbad hseq => ?_, fun r x s h hbad hseq hk => opSet_accepted h hbad hseq hk,
    fun r x s hfind hop hsown hwaits hout hbad hseq hsoon => railPreraise_early hfind hop hsown hwaits hout hbad hseq hsoon,
    fun n s hpaced hturn hup => clockWalkStep_up hpaced hturn hup, fun n s hpaced hturn hdown => clockWalkStep_down hpaced hturn hdown,
    fun mv w s hs => powerSample_taken hs, fun c s hs hlow hfit hsince hlong => capCeilingRaise_held hs hlow hfit hsince hlong,
    fun a b s hs hk hen hone => fun hpair => ⟨_, steerTick_steers hs hk hen hone, steer_pair hpair⟩,
    fun s hs hk hen hone => fun hpair => ⟨_, steerTick_steers hs hk hen hone, steer_quiet hpair⟩,
    fun s h => steerTick_idle h, fun n s hs hn => droop_noted hs hn, fun n s h => railRecover_noted h, fun rs s hs => tempSample_taken hs,
    fun c s hs hlow hcool hsince hlong => thermalCeilingRaise_held hs hlow hcool hsince hlong,
    fun s hs => ⟨_, rfl, setInputFlags_inService _ hs⟩, fun s hs => ⟨_, rfl, setInputFlags_inService _ hs⟩,
    fun s h hs => ⟨⟨_, rfl, setInputFlags_quiet _ h hs⟩, ⟨_, rfl, setInputFlags_quiet _ h hs⟩⟩,
    fun s h => ⟨⟨_, rfl, setInputFlags_off _ h⟩, ⟨_, rfl, setInputFlags_off _ h⟩, ⟨_, rfl, setInputFlags_off _ h⟩⟩,
    fun s h => inputNormal_clears h, fun v s hs => pwrCfgWrite_free hs, fun v s hs => pwrCfgWrite_held hs, fun v s hs => pwrCfgWrite_off hs⟩
  · refine ⟨_, congrArg Host.Outcome.next (atStage_of_runsAt h.1 _), ?_⟩
    beta_reduce
    rw [startOpSet, if_pos hbad, ref_of_findDesc h.1.1]
  · refine ⟨_, congrArg Host.Outcome.next (atStage_of_runsAt h.1 _), ?_⟩
    beta_reduce
    rw [startOpSet, hbad, hseq, ref_of_findDesc h.1.1]
    rfl

end Sys2Proof.Machine
end

section
/-! PROOFS. The end of a self-test whose signature differs (R440, R441). -/

namespace Sys2Proof.Machine

/-- The descriptor that asks for a self-test. -/
def testDesc : Desc :=
  { ref := ⟨0, 0⟩, bytes := [], ctx := 0, prio := 0, dispatched := true, order := 0,
    copies := [{ target := .host, st := .running, stage := 2, since := 0, report := none }],
    start := some 0, lateness := 0, outcome := none, detailAll := none, collided := false, deps := 0, waiting := none, replayed := false,
    pair := none }

/-- A module in service that runs a self-test of kind 0 for a descriptor. -/
def testedModule : State :=
  { State.reset with ms := { ModState.reset with mode := .full }, bist := { State.reset.bist with running := true, mailbox := false, ref := some testDesc.ref, body := [] },
                     descs := [testDesc] }

/-- The DETAIL that a descriptor's report holds. -/
def detailAt (s : State) (r : Ref) : Option Nat := ((findDesc s r).bind (copyAt · .host)).bind fun c => c.report.map (·.detail.toNat)

theorem bistRunEnd_counts_entries : ∀ t, execBistRunEnd 0 [] testedModule = .next t → detailAt t testDesc.ref = some 6 := by
  intro t ht
  cases ht
  decide +kernel

/-- Refutes O55: a run whose signature differs has one entry, the fabric's, and DETAIL counts it at bit 2, beside the verdict 2. -/
theorem not_selfTestsComplete : ¬ Obligations.SelfTestsComplete := by
  unfold Obligations.SelfTestsComplete
  rintro ⟨⟨-, -, -, -, hfails, -⟩, -⟩
  obtain ⟨t, ht, -, y, c, hy, hc, -, rep, hrep, -, hdetail⟩ :=
    hfails 0 testDesc.ref testDesc testedModule rfl rfl rfl rfl rfl rfl rfl rfl (by decide)
  have hsix := bistRunEnd_counts_entries t ht
  rw [detailAt, hy, Option.bind_some, hc, Option.bind_some, hrep, Option.map_some, hdetail] at hsix
  exact absurd hsix (by decide)

end Sys2Proof.Machine
end

section
/-! PROOFS. Mailboxes: posts, takes, acknowledgements and replies (R454 to R466). -/

namespace Sys2Proof.Machine

/-! ### Mailboxes and what goes out -/

theorem mailbox_congr {s t : State} (h : t.trust = s.trust) (m : Nat) : mailbox t m = mailbox s m := by
  rw [mailbox, h, mailbox]

@[simp] theorem mailbox_raiseVector (v : Nat) (s : State) (m : Nat) : mailbox (raiseVector v s) m = mailbox s m :=
  mailbox_congr (trust_of_outside (raiseVector_outside (by simp) v s)) m

@[simp] theorem mailbox_mbVector (k : Nat) (s : State) (m : Nat) : mailbox (mbVector k s) m = mailbox s m := mailbox_raiseVector ..

@[simp] theorem mailbox_sendMctp (o : Output) (s : State) (m : Nat) : mailbox (sendMctp o s) m = mailbox s m := rfl

@[simp] theorem mailbox_overwritten (k : Nat) (x : Mailbox) (s : State) (m : Nat) : mailbox (overwritten k x s) m = mailbox s m := by
  rw [overwritten]
  split <;> rfl

theorem mem_out_raiseVector {o : Output} (v : Nat) {s : State} (h : o ∈ s.out) : o ∈ (raiseVector v s).out := by
  simp only [raiseVector]
  split_ifs
  · exact h
  · exact List.mem_append_left _ h
  · exact h

theorem mem_out_sendMctp (o : Output) (s : State) : o ∈ (sendMctp o s).out := List.mem_append_right _ (List.mem_singleton.mpr rfl)

theorem mailboxCount_writeLogged (off v : Nat) (s : State) : mailboxCount (writeLogged off v s) = mailboxCount s := by
  have hhw : (writeLogged off v s).hw = s.hw := hw_of_outside (by simp [writeLogged])
  rw [mailboxCount, hhw, mailboxCount]

/-! ### The bytes of a reply -/

/-- R457: the bytes of a reply replace those that MB_REPLY held at their places. -/
def putReply (r : List Byte) (k : Nat) (t : Tab Byte) : Tab Byte :=
  (r.zipIdx k).foldl (fun (t : Tab Byte) (c : Byte × Nat) => t.put 0 c.2 c.1) t

theorem get_putReply (r : List Byte) (k i : Nat) (t : Tab Byte) :
    (putReply r k t).get 0 i = if k ≤ i then r[i - k]?.getD (t.get 0 i) else t.get 0 i := by
  induction r generalizing k t with
  | nil => simp [putReply]
  | cons b r ih =>
    have hrec : putReply (b :: r) k t = putReply r (k + 1) (t.put 0 k b) := rfl
    rw [hrec, ih]
    rcases Nat.lt_trichotomy k i with hlt | rfl | hgt
    · have hidx : i - k = i - (k + 1) + 1 := by omega
      rw [if_pos (show k + 1 ≤ i by omega), if_pos hlt.le, hidx, List.getElem?_cons_succ, Tab.get_put_other _ (show i ≠ k by omega)]
    · rw [if_neg (show ¬ k + 1 ≤ k by omega), if_pos le_rfl, Tab.get_put_same, Nat.sub_self]
      rfl
    · rw [if_neg (show ¬ k + 1 ≤ i by omega), if_neg (show ¬ k ≤ i by omega), Tab.get_put_other _ (show i ≠ k by omega)]

theorem map_get_putReply (r : List Byte) (t : Tab Byte) : (List.range r.length).map (fun i => (putReply r 0 t).get 0 i) = r := by
  refine List.ext_getElem (by simp) fun i hi hi' => ?_
  rw [List.getElem_map, List.getElem_range, get_putReply, if_pos (Nat.zero_le i), Nat.sub_zero, List.getElem?_eq_getElem hi']
  rfl

theorem get_putReply_beyond {r : List Byte} {i : Nat} (h : r.length ≤ i) (t : Tab Byte) : (putReply r 0 t).get 0 i = t.get 0 i := by
  rw [get_putReply, if_pos (Nat.zero_le i), Nat.sub_zero, List.getElem?_eq_none h]
  rfl

theorem length_mbReply (result status : Nat) (tag : BitVec 16) (detail : Nat) (data : List Byte) :
    (mbReply result status tag detail data).length = 8 + data.length := by
  simp only [mbReply, List.length_append, length_leBytes]

/-! ### The end of a request -/

theorem endService_mctp {m : Nat} {s : State} (hmctp : (mailbox s m).mctp = true) (hkept : (mailbox s m).discard = false) (a b c : Nat) (data : List Byte) :
    endService m a b c data s =
      sendMctp (.mailboxReply m (mailbox s m).tag (mbReply a b (mailbox s m).tag c data)) (setMailbox m { mailbox s m with state := .empty, discard := false } s) := by
  simp only [endService, hmctp, hkept]
  rfl

theorem endService_discarded {m : Nat} {s : State} (hmctp : (mailbox s m).mctp = true) (hdiscard : (mailbox s m).discard = true) (a b c : Nat)
    (data : List Byte) : endService m a b c data s = setMailbox m { mailbox s m with state := .empty, discard := false } s := by
  simp only [endService, hmctp, hdiscard]
  rfl

theorem endService_software {m : Nat} {s : State} (hsoft : (mailbox s m).mctp = false) (a b c : Nat) (data : List Byte) :
    endService m a b c data s =
      mbVector m (setMailbox m { mailbox s m with state := .replied, replyValid := true,
                                                  reply := putReply (mbReply a b (mailbox s m).tag c data) 0 (mailbox s m).reply } s) := by
  simp only [endService, hsoft]
  rfl

theorem mailbox_endService_other {m k : Nat} (h : k ≠ m) (a b c : Nat) (data : List Byte) (s : State) :
    mailbox (endService m a b c data s) k = mailbox s k := by
  cases hmctp : (mailbox s m).mctp
  case false => rw [endService_software hmctp, mailbox_mbVector, mailbox_setMailbox_other _ _ h]
  case true =>
    cases hdiscard : (mailbox s m).discard
    case false => rw [endService_mctp hmctp hdiscard, mailbox_sendMctp, mailbox_setMailbox_other _ _ h]
    case true => rw [endService_discarded hmctp hdiscard, mailbox_setMailbox_other _ _ h]

/-- R457: the reply that software reads. -/
theorem endService_reply {m : Nat} {s : State} (hsoft : (mailbox s m).mctp = false) (a b c : Nat) (data : List Byte) :
    let t := endService m a b c data s
    let r := mbReply a b (mailbox s m).tag c data
    (mailbox t m).state = .replied ∧ (mailbox t m).replyValid = true ∧ (List.range r.length).map (fun i => (mailbox t m).reply.get 0 i) = r ∧
      ∀ i, r.length ≤ i → (mailbox t m).reply.get 0 i = (mailbox s m).reply.get 0 i := by
  simp only [endService_software hsoft, mailbox_mbVector, mailbox_setMailbox_same]
  exact ⟨trivial, trivial, map_get_putReply .., fun i hi => get_putReply_beyond hi _⟩

/-! ### Posts -/

theorem mbPost_eq {m : Nat} {v : Word} {s : State} (hm : m < mailboxCount s) (hs : inService s = true) :
    exec (.mbPost m v) s = .next (postMailbox m false ((v >>> 16).setWidth 16) (bitsOf v.toNat 0 9)
      (mbStaging (mailbox (writeLogged (0x1D0000 + 0x1000 * m + 0x200) v.toNat s) m)) (writeLogged (0x1D0000 + 0x1000 * m + 0x200) v.toNat s)) := by
  refine congrArg Host.Outcome.next ?_
  rw [if_pos hm, bar0Write_eq_writeLogged hs]
  exact if_pos (by rwa [mailboxCount_writeLogged])

theorem mbAck_eq {m : Nat} {v : Word} {s : State} (hm : m < mailboxCount s) (hs : inService s = true) :
    exec (.mbAck m v) s = .next (writeMbAck m v (writeLogged (0x1D0000 + 0x1000 * m + 0x204) v.toNat s)) := by
  refine congrArg Host.Outcome.next ?_
  rw [if_pos hm, bar0Write_eq_writeLogged hs]
  rfl

section

variable {m : Nat} {mctp : Bool} {tag : BitVec 16} {len : Nat} {bytes : List Byte} {s : State}

theorem postMailbox_empty (h : (mailbox s m).state = .empty) :
    postMailbox m mctp tag len bytes s = setMailbox m (posted mctp tag len bytes (mailbox s m)) s := by
  simp only [postMailbox, h]

theorem postMailbox_posted (h : (mailbox s m).state = .posted) :
    postMailbox m mctp tag len bytes s =
      mbVector m (overwritten m (mailbox s m)
        (setMailbox m (posted mctp tag len bytes { mailbox s m with collision := true, collide := (mailbox s m).collide.add 1 }) s)) := by
  simp only [postMailbox, h]

theorem postMailbox_serving_soft (h : (mailbox s m).state = .serving) :
    postMailbox m false tag len bytes s = mbVector m (setMailbox m { mailbox s m with busy := true } s) := by
  simp only [postMailbox, h, Bool.false_eq_true, if_false]

theorem postMailbox_serving_mctp (h : (mailbox s m).state = .serving) :
    postMailbox m true tag len bytes s = sendMctp (.mailboxReply m tag (mbReply 1 0 tag 0 [])) s := by
  simp only [postMailbox, h]
  rfl

theorem postMailbox_replied (h : (mailbox s m).state = .replied) :
    postMailbox m mctp tag len bytes s =
      mbVector m (setMailbox m (posted mctp tag len bytes { mailbox s m with collision := true, replyValid := false }) s) := by
  simp only [postMailbox, h]

theorem out_overwritten {x : Mailbox} (hstate : x.state = .posted) (hmctp : x.mctp = true) :
    Output.mailboxReply m x.tag (mbReply 2 5 x.tag 0 []) ∈ (overwritten m x s).out := by
  rw [overwritten, if_pos ⟨hstate, hmctp⟩]
  exact mem_out_sendMctp ..

end

theorem mbPost_completes {m : Nat} {v : Word} {s : State} (hm : m < mailboxCount s) (hs : inService s = true) :
    let s1 := writeLogged (0x1D0000 + 0x1000 * m + 0x200) v.toNat s
    let x := mailbox s1 m
    (x.state = .empty →
      Completes (.mbPost m v) s fun t =>
        t = setMailbox m { x with state := .posted, mctp := false, tag := (v >>> 16).setWidth 16, len := bitsOf v.toNat 0 9,
                                  slot := (mbStaging x).take (min (bitsOf v.toNat 0 9) 256), discard := false } s1) ∧
    (x.state = .posted →
      Completes (.mbPost m v) s fun t =>
        (mailbox t m).state = .posted ∧ (mailbox t m).mctp = false ∧ (mailbox t m).tag = (v >>> 16).setWidth 16 ∧
          (mailbox t m).collision = true ∧ (mailbox t m).collide = x.collide.add 1 ∧ (∀ k, k ≠ m → mailbox t k = mailbox s1 k) ∧
          (x.mctp = true → Output.mailboxReply m x.tag (mbReply 2 5 x.tag 0 []) ∈ t.out)) ∧
    (x.state = .serving → Completes (.mbPost m v) s fun t => t = raiseVector (80 + m) (setMailbox m { x with busy := true } s1)) ∧
    (x.state = .replied →
      Completes (.mbPost m v) s fun t =>
        (mailbox t m).state = .posted ∧ (mailbox t m).collision = true ∧ (mailbox t m).replyValid = false ∧
          (mailbox t m).collide = x.collide ∧ ∀ k, k ≠ m → mailbox t k = mailbox s1 k) := by
  intro s1 x
  have hrun := mbPost_eq (v := v) hm hs
  refine ⟨fun h => ⟨_, hrun, ?_⟩, fun h => ⟨_, hrun, ?_⟩, fun h => ⟨_, hrun, ?_⟩, fun h => ⟨_, hrun, ?_⟩⟩ <;> beta_reduce
  · exact postMailbox_empty h
  · rw [postMailbox_posted h]
    simp only [mailbox_mbVector, mailbox_overwritten, mailbox_setMailbox_same]
    exact ⟨rfl, rfl, rfl, rfl, rfl, fun k hk => mailbox_setMailbox_other _ _ hk, fun hmctp => mem_out_raiseVector _ (out_overwritten h hmctp)⟩
  · exact postMailbox_serving_soft h
  · rw [postMailbox_replied h]
    simp only [mailbox_mbVector, mailbox_setMailbox_same]
    exact ⟨rfl, rfl, rfl, rfl, fun k hk => mailbox_setMailbox_other _ _ hk⟩

theorem mctpMailboxRequest_eq {m : Nat} {tag : BitVec 16} {bytes : List Byte} {s : State} (ha : mctpAnswers s = true) :
    exec (.mctpMailboxRequest m tag bytes) s =
      .next (if mailboxCount s ≤ m then sendMctp (.mailboxReply m tag (mbReply 4 0 tag 0 [])) s else postMailbox m true tag bytes.length bytes s) :=
  congrArg Host.Outcome.next (if_neg (by simp [ha]))

/-! ### Acknowledgements and takes -/

theorem mbAck_completes {m : Nat} {v : Word} {s : State} (hm : m < mailboxCount s) (hs : inService s = true) :
    let s1 := writeLogged (0x1D0000 + 0x1000 * m + 0x204) v.toNat s
    ((mailbox s1 m).state = .replied → v.getLsbD 0 = true →
      Completes (.mbAck m v) s fun t => t = setMailbox m { mailbox s1 m with state := .empty, replyValid := false } s1) ∧
    ((mailbox s1 m).state ≠ .replied ∨ v.getLsbD 0 = false → Completes (.mbAck m v) s fun t => t = s1) := by
  intro s1
  refine ⟨fun h hv => ⟨_, mbAck_eq hm hs, if_pos ?_⟩, fun h => ⟨_, mbAck_eq hm hs, if_neg ?_⟩⟩
  · rw [hv, h]
    rfl
  · rw [Bool.and_eq_true, beq_iff_eq]
    rintro ⟨hv, hstate⟩
    rcases h with h | h
    · exact h hstate
    · exact Bool.false_ne_true (h.symm.trans hv)

theorem kolnuTake_eq {m : Nat} {s : State} (h : (mailbox s m).state = .posted) (ha : mctpAnswers s = true) :
    execKolnuTake m s =
      .next (match rejection s m (mailbox s m) with
        | some (r, st, det) => endService m r st det [] (setMailbox m { mailbox s m with state := .serving } s)
        | none => setMailbox m { mailbox s m with state := .serving } s) := by
  refine congrArg Host.Outcome.next ?_
  refine (if_neg ?_).trans rfl
  simp [h, ha]

theorem kolnuTake_accepted {m : Nat} {s : State} (h : (mailbox s m).state = .posted) (ha : mctpAnswers s = true)
    (hok : rejection s m (mailbox s m) = none) : exec (.kolnuTake m) s = .next (setMailbox m { mailbox s m with state := .serving } s) := by
  refine (kolnuTake_eq h ha).trans ?_
  rw [hok]

theorem kolnuTake_rejected {m a b c : Nat} {s : State} (h : (mailbox s m).state = .posted) (ha : mctpAnswers s = true)
    (hbad : rejection s m (mailbox s m) = some (a, b, c)) :
    exec (.kolnuTake m) s = .next (endService m a b c [] (setMailbox m { mailbox s m with state := .serving } s)) := by
  refine (kolnuTake_eq h ha).trans ?_
  rw [hbad]

theorem kolnuTake_rejected_mctp {m a b c : Nat} {s : State} (h : (mailbox s m).state = .posted) (ha : mctpAnswers s = true)
    (hbad : rejection s m (mailbox s m) = some (a, b, c)) (hmctp : (mailbox s m).mctp = true) (hkept : (mailbox s m).discard = false) :
    Completes (.kolnuTake m) s fun t =>
      t.out = s.out ++ announced s ++ [.mailboxReply m (mailbox s m).tag (mbReply a b (mailbox s m).tag c [])] ∧ (mailbox t m).state = .empty ∧
        ∀ k, k ≠ m → mailbox t k = mailbox s k := by
  refine ⟨_, kolnuTake_rejected h ha hbad, ?_⟩
  beta_reduce
  rw [endService_mctp (by rwa [mailbox_setMailbox_same]) (by rwa [mailbox_setMailbox_same])]
  simp only [mailbox_setMailbox_same, mailbox_sendMctp]
  exact ⟨rfl, trivial, fun k hk => (mailbox_setMailbox_other _ _ hk).trans (mailbox_setMailbox_other _ _ hk)⟩

theorem kolnuTake_rejected_software {m a b c : Nat} {s : State} (h : (mailbox s m).state = .posted) (ha : mctpAnswers s = true)
    (hbad : rejection s m (mailbox s m) = some (a, b, c)) (hsoft : (mailbox s m).mctp = false) :
    Completes (.kolnuTake m) s fun t =>
      (mailbox t m).state = .replied ∧ (mailbox t m).replyValid = true ∧
        (List.range 8).map (fun i => (mailbox t m).reply.get 0 i) = mbReply a b (mailbox s m).tag c [] ∧
        (∀ i, 8 ≤ i → (mailbox t m).reply.get 0 i = (mailbox s m).reply.get 0 i) ∧ ∀ k, k ≠ m → mailbox t k = mailbox s k := by
  refine ⟨_, kolnuTake_rejected h ha hbad, ?_⟩
  have hserved : mailbox (setMailbox m { mailbox s m with state := .serving } s) m = { mailbox s m with state := .serving } := mailbox_setMailbox_same ..
  obtain ⟨hstate, hvalid, hreply, hbeyond⟩ := endService_reply (s := setMailbox m { mailbox s m with state := .serving } s) (by rw [hserved]; exact hsoft) a b c []
  rw [length_mbReply, hserved] at hreply hbeyond
  exact ⟨hstate, hvalid, hreply, hbeyond, fun k hk => (mailbox_endService_other hk ..).trans (mailbox_setMailbox_other _ _ hk)⟩

/-! ### Requests that are refused -/

theorem rejection_known {m : Nat} {x : Mailbox} {v : Service} {s : State} (hlo : 4 ≤ x.len) (hhi : x.len ≤ 256) (hv : serviceOf x = some v)
    (hdenied : isDenied s m x v = true) : rejection s m x = some (5, 0, 0) := by
  rw [rejection, if_neg (show ¬(x.len < 4 ∨ 256 < x.len) by omega), hv]
  exact if_pos hdenied

/-- Settles O56: a post goes by the state of its mailbox, a take by what R456 refuses, and each moves that mailbox alone. -/
theorem mailboxCommandsComplete : Obligations.MailboxCommandsComplete := by
  unfold Obligations.MailboxCommandsComplete
  refine ⟨⟨fun m v s hm hs => mbPost_completes hm hs, fun m tag bytes s ha hm => ⟨_, mctpMailboxRequest_eq ha, if_pos hm⟩,
    fun m tag bytes s ha hm h => ⟨_, mctpMailboxRequest_eq ha, (if_neg (Nat.not_le.mpr hm)).trans (postMailbox_empty h)⟩,
    fun m tag bytes s ha hm h => ⟨_, mctpMailboxRequest_eq ha, (if_neg (Nat.not_le.mpr hm)).trans (postMailbox_serving_mctp h)⟩,
    fun m v s hm hs => mbAck_completes hm hs, fun m s h ha hok => ⟨_, kolnuTake_accepted h ha hok, rfl⟩,
    fun m a b c s h ha hbad hmctp hkept => kolnuTake_rejected_mctp h ha hbad hmctp hkept,
    fun m a b c s h ha hbad hsoft => kolnuTake_rejected_software h ha hbad hsoft⟩, fun m x s => ⟨fun h => ?_, fun hlo hhi hnone => ?_,
    fun v hlo hhi hv hsecure hmask => rejection_known hlo hhi hv ?_, fun v hlo hhi hv hmask hlock hsoft => rejection_known hlo hhi hv ?_⟩⟩
  · rw [rejection, if_pos h]
    rfl
  · rw [rejection, if_neg (show ¬(x.len < 4 ∨ 256 < x.len) by omega), hnone]
    rfl
  · simp [isDenied, hsecure, hmask]
  · simp [isDenied, hmask, hlock, hsoft]

end Sys2Proof.Machine
end

section
/-! PROOFS. The services of mailboxes (R440 to R447, R457 to R463). -/

namespace Sys2Proof.Machine

theorem eq_with_trust_host_out {s t : State} (h : outside [.trust, .host, .out] t = outside [.trust, .host, .out] s) :
    t = { s with trust := t.trust, host := t.host, out := t.out } := by
  have heq := congrArg (fun u => { u with trust := t.trust, host := t.host, out := t.out }) h
  exact heq

/-! ### Serving -/

theorem serve_serving {m : Nat} {v : Service} {s : State} (h : (mailbox s m).state = .serving) (hv : serviceOf (mailbox s m) = some v)
    (ha : mctpAnswers s = true) (f : Mailbox → State → State) : serve m v f s = f (mailbox s m) s :=
  if_pos (by simp [h, hv, ha])

/-- TRUST without its mailboxes. -/
def trustRest (s : State) : Trust := { s.trust with mbs := [] }

theorem trustRest_congr {s t : State} (h : t.trust = s.trust) : trustRest t = trustRest s := by rw [trustRest, h, trustRest]

theorem trustRest_endService (m a b c : Nat) (data : List Byte) (s : State) : trustRest (endService m a b c data s) = trustRest s := by
  cases hmctp : (mailbox s m).mctp
  case false =>
    rw [endService_software hmctp]
    exact (trustRest_congr (trust_of_outside (raiseVector_outside (fs := allBut [.trust]) (by simp) ..))).trans rfl
  case true =>
    cases hdiscard : (mailbox s m).discard
    case false => rw [endService_mctp hmctp hdiscard]; rfl
    case true => rw [endService_discarded hmctp hdiscard]; rfl

/-! ### Measurements -/

theorem measOf_congr {s t : State} (h : trustRest t = trustRest s) (i : Nat) : measOf t i = measOf s i := by
  have hmeas := congrArg Trust.meas h
  exact congrArg (fun x : Tab (List Byte) => x.get zeroDigest i) hmeas

theorem measOf_extendMeas_same (i : Nat) (d : List Byte) (s : State) : measOf (extendMeas i d s) i = sha384 (measOf s i ++ d) := Tab.get_put_same _

theorem measOf_extendMeas_other {i j : Nat} (h : j ≠ i) (d : List Byte) (s : State) : measOf (extendMeas i d s) j = measOf s j :=
  Tab.get_put_other _ h

theorem count_extendMeas (i : Nat) (d : List Byte) (s : State) :
    (extendMeas i d s).trust.counts.get 0 i = min 255 (s.trust.counts.get 0 i + 1) := Tab.get_put_same _

theorem measExtend_served {m : Nat} {s : State} (h : (mailbox s m).state = .serving) (hv : serviceOf (mailbox s m) = some .measExtend)
    (ha : mctpAnswers s = true) :
    let d := padTo 48 ((mailbox s m).slot.drop 4)
    Completes (.measExtend m) s fun t =>
      measOf t 6 = sha384 (measOf s 6 ++ d) ∧ (∀ i, i ≠ 6 → measOf t i = measOf s i) ∧
        t.trust.counts.get 0 6 = min 255 (s.trust.counts.get 0 6 + 1) ∧ t.trust.extendCount = s.trust.extendCount + 1 ∧
        t = endService m 0 0 (min 255 (s.trust.counts.get 0 6 + 1)) [] (extendMeas 6 d s) := by
  intro d
  have hrest := trustRest_endService m 0 0 (min 255 (s.trust.counts.get 0 6 + 1)) [] (extendMeas 6 d s)
  have hkept := congrArg (fun x : Trust => (x.counts, x.extendCount)) hrest
  simp only [trustRest, Prod.mk.injEq] at hkept
  obtain ⟨hcounts, hextends⟩ := hkept
  have hrun : exec (.measExtend m) s = .next (endService m 0 0 (min 255 (s.trust.counts.get 0 6 + 1)) [] (extendMeas 6 d s)) := by
    refine congrArg Host.Outcome.next ((serve_serving h hv ha _).trans ?_)
    rw [← count_extendMeas 6 d s]
    rfl
  refine ⟨_, hrun, (measOf_congr hrest 6).trans (measOf_extendMeas_same ..), fun i hi => (measOf_congr hrest i).trans (measOf_extendMeas_other hi ..),
    ?_, hextends, rfl⟩
  rw [hcounts, count_extendMeas]

/-! ### Firmware -/

theorem firstBad_of_clean {s : State} (h : s.mem.bad = []) (rq : Requester) (a n : Nat) : firstBad s rq a n = none :=
  if_pos (by rw [h]; rfl)

theorem readBytes_append (s : State) (rq : Requester) (a n k : Nat) : readBytes s rq a n ++ readBytes s rq (a + n) k = readBytes s rq a (n + k) := by
  simp only [readBytes, List.range_add, List.map_append, List.map_map, Function.comp_def, Nat.add_assoc]

theorem flatMap_readBytes (s : State) (rq : Requester) (a w n : Nat) :
    ((List.range n).flatMap fun k => readBytes s rq (a + w * k) w) = readBytes s rq a (w * n) := by
  induction n with
  | zero => rfl
  | succ n ih => rw [List.range_succ, List.flatMap_append, ih, List.flatMap_singleton, readBytes_append, Nat.mul_succ]

/-- R443: with no uncorrectable codeword the format of an image is that of its first 1,024 bytes. -/
theorem fwFormat_of_clean {s : State} (h : s.mem.bad = []) (a n : Nat) : fwFormat s a n = fwImageError (readBytes s .bar2 a 1024) n := by
  simp only [fwFormat, firstBad_of_clean h, Option.isNone_none, if_true]
  rw [flatMap_readBytes]

theorem fwBad_of_clean {s : State} (h : s.mem.bad = []) (a n : Nat) : fwBad s a n = none := by
  rw [fwBad, firstBad_of_clean h]

/-- What FW_LOAD does with a request. -/
def fwServe (m : Nat) (x : Mailbox) (s : State) : State :=
  let a := x.fld 4 0 44
  let n := x.fld 12 0 32
  let done (st det : Nat) (s : State) : State := endService m mrDone st det [] s
  match fwRequestError s x with
  | some (st, det) => done st det s
  | none =>
    if decide (0 < n) && (unfilledAt s a 1).isSome then s else
    match fwFormat s a n with
    | some off => done stDescInvalid off s
    | none =>
      match fwBad s a n with
      | some (i, s1) => done stMemUncorrectable i s1
      | none =>
        let (ok, s1) := fwStart (readBytes s .bar2 a n) s
        done stOk (bit ok) s1

section

variable {m : Nat} {s : State}

theorem fwLoad_eq (h : (mailbox s m).state = .serving) (hv : serviceOf (mailbox s m) = some .fwLoad) (ha : mctpAnswers s = true) :
    exec (.fwLoad m) s = .next (fwServe m (mailbox s m) s) :=
  congrArg Host.Outcome.next (serve_serving h hv ha _)

theorem fwServe_refused {x : Mailbox} {st det : Nat} (hreq : fwRequestError s x = some (st, det)) : fwServe m x s = endService m 0 st det [] s := by
  rw [fwServe, hreq]
  rfl

theorem fwServe_filled {x : Mailbox} (hreq : fwRequestError s x = none) (hfilled : unfilledAt s (x.fld 4 0 44) 1 = none) :
    fwServe m x s =
      match fwFormat s (x.fld 4 0 44) (x.fld 12 0 32) with
      | some off => endService m 0 9 off [] s
      | none =>
        match fwBad s (x.fld 4 0 44) (x.fld 12 0 32) with
        | some (i, u) => endService m 0 12 i [] u
        | none =>
          let r := fwStart (readBytes s .bar2 (x.fld 4 0 44) (x.fld 12 0 32)) s
          endService m 0 0 (bit r.1) [] r.2 := by
  rw [fwServe, hreq]
  simp only [hfilled]
  rw [if_neg (by simp)]
  rfl

end

/-- R443: TRUST with an image loaded. -/
def fwLoaded (b : List Byte) (ok : Bool) (s : State) : State :=
  setTrust { s.trust with s2Loaded := true, s2SigOk := ok, s2Svn := BitVec.ofNat 8 (fieldAt b 12 0 8),
                          s2Version := BitVec.ofNat 32 (fieldAt b 8 0 32) } s

/-- R443: the code and the configuration of an image are measured. -/
def fwMeasured (b : List Byte) (s : State) : State :=
  extendMeas 4 (sha384 (b.drop (1024 + fieldAt b 16 0 32)))
    (extendMeas 3 (sha384 (b.take 64 ++ (b.drop 1024).take (fieldAt b 16 0 32))) s)

theorem fwStart_eq (b : List Byte) (s : State) :
    fwStart b s = (fwVerifies b (fieldAt b 16 0 32), fwLoaded b (fwVerifies b (fieldAt b 16 0 32)) (fwMeasured b s)) := rfl

theorem measOf_fwLoaded (b : List Byte) (ok : Bool) (s : State) (i : Nat) : measOf (fwLoaded b ok s) i = measOf s i := rfl

theorem fwLoaded_spec (b : List Byte) (ok : Bool) (s : State) :
    (fwLoaded b ok s).trust.s2Loaded = true ∧ (fwLoaded b ok s).trust.s2SigOk = ok ∧
      (fwLoaded b ok s).trust.s2Svn = BitVec.ofNat 8 (fieldAt b 12 0 8) ∧ (fwLoaded b ok s).trust.s2Version = BitVec.ofNat 32 (fieldAt b 8 0 32) :=
  ⟨rfl, rfl, rfl, rfl⟩

theorem measOf_fwMeasured (b : List Byte) (s : State) :
    measOf (fwMeasured b s) 3 = sha384 (measOf s 3 ++ sha384 (b.take 64 ++ (b.drop 1024).take (fieldAt b 16 0 32))) ∧
      measOf (fwMeasured b s) 4 = sha384 (measOf s 4 ++ sha384 (b.drop (1024 + fieldAt b 16 0 32))) ∧
      ∀ i, i ≠ 3 → i ≠ 4 → measOf (fwMeasured b s) i = measOf s i := by
  refine ⟨?_, ?_, fun i h3 h4 => ?_⟩
  · rw [fwMeasured, measOf_extendMeas_other (by decide), measOf_extendMeas_same]
  · rw [fwMeasured, measOf_extendMeas_same, measOf_extendMeas_other (by decide)]
  · rw [fwMeasured, measOf_extendMeas_other h4, measOf_extendMeas_other h3]

theorem s2_of_trustRest {s t : State} (h : trustRest t = trustRest s) :
    t.trust.s2Loaded = s.trust.s2Loaded ∧ t.trust.s2SigOk = s.trust.s2SigOk ∧ t.trust.s2Svn = s.trust.s2Svn ∧ t.trust.s2Version = s.trust.s2Version := by
  have hkept := congrArg (fun x : Trust => (x.s2Loaded, x.s2SigOk, x.s2Svn, x.s2Version)) h
  simpa only [trustRest, Prod.mk.injEq] using hkept

theorem mem_fwLoaded_fwMeasured (b : List Byte) (ok : Bool) (s : State) : (fwLoaded b ok (fwMeasured b s)).mem = s.mem :=
  mem_of_outside (by simp [fwLoaded, fwMeasured])

theorem loaded_of_trustRest {b : List Byte} {ok : Bool} {s t : State} (hrest : trustRest t = trustRest (fwLoaded b ok (fwMeasured b s))) :
    t.trust.s2Loaded = true ∧ t.trust.s2SigOk = ok ∧ t.trust.s2Svn = BitVec.ofNat 8 (fieldAt b 12 0 8) ∧
      t.trust.s2Version = BitVec.ofNat 32 (fieldAt b 8 0 32) ∧
      measOf t 3 = sha384 (measOf s 3 ++ sha384 (b.take 64 ++ (b.drop 1024).take (fieldAt b 16 0 32))) ∧
      measOf t 4 = sha384 (measOf s 4 ++ sha384 (b.drop (1024 + fieldAt b 16 0 32))) ∧ ∀ i, i ≠ 3 → i ≠ 4 → measOf t i = measOf s i := by
  obtain ⟨hloaded, hok, hsvn, hversion⟩ := s2_of_trustRest hrest
  obtain ⟨kloaded, kok, ksvn, kversion⟩ := fwLoaded_spec b ok (fwMeasured b s)
  obtain ⟨h3, h4, hother⟩ := measOf_fwMeasured b s
  have hmeas (i : Nat) : measOf t i = measOf (fwMeasured b s) i := (measOf_congr hrest i).trans (measOf_fwLoaded b ok _ i)
  rw [hmeas, hmeas, hloaded, hok, hsvn, hversion]
  exact ⟨kloaded, kok, ksvn, kversion, h3, h4, fun i hi3 hi4 => (hmeas i).trans (hother i hi3 hi4)⟩

theorem fwLoad_started {m : Nat} {s : State} (h : (mailbox s m).state = .serving) (hv : serviceOf (mailbox s m) = some .fwLoad)
    (ha : mctpAnswers s = true) (hreq : fwRequestError s (mailbox s m) = none) (hfilled : unfilledAt s ((mailbox s m).fld 4 0 44) 1 = none)
    (hclean : s.mem.bad = []) (hformat : fwImageError (readBytes s .bar2 ((mailbox s m).fld 4 0 44) 1024) ((mailbox s m).fld 12 0 32) = none)
    {b : List Byte} (hb : readBytes s .bar2 ((mailbox s m).fld 4 0 44) ((mailbox s m).fld 12 0 32) = b) :
    exec (.fwLoad m) s =
      .next (endService m 0 0 (bit (fwVerifies b (fieldAt b 16 0 32))) [] (fwLoaded b (fwVerifies b (fieldAt b 16 0 32)) (fwMeasured b s))) := by
  rw [fwLoad_eq h hv ha, fwServe_filled hreq hfilled, fwFormat_of_clean hclean, hformat, fwBad_of_clean hclean, hb]
  simp only [fwStart_eq]

/-! ### Self-tests -/

theorem mbBist_eq {m : Nat} {s : State} (h : (mailbox s m).state = .serving) (hv : serviceOf (mailbox s m) = some .bist) (ha : mctpAnswers s = true) :
    execMbBist m s =
      .next (if s.bist.running then endService m mrBusy 0 0 [] s
        else if !serviceState s .bist then endService m mrDone stNotAvailable s.ms.mode.code [] s
        else match (dieOfAddr s .iod (bResult (mbBistBody (mailbox s m)))).filter (isFenced s) with
          | some n => endService m mrDone stFenced (2 ^ n) [] s
          | none =>
            match bistError s (mbBistBody (mailbox s m)) with
            | some off => endService m mrDone stDescInvalid off [] s
            | none => bistStart true m none (mbBistBody (mailbox s m)) s) :=
  congrArg Host.Outcome.next ((serve_serving h hv ha _).trans rfl)

theorem mbBist_busy {m : Nat} {s : State} (h : (mailbox s m).state = .serving) (hv : serviceOf (mailbox s m) = some .bist) (ha : mctpAnswers s = true)
    (hrun : s.bist.running = true) : exec (.mbBist m) s = .next (endService m 1 0 0 [] s) :=
  (mbBist_eq h hv ha).trans (congrArg Host.Outcome.next (if_pos hrun))

theorem mbBist_checked {m : Nat} {s : State} (h : (mailbox s m).state = .serving) (hv : serviceOf (mailbox s m) = some .bist)
    (ha : mctpAnswers s = true) (hrun : s.bist.running = false) (hstate : serviceState s .bist = true)
    (hlive : ∀ n, dieOfAddr s .iod (bResult (mbBistBody (mailbox s m))) = some n → isFenced s n = false) :
    exec (.mbBist m) s =
      .next (match bistError s (mbBistBody (mailbox s m)) with
        | some off => endService m 0 9 off [] s
        | none => bistStart true m none (mbBistBody (mailbox s m)) s) := by
  have hnone : (dieOfAddr s .iod (bResult (mbBistBody (mailbox s m)))).filter (isFenced s) = none := by
    rw [Option.filter_eq_none_iff]
    exact fun n hn => by simp [hlive n hn]
  refine (mbBist_eq h hv ha).trans (congrArg Host.Outcome.next ?_)
  rw [if_neg (by simp [hrun]), if_neg (by simp [hstate]), hnone]
  rfl

/-! ### Replies -/

theorem endService_completes (m a b c : Nat) (data : List Byte) (s : State) :
    let x := mailbox s m
    let t := endService m a b c data s
    (x.mctp = true → x.discard = false →
      t.out = s.out ++ announced s ++ [.mailboxReply m x.tag (mbReply a b x.tag c data)] ∧ (mailbox t m).state = .empty) ∧
    (x.mctp = true → x.discard = true → t.out = s.out ∧ (mailbox t m).state = .empty) ∧
    (x.mctp = false →
      (mailbox t m).state = .replied ∧ (mailbox t m).replyValid = true ∧
        (List.range (mbReply a b x.tag c data).length).map (fun i => (mailbox t m).reply.get 0 i) = mbReply a b x.tag c data) ∧
    (∀ k, k ≠ m → mailbox t k = mailbox s k) ∧ t = { s with trust := t.trust, host := t.host, out := t.out } := by
  intro x t
  refine ⟨fun hmctp hkept => ?_, fun hmctp hdiscard => ?_, fun hsoft => ?_, fun k hk => mailbox_endService_other hk a b c data s,
    eq_with_trust_host_out (by simp [t])⟩
  · rw [show t = _ from endService_mctp hmctp hkept a b c data, mailbox_sendMctp, mailbox_setMailbox_same]
    exact ⟨rfl, rfl⟩
  · rw [show t = _ from endService_discarded hmctp hdiscard a b c data, mailbox_setMailbox_same]
    exact ⟨rfl, rfl⟩
  · obtain ⟨hstate, hvalid, hreply, -⟩ := endService_reply hsoft a b c data
    exact ⟨hstate, hvalid, hreply⟩

/-- Settles O57: a service answers what its check finds, and a reply goes to the sender that waits for it. -/
theorem mailboxServicesComplete : Obligations.MailboxServicesComplete := by
  unfold Obligations.MailboxServicesComplete
  refine ⟨⟨fun m s h hv ha => ⟨_, congrArg Host.Outcome.next (serve_serving h hv ha _), rfl⟩,
    fun m s h hv ha => ⟨_, congrArg Host.Outcome.next (serve_serving h hv ha _), rfl⟩, fun m s h hv ha => measExtend_served h hv ha,
    fun m s h hv ha => ⟨_, congrArg Host.Outcome.next (serve_serving h hv ha _), rfl⟩,
    fun m st det s h hv ha hreq => ⟨_, fwLoad_eq h hv ha, fwServe_refused hreq⟩, fun m off s h hv ha hreq hfilled hformat => ⟨_, fwLoad_eq h hv ha, ?_⟩,
    fun a n s h => fwFormat_of_clean h a n, fun m r s h hv ha hreq hfilled hformat hbad => ⟨_, fwLoad_eq h hv ha, ?_⟩,
    fun m s h hv ha hreq hfilled hclean hformat => ?_,
    fun m s h hv ha hrun => ⟨_, mbBist_busy h hv ha hrun, rfl⟩, fun m s h hv ha hrun hstate hlive hok => ⟨_, mbBist_checked h hv ha hrun hstate hlive, ?_⟩,
    fun m off s h hv ha hrun hstate hlive hbad => ⟨_, mbBist_checked h hv ha hrun hstate hlive, ?_⟩⟩,
    fun m a b c data s _ => endService_completes m a b c data s⟩ <;> beta_reduce
  · rw [fwServe_filled hreq hfilled, hformat]
  · obtain ⟨i, u⟩ := r
    rw [fwServe_filled hreq hfilled, hformat, hbad]
  · obtain ⟨hloaded, hok, hsvn, hversion, h3, h4, hother⟩ := loaded_of_trustRest (trustRest_endService m 0 0 (bit _) [] _)
    refine ⟨_, fwLoad_started h hv ha hreq hfilled hclean hformat rfl, hloaded, hok, hsvn, hversion, h3, h4, hother, ?_⟩
    exact (mem_of_outside (endService_outside (by simp) ..)).trans (mem_fwLoaded_fwMeasured ..)
  · rw [hok]
    exact ⟨rfl, rfl, rfl, rfl, rfl⟩
  · rw [hbad]

end Sys2Proof.Machine
end

section
/-! PROOFS. SPDM, DOE and MCTP messages (R450 to R453). -/

namespace Sys2Proof.Machine

/-! ### Mailboxes one after the other -/

theorem mailbox_foldl {f : State → Nat → State} {g : Nat → Mailbox → Mailbox} (hother : ∀ s m k, k ≠ m → mailbox (f s m) k = mailbox s k)
    (hsame : ∀ s m, mailbox (f s m) m = g m (mailbox s m)) {ns : List Nat} (hnodup : ns.Nodup) (s : State) (k : Nat) :
    mailbox (ns.foldl f s) k = if k ∈ ns then g k (mailbox s k) else mailbox s k := by
  induction ns generalizing s with
  | nil => rfl
  | cons m ns ih =>
    obtain ⟨hm, hns⟩ := List.nodup_cons.mp hnodup
    rw [List.foldl_cons, ih hns]
    by_cases hk : k = m
    · subst hk
      rw [if_neg hm, if_pos List.mem_cons_self, hsame]
    · simp only [hother s m k hk, List.mem_cons, hk, false_or]

/-- R453, R458: a mailbox once the requests that came over MCTP are withdrawn. -/
def withdrawnBox (x : Mailbox) : Mailbox :=
  if !x.mctp then x
  else if x.state == .posted then { x with state := .empty }
  else if x.state == .serving then { x with discard := true }
  else x

/-- R453, R458: the request of one mailbox is withdrawn if it came over MCTP. -/
def withdrawBox (s : State) (m : Nat) : State :=
  let x := mailbox s m
  if !x.mctp then s
  else if x.state == .posted then setMailbox m { x with state := .empty } s
  else if x.state == .serving then setMailbox m { x with discard := true } s
  else s

theorem withdrawMctp_eq (s : State) : withdrawMctp s = (List.range 16).foldl withdrawBox s := rfl

theorem mailbox_withdrawBox_same (s : State) (m : Nat) : mailbox (withdrawBox s m) m = withdrawnBox (mailbox s m) := by
  simp only [withdrawBox, withdrawnBox]
  split_ifs <;> simp only [mailbox_setMailbox_same]

theorem mailbox_withdrawBox_other (s : State) {m k : Nat} (h : k ≠ m) : mailbox (withdrawBox s m) k = mailbox s k := by
  simp only [withdrawBox]
  split_ifs <;> simp only [mailbox_setMailbox_other _ _ h]

theorem mailbox_withdrawMctp (s : State) (k : Nat) :
    mailbox (withdrawMctp s) k = if k < 16 then withdrawnBox (mailbox s k) else mailbox s k := by
  rw [withdrawMctp_eq, mailbox_foldl (g := fun _ => withdrawnBox) (fun s m k h => mailbox_withdrawBox_other s h) mailbox_withdrawBox_same List.nodup_range]
  simp only [List.mem_range]

/-- What a withdrawal leaves of the mailboxes, in a state with those mailboxes. -/
theorem withdrawn_boxes {s t : State} (h : ∀ m, mailbox t m = mailbox (withdrawMctp s) m) :
    (∀ m < 16, (mailbox s m).mctp = true → (mailbox s m).state = .posted → (mailbox t m).state = .empty) ∧
      (∀ m < 16, (mailbox s m).mctp = true → (mailbox s m).state = .serving → (mailbox t m).discard = true) ∧
      ∀ m, (mailbox s m).mctp = false → mailbox t m = mailbox s m := by
  simp only [h, mailbox_withdrawMctp]
  refine ⟨fun m hm hmctp hstate => ?_, fun m hm hmctp hstate => ?_, fun m hsoft => ?_⟩
  · simp [hm, withdrawnBox, hmctp, hstate]
  · simp [hm, withdrawnBox, hmctp, hstate]
  · simp [withdrawnBox, hsoft]

theorem trustRest_withdrawMctp (s : State) : trustRest (withdrawMctp s) = trustRest s := by
  rw [withdrawMctp_eq]
  refine eq_foldl_of_step (φ := trustRest) (fun s m => ?_) _ s
  simp only [withdrawBox]
  split_ifs <;> rfl

/-! ### SPDM -/

theorem inOrder_answered {k : Transport} {ok : Spdm → Bool} {s : State} (ha : transportAnswers s k = true) (hok : ok (spdmOf s k) = true)
    (f : State → State) : inOrder k ok f s = f s := by
  rw [inOrder, if_neg (by simp [ha]), if_pos hok]

@[simp] theorem spdmOf_setSpdm (k : Transport) (x : Spdm) (s : State) : spdmOf (setSpdm k x s) k = x := by cases k <;> rfl

@[simp] theorem spdmOf_sendSpdm (k : Transport) (r : SpdmReply) (s : State) : spdmOf (sendSpdm k r s) k = spdmOf s k := by cases k <;> rfl

@[simp] theorem spdmOf_respond (k : Transport) (q : SpdmRequest) (r : SpdmReply) (s : State) :
    spdmOf (respond k q r s) k = { spdmOf s k with transcript := (spdmOf s k).transcript ++ [(q, r)] } := by
  simp only [respond, spdmOf_sendSpdm, spdmOf_setSpdm]

/-- What a response to a request that moves the exchange on leaves of all but TRUST. -/
theorem respond_setSpdm (k : Transport) (q : SpdmRequest) (r : SpdmReply) (x : Spdm) (s : State) :
    let t := respond k q r (setSpdm k x s)
    t = { s with trust := t.trust, out := s.out ++ (if k = .mctp then announced s else []) ++ [.spdm k r] } := by
  cases k
  · simp [respond, setSpdm, sendSpdm, spdmOf, setTrust, emit]
  · rfl

theorem length_beBytes (len n : Nat) : (beBytes len n).length = len := by simp [beBytes, length_leBytes]

theorem freeBytes_spec (n : Nat) (s : State) : ∃ own c, freeBytes n s = (own, { s with freeCtr := c }) ∧ own.length = n :=
  ⟨_, _, rfl, by rw [List.length_map, List.length_range]⟩

theorem signTranscript_spec (k : Transport) (q : SpdmRequest) (r : SpdmReply) (s : State) :
    ∃ sig c, signTranscript k q r s = (sig, { s with freeCtr := c }) ∧ sig.length = 96 := by
  obtain ⟨j, c, hchoose, -⟩ := choose_spec (curveN - 1) s
  have hsnd : (signTranscript k q r s).2 = (choose (curveN - 1) s).2 := by simp only [signTranscript, aliasSign]
  refine ⟨(signTranscript k q r s).1, c, Prod.ext rfl (hsnd.trans (congrArg Prod.snd hchoose)), ?_⟩
  simp only [signTranscript, aliasSign, List.length_append, length_beBytes]

theorem negotiateAlgorithms_ordered {k : Transport} {s : State} (ha : transportAnswers s k = true) (hcaps : (spdmOf s k).caps = true) (a b c : Bool) :
    Completes (.negotiateAlgorithms k ⟨a, b⟩ c) s fun t =>
      (a = true ∧ b = true ∧ c = true →
        t = respond k (.negotiateAlgorithms true true true) (.algorithms spdmAlgs) (setSpdm k { spdmOf s k with algs := true } s)) ∧
        (a = false ∨ b = false ∨ c = false → t = sendSpdm k (.error .invalidRequest) s) := by
  refine ⟨_, congrArg Host.Outcome.next (inOrder_answered ha hcaps _), fun h => if_pos ?_, fun h => if_neg ?_⟩
  · simp [h]
  · rcases h with h | h | h <;> simp [h]

theorem getCertificate_ordered {k : Transport} {s : State} (ha : transportAnswers s k = true) (halgs : (spdmOf s k).algs = true) (slot off len : Nat) :
    Completes (.getCertificate k slot off len) s fun t =>
      let p := ((chainBytes s).drop off).take (min len (certRoom k))
      (slot = 0 → off ≤ (chainBytes s).length →
        t = respond k (.getCertificate 0 off len) (.certificate 0 p ((chainBytes s).length - off - p.length)) s) ∧
        (slot ≠ 0 ∨ (chainBytes s).length < off → t = sendSpdm k (.error .invalidRequest) s) := by
  refine ⟨_, congrArg Host.Outcome.next (inOrder_answered ha halgs _), fun hslot hoff => ?_, fun h => if_pos ?_⟩
  · subst hslot
    refine if_neg ?_
    simpa using hoff
  · simpa using h

theorem challenge_ordered {k : Transport} {s : State} (ha : transportAnswers s k = true) (halgs : (spdmOf s k).algs = true) (sm : Summary)
    (nonce : List Byte) :
    Completes (.challenge k 0 sm nonce) s fun t =>
      ∃ own sig, own.length = 32 ∧ sig.length = 96 ∧ ∃ u,
        t = respond k (.challenge 0 sm nonce) (.challengeAuth 0 (sha384 (chainBytes s)) own (summaryHash s sm) sig) u ∧
          u = { s with freeCtr := u.freeCtr } := by
  obtain ⟨own, c, hown, hlen⟩ := freeBytes_spec 32 s
  obtain ⟨sig, c', hsig, hlen'⟩ := signTranscript_spec k (.challenge 0 sm nonce) (.challengeAuth 0 (sha384 (chainBytes s)) own (summaryHash s sm) [])
    { s with freeCtr := c }
  refine ⟨_, congrArg Host.Outcome.next (inOrder_answered ha halgs _), own, sig, hlen, hlen', { s with freeCtr := c' }, ?_, rfl⟩
  rw [if_neg (by simp), hown]
  simp only [hsig]

theorem getMeasurements_signed {k : Transport} {op : Nat} {ix : List Nat} {s : State} (ha : transportAnswers s k = true)
    (halgs : (spdmOf s k).algs = true) (hop : measOperation op = some ix) (nonce : List Byte) :
    Completes (.getMeasurements k op true nonce) s fun t =>
      ∃ own sig, own.length = 32 ∧ sig.length = 96 ∧ ∃ u,
        t = respond k (.getMeasurements op true nonce) (.measurements 7 (ix.map (measBlock s)) (some (own, sig))) u ∧
          u = { s with freeCtr := u.freeCtr } := by
  obtain ⟨own, c, hown, hlen⟩ := freeBytes_spec 32 s
  obtain ⟨sig, c', hsig, hlen'⟩ := signTranscript_spec k (.getMeasurements op true nonce) (.measurements 7 (ix.map (measBlock s)) (some (own, [])))
    { s with freeCtr := c }
  refine ⟨_, congrArg Host.Outcome.next (inOrder_answered ha halgs _), own, sig, hlen, hlen', { s with freeCtr := c' }, ?_, rfl⟩
  simp only [hop, if_true, hown, hsig]

/-! ### MCTP control -/

theorem announced_of_trustRest {s t : State} (h : trustRest t = trustRest s) : announced t = announced s := by
  have haddr : t.trust.i3cAddr = s.trust.i3cAddr := by
    have heq := congrArg Trust.i3cAddr h
    exact heq
  rw [announced, haddr, announced]

theorem mctp_of_trustRest {s t : State} (h : trustRest t = trustRest s) : t.trust.mctp = s.trust.mctp := by
  have heq := congrArg Trust.mctp h
  exact heq

/-- R453: the endpoint ID is set and the answer sent. -/
def eidSet (e : Byte) (s : State) : State := sendMctp (.mctpControl (.setEid e true)) (setTrust { s.trust with eid := e } s)

theorem eidSet_spec (e : Byte) (s : State) :
    (eidSet e s).trust.eid = e ∧ (eidSet e s).trust.mctp = s.trust.mctp ∧
      (eidSet e s).out = s.out ++ announced s ++ [.mctpControl (.setEid e true)] ∧ ∀ m, mailbox (eidSet e s) m = mailbox s m :=
  ⟨rfl, rfl, rfl, fun _ => rfl⟩

theorem setEndpointId_taken {e : Byte} {s : State} (ha : mctpAnswers s = true) (h0 : e ≠ 0) (hff : e ≠ 0xFF) :
    Completes (.setEndpointId e) s fun t =>
      t.trust.eid = e ∧ t.trust.mctp = .reset ∧ t.out = s.out ++ announced s ++ [.mctpControl (.setEid e true)] ∧
        (∀ m < 16, (mailbox s m).mctp = true → (mailbox s m).state = .posted → (mailbox t m).state = .empty) ∧
        (∀ m < 16, (mailbox s m).mctp = true → (mailbox s m).state = .serving → (mailbox t m).discard = true) ∧
        ∀ m, (mailbox s m).mctp = false → mailbox t m = mailbox s m := by
  have hrun : exec (.setEndpointId e) s =
      .next (eidSet e (withdrawMctp (setSpdm .mctp .reset s))) := by
    refine congrArg Host.Outcome.next ((if_neg (by simp [ha])).trans ?_)
    have hok : (e != 0 && e != 0xFF) = true := by
      rw [Bool.and_eq_true, bne_iff_ne, bne_iff_ne]
      exact ⟨h0, hff⟩
    simp only [hok, if_true]
    rfl
  have hrest := trustRest_withdrawMctp (setSpdm .mctp .reset s)
  have hmctp : (withdrawMctp (setSpdm .mctp .reset s)).trust.mctp = .reset := mctp_of_trustRest hrest
  have hannounced : announced (withdrawMctp (setSpdm .mctp .reset s)) = announced s := (announced_of_trustRest hrest).trans rfl
  have hout : (withdrawMctp (setSpdm .mctp .reset s)).out = s.out := (out_of_outside (withdrawMctp_outside (by simp) _)).trans rfl
  obtain ⟨heid, hmctp', hout', hboxes⟩ := eidSet_spec e (withdrawMctp (setSpdm .mctp .reset s))
  refine ⟨_, hrun, heid, hmctp'.trans hmctp, ?_, withdrawn_boxes (s := setSpdm .mctp .reset s) hboxes⟩
  exact hout'.trans (by rw [hout, hannounced])

/-- Settles O58: a request in its order is answered and joins its transcript, one out of it or with a field amiss is refused. -/
theorem managementMessagesComplete : Obligations.ManagementMessagesComplete := by
  unfold Obligations.ManagementMessagesComplete
  refine ⟨fun k s ha => ⟨_, congrArg Host.Outcome.next (if_pos ha), ?_, respond_setSpdm ..⟩,
    fun k flags ct size room s ha hv => ⟨_, congrArg Host.Outcome.next (inOrder_answered ha hv _), ?_, respond_setSpdm ..⟩,
    fun k a b c s ha hcaps => negotiateAlgorithms_ordered ha hcaps a b c,
    fun k s ha halgs => ⟨_, congrArg Host.Outcome.next (inOrder_answered ha halgs _), rfl⟩,
    fun k slot off len s ha halgs => getCertificate_ordered ha halgs slot off len, fun k sm nonce s ha halgs => challenge_ordered ha halgs sm nonce,
    fun k slot sm nonce s ha halgs hslot => ⟨_, congrArg Host.Outcome.next (inOrder_answered ha halgs _), if_pos (by simpa using hslot)⟩,
    fun k op ix nonce s ha halgs hop => ⟨_, congrArg Host.Outcome.next (inOrder_answered ha halgs _), ?_⟩,
    fun k op ix nonce s ha halgs hop => getMeasurements_signed ha halgs hop nonce,
    fun k op sg nonce s ha halgs hop => ⟨_, congrArg Host.Outcome.next (inOrder_answered ha halgs _), ?_⟩,
    fun k code s ha => ⟨_, congrArg Host.Outcome.next (if_pos ha), rfl⟩, fun s hs => ⟨_, congrArg Host.Outcome.next (if_pos hs), rfl⟩,
    fun s hs => ⟨_, congrArg Host.Outcome.next (if_neg (by simp [hs])), rfl⟩, fun s hs => ⟨_, congrArg Host.Outcome.next (if_neg (by simp [hs])), rfl⟩,
    fun e s ha h0 hff => setEndpointId_taken ha h0 hff, fun s ha => ⟨_, congrArg Host.Outcome.next (if_pos ha), rfl⟩,
    fun s ha => ⟨_, congrArg Host.Outcome.next (if_pos ha), rfl⟩, fun s ha => ⟨_, congrArg Host.Outcome.next (if_pos ha), rfl⟩,
    fun o s => rfl, fun s h => ?_, fun a s h => ?_⟩
  · rw [spdmOf_respond, spdmOf_setSpdm]
    rfl
  · rw [spdmOf_respond, spdmOf_setSpdm]
  · beta_reduce
    rw [hop]
    rfl
  · beta_reduce
    rw [hop]
  · rw [announced, h]
  · rw [announced, h]

end Sys2Proof.Machine
end

section
/-! PROOFS. I3C, JTAG, the setup lock, the watchdog and the restart of the management controller (R458, R464, R481, R482, R492). -/

namespace Sys2Proof.Machine

/-! ### I3C -/

theorem eq_with_trust {s t : State} (h : outside [.trust] t = outside [.trust] s) : t = { s with trust := t.trust } := by
  have heq := congrArg (fun u => { u with trust := t.trust }) h
  exact heq

theorem i3cTargetReset_withdraws {s : State} (ha : i3cAnswers s = true) :
    Completes .i3cTargetReset s fun t =>
      t = { s with trust := t.trust } ∧
        (∀ m < 16, (mailbox s m).mctp = true → (mailbox s m).state = .posted → (mailbox t m).state = .empty) ∧
        ∀ m, (mailbox s m).mctp = false → mailbox t m = mailbox s m := by
  obtain ⟨hposted, -, hsoft⟩ := withdrawn_boxes (s := s) (t := withdrawMctp s) fun m => rfl
  exact ⟨_, congrArg Host.Outcome.next (if_pos ha), eq_with_trust (withdrawMctp_outside (by simp) s), hposted, hsoft⟩

/-! ### JTAG -/

theorem inService_of_kindling {s : State} (h : s.ms.mode = .kindling) : inService s = true := by
  rw [inService, h]

theorem extest_acts {s : State} (hk : s.ms.mode = .kindling) (hlock : s.trust.lock = false) :
    exec .extest s =
      .next (if s.jtag.later.isEmpty then setJtag { s.jtag with ir := .extest } s
        else emit (.tdo (boundaryCapture (setJtag { s.jtag with ir := .extest } s)))
          { s with jtag := { ir := .extest, preload := s.jtag.later.take 30, later := s.jtag.later.drop 30 } }) := by
  refine congrArg Host.Outcome.next ((if_neg (by simp [inService_of_kindling hk])).trans ((if_neg ?_).trans rfl))
  simp [extestActs, hk, hlock]

theorem extest_bypassed {s : State} (hs : inService s = true) (h : s.ms.mode ≠ .kindling ∨ s.trust.lock = true) :
    exec .extest s = .next { s with jtag := { s.jtag with ir := .bypass } } := by
  have hno : extestActs s = false := by
    rw [extestActs, Bool.and_eq_false_iff]
    exact h.imp (fun hk => by simpa using hk) (fun hlock => by simp [hlock])
  exact congrArg Host.Outcome.next ((if_neg (by simp [hs])).trans (if_pos (by simp [hno])))

/-! ### The setup lock -/

theorem secSetupLockWrite_eq {v : Word} {s : State} (hs : inService s = true) :
    exec (.secSetupLockWrite v) s = .next (writeLock v (writeLogged 0x160000 v.toNat s)) :=
  congrArg Host.Outcome.next (bar0Write_eq_writeLogged hs)

theorem writeLock_sets {v : Word} {s : State} (hv : v.getLsbD 0 = true) (hlock : s.trust.lock = false) :
    writeLock v s = extendMeas 5 (sha384 (leBytes 4 s.trust.mask.toNat)) (setTrust { s.trust with lock := true } s) :=
  if_pos (by simp only [hv, hlock]; rfl)

theorem writeLock_idle {v : Word} {s : State} (h : v.getLsbD 0 = false ∨ s.trust.lock = true) : writeLock v s = s := by
  refine if_neg ?_
  rcases h with h | h <;> simp only [h] <;> simp

/-- What the lock and the measurement of its mask leave of TRUST. -/
theorem extendMeas_kept (i : Nat) (d : List Byte) (s : State) :
    extendMeas i d s = { s with trust := (extendMeas i d s).trust } ∧ (extendMeas i d s).trust.lock = s.trust.lock ∧
      (extendMeas i d s).trust.mask = s.trust.mask :=
  ⟨rfl, rfl, rfl⟩

theorem secSetupLockWrite_locks {v : Word} {s : State} (hs : inService s = true) :
    let s1 := writeLogged 0x160000 v.toNat s
    v.getLsbD 0 = true → s1.trust.lock = false →
    Completes (.secSetupLockWrite v) s fun t =>
      t = { s1 with trust := t.trust } ∧ t.trust.lock = true ∧
        measOf t 5 = sha384 (measOf s1 5 ++ sha384 (leBytes 4 s1.trust.mask.toNat)) ∧ (∀ i, i ≠ 5 → measOf t i = measOf s1 i) ∧
        t.trust.mask = s1.trust.mask := by
  intro s1 hv hlock
  refine ⟨_, secSetupLockWrite_eq hs, ?_⟩
  beta_reduce
  rw [writeLock_sets hv hlock]
  generalize sha384 (leBytes 4 s1.trust.mask.toNat) = d
  obtain ⟨heq, hlocked, hmask⟩ := extendMeas_kept 5 d (setTrust { s1.trust with lock := true } s1)
  exact ⟨heq, hlocked, measOf_extendMeas_same .., fun i hi => measOf_extendMeas_other hi .., hmask⟩

/-! ### The watchdog -/

/-- R458: a mailbox whose request is aborted as the management controller restarts. -/
def abortedBox (x : Mailbox) : Mailbox :=
  if x.state != .posted && x.state != .serving then x
  else if x.mctp then { x with state := .empty, discard := false }
  else { x with state := .replied, replyValid := true, aborted := true, reply := putReply (mbReply mrAborted stAborted x.tag 0 []) 0 x.reply }

theorem mailbox_abortMailbox_same (m : Nat) (s : State) : mailbox (abortMailbox m s) m = abortedBox (mailbox s m) := by
  simp only [abortMailbox, abortedBox]
  split_ifs
  · rfl
  · exact mailbox_setMailbox_same ..
  · exact mailbox_setMailbox_same ..
  · rw [mailbox_mbVector, mailbox_setMailbox_same]
    rfl

theorem mailbox_abortMailbox_other {m k : Nat} (h : k ≠ m) (s : State) : mailbox (abortMailbox m s) k = mailbox s k := by
  simp only [abortMailbox]
  split_ifs
  · rfl
  · exact mailbox_setMailbox_other _ _ h
  · exact mailbox_setMailbox_other _ _ h
  · rw [mailbox_mbVector, mailbox_setMailbox_other _ _ h]

theorem watchdogExpiry_late {s : State} (hs : inService s = true) (hen : s.wdog.en = true) (hrun : s.trust.restarting = false)
    (hlate : s.wdog.restart + 1000000 * s.wdog.timeoutMs.toNat < s.clk) : exec .watchdogExpiry s = .next (jobFault 12 (restartKolnu s)) := by
  refine congrArg Host.Outcome.next (if_pos ?_)
  rw [hen, hs, hrun, decide_eq_true hlate]
  rfl

/-- R458: the management controller restarts, its mailboxes aborted. -/
def kolnuDown (s : State) : State :=
  { setTrust { s.trust with restarting := true } s with bist := if s.bist.mailbox then { s.bist with mb := 16 } else s.bist }

theorem restartKolnu_eq (s : State) : restartKolnu s = kolnuDown ((List.range 16).foldl (fun s m => abortMailbox m s) s) := rfl

theorem kolnuDown_spec (s : State) : (kolnuDown s).trust.restarting = true ∧ ∀ m, mailbox (kolnuDown s) m = mailbox s m := ⟨rfl, fun _ => rfl⟩

theorem restartKolnu_spec (s : State) :
    (restartKolnu s).ms = s.ms ∧ (restartKolnu s).mem = s.mem ∧ (restartKolnu s).trust.restarting = true ∧
      ∀ m < 16, mailbox (restartKolnu s) m = abortedBox (mailbox s m) := by
  obtain ⟨hrestart, hboxes⟩ := kolnuDown_spec ((List.range 16).foldl (fun s m => abortMailbox m s) s)
  refine ⟨ms_of_outside (restartKolnu_outside (by simp) s), mem_of_outside (restartKolnu_outside (by simp) s), ?_, fun m hm => ?_⟩ <;>
    rw [restartKolnu_eq]
  · exact hrestart
  · rw [hboxes, mailbox_foldl (g := fun _ => abortedBox) (fun s m k h => mailbox_abortMailbox_other h s) (fun s m => mailbox_abortMailbox_same m s)
      List.nodup_range, if_pos (List.mem_range.mpr hm)]

theorem watchdogExpiry_full {s : State} (hen : s.wdog.en = true) (hrun : s.trust.restarting = false)
    (hlate : s.wdog.restart + 1000000 * s.wdog.timeoutMs.toNat < s.clk) (hfull : s.ms.mode = .full) :
    Completes .watchdogExpiry s fun t =>
      t.ms.mode = .fenced ∧ t.ms.cause = 12 ∧ t.trust.restarting = true ∧ t.mem = s.mem ∧
        (∀ m < 16, (mailbox s m).mctp = false → (mailbox s m).state = .posted → (mailbox t m).state = .replied ∧ (mailbox t m).aborted = true) := by
  obtain ⟨hms, hmem, hrestart, hboxes⟩ := restartKolnu_spec s
  have htrust : (jobFault 12 (restartKolnu s)).trust = (restartKolnu s).trust := trust_of_outside (jobFault_outside (by simp) ..)
  have hmode := jobFault_ms_full (cause := 12) (s := restartKolnu s) (by rw [hms, hfull])
  refine ⟨_, watchdogExpiry_late (by rw [inService, hfull]) hen hrun hlate, ?_, ?_, ?_, ?_, fun m hm hsoft hposted => ?_⟩
  · rw [hmode]
  · rw [hmode]
  · rw [htrust, hrestart]
  · exact (mem_of_outside (jobFault_outside (by simp) ..)).trans hmem
  · rw [mailbox_congr htrust, hboxes m hm]
    simp [abortedBox, hsoft, hposted]

theorem watchdogExpiry_kindling {s : State} (hen : s.wdog.en = true) (hrun : s.trust.restarting = false)
    (hlate : s.wdog.restart + 1000000 * s.wdog.timeoutMs.toNat < s.clk) (hk : s.ms.mode = .kindling) :
    Completes .watchdogExpiry s fun t => t.ms = s.ms ∧ t.trust.restarting = true := by
  obtain ⟨hms, -, hrestart, -⟩ := restartKolnu_spec s
  have hquiet : jobFault 12 (restartKolnu s) = restartKolnu s := by
    rw [jobFault, hms, hk]
  exact ⟨_, watchdogExpiry_late (inService_of_kindling hk) hen hrun hlate, by rw [hquiet, hms], by rw [hquiet, hrestart]⟩

theorem foldl_sendMctp (rs : List (Nat × BitVec 16 × List Byte)) (s : State) :
    rs.foldl (fun s r => sendMctp (.mailboxReply r.1 r.2.1 r.2.2) s) s =
      { s with out := s.out ++ rs.flatMap fun r => announced s ++ [.mailboxReply r.1 r.2.1 r.2.2] } := by
  induction rs generalizing s with
  | nil => simp
  | cons r rs ih =>
    rw [List.foldl_cons, ih]
    simp [sendMctp, announced, List.append_assoc]

theorem managementRestartDone_answers {s : State} (h : s.trust.restarting = true) (hoff : s.ms.mode ≠ .off) :
    Completes .managementRestartDone s fun t =>
      t = { s with trust := { s.trust with restarting := false, owed := [] }, pins := { s.pins with standbyReady := true },
                   wdog := { s.wdog with restart := s.clk },
                   out := s.out ++ s.trust.owed.flatMap fun r => announced s ++ [.mailboxReply r.1 r.2.1 r.2.2] } :=
  ⟨_, congrArg Host.Outcome.next (if_neg (by simp [h, hoff])), foldl_sendMctp ..⟩

/-- Settles O59: each command acts where its guard holds, on its own part of the state. -/
theorem managementPinsComplete : Obligations.ManagementPinsComplete := by
  unfold Obligations.ManagementPinsComplete
  refine ⟨fun s ha => i3cTargetReset_withdraws ha, fun a s ha hfree => ⟨_, congrArg Host.Outcome.next (if_pos ?_), rfl⟩,
    fun static a s hne => ⟨_, congrArg Host.Outcome.next (if_neg ?_), rfl⟩, fun a s ha hfree => ⟨_, congrArg Host.Outcome.next (if_pos ?_), rfl⟩,
    fun static a b s hb => ⟨⟨_, congrArg Host.Outcome.next (if_neg ?_), rfl⟩, ⟨_, congrArg Host.Outcome.next (if_neg ?_), rfl⟩⟩,
    fun s hs => ⟨_, congrArg Host.Outcome.next (if_pos hs), rfl⟩, fun a b s hs => ⟨_, congrArg Host.Outcome.next (if_pos hs), rfl⟩,
    fun s hk hlock hlater => ⟨_, extest_acts hk hlock, if_pos (by rw [hlater]; rfl)⟩,
    fun s hk hlock hlater => ⟨_, extest_acts hk hlock, if_neg (by simpa using hlater)⟩, fun s hs h => ⟨_, extest_bypassed hs h, rfl⟩,
    fun s hs => ⟨_, congrArg Host.Outcome.next (if_pos hs), rfl⟩, fun s hs => ⟨_, congrArg Host.Outcome.next (if_pos hs), rfl⟩,
    fun v s hs => secSetupLockWrite_locks hs, fun v s hs => fun h => ⟨_, secSetupLockWrite_eq hs, writeLock_idle h⟩,
    fun s hen hrun => ⟨_, congrArg Host.Outcome.next (if_pos (by simp [hen, hrun])), rfl⟩,
    fun s hen hrun hlate hfull => watchdogExpiry_full hen hrun hlate hfull, fun s hen hrun hlate hk => watchdogExpiry_kindling hen hrun hlate hk,
    fun s h hoff => managementRestartDone_answers h hoff⟩
  · simp [ha, hfree, i3cStatic]
  · simp only [beq_eq_false_iff_ne.mpr (show static ≠ i3cStatic from hne), Bool.and_false, Bool.false_and, Bool.false_eq_true, not_false_eq_true]
  · simp [ha, hfree]
  · simp [hb]
  · simp [hb]

end Sys2Proof.Machine
end

section
/-! PROOFS. Writes of BAR0 (R10, R11, R308, R380, R419, R480, R489 to R495). -/

namespace Sys2Proof.Machine

/-! ### GPIO -/

/-- R480: the pins with the levels and directions that IOD_GPIO asks for. -/
def gpioPins (v : Word) (s : State) : Pins :=
  { s.pins with oe0 := v.getLsbD 0, oe1 := v.getLsbD 1, out0 := v.getLsbD 2, out1 := v.getLsbD 3, ftpOut := v.getLsbD 7 }

/-- R10: the pin of Field Time pulses goes to GPIO. -/
def grantFtp (s : State) : State := { s with pins := { s.pins with ftpOe := true } }

theorem writeGpio_eq (v : Word) (s : State) :
    writeGpio v s =
      if !v.getLsbD 6 then { s with pins := { gpioPins v s with ftpOe := false } }
      else if s.pins.ftpOe then { s with pins := gpioPins v s }
      else claimLow 0 grantFtp { s with pins := gpioPins v s } := rfl

theorem iodGpioWrite_eq {v : Word} {s : State} (hs : inService s = true) :
    exec (.iodGpioWrite v) s = .next (writeGpio v (writeLogged 0x71000 v.toNat s)) :=
  congrArg Host.Outcome.next (bar0Write_eq_writeLogged hs)

theorem writeGpio_on {v : Word} {s : State} (hv : v.getLsbD 6 = true) (hfree : s.ft.outEn = false) :
    writeGpio v s = { s with pins := { gpioPins v s with ftpOe := true } } := by
  rw [writeGpio_eq, hv]
  cases hoe : s.pins.ftpOe
  case false =>
    have hholder : claimHolder { s with pins := gpioPins v s } 0 ≠ 1 := by simp [claimHolder, hfree, gpioPins, hoe]
    rw [if_neg (by simp), if_neg (by simp), claimLow, if_neg hholder]
    rfl
  case true =>
    have hpins : gpioPins v s = { gpioPins v s with ftpOe := true } := by rw [gpioPins, hoe]
    rw [if_neg (by simp), if_pos rfl, ← hpins]

theorem writeGpio_refused {v : Word} {s : State} (hv : v.getLsbD 6 = true) (hoe : s.pins.ftpOe = false) (hheld : s.ft.outEn = true) :
    writeGpio v s = claimEvent 0 0 2 1 { s with pins := gpioPins v s } := by
  have hholder : claimHolder { s with pins := gpioPins v s } 0 = 1 := by simp [claimHolder, hheld]
  rw [writeGpio_eq, hv, hoe, if_neg (by simp), if_neg (by simp), claimLow, if_pos hholder]

/-! ### The watchdog timer -/

/-- R491: the timer with the timeout that IOD_WDOG asks for. -/
def wdogTimed (v : Word) (s : State) : State := { s with wdog := { s.wdog with timeoutMs := BitVec.ofNat 8 (max 10 (bitsOf v.toNat 8 8)) } }

/-- R491: the timer counts from now. -/
def wdogRestarted (v : Word) (s : State) : State :=
  { wdogTimed v s with wdog := { (wdogTimed v s).wdog with restart := s.clk } }

theorem writeWdog_eq (v : Word) (s : State) :
    writeWdog v s =
      if !v.getLsbD 0 then { wdogTimed v s with wdog := { (wdogTimed v s).wdog with en := false } }
      else if s.wdog.en then wdogTimed v s
      else if s.pwr.seqEn then timerDisplaced (claimHigh 1 (wdogRestarted v s)) else claimHigh 1 (wdogRestarted v s) := rfl

theorem iodWdogWrite_eq {v : Word} {s : State} (hs : inService s = true) :
    exec (.iodWdogWrite v) s = .next (writeWdog v (writeLogged 0x30 v.toNat s)) :=
  congrArg Host.Outcome.next (bar0Write_eq_writeLogged hs)

theorem writeWdog_off {v : Word} (hv : v.getLsbD 0 = false) (s : State) :
    writeWdog v s = { wdogTimed v s with wdog := { (wdogTimed v s).wdog with en := false } } := by
  rw [writeWdog_eq, hv]
  rfl

theorem writeWdog_running {v : Word} {s : State} (hv : v.getLsbD 0 = true) (hen : s.wdog.en = true) : writeWdog v s = wdogTimed v s := by
  rw [writeWdog_eq, hv, hen]
  rfl

theorem writeWdog_free {v : Word} {s : State} (hv : v.getLsbD 0 = true) (hen : s.wdog.en = false) (hseq : s.pwr.seqEn = false) :
    writeWdog v s = { s with wdog := { s.wdog with timeoutMs := BitVec.ofNat 8 (max 10 (bitsOf v.toNat 8 8)), en := true, restart := s.clk } } := by
  have hholder : claimHolder (wdogRestarted v s) 1 ≠ 2 := by simp [claimHolder, wdogRestarted, wdogTimed, hen, hseq]
  rw [writeWdog_eq, hv, hen, hseq, if_neg (by simp), if_neg (by simp), if_neg (by simp), claimHigh, if_neg hholder]
  rfl

/-- R494: the timer takes the clocks from the sequencer. -/
def wdogTakes (v : Word) (s : State) : State := claimTake 1 (claimDrop 1 (wdogRestarted v s))

theorem writeWdog_displaces {v : Word} {s : State} (hv : v.getLsbD 0 = true) (hen : s.wdog.en = false) (hseq : s.pwr.seqEn = true) :
    writeWdog v s = timerDisplaced (claimEvent 1 1 2 1 (wdogTakes v s)) := by
  have hholder : claimHolder (wdogRestarted v s) 1 = 2 := by simp [claimHolder, wdogRestarted, wdogTimed, hen, hseq]
  rw [writeWdog_eq, hv, hen, hseq, if_neg (by simp), if_neg (by simp), if_pos rfl, claimHigh, if_pos hholder, wdogTakes]

/-! ### The sequencer displaced -/

/-- R11: what the record of the first conflict says. -/
def conflictOf (s : State) : Bool × Bool × Nat × Nat × Nat × Nat :=
  (s.claims.conflict, s.claims.valid, s.claims.resource, s.claims.kind, s.claims.claimant, s.claims.holder)

theorem claims_raiseVector (v : Nat) (s : State) : (raiseVector v s).claims = s.claims := claims_of_outside (raiseVector_outside (by simp) ..)

theorem conflictOf_claimEvent_first {s : State} (h : s.claims.valid = false) (resource kind claimant holder : Nat) :
    conflictOf (claimEvent resource kind claimant holder s) = (true, true, resource, kind, claimant, holder) := by
  simp [conflictOf, claimEvent, claims_raiseVector, h]

theorem conflictOf_claimEvent_later {s : State} (hc : s.claims.conflict = true) (hv : s.claims.valid = true) (resource kind claimant holder : Nat) :
    conflictOf (claimEvent resource kind claimant holder s) = conflictOf s := by
  simp [conflictOf, claimEvent, claims_raiseVector, hc, hv]

theorem claimEvent_noted (resource kind claimant holder : Nat) (s : State) :
    (claimEvent resource kind claimant holder s).claims.conflict = true ∧ (claimEvent resource kind claimant holder s).claims.valid = true := by
  simp only [claimEvent, claims_raiseVector]
  cases h : s.claims.valid <;> simp

/-- R494: a die whose walk has taken no step. -/
def walkWaits (s : State) (n : Nat) : Bool := (pwrDie s n).walking && !(pwrDie s n).stepped

/-- R494: an OP_SET that waits for walks alone that have taken no step is done. -/
def displaceOpSet (s0 s : State) (d : Desc) : State :=
  match d.op, copyAt d .host with
  | some .opSet, some c =>
    if c.st == .running && c.stage == 1 && d.outcome.isNone && (opSetDies s0 d).all fun n => !(pwrDie s0 n).walking || walkWaits s0 n then
      claimEvent 1 2 2 1 (finishCopy d.ref .host (Report.of stClaimConflict 1) s)
    else s
  | _, _ => s

/-- R494: a walk that has taken no step ends. -/
def stopWalk (s0 s : State) (n : Nat) : State :=
  if walkWaits s0 n then setPwrDie n { pwrDie s n with walking := false, goal := (pwrDie s n).mhz } s else s

theorem timerDisplaced_eq (s : State) :
    timerDisplaced s = (List.range 4).foldl (stopWalk s) (s.descs.foldl (displaceOpSet s) s) := rfl

theorem displaceOpSet_cases (s0 s : State) (d : Desc) :
    displaceOpSet s0 s d = s ∨ ∃ rep, displaceOpSet s0 s d = claimEvent 1 2 2 1 (finishCopy d.ref .host rep s) := by
  unfold displaceOpSet
  split
  · split
    · exact .inr ⟨_, rfl⟩
    · exact .inl rfl
  · exact .inl rfl

theorem displaceOpSet_kept (s0 s : State) (d : Desc) : (displaceOpSet s0 s d).pwr = s.pwr ∧ (displaceOpSet s0 s d).wdog = s.wdog := by
  rcases displaceOpSet_cases s0 s d with h | ⟨rep, h⟩ <;> rw [h]
  · exact ⟨rfl, rfl⟩
  · exact ⟨pwr_claimEvent .., (wdog_of_outside (claimEvent_outside (by simp) ..)).trans rfl⟩

theorem conflictOf_displaceOpSet {s0 s : State} (hc : s.claims.conflict = true) (hv : s.claims.valid = true) (d : Desc) :
    conflictOf (displaceOpSet s0 s d) = conflictOf s := by
  rcases displaceOpSet_cases s0 s d with h | ⟨rep, h⟩ <;> rw [h]
  exact conflictOf_claimEvent_later (s := finishCopy d.ref .host rep s) hc hv ..

theorem flags_of_conflictOf {s t : State} (h : conflictOf t = conflictOf s) : t.claims.conflict = s.claims.conflict ∧ t.claims.valid = s.claims.valid := by
  simp only [conflictOf, Prod.mk.injEq] at h
  exact ⟨h.1, h.2.1⟩

theorem conflictOf_foldl_displaceOpSet {s0 s : State} (hc : s.claims.conflict = true) (hv : s.claims.valid = true) (l : List Desc) :
    conflictOf (l.foldl (displaceOpSet s0) s) = conflictOf s :=
  List.foldlRecOn (motive := fun t => conflictOf t = conflictOf s) l (displaceOpSet s0) rfl fun t ht d _ => by
    obtain ⟨htc, htv⟩ := flags_of_conflictOf ht
    exact (conflictOf_displaceOpSet (htc.trans hc) (htv.trans hv) d).trans ht

theorem stopWalk_kept (s0 s : State) (n : Nat) :
    (stopWalk s0 s n).claims = s.claims ∧ (stopWalk s0 s n).wdog = s.wdog ∧ pwrRest (stopWalk s0 s n) = pwrRest s := by
  rw [stopWalk]
  split <;> exact ⟨rfl, rfl, rfl⟩

theorem walking_stopWalk (s0 s : State) (m n : Nat) :
    (pwrDie (stopWalk s0 s m) n).walking = if n = m ∧ walkWaits s0 m = true then false else (pwrDie s n).walking := by
  rw [stopWalk]
  by_cases hw : walkWaits s0 m = true <;> by_cases hn : n = m
  · rw [if_pos hw, if_pos ⟨hn, hw⟩, hn, pwrDie_setPwrDie_same]
  · rw [if_pos hw, if_neg (fun h => hn h.1), pwrDie_setPwrDie_other _ _ hn]
  · rw [if_neg hw, if_neg (fun h => hw h.2)]
  · rw [if_neg hw, if_neg (fun h => hw h.2)]

theorem walking_foldl_stopWalk {s0 : State} {n : Nat} (hw : walkWaits s0 n = true) {ns : List Nat} (hn : n ∈ ns) (s : State) :
    (pwrDie (ns.foldl (stopWalk s0) s) n).walking = false := by
  obtain ⟨before, after, rfl⟩ := List.append_of_mem hn
  rw [List.foldl_append, List.foldl_cons]
  refine List.foldlRecOn (motive := fun t => (pwrDie t n).walking = false) after (stopWalk s0) ?_ fun t ht m _ => ?_
  · rw [walking_stopWalk, if_pos ⟨rfl, hw⟩]
  · rw [walking_stopWalk, ht, ite_self]

theorem timerDisplaced_spec {s : State} (hc : s.claims.conflict = true) (hv : s.claims.valid = true) :
    (timerDisplaced s).wdog = s.wdog ∧ (timerDisplaced s).pwr.seqEn = s.pwr.seqEn ∧ conflictOf (timerDisplaced s) = conflictOf s ∧
      ∀ n < 4, walkWaits s n = true → (pwrDie (timerDisplaced s) n).walking = false := by
  rw [timerDisplaced_eq]
  have hrest : pwrRest ((List.range 4).foldl (stopWalk s) (s.descs.foldl (displaceOpSet s) s)) = pwrRest s :=
    (pwrRest_foldl (fun u n => (stopWalk_kept s u n).2.2) ..).trans
      (eq_foldl_of_step (φ := pwrRest) (fun u d => by rw [pwrRest, (displaceOpSet_kept s u d).1, pwrRest]) ..)
  have hseq := congrArg Power.seqEn hrest
  refine ⟨?_, hseq, ?_, fun n hn hw => walking_foldl_stopWalk hw (List.mem_range.mpr hn) _⟩
  · exact (eq_foldl_of_step (φ := State.wdog) (fun u n => (stopWalk_kept s u n).2.1) ..).trans
      (eq_foldl_of_step (φ := State.wdog) (fun u d => (displaceOpSet_kept s u d).2) ..)
  · exact (eq_foldl_of_step (φ := conflictOf) (fun u n => by rw [conflictOf, (stopWalk_kept s u n).1, conflictOf]) ..).trans
      (conflictOf_foldl_displaceOpSet hc hv _)

theorem wdogTakes_spec (v : Word) (s : State) :
    (wdogTakes v s).wdog = { s.wdog with timeoutMs := BitVec.ofNat 8 (max 10 (bitsOf v.toNat 8 8)), en := true, restart := s.clk } ∧
      (wdogTakes v s).pwr = { s.pwr with seqEn := false } ∧ (wdogTakes v s).claims = s.claims ∧ ∀ n, walkWaits (wdogTakes v s) n = walkWaits s n :=
  ⟨rfl, rfl, rfl, fun _ => rfl⟩

theorem iodWdogWrite_displaces {v : Word} {s : State} (hv : v.getLsbD 0 = true) (hen : s.wdog.en = false) (hseq : s.pwr.seqEn = true) :
    (writeWdog v s).wdog = { s.wdog with timeoutMs := BitVec.ofNat 8 (max 10 (bitsOf v.toNat 8 8)), en := true, restart := s.clk } ∧
      (writeWdog v s).pwr.seqEn = false ∧ (writeWdog v s).claims.conflict = true ∧
      (s.claims.valid = false → (writeWdog v s).claims.resource = 1 ∧ (writeWdog v s).claims.kind = 1 ∧ (writeWdog v s).claims.claimant = 2 ∧
        (writeWdog v s).claims.holder = 1) ∧
      ∀ n < 4, (pwrDie s n).walking = true → (pwrDie s n).stepped = false → (pwrDie (writeWdog v s) n).walking = false := by
  rw [writeWdog_displaces hv hen hseq]
  obtain ⟨hwdog, hpwr, hclaims, hwaits⟩ := wdogTakes_spec v s
  obtain ⟨hc, hvalid⟩ := claimEvent_noted 1 1 2 1 (wdogTakes v s)
  obtain ⟨twdog, tseq, tconflict, twalk⟩ := timerDisplaced_spec hc hvalid
  have hpwr' : (claimEvent 1 1 2 1 (wdogTakes v s)).pwr = (wdogTakes v s).pwr := pwr_claimEvent ..
  refine ⟨?_, ?_, (flags_of_conflictOf tconflict).1.trans hc, fun hfirst => ?_, fun n hn hwalk hstep => twalk n hn ?_⟩
  · rw [twdog, wdog_of_outside (claimEvent_outside (by simp) ..), hwdog]
  · rw [tseq, hpwr', hpwr]
  · rw [conflictOf_claimEvent_first (by rw [hclaims, hfirst])] at tconflict
    simp only [conflictOf, Prod.mk.injEq] at tconflict
    exact tconflict.2.2
  · have hw : walkWaits (claimEvent 1 1 2 1 (wdogTakes v s)) n = walkWaits (wdogTakes v s) n := by
      rw [walkWaits, pwrDie, hpwr', ← pwrDie, walkWaits]
    rw [hw, hwaits, walkWaits, hwalk, hstep]
    rfl

end Sys2Proof.Machine
end

section
/-! PROOFS. Writes of POOL_RESV and of the registers by their access codes (R308, R380, R419, R488, R489). -/

namespace Sys2Proof.Machine

/-! ### The reserve of the pool -/

theorem poolResvWrite_eq {v : Word} {s : State} (hs : inService s = true) :
    exec (.poolResvWrite v) s = .next (writePoolResv v (writeLogged 0x130800 v.toNat s)) :=
  congrArg Host.Outcome.next (bar0Write_eq_writeLogged hs)

/-- A state with another reserve of the pool. -/
def withPool (x : Pool) (s : State) : State := { s with link := { s.link with pool := x } }

/-- R308: the claimant of the links gets the reserve. -/
def grantLinks (s : State) : State := withPool { s.link.pool with linksEn := true } s

/-- R308: the reserve with the blocks that POOL_RESV asks for, and those of its claims that stay. -/
def reserved (v : Word) (s : State) : Pool :=
  { s.link.pool with blocks := BitVec.ofNat 20 (bitsOf v.toNat 0 20), linksEn := s.link.pool.linksEn && v.getLsbD 20,
                     emberEn := s.link.pool.emberEn && v.getLsbD 21 }

theorem writePoolResv_refused {v : Word} {s : State} (h : s.ms.mode ≠ .kindling ∨ 393216 < 16384 + reserveSum s + bitsOf v.toNat 0 20) :
    writePoolResv v s = s := by
  refine if_pos ?_
  rw [Bool.or_eq_true]
  exact h.imp (fun hk => bne_iff_ne.mpr hk) (fun hmany => decide_eq_true hmany)

theorem writePoolResv_fits {v : Word} {s : State} (hk : s.ms.mode = .kindling) (hfit : 16384 + reserveSum s + bitsOf v.toNat 0 20 ≤ 393216) :
    writePoolResv v s =
      if v.getLsbD 21 && !(reserved v s).emberEn then claimHigh 3 (withPool { reserved v s with linksEn := v.getLsbD 20 } s)
      else if v.getLsbD 20 && !(reserved v s).linksEn then claimLow 3 grantLinks (withPool (reserved v s) s)
      else withPool (reserved v s) s := by
  have hno : (s.ms.mode != .kindling || decide (poolBlocks < windowBlocks + reserveSum s + bitsOf v.toNat 0 20)) = false := by
    rw [hk, decide_eq_false (show ¬ poolBlocks < windowBlocks + reserveSum s + bitsOf v.toNat 0 20 from Nat.not_lt.mpr hfit)]
    rfl
  exact if_neg (by rw [hno]; exact Bool.false_ne_true)

theorem reserved_eq {v : Word} {s : State} {links ember : Bool} (hl : (s.link.pool.linksEn && v.getLsbD 20) = links)
    (he : (s.link.pool.emberEn && v.getLsbD 21) = ember) :
    reserved v s = { s.link.pool with blocks := BitVec.ofNat 20 (bitsOf v.toNat 0 20), linksEn := links, emberEn := ember } := by
  rw [reserved, hl, he]

theorem claimHolder_withPool (x : Pool) (s : State) : claimHolder (withPool x s) 3 = if x.emberEn then 1 else if x.linksEn then 2 else 0 := rfl

theorem claimLow_links_free {x : Pool} (hx : x.emberEn = false) (s : State) :
    claimLow 3 grantLinks (withPool x s) = withPool { x with linksEn := true } s := by
  refine if_neg ?_
  rw [claimHolder_withPool, hx]
  cases x.linksEn <;> decide

theorem claimLow_links_held {x : Pool} (hx : x.emberEn = true) (s : State) :
    claimLow 3 grantLinks (withPool x s) = claimEvent 3 0 2 1 (withPool x s) := by
  refine if_pos ?_
  rw [claimHolder_withPool, hx, if_pos rfl]

theorem poolResvWrite_completes {v : Word} {s : State} (hs : inService s = true) :
    let s1 := writeLogged 0x130800 v.toNat s
    let b := bitsOf v.toNat 0 20
    (s1.ms.mode ≠ .kindling ∨ 393216 < 16384 + reserveSum s1 + b → Completes (.poolResvWrite v) s fun t => t = s1) ∧
    (s1.ms.mode = .kindling → 16384 + reserveSum s1 + b ≤ 393216 → v.getLsbD 20 = false → v.getLsbD 21 = false →
      Completes (.poolResvWrite v) s fun t =>
        t = { s1 with link := { s1.link with pool := { s1.link.pool with blocks := BitVec.ofNat 20 b, linksEn := false, emberEn := false } } }) ∧
    (s1.ms.mode = .kindling → 16384 + reserveSum s1 + b ≤ 393216 → v.getLsbD 20 = true → v.getLsbD 21 = false → s1.link.pool.linksEn = false →
      Completes (.poolResvWrite v) s fun t =>
        t = { s1 with link := { s1.link with pool := { s1.link.pool with blocks := BitVec.ofNat 20 b, linksEn := true, emberEn := false } } }) ∧
    (s1.ms.mode = .kindling → 16384 + reserveSum s1 + b ≤ 393216 → v.getLsbD 20 = true → v.getLsbD 21 = true → s1.link.pool.emberEn = true →
      s1.link.pool.linksEn = false →
      Completes (.poolResvWrite v) s fun t =>
        t = claimEvent 3 0 2 1 { s1 with link := { s1.link with pool := { s1.link.pool with blocks := BitVec.ofNat 20 b } } }) := by
  intro s1 b
  refine ⟨fun h => ⟨_, poolResvWrite_eq hs, writePoolResv_refused h⟩, fun hk hfit hl he => ⟨_, poolResvWrite_eq hs, ?_⟩,
    fun hk hfit hl he hfree => ⟨_, poolResvWrite_eq hs, ?_⟩, fun hk hfit hl he hember hfree => ⟨_, poolResvWrite_eq hs, ?_⟩⟩ <;>
    refine (writePoolResv_fits hk hfit).trans ?_
  · rw [reserved_eq (by rw [hl, Bool.and_false]) (by rw [he, Bool.and_false]), hl, he]
    rfl
  · rw [reserved_eq (by rw [hfree, Bool.false_and]) (by rw [he, Bool.and_false]), hl, he, claimLow_links_free rfl]
    rfl
  · have hpool : reserved v s1 = { s1.link.pool with blocks := BitVec.ofNat 20 b } := by
      rw [reserved_eq (links := s1.link.pool.linksEn) (ember := s1.link.pool.emberEn) (by rw [hfree, Bool.false_and]) (by rw [hember, he]; rfl)]
    rw [hpool, he, hl]
    refine (if_neg ?_).trans ((if_pos ?_).trans (claimLow_links_held (x := { s1.link.pool with blocks := BitVec.ofNat 20 b }) hember s1))
    · rw [hember]
      simp
    · rw [hfree]
      rfl

/-! ### Registers -/

theorem registerWrite_refused {off size : Nat} {v : DWord} {s : State} (h : inService s = false ∨ bar0Access off size = false) :
    exec (.registerWrite off size v) s = .next s := by
  refine congrArg Host.Outcome.next (if_pos ?_)
  rcases h with h | h <;> simp [h]

theorem registerWrite_four {off : Nat} {v : DWord} {s : State} (hs : inService s = true) (hok : bar0Access off 4 = true) :
    exec (.registerWrite off 4 v) s = .next (write4 off (v.setWidth 32) s) :=
  congrArg Host.Outcome.next ((if_neg (by simp [hs, hok])).trans (if_neg (by decide)))

theorem registerWrite_eight {off : Nat} {v : DWord} {s : State} (hs : inService s = true) (hok : bar0Access off 8 = true) :
    exec (.registerWrite off 8 v) s = .next (write8 off v s) :=
  congrArg Host.Outcome.next ((if_neg (by simp [hs, hok])).trans (if_pos rfl))

theorem write4_narrow {off : Nat} {v : Word} {r : Reg} {s : State} (hs : inService s = true) (hr : regAt s off = some r) (hn : r.wide = false) :
    write4 off v s = r.write (v.setWidth 64) (writeLogged off v.toNat s) := by
  rw [write4, hr]
  simp only [hn, Bool.false_eq_true, if_false]
  exact bar0Write_eq_writeLogged hs

theorem write4_none {off : Nat} {v : Word} {s : State} (hs : inService s = true) (hr : regAt s off = none) (hu : upperOf s off = none) :
    write4 off v s = writeLogged off v.toNat s := by
  rw [write4, hr, hu]
  exact bar0Write_eq_writeLogged hs

theorem write8_wide {off : Nat} {v : DWord} {r : Reg} {s : State} (hs : inService s = true) (hr : regAt s off = some r) (hw : r.wide = true) :
    write8 off v s = r.write v (writeLogged off v.toNat s) := by
  rw [write8, hr]
  simp only [hw, if_true]
  exact bar0Write_eq_writeLogged hs

theorem toNat_low (v : DWord) : (v.setWidth 32).toNat = v.toNat % 2 ^ 32 := BitVec.toNat_setWidth 32 v

theorem registerWrite_narrow {off : Nat} {v : DWord} {r : Reg} {s : State} (hs : inService s = true) (hok : bar0Access off 4 = true)
    (hr : regAt s off = some r) (hn : r.wide = false) :
    exec (.registerWrite off 4 v) s = .next (r.write ((v.setWidth 32).setWidth 64) (writeLogged off (v.toNat % 2 ^ 32) s)) := by
  rw [registerWrite_four hs hok, write4_narrow hs hr hn, toNat_low]

/-! ### PWR_CAP -/

theorem regAt_pwrCap (s : State) : regAt s 0x150000 = some (rw s.pwr.cap.toNat writePwrCap) := rfl

theorem bitsOf_thrice (v : DWord) : bitsOf (((v.setWidth 32).setWidth 64).setWidth 32).toNat 0 13 = v.toNat % 2 ^ 13 := by
  simp only [bitsOf, BitVec.toNat_setWidth, Nat.shiftRight_zero]
  omega

theorem writePwrCap_eq (w : Word) (s : State) :
    writePwrCap w s = { s with pwr := { s.pwr with cap := BitVec.ofNat 13 (
      if s.hw.variant = .m4 then min 3600 (max 1800 (bitsOf w.toNat 0 13)) else min 1900 (max 950 (bitsOf w.toNat 0 13))) } } := by
  rw [writePwrCap, isM4]
  by_cases h : s.hw.variant = .m4
  · rw [if_pos h, h]
    rfl
  · rw [if_neg h, beq_eq_false_iff_ne.mpr h]
    rfl

theorem pwrCap_written {v : DWord} {s : State} (hs : inService s = true) :
    let s1 := writeLogged 0x150000 (v.toNat % 2 ^ 32) s
    let watts := if s1.hw.variant = .m4 then min 3600 (max 1800 (v.toNat % 2 ^ 13)) else min 1900 (max 950 (v.toNat % 2 ^ 13))
    Completes (.registerWrite 0x150000 4 v) s fun t => t = { s1 with pwr := { s1.pwr with cap := BitVec.ofNat 13 watts } } := by
  intro s1 watts
  refine ⟨_, registerWrite_narrow hs rfl (regAt_pwrCap s) rfl, ?_⟩
  refine (writePwrCap_eq (((v.setWidth 32).setWidth 64).setWidth 32) s1).trans ?_
  rw [bitsOf_thrice]

/-- Settles O60: a write goes to its claim, its range or the register at its offset, and to the log. -/
theorem registerWritesComplete : Obligations.RegisterWritesComplete := by
  unfold Obligations.RegisterWritesComplete
  refine ⟨fun v s hs => ⟨fun hv => ⟨_, iodGpioWrite_eq hs, ?_⟩, fun hv hfree => ⟨_, iodGpioWrite_eq hs, writeGpio_on hv hfree⟩,
    fun hv hoe hheld => ⟨_, iodGpioWrite_eq hs, writeGpio_refused hv hoe hheld⟩⟩,
    fun v s hs => ⟨fun hv => ⟨_, iodWdogWrite_eq hs, writeWdog_off hv _⟩, fun hv hen => ⟨_, iodWdogWrite_eq hs, writeWdog_running hv hen⟩,
      fun hv hen hseq => ⟨_, iodWdogWrite_eq hs, writeWdog_free hv hen hseq⟩,
      fun hv hen hseq => ⟨_, iodWdogWrite_eq hs, ?_⟩⟩,
    fun v s hs => poolResvWrite_completes hs, fun w off size s hs hbad => ⟨_, congrArg Host.Outcome.next (if_pos (by simp [hs, hbad])), rfl⟩,
    fun off size v s h => ⟨_, registerWrite_refused h, rfl⟩, fun off v r s hs hok hr hn => ⟨_, registerWrite_narrow hs hok hr hn, rfl⟩,
    fun off v r s hs hok hr hw => ⟨_, registerWrite_eight hs hok, write8_wide hs hr hw⟩,
    fun off v s hs hok hr hu => ⟨_, registerWrite_four hs hok, ?_⟩, fun off v n s hs hok hr => ⟨_, registerWrite_narrow hs hok hr rfl, rfl⟩,
    fun v s hs => pwrCap_written hs⟩
  · beta_reduce
    rw [writeGpio_eq, hv]
    rfl
  · exact iodWdogWrite_displaces (s := writeLogged 0x30 v.toNat s) hv hen hseq
  · beta_reduce
    rw [write4_none hs hr hu, toNat_low]

end Sys2Proof.Machine
end

section
/-! PROOFS. A copy that runs although it has reported already (R40, R129, R201). -/

namespace Sys2Proof.Machine

/-- A descriptor of an opcode whose one copy, on core 0 of CD0, runs and has reported. -/
def reportedDesc (opcode : Nat) : Desc :=
  { ref := ⟨0, 0⟩, bytes := recordOf [(0, 1, opcode)], ctx := 0, prio := 0, dispatched := true, order := 0,
    copies := [{ target := .core 0 0, st := .running, stage := 0, since := 0, report := some (Report.of 0 0) }],
    start := some 0, lateness := 0, outcome := none, detailAll := none, collided := false, deps := 0, waiting := none, replayed := false,
    pair := none }

/-- A module in Full service that holds only that descriptor. -/
def heldState (opcode : Nat) : State := { State.reset with ms := { ModState.reset with mode := .full }, descs := [reportedDesc opcode] }

/-- A work is made for the copies that have not reported, so that this one has none. -/
theorem plansMade_reported (opcode : Nat) (pl : Planner) : plansMade pl (heldState opcode) (reportedDesc opcode) = [] := rfl

/-- The copies that the descriptor is left with. -/
def copiesLeft (opcode : Nat) (s : State) : Option (List (Target × CopyState)) :=
  (findDesc s (reportedDesc opcode).ref).map fun y => y.copies.map fun c => (c.target, c.st)

/-- The copy that still runs is not one that ran. -/
theorem not_ranDone_reported {opcode : Nat} {t : State} (h : copiesLeft opcode t = some [(.core 0 0, .running)]) :
    ¬ RanDone t (reportedDesc opcode) 0 isOk := by
  rintro ⟨y, hy, hdone, -⟩
  rw [copiesLeft, hy, Option.map_some, Option.some_inj] at h
  obtain ⟨c, hc, heq⟩ := List.map_eq_singleton_iff.mp h
  obtain ⟨htarget, hst⟩ := Prod.mk.inj heq
  have hran := (hdone c (by rw [hc]; exact List.mem_singleton.mpr rfl) (by rw [htarget]; rfl)).1
  rw [hst] at hran
  cases hran

theorem chainTensor_reported : ∀ t, execChainTensor (reportedDesc 0x18).ref (heldState 0x18) = .next t →
    copiesLeft 0x18 t = some [(.core 0 0, .running)] := by
  intro t ht
  cases ht
  decide +kernel

theorem copy_reported : ∀ t, execCopy (reportedDesc 0x22).ref (heldState 0x22) = .next t →
    copiesLeft 0x22 t = some [(.core 0 0, .running)] := by
  intro t ht
  cases ht
  decide +kernel

/-- Refutes O18: a CHAIN's copy that has reported gets no work, so that where it runs it goes on running. -/
theorem not_vectorCommandsComplete : ¬ Obligations.VectorCommandsComplete := by
  unfold Obligations.VectorCommandsComplete
  rintro ⟨htensor, -⟩
  obtain ⟨t, ht, -, -, -, hran⟩ := htensor (reportedDesc 0x18).ref (reportedDesc 0x18) (heldState 0x18) ⟨rfl, by decide, by decide⟩ (by decide)
    rfl rfl rfl (by rw [plansMade_reported]; rfl)
  exact not_ranDone_reported (chainTensor_reported t ht) hran

/-- Refutes O20: a COPY's copy that has reported gets no work, so that where it runs it goes on running. -/
theorem not_movesComplete : ¬ Obligations.MovesComplete := by
  unfold Obligations.MovesComplete
  intro h
  obtain ⟨t, ht, -, -, -, -, hran⟩ := h .copy (.copy (reportedDesc 0x22).ref) copyPlan (reportedDesc 0x22).ref (reportedDesc 0x22) (heldState 0x22)
    (.inl ⟨rfl, rfl, rfl⟩) ⟨rfl, by decide, by decide⟩ rfl rfl rfl (by rw [plansMade_reported]; rfl)
  exact not_ranDone_reported (copy_reported t ht) (hran (.inl rfl))

end Sys2Proof.Machine
end
